-- ==== Sys2Proof/Word.lean ====
section
/-! DEFINITION. The word types of the LX9 and the plain finite maps that State is made of. -/

namespace Sys2Proof

abbrev Byte := BitVec 8
abbrev W32 := BitVec 32
abbrev W64 := BitVec 64

/-- A value as the operand log holds it: up to four 32-bit registers, zero-extended (R469). -/
abbrev Val := BitVec 128

/-- A finite map as a list of (key, value) pairs, keys strictly rising. -/
abbrev Map (α : Type) := List (Nat × α)

/-- The value at a key, if the map lists it. -/
def Map.get? {α : Type} : Map α → Nat → Option α
  | [], _ => none
  | (k, v) :: r, n => if k = n then some v else Map.get? r n

/-- The value at a key, or a default. -/
def Map.getD {α : Type} (m : Map α) (n : Nat) (d : α) : α :=
  match Map.get? m n with
  | some v => v
  | none => d

/-- The map with the key set to the value. -/
def Map.set {α : Type} : Map α → Nat → α → Map α
  | [], n, v => [(n, v)]
  | (k, w) :: r, n, v =>
    if n < k then (n, v) :: (k, w) :: r
    else if k = n then (n, v) :: r
    else (k, w) :: Map.set r n v

/-- The map without the key. -/
def Map.erase {α : Type} : Map α → Nat → Map α
  | [], _ => []
  | (k, w) :: r, n => if k = n then r else (k, w) :: Map.erase r n

/-- The map with a function applied at a listed key; a key that is not listed changes nothing. -/
def Map.modify {α : Type} (m : Map α) (n : Nat) (f : α → α) : Map α :=
  match Map.get? m n with
  | some v => Map.set m n (f v)
  | none => m

/-- Keys strictly rising. -/
def Map.sorted {α : Type} : Map α → Bool
  | [] => true
  | [_] => true
  | (k, _) :: (k', v') :: r => decide (k < k') && Map.sorted ((k', v') :: r)

/-- Bits [m:l] of a natural number as an unsigned value (R13). -/
def bits (x m l : Nat) : Nat := (x >>> l) % 2 ^ (m + 1 - l)

/-- Bit n of a natural number. -/
def bit (x n : Nat) : Bool := (x >>> n) % 2 == 1

/-- The two's complement value of the low n bits of x. -/
def toSigned (x n : Nat) : Int :=
  let y := x % 2 ^ n
  if 2 * y < 2 ^ n then (y : Int) else (y : Int) - (2 ^ n : Nat)

/-- An integer reduced modulo 2^n. -/
def wrapInt (z : Int) (n : Nat) : Nat := (z % ((2 ^ n : Nat) : Int)).toNat

end Sys2Proof
end

