-- ==== Sys2Proof/Syntax.lean ====
section
/-! DEFINITION. The syntax of Mbawe and of the module's other steps: one constructor of Instr per row of spec/opcode_table.json. -/

namespace Sys2Proof

/-- An operand field of a short form (R164): a register, or a channel with its bit 6 (pop in a source; a misuse in D). -/
inductive Operand where
  | reg (n : BitVec 7)
  | chan (n6 : Bool) (n : BitVec 6)
  deriving DecidableEq, Repr

/-- A source of an extended lane form (R164, R166): register, channel, indexed register, broadcast s register, immediate. -/
inductive LSrc where
  | reg (n : BitVec 7)
  | chan (pop : Bool) (n : BitVec 6)
  | idx (x : BitVec 2) (off : BitVec 6)
  | uni (n : BitVec 7)
  | imm (v : BitVec 16)
  deriving DecidableEq, Repr

/-- A destination of an extended lane form (R164, R166). -/
inductive LDst where
  | reg (n : BitVec 7)
  | chan (n6 : Bool) (n : BitVec 6)
  | idx (x : BitVec 2) (off : BitVec 6)
  deriving DecidableEq, Repr

/-- A lane register named directly or by an index register (R117, R177). -/
inductive VReg where
  | reg (n : BitVec 7)
  | idx (x : BitVec 2) (off : BitVec 6)
  deriving DecidableEq, Repr

/-- A uniform source that the extension word may make an immediate of 15 bits (R171, R367). -/
inductive USrc where
  | reg (n : BitVec 7)
  | chan (pop : Bool) (n : BitVec 6)
  | imm (v : BitVec 15)
  deriving DecidableEq, Repr

/-- PSEL and PSENSE (R168). -/
structure Guard where
  sel : BitVec 3
  sense : Bool
  deriving DecidableEq, Repr

/-- The address spaces a memory operand names (R177). -/
inductive Space where
  | glob
  | layer
  | team
  deriving DecidableEq, Repr

/-- The extended lane arithmetic form, class LX and the lane XF twin (R166). A field that an instruction does not use,
or that names a predicate, is a reg with that value. tab is IMMLO where BIMM = 0. -/
structure LX where
  d : LDst
  a : LSrc
  b : LSrc
  c : LSrc
  guard : Guard
  mod : BitVec 4
  reuse : BitVec 3
  tab : BitVec 8
  deriving DecidableEq, Repr

/-- The conversion form, class LC (R174). -/
structure LC where
  d : VReg
  a : VReg
  src : BitVec 8
  dst : BitVec 8
  guard : Guard
  mod : BitVec 4
  reuse : Bool
  deriving DecidableEq, Repr

/-- The lane memory form, class LM (R177). -/
structure LM where
  d : VReg
  a : BitVec 7
  b : BitVec 7
  c : VReg
  guard : Guard
  hint : BitVec 2
  order : BitVec 2
  space : Space
  au : Bool
  idx : Bool
  off : BitVec 10
  deriving DecidableEq, Repr

/-- The atomic form (R206). -/
structure LA where
  d : BitVec 7
  a : BitVec 7
  b : BitVec 7
  guard : Guard
  hint : BitVec 2
  order : BitVec 2
  space : Space
  au : Bool
  width : BitVec 2
  scope : BitVec 3
  off : BitVec 8
  deriving DecidableEq, Repr

/-- The uniform memory form, class UM (R178): r is D of a load, C of a store. -/
structure UM where
  r : BitVec 7
  a : BitVec 7
  guard : Guard
  hint : BitVec 2
  space : Space
  off : BitVec 16
  deriving DecidableEq, Repr

/-- The short lane opcodes, which the lane XF twin names in C (R171, R175). -/
inductive LaneOp where
  | faddF32
  | fsubF32
  | fmulF32
  | fminF32
  | fmaxF32
  | fdivF32
  | fsqrtF32
  | daddF64
  | dsubF64
  | dmulF64
  | dminF64
  | dmaxF64
  | ddivF64
  | dsqrtF64
  | hadd2F16
  | hmul2F16
  | hmin2F16
  | hmax2F16
  | hadd2Bf16
  | hmul2Bf16
  | hmin2Bf16
  | hmax2Bf16
  | iaddS32
  | isubS32
  | imulS32
  | imulhiS32
  | imulhiN32
  | iminS32
  | iminN32
  | imaxS32
  | imaxN32
  | iaddS64
  | isubS64
  | qaddS32
  | qsubS32
  | iabsS32
  | inegS32
  | andB32
  | orB32
  | xorB32
  | notB32
  | shlB32
  | shrN32
  | shrS32
  | rotB32
  | popcB32
  | clzB32
  | brevB32
  | movB32
  | movB64
  | lidB32
  | xset
  | xget
  | frcpF32
  | frsqF32
  | fex2F32
  | flg2F32
  | fsinF32
  | fcosF32
  | lnrdB32
  | lnrdxB32
  deriving DecidableEq, Repr

/-- The short uniform opcodes, which the uniform XF twin names in C (R171, R176). -/
inductive UniOp where
  | nop
  | saddB64
  | ssubB64
  | smulB64
  | smulhiS64
  | smulhiN64
  | sminS64
  | sminN64
  | smaxS64
  | smaxN64
  | sandB64
  | sorB64
  | sxorB64
  | snotB64
  | sshlB64
  | sshrN64
  | sshrS64
  | smovB64
  | spopcB64
  | sclzB64
  | bra
  | call
  | ret
  | exit
  | yield
  | brx
  | wait
  | mparr
  | mpwait
  | mpinit
  | trap
  | tret
  | sysrd
  | syswr
  | repack
  | ilock
  | iunlock
  | genkey
  | pwrhint
  | fence
  | acq
  | rel
  | spawn
  | twait
  | steal
  | tileret
  | tilecur
  | tinfo
  | mfree
  | mzero
  deriving DecidableEq, Repr

/-- The host's answer to a translation request (R67). size is the page size as a power of two. -/
inductive AtsReply where
  | page (size hpa : Nat) (r w x : Bool)
  | untranslated
  | refused
  deriving DecidableEq, Repr

/-- The host's answer to a page request (R70). -/
inductive PriReply where
  | success
  | invalid
  | failure
  deriving DecidableEq, Repr

/-- The operands of a host command (R508). -/
structure Command where
  tag : Nat
  ctx : Nat
  arg0 : W64
  arg1 : W64
  arg2 : W64
  deriving DecidableEq, Repr

/-- The functions that bring-up makes ready one by one (R542, R543). -/
inductive BringUp where
  | linkModule (die link m : Nat)
  | dram (die dev : Nat)
  | slice (die k : Nat)
  | quad (die q : Nat)
  | flash
  | mgmt
  deriving DecidableEq, Repr

/-- One constructor for each row of spec/opcode_table.json: the instruction words of both sets, then the steps the
module and the host take without a word of their own (R11, chapter 95). -/
inductive Instr where
  /-- FADD_F32 (R220): Adds two FP32 operands per active lane with one rounding. -/
  | faddF32 (d a b : Operand)
  /-- FSUB_F32 (R220): Subtracts FP32 operands per active lane with one rounding. -/
  | fsubF32 (d a b : Operand)
  /-- FMUL_F32 (R220): Multiplies FP32 operands per active lane with one rounding. -/
  | fmulF32 (d a b : Operand)
  /-- FMIN_F32 (R222): Writes the smaller of two FP32 operands, NaN-avoiding, without rounding. -/
  | fminF32 (d a b : Operand)
  /-- FMAX_F32 (R222): Writes the larger of two FP32 operands, NaN-avoiding, without rounding. -/
  | fmaxF32 (d a b : Operand)
  /-- FDIV_F32 (R220): Divides FP32 operands per active lane with one rounding. -/
  | fdivF32 (d a b : Operand)
  /-- FSQRT_F32 (R220): Takes the FP32 square root of operand B per active lane. -/
  | fsqrtF32 (d b : Operand)
  /-- DADD_F64 (R220): Adds FP64 register pairs per active lane with one rounding. -/
  | daddF64 (d a b : Operand)
  /-- DSUB_F64 (R220): Subtracts FP64 register pairs per active lane. -/
  | dsubF64 (d a b : Operand)
  /-- DMUL_F64 (R220): Multiplies FP64 register pairs per active lane. -/
  | dmulF64 (d a b : Operand)
  /-- DMIN_F64 (R222): Writes the smaller of two FP64 operands without rounding. -/
  | dminF64 (d a b : Operand)
  /-- DMAX_F64 (R222): Writes the larger of two FP64 operands without rounding. -/
  | dmaxF64 (d a b : Operand)
  /-- DDIV_F64 (R220): Divides FP64 register pairs per active lane. -/
  | ddivF64 (d a b : Operand)
  /-- DSQRT_F64 (R220): Takes the FP64 square root of operand B per active lane. -/
  | dsqrtF64 (d b : Operand)
  /-- HADD2_F16 (R223): Adds two packed FP16 elements per lane. -/
  | hadd2F16 (d a b : Operand)
  /-- HMUL2_F16 (R223): Multiplies two packed FP16 elements per lane. -/
  | hmul2F16 (d a b : Operand)
  /-- HMIN2_F16 (R223): Packed FP16 minimum per element. -/
  | hmin2F16 (d a b : Operand)
  /-- HMAX2_F16 (R223): Packed FP16 maximum per element. -/
  | hmax2F16 (d a b : Operand)
  /-- HADD2_BF16 (R223): Adds two packed BF16 elements per lane. -/
  | hadd2Bf16 (d a b : Operand)
  /-- HMUL2_BF16 (R223): Multiplies two packed BF16 elements per lane. -/
  | hmul2Bf16 (d a b : Operand)
  /-- HMIN2_BF16 (R223): Packed BF16 minimum per element. -/
  | hmin2Bf16 (d a b : Operand)
  /-- HMAX2_BF16 (R223): Packed BF16 maximum per element. -/
  | hmax2Bf16 (d a b : Operand)
  /-- IADD_S32 (R227): 32-bit wrapping integer add per lane. -/
  | iaddS32 (d a b : Operand)
  /-- ISUB_S32 (R227): 32-bit wrapping integer subtract per lane. -/
  | isubS32 (d a b : Operand)
  /-- IMUL_S32 (R227): Low 32 bits of the integer product per lane. -/
  | imulS32 (d a b : Operand)
  /-- IMULHI_S32 (R227): High 32 bits of the signed 64-bit product per lane. -/
  | imulhiS32 (d a b : Operand)
  /-- IMULHI_N32 (R227): High 32 bits of the unsigned 64-bit product per lane. -/
  | imulhiN32 (d a b : Operand)
  /-- IMIN_S32 (R227): Signed 32-bit minimum per lane. -/
  | iminS32 (d a b : Operand)
  /-- IMIN_N32 (R227): Unsigned 32-bit minimum per lane. -/
  | iminN32 (d a b : Operand)
  /-- IMAX_S32 (R227): Signed 32-bit maximum per lane. -/
  | imaxS32 (d a b : Operand)
  /-- IMAX_N32 (R227): Unsigned 32-bit maximum per lane. -/
  | imaxN32 (d a b : Operand)
  /-- IADD_S64 (R227): 64-bit wrapping add of register pairs per lane. -/
  | iaddS64 (d a b : Operand)
  /-- ISUB_S64 (R227): 64-bit wrapping subtract of register pairs per lane. -/
  | isubS64 (d a b : Operand)
  /-- QADD_S32 (R227): Saturating signed 32-bit add, setting SAT when clamped. -/
  | qaddS32 (d a b : Operand)
  /-- QSUB_S32 (R227): Saturating signed 32-bit subtract, setting SAT when clamped. -/
  | qsubS32 (d a b : Operand)
  /-- IABS_S32 (R227): Wrapping absolute value of operand B per lane. -/
  | iabsS32 (d b : Operand)
  /-- INEG_S32 (R227): Wrapping negation of operand B per lane. -/
  | inegS32 (d b : Operand)
  /-- AND_B32 (R228): Bitwise AND per lane. -/
  | andB32 (d a b : Operand)
  /-- OR_B32 (R228): Bitwise OR per lane. -/
  | orB32 (d a b : Operand)
  /-- XOR_B32 (R228): Bitwise XOR per lane. -/
  | xorB32 (d a b : Operand)
  /-- NOT_B32 (R228): Bitwise NOT of operand B per lane. -/
  | notB32 (d b : Operand)
  /-- SHL_B32 (R228): Logical left shift per lane, 0 for counts of 32 or more. -/
  | shlB32 (d a b : Operand)
  /-- SHR_N32 (R228): Logical right shift per lane. -/
  | shrN32 (d a b : Operand)
  /-- SHR_S32 (R228): Arithmetic right shift per lane. -/
  | shrS32 (d a b : Operand)
  /-- ROT_B32 (R228): Rotate left by count mod 32 per lane. -/
  | rotB32 (d a b : Operand)
  /-- POPC_B32 (R228): Counts the set bits of operand B per lane. -/
  | popcB32 (d b : Operand)
  /-- CLZ_B32 (R228): Counts leading zeros of operand B per lane. -/
  | clzB32 (d b : Operand)
  /-- BREV_B32 (R228): Reverses the bits of operand B per lane. -/
  | brevB32 (d b : Operand)
  /-- MOV_B32 (R232): Copies a 32-bit operand into each active lane's destination. -/
  | movB32 (d b : Operand)
  /-- MOV_B64 (R232): Copies a 64-bit operand into each active lane's register pair. -/
  | movB64 (d b : Operand)
  /-- LID_B32 (R234): Writes each active lane's lane number. -/
  | lidB32 (d : Operand)
  /-- XSET (R235): Writes an index register of each active lane, checking its reserved fields. -/
  | xset (x : BitVec 2) (b : Operand)
  /-- XGET (R235): Reads an index register of each active lane into a lane register. -/
  | xget (d : Operand) (x : BitVec 2)
  /-- FRCP_F32 (R224): Correctly rounded reciprocal per lane. -/
  | frcpF32 (d b : Operand)
  /-- FRSQ_F32 (R224): Correctly rounded reciprocal square root per lane. -/
  | frsqF32 (d b : Operand)
  /-- FEX2_F32 (R224): Correctly rounded 2 to the power b per lane. -/
  | fex2F32 (d b : Operand)
  /-- FLG2_F32 (R224): Correctly rounded log2 per lane. -/
  | flg2F32 (d b : Operand)
  /-- FSIN_F32 (R224): Correctly rounded sine of pi times b per lane. -/
  | fsinF32 (d b : Operand)
  /-- FCOS_F32 (R224): Correctly rounded cosine of pi times b per lane. -/
  | fcosF32 (d b : Operand)
  /-- LNRD_B32 (R242): Each active lane reads a value from the lane its operand names. -/
  | lnrdB32 (d a b : Operand)
  /-- LNRDX_B32 (R242): Each active lane reads a value from its lane number XOR the operand. -/
  | lnrdxB32 (d a b : Operand)
  /-- FMA_F32 (R220): FP32 fused multiply-add with one rounding per lane. -/
  | fmaF32 (f : LX)
  /-- FMA_F64 (R220): FP64 fused multiply-add with one rounding per lane. -/
  | fmaF64 (f : LX)
  /-- HFMA2_F16 (R223): Packed FP16 fused multiply-add per element. -/
  | hfma2F16 (f : LX)
  /-- HFMA2_BF16 (R223): Packed BF16 fused multiply-add per element. -/
  | hfma2Bf16 (f : LX)
  /-- IMAD_S32 (R227): 32-bit wrapping multiply-add per lane. -/
  | imadS32 (f : LX)
  /-- IMAD_S64 (R227): Signed 32x32 product added to a 64-bit pair per lane. -/
  | imadS64 (f : LX)
  /-- SEL_B32 (R238): Selects A or B per lane by a predicate. -/
  | selB32 (f : LX)
  /-- BOOL3_B32 (R229): Three-input bitwise function from an 8-bit table per lane. -/
  | bool3B32 (f : LX)
  /-- FCMP_F32 (R236): FP32 compare writing a combined predicate per lane. -/
  | fcmpF32 (f : LX)
  /-- DCMP_F64 (R236): FP64 compare writing a combined predicate per lane. -/
  | dcmpF64 (f : LX)
  /-- FCLASS_F32 (R226): Writes a one-hot class mask of an FP32 value per lane. -/
  | fclassF32 (f : LX)
  /-- MRD (R274): Reads accumulator words into lane registers after earlier matrix writes. -/
  | mrd (d a : BitVec 7) (acc : BitVec 8) (g : Guard)
  /-- ICMP_S32 (R236): Signed 32-bit compare writing a predicate per lane. -/
  | icmpS32 (f : LX)
  /-- ICMP_N32 (R236): Unsigned 32-bit compare writing a predicate per lane. -/
  | icmpN32 (f : LX)
  /-- ICMP_S64 (R236): Signed 64-bit compare writing a predicate per lane. -/
  | icmpS64 (f : LX)
  /-- ICMP_N64 (R236): Unsigned 64-bit compare writing a predicate per lane. -/
  | icmpN64 (f : LX)
  /-- CVT (R239): Converts one element between formats per lane with one rounding. -/
  | cvt (f : LC)
  /-- CVTPK (R240): Converts packed elements between formats per lane. -/
  | cvtpk (f : LC)
  /-- FRND_F32 (R225): Rounds an FP32 value to an integral value under the mode. -/
  | frndF32 (f : LX)
  /-- BSEL_B32 (R230): Byte select with fill and zero per lane. -/
  | bselB32 (f : LX)
  /-- BFE_B32 (R231): Extracts a bit field per lane. -/
  | bfeB32 (f : LX)
  /-- BFI_B32 (R231): Inserts a bit field per lane. -/
  | bfiB32 (f : LX)
  /-- DOT4_S8 (R227): Four-way signed byte dot product added to C per lane. -/
  | dot4S8 (f : LX)
  /-- MOVI (R233): Writes a 32-bit immediate to every active lane. -/
  | movi (d : BitVec 7) (imm : W32) (g : Guard)
  /-- AGREE (R243): Writes the every, some or same vote of a predicate over the run. -/
  | agree (pd pa : BitVec 3) (neg : Bool) (kind : BitVec 2) (g : Guard)
  /-- LMASK (R244): Writes the mask of active lanes whose predicate holds. -/
  | lmask (d : BitVec 7) (pa : BitVec 3) (neg : Bool) (g : Guard)
  /-- RSUM_F32 (R245): FP32 sum of active lanes by the fixed tree. -/
  | rsumF32 (f : LX)
  /-- RMIN_F32 (R245): FP32 minimum of active lanes by the fixed tree. -/
  | rminF32 (f : LX)
  /-- RMAX_F32 (R245): FP32 maximum of active lanes by the fixed tree. -/
  | rmaxF32 (f : LX)
  /-- RSUM_S32 (R245): Wrapping 32-bit integer sum over active lanes. -/
  | rsumS32 (f : LX)
  /-- RMIN_S32 (R245): Signed minimum over active lanes. -/
  | rminS32 (f : LX)
  /-- RMAX_S32 (R245): Signed maximum over active lanes. -/
  | rmaxS32 (f : LX)
  /-- LD_B8 (R194): Issues a zero-extending byte load for each active lane. -/
  | ldB8 (f : LM)
  /-- LD_S8 (R194): Issues a sign-extending byte load for each active lane. -/
  | ldS8 (f : LM)
  /-- LD_B16 (R194): Issues a zero-extending halfword load for each active lane. -/
  | ldB16 (f : LM)
  /-- LD_S16 (R194): Issues a sign-extending halfword load for each active lane. -/
  | ldS16 (f : LM)
  /-- LD_B32 (R194): Issues a word load for each active lane. -/
  | ldB32 (f : LM)
  /-- LD_B64 (R194): Issues an 8-byte load into a register pair for each active lane. -/
  | ldB64 (f : LM)
  /-- LD_B128 (R194): Issues a 16-byte load into four registers for each active lane. -/
  | ldB128 (f : LM)
  /-- ST_B8 (R194): Stores one byte per active non-helper lane into the store buffer. -/
  | stB8 (f : LM)
  /-- ST_B16 (R194): Stores a halfword per active non-helper lane. -/
  | stB16 (f : LM)
  /-- ST_B32 (R194): Stores a word per active non-helper lane. -/
  | stB32 (f : LM)
  /-- ST_B64 (R194): Stores 8 bytes per active non-helper lane. -/
  | stB64 (f : LM)
  /-- ST_B128 (R194): Stores 16 bytes per active non-helper lane. -/
  | stB128 (f : LM)
  /-- ATOM (R208): Issues an indivisible read-modify-write per active non-helper lane. -/
  | atom (op : BitVec 4) (f : LA)
  /-- CAS (R208): Issues an indivisible compare-and-swap per active non-helper lane. -/
  | cas (c : BitVec 7) (f : LA)
  /-- XADD (R211): Issues exact FP32 additions to XACC cells, optionally as a release. -/
  | xadd (f : LM)
  /-- XRD (R212): Reads XACC cells whole and converts them to FP32 or FP64. -/
  | xrd (f : LM) (f64 : Bool) (rm : BitVec 3)
  /-- TEX (R216): Captures a texture header and samples the texture per lane. -/
  | tex (d a b : BitVec 7) (bu : Bool) (c : BitVec 7) (hint : BitVec 2) (g : Guard)
  /-- TRACE (R294): Starts a new traversal query per active lane and runs its walk. -/
  | trace (d a root : BitVec 7) (rmask : BitVec 8) (flags : BitVec 5) (hint : BitVec 2) (g : Guard)
  /-- TRNEXT (R288): Discards the pending candidate and continues the walk. -/
  | trnext (d : BitVec 7) (g : Guard)
  /-- TRACCEPT (R288): Commits the pending candidate and continues or ends the walk. -/
  | traccept (d : BitVec 7) (g : Guard)
  /-- TRHIT (R288): Ends the query with its committed hit. -/
  | trhit (d : BitVec 7) (g : Guard)
  /-- CAMRAY (R298): Checks the camera descriptor address and requests the descriptor for camera ray generation. -/
  | camray (d tile desc : BitVec 7) (jit : Bool) (hint : BitVec 2) (g : Guard)
  /-- RESUP (R302): Streams one candidate into each lane's reservoir with one draw. -/
  | resup (w : BitVec 3) (a b c : BitVec 7) (g : Guard)
  /-- RESMG (R303): Merges one reservoir into another with one draw. -/
  | resmg (wd wa : BitVec 3) (c : BitVec 7) (g : Guard)
  /-- RESFIN (R304): Caps and finalises a reservoir into a weight. -/
  | resfin (d : BitVec 7) (w : BitVec 3) (cap : BitVec 16) (g : Guard)
  /-- RESLD (R306): Loads a 24-byte reservoir per lane. -/
  | resld (w : BitVec 3) (f : LM)
  /-- RESST (R306): Stores a 24-byte reservoir per non-helper lane. -/
  | resst (w : BitVec 3) (f : LM)
  /-- RESGET (R305): Copies reservoir fields into lane registers. -/
  | resget (d : BitVec 7) (w : BitVec 3) (field : BitVec 3) (g : Guard)
  /-- RESSET (R305): Copies lane registers into reservoir fields. -/
  | resset (w : BitVec 3) (a : BitVec 7) (field : BitVec 3) (g : Guard)
  /-- RESCLR (R305): Clears every field of a reservoir register. -/
  | resclr (w : BitVec 3) (g : Guard)
  /-- DRAW_B32 (R300): Writes the next draw of each active lane's generator. -/
  | drawB32 (d : BitVec 7) (g : Guard)
  /-- LANE_XF (R171): Extended twin of a lane short instruction adding guard, mode and extra operands. -/
  | laneXf (op : LaneOp) (f : LX)
  /-- NOP (R381): Moves the run to the next instruction. -/
  | nop
  /-- SADD_B64 (R365): 64-bit uniform add. -/
  | saddB64 (d a b : Operand)
  /-- SSUB_B64 (R365): 64-bit uniform subtract. -/
  | ssubB64 (d a b : Operand)
  /-- SMUL_B64 (R365): Low 64 bits of the uniform product. -/
  | smulB64 (d a b : Operand)
  /-- SMULHI_S64 (R365): High 64 bits of the signed 128-bit product. -/
  | smulhiS64 (d a b : Operand)
  /-- SMULHI_N64 (R365): High 64 bits of the unsigned 128-bit product. -/
  | smulhiN64 (d a b : Operand)
  /-- SMIN_S64 (R365): Signed 64-bit minimum. -/
  | sminS64 (d a b : Operand)
  /-- SMIN_N64 (R365): Unsigned 64-bit minimum. -/
  | sminN64 (d a b : Operand)
  /-- SMAX_S64 (R365): Signed 64-bit maximum. -/
  | smaxS64 (d a b : Operand)
  /-- SMAX_N64 (R365): Unsigned 64-bit maximum. -/
  | smaxN64 (d a b : Operand)
  /-- SAND_B64 (R365): Uniform bitwise AND. -/
  | sandB64 (d a b : Operand)
  /-- SOR_B64 (R365): Uniform bitwise OR. -/
  | sorB64 (d a b : Operand)
  /-- SXOR_B64 (R365): Uniform bitwise XOR. -/
  | sxorB64 (d a b : Operand)
  /-- SNOT_B64 (R365): Uniform bitwise NOT of B. -/
  | snotB64 (d b : Operand)
  /-- SSHL_B64 (R365): Uniform left shift. -/
  | sshlB64 (d a b : Operand)
  /-- SSHR_N64 (R365): Uniform logical right shift. -/
  | sshrN64 (d a b : Operand)
  /-- SSHR_S64 (R365): Uniform arithmetic right shift. -/
  | sshrS64 (d a b : Operand)
  /-- SMOV_B64 (R365): Uniform move, including channel pushes and pops. -/
  | smovB64 (d b : Operand)
  /-- SPOPC_B64 (R365): Counts set bits of a uniform value. -/
  | spopcB64 (d b : Operand)
  /-- SCLZ_B64 (R365): Counts leading zeros of a uniform value. -/
  | sclzB64 (d b : Operand)
  /-- BRA (R375): Moves the taking lanes to a relative target. -/
  | bra (off : BitVec 24)
  /-- CALL (R376): Moves taking lanes to a relative target and writes each lane's link pair. -/
  | call (off : BitVec 24)
  /-- RET (R377): Moves each taking lane to its own link pair address. -/
  | ret
  /-- EXIT (R378): Ends the taking lanes, and begins group exit when none remains. -/
  | exit
  /-- EXIT_HELP (R379): Turns the taking lanes into helper lanes. -/
  | exitHelp (g : Guard) (pkind : Bool)
  /-- YIELD (R380): Gives up the stage place if a wings group is ready. -/
  | yield
  /-- BRX (R375): Moves the taking lanes to the address in an s register. -/
  | brx (a : BitVec 7)
  /-- WAIT (R197): Holds the group until outstanding counters fall to their limits. -/
  | wait (l s c t : BitVec 6)
  /-- MPARR (R358): Releases at team scope, arrives at a meeting point and may complete its phase. -/
  | mparr (d m : BitVec 7)
  /-- MPWAIT (R359): Waits until the meeting point's phase differs from the token. -/
  | mpwait (m b : BitVec 7)
  /-- MPINIT (R357): Sets a meeting point's expected count and clears AUTO. -/
  | mpinit (m b : BitVec 7)
  /-- TRAP (R399): Completes, then raises software trap cause 0x10 with a code. -/
  | trap (code : BitVec 8)
  /-- TRET (R400): Checks the prompt book, restores the table, re-injects the replay queue and leaves the handler. -/
  | tret
  /-- SYSRD (R391): Reads a system register into an s register. -/
  | sysrd (d : BitVec 7) (reg : BitVec 15)
  /-- SYSWR (R391): Writes an s register into a system register field by field. -/
  | syswr (reg : BitVec 15) (d : BitVec 7)
  /-- REPACK (R383): Parks the run's lanes for an unkeyed repack of the repack set. -/
  | repack (d : BitVec 7)
  /-- REPACK_KEY (R383): Parks the run's lanes for a repack sorted by a lane key. -/
  | repackKey (d v : BitVec 7)
  /-- ILOCK (R386): Adds code granules to the context's locked set. -/
  | ilock (d a b : BitVec 7)
  /-- IUNLOCK (R387): Removes code granules from the locked set. -/
  | iunlock (a b : BitVec 7)
  /-- GENKEY_KEY (R389): Sets the group's 128-bit draw KEY. -/
  | genkeyKey (a : BitVec 7)
  /-- GENKEY_CTR (R389): Sets COUNTER of each lane of the run. -/
  | genkeyCtr (a : BitVec 7)
  /-- GENKEY_STRM (R389): Sets STREAM of each lane of the run to base plus lane number. -/
  | genkeyStrm (a : BitVec 7)
  /-- GENKEY_RDKEY (R389): Reads the group's KEY into an s pair. -/
  | genkeyRdkey (d : BitVec 7)
  /-- GENKEY_RD (R389): Reads COUNTER and STREAM of the lowest lane of the run. -/
  | genkeyRd (d : BitVec 7)
  /-- PWRHINT (R390): Sends a power hint to the quad's power-island controller. -/
  | pwrhint (kind : BitVec 8)
  /-- FENCE (R354): Releases and then acquires on all objects at a scope. -/
  | fence (scope : BitVec 3)
  /-- ACQ (R355): Acquires on the object covering an address. -/
  | acq (scope : BitVec 3) (layer : Bool) (a : BitVec 7)
  /-- REL (R355): Releases on the object covering an address. -/
  | rel (scope : BitVec 3) (layer : Bool) (a : BitVec 7)
  /-- SPAWN (R432): Checks and registers a task record, releases, and places it on a deque or overflow ring. -/
  | spawn (d a : BitVec 7) (team : Bool)
  /-- TWAIT (R437): Parks the group until a task, or all its spawned tasks, have retired. -/
  | twait (a : BitVec 7)
  /-- STEAL (R436): Posts a work request in a victim core's mailbox. -/
  | steal (d a : BitVec 7)
  /-- TILERET (R427): Requests the team's tile or task retire. -/
  | tileret
  /-- TILECUR (R426): Writes the current tile or task identity. -/
  | tilecur (d : BitVec 7)
  /-- TINFO (R426): Writes the run argument or task ARG. -/
  | tinfo (d : BitVec 7)
  /-- MFREE (R267): Releases the team's matrix claim after earlier matrix work. -/
  | mfree
  /-- MZERO (R276): Zeroes a range of accumulator memory on every team core. -/
  | mzero (acc len : BitVec 8)
  /-- SMOVI (R366): Writes a 32-bit immediate into an s register. -/
  | smovi (d : BitVec 7) (imm : W32) (kind : BitVec 2) (g : Guard)
  /-- SCMP_S64 (R367): Signed uniform compare writing a b predicate. -/
  | scmpS64 (bd : BitVec 2) (a : Operand) (b : USrc) (use neg : Bool) (bc : BitVec 2) (cond : BitVec 4) (g : Guard)
  /-- SCMP_N64 (R367): Unsigned uniform compare writing a b predicate. -/
  | scmpN64 (bd : BitVec 2) (a : Operand) (b : USrc) (use neg : Bool) (bc : BitVec 2) (cond : BitVec 4) (g : Guard)
  /-- SSEL (R368): Uniform select by a b predicate. -/
  | ssel (d a : Operand) (b : USrc) (bc : BitVec 2) (neg : Bool) (g : Guard)
  /-- SBFE (R369): Uniform bit-field extract. -/
  | sbfe (d a : Operand) (b : USrc) (signed : Bool) (g : Guard)
  /-- STMAP (R204): Maps a stash window onto a global range. -/
  | stmap (t gl len : BitVec 7) (rw : Bool) (win : BitVec 3) (g : Guard)
  /-- STUNMAP (R205): Writes back a stash window's dirty bytes and unmaps it. -/
  | stunmap (win : BitVec 3) (g : Guard)
  /-- SLD_B32 (R195): Uniform 4-byte load. -/
  | sldB32 (f : UM)
  /-- SLD_B64 (R195): Uniform 8-byte load. -/
  | sldB64 (f : UM)
  /-- SST_B32 (R195): Uniform 4-byte store. -/
  | sstB32 (f : UM)
  /-- SST_B64 (R195): Uniform 8-byte store. -/
  | sstB64 (f : UM)
  /-- COPY (R201): Queues a copy-engine operation counted in a completion register. -/
  | copy (d a b : BitVec 7) (c : BitVec 3) (dsp ssp : Space) (g : Guard)
  /-- LLOAD (R202): Queues a 2-D block move from global into layer space. -/
  | lload (d a b c : BitVec 7) (cr : BitVec 3) (pitch : BitVec 12) (g : Guard)
  /-- LSTORE (R202): Queues a 2-D block move from layer into global space. -/
  | lstore (d a b c : BitVec 7) (cr : BitVec 3) (pitch : BitVec 12) (g : Guard)
  /-- MCLAIM (R265): Claims operand slots and accumulator memory on every team core, or fails. -/
  | mclaim (slots acc : BitVec 8) (g : Guard)
  /-- MLD (R268): Starts loading one K step of operands into slots. -/
  | mld (slot : BitVec 8) (a b : BitVec 7) (hint : BitVec 2) (kindB : Bool) (sp : Space) (dn : BitVec 2) (g : Guard)
  /-- MMA (R269): Queues one matrix step into the accumulator. -/
  | mma (acc sa sb ty : BitVec 8) (zero : Bool) (dn : BitVec 2) (t : BitVec 16) (g : Guard)
  /-- MLOOP (R270): Queues a loop of loads and matrix steps over K. -/
  | mloop (d a : BitVec 7) (acc ty : BitVec 8) (zero : Bool) (dn : BitVec 2) (slot : BitVec 4) (asp bsp : Space) (g : Guard)
  /-- MST (R271): Starts storing the accumulator tile to memory. -/
  | mst (d a : BitVec 7) (acc fmt : BitVec 8) (rm : BitVec 4) (sp : Space) (dn : BitVec 2) (g : Guard)
  /-- MDESC (R272): Writes a format descriptor in matrix order. -/
  | mdesc (n : BitVec 2) (a b : BitVec 7) (g : Guard)
  /-- MSCALE (R273): Starts loading S16 scale entries on every team core. -/
  | mscale (d a b : BitVec 7) (hint : BitVec 2) (sp : Space) (g : Guard)
  /-- MLEASE (R275): Sets the team's engine lease length. -/
  | mlease (steps : BitVec 9) (g : Guard)
  /-- SQTAB (R326): Loads and validates a tableau coefficient image. -/
  | sqtab (tab : BitVec 3) (a : BitVec 7) (hint : BitVec 2) (sp : Space) (g : Guard)
  /-- SQFACT (R326): Loads and validates a step-factor image. -/
  | sqfact (tab : BitVec 3) (a : BitVec 7) (hint : BitVec 2) (sp : Space) (g : Guard)
  /-- SQSTART (R327): Starts a solver sample if an entry is free. -/
  | sqstart (d a : BitVec 7) (b : BitVec 2) (tab : BitVec 3) (g : Guard)
  /-- SQSTAGE (R328): Takes the lowest READY stage of the team, or reports none or waits. -/
  | sqstage (d : BitVec 7) (b : BitVec 2) (wait : Bool) (g : Guard)
  /-- SQRET (R329): Returns an OUT stage to the sequencer with a quad-scope release. -/
  | sqret (a : BitVec 7) (g : Guard)
  /-- SQSTAT (R330): Reports a sample's state. -/
  | sqstat (d a : BitVec 7) (g : Guard)
  /-- SQDRAIN (R331): Waits until the team has no live sample, then reports counts. -/
  | sqdrain (d : BitVec 7) (g : Guard)
  /-- PBIND (R421): Validates and binds a playbill, or writes a rejection report. -/
  | pbind (d a : BitVec 7) (g : Guard)
  /-- PRUN (R422): Starts a run of a bound playbill once none is in flight. -/
  | prun (d a b : BitVec 7) (g : Guard)
  /-- PWAIT (R423): Waits for the end of the handle's current run. -/
  | pwait (d a : BitVec 7) (g : Guard)
  /-- PDROP (R424): Unbinds a playbill after any run in flight ends. -/
  | pdrop (a : BitVec 7) (g : Guard)
  /-- TADDR (R428): Writes the address and space of a tile the team reads or writes. -/
  | taddr (d a : BitVec 7) (mode : Bool) (entry : BitVec 4) (g : Guard)
  /-- GQUERY (R425): Reports cue-board or handle status. -/
  | gquery (d a : BitVec 7) (kind : BitVec 4) (g : Guard)
  /-- UNIFORM_XF (R171): Extended twin of a uniform short instruction adding guard and immediate. -/
  | uniformXf (op : UniOp) (d a b : BitVec 8) (g : Guard) (mod : BitVec 4) (imm : Option (BitVec 15))
  /-- ILLEGAL_INSTRUCTION (R176): A group issues a word whose opcode is an undefined cell of either map, and cause 0x01 is raised at the group rung. -/
  | illegalInstruction (w : W32)
  /-- LOAD_LANDING (R194): A load's data arrives and all destination lanes are written together. -/
  | loadLanding (gid id : Nat)
  /-- STORE_BUFFER_DRAIN (R347): A store-buffer entry is performed at its point of coherence. -/
  | storeBufferDrain (gid k : Nat)
  /-- ATOMIC_PERFORM (R208): An atomic lane's indivisible read-write is performed at its point of coherence. -/
  | atomicPerform (gid id lane : Nat)
  /-- XACC_CELL_ADD (R158): A slice performs one exact addition to an XACC cell. -/
  | xaccCellAdd (gid id lane : Nat)
  /-- ENGINE_UNIT_LAND (R199): A copy engine or layer loader unit lands and its completion register falls. -/
  | engineUnitLand (gid id : Nat)
  /-- MATRIX_TRANSFER_LAND (R262): An mld, mscale or mst transfer completes its bytes and TLS falls. -/
  | matrixTransferLand (team id : Nat)
  /-- MATRIX_STEP (R269): A core's engine performs one matrix step when operands and engine are ready. -/
  | matrixStep (team id : Nat)
  /-- TRAVERSAL_COMPLETE (R294): Every active lane's query has suspended or ended and the result blocks are written. -/
  | traversalComplete (gid id : Nat)
  /-- CAMRAY_DESCRIPTOR_ARRIVAL (R298): The camera descriptor arrives and the ray blocks are computed. -/
  | camrayDescriptorArrival (gid id : Nat)
  /-- ATS_TRANSLATION_COMPLETION (R67): An ATS completion installs or refuses a translation and wakes waiting accesses. -/
  | atsTranslationCompletion (die fn pasid page : Nat) (nw : Bool) (r : AtsReply)
  /-- PAGE_REQUEST_RESPONSE (R70): A page request response re-requests translation or faults waiting accesses. -/
  | pageRequestResponse (fn pasid group : Nat) (r : PriReply)
  /-- ATS_INVALIDATE_REQUEST (R71): An ATS invalidation removes matching entries from all translation caches. -/
  | atsInvalidateRequest (fn pasid : Nat) (glob : Bool) (base len tag : Nat)
  /-- INVALIDATE_COMPLETION (R72): The invalidate completion is sent once no access using a removed translation is outstanding. -/
  | invalidateCompletion (fn tag : Nat)
  /-- PRI_ENABLE_SET (R70): Host software clears and sets PRI Enable, allowing page requests again. -/
  | priEnableSet (fn alloc : Nat)
  /-- HDM_DECODER_COMMIT (R37): The host commits the HDM decoder and the module gains its HDM range. -/
  | hdmDecoderCommit (base : Nat)
  /-- HOST_CXL_MEM_READ (R39): A host CXL.mem read of graphics DRAM is served. -/
  | hostCxlMemRead (hpa n : Nat)
  /-- HOST_CXL_MEM_WRITE (R39): A host CXL.mem write to graphics DRAM is performed. -/
  | hostCxlMemWrite (hpa : Nat) (data : List Byte)
  /-- HOST_SNOOP (R39): A host snoop reaches a device-held line of a host-bias page. -/
  | hostSnoop (hpa : Nat)
  /-- WEIGHT_WINDOW_HOST_WRITE (R56): A host write to the weight-store window completes as unsupported. -/
  | weightWindowHostWrite (hpa : Nat) (data : List Byte)
  /-- WEIGHT_WINDOW_HOST_READ (R56): A host read of the weight-store window is served as a device read. -/
  | weightWindowHostRead (hpa n : Nat)
  /-- BIAS_FLIP_TO_DEVICE (R45): GO with TARGET 1 starts a flip of a page to device bias. -/
  | biasFlipToDevice (fn : Nat)
  /-- BIAS_FLIP_TO_HOST (R46): GO with TARGET 0 starts a flip of a page to host bias. -/
  | biasFlipToHost (fn : Nat)
  /-- BIAS_OWNERSHIP_RESPONSE (R45): The host answers an ownership request; the last answer completes the flip. -/
  | biasOwnershipResponse (fn line : Nat) (dirty : Option (List Byte))
  /-- BIAS_HOST_FLIP_COMPLETE (R46): After in-flight accesses drain, dirty lines are written back and the page becomes host bias. -/
  | biasHostFlipComplete (fn : Nat)
  /-- BIAS_FLIP_TIMEOUT (R48): An unanswered ownership request for 1 ms aborts the flip. -/
  | biasFlipTimeout (fn : Nat)
  /-- TRN_FLUSH (R74): FLUSH removes every translation of the function. -/
  | trnFlush (fn : Nat)
  /-- HOST_REGISTER_WRITE (R42): A host write to a BAR0 register with no row of its own updates its fields. -/
  | hostRegisterWrite (fn off : Nat) (val : W64)
  /-- LYR_WAYPART_GROW (R94): A write of a larger SCRWAYS starts surrendering cache ways. -/
  | lyrWaypartGrow (die slice ways : Nat)
  /-- LYR_WAYPART_SHRINK (R95): A write of a smaller SCRWAYS unmaps mebibytes at once. -/
  | lyrWaypartShrink (die slice ways : Nat)
  /-- LAYER_GROW_COMPLETE (R94): The surrendered ways are written back and zero-filled and the new mebibytes map. -/
  | layerGrowComplete (die slice : Nat)
  /-- LAYER_SHRINK_BUSY_END (R95): 16 clocks after a shrink BUSY clears. -/
  | layerShrinkBusyEnd (die slice : Nat)
  /-- PATROL_SCRUB (R53): Scrub reads a line, rewrites corrected codewords and counts uncorrectable ones. -/
  | patrolScrub (die line corrected : Nat)
  /-- FLASH_UNIT_READ (R57): A 4 KiB flash unit read completes, with read-retry or uncorrectable outcome. -/
  | flashUnitRead (unit retries : Nat) (corrected : Bool)
  /-- FTL_RELOCATION (R59): The translation layer copies a unit to a new block and switches its map. -/
  | ftlRelocation (unit : Nat) (oldBad newReady : Bool)
  /-- GANG_START (R443): A queued team that fits a core set is started on all its cores in one step. -/
  | gangStart (die : Nat)
  /-- TEAM_PARK_OUT (R450): A parkable team is saved and its cores freed for a waiting team. -/
  | teamParkOut (team : Nat)
  /-- STAGE_LEAVE (R451): A waiting stage group swaps out for a ready wings group. -/
  | stageLeave (gid : Nat)
  /-- STAGE_IDLE_TIMEOUT (R451): A stage group not ready for 16 clocks is swapped out. -/
  | stageIdleTimeout (gid : Nat)
  /-- STAGE_TIMESLICE (R453): A group on stage 4,096 clocks is swapped out for a wings group ready 256 clocks. -/
  | stageTimeslice (gid : Nat)
  /-- STAGE_ENTER (R451): A ready wings group takes a free stage place. -/
  | stageEnter (gid : Nat)
  /-- BANK_DROWSY_ENTRY (R536): A lane-file bank goes drowsy after DRWAIT clocks meeting the condition. -/
  | bankDrowsyEntry (die core sub bank : Nat)
  /-- GROUP_EXIT_COMPLETE (R378): A group with no lanes left drains, releases, adjusts meeting points and frees registers. -/
  | groupExitComplete (gid : Nat)
  /-- REPACK_ARRIVE (R383): A group with all lanes parked drains and arrives at its repack set. -/
  | repackArrive (gid : Nat)
  /-- MPWAIT_WAKE (R359): A waiting mpwait ends on a phase change and acquires. -/
  | mpwaitWake (gid : Nat)
  /-- TWAIT_WAKE (R437): A twait ends when its tasks have retired and acquires. -/
  | twaitWake (gid : Nat)
  /-- SQSTAGE_WAKE (R328): A waiting sqstage receives a READY stage or finds no live sample. -/
  | sqstageWake (gid : Nat)
  /-- SQDRAIN_WAKE (R331): sqdrain ends when no sample is live, acquires and writes counts. -/
  | sqdrainWake (gid : Nat)
  /-- PRUN_START (R422): A waiting prun starts a run once the previous one has ended. -/
  | prunStart (gid : Nat)
  /-- PWAIT_WAKE (R423): pwait ends at the end of the run and acquires. -/
  | pwaitWake (gid : Nat)
  /-- PDROP_UNBIND (R424): pdrop unbinds the playbill after its run ends. -/
  | pdropUnbind (gid : Nat)
  /-- WAIT_RELEASE (R197): A WAIT ends when its counters and completion register reach their limits. -/
  | waitRelease (gid : Nat)
  /-- CHANNEL_OPERATION_RESUME (R124): An instruction waiting on channel entries or room issues its channel operations. -/
  | channelOperationResume (gid : Nat)
  /-- TRAP_ENTRY (R465): A group-rung cause enters the handler once a prompt book is free. -/
  | trapEntry (gid : Nat)
  /-- GROUP_RUNG_TIMEOUT (R462): A handler exceeding GTMO stops and raises cause 0x0D at the team rung. -/
  | groupRungTimeout (gid : Nat)
  /-- UPPER_RUNG_TIMEOUT (R462): An unanswered upper-rung event times out and escalates. -/
  | upperRungTimeout (stop : Nat)
  /-- UPPER_RUNG_STOP (R473): A cause at team rung or above stops and saves its parties and reports an event. -/
  | upperRungStop (stop : Nat)
  /-- EVENT_RECORD_WRITE (R513): A pending event entry is written once the event queue has room and the vector signalled. -/
  | eventRecordWrite (fn : Nat)
  /-- CODE_PAGE_FILL (R481): An instruction-cache fill hashes the page and checks its digest. -/
  | codePageFill (die core fn pasid page : Nat)
  /-- TILE_RETIRE (R418): A team's retire is performed once its holds end, updating entries and sending cue messages. -/
  | tileRetire (team : Nat)
  /-- RING_SLOT_GRANT (R417): A READY team is granted its ring slots in ascending tile order when they are free. -/
  | ringSlotGrant (team : Nat)
  /-- OVERFLOW_COPY (R417): A DONE ring slot is copied to the overflow area and then granted. -/
  | overflowCopy (book res die tile : Nat)
  /-- CUE_MESSAGE_RECEIVE (R418): A cue message marks a remote persistent tile DONE. -/
  | cueMessageReceive (die book pass tile : Nat)
  /-- TASK_LAUNCH (R434): A core takes a ready task record from its deque or the overflow ring and starts its team. -/
  | taskLaunch (die core : Nat)
  /-- TASK_RETIRE (R435): A task retires once its spawned tasks retired, releasing its writes. -/
  | taskRetire (team : Nat)
  /-- SEQ_STAGE_INPUT (R314): The sequencer forms a stage input and makes the stage READY. -/
  | seqStageInput (team sample : Nat)
  /-- SEQ_STEP_END (R316): The sequencer forms the solution and error, accepts or rejects, and may end the sample. -/
  | seqStepEnd (team sample : Nat)
  /-- CTXNEW (R510): Reads a context record and makes a context. -/
  | ctxnew (fn : Nat) (cmd : Command)
  /-- CTXEND (R509): Switches out and frees a context. -/
  | ctxend (fn : Nat) (cmd : Command)
  /-- LAUNCH (R442): Checks a launch record and queues the grid's teams, or refuses it. -/
  | launch (fn : Nat) (cmd : Command)
  /-- GRID_END (R512): A grid ends, releases at system scope and its LAUNCH completion is written. -/
  | gridEnd (grid : Nat)
  /-- ANSWER (R474): Applies RESUME or ABORT to a pending upper-rung event. -/
  | answer (fn : Nat) (cmd : Command)
  /-- SWOUT (R475): Saves a context into its save area. -/
  | swout (fn : Nat) (cmd : Command)
  /-- SWIN (R476): Reads the binding and trap tables and restores a context. -/
  | swin (fn : Nat) (cmd : Command)
  /-- VACATE (R458): Vacates named quads, saving and re-queuing their teams, or is refused. -/
  | vacate (fn : Nat) (cmd : Command)
  /-- VACATE_COMPLETE (R458): The named quads are empty and the vacate reports completion. -/
  | vacateComplete (job : Nat)
  /-- RETURN (R509): Returns vacated quads to their partition. -/
  | hostReturn (fn : Nat) (cmd : Command)
  /-- PARTSET (R509): Assigns free quads to a virtual function's partition after zero-fill. -/
  | partset (fn : Nat) (cmd : Command)
  /-- WSWRITE (R58): Writes host data into the weight store unit by unit. -/
  | wswrite (fn : Nat) (cmd : Command)
  /-- WSTRIM (R509): Trims a weight-store range so it reads as zero. -/
  | wstrim (fn : Nat) (cmd : Command)
  /-- VECSET (R509): Sets PVEC, DVEC and the upper-rung timeouts. -/
  | vecset (fn : Nat) (cmd : Command)
  /-- LNKSVC (R524): Runs the link service routine for a named module. -/
  | lnksvc (fn : Nat) (cmd : Command)
  /-- PARTMEM (R44): Sets the bias-control owner of a range of granules. -/
  | partmem (fn : Nat) (cmd : Command)
  /-- HQ_CMDTAIL_DOORBELL (R512): A CMDTAIL write makes commands available for intake in ring order. -/
  | hqCmdtailDoorbell (fn index : Nat)
  /-- HQ_EVTHEAD_WRITE (R513): An EVTHEAD write frees event-queue room. -/
  | hqEvtheadWrite (fn index : Nat)
  /-- LINK_FLIT_RECEIVE (R515): A die-link flit is received, checked by CRC and delivered in sequence order. -/
  | linkFlitReceive (link dir : Nat) (crcOk : Bool)
  /-- LINK_LOST (R520): A link with no usable module for 1 ms is lost and cause 0x0E raised. -/
  | linkLost (link : Nat)
  /-- LINK_SERVICE_WINDOW (R522): At each window end firmware compares retries and starts service routines. -/
  | linkServiceWindow
  /-- LINK_SERVICE_WAIT_TIMEOUT (R524): A service routine wait reaches 100 µs and takes the module off. -/
  | linkServiceWaitTimeout (link m : Nat)
  /-- LNK_PAUSE (R519): PAUSE stops a module taking flits and resends its unacknowledged flits elsewhere. -/
  | lnkPause (link side m : Nat)
  /-- LNK_UNPAUSE (R519): Clearing PAUSE returns a trained module to active. -/
  | lnkUnpause (link side m : Nat)
  /-- LNK_RETRAIN (R519): RETRAIN trains a paused module at both ends with maps and width. -/
  | lnkRetrain (link side m : Nat)
  /-- LNK_RETRAIN_COMPLETE (R519): Training ends in paused on success or down on failure. -/
  | lnkRetrainComplete (link m : Nat) (ok : Bool) (errE errF : W64)
  /-- LNK_OFF (R519): OFF takes a module out of service. -/
  | lnkOff (link side m : Nat)
  /-- LNK_ON (R519): Clearing OFF puts the module in the down state awaiting retrain. -/
  | lnkOn (link side m : Nat)
  /-- LNK_RETRYCNT_CLR (R517): CLR clears a module end's retry counters. -/
  | lnkRetrycntClr (link side m : Nat)
  /-- PWR_QCTL_WRITE (R533): A write of PWR_QCTL sets a new power target or is refused. -/
  | pwrQctlWrite (quad : Nat) (val : W64)
  /-- PWR_TRANSITION_STEP (R534): A supply ramp, clock switch or island wake of a transition completes. -/
  | pwrTransitionStep (quad : Nat)
  /-- BOOT_START (R541): At power-on the boot ROM trains the host port and verifies the stored image. -/
  | bootStart
  /-- BOOT_VERIFY_COMPLETE (R541): Image verification ends, running the firmware or waiting for a host image. -/
  | bootVerifyComplete (ok : Bool) (err : Nat)
  /-- BOOT_IMG_GO (R540): GO starts reading and verifying a host-supplied firmware image. -/
  | bootImgGo
  /-- FUNCTION_READY (R542): A function finishes calibration and raises its ready or fail flag. -/
  | functionReady (unit : BringUp) (ok : Bool)
  /-- VF_FLR (R506): A VF function-level reset switches out and loses its contexts. -/
  | vfFlr (vf : Nat)
  /-- PF_FLR (R506): A PF function-level reset resets every function and reruns bring-up. -/
  | pfFlr
  /-- SPDM_GET_VERSION (R545): Answers an SPDM GET_VERSION request. -/
  | spdmGetVersion (req : List Byte)
  /-- SPDM_GET_CAPABILITIES (R545): Answers an SPDM GET_CAPABILITIES request. -/
  | spdmGetCapabilities (req : List Byte)
  /-- SPDM_NEGOTIATE_ALGORITHMS (R545): Answers SPDM NEGOTIATE_ALGORITHMS with SM2 and SM3 only. -/
  | spdmNegotiateAlgorithms (req : List Byte)
  /-- SPDM_GET_DIGESTS (R545): Answers an SPDM GET_DIGESTS request. -/
  | spdmGetDigests (req : List Byte)
  /-- SPDM_GET_CERTIFICATE (R545): Returns the certificate chain. -/
  | spdmGetCertificate (req : List Byte)
  /-- SPDM_CHALLENGE (R545): Signs a challenge with the SM2 device key. -/
  | spdmChallenge (req : List Byte)
  /-- SPDM_GET_MEASUREMENTS (R545): Returns the four measurements. -/
  | spdmGetMeasurements (req : List Byte)
  /-- PARTSET_ZERO_FILL_COMPLETE (R509): The zero-fill of the scratchpad ways of newly assigned quads ends, the quads join the partition and PARTSET completes. -/
  | partsetZeroFillComplete (job : Nat)
  /-- STAGED_UNIT_COMMIT (R58): A weight-store unit staged to fresh flash blocks by WSWRITE or WSTRIM is committed by one switch of its map entry. -/
  | stagedUnitCommit (unit : Nat)
  deriving DecidableEq, Repr

end Sys2Proof
end

