-- ==== Sys2Proof/WellFormed.lean ====
section
/-! DEFINITION. The static checks of an instruction: everything of check 2 of R172 that its fields alone decide. -/

namespace Sys2Proof

/-- The type that R167 widens an immediate B to. -/
inductive ImmTy where
  | s32 | n32 | s64 | n64 | f32 | f64 | h16 | s8
  deriving DecidableEq, Repr

/-- The operand widths of a lane arithmetic instruction, in 32-bit registers (0: no such operand), the type of its B for
R167, whether it rounds under MOD (R219). -/
structure OpShape where
  dw : Nat
  aw : Nat
  bw : Nat
  cw : Nat
  ty : ImmTy
  rounds : Bool
  deriving DecidableEq, Repr

/-- The operands of the short lane opcodes (R220 to R235, R242). -/
def LaneOp.shape : LaneOp → OpShape
  | .faddF32 | .fsubF32 | .fmulF32 | .fdivF32 => ⟨1, 1, 1, 0, .f32, true⟩
  | .fminF32 | .fmaxF32 => ⟨1, 1, 1, 0, .f32, false⟩
  | .fsqrtF32 | .frcpF32 | .frsqF32 | .fex2F32 | .flg2F32 | .fsinF32 | .fcosF32 => ⟨1, 0, 1, 0, .f32, true⟩
  | .daddF64 | .dsubF64 | .dmulF64 | .ddivF64 => ⟨2, 2, 2, 0, .f64, true⟩
  | .dminF64 | .dmaxF64 => ⟨2, 2, 2, 0, .f64, false⟩
  | .dsqrtF64 => ⟨2, 0, 2, 0, .f64, true⟩
  | .hadd2F16 | .hmul2F16 | .hadd2Bf16 | .hmul2Bf16 => ⟨1, 1, 1, 0, .h16, true⟩
  | .hmin2F16 | .hmax2F16 | .hmin2Bf16 | .hmax2Bf16 => ⟨1, 1, 1, 0, .h16, false⟩
  | .iaddS32 | .isubS32 | .imulS32 | .imulhiS32 | .iminS32 | .imaxS32 | .qaddS32 | .qsubS32 | .andB32 | .orB32 | .xorB32 =>
    ⟨1, 1, 1, 0, .s32, false⟩
  | .imulhiN32 | .iminN32 | .imaxN32 | .shlB32 | .shrN32 | .shrS32 | .rotB32 | .lnrdB32 | .lnrdxB32 =>
    ⟨1, 1, 1, 0, .n32, false⟩
  | .iaddS64 | .isubS64 => ⟨2, 2, 2, 0, .s64, false⟩
  | .iabsS32 | .inegS32 | .notB32 | .popcB32 | .clzB32 | .brevB32 | .movB32 => ⟨1, 0, 1, 0, .s32, false⟩
  | .movB64 => ⟨2, 0, 2, 0, .s64, false⟩
  | .lidB32 => ⟨1, 0, 0, 0, .s32, false⟩
  | .xset => ⟨0, 0, 1, 0, .s32, false⟩
  | .xget => ⟨1, 0, 0, 0, .s32, false⟩

/-- A directly named register of w 32-bit registers is a multiple of w (R112). -/
def aligned (n : BitVec 7) (w : Nat) : Bool := n.toNat % w == 0

def Guard.none : Guard := ⟨0, false⟩

/-- PSENSE must be 0 without a guard (R168). -/
def Guard.ok (g : Guard) : Bool := !(g.sel == 0 && g.sense)

/-- PSEL 4 to 7 are reserved in the uniform set (R168). -/
def Guard.okUni (g : Guard) : Bool := g.ok && decide (g.sel.toNat ≤ 3)

def Operand.ok (o : Operand) (w : Nat) : Bool :=
  match o with
  | .reg n => aligned n w
  | .chan _ _ => true

def LDst.ok (o : LDst) (w : Nat) : Bool :=
  match o with
  | .reg n => aligned n w
  | .chan _ _ => true
  | .idx _ _ => true

def LDst.isIdx : LDst → Bool
  | .idx _ _ => true
  | .reg _ => false
  | .chan _ _ => false

def LSrc.isIdx : LSrc → Bool
  | .idx _ _ => true
  | .reg _ => false
  | .chan _ _ => false
  | .uni _ => false
  | .imm _ => false

def VReg.isIdx : VReg → Bool
  | .idx _ _ => true
  | .reg _ => false

def VReg.ok (o : VReg) (w : Nat) : Bool :=
  match o with
  | .reg n => aligned n w
  | .idx _ _ => true

/-- Field A of class LX: a lane register, a channel or an indexed register. -/
def LSrc.okA (o : LSrc) (w : Nat) : Bool :=
  if w = 0 then o == .reg 0 else
  match o with
  | .reg n => aligned n w
  | .chan _ _ => true
  | .idx _ _ => true
  | .uni _ => false
  | .imm _ => false

/-- Field B of class LX: any source. -/
def LSrc.okB (o : LSrc) (w : Nat) : Bool :=
  if w = 0 then o == .reg 0 else
  match o with
  | .reg n => aligned n w
  | .chan _ _ => true
  | .idx _ _ => true
  | .uni _ => true
  | .imm _ => true

/-- Field C of class LX: a lane register, a channel or a broadcast register (XSEL never names C, R166). -/
def LSrc.okC (o : LSrc) (w : Nat) : Bool :=
  if w = 0 then o == .reg 0 else
  match o with
  | .reg n => aligned n w
  | .chan _ _ => true
  | .uni _ => true
  | .idx _ _ => false
  | .imm _ => false

/-- XSEL names at most one field (R166). -/
def LX.oneIdx (f : LX) : Bool :=
  decide (f.d.isIdx.toNat + f.a.isIdx.toNat + f.b.isIdx.toNat ≤ 1)

/-- A rounding mode of R144, or MOD = 0 (R169). -/
def modOk (rounds : Bool) (m : BitVec 4) : Bool := if rounds then decide (m.toNat ≤ 4) else m == 0

/-- The lane arithmetic form of a given shape (R166, R169, R170). -/
def LX.ok (f : LX) (sh : OpShape) : Bool :=
  f.d.ok sh.dw && f.a.okA sh.aw && f.b.okB sh.bw && f.c.okC sh.cw && f.oneIdx && f.guard.ok && modOk sh.rounds f.mod &&
    f.tab == 0

/-- A source field that holds a value below a bound (a predicate, an x register: R164, R218). -/
def LSrc.small (o : LSrc) (n : Nat) : Bool :=
  match o with
  | .reg v => decide (v.toNat < n)
  | .chan _ _ => false
  | .idx _ _ => false
  | .uni _ => false
  | .imm _ => false

def LDst.small (o : LDst) (n : Nat) : Bool :=
  match o with
  | .reg v => decide (v.toNat < n)
  | .chan _ _ => false
  | .idx _ _ => false

/-- A compare (R236, R237): D names a predicate, C a predicate and its negation, MOD the condition. -/
def LX.okCmp (f : LX) (w conds : Nat) : Bool :=
  f.d.small 8 && f.a.okA w && f.b.okB w && f.c.small 16 && f.oneIdx && f.guard.ok && decide (f.mod.toNat < conds) && f.tab == 0

/-- A reduction (R245): only A and D are operands. -/
def LX.okRed (f : LX) (modes : Nat) : Bool :=
  f.d.ok 1 && f.a.okA 1 && f.b == .reg 0 && f.c == .reg 0 && f.oneIdx && f.guard.ok && decide (f.mod.toNat < modes) && f.tab == 0

/-- The lane XF twin (R171): the short form's operands with an extension word. -/
def LX.okXf (f : LX) (op : LaneOp) : Bool :=
  match op with
  | .xset => f.d.small 4 && f.a == .reg 0 && f.b.okB 1 && f.c == .reg 0 && f.guard.ok && f.mod == 0 && f.tab == 0
  | .xget => f.d.ok 1 && f.a == .reg 0 && f.b.small 4 && f.c == .reg 0 && f.guard.ok && f.mod == 0 && f.tab == 0
  | op => f.ok op.shape

/-- The format codes of R143: kind in [5:0], variant in [7:6]. -/
def fmtOk (c : BitVec 8) : Bool :=
  let k := c.toNat % 64
  let v := c.toNat / 64
  if 1 ≤ k ∧ k ≤ 5 then v == 0
  else if 8 ≤ k ∧ k ≤ 11 then v == 0 || v == 2
  else decide (17 ≤ k ∧ k ≤ 23) || decide (33 ≤ k ∧ k ≤ 35)

/-- The width in bits of a format code (R239). -/
def fmtWidth (c : BitVec 8) : Nat :=
  let k := c.toNat % 64
  if k = 1 then 64 else if k = 2 then 32 else if k = 3 ∨ k = 4 ∨ k = 5 then 16
  else if k = 8 then 4 else if k = 9 then 8 else if k = 10 then 32 else if k = 11 then 64
  else if 33 ≤ k then 4 else 8

/-- How many registers a format of one element takes (R239). -/
def fmtRegs (c : BitVec 8) : Nat := if fmtWidth c = 64 then 2 else 1

/-- The element count of cvtpk and its two group sizes (R240). -/
def cvtpkGroup (src dst : BitVec 8) : Nat × Nat × Nat :=
  let ws := fmtWidth src
  let wd := fmtWidth dst
  let e := 32 / min ws wd
  (e, e * ws / 32, e * wd / 32)

def LC.okBase (f : LC) : Bool :=
  fmtOk f.src && fmtOk f.dst && decide (f.d.isIdx.toNat + f.a.isIdx.toNat ≤ 1) && f.guard.ok && modOk true f.mod

def LC.okCvt (f : LC) : Bool := f.okBase && f.d.ok (fmtRegs f.dst) && f.a.ok (fmtRegs f.src)

def LC.okCvtpk (f : LC) : Bool :=
  let (_, gs, gd) := cvtpkGroup f.src f.dst
  f.okBase && !(min (fmtWidth f.src) (fmtWidth f.dst) == 64) && decide (gs ≤ 4) && decide (gd ≤ 4) && f.d.ok gd && f.a.ok gs

/-- A lane base of a global address is an even pair (R177). -/
def baseOk (sp : Space) (au : Bool) (a : BitVec 7) : Bool := !(sp == .glob && !au) || aligned a 2

def LM.okBase (f : LM) : Bool :=
  baseOk f.space f.au f.a && (f.idx || f.b == 0) && f.guard.ok && decide (f.d.isIdx.toNat + f.c.isIdx.toNat ≤ 1)

/-- A load of w registers (R193). -/
def LM.okLoad (f : LM) (w : Nat) : Bool := f.okBase && f.d.ok w && f.c == .reg 0 && f.order == 0

/-- A store of w registers (R193). -/
def LM.okStore (f : LM) (w : Nat) : Bool := f.okBase && f.c.ok w && f.d == .reg 0 && f.order == 0

/-- xadd (R211): orders 0 and 2, global or layer space. -/
def LM.okXadd (f : LM) : Bool :=
  f.okBase && f.d == .reg 0 && (f.order == 0 || f.order == 2) && !(f.space == .team)

/-- xrd (R212). -/
def LM.okXrd (f : LM) (f64 : Bool) (rm : BitVec 3) : Bool :=
  f.okBase && f.c == .reg 0 && f.d.ok (if f64 then 2 else 1) && f.order == 0 && !(f.space == .team) && decide (rm.toNat ≤ 4)

/-- resld and resst (R306): XSEL and ORDER must be 0. -/
def LM.okRes (f : LM) : Bool := f.okBase && f.d == .reg 0 && f.c == .reg 0 && f.order == 0

def LA.okBase (f : LA) (regs : Nat) : Bool :=
  baseOk f.space f.au f.a && aligned f.d regs && aligned f.b regs && f.guard.ok && decide (f.scope.toNat ≤ 5)

/-- How many registers a WIDTH of R206 takes. -/
def LA.regs (f : LA) : Nat := 2 ^ f.width.toNat

def scopeOk (s : BitVec 3) : Bool := decide (s.toNat ≤ 5)

/-- The reservoir fields of R305: how many registers, and whether the first must be even. -/
def resFieldOk (field : BitVec 3) (v : BitVec 7) : Bool :=
  decide (field.toNat ≤ 4) && (!(field == 4) || aligned v 2)

/-- The uniform short opcodes whose B is an operand field, so that the XF twin may make it an immediate (R171, R364). -/
def UniOp.takesImm : UniOp → Bool
  | .saddB64 | .ssubB64 | .smulB64 | .smulhiS64 | .smulhiN64 | .sminS64 | .sminN64 | .smaxS64 | .smaxN64 | .sandB64
  | .sorB64 | .sxorB64 | .snotB64 | .sshlB64 | .sshrN64 | .sshrS64 | .smovB64 | .spopcB64 | .sclzB64 | .ilock | .iunlock => true
  | .nop | .bra | .call | .ret | .exit | .yield | .brx | .wait | .mparr | .mpwait | .mpinit | .trap | .tret | .sysrd
  | .syswr | .repack | .genkey | .pwrhint | .fence | .acq | .rel | .spawn | .twait | .steal | .tileret
  | .tilecur | .tinfo | .mfree | .mzero => false

/-- A field that names a uniform register directly: CLASS = 0 (R165). -/
def fieldReg (x : BitVec 8) : Bool := decide (x.toNat < 128)

/-- The fields of a uniform short form: registers, must-be-0 fields, reserved values (R170, R174). The s-register fields of brx, sysrd, syswr,
repack, ilock, iunlock and genkey name no channel: CLASS = 1 is reserved there, which the spec does not say of them one by one (log 84). -/
def UniOp.fieldsOk (op : UniOp) (d a b : BitVec 8) : Bool :=
  match op with
  | .nop | .ret | .exit | .yield | .tret | .tileret | .mfree => d == 0 && a == 0 && b == 0
  | .saddB64 | .ssubB64 | .smulB64 | .smulhiS64 | .smulhiN64 | .sminS64 | .sminN64 | .smaxS64 | .smaxN64 | .sandB64
  | .sorB64 | .sxorB64 | .sshlB64 | .sshrN64 | .sshrS64 => true
  | .snotB64 | .smovB64 | .spopcB64 | .sclzB64 => a == 0
  | .bra | .call | .wait => true
  | .brx | .twait => d == 0 && fieldReg a && b == 0
  | .mparr => fieldReg d && fieldReg a && b == 0
  | .mpwait | .mpinit => d == 0 && fieldReg a && fieldReg b
  | .trap => d == 0 && a == 0
  | .sysrd | .syswr => fieldReg d && fieldReg a
  | .repack => fieldReg d && a == 0 && (b == 0 || decide (128 ≤ b.toNat))
  | .ilock => fieldReg d && fieldReg a && fieldReg b
  | .iunlock => d == 0 && fieldReg a && fieldReg b
  | .genkey =>
    if b == 0 then d == 0 && fieldReg a && a.toNat % 2 == 0
    else if b == 1 || b == 2 then d == 0 && fieldReg a
    else if b == 3 || b == 4 then a == 0 && fieldReg d && d.toNat % 2 == 0
    else false
  | .pwrhint => d == 0 && a == 0 && decide (b.toNat ≤ 3)
  | .fence => decide (d.toNat ≤ 5) && a == 0 && b == 0
  | .acq | .rel => decide (d.toNat < 16) && decide (d.toNat % 8 ≤ 5) && fieldReg a && b == 0
  | .spawn => fieldReg d && fieldReg a && (b == 0 || b == 2)
  | .steal => fieldReg d && fieldReg a && b == 0
  | .tilecur | .tinfo => fieldReg d && a == 0 && b == 0
  | .mzero => decide (d.toNat < 192) && decide (1 ≤ a.toNat) && decide (a.toNat ≤ 192) && b == 0

/-- The MOD field of a uniform XF twin: PKIND of the branches (R179), the completion register of wait (R197). -/
def UniOp.modOk (op : UniOp) (m : BitVec 4) : Bool :=
  match op with
  | .bra | .call | .ret | .exit | .brx => decide (m.toNat ≤ 1)
  | .wait => m == 0 || decide (8 ≤ m.toNat)
  | _ => m == 0

/-- The guard of a uniform XF twin: with PKIND = 1, PSEL names a lane predicate (R179). PSEL = 0 names none, and is refused as a reserved value:
the spec does not say (log 84). -/
def UniOp.guardOk (op : UniOp) (m : BitVec 4) (g : Guard) : Bool :=
  match op with
  | .bra | .call | .ret | .exit | .brx => if m == 1 then g.ok && !(g.sel == 0) else g.okUni
  | _ => g.okUni

/-- The uniform XF twin (R171, R364). -/
def uniformXfOk (op : UniOp) (d a b : BitVec 8) (g : Guard) (m : BitVec 4) (imm : Option (BitVec 15)) : Bool :=
  op.fieldsOk d a b && op.modOk m && op.guardOk m g &&
    (match imm with
     | none => true
     | some _ => op.takesImm && b == 0)

/-- Every static check of an instruction (R172, check 2). The steps that have no word are well-formed when the numbers
they name exist on the module (R16 to R19, R49, R62). An accumulator field of 192 or more KiB is refused here, as a reserved value (log 99). -/
def Instr.wf : Instr → Bool
  | .daddF64 d a b | .dsubF64 d a b | .dmulF64 d a b | .dminF64 d a b | .dmaxF64 d a b | .ddivF64 d a b
  | .iaddS64 d a b | .isubS64 d a b => d.ok 2 && a.ok 2 && b.ok 2
  | .dsqrtF64 d b | .movB64 d b => d.ok 2 && b.ok 2
  | .laneXf op f => f.okXf op
  | .fmaF32 f => f.ok ⟨1, 1, 1, 1, .f32, true⟩
  | .fmaF64 f => f.ok ⟨2, 2, 2, 2, .f64, true⟩
  | .hfma2F16 f | .hfma2Bf16 f => f.ok ⟨1, 1, 1, 1, .h16, true⟩
  | .imadS32 f => f.ok ⟨1, 1, 1, 1, .s32, false⟩
  | .imadS64 f => f.ok ⟨2, 1, 1, 2, .s32, false⟩
  | .dot4S8 f => f.ok ⟨1, 1, 1, 1, .s8, false⟩
  | .bselB32 f | .bfiB32 f => f.ok ⟨1, 1, 1, 1, .s32, false⟩
  | .bfeB32 f => f.ok ⟨1, 1, 1, 0, .s32, false⟩
  | .frndF32 f => f.ok ⟨1, 0, 1, 0, .f32, true⟩
  | .fclassF32 f => f.ok ⟨1, 0, 1, 0, .f32, false⟩
  | .bool3B32 f =>
    ({ f with tab := 0 } : LX).ok ⟨1, 1, 1, 1, .s32, false⟩ &&
      (match f.b with
       | .imm _ => false
       | _ => true)
  | .selB32 f => f.d.ok 1 && f.a.okA 1 && f.b.okB 1 && f.c.small 16 && f.oneIdx && f.guard.ok && f.mod == 0 && f.tab == 0
  | .fcmpF32 f => f.okCmp 1 8
  | .dcmpF64 f => f.okCmp 2 8
  | .icmpS32 f | .icmpN32 f => f.okCmp 1 6
  | .icmpS64 f | .icmpN64 f => f.okCmp 2 6
  | .rsumF32 f => f.okRed 4
  | .rminF32 f | .rmaxF32 f | .rsumS32 f | .rminS32 f | .rmaxS32 f => f.okRed 1
  | .cvt f => f.okCvt
  | .cvtpk f => f.okCvtpk
  | .mrd _ _ acc g => g.ok && decide (acc.toNat < 192)
  | .movi _ _ g | .lmask _ _ _ g | .drawB32 _ g | .resup _ _ _ _ g | .resmg _ _ _ g | .resfin _ _ _ g | .resclr _ g => g.ok
  | .agree _ _ _ kind g => g.ok && decide (kind.toNat ≤ 2)
  | .ldB8 f | .ldS8 f | .ldB16 f | .ldS16 f | .ldB32 f => f.okLoad 1
  | .ldB64 f => f.okLoad 2
  | .ldB128 f => f.okLoad 4
  | .stB8 f | .stB16 f | .stB32 f => f.okStore 1
  | .stB64 f => f.okStore 2
  | .stB128 f => f.okStore 4
  | .xadd f => f.okXadd
  | .xrd f f64 rm => f.okXrd f64 rm
  | .atom op f => f.okBase f.regs && decide (f.width.toNat ≤ 1) && decide (op.toNat ≤ 10)
  | .cas c f => f.okBase f.regs && decide (f.width.toNat ≤ 2) && aligned c f.regs
  | .tex d a _ _ _ _ g => aligned d 4 && aligned a 2 && g.ok
  | .trace d a _ _ flags _ g =>
    aligned d 8 && aligned a 8 && g.ok && !(flags.getLsbD 0 && flags.getLsbD 1) && !(flags.getLsbD 2 && flags.getLsbD 3)
  | .trnext d g | .traccept d g | .trhit d g => aligned d 8 && g.ok
  | .camray d _ _ _ _ g => aligned d 8 && g.ok
  | .resld _ f | .resst _ f => f.okRes
  | .resget d _ field g => resFieldOk field d && g.ok
  | .resset _ a field g => resFieldOk field a && g.ok
  | .exitHelp g pkind => if pkind then g.ok && !(g.sel == 0) else g.okUni
  | .genkeyKey a => aligned a 2
  | .genkeyRdkey d | .genkeyRd d => aligned d 2
  | .pwrhint kind => decide (kind.toNat ≤ 3)
  | .fence scope | .acq scope _ _ | .rel scope _ _ => scopeOk scope
  | .mzero acc len => decide (acc.toNat < 192) && decide (1 ≤ len.toNat) && decide (len.toNat ≤ 192)
  | .smovi _ _ kind g => g.okUni && decide (kind.toNat ≤ 2)
  | .scmpS64 bd _ _ use neg _ cond g | .scmpN64 bd _ _ use neg _ cond g =>
    g.okUni && !(bd == 0) && decide (cond.toNat ≤ 5) && (use || !neg)
  | .ssel _ _ _ _ _ g | .sbfe _ _ _ _ g => g.okUni
  | .stmap _ _ _ _ _ g | .copy _ _ _ _ _ _ g | .lload _ _ _ _ _ _ g | .lstore _ _ _ _ _ _ g | .mdesc _ _ _ g => g.okUni
  | .stunmap _ g => g == .none
  | .sldB32 f | .sldB64 f | .sstB32 f | .sstB64 f => f.guard.okUni
  | .mclaim slots acc g => g.okUni && decide (slots.toNat ≤ 16) && decide (acc.toNat ≤ 12) && !(slots == 0 && acc == 0)
  | .mld slot _ _ _ _ _ _ g => g.okUni && decide (slot.toNat < 16)
  | .mma acc sa sb ty _ _ _ g => g.okUni && (ty == 0 || fmtOk ty) && decide (acc.toNat < 192) && decide (sa.toNat < 16) && decide (sb.toNat < 16)
  | .mloop _ a acc ty _ _ _ _ _ g => g.okUni && (ty == 0 || fmtOk ty) && aligned a 4 && decide (acc.toNat < 192)
  | .mst _ _ acc fmt rm _ _ g => g.okUni && decide (acc.toNat < 192) && decide (rm.toNat ≤ 3) && fmtOk fmt
  | .mscale _ _ _ _ _ g | .prun _ _ _ g => g.okUni
  | .mlease steps g => g.okUni && decide (steps.toNat ≤ 256)
  | .sqtab _ _ _ _ g | .sqfact _ _ _ _ g | .sqret _ g | .sqdrain _ g | .pbind _ _ g | .pwait _ _ g | .pdrop _ g => g.okUni
  | .sqstart _ a _ _ g => g.okUni && aligned a 2
  | .sqstage d _ _ g | .sqstat d _ g => g.okUni && aligned d 2
  | .taddr d a mode entry g => g.okUni && aligned d 2 && (if mode then a == 0 && decide (entry.toNat ≤ 11) else entry == 0)
  | .gquery _ _ kind g => g.okUni && decide (kind.toNat ≤ 2)
  | .uniformXf op d a b g m imm => uniformXfOk op d a b g m imm
  | .atsTranslationCompletion die fn pasid _ _ _ => decide (die < 4) && decide (fn ≤ 16) && decide (pasid < 2 ^ 20)
  | .pageRequestResponse fn pasid group _ => decide (fn ≤ 16) && decide (pasid < 2 ^ 20) && decide (group < 512)
  | .atsInvalidateRequest fn pasid _ _ _ _ => decide (fn ≤ 16) && decide (pasid < 2 ^ 20)
  | .lyrWaypartGrow die k m | .lyrWaypartShrink die k m => decide (die < 4) && decide (k < 24) && decide (m ≤ 16)
  | .layerGrowComplete die k | .layerShrinkBusyEnd die k => decide (die < 4) && decide (k < 24)
  | .gangStart die => decide (die < 4)
  | .taskLaunch die core => decide (die < 4) && decide (core < 48)
  | .hostRegisterWrite fn _ _ | .hqCmdtailDoorbell fn _ | .hqEvtheadWrite fn _ => decide (fn ≤ 16)
  | .pwrQctlWrite q _ | .pwrTransitionStep q => decide (q < 48)
  | .vfFlr vf => decide (1 ≤ vf) && decide (vf ≤ 16)
  | _ => true

/-- The static checks as a proposition. -/
abbrev Instr.WellFormed (i : Instr) : Prop := i.wf = true

end Sys2Proof
end

