-- ==== Sys2Proof/Decode.lean ====
section
/-! DEFINITION. The decoder of both instruction sets and the encoder, written from the word layouts of chapter 07 and
the encoding tables of chapters 08 to 15. -/

namespace Sys2Proof

/-- The first word of an instruction (R161). op holds SET and OPCODE. -/
def word1 (op d a b : BitVec 8) : W32 := op ++ d ++ a ++ b

/-- The extension word (R161). -/
def word2 (c : BitVec 8) (g : Guard) (mod : BitVec 4) (spec : BitVec 16) : W32 :=
  c ++ g.sel ++ BitVec.ofBool g.sense ++ mod ++ spec

/-- The fields of a first word (R161). -/
def fOp (w : W32) : BitVec 8 := w.extractLsb' 24 8
def fD (w : W32) : BitVec 8 := w.extractLsb' 16 8
def fA (w : W32) : BitVec 8 := w.extractLsb' 8 8
def fB (w : W32) : BitVec 8 := w.extractLsb' 0 8

/-- The fields of an extension word (R161). -/
def fC (w : W32) : BitVec 8 := w.extractLsb' 24 8
def fGuard (w : W32) : Guard := ⟨w.extractLsb' 21 3, w.getLsbD 20⟩
def fMod (w : W32) : BitVec 4 := w.extractLsb' 16 4
def fSpec (w : W32) : BitVec 16 := w.extractLsb' 0 16

/-- The low bits of a field. -/
def lo7 (x : BitVec 8) : BitVec 7 := x.extractLsb' 0 7
def lo3 (x : BitVec 8) : BitVec 3 := x.extractLsb' 0 3
def lo2 (x : BitVec 8) : BitVec 2 := x.extractLsb' 0 2

/-- A field that names a register with CLASS = 0 (R164). -/
def reg8 (n : BitVec 7) : BitVec 8 := (0 : BitVec 1) ++ n
def low3 (n : BitVec 3) : BitVec 8 := (0 : BitVec 5) ++ n
def low2 (n : BitVec 2) : BitVec 8 := (0 : BitVec 6) ++ n

/-- An operand field (R164). -/
def Operand.bits : Operand → BitVec 8
  | .reg n => reg8 n
  | .chan n6 n => (1 : BitVec 1) ++ BitVec.ofBool n6 ++ n

def Operand.ofBits (x : BitVec 8) : Operand :=
  if x.getLsbD 7 then .chan (x.getLsbD 6) (x.extractLsb' 0 6) else .reg (lo7 x)

/-- A source field of class LX: the field's bits and what SPEC says of it (R166). -/
def LSrc.bits : LSrc → BitVec 8
  | .reg n => reg8 n
  | .chan n6 n => (1 : BitVec 1) ++ BitVec.ofBool n6 ++ n
  | .idx x off => x ++ off
  | .uni n => reg8 n
  | .imm v => v.extractLsb' 8 8

def LSrc.ofBits (x : BitVec 8) (isIdx isUni : Bool) : LSrc :=
  if isIdx then .idx (x.extractLsb' 6 2) (x.extractLsb' 0 6)
  else if isUni then .uni (lo7 x)
  else if x.getLsbD 7 then .chan (x.getLsbD 6) (x.extractLsb' 0 6) else .reg (lo7 x)

def LSrc.isUni : LSrc → Bool
  | .uni _ => true
  | .reg _ => false
  | .chan _ _ => false
  | .idx _ _ => false
  | .imm _ => false

def LSrc.isImm : LSrc → Bool
  | .imm _ => true
  | .reg _ => false
  | .chan _ _ => false
  | .idx _ _ => false
  | .uni _ => false

def LDst.bits : LDst → BitVec 8
  | .reg n => reg8 n
  | .chan n6 n => (1 : BitVec 1) ++ BitVec.ofBool n6 ++ n
  | .idx x off => x ++ off

def LDst.ofBits (x : BitVec 8) (isIdx : Bool) : LDst :=
  if isIdx then .idx (x.extractLsb' 6 2) (x.extractLsb' 0 6)
  else if x.getLsbD 7 then .chan (x.getLsbD 6) (x.extractLsb' 0 6) else .reg (lo7 x)

def VReg.bits : VReg → BitVec 8
  | .reg n => reg8 n
  | .idx x off => x ++ off

def VReg.ofBits (x : BitVec 8) (isIdx : Bool) : VReg :=
  if isIdx then .idx (x.extractLsb' 6 2) (x.extractLsb' 0 6) else .reg (lo7 x)

/-- XSEL of class LX (R166). -/
def LX.xsel (f : LX) : BitVec 2 :=
  if f.d.isIdx then 1 else if f.a.isIdx then 2 else if f.b.isIdx then 3 else 0

/-- IMMLO, or the table of bool3 (R166, R229). -/
def LX.immlo (f : LX) : BitVec 8 :=
  match f.b with
  | .imm v => v.extractLsb' 0 8
  | .reg _ => f.tab
  | .chan _ _ => f.tab
  | .idx _ _ => f.tab
  | .uni _ => f.tab

/-- SPEC of class LX (R166). -/
def LX.spec (f : LX) : BitVec 16 :=
  BitVec.ofBool f.b.isUni ++ BitVec.ofBool f.c.isUni ++ BitVec.ofBool f.b.isImm ++ f.xsel ++ f.reuse ++ f.immlo

/-- The two words of class LX, and of the lane XF twin with C replaced by the short opcode (R166, R171). -/
def LX.words (op : BitVec 8) (f : LX) : W32 × Option W32 :=
  (word1 op f.d.bits f.a.bits f.b.bits, some (word2 f.c.bits f.guard f.mod f.spec))

def LX.wordsXf (c : BitVec 8) (f : LX) : W32 × Option W32 :=
  (word1 0x7F f.d.bits f.a.bits f.b.bits, some (word2 c f.guard f.mod f.spec))

/-- The fields of class LX, with C given apart since the XF twin holds the short opcode there. XSEL = 3 beside BU = 1 is refused as reserved, as
it is beside BIMM = 1: the spec does not say (log 84). -/
def LX.ofWords (w1 w2 : W32) (c : LSrc) : LX :=
  let sp := fSpec w2
  let xs : BitVec 2 := sp.extractLsb' 11 2
  let bimm := sp.getLsbD 13
  { d := LDst.ofBits (fD w1) (xs == 1)
    a := LSrc.ofBits (fA w1) (xs == 2) false
    b := if bimm then .imm (fB w1 ++ sp.extractLsb' 0 8) else LSrc.ofBits (fB w1) (xs == 3) (sp.getLsbD 15)
    c := c
    guard := fGuard w2
    mod := fMod w2
    reuse := sp.extractLsb' 8 3
    tab := if bimm then 0 else sp.extractLsb' 0 8 }

def LX.read (w1 w2 : W32) : LX := LX.ofWords w1 w2 (LSrc.ofBits (fC w2) false ((fSpec w2).getLsbD 14))

def LX.readXf (w1 w2 : W32) : LX := LX.ofWords w1 w2 (.reg 0)

/-- Class LC (R174). -/
def LC.words (op : BitVec 8) (f : LC) : W32 × Option W32 :=
  let xs : BitVec 2 := if f.d.isIdx then 1 else if f.a.isIdx then 2 else 0
  (word1 op f.d.bits f.a.bits f.src,
    some (word2 f.dst f.guard f.mod ((0 : BitVec 3) ++ xs ++ BitVec.ofBool f.reuse ++ (0 : BitVec 10))))

def LC.read (w1 w2 : W32) : LC :=
  let xs : BitVec 2 := (fSpec w2).extractLsb' 11 2
  { d := VReg.ofBits (fD w1) (xs == 1), a := VReg.ofBits (fA w1) (xs == 2), src := fB w1, dst := fC w2,
    guard := fGuard w2, mod := fMod w2, reuse := (fSpec w2).getLsbD 10 }

/-- SPACE (R177): 3 is reserved. -/
def Space.bits : Space → BitVec 2
  | .glob => 0
  | .layer => 1
  | .team => 2

def Space.ofBits (x : BitVec 2) : Option Space :=
  if x = 0 then some .glob else if x = 1 then some .layer else if x = 2 then some .team else none

/-- Class LM (R177): D and C are given apart for the forms that hold other numbers there. -/
def LM.wordsWith (op d c : BitVec 8) (f : LM) : W32 × Option W32 :=
  let xs : BitVec 2 := if f.d.isIdx then 1 else if f.c.isIdx then 2 else 0
  (word1 op d (reg8 f.a) (reg8 f.b),
    some (word2 c f.guard (f.hint ++ f.order)
      (f.space.bits ++ BitVec.ofBool f.au ++ BitVec.ofBool f.idx ++ xs ++ f.off)))

def LM.words (op : BitVec 8) (f : LM) : W32 × Option W32 := f.wordsWith op f.d.bits f.c.bits

def LM.readWith (w1 w2 : W32) (d c : BitVec 8) : Option LM := do
  let sp := fSpec w2
  let xs : BitVec 2 := sp.extractLsb' 10 2
  let space ← Space.ofBits (sp.extractLsb' 14 2)
  some { d := VReg.ofBits d (xs == 1), a := lo7 (fA w1), b := lo7 (fB w1), c := VReg.ofBits c (xs == 2),
         guard := fGuard w2, hint := (fMod w2).extractLsb' 2 2, order := (fMod w2).extractLsb' 0 2, space := space,
         au := sp.getLsbD 13, idx := sp.getLsbD 12, off := sp.extractLsb' 0 10 }

def LM.read (w1 w2 : W32) : Option LM := LM.readWith w1 w2 (fD w1) (fC w2)

/-- The atomic layout (R206). -/
def LA.words (op c : BitVec 8) (f : LA) : W32 × Option W32 :=
  (word1 op (reg8 f.d) (reg8 f.a) (reg8 f.b),
    some (word2 c f.guard (f.hint ++ f.order) (f.space.bits ++ BitVec.ofBool f.au ++ f.width ++ f.scope ++ f.off)))

def LA.read (w1 w2 : W32) : Option LA := do
  let sp := fSpec w2
  let space ← Space.ofBits (sp.extractLsb' 14 2)
  some { d := lo7 (fD w1), a := lo7 (fA w1), b := lo7 (fB w1), guard := fGuard w2, hint := (fMod w2).extractLsb' 2 2,
         order := (fMod w2).extractLsb' 0 2, space := space, au := sp.getLsbD 13, width := sp.extractLsb' 11 2,
         scope := sp.extractLsb' 8 3, off := sp.extractLsb' 0 8 }

/-- Class UM (R178): a load has its register in D, a store in C. -/
def UM.words (op : BitVec 8) (store : Bool) (f : UM) : W32 × Option W32 :=
  (word1 op (if store then 0 else reg8 f.r) (reg8 f.a) 0,
    some (word2 (if store then reg8 f.r else 0) f.guard (f.hint ++ f.space.bits) f.off))

def UM.read (w1 w2 : W32) (store : Bool) : Option UM := do
  let space ← Space.ofBits ((fMod w2).extractLsb' 0 2)
  some { r := lo7 (if store then fC w2 else fD w1), a := lo7 (fA w1), guard := fGuard w2,
         hint := (fMod w2).extractLsb' 2 2, space := space, off := fSpec w2 }

/-- B of a uniform instruction that takes IMM15 (R171, R367). -/
def USrc.bits : USrc → BitVec 8
  | .reg n => reg8 n
  | .chan n6 n => (1 : BitVec 1) ++ BitVec.ofBool n6 ++ n
  | .imm _ => 0

def USrc.spec : USrc → BitVec 16
  | .reg _ => 0
  | .chan _ _ => 0
  | .imm v => (1 : BitVec 1) ++ v

def USrc.ofBits (x : BitVec 8) (sp : BitVec 16) : USrc :=
  if sp.getLsbD 15 then .imm (sp.extractLsb' 0 15)
  else if x.getLsbD 7 then .chan (x.getLsbD 6) (x.extractLsb' 0 6) else .reg (lo7 x)

/-- The signed 15-bit immediate of the uniform XF twin, as SPEC holds it (R171). -/
def imm15Spec : Option (BitVec 15) → BitVec 16
  | none => 0
  | some v => (1 : BitVec 1) ++ v

def imm15Of (sp : BitVec 16) : Option (BitVec 15) := if sp.getLsbD 15 then some (sp.extractLsb' 0 15) else none

/-- The short lane opcodes (R175). -/
def LaneOp.code : LaneOp → BitVec 8
  | .faddF32 => 0x01
  | .fsubF32 => 0x02
  | .fmulF32 => 0x03
  | .fminF32 => 0x04
  | .fmaxF32 => 0x05
  | .fdivF32 => 0x06
  | .fsqrtF32 => 0x07
  | .daddF64 => 0x08
  | .dsubF64 => 0x09
  | .dmulF64 => 0x0A
  | .dminF64 => 0x0B
  | .dmaxF64 => 0x0C
  | .ddivF64 => 0x0D
  | .dsqrtF64 => 0x0E
  | .hadd2F16 => 0x10
  | .hmul2F16 => 0x11
  | .hmin2F16 => 0x12
  | .hmax2F16 => 0x13
  | .hadd2Bf16 => 0x14
  | .hmul2Bf16 => 0x15
  | .hmin2Bf16 => 0x16
  | .hmax2Bf16 => 0x17
  | .iaddS32 => 0x18
  | .isubS32 => 0x19
  | .imulS32 => 0x1A
  | .imulhiS32 => 0x1B
  | .imulhiN32 => 0x1C
  | .iminS32 => 0x1D
  | .iminN32 => 0x1E
  | .imaxS32 => 0x1F
  | .imaxN32 => 0x20
  | .iaddS64 => 0x21
  | .isubS64 => 0x22
  | .qaddS32 => 0x23
  | .qsubS32 => 0x24
  | .iabsS32 => 0x25
  | .inegS32 => 0x26
  | .andB32 => 0x28
  | .orB32 => 0x29
  | .xorB32 => 0x2A
  | .notB32 => 0x2B
  | .shlB32 => 0x2C
  | .shrN32 => 0x2D
  | .shrS32 => 0x2E
  | .rotB32 => 0x2F
  | .popcB32 => 0x30
  | .clzB32 => 0x31
  | .brevB32 => 0x32
  | .movB32 => 0x33
  | .movB64 => 0x34
  | .lidB32 => 0x35
  | .xset => 0x36
  | .xget => 0x37
  | .frcpF32 => 0x38
  | .frsqF32 => 0x39
  | .fex2F32 => 0x3A
  | .flg2F32 => 0x3B
  | .fsinF32 => 0x3C
  | .fcosF32 => 0x3D
  | .lnrdB32 => 0x3E
  | .lnrdxB32 => 0x3F

/-- The short lane opcode of a code, if the map defines it (R175). -/
def LaneOp.ofCode (c : BitVec 8) : Option LaneOp :=
  match c with
  | 0x01 => some .faddF32
  | 0x02 => some .fsubF32
  | 0x03 => some .fmulF32
  | 0x04 => some .fminF32
  | 0x05 => some .fmaxF32
  | 0x06 => some .fdivF32
  | 0x07 => some .fsqrtF32
  | 0x08 => some .daddF64
  | 0x09 => some .dsubF64
  | 0x0A => some .dmulF64
  | 0x0B => some .dminF64
  | 0x0C => some .dmaxF64
  | 0x0D => some .ddivF64
  | 0x0E => some .dsqrtF64
  | 0x10 => some .hadd2F16
  | 0x11 => some .hmul2F16
  | 0x12 => some .hmin2F16
  | 0x13 => some .hmax2F16
  | 0x14 => some .hadd2Bf16
  | 0x15 => some .hmul2Bf16
  | 0x16 => some .hmin2Bf16
  | 0x17 => some .hmax2Bf16
  | 0x18 => some .iaddS32
  | 0x19 => some .isubS32
  | 0x1A => some .imulS32
  | 0x1B => some .imulhiS32
  | 0x1C => some .imulhiN32
  | 0x1D => some .iminS32
  | 0x1E => some .iminN32
  | 0x1F => some .imaxS32
  | 0x20 => some .imaxN32
  | 0x21 => some .iaddS64
  | 0x22 => some .isubS64
  | 0x23 => some .qaddS32
  | 0x24 => some .qsubS32
  | 0x25 => some .iabsS32
  | 0x26 => some .inegS32
  | 0x28 => some .andB32
  | 0x29 => some .orB32
  | 0x2A => some .xorB32
  | 0x2B => some .notB32
  | 0x2C => some .shlB32
  | 0x2D => some .shrN32
  | 0x2E => some .shrS32
  | 0x2F => some .rotB32
  | 0x30 => some .popcB32
  | 0x31 => some .clzB32
  | 0x32 => some .brevB32
  | 0x33 => some .movB32
  | 0x34 => some .movB64
  | 0x35 => some .lidB32
  | 0x36 => some .xset
  | 0x37 => some .xget
  | 0x38 => some .frcpF32
  | 0x39 => some .frsqF32
  | 0x3A => some .fex2F32
  | 0x3B => some .flg2F32
  | 0x3C => some .fsinF32
  | 0x3D => some .fcosF32
  | 0x3E => some .lnrdB32
  | 0x3F => some .lnrdxB32
  | _ => none

/-- The short uniform opcodes (R176). -/
def UniOp.code : UniOp → BitVec 8
  | .nop => 0x00
  | .saddB64 => 0x01
  | .ssubB64 => 0x02
  | .smulB64 => 0x03
  | .smulhiS64 => 0x04
  | .smulhiN64 => 0x05
  | .sminS64 => 0x06
  | .sminN64 => 0x07
  | .smaxS64 => 0x08
  | .smaxN64 => 0x09
  | .sandB64 => 0x0A
  | .sorB64 => 0x0B
  | .sxorB64 => 0x0C
  | .snotB64 => 0x0D
  | .sshlB64 => 0x0E
  | .sshrN64 => 0x0F
  | .sshrS64 => 0x10
  | .smovB64 => 0x11
  | .spopcB64 => 0x12
  | .sclzB64 => 0x13
  | .bra => 0x14
  | .call => 0x15
  | .ret => 0x16
  | .exit => 0x17
  | .yield => 0x18
  | .brx => 0x19
  | .wait => 0x1A
  | .mparr => 0x1B
  | .mpwait => 0x1C
  | .mpinit => 0x1D
  | .trap => 0x1E
  | .tret => 0x1F
  | .sysrd => 0x20
  | .syswr => 0x21
  | .repack => 0x22
  | .ilock => 0x23
  | .iunlock => 0x24
  | .genkey => 0x25
  | .pwrhint => 0x26
  | .fence => 0x27
  | .acq => 0x28
  | .rel => 0x29
  | .spawn => 0x2A
  | .twait => 0x2B
  | .steal => 0x2C
  | .tileret => 0x2D
  | .tilecur => 0x2E
  | .tinfo => 0x2F
  | .mfree => 0x30
  | .mzero => 0x31

/-- The short uniform opcode of a code, if the map defines it (R176). -/
def UniOp.ofCode (c : BitVec 8) : Option UniOp :=
  match c with
  | 0x00 => some .nop
  | 0x01 => some .saddB64
  | 0x02 => some .ssubB64
  | 0x03 => some .smulB64
  | 0x04 => some .smulhiS64
  | 0x05 => some .smulhiN64
  | 0x06 => some .sminS64
  | 0x07 => some .sminN64
  | 0x08 => some .smaxS64
  | 0x09 => some .smaxN64
  | 0x0A => some .sandB64
  | 0x0B => some .sorB64
  | 0x0C => some .sxorB64
  | 0x0D => some .snotB64
  | 0x0E => some .sshlB64
  | 0x0F => some .sshrN64
  | 0x10 => some .sshrS64
  | 0x11 => some .smovB64
  | 0x12 => some .spopcB64
  | 0x13 => some .sclzB64
  | 0x14 => some .bra
  | 0x15 => some .call
  | 0x16 => some .ret
  | 0x17 => some .exit
  | 0x18 => some .yield
  | 0x19 => some .brx
  | 0x1A => some .wait
  | 0x1B => some .mparr
  | 0x1C => some .mpwait
  | 0x1D => some .mpinit
  | 0x1E => some .trap
  | 0x1F => some .tret
  | 0x20 => some .sysrd
  | 0x21 => some .syswr
  | 0x22 => some .repack
  | 0x23 => some .ilock
  | 0x24 => some .iunlock
  | 0x25 => some .genkey
  | 0x26 => some .pwrhint
  | 0x27 => some .fence
  | 0x28 => some .acq
  | 0x29 => some .rel
  | 0x2A => some .spawn
  | 0x2B => some .twait
  | 0x2C => some .steal
  | 0x2D => some .tileret
  | 0x2E => some .tilecur
  | 0x2F => some .tinfo
  | 0x30 => some .mfree
  | 0x31 => some .mzero
  | _ => none

/-- The instruction of a short lane opcode and its three fields (R174, class LS). -/
def LaneOp.instr (op : LaneOp) (d a b : BitVec 8) : Instr :=
  match op with
  | .faddF32 => .faddF32 (.ofBits d) (.ofBits a) (.ofBits b)
  | .fsubF32 => .fsubF32 (.ofBits d) (.ofBits a) (.ofBits b)
  | .fmulF32 => .fmulF32 (.ofBits d) (.ofBits a) (.ofBits b)
  | .fminF32 => .fminF32 (.ofBits d) (.ofBits a) (.ofBits b)
  | .fmaxF32 => .fmaxF32 (.ofBits d) (.ofBits a) (.ofBits b)
  | .fdivF32 => .fdivF32 (.ofBits d) (.ofBits a) (.ofBits b)
  | .fsqrtF32 => .fsqrtF32 (.ofBits d) (.ofBits b)
  | .daddF64 => .daddF64 (.ofBits d) (.ofBits a) (.ofBits b)
  | .dsubF64 => .dsubF64 (.ofBits d) (.ofBits a) (.ofBits b)
  | .dmulF64 => .dmulF64 (.ofBits d) (.ofBits a) (.ofBits b)
  | .dminF64 => .dminF64 (.ofBits d) (.ofBits a) (.ofBits b)
  | .dmaxF64 => .dmaxF64 (.ofBits d) (.ofBits a) (.ofBits b)
  | .ddivF64 => .ddivF64 (.ofBits d) (.ofBits a) (.ofBits b)
  | .dsqrtF64 => .dsqrtF64 (.ofBits d) (.ofBits b)
  | .hadd2F16 => .hadd2F16 (.ofBits d) (.ofBits a) (.ofBits b)
  | .hmul2F16 => .hmul2F16 (.ofBits d) (.ofBits a) (.ofBits b)
  | .hmin2F16 => .hmin2F16 (.ofBits d) (.ofBits a) (.ofBits b)
  | .hmax2F16 => .hmax2F16 (.ofBits d) (.ofBits a) (.ofBits b)
  | .hadd2Bf16 => .hadd2Bf16 (.ofBits d) (.ofBits a) (.ofBits b)
  | .hmul2Bf16 => .hmul2Bf16 (.ofBits d) (.ofBits a) (.ofBits b)
  | .hmin2Bf16 => .hmin2Bf16 (.ofBits d) (.ofBits a) (.ofBits b)
  | .hmax2Bf16 => .hmax2Bf16 (.ofBits d) (.ofBits a) (.ofBits b)
  | .iaddS32 => .iaddS32 (.ofBits d) (.ofBits a) (.ofBits b)
  | .isubS32 => .isubS32 (.ofBits d) (.ofBits a) (.ofBits b)
  | .imulS32 => .imulS32 (.ofBits d) (.ofBits a) (.ofBits b)
  | .imulhiS32 => .imulhiS32 (.ofBits d) (.ofBits a) (.ofBits b)
  | .imulhiN32 => .imulhiN32 (.ofBits d) (.ofBits a) (.ofBits b)
  | .iminS32 => .iminS32 (.ofBits d) (.ofBits a) (.ofBits b)
  | .iminN32 => .iminN32 (.ofBits d) (.ofBits a) (.ofBits b)
  | .imaxS32 => .imaxS32 (.ofBits d) (.ofBits a) (.ofBits b)
  | .imaxN32 => .imaxN32 (.ofBits d) (.ofBits a) (.ofBits b)
  | .iaddS64 => .iaddS64 (.ofBits d) (.ofBits a) (.ofBits b)
  | .isubS64 => .isubS64 (.ofBits d) (.ofBits a) (.ofBits b)
  | .qaddS32 => .qaddS32 (.ofBits d) (.ofBits a) (.ofBits b)
  | .qsubS32 => .qsubS32 (.ofBits d) (.ofBits a) (.ofBits b)
  | .iabsS32 => .iabsS32 (.ofBits d) (.ofBits b)
  | .inegS32 => .inegS32 (.ofBits d) (.ofBits b)
  | .andB32 => .andB32 (.ofBits d) (.ofBits a) (.ofBits b)
  | .orB32 => .orB32 (.ofBits d) (.ofBits a) (.ofBits b)
  | .xorB32 => .xorB32 (.ofBits d) (.ofBits a) (.ofBits b)
  | .notB32 => .notB32 (.ofBits d) (.ofBits b)
  | .shlB32 => .shlB32 (.ofBits d) (.ofBits a) (.ofBits b)
  | .shrN32 => .shrN32 (.ofBits d) (.ofBits a) (.ofBits b)
  | .shrS32 => .shrS32 (.ofBits d) (.ofBits a) (.ofBits b)
  | .rotB32 => .rotB32 (.ofBits d) (.ofBits a) (.ofBits b)
  | .popcB32 => .popcB32 (.ofBits d) (.ofBits b)
  | .clzB32 => .clzB32 (.ofBits d) (.ofBits b)
  | .brevB32 => .brevB32 (.ofBits d) (.ofBits b)
  | .movB32 => .movB32 (.ofBits d) (.ofBits b)
  | .movB64 => .movB64 (.ofBits d) (.ofBits b)
  | .lidB32 => .lidB32 (.ofBits d)
  | .xset => .xset (lo2 d) (.ofBits b)
  | .xget => .xget (.ofBits d) (lo2 b)
  | .frcpF32 => .frcpF32 (.ofBits d) (.ofBits b)
  | .frsqF32 => .frsqF32 (.ofBits d) (.ofBits b)
  | .fex2F32 => .fex2F32 (.ofBits d) (.ofBits b)
  | .flg2F32 => .flg2F32 (.ofBits d) (.ofBits b)
  | .fsinF32 => .fsinF32 (.ofBits d) (.ofBits b)
  | .fcosF32 => .fcosF32 (.ofBits d) (.ofBits b)
  | .lnrdB32 => .lnrdB32 (.ofBits d) (.ofBits a) (.ofBits b)
  | .lnrdxB32 => .lnrdxB32 (.ofBits d) (.ofBits a) (.ofBits b)

/-- The instruction of a short uniform opcode and its three fields (R174, classes US, UJ and UW); none for a reserved KIND
of genkey (R389). -/
def UniOp.instr (op : UniOp) (d a b : BitVec 8) : Option Instr :=
  match op with
  | .nop => some .nop
  | .saddB64 => some (.saddB64 (.ofBits d) (.ofBits a) (.ofBits b))
  | .ssubB64 => some (.ssubB64 (.ofBits d) (.ofBits a) (.ofBits b))
  | .smulB64 => some (.smulB64 (.ofBits d) (.ofBits a) (.ofBits b))
  | .smulhiS64 => some (.smulhiS64 (.ofBits d) (.ofBits a) (.ofBits b))
  | .smulhiN64 => some (.smulhiN64 (.ofBits d) (.ofBits a) (.ofBits b))
  | .sminS64 => some (.sminS64 (.ofBits d) (.ofBits a) (.ofBits b))
  | .sminN64 => some (.sminN64 (.ofBits d) (.ofBits a) (.ofBits b))
  | .smaxS64 => some (.smaxS64 (.ofBits d) (.ofBits a) (.ofBits b))
  | .smaxN64 => some (.smaxN64 (.ofBits d) (.ofBits a) (.ofBits b))
  | .sandB64 => some (.sandB64 (.ofBits d) (.ofBits a) (.ofBits b))
  | .sorB64 => some (.sorB64 (.ofBits d) (.ofBits a) (.ofBits b))
  | .sxorB64 => some (.sxorB64 (.ofBits d) (.ofBits a) (.ofBits b))
  | .snotB64 => some (.snotB64 (.ofBits d) (.ofBits b))
  | .sshlB64 => some (.sshlB64 (.ofBits d) (.ofBits a) (.ofBits b))
  | .sshrN64 => some (.sshrN64 (.ofBits d) (.ofBits a) (.ofBits b))
  | .sshrS64 => some (.sshrS64 (.ofBits d) (.ofBits a) (.ofBits b))
  | .smovB64 => some (.smovB64 (.ofBits d) (.ofBits b))
  | .spopcB64 => some (.spopcB64 (.ofBits d) (.ofBits b))
  | .sclzB64 => some (.sclzB64 (.ofBits d) (.ofBits b))
  | .bra => some (.bra (d ++ a ++ b))
  | .call => some (.call (d ++ a ++ b))
  | .ret => some .ret
  | .exit => some .exit
  | .yield => some .yield
  | .brx => some (.brx (lo7 a))
  | .wait => let x : BitVec 24 := d ++ a ++ b; some (.wait (x.extractLsb' 18 6) (x.extractLsb' 12 6) (x.extractLsb' 6 6) (x.extractLsb' 0 6))
  | .mparr => some (.mparr (lo7 d) (lo7 a))
  | .mpwait => some (.mpwait (lo7 a) (lo7 b))
  | .mpinit => some (.mpinit (lo7 a) (lo7 b))
  | .trap => some (.trap b)
  | .tret => some .tret
  | .sysrd => some (.sysrd (lo7 d) (lo7 a ++ b))
  | .syswr => some (.syswr (lo7 a ++ b) (lo7 d))
  | .repack => if b.getLsbD 7 then some (.repackKey (lo7 d) (lo7 b)) else some (.repack (lo7 d))
  | .ilock => some (.ilock (lo7 d) (lo7 a) (lo7 b))
  | .iunlock => some (.iunlock (lo7 a) (lo7 b))
  | .genkey => if b = 0 then some (.genkeyKey (lo7 a)) else if b = 1 then some (.genkeyCtr (lo7 a)) else if b = 2 then some (.genkeyStrm (lo7 a)) else if b = 3 then some (.genkeyRdkey (lo7 d)) else if b = 4 then some (.genkeyRd (lo7 d)) else none
  | .pwrhint => some (.pwrhint b)
  | .fence => some (.fence (lo3 d))
  | .acq => some (.acq (lo3 d) (d.getLsbD 3) (lo7 a))
  | .rel => some (.rel (lo3 d) (d.getLsbD 3) (lo7 a))
  | .spawn => some (.spawn (lo7 d) (lo7 a) (b.getLsbD 1))
  | .twait => some (.twait (lo7 a))
  | .steal => some (.steal (lo7 d) (lo7 a))
  | .tileret => some .tileret
  | .tilecur => some (.tilecur (lo7 d))
  | .tinfo => some (.tinfo (lo7 d))
  | .mfree => some .mfree
  | .mzero => some (.mzero d a)

/-- Both sets' opcodes that make an extended form and are defined (R175, R176): the first byte holds SET and OPCODE. -/
def extended (op : BitVec 8) : Bool := op.getLsbD 6

/-- The lane instruction of an extended opcode below XF (R175): none where a field holds a reserved value. -/
def parseLaneExt (w1 w2 : W32) : Option Instr :=
  match fOp w1 with
  | 0x40 => some (.fmaF32 (LX.read w1 w2))
  | 0x41 => some (.fmaF64 (LX.read w1 w2))
  | 0x42 => some (.hfma2F16 (LX.read w1 w2))
  | 0x43 => some (.hfma2Bf16 (LX.read w1 w2))
  | 0x44 => some (.imadS32 (LX.read w1 w2))
  | 0x45 => some (.imadS64 (LX.read w1 w2))
  | 0x46 => some (.selB32 (LX.read w1 w2))
  | 0x47 => some (.bool3B32 (LX.read w1 w2))
  | 0x48 => some (.fcmpF32 (LX.read w1 w2))
  | 0x49 => some (.dcmpF64 (LX.read w1 w2))
  | 0x4A => some (.fclassF32 (LX.read w1 w2))
  | 0x4B => some (.mrd (lo7 (fD w1)) (lo7 (fA w1)) ((fSpec w2).extractLsb' 0 8) (fGuard w2))
  | 0x4C => some (.icmpS32 (LX.read w1 w2))
  | 0x4D => some (.icmpN32 (LX.read w1 w2))
  | 0x4E => some (.icmpS64 (LX.read w1 w2))
  | 0x4F => some (.icmpN64 (LX.read w1 w2))
  | 0x50 => some (.cvt (LC.read w1 w2))
  | 0x51 => some (.cvtpk (LC.read w1 w2))
  | 0x52 => some (.frndF32 (LX.read w1 w2))
  | 0x53 => some (.bselB32 (LX.read w1 w2))
  | 0x54 => some (.bfeB32 (LX.read w1 w2))
  | 0x55 => some (.bfiB32 (LX.read w1 w2))
  | 0x56 => some (.dot4S8 (LX.read w1 w2))
  | 0x57 => some (.movi (lo7 (fD w1)) (fA w1 ++ fB w1 ++ fSpec w2) (fGuard w2))
  | 0x58 => some (.agree (lo3 (fD w1)) (lo3 (fA w1)) ((fA w1).getLsbD 3) ((fMod w2).extractLsb' 0 2) (fGuard w2))
  | 0x59 => some (.lmask (lo7 (fD w1)) (lo3 (fA w1)) ((fA w1).getLsbD 3) (fGuard w2))
  | 0x5A => some (.rsumF32 (LX.read w1 w2))
  | 0x5B => some (.rminF32 (LX.read w1 w2))
  | 0x5C => some (.rmaxF32 (LX.read w1 w2))
  | 0x5D => some (.rsumS32 (LX.read w1 w2))
  | 0x5E => some (.rminS32 (LX.read w1 w2))
  | 0x5F => some (.rmaxS32 (LX.read w1 w2))
  | 0x60 => (LM.read w1 w2).map .ldB8
  | 0x61 => (LM.read w1 w2).map .ldS8
  | 0x62 => (LM.read w1 w2).map .ldB16
  | 0x63 => (LM.read w1 w2).map .ldS16
  | 0x64 => (LM.read w1 w2).map .ldB32
  | 0x65 => (LM.read w1 w2).map .ldB64
  | 0x66 => (LM.read w1 w2).map .ldB128
  | 0x67 => (LM.read w1 w2).map .stB8
  | 0x68 => (LM.read w1 w2).map .stB16
  | 0x69 => (LM.read w1 w2).map .stB32
  | 0x6A => (LM.read w1 w2).map .stB64
  | 0x6B => (LM.read w1 w2).map .stB128
  | 0x6C => (LA.read w1 w2).map (.atom ((fC w2).extractLsb' 0 4))
  | 0x6D => (LA.read w1 w2).map (.cas (lo7 (fC w2)))
  | 0x6E => (LM.read w1 w2).map .xadd
  | 0x6F => (LM.readWith w1 w2 (fD w1) 0).map (fun f => .xrd f ((fC w2).getLsbD 7) (lo3 (fC w2)))
  | 0x70 => some (.tex (lo7 (fD w1)) (lo7 (fA w1)) (lo7 (fB w1)) ((fSpec w2).getLsbD 15) (lo7 (fC w2)) ((fMod w2).extractLsb' 2 2) (fGuard w2))
  | 0x71 => some (.trace (lo7 (fD w1)) (lo7 (fA w1)) (lo7 (fB w1)) (fC w2) ((fSpec w2).extractLsb' 0 5) ((fMod w2).extractLsb' 2 2) (fGuard w2))
  | 0x72 => some (.trnext (lo7 (fD w1)) (fGuard w2))
  | 0x73 => some (.traccept (lo7 (fD w1)) (fGuard w2))
  | 0x74 => some (.trhit (lo7 (fD w1)) (fGuard w2))
  | 0x75 => some (.camray (lo7 (fD w1)) (lo7 (fA w1)) (lo7 (fB w1)) ((fMod w2).getLsbD 0) ((fMod w2).extractLsb' 2 2) (fGuard w2))
  | 0x76 => some (.resup (lo3 (fD w1)) (lo7 (fA w1)) (lo7 (fB w1)) (lo7 (fC w2)) (fGuard w2))
  | 0x77 => some (.resmg (lo3 (fD w1)) (lo3 (fA w1)) (lo7 (fC w2)) (fGuard w2))
  | 0x78 => some (.resfin (lo7 (fD w1)) (lo3 (fA w1)) (fSpec w2) (fGuard w2))
  | 0x79 => (LM.readWith w1 w2 0 (fC w2)).map (.resld (lo3 (fD w1)))
  | 0x7A => (LM.readWith w1 w2 (fD w1) 0).map (.resst (lo3 (fC w2)))
  | 0x7B => some (.resget (lo7 (fD w1)) (lo3 (fA w1)) ((fMod w2).extractLsb' 0 3) (fGuard w2))
  | 0x7C => some (.resset (lo3 (fD w1)) (lo7 (fA w1)) ((fMod w2).extractLsb' 0 3) (fGuard w2))
  | 0x7D => some (.resclr (lo3 (fD w1)) (fGuard w2))
  | 0x7E => some (.drawB32 (lo7 (fD w1)) (fGuard w2))
  | _ => none

/-- The uniform instruction of an extended opcode below XF (R176): none where a field holds a reserved value. -/
def parseUniExt (w1 w2 : W32) : Option Instr :=
  match fOp w1 with
  | 0xC0 => some (.smovi (lo7 (fD w1)) (fA w1 ++ fB w1 ++ fSpec w2) ((fMod w2).extractLsb' 0 2) (fGuard w2))
  | 0xC2 => some (.scmpS64 (lo2 (fD w1)) (.ofBits (fA w1)) (.ofBits (fB w1) (fSpec w2)) ((fC w2).getLsbD 3) ((fC w2).getLsbD 2) (lo2 (fC w2)) (fMod w2) (fGuard w2))
  | 0xC3 => some (.scmpN64 (lo2 (fD w1)) (.ofBits (fA w1)) (.ofBits (fB w1) (fSpec w2)) ((fC w2).getLsbD 3) ((fC w2).getLsbD 2) (lo2 (fC w2)) (fMod w2) (fGuard w2))
  | 0xC4 => some (.ssel (.ofBits (fD w1)) (.ofBits (fA w1)) (.ofBits (fB w1) (fSpec w2)) (lo2 (fC w2)) ((fC w2).getLsbD 2) (fGuard w2))
  | 0xC5 => some (.sbfe (.ofBits (fD w1)) (.ofBits (fA w1)) (.ofBits (fB w1) (fSpec w2)) ((fMod w2).getLsbD 0) (fGuard w2))
  | 0xC6 => some (.stmap (lo7 (fD w1)) (lo7 (fA w1)) (lo7 (fB w1)) ((fMod w2).getLsbD 0) ((fSpec w2).extractLsb' 0 3) (fGuard w2))
  | 0xC7 => some (.stunmap ((fSpec w2).extractLsb' 0 3) (fGuard w2))
  | 0xC8 => (UM.read w1 w2 false).map .sldB32
  | 0xC9 => (UM.read w1 w2 false).map .sldB64
  | 0xCA => (UM.read w1 w2 true).map .sstB32
  | 0xCB => (UM.read w1 w2 true).map .sstB64
  | 0xCC => Space.ofBits ((fSpec w2).extractLsb' 14 2) >>= fun dsp => (Space.ofBits ((fSpec w2).extractLsb' 12 2)).map (fun ssp => .copy (lo7 (fD w1)) (lo7 (fA w1)) (lo7 (fB w1)) ((fMod w2).extractLsb' 0 3) dsp ssp (fGuard w2))
  | 0xCD => some (.lload (lo7 (fD w1)) (lo7 (fA w1)) (lo7 (fB w1)) (lo7 (fC w2)) ((fMod w2).extractLsb' 0 3) ((fSpec w2).extractLsb' 0 12) (fGuard w2))
  | 0xCE => some (.lstore (lo7 (fD w1)) (lo7 (fA w1)) (lo7 (fB w1)) (lo7 (fC w2)) ((fMod w2).extractLsb' 0 3) ((fSpec w2).extractLsb' 0 12) (fGuard w2))
  | 0xD0 => some (.mclaim (fD w1) (fA w1) (fGuard w2))
  | 0xD1 => (Space.ofBits ((fSpec w2).extractLsb' 14 2)).map (fun sp => .mld (fD w1) (lo7 (fA w1)) (lo7 (fB w1)) ((fMod w2).extractLsb' 2 2) ((fMod w2).getLsbD 0) sp ((fSpec w2).extractLsb' 12 2) (fGuard w2))
  | 0xD2 => some (.mma (fD w1) (fA w1) (fB w1) (fC w2) ((fMod w2).getLsbD 2) ((fMod w2).extractLsb' 0 2) (fSpec w2) (fGuard w2))
  | 0xD3 => (Space.ofBits ((fSpec w2).extractLsb' 10 2)) >>= fun asp => (Space.ofBits ((fSpec w2).extractLsb' 8 2)).map (fun bsp => .mloop (lo7 (fD w1)) (lo7 (fA w1)) (fB w1) (fC w2) ((fMod w2).getLsbD 2) ((fMod w2).extractLsb' 0 2) ((fSpec w2).extractLsb' 12 4) asp bsp (fGuard w2))
  | 0xD4 => (Space.ofBits ((fSpec w2).extractLsb' 14 2)).map (fun sp => .mst (lo7 (fD w1)) (lo7 (fA w1)) (fB w1) (fC w2) (fMod w2) sp ((fSpec w2).extractLsb' 12 2) (fGuard w2))
  | 0xD5 => some (.mdesc (lo2 (fD w1)) (lo7 (fA w1)) (lo7 (fB w1)) (fGuard w2))
  | 0xD6 => (Space.ofBits ((fSpec w2).extractLsb' 14 2)).map (fun sp => .mscale (lo7 (fD w1)) (lo7 (fA w1)) (lo7 (fB w1)) ((fMod w2).extractLsb' 2 2) sp (fGuard w2))
  | 0xD7 => some (.mlease ((fSpec w2).extractLsb' 0 9) (fGuard w2))
  | 0xD8 => (Space.ofBits ((fSpec w2).extractLsb' 14 2)).map (fun sp => .sqtab (lo3 (fD w1)) (lo7 (fA w1)) ((fMod w2).extractLsb' 2 2) sp (fGuard w2))
  | 0xD9 => (Space.ofBits ((fSpec w2).extractLsb' 14 2)).map (fun sp => .sqfact (lo3 (fD w1)) (lo7 (fA w1)) ((fMod w2).extractLsb' 2 2) sp (fGuard w2))
  | 0xDA => some (.sqstart (lo7 (fD w1)) (lo7 (fA w1)) (lo2 (fC w2)) ((fSpec w2).extractLsb' 0 3) (fGuard w2))
  | 0xDB => some (.sqstage (lo7 (fD w1)) (lo2 (fC w2)) ((fMod w2).getLsbD 0) (fGuard w2))
  | 0xDC => some (.sqret (lo7 (fA w1)) (fGuard w2))
  | 0xDD => some (.sqstat (lo7 (fD w1)) (lo7 (fA w1)) (fGuard w2))
  | 0xDE => some (.sqdrain (lo7 (fD w1)) (fGuard w2))
  | 0xE0 => some (.pbind (lo7 (fD w1)) (lo7 (fA w1)) (fGuard w2))
  | 0xE1 => some (.prun (lo7 (fD w1)) (lo7 (fA w1)) (lo7 (fB w1)) (fGuard w2))
  | 0xE2 => some (.pwait (lo7 (fD w1)) (lo7 (fA w1)) (fGuard w2))
  | 0xE3 => some (.pdrop (lo7 (fA w1)) (fGuard w2))
  | 0xE4 => some (.taddr (lo7 (fD w1)) (lo7 (fA w1)) ((fMod w2).getLsbD 0) ((fSpec w2).extractLsb' 0 4) (fGuard w2))
  | 0xE5 => some (.gquery (lo7 (fD w1)) (lo7 (fA w1)) ((fSpec w2).extractLsb' 0 4) (fGuard w2))
  | _ => none

/-- A cell of the opcode maps that holds an extended form (R175, R176). -/
def extDefined (op : BitVec 8) : Bool :=
  let n := op.toNat
  (decide (0x40 ≤ n) && decide (n ≤ 0x7F)) || (decide (0xC0 ≤ n) && decide (n ≤ 0xFF) &&
    !([0xC1, 0xCF, 0xDF].contains n) && (n == 0xFF || decide (n ≤ 0xE5)))

/-- Check 1 of R172 on the first word: its opcode is defined in its set. -/
def opDefined (op : BitVec 8) : Bool :=
  if extended op then extDefined op
  else if op.getLsbD 7 then (UniOp.ofCode (op &&& 0x7F)).isSome else (LaneOp.ofCode op).isSome

/-- Check 1 of R172 on both words: also XF must name a short opcode of its set (R171). -/
def opcodeOk (w1 w2 : W32) : Bool :=
  if fOp w1 = 0x7F then (LaneOp.ofCode (fC w2)).isSome
  else if fOp w1 = 0xFF then (UniOp.ofCode (fC w2)).isSome
  else opDefined (fOp w1)

/-- The uniform XF twin (R171), with exit's HELP form apart (R379). -/
def parseUniXf (w1 w2 : W32) (op : UniOp) : Instr :=
  if op = .exit && (fMod w2).getLsbD 1 && w1 = word1 0xFF 0 0 0 && fSpec w2 = 0 then
    .exitHelp (fGuard w2) ((fMod w2).getLsbD 0)
  else .uniformXf op (fD w1) (fA w1) (fB w1) (fGuard w2) (fMod w2) (imm15Of (fSpec w2))

/-- The candidate instruction of the words: its fields taken from the places the class gives them. -/
def parse (w1 w2 : W32) : Option Instr :=
  if fOp w1 = 0x7F then (LaneOp.ofCode (fC w2)).map (fun op => .laneXf op (LX.readXf w1 w2))
  else if fOp w1 = 0xFF then (UniOp.ofCode (fC w2)).map (parseUniXf w1 w2)
  else if extended (fOp w1) then
    if (fOp w1).getLsbD 7 then parseUniExt w1 w2 else parseLaneExt w1 w2
  else if (fOp w1).getLsbD 7 then
    (UniOp.ofCode (fOp w1 &&& 0x7F)).bind (fun op => op.instr (fD w1) (fA w1) (fB w1))
  else (LaneOp.ofCode (fOp w1)).map (fun op => op.instr (fD w1) (fA w1) (fB w1))

/-- The words of an instruction, from the encoding tables of chapters 07 to 15; none for the steps without a word. -/
def encode (i : Instr) : Option (W32 × Option W32) :=
  match i with
  | .faddF32 d a b => some (word1 0x01 d.bits a.bits b.bits, none)
  | .fsubF32 d a b => some (word1 0x02 d.bits a.bits b.bits, none)
  | .fmulF32 d a b => some (word1 0x03 d.bits a.bits b.bits, none)
  | .fminF32 d a b => some (word1 0x04 d.bits a.bits b.bits, none)
  | .fmaxF32 d a b => some (word1 0x05 d.bits a.bits b.bits, none)
  | .fdivF32 d a b => some (word1 0x06 d.bits a.bits b.bits, none)
  | .fsqrtF32 d b => some (word1 0x07 d.bits 0 b.bits, none)
  | .daddF64 d a b => some (word1 0x08 d.bits a.bits b.bits, none)
  | .dsubF64 d a b => some (word1 0x09 d.bits a.bits b.bits, none)
  | .dmulF64 d a b => some (word1 0x0A d.bits a.bits b.bits, none)
  | .dminF64 d a b => some (word1 0x0B d.bits a.bits b.bits, none)
  | .dmaxF64 d a b => some (word1 0x0C d.bits a.bits b.bits, none)
  | .ddivF64 d a b => some (word1 0x0D d.bits a.bits b.bits, none)
  | .dsqrtF64 d b => some (word1 0x0E d.bits 0 b.bits, none)
  | .hadd2F16 d a b => some (word1 0x10 d.bits a.bits b.bits, none)
  | .hmul2F16 d a b => some (word1 0x11 d.bits a.bits b.bits, none)
  | .hmin2F16 d a b => some (word1 0x12 d.bits a.bits b.bits, none)
  | .hmax2F16 d a b => some (word1 0x13 d.bits a.bits b.bits, none)
  | .hadd2Bf16 d a b => some (word1 0x14 d.bits a.bits b.bits, none)
  | .hmul2Bf16 d a b => some (word1 0x15 d.bits a.bits b.bits, none)
  | .hmin2Bf16 d a b => some (word1 0x16 d.bits a.bits b.bits, none)
  | .hmax2Bf16 d a b => some (word1 0x17 d.bits a.bits b.bits, none)
  | .iaddS32 d a b => some (word1 0x18 d.bits a.bits b.bits, none)
  | .isubS32 d a b => some (word1 0x19 d.bits a.bits b.bits, none)
  | .imulS32 d a b => some (word1 0x1A d.bits a.bits b.bits, none)
  | .imulhiS32 d a b => some (word1 0x1B d.bits a.bits b.bits, none)
  | .imulhiN32 d a b => some (word1 0x1C d.bits a.bits b.bits, none)
  | .iminS32 d a b => some (word1 0x1D d.bits a.bits b.bits, none)
  | .iminN32 d a b => some (word1 0x1E d.bits a.bits b.bits, none)
  | .imaxS32 d a b => some (word1 0x1F d.bits a.bits b.bits, none)
  | .imaxN32 d a b => some (word1 0x20 d.bits a.bits b.bits, none)
  | .iaddS64 d a b => some (word1 0x21 d.bits a.bits b.bits, none)
  | .isubS64 d a b => some (word1 0x22 d.bits a.bits b.bits, none)
  | .qaddS32 d a b => some (word1 0x23 d.bits a.bits b.bits, none)
  | .qsubS32 d a b => some (word1 0x24 d.bits a.bits b.bits, none)
  | .iabsS32 d b => some (word1 0x25 d.bits 0 b.bits, none)
  | .inegS32 d b => some (word1 0x26 d.bits 0 b.bits, none)
  | .andB32 d a b => some (word1 0x28 d.bits a.bits b.bits, none)
  | .orB32 d a b => some (word1 0x29 d.bits a.bits b.bits, none)
  | .xorB32 d a b => some (word1 0x2A d.bits a.bits b.bits, none)
  | .notB32 d b => some (word1 0x2B d.bits 0 b.bits, none)
  | .shlB32 d a b => some (word1 0x2C d.bits a.bits b.bits, none)
  | .shrN32 d a b => some (word1 0x2D d.bits a.bits b.bits, none)
  | .shrS32 d a b => some (word1 0x2E d.bits a.bits b.bits, none)
  | .rotB32 d a b => some (word1 0x2F d.bits a.bits b.bits, none)
  | .popcB32 d b => some (word1 0x30 d.bits 0 b.bits, none)
  | .clzB32 d b => some (word1 0x31 d.bits 0 b.bits, none)
  | .brevB32 d b => some (word1 0x32 d.bits 0 b.bits, none)
  | .movB32 d b => some (word1 0x33 d.bits 0 b.bits, none)
  | .movB64 d b => some (word1 0x34 d.bits 0 b.bits, none)
  | .lidB32 d => some (word1 0x35 d.bits 0 0, none)
  | .xset x b => some (word1 0x36 (low2 x) 0 b.bits, none)
  | .xget d x => some (word1 0x37 d.bits 0 (low2 x), none)
  | .frcpF32 d b => some (word1 0x38 d.bits 0 b.bits, none)
  | .frsqF32 d b => some (word1 0x39 d.bits 0 b.bits, none)
  | .fex2F32 d b => some (word1 0x3A d.bits 0 b.bits, none)
  | .flg2F32 d b => some (word1 0x3B d.bits 0 b.bits, none)
  | .fsinF32 d b => some (word1 0x3C d.bits 0 b.bits, none)
  | .fcosF32 d b => some (word1 0x3D d.bits 0 b.bits, none)
  | .lnrdB32 d a b => some (word1 0x3E d.bits a.bits b.bits, none)
  | .lnrdxB32 d a b => some (word1 0x3F d.bits a.bits b.bits, none)
  | .fmaF32 f => some (f.words 0x40)
  | .fmaF64 f => some (f.words 0x41)
  | .hfma2F16 f => some (f.words 0x42)
  | .hfma2Bf16 f => some (f.words 0x43)
  | .imadS32 f => some (f.words 0x44)
  | .imadS64 f => some (f.words 0x45)
  | .selB32 f => some (f.words 0x46)
  | .bool3B32 f => some (f.words 0x47)
  | .fcmpF32 f => some (f.words 0x48)
  | .dcmpF64 f => some (f.words 0x49)
  | .fclassF32 f => some (f.words 0x4A)
  | .mrd d a acc g => some ((word1 0x4B (reg8 d) (reg8 a) 0, some (word2 0 g 0 ((0 : BitVec 8) ++ acc))))
  | .icmpS32 f => some (f.words 0x4C)
  | .icmpN32 f => some (f.words 0x4D)
  | .icmpS64 f => some (f.words 0x4E)
  | .icmpN64 f => some (f.words 0x4F)
  | .cvt f => some (f.words 0x50)
  | .cvtpk f => some (f.words 0x51)
  | .frndF32 f => some (f.words 0x52)
  | .bselB32 f => some (f.words 0x53)
  | .bfeB32 f => some (f.words 0x54)
  | .bfiB32 f => some (f.words 0x55)
  | .dot4S8 f => some (f.words 0x56)
  | .movi d imm g => some ((word1 0x57 (reg8 d) (imm.extractLsb' 24 8) (imm.extractLsb' 16 8), some (word2 0 g 0 (imm.extractLsb' 0 16))))
  | .agree pd pa neg kind g => some ((word1 0x58 (low3 pd) ((0 : BitVec 4) ++ BitVec.ofBool neg ++ pa) 0, some (word2 0 g ((0 : BitVec 2) ++ kind) 0)))
  | .lmask d pa neg g => some ((word1 0x59 (reg8 d) ((0 : BitVec 4) ++ BitVec.ofBool neg ++ pa) 0, some (word2 0 g 0 0)))
  | .rsumF32 f => some (f.words 0x5A)
  | .rminF32 f => some (f.words 0x5B)
  | .rmaxF32 f => some (f.words 0x5C)
  | .rsumS32 f => some (f.words 0x5D)
  | .rminS32 f => some (f.words 0x5E)
  | .rmaxS32 f => some (f.words 0x5F)
  | .ldB8 f => some (f.words 0x60)
  | .ldS8 f => some (f.words 0x61)
  | .ldB16 f => some (f.words 0x62)
  | .ldS16 f => some (f.words 0x63)
  | .ldB32 f => some (f.words 0x64)
  | .ldB64 f => some (f.words 0x65)
  | .ldB128 f => some (f.words 0x66)
  | .stB8 f => some (f.words 0x67)
  | .stB16 f => some (f.words 0x68)
  | .stB32 f => some (f.words 0x69)
  | .stB64 f => some (f.words 0x6A)
  | .stB128 f => some (f.words 0x6B)
  | .atom op f => some (f.words 0x6C ((0 : BitVec 4) ++ op))
  | .cas c f => some (f.words 0x6D (reg8 c))
  | .xadd f => some (f.words 0x6E)
  | .xrd f f64 rm => some (f.wordsWith 0x6F f.d.bits (BitVec.ofBool f64 ++ (0 : BitVec 4) ++ rm))
  | .tex d a b bu c hint g => some ((word1 0x70 (reg8 d) (reg8 a) (reg8 b), some (word2 (reg8 c) g (hint ++ (0 : BitVec 2)) (BitVec.ofBool bu ++ (0 : BitVec 15)))))
  | .trace d a root rmask flags hint g => some ((word1 0x71 (reg8 d) (reg8 a) (reg8 root), some (word2 rmask g (hint ++ (0 : BitVec 2)) ((0 : BitVec 11) ++ flags))))
  | .trnext d g => some ((word1 0x72 (reg8 d) 0 0, some (word2 0 g 0 0)))
  | .traccept d g => some ((word1 0x73 (reg8 d) 0 0, some (word2 0 g 0 0)))
  | .trhit d g => some ((word1 0x74 (reg8 d) 0 0, some (word2 0 g 0 0)))
  | .camray d tile desc jit hint g => some ((word1 0x75 (reg8 d) (reg8 tile) (reg8 desc), some (word2 0 g (hint ++ (0 : BitVec 1) ++ BitVec.ofBool jit) 0)))
  | .resup w a b c g => some ((word1 0x76 (low3 w) (reg8 a) (reg8 b), some (word2 (reg8 c) g 0 0)))
  | .resmg wd wa c g => some ((word1 0x77 (low3 wd) (low3 wa) 0, some (word2 (reg8 c) g 0 0)))
  | .resfin d w cap g => some ((word1 0x78 (reg8 d) (low3 w) 0, some (word2 0 g 0 cap)))
  | .resld w f => some (f.wordsWith 0x79 (low3 w) f.c.bits)
  | .resst w f => some (f.wordsWith 0x7A f.d.bits (low3 w))
  | .resget d w field g => some ((word1 0x7B (reg8 d) (low3 w) 0, some (word2 0 g ((0 : BitVec 1) ++ field) 0)))
  | .resset w a field g => some ((word1 0x7C (low3 w) (reg8 a) 0, some (word2 0 g ((0 : BitVec 1) ++ field) 0)))
  | .resclr w g => some ((word1 0x7D (low3 w) 0 0, some (word2 0 g 0 0)))
  | .drawB32 d g => some ((word1 0x7E (reg8 d) 0 0, some (word2 0 g 0 0)))
  | .laneXf op f => some (f.wordsXf op.code)
  | .nop => some (word1 0x80 0 0 0, none)
  | .saddB64 d a b => some (word1 0x81 d.bits a.bits b.bits, none)
  | .ssubB64 d a b => some (word1 0x82 d.bits a.bits b.bits, none)
  | .smulB64 d a b => some (word1 0x83 d.bits a.bits b.bits, none)
  | .smulhiS64 d a b => some (word1 0x84 d.bits a.bits b.bits, none)
  | .smulhiN64 d a b => some (word1 0x85 d.bits a.bits b.bits, none)
  | .sminS64 d a b => some (word1 0x86 d.bits a.bits b.bits, none)
  | .sminN64 d a b => some (word1 0x87 d.bits a.bits b.bits, none)
  | .smaxS64 d a b => some (word1 0x88 d.bits a.bits b.bits, none)
  | .smaxN64 d a b => some (word1 0x89 d.bits a.bits b.bits, none)
  | .sandB64 d a b => some (word1 0x8A d.bits a.bits b.bits, none)
  | .sorB64 d a b => some (word1 0x8B d.bits a.bits b.bits, none)
  | .sxorB64 d a b => some (word1 0x8C d.bits a.bits b.bits, none)
  | .snotB64 d b => some (word1 0x8D d.bits 0 b.bits, none)
  | .sshlB64 d a b => some (word1 0x8E d.bits a.bits b.bits, none)
  | .sshrN64 d a b => some (word1 0x8F d.bits a.bits b.bits, none)
  | .sshrS64 d a b => some (word1 0x90 d.bits a.bits b.bits, none)
  | .smovB64 d b => some (word1 0x91 d.bits 0 b.bits, none)
  | .spopcB64 d b => some (word1 0x92 d.bits 0 b.bits, none)
  | .sclzB64 d b => some (word1 0x93 d.bits 0 b.bits, none)
  | .bra off => some (word1 0x94 (off.extractLsb' 16 8) (off.extractLsb' 8 8) (off.extractLsb' 0 8), none)
  | .call off => some (word1 0x95 (off.extractLsb' 16 8) (off.extractLsb' 8 8) (off.extractLsb' 0 8), none)
  | .ret => some (word1 0x96 0 0 0, none)
  | .exit => some (word1 0x97 0 0 0, none)
  | .yield => some (word1 0x98 0 0 0, none)
  | .brx a => some (word1 0x99 0 (reg8 a) 0, none)
  | .wait l s c t => some (word1 0x9A (l ++ s.extractLsb' 4 2) (s.extractLsb' 0 4 ++ c.extractLsb' 2 4) (c.extractLsb' 0 2 ++ t), none)
  | .mparr d m => some (word1 0x9B (reg8 d) (reg8 m) 0, none)
  | .mpwait m b => some (word1 0x9C 0 (reg8 m) (reg8 b), none)
  | .mpinit m b => some (word1 0x9D 0 (reg8 m) (reg8 b), none)
  | .trap code => some (word1 0x9E 0 0 code, none)
  | .tret => some (word1 0x9F 0 0 0, none)
  | .sysrd d reg => some (word1 0xA0 (reg8 d) (reg8 (reg.extractLsb' 8 7)) (reg.extractLsb' 0 8), none)
  | .syswr reg d => some (word1 0xA1 (reg8 d) (reg8 (reg.extractLsb' 8 7)) (reg.extractLsb' 0 8), none)
  | .repack d => some (word1 0xA2 (reg8 d) 0 0, none)
  | .repackKey d v => some (word1 0xA2 (reg8 d) 0 ((1 : BitVec 1) ++ v), none)
  | .ilock d a b => some (word1 0xA3 (reg8 d) (reg8 a) (reg8 b), none)
  | .iunlock a b => some (word1 0xA4 0 (reg8 a) (reg8 b), none)
  | .genkeyKey a => some (word1 0xA5 0 (reg8 a) 0, none)
  | .genkeyCtr a => some (word1 0xA5 0 (reg8 a) 1, none)
  | .genkeyStrm a => some (word1 0xA5 0 (reg8 a) 2, none)
  | .genkeyRdkey d => some (word1 0xA5 (reg8 d) 0 3, none)
  | .genkeyRd d => some (word1 0xA5 (reg8 d) 0 4, none)
  | .pwrhint kind => some (word1 0xA6 0 0 kind, none)
  | .fence scope => some (word1 0xA7 (low3 scope) 0 0, none)
  | .acq scope layer a => some (word1 0xA8 ((0 : BitVec 4) ++ BitVec.ofBool layer ++ scope) (reg8 a) 0, none)
  | .rel scope layer a => some (word1 0xA9 ((0 : BitVec 4) ++ BitVec.ofBool layer ++ scope) (reg8 a) 0, none)
  | .spawn d a team => some (word1 0xAA (reg8 d) (reg8 a) (if team then 2 else 0), none)
  | .twait a => some (word1 0xAB 0 (reg8 a) 0, none)
  | .steal d a => some (word1 0xAC (reg8 d) (reg8 a) 0, none)
  | .tileret => some (word1 0xAD 0 0 0, none)
  | .tilecur d => some (word1 0xAE (reg8 d) 0 0, none)
  | .tinfo d => some (word1 0xAF (reg8 d) 0 0, none)
  | .mfree => some (word1 0xB0 0 0 0, none)
  | .mzero acc len => some (word1 0xB1 acc len 0, none)
  | .exitHelp g pkind => some (word1 0xFF 0 0 0, some (word2 0x17 g ((0 : BitVec 2) ++ (1 : BitVec 1) ++ BitVec.ofBool pkind) 0))
  | .smovi d imm kind g => some ((word1 0xC0 (reg8 d) (imm.extractLsb' 24 8) (imm.extractLsb' 16 8), some (word2 0 g ((0 : BitVec 2) ++ kind) (imm.extractLsb' 0 16))))
  | .scmpS64 bd a b use neg bc cond g => some ((word1 0xC2 (low2 bd) a.bits b.bits, some (word2 ((0 : BitVec 4) ++ BitVec.ofBool use ++ BitVec.ofBool neg ++ bc) g cond b.spec)))
  | .scmpN64 bd a b use neg bc cond g => some ((word1 0xC3 (low2 bd) a.bits b.bits, some (word2 ((0 : BitVec 4) ++ BitVec.ofBool use ++ BitVec.ofBool neg ++ bc) g cond b.spec)))
  | .ssel d a b bc neg g => some ((word1 0xC4 d.bits a.bits b.bits, some (word2 ((0 : BitVec 5) ++ BitVec.ofBool neg ++ bc) g 0 b.spec)))
  | .sbfe d a b sg g => some ((word1 0xC5 d.bits a.bits b.bits, some (word2 0 g ((0 : BitVec 3) ++ BitVec.ofBool sg) b.spec)))
  | .stmap t gl len rw win g => some ((word1 0xC6 (reg8 t) (reg8 gl) (reg8 len), some (word2 0 g ((0 : BitVec 3) ++ BitVec.ofBool rw) ((0 : BitVec 13) ++ win))))
  | .stunmap win g => some ((word1 0xC7 0 0 0, some (word2 0 g 0 ((0 : BitVec 13) ++ win))))
  | .sldB32 f => some (f.words 0xC8 false)
  | .sldB64 f => some (f.words 0xC9 false)
  | .sstB32 f => some (f.words 0xCA true)
  | .sstB64 f => some (f.words 0xCB true)
  | .copy d a b c dsp ssp g => some ((word1 0xCC (reg8 d) (reg8 a) (reg8 b), some (word2 0 g ((0 : BitVec 1) ++ c) (dsp.bits ++ ssp.bits ++ (0 : BitVec 12)))))
  | .lload d a b c cr pitch g => some ((word1 0xCD (reg8 d) (reg8 a) (reg8 b), some (word2 (reg8 c) g ((0 : BitVec 1) ++ cr) ((0 : BitVec 4) ++ pitch))))
  | .lstore d a b c cr pitch g => some ((word1 0xCE (reg8 d) (reg8 a) (reg8 b), some (word2 (reg8 c) g ((0 : BitVec 1) ++ cr) ((0 : BitVec 4) ++ pitch))))
  | .mclaim slots acc g => some ((word1 0xD0 slots acc 0, some (word2 0 g 0 0)))
  | .mld slot a b hint kindB sp dn g => some ((word1 0xD1 slot (reg8 a) (reg8 b), some (word2 0 g (hint ++ (0 : BitVec 1) ++ BitVec.ofBool kindB) (sp.bits ++ dn ++ (0 : BitVec 12)))))
  | .mma acc sa sb ty zero dn t g => some ((word1 0xD2 acc sa sb, some (word2 ty g ((0 : BitVec 1) ++ BitVec.ofBool zero ++ dn) t)))
  | .mloop d a acc ty zero dn slot asp bsp g => some ((word1 0xD3 (reg8 d) (reg8 a) acc, some (word2 ty g ((0 : BitVec 1) ++ BitVec.ofBool zero ++ dn) (slot ++ asp.bits ++ bsp.bits ++ (0 : BitVec 8)))))
  | .mst d a acc fmt rm sp dn g => some ((word1 0xD4 (reg8 d) (reg8 a) acc, some (word2 fmt g rm (sp.bits ++ dn ++ (0 : BitVec 12)))))
  | .mdesc n a b g => some ((word1 0xD5 (low2 n) (reg8 a) (reg8 b), some (word2 0 g 0 0)))
  | .mscale d a b hint sp g => some ((word1 0xD6 (reg8 d) (reg8 a) (reg8 b), some (word2 0 g (hint ++ (0 : BitVec 2)) (sp.bits ++ (0 : BitVec 14)))))
  | .mlease steps g => some ((word1 0xD7 0 0 0, some (word2 0 g 0 ((0 : BitVec 7) ++ steps))))
  | .sqtab tab a hint sp g => some ((word1 0xD8 (low3 tab) (reg8 a) 0, some (word2 0 g (hint ++ (0 : BitVec 2)) (sp.bits ++ (0 : BitVec 14)))))
  | .sqfact tab a hint sp g => some ((word1 0xD9 (low3 tab) (reg8 a) 0, some (word2 0 g (hint ++ (0 : BitVec 2)) (sp.bits ++ (0 : BitVec 14)))))
  | .sqstart d a b tab g => some ((word1 0xDA (reg8 d) (reg8 a) 0, some (word2 (low2 b) g 0 ((0 : BitVec 13) ++ tab))))
  | .sqstage d b wt g => some ((word1 0xDB (reg8 d) 0 0, some (word2 (low2 b) g ((0 : BitVec 3) ++ BitVec.ofBool wt) 0)))
  | .sqret a g => some ((word1 0xDC 0 (reg8 a) 0, some (word2 0 g 0 0)))
  | .sqstat d a g => some ((word1 0xDD (reg8 d) (reg8 a) 0, some (word2 0 g 0 0)))
  | .sqdrain d g => some ((word1 0xDE (reg8 d) 0 0, some (word2 0 g 0 0)))
  | .pbind d a g => some ((word1 0xE0 (reg8 d) (reg8 a) 0, some (word2 0 g 0 0)))
  | .prun d a b g => some ((word1 0xE1 (reg8 d) (reg8 a) (reg8 b), some (word2 0 g 0 0)))
  | .pwait d a g => some ((word1 0xE2 (reg8 d) (reg8 a) 0, some (word2 0 g 0 0)))
  | .pdrop a g => some ((word1 0xE3 0 (reg8 a) 0, some (word2 0 g 0 0)))
  | .taddr d a mode entry g => some ((word1 0xE4 (reg8 d) (reg8 a) 0, some (word2 0 g ((0 : BitVec 3) ++ BitVec.ofBool mode) ((0 : BitVec 12) ++ entry))))
  | .gquery d a kind g => some ((word1 0xE5 (reg8 d) (reg8 a) 0, some (word2 0 g 0 ((0 : BitVec 12) ++ kind))))
  | .uniformXf op d a b g m imm => some (word1 0xFF d a b, some (word2 op.code g m (imm15Spec imm)))
  | _ => none

/-- What the decode checks of R172 find in the words: check 1 fails, check 2 fails, or an instruction and whether it has an
extension word. -/
inductive Decoded where
  | illegal
  | reserved
  | instr (i : Instr) (long : Bool)
  deriving DecidableEq, Repr

/-- Checks 1 and 2 of R172. Every bit of the words must be the one the instruction's encoding gives it: a field required to
be 0 or a reserved value leaves the candidate with other words, or not well formed. w2 is read for an extended form only. -/
def decode (w1 w2 : W32) : Decoded :=
  if opcodeOk w1 w2 then
    match parse w1 w2 with
    | some i =>
      let long := extended (fOp w1)
      if i.wf && encode i == some (w1, if long then some w2 else none) then .instr i long else .reserved
    | none => .reserved
  else .illegal

/-- The instruction that a group issues for the words: an undefined cell is a step of its own, cause 0x01 (R176). -/
def decodeInstr (w1 w2 : W32) : Option Instr :=
  match decode w1 w2 with
  | .instr i _ => some i
  | .illegal => some (.illegalInstruction w1)
  | .reserved => none

/-- The instruction whose bits are w, numbered from the first word's bit 0 up (R161); every bit above nbits is 0. -/
def decodeTableWord (nbits w : Nat) : Option Instr :=
  let v := w % 2 ^ nbits
  decodeInstr (BitVec.ofNat 32 v) (BitVec.ofNat 32 (v >>> 32))

/-- A little-endian word of four bytes (R6). -/
def wordOfBytes (b0 b1 b2 b3 : Byte) : W32 := b3 ++ b2 ++ b1 ++ b0

/-- Decoding of bytes at increasing addresses, with the bytes that follow the instruction; none where fewer bytes than one
instruction are left. -/
def decodeBytes (l : List Byte) : Option (Decoded × List Byte) :=
  match l with
  | b0 :: b1 :: b2 :: b3 :: r =>
    let w1 := wordOfBytes b0 b1 b2 b3
    if extended (fOp w1) && extDefined (fOp w1) then
      match r with
      | c0 :: c1 :: c2 :: c3 :: r' => some (decode w1 (wordOfBytes c0 c1 c2 c3), r')
      | _ => none
    else some (decode w1 0, r)
  | _ => none

end Sys2Proof
end

