-- ==== Sys2Proof/Config.lean ====
section
/-! DEFINITION. What an implementation fixes and the spec leaves open: free values, opaque, with no body. -/

namespace Sys2Proof.Config

/-- What a v register holds after a REPACK that did not carry it (R384), by epoch, lane and register. Log 8. -/
opaque freeReg : Nat → Nat → Nat → W32

/-- What a w register holds after a REPACK that did not carry it (R384). Log 8. -/
opaque freeRes : Nat → Nat → Nat → BitVec 192

/-- A choice that the spec leaves to timing, by the counter State.tick: the old or the new word of a fetch (R181). Log 2. -/
opaque freeBit : Nat → Bool

/-- The half of a 64-bit operand or result that a lane channel's 32-bit entry does not carry (R112, R122, R218 state none),
by State.tick and lane. Log 13. -/
opaque freeChan : Nat → Nat → W32

/-- The clocks that a core's quad has run since CLK_LOCAL of the core was last read, by core and State.tick (R397). Log 2. -/
opaque clockAdvance : Nat → Nat → Nat

/-- The SM3 digest (GB/T 32905, named by R188 and R481, not given). Log 9. -/
opaque sm3 : List Byte → BitVec 256

/-- KS, the key that the firmware draws at each boot, by the number of boots, and that never leaves Protrum (R478). Log 44. -/
opaque saveKey : Nat → BitVec 256

/-- The number of blocks of a context's save area that the save of a team takes, by State.tick and team (R477). Log 44. -/
opaque saveBlocks : Nat → Nat → Nat

/-- The payload of a block of a save area: its arrangement belongs to the implementation (R477). By State.tick, team and block. Log 44. -/
opaque savePayload : Nat → Nat → Nat → List Byte

/-- The SM2 signature check of a page-hash table: key, digests, signature (R480). Log 9. -/
opaque sm2Verify : List Byte → List Byte → List Byte → Bool

/-- The level of the PROF700 ball as a boot reads it, by the number of boots (R528): true for the 700 W profile. Log 98. -/
opaque prof700 : Nat → Bool

/-- What the boot ROM finds of a firmware image (R538, R539): 0 it verifies, 1 its SM3 digest does not match, 2 its SM2 signature is invalid, 3 its header is
malformed. Its layout and the fused public key are not given. Log 9. -/
opaque firmwareCheck : List Byte → Fin 4

/-- The length of a host image that its first 4 KiB give, as far as the ROM reads it: at most 64 MiB (R541). Its place is not given. Log 9. -/
opaque imageLength : List Byte → Fin (2 ^ 26 + 1)

/-- The boot ROM, whose SM3 digest is measurement 1 (R545). Log 10. -/
opaque bootRom : List Byte

/-- The fuse configuration but for the PROF700 level, in measurement 3 (R545). Log 10. -/
opaque fuses : List Byte

/-- The certificate chain of the device key, which lies in the firmware region (R545), by the stored image. Log 10. -/
opaque certChain : List Byte → List Byte

/-- An SM2 signature with the device key, by State.tick and what is signed (R545). Log 10. -/
opaque spdmSign : Nat → List Byte → List Byte

/-- A nonce of an SPDM answer, by State.tick. Log 10. -/
opaque spdmNonce : Nat → List Byte

/-- The time exponent and the two sizes that a CAPABILITIES answer gives: 1, 4 and 4 bytes (R545 gives none). Log 10. -/
opaque spdmSizes : Nat × Nat × Nat

/-- The destination of an untranslated request that carries a PASID and a virtual address (R67): the host's IOMMU walks
its own tables. Log 11. -/
opaque untranslated : Nat → Nat → Nat → Nat

end Sys2Proof.Config
end

