-- ==== Sys2Proof/Machine/Flags.lean ====
section
/-! DEFINITION. Number formats, exact values, the one rounding step and every flag that chapter 06 computes. -/

namespace Sys2Proof.Machine

/-- The six sticky flags, at the bits NUM_FLAGS gives them (R150). -/
abbrev Flags := BitVec 6

def flagInv : Flags := 0x01
def flagDz : Flags := 0x02
def flagOvf : Flags := 0x04
def flagUnf : Flags := 0x08
def flagInx : Flags := 0x10
def flagSat : Flags := 0x20

/-- A flag where a condition holds. -/
def flagIf (c : Bool) (f : Flags) : Flags := if c then f else 0

/-- A non-zero magnitude m * 2^e with its sign. With sticky set the value lies strictly between m and m + 1 units of 2^e,
and e lies at least 34 places below the last place it is rounded to. -/
structure Exact where
  neg : Bool
  m : Nat
  e : Int
  sticky : Bool := false
  deriving DecidableEq, Repr

/-- A decoded value of any format. -/
inductive Num where
  | nan
  | inf (neg : Bool)
  | zero (neg : Bool)
  | fin (x : Exact)
  deriving DecidableEq, Repr

/-- The rounding modes of R144. -/
inductive Mode where
  | rne
  | rz
  | rdn
  | rup
  | rsr
  deriving DecidableEq, Repr

/-- The mode of a MOD value (R144); reserved values do not reach it. -/
def modeOf (n : Nat) : Mode :=
  match n with
  | 0 => .rne
  | 1 => .rz
  | 2 => .rdn
  | 3 => .rup
  | _ => .rsr

/-- The value x in units of 2^q, rounded to an integer count, and whether it was inexact (R144, R147). draw is the D of
R147; the first 32 discarded bits are F. A tie goes to the even count of units also where the format has no fraction bit, so that one between
2^n and 2^(n+1) goes to the larger magnitude: the spec does not say (log 83). -/
def roundAt (q : Int) (mode : Mode) (draw : Nat) (x : Exact) : Nat × Bool :=
  if q ≤ x.e then (x.m <<< (x.e - q).toNat, false)
  else
    let sh := (q - x.e).toNat
    let t := x.m >>> sh
    let rem := x.m % 2 ^ sh
    let half := 2 ^ (sh - 1)
    let inexact := rem != 0 || x.sticky
    let up :=
      match mode with
      | .rne => decide (half < rem) || (rem == half && (x.sticky || t % 2 == 1))
      | .rz => false
      | .rdn => inexact && x.neg
      | .rup => inexact && !x.neg
      | .rsr => decide (draw < (rem <<< 32) >>> sh)
    (if up then t + 1 else t, inexact)

/-- A binary floating-point format: width, trailing fraction bits, exponent of the last place of the smallest normal
value, sign, infinities, the code of the largest finite magnitude, the canonical NaN, a negative zero, saturation on
overflow (R135, R138, R146). The code of the magnitude k * 2^q with q at least qmin is (q - qmin) * 2^trail + k. -/
structure FloatFmt where
  width : Nat
  trail : Nat
  qmin : Int
  signed : Bool
  infs : Bool
  maxCode : Nat
  nanCode : Nat
  negZero : Bool
  sat : Bool
  deriving DecidableEq, Repr

/-- The IEEE binary formats (R135). -/
def ieee (width trail bias : Nat) : FloatFmt :=
  let expMax := 2 ^ (width - 1 - trail) - 1
  { width := width, trail := trail, qmin := 1 - (bias : Int) - (trail : Int), signed := true, infs := true,
    maxCode := expMax * 2 ^ trail - 1, nanCode := expMax * 2 ^ trail + 2 ^ (trail - 1), negZero := true, sat := false }

def f64 : FloatFmt := ieee 64 52 1023
def f32 : FloatFmt := ieee 32 23 127
def f16 : FloatFmt := ieee 16 10 15
def bf16 : FloatFmt := ieee 16 7 127

/-- KkPp in one of its four variants (R138). -/
def p3109 (k p : Nat) (unsigned finite : Bool) : FloatFmt :=
  let t := p - 1
  let expBits := if unsigned then k - p + 1 else k - p
  let bias := 2 ^ (expBits - 1)
  let top := if unsigned then 2 ^ k - 2 else 2 ^ (k - 1) - 1
  { width := k, trail := t, qmin := 1 - (bias : Int) - (t : Int), signed := !unsigned, infs := !finite,
    maxCode := if finite then top else top - 1, nanCode := if unsigned then 2 ^ k - 1 else 2 ^ (k - 1),
    negZero := false, sat := finite }

/-- The formats that a code of R143 names. -/
inductive Fmt where
  | float (f : FloatFmt)
  | scale
  | int (n : Nat) (unsigned : Bool)
  deriving DecidableEq, Repr

/-- The format of a code (R143); the reserved codes do not reach it. -/
def Fmt.ofCode (c : BitVec 8) : Fmt :=
  let k := c.toNat % 64
  let v := c.toNat / 64
  if k = 1 then .float f64 else if k = 2 then .float f32 else if k = 3 then .float f16 else if k = 4 then .float bf16
  else if k = 5 then .scale
  else if k ≤ 11 then .int (2 ^ (if k = 8 then 2 else if k = 9 then 3 else if k = 10 then 5 else 6)) (v == 2)
  else if k ≤ 23 then .float (p3109 8 (k - 16) (decide (2 ≤ v)) (v % 2 == 1))
  else .float (p3109 4 (k - 32) (decide (2 ≤ v)) (v % 2 == 1))

/-- The width of a format in bits (R239). -/
def Fmt.width : Fmt → Nat
  | .float f => f.width
  | .scale => 16
  | .int n _ => n

/-- The value of a code of a floating-point format (R135, R138). -/
def FloatFmt.decode (f : FloatFmt) (code : Nat) : Num :=
  let c := code % 2 ^ f.width
  let neg := f.signed && decide (2 ^ (f.width - 1) ≤ c)
  let mag := if f.signed then c % 2 ^ (f.width - 1) else c
  if f.negZero then
    if f.maxCode + 1 < mag then .nan
    else if mag = f.maxCode + 1 then .inf neg
    else if mag = 0 then .zero neg
    else
      let e := mag >>> f.trail
      let fr := mag % 2 ^ f.trail
      .fin ⟨neg, if e = 0 then fr else 2 ^ f.trail + fr, f.qmin + (if e = 0 then 0 else (e : Int) - 1), false⟩
  else
    if c = f.nanCode then .nan
    else if mag = f.maxCode + 1 then .inf neg
    else if mag = 0 then .zero false
    else
      let e := mag >>> f.trail
      let fr := mag % 2 ^ f.trail
      .fin ⟨neg, if e = 0 then fr else 2 ^ f.trail + fr, f.qmin + (if e = 0 then 0 else (e : Int) - 1), false⟩

/-- The code of a signed magnitude. -/
def FloatFmt.signedCode (f : FloatFmt) (neg : Bool) (mag : Nat) : Nat :=
  if neg && f.signed && (mag != 0 || f.negZero) then 2 ^ (f.width - 1) + mag else mag

def FloatFmt.zeroCode (f : FloatFmt) (neg : Bool) : Nat := f.signedCode neg 0
def FloatFmt.infCode (f : FloatFmt) (neg : Bool) : Nat := f.signedCode neg (f.maxCode + 1)
def FloatFmt.maxFin (f : FloatFmt) (neg : Bool) : Nat := f.signedCode neg f.maxCode

/-- An overflowing result (R146). -/
def FloatFmt.overflow (f : FloatFmt) (mode : Mode) (neg : Bool) : Nat × Flags :=
  if f.sat then (f.maxFin neg, flagOvf ||| flagInx ||| flagSat)
  else
    let toMax :=
      match mode with
      | .rne => false
      | .rz => true
      | .rdn => !neg
      | .rup => neg
      | .rsr => false
    (if toMax then f.maxFin neg else f.infCode neg, flagOvf ||| flagInx)

/-- The magnitude's code, rounded with the exponent range unbounded above, and whether it was inexact (R145, R146). -/
def FloatFmt.roundMag (f : FloatFmt) (mode : Mode) (draw : Nat) (x : Exact) : Nat × Bool :=
  let top : Int := (x.m.log2 : Int) + x.e
  let q := max (top - (f.trail : Int)) f.qmin
  let (k, inexact) := roundAt q mode draw x
  ((q - f.qmin).toNat * 2 ^ f.trail + k, inexact)

/-- The one rounding of a non-zero exact value (R145 to R149). A negative value that rounds to zero in a P3109 format sets UNF and INX, as R148
says of every such value; R149 lists INX alone (log 83). -/
def FloatFmt.round (f : FloatFmt) (mode : Mode) (draw : Nat) (x : Exact) : Nat × Flags :=
  let (mag, inexact) := f.roundMag mode draw x
  let low := flagIf inexact flagInx ||| flagIf (inexact && decide (mag < 2 ^ f.trail)) flagUnf
  if x.neg && !f.signed then if mag = 0 then (0, low) else (f.nanCode, flagInv)
  else if f.maxCode < mag then f.overflow mode x.neg
  else (f.signedCode x.neg mag, low)

/-- A value that is not rounded further, or a special value, in a format (R136, R149). An INT64 or UINT64 of more than 53 significant bits
rounds once to FP64 and sets INX (R145), where the spec calls that conversion exact (log 83). -/
def FloatFmt.convert (f : FloatFmt) (mode : Mode) (draw : Nat) : Num → Nat × Flags
  | .nan => (f.nanCode, 0)
  | .zero neg => (f.zeroCode neg, 0)
  | .inf neg =>
    if neg && !f.signed then (f.nanCode, flagInv)
    else if f.infs then (f.infCode neg, 0)
    else (f.maxFin neg, flagOvf ||| flagSat)
  | .fin x => f.round mode draw x

/-- The value of an S16 scale (R141). -/
def scaleDecode (code : Nat) : Num :=
  let e := bits code 15 8
  let fr := bits code 7 0
  if e = 0 then .zero false
  else if e = 255 then .nan
  else .fin ⟨false, 256 + fr, (e : Int) - 135, false⟩

/-- A conversion to S16 (R142). -/
def scaleConvert (mode : Mode) (draw : Nat) : Num → Nat × Flags
  | .nan => (0xFF00, flagInv)
  | .zero _ => (0, 0)
  | .inf neg => if neg then (0xFF00, flagInv) else (0xFEFF, flagOvf ||| flagInx ||| flagSat)
  | .fin x =>
    if x.neg then (0xFF00, flagInv)
    else
      let q : Int := (x.m.log2 : Int) + x.e - 8
      let (k, inexact) := roundAt q mode draw x
      let code : Int := (q + 134) * 256 + (k : Int)
      if code < 256 then (0, flagUnf ||| flagInx)
      else if 0xFEFF < code then (0xFEFF, flagOvf ||| flagInx ||| flagSat)
      else (code.toNat, flagIf inexact flagInx)

/-- A conversion to an integer of n bits (R146, R149). -/
def intConvert (n : Nat) (unsigned : Bool) (mode : Mode) (draw : Nat) : Num → Nat × Flags
  | .nan => (0, flagInv)
  | .zero _ => (0, 0)
  | .inf neg =>
    (if neg then (if unsigned then 0 else 2 ^ (n - 1)) else (if unsigned then 2 ^ n - 1 else 2 ^ (n - 1) - 1),
      flagInv ||| flagSat)
  | .fin x =>
    let (k, inexact) := roundAt 0 mode draw x
    let hi := if unsigned then 2 ^ n - 1 else 2 ^ (n - 1) - 1
    let lo := if unsigned then 0 else 2 ^ (n - 1)
    if x.neg then
      if lo < k then (if unsigned then 0 else lo, flagSat) else ((2 ^ n - k) % 2 ^ n, flagIf inexact flagInx)
    else if hi < k then (hi, flagSat) else (k, flagIf inexact flagInx)

/-- The value of an integer. -/
def numOfInt (z : Int) : Num := if z = 0 then .zero false else .fin ⟨decide (z < 0), z.natAbs, 0, false⟩

/-- The value of a code of any format (R239). -/
def Fmt.decode (f : Fmt) (code : Nat) : Num :=
  match f with
  | .float ff => ff.decode code
  | .scale => scaleDecode code
  | .int n unsigned => numOfInt (if unsigned then ((code % 2 ^ n : Nat) : Int) else toSigned code n)

/-- A conversion of one element (R145, R149, R142). -/
def Fmt.convert (f : Fmt) (mode : Mode) (draw : Nat) (x : Num) : Nat × Flags :=
  match f with
  | .float ff => ff.convert mode draw x
  | .scale => scaleConvert mode draw x
  | .int n unsigned => intConvert n unsigned mode draw x

/-- The exact sum of two signed magnitudes; none for zero. -/
def exactAdd (x y : Exact) : Option Exact :=
  let e := min x.e y.e
  let a := x.m <<< (x.e - e).toNat
  let b := y.m <<< (y.e - e).toNat
  if x.neg = y.neg then some ⟨x.neg, a + b, e, false⟩
  else if a = b then none
  else if b < a then some ⟨x.neg, a - b, e, false⟩
  else some ⟨y.neg, b - a, e, false⟩

/-- The exact product of two signed magnitudes. -/
def exactMul (x y : Exact) : Exact := ⟨x.neg != y.neg, x.m * y.m, x.e + y.e, false⟩

/-- The quotient to at least 128 bits, with the rest in sticky. -/
def exactDiv (x y : Exact) : Exact :=
  let k := 128 + y.m.log2
  let n := x.m <<< k
  ⟨x.neg != y.neg, n / y.m, x.e - y.e - (k : Int), n % y.m != 0⟩

/-- The integer square root of n, built from the high bit down: r is the part found, k counts the bits left. -/
def isqrtGo (n : Nat) : Nat → Nat → Nat
  | 0, r => r
  | k + 1, r =>
    let t := r + 2 ^ k
    isqrtGo n k (if t * t ≤ n then t else r)

def isqrt (n : Nat) : Nat := isqrtGo n (n.log2 / 2 + 1) 0

/-- The square root of a positive value to at least 128 bits. -/
def exactSqrt (x : Exact) : Exact :=
  let odd := (x.e % 2).toNat
  let m := (x.m <<< odd) <<< 256
  let r := isqrt m
  ⟨false, r, (x.e - (odd : Int)) / 2 - 128, r * r != m⟩

/-- The zero of a sum of operands of opposite sign (R145). -/
def zeroSum (mode : Mode) : Num := .zero (mode == .rdn)

def Num.isNan : Num → Bool
  | .nan => true
  | .inf _ => false
  | .zero _ => false
  | .fin _ => false

def Num.isInf : Num → Bool
  | .inf _ => true
  | .nan => false
  | .zero _ => false
  | .fin _ => false

def Num.isZero : Num → Bool
  | .zero _ => true
  | .nan => false
  | .inf _ => false
  | .fin _ => false

def Num.negate : Num → Num
  | .nan => .nan
  | .inf n => .inf !n
  | .zero n => .zero !n
  | .fin x => .fin { x with neg := !x.neg }

/-- The exact sum, before rounding (R145, R221). -/
def numAdd (mode : Mode) (a b : Num) : Num × Flags :=
  match a, b with
  | .nan, _ => (.nan, 0)
  | _, .nan => (.nan, 0)
  | .inf x, .inf y => if x = y then (.inf x, 0) else (.nan, flagInv)
  | .inf x, _ => (.inf x, 0)
  | _, .inf y => (.inf y, 0)
  | .zero x, .zero y => (if x = y then .zero x else zeroSum mode, 0)
  | .zero _, .fin y => (.fin y, 0)
  | .fin x, .zero _ => (.fin x, 0)
  | .fin x, .fin y =>
    match exactAdd x y with
    | some z => (.fin z, 0)
    | none => (zeroSum mode, 0)

/-- The exact product, before rounding (R221). -/
def numMul (a b : Num) : Num × Flags :=
  match a, b with
  | .zero _, .inf _ => (.nan, flagInv)
  | .inf _, .zero _ => (.nan, flagInv)
  | .nan, _ => (.nan, 0)
  | _, .nan => (.nan, 0)
  | .inf x, .inf y => (.inf (x != y), 0)
  | .inf x, .fin y => (.inf (x != y.neg), 0)
  | .fin x, .inf y => (.inf (x.neg != y), 0)
  | .zero x, .zero y => (.zero (x != y), 0)
  | .zero x, .fin y => (.zero (x != y.neg), 0)
  | .fin x, .zero y => (.zero (x.neg != y), 0)
  | .fin x, .fin y => (.fin (exactMul x y), 0)

/-- The exact product and sum of fma, before its one rounding (R220, R221). -/
def numFma (mode : Mode) (a b c : Num) : Num × Flags :=
  let (p, f) := numMul a b
  if f != 0 then (.nan, f) else numAdd mode p c

/-- The exact quotient (R221). -/
def numDiv (a b : Num) : Num × Flags :=
  match a, b with
  | .nan, _ => (.nan, 0)
  | _, .nan => (.nan, 0)
  | .inf _, .inf _ => (.nan, flagInv)
  | .zero _, .zero _ => (.nan, flagInv)
  | .inf x, .zero y => (.inf (x != y), 0)
  | .inf x, .fin y => (.inf (x != y.neg), 0)
  | .zero x, .inf y => (.zero (x != y), 0)
  | .zero x, .fin y => (.zero (x != y.neg), 0)
  | .fin x, .zero y => (.inf (x.neg != y), flagDz)
  | .fin x, .inf y => (.zero (x.neg != y), 0)
  | .fin x, .fin y => (.fin (exactDiv x y), 0)

/-- The exact square root (R221). -/
def numSqrt : Num → Num × Flags
  | .nan => (.nan, 0)
  | .inf neg => if neg then (.nan, flagInv) else (.inf false, 0)
  | .zero neg => (.zero neg, 0)
  | .fin x => if x.neg then (.nan, flagInv) else (.fin (exactSqrt x), 0)

/-- a < b on values, with -0 below +0 (R222). -/
def exactMagLt (x y : Exact) : Bool :=
  let e := min x.e y.e
  decide (x.m <<< (x.e - e).toNat < y.m <<< (y.e - e).toNat)

def numLt (zeroOrder : Bool) (a b : Num) : Bool :=
  match a, b with
  | .nan, _ => false
  | _, .nan => false
  | .inf x, .inf y => x && !y
  | .inf x, _ => x
  | _, .inf y => !y
  | .zero x, .zero y => zeroOrder && x && !y
  | .zero _, .fin y => !y.neg
  | .fin x, .zero _ => x.neg
  | .fin x, .fin y =>
    if x.neg && !y.neg then true
    else if !x.neg && y.neg then false
    else if x.neg then exactMagLt y x else exactMagLt x y

/-- Equality of values, where -0 equals +0 and NaN equals nothing (R237). -/
def numEq (a b : Num) : Bool := !a.isNan && !b.isNan && !(numLt false a b) && !(numLt false b a)

/-- fmin and fmax on codes (R222). -/
def FloatFmt.minmax (f : FloatFmt) (isMax : Bool) (a b : Nat) : Nat :=
  let x := f.decode a
  let y := f.decode b
  if x.isNan then (if y.isNan then f.nanCode else b)
  else if y.isNan then a
  else if isMax then (if numLt true x y then b else a)
  else (if numLt true y x then b else a)

/-- An arithmetic result: the flags of the operation with those of its rounding (R145, R151). -/
def FloatFmt.finish (f : FloatFmt) (mode : Mode) (draw : Nat) (r : Num × Flags) : Nat × Flags :=
  let (c, g) := f.convert mode draw r.1
  (c, r.2 ||| g)

def FloatFmt.add (f : FloatFmt) (mode : Mode) (draw a b : Nat) : Nat × Flags :=
  f.finish mode draw (numAdd mode (f.decode a) (f.decode b))

def FloatFmt.sub (f : FloatFmt) (mode : Mode) (draw a b : Nat) : Nat × Flags :=
  f.finish mode draw (numAdd mode (f.decode a) (f.decode b).negate)

def FloatFmt.mul (f : FloatFmt) (mode : Mode) (draw a b : Nat) : Nat × Flags :=
  f.finish mode draw (numMul (f.decode a) (f.decode b))

def FloatFmt.div (f : FloatFmt) (mode : Mode) (draw a b : Nat) : Nat × Flags :=
  f.finish mode draw (numDiv (f.decode a) (f.decode b))

def FloatFmt.sqrt (f : FloatFmt) (mode : Mode) (draw b : Nat) : Nat × Flags :=
  f.finish mode draw (numSqrt (f.decode b))

def FloatFmt.fma (f : FloatFmt) (mode : Mode) (draw a b c : Nat) : Nat × Flags :=
  f.finish mode draw (numFma mode (f.decode a) (f.decode b) (f.decode c))

/-- frnd.f32: an integral value of the same format (R225). -/
def frnd (mode : Mode) (draw b : Nat) : Nat × Flags :=
  match f32.decode b with
  | .nan => (f32.nanCode, 0)
  | .inf neg => (f32.infCode neg, 0)
  | .zero neg => (f32.zeroCode neg, 0)
  | .fin x =>
    let (k, inexact) := roundAt 0 mode draw x
    (if k = 0 then f32.zeroCode x.neg else (f32.round .rne 0 ⟨x.neg, k, 0, false⟩).1, flagIf inexact flagInx)

/-- fclass.f32 (R226). -/
def fclass (b : Nat) : Nat :=
  match f32.decode b with
  | .nan => 0x100
  | .inf neg => if neg then 0x001 else 0x080
  | .zero neg => if neg then 0x008 else 0x010
  | .fin x =>
    if b % 2 ^ 31 < 2 ^ 23 then (if x.neg then 0x004 else 0x020) else (if x.neg then 0x002 else 0x040)

/-- The floating-point conditions (R237). -/
def condFloat (cond : Nat) (a b : Num) : Bool :=
  let uno := a.isNan || b.isNan
  match cond with
  | 0 => numEq a b
  | 1 => !(numEq a b)
  | 2 => numLt false a b
  | 3 => numLt false a b || numEq a b
  | 4 => numLt false b a
  | 5 => numLt false b a || numEq a b
  | 6 => !uno
  | _ => uno

/-- The integer conditions (R237). -/
def condInt (cond : Nat) (a b : Int) : Bool :=
  match cond with
  | 0 => decide (a = b)
  | 1 => decide (a ≠ b)
  | 2 => decide (a < b)
  | 3 => decide (a ≤ b)
  | 4 => decide (a > b)
  | _ => decide (a ≥ b)

/-- A saturating signed 32-bit sum (R227). -/
def satS32 (z : Int) : Nat × Flags :=
  if z < -(2 ^ 31 : Int) then (2 ^ 31, flagSat)
  else if (2 ^ 31 : Int) - 1 < z then (2 ^ 31 - 1, flagSat)
  else (wrapInt z 32, 0)

/-- The finite case of an XACC addition (R158): units, in multiples of 2^-149, are added over 384 bits, and OVF says whether the total fits VALUE. -/
def xaccSum (cell : Nat) (units : Int) : Nat :=
  let t := wrapInt ((cell % 2 ^ 384 : Nat) + units) 384
  let ovf := bits t 383 320 != (if bit t 319 then 2 ^ 64 - 1 else 0)
  t + 2 ^ 384 * (bits cell 386 384) + (if ovf then 2 ^ 387 else 0)

/-- One XACC addition of an FP32 code to a 512-bit cell (R157, R158). -/
def xaccAdd (cell x : Nat) : Nat :=
  match f32.decode x with
  | .nan => cell % 2 ^ 388 ||| 2 ^ 386
  | .inf neg => cell % 2 ^ 388 ||| (if neg then 2 ^ 385 else 2 ^ 384)
  | .zero _ => xaccSum cell 0
  | .fin v =>
    let units : Int := (v.m <<< (v.e + 149).toNat : Nat)
    xaccSum cell (if v.neg then -units else units)

/-- The conversion of a cell that xrd reads (R159). -/
def xaccRead (f : FloatFmt) (mode : Mode) (draw cell : Nat) : Nat × Flags :=
  if bit cell 386 || (bit cell 384 && bit cell 385) then (f.nanCode, 0)
  else if bit cell 384 then (f.infCode false, 0)
  else if bit cell 385 then (f.infCode true, 0)
  else if bit cell 387 then (f.infCode (bit cell 383), flagOvf ||| flagInx)
  else
    let v := toSigned cell 320
    if v = 0 then (f.zeroCode false, 0) else f.round mode draw ⟨decide (v < 0), v.natAbs, -149, false⟩

end Sys2Proof.Machine
end

