-- ==== Sys2Proof/Machine/Types.lean ====
section
/-! DEFINITION. The records that State is made of: memories, waits for translation, groups, teams, grids and contexts. -/

namespace Sys2Proof.Machine

/-- A memory: listed bytes by rising address; an unlisted byte reads as 0 (R542, R57, R443; host memory: log 3). -/
abbrev Memory := List (Nat × BitVec 8)

/-- A byte's home after translation (R32): the physical place of one access. -/
inductive Loc where
  | host (a : Nat)
  | dram (dpa : Nat)
  | flash (off : Nat)
  | layer (die off : Nat)
  | team (team off : Nat)
  deriving DecidableEq, Repr

/-- What an access needs of its page (R69). -/
inductive Need where
  | read
  | write
  | both
  | fetch
  deriving DecidableEq, Repr

/-- Who waits for a translation: an entry of a group, its writes when it is an engine's, a store-buffer entry, an instruction fetch, a stash write-back, a
prompt book, a matrix transfer, an overflow copy, a read by Protrum for a job or a task launch. -/
inductive Owner where
  | entry (gid id : Nat)
  | out (gid id : Nat)
  | store (gid id : Nat)
  | fetch (gid : Nat)
  | stash (team win : Nat)
  | book (gid : Nat)
  | matrix (team id : Nat)
  | overflow (book res tile : Nat)
  | front (k : Nat)
  | launch (grid task : Nat)
  deriving DecidableEq, Repr

/-- An entry of a translation cache (R63): size is the page size as a power of two; nw marks an entry from an NW = 1
request (R69). -/
structure TlbEntry where
  fn : Nat
  pasid : Nat
  size : Nat
  va : Nat
  hpa : Nat
  r : Bool
  w : Bool
  x : Bool
  nw : Bool
  deriving DecidableEq, Repr

/-- A set of a die translation cache (R63, R64): its 16 ways by number, and the 15 bits of its replacement tree, node 1 the root. -/
structure DieSet where
  ways : Map TlbEntry
  tree : Nat
  deriving DecidableEq, Repr

/-- How far an access to one page is: it wants an ATS request, one is sent, it wants a page request, one is sent, it holds a usable
translation until all its pages have one (R75), it may go untranslated, it is refused with a cause (R67 to R70). -/
inductive Phase where
  | wantAts
  | atsSent
  | wantPri
  | priSent
  | have (e : TlbEntry)
  | untranslated
  | refused (cause : Nat) (context : Bool)
  deriving DecidableEq, Repr

/-- One access and one 4 KiB page that it needs. tries counts its page requests (R70). -/
structure PageWait where
  owner : Owner
  die : Nat
  core : Nat
  fn : Nat
  pasid : Nat
  page : Nat
  need : Need
  phase : Phase
  tries : Nat
  deriving DecidableEq, Repr

/-- An outstanding ATS request (R68) with its Execute Requested bit (R67); overtaken lists the ranges, as base and length, of the
invalidations that arrived while it was outstanding (R73). -/
structure AtsReq where
  die : Nat
  fn : Nat
  pasid : Nat
  page : Nat
  nw : Bool
  exec : Bool
  overtaken : List (Nat × Nat)
  deriving DecidableEq, Repr

/-- A page request (R69), in the order in which they arose: sent, or waiting to be. group is its page request group index, which the
host's response names. -/
structure PriReq where
  die : Nat
  fn : Nat
  pasid : Nat
  page : Nat
  need : Need
  group : Nat
  sent : Bool
  deriving DecidableEq, Repr

/-- An invalidation in progress (R71, R72): gone lists the pages of the entries that it removed, as base and length; upTo is the first record
number of the accesses that came after it. -/
structure Invalidation where
  fn : Nat
  tag : Nat
  pasid : Nat
  glob : Bool
  base : Nat
  len : Nat
  gone : List (Nat × Nat)
  upTo : Nat
  deriving DecidableEq, Repr

/-- A code page that a core has checked and may fetch from (R481), with the words it read. direct: its request went untranslated, so that no
cache holds an entry for it, and each of the groups that waited for it may fetch from it once (R67). -/
structure CodePage where
  die : Nat
  core : Nat
  fn : Nat
  pasid : Nat
  page : Nat
  data : Memory
  direct : Bool
  grants : List Nat
  deriving DecidableEq, Repr

/-- The state of a replay entry (R468), with inFlight for an instruction that waits for nothing but its data. -/
inductive EntryState where
  | inFlight
  | waiting
  | faulted
  | engine
  deriving DecidableEq, Repr

/-- The outstanding counters (R196); none for an instruction that counts in none. -/
inductive Counter where
  | lds
  | sts
  | cps
  | tls
  | none
  deriving DecidableEq, Repr

/-- The remaining work of an engine operation (R203): rows of a fixed length, the next row and byte to move; back: its bytes move from the end
(R201). -/
structure Remain where
  dst : Nat
  src : Nat
  rowBytes : Nat
  rows : Nat
  dstPitch : Int
  srcPitch : Int
  row : Nat
  done : Nat
  left : Nat
  back : Bool
  deriving DecidableEq, Repr

/-- An issued memory instruction: what R468 records of it. done marks the lanes performed, helpers the lanes that only get
a 0 (R191); dsts keys the destination registers (v: number, s: 256 + number, w: 384 + number) and width counts the
registers of one destination; ranges lists the bytes it accesses (R76); res holds pending replies (R210) or a captured header (R215);
high holds bits [191:128] of a w source, which OPLOG has no room for (log 17). book: held in the prompt book (R553). bad: uncorrectable in
the replay queue (R483). seq is its place in the group's program order (R192); seen lists bytes that it is to find where it has not read yet, though a
later instruction has read or written them (R192, R201, R333). -/
structure Entry where
  id : Nat
  instr : Instr
  w1 : W32
  w2 : W32
  pc : W64
  mask : BitVec 64
  state : EntryState
  cause : Nat
  counter : Counter
  uops : List W64
  opa : Map Val
  opb : Map Val
  opc : Map Val
  high : Map W64
  draws : Map W32
  dreg : Map Nat
  lrec : Map W64
  remain : Option Remain
  done : BitVec 64
  helpers : BitVec 64
  dsts : List Nat
  width : Nat
  ranges : List (Space × Nat × Nat)
  res : Map Val
  book : Bool
  bad : Bool
  seq : Nat
  seen : List (Loc × BitVec 8)
  deriving DecidableEq, Repr

/-- A store-buffer entry (R347): one line request, with a byte mask (bit k for byte k of the line) and the bytes by offset.
A global entry holds its virtual line address, and the translated one while its context runs (R78). op and pc name the
instruction that made it, and seq its place in program order (R192). -/
structure SbEntry where
  id : Nat
  space : Space
  line : Nat
  phys : Option Nat
  mask : Nat
  data : Memory
  op : Nat
  pc : W64
  bad : Bool
  seq : Nat
  deriving DecidableEq, Repr

/-- A hit that a traversal keeps (R285, R286): its exact t as tn / td with td positive, its identifiers and the addresses of
its records, and what it reports. -/
structure Hit where
  tn : Int
  td : Int
  instId : Nat
  primId : Nat
  instAddr : Nat
  triAddr : Nat
  front : Bool
  t : Nat
  u : Nat
  v : Nat
  tuser : Nat
  iuser : Nat
  deriving DecidableEq, Repr

/-- An instance that a walk has entered (R281, R284): its record's address and fields, and the ray in its space. -/
structure Entered where
  addr : Nat
  id : Nat
  flags : Nat
  user : Nat
  o : List Nat
  d : List Nat
  deriving DecidableEq, Repr

/-- An entry of a walk's stack (R287): a node with its depth within its level, an instance record, or triangle record
next of a leaf at va whose last record is n. inst is none in the top level. -/
inductive Visit where
  | node (va depth : Nat) (inst : Option Entered)
  | inst (va : Nat)
  | tri (va next n : Nat) (inst : Entered)
  deriving DecidableEq, Repr

/-- A traversal query's state (R288), with active for a walk under way and the status of one that has ended. -/
inductive QueryState where
  | idle
  | active
  | cand
  | done (status : Nat)
  deriving DecidableEq, Repr

/-- A lane's traversal query (R287, R288): the ray block, flags, mask, best and candidate hits, and the stack, top first. -/
structure Query where
  state : QueryState
  ray : List Nat
  flags : Nat
  mask : Nat
  best : Option Hit
  cand : Option Hit
  stack : List Visit
  deriving DecidableEq, Repr

/-- A lane parked at a REPACK, with the REPACK's words (R383). -/
structure Parked where
  lane : Nat
  pc : W64
  long : Bool
  d : Nat
  key : Option Nat
  w1 : W32
  w2 : W32
  deriving DecidableEq, Repr

/-- A cause that is raised and not yet taken (R465): what the prompt book header will say of it, and the address of a failure that is
no lane's (R473). -/
structure Pend where
  cause : Nat
  code : Nat
  pc : W64
  issue : Bool
  run : BitVec 64
  w1 : W32
  w2 : W32
  irec : Map W64
  addr : W64
  deriving DecidableEq, Repr

/-- What a group waits in (R364): the instruction that waits, its next program counter and the lanes of its run. -/
inductive Wait where
  | none
  | counters (l s c t : Nat) (cr : Option Nat)
  | channel
  | mpwait (m : Nat) (token : Nat)
  | twait (id : Nat)
  | sqstage (d b : Nat)
  | sqdrain (d : Nat)
  | prun (d : Nat) (handle : Nat) (arg : W64)
  | pwait (d : Nat) (book : Nat)
  | pwaited (d count : Nat)
  | pdrop (handle : Nat)
  | repack
  | fetch
  | exit
  | yield
  deriving DecidableEq, Repr

/-- A group: its registers and everything that travels with it (R110, R371, R475). blocks are its blocks of 8 rows of the lane file
(R114). badV, badX and badC list the uncorrectable words by the keys of v, x and c (R131); badW by 6 * the key of w and the word, badS by 2 * the
number and the word; badGen the generator's: 4 * lane and the word for STREAM, 4 * lane + 2 and the word for COUNTER, 256 and the word for KEY.
since is when it last came onto the stage; held: its instruction was found unable to issue; ready is its readiness as last looked at, and turned is when
that last changed (R451 to R453). -/
structure Group where
  ctx : Nat
  grid : Nat
  team : Nat
  role : Nat
  num : Nat
  width : Nat
  gang : Bool
  lbud : Nat
  wbud : Nat
  ubud : Nat
  carryV : Nat
  carryW : Nat
  pos : Nat
  die : Nat
  core : Nat
  sub : Nat
  stage : Option Nat
  placed : Bool
  v : Map W32
  x : Map W32
  w : Map (BitVec 192)
  p : Map (BitVec 64)
  s : Map W64
  c : Map W32
  b : BitVec 4
  key : BitVec 128
  stream : Map W64
  counter : Map W64
  flags : Flags
  undef : Nat
  badV : List Nat
  badX : List Nat
  badW : List Nat
  badS : List Nat
  badC : List Nat
  badGen : List Nat
  blocks : List Nat
  table : List (W64 × BitVec 64)
  table1 : List (W64 × BitVec 64)
  parked : List Parked
  arrived : Bool
  live : BitVec 64
  help : BitVec 64
  lds : Nat
  sts : Nat
  cps : Nat
  tls : Nat
  entries : List Entry
  sbuf : List SbEntry
  queries : Map Query
  hnd : Bool
  book : Nat
  hcount : Nat
  pend : Option Pend
  wait : Wait
  waitPc : W64
  waitRun : BitVec 64
  spawned : List Nat
  held : Bool
  ready : Bool
  turned : Nat
  since : Nat
  deriving DecidableEq, Repr

/-- A channel of a team (R121, R122): an entry is a 64-lane value or one 64-bit value. head is the place of the oldest entry in the channel's
storage, whose places the entries take in turn (log 96). -/
inductive ChanKind where
  | disabled
  | lane
  | uniform
  deriving DecidableEq, Repr

structure Chan where
  kind : ChanKind
  base : Nat
  depth : Nat
  lanes : List (Map Val)
  words : List W64
  head : Nat
  deriving DecidableEq, Repr

/-- A meeting point (R356). -/
structure Meet where
  expect : Nat
  arrived : Nat
  phase : Nat
  auto : Bool
  deriving DecidableEq, Repr

/-- A stash window (R107, R108): valid sectors, the data they hold and the dirty bytes, by offset within the window; rom lists the sectors
that were filled from the weight store (R56). -/
structure Window where
  tbase : Nat
  gbase : Nat
  len : Nat
  rw : Bool
  valid : List Nat
  data : Memory
  dirty : List Nat
  rom : List Nat
  deriving DecidableEq, Repr

/-- A matrix descriptor as captured at issue (R254). -/
structure Desc where
  m : Nat
  n : Nat
  afmt : BitVec 8
  bfmt : BitVec 8
  sha : Nat
  shb : Nat
  asc : Bool
  bsc : Bool
  sba : Nat
  sbb : Nat
  sta : Int
  stb : Int
  deriving DecidableEq, Repr

/-- A matrix instruction with its captured operands (R260). The mloop holds its next step and whether that step's operands
have landed. -/
inductive MatOp where
  | mld (slot addr stride : Nat) (isB : Bool) (sp : Space) (d : Desc)
  | mma (acc sa sb : Nat) (zero : Bool) (d : Desc) (t : Nat)
  | mloop (acc a b sa sb : Nat) (ia ib : Int) (count slot : Nat) (asp bsp : Space) (zero : Bool) (d : Desc) (t : Nat)
      (loaded : Bool)
  | mst (addr stride acc : Nat) (fmt : BitVec 8) (mode : Nat) (sp : Space) (d : Desc)
  | mscale (first addr count : Nat) (sp : Space)
  | mzero (acc len : Nat)
  deriving DecidableEq, Repr

/-- A queued matrix instruction: landed counts the units its transfer has moved; stopped: it faulted (R278). -/
structure MatItem where
  id : Nat
  gid : Nat
  instr : Instr
  op : MatOp
  w1 : W32
  w2 : W32
  pc : W64
  run : BitVec 64
  uops : List W64
  landed : Nat
  stopped : Bool
  deriving DecidableEq, Repr

/-- The matrix state of a team (R249, R253, R254, R258): slots at core * 2^17 + slot * 8192 + byte, accumulators at
core * 2^18 + byte, scale entries at core * 2^14 + 2 * entry. bad lists uncorrectable 32-bit words of each. -/
structure Matrix where
  claimed : Bool
  slots : Nat
  accKib : Nat
  lease : Nat
  descs : Map (BitVec 128)
  slotMem : Memory
  accMem : Memory
  scaleMem : Memory
  queue : List MatItem
  bad : List (Nat × Nat)
  deriving DecidableEq, Repr

/-- A tableau entry that a team has bound (R307 to R310). -/
structure Tableau where
  coef : Option (List Byte)
  factors : Option (List Byte)
  deriving DecidableEq, Repr

/-- The states of a sample entry (R313). busyStep: a step is ending; busyInput: a stage input is being formed. -/
inductive SampleState where
  | free
  | busyInput
  | busyStep
  | ready
  | out (gid : Nat)
  deriving DecidableEq, Repr

/-- A solver sample (R311, R313, R323). Floating-point fields are FP32 codes. tile: bound to the team's tile (R321); down:
its direction is -1 (R311). -/
structure Sample where
  state : SampleState
  stage : Nat
  tab : Nat
  yaddr : Nat
  hist : Nat
  ne : Nat
  t : Nat
  tend : Nat
  h : Nat
  hmin : Nat
  hmax : Nat
  atol : Nat
  rtol : Nat
  hs : Nat
  last : Bool
  acc : Nat
  rej : Nat
  tile : Bool
  down : Bool
  bad : Bool
  deriving DecidableEq, Repr

/-- The solver state of a team (R307, R313, R331). -/
structure Solver where
  tabs : Map Tableau
  samples : Map Sample
  done : Nat
  failed : Nat
  deriving DecidableEq, Repr

/-- A role of an image (R187). -/
structure Role where
  entry : Nat
  sect : Nat
  groups : Nat
  l : Nat
  w : Nat
  u : Nat
  carryV : Nat
  carryW : Nat
  deriving DecidableEq, Repr

/-- A section of an image (R187). -/
structure Sect where
  kind : Nat
  align : Nat
  size : Nat
  fileOff : Nat
  hashIdx : Nat
  deriving DecidableEq, Repr

/-- A stencil record (R187). -/
structure Stencil where
  slot : Nat
  dx0 : Int
  dy0 : Int
  dx1 : Int
  dy1 : Int
  deriving DecidableEq, Repr

/-- A loaded program image (R186) with the section bases of its launch (R439) and its page digests (R480). -/
structure Image where
  width : Nat
  cores : Nat
  teamMem : Nat
  roles : List Role
  sects : List Sect
  bases : List Nat
  digests : List (BitVec 256)
  stencils : List Stencil
  deriving DecidableEq, Repr

/-- What a team was launched for. -/
inductive Origin where
  | grid
  | tile (book pass first : Nat) (dup : Bool)
  | task (id : Nat)
  deriving DecidableEq, Repr

/-- Where a team stands (R447, R448, R450, R458). -/
inductive TeamState where
  | queued
  | running
  | parkedOut
  | ended
  deriving DecidableEq, Repr

structure Team where
  ctx : Nat
  grid : Nat
  num : Nat
  origin : Origin
  state : TeamState
  saved : Bool
  die : Nat
  cores : List Nat
  ncores : Nat
  image : Image
  size : Nat
  mem : Memory
  bad : List Nat
  chans : Map Chan
  mps : Map Meet
  wins : Map Window
  mat : Matrix
  sol : Solver
  retireAsked : Bool
  retired : Bool
  children : List Nat
  deriving DecidableEq, Repr

/-- A preload entry (R440). -/
structure Preload where
  reg : Nat
  kind : Nat
  roles : Nat
  idx : Nat
  value : W64
  deriving DecidableEq, Repr

/-- A launch record that passed its checks (R438), and its address. -/
structure LaunchRec where
  addr : Nat
  image : Image
  teams : Nat
  mpn : Nat
  seed : BitVec 128
  preloads : List Preload
  chans : Map Chan
  tent : Nat
  dieMask : Nat
  deriving DecidableEq, Repr

/-- An entry of the task tiles of a grid (R430, R431): writer is the task that writes the current version; readers lists
(version, task) of the tasks that read it. writers lists (version, task). -/
structure TileEntry where
  ver : Nat
  nver : Nat
  vstride : Nat
  writers : List (Nat × Nat)
  readers : List (Nat × Nat)
  deriving DecidableEq, Repr

/-- Where a task record waits (R433, R434). -/
inductive TaskPlace where
  | deque (core : Nat)
  | ring
  | launched
  | retired
  deriving DecidableEq, Repr

/-- A registered task (R429, R431). -/
structure Task where
  record : List Byte
  image : Nat
  arg : W64
  nver : Nat
  vstride : Nat
  reads : List (Nat × Nat)
  writes : List (Nat × Nat)
  waits : List Nat
  place : TaskPlace
  fused : Bool
  spawner : Nat
  team : Nat
  deriving DecidableEq, Repr

/-- A grid (R23, R438): a host launch or a pass of a run. Grids are numbered in launch order (R447). pass: its book, pass index and run's argument. home: the die of its
team 0, where its task tiles lie (R430); started: its TENT entries are reserved; exited counts its teams, tasks' teams aside. -/
structure Grid where
  ctx : Nat
  launch : LaunchRec
  pass : Option (Nat × Nat × W64)
  home : Nat
  started : Bool
  exited : Nat
  ended : Bool
  cmd : Option (Nat × Nat)
  nextTask : Nat
  tasks : Map Task
  tiles : Map TileEntry
  liveTeams : List Nat
  aborted : Bool
  deriving DecidableEq, Repr

/-- A region binding (R334). -/
structure Binding where
  base : Nat
  limit : Nat
  obj : Nat
  layer : Bool
  deriving DecidableEq, Repr

/-- The trap table of a context (R461). -/
structure TrapTable where
  gvec : Nat
  pbva : Nat
  pbn : Nat
  gtmo : Nat
  tvec : Nat
  cvec : Nat
  ttmo : Nat
  ctmo : Nat
  keyAddr : Nat
  deriving DecidableEq, Repr

/-- A context's standing (R474, R477, R510); fresh until its first switch-in (R510). -/
inductive CtxState where
  | fresh
  | switchedOut
  | running
  | lost
  deriving DecidableEq, Repr

/-- A block of a save area that holds part of a team, with the save count of its tag (R477, R478). -/
structure SavedBlock where
  team : Nat
  block : Nat
  seq : Nat
  deriving DecidableEq, Repr

/-- A context (R23, R62, R477, R510): its record, the tables read at its last switch-in, its locked code set in order, its
save count, and the blocks of its save area that hold teams. ring lists its overflow ring's records, oldest first, as (slot, grid, task), and
ringTail is the next slot (R433). -/
structure Ctx where
  fn : Nat
  pasid : Nat
  state : CtxState
  bindTab : Nat
  defObj : Nat
  trapTab : Nat
  saveArea : Nat
  saveSize : Nat
  ringBase : Nat
  ringSize : Nat
  binds : List Binding
  traps : TrapTable
  locked : List Nat
  seq : Nat
  saves : List SavedBlock
  books : List Nat
  ring : List (Nat × Nat × Nat)
  ringTail : Nat
  deriving DecidableEq, Repr

/-- A resource of a playbill (R408). -/
structure Resource where
  kind : Nat
  overflow : Bool
  gx : Nat
  gy : Nat
  tileBytes : Nat
  depth : Nat
  base : Nat
  ovfBase : Nat
  deriving DecidableEq, Repr

/-- A read entry of a pass with its offsets resolved (R407). -/
structure ReadEntry where
  res : Nat
  up : Bool
  sh : Nat
  dx0 : Int
  dy0 : Int
  dx1 : Int
  dy1 : Int
  deriving DecidableEq, Repr

/-- A pass of a playbill (R406). -/
structure Pass where
  launch : LaunchRec
  gx : Nat
  gy : Nat
  batch : Nat
  reads : List ReadEntry
  writes : List Nat
  deriving DecidableEq, Repr

/-- A placed ring (R413): the layer offset on its die. -/
structure Ring where
  die : Nat
  res : Nat
  off : Nat
  deriving DecidableEq, Repr

/-- The states of a cue-board entry (R415). -/
inductive CueState where
  | wait
  | ready
  | run
  | done
  | remote
  | free
  deriving DecidableEq, Repr

/-- A cue-board entry: a tile of a pass on a die (R415). A far entry stands for a persistent tile whose run lies on another die's
band; its pass field is the number of its resource (R414). granted: its team holds its ring slots (R417). -/
structure Cue where
  die : Nat
  pass : Nat
  tile : Nat
  state : CueState
  pend : Nat
  readers : Nat
  dup : Bool
  far : Bool
  granted : Bool
  bad : Bool
  deriving DecidableEq, Repr

/-- A bound playbill (R421 to R425): dies are those it was spread over. moved lists the (resource, die, tile) copied to the overflow area (R417). -/
structure Playbill where
  ctx : Nat
  handle : Nat
  passes : List Pass
  resources : List Resource
  seed : BitVec 128
  dies : List Nat
  rings : List Ring
  running : Bool
  runs : Nat
  arg : W64
  cues : List Cue
  retired : Nat
  copies : Nat
  moved : List (Nat × Nat × Nat)
  grids : List Nat
  deriving DecidableEq, Repr

/-- A sync directory record (R344): a release at group or team scope whose writes are not yet all performed. obj none
stands for all objects; ids are the store-buffer entries it covers; bad: uncorrectable (R483); num tells it from every other record. -/
structure SyncRec where
  gid : Nat
  obj : Option Nat
  ids : List Nat
  bad : Bool
  num : Nat
  deriving DecidableEq, Repr

/-- An acknowledgement of a forced publish that has come back to the die that asked for it (R344, R515): record num is published as far as obj goes. -/
structure Ack where
  die : Nat
  num : Nat
  obj : Option Nat
  deriving DecidableEq, Repr

/-- A stop at an upper rung (R460, R473): raised, delivered to the host, and answered. held lists the contexts that it switched out. -/
structure Stop where
  rung : Nat
  cause : Nat
  code : Nat
  fn : Nat
  ctx : Nat
  team : Nat
  pc : W64
  addr : W64
  stopped : Bool
  delivered : Bool
  held : List Nat
  deriving DecidableEq, Repr

end Sys2Proof.Machine
end

