-- ==== Sys2Proof/Machine/State.lean ====
section
/-! DEFINITION. The state of the whole module, the reasons a step can stop, and the state right after reset. -/

namespace Sys2Proof.Machine

/-- Pending work of the module's own agents: each names the event that performs it (its row in the opcode table), with the
party it is for. MODEL's own field type (log 1). -/
inductive Act where
  | loadLanding (gid id : Nat)
  | replay (gid id : Nat)
  | storeBufferDrain (gid k : Nat)
  | atomicPerform (gid id lane : Nat)
  | xaccCellAdd (gid id lane : Nat)
  | engineUnitLand (gid id : Nat)
  | matrixTransferLand (team id : Nat)
  | matrixStep (team id : Nat)
  | traversalComplete (gid id : Nat)
  | camrayArrival (gid id : Nat)
  | groupExit (gid : Nat)
  | repackArrive (gid : Nat)
  | mpwaitWake (gid : Nat)
  | twaitWake (gid : Nat)
  | sqstageWake (gid : Nat)
  | sqdrainWake (gid : Nat)
  | prunStart (gid : Nat)
  | pwaitWake (gid : Nat)
  | pdropUnbind (gid : Nat)
  | waitRelease (gid : Nat)
  | channelResume (gid : Nat)
  | trapEntry (gid : Nat)
  | upperRungStop (stop : Nat)
  | eventRecordWrite (fn : Nat)
  | codePageFill (die core fn pasid page : Nat)
  | tileRetire (team : Nat)
  | ringSlotGrant (team : Nat)
  | overflowCopy (book res die tile : Nat)
  | cueMessage (die book pass tile : Nat)
  | linkFlit (link dir : Nat)
  | taskLaunch (die core : Nat)
  | taskRetire (team : Nat)
  | seqStageInput (team sample : Nat)
  | seqStepEnd (team sample : Nat)
  | commandIntake (fn : Nat)
  | gridEnd (grid : Nat)
  | vacateComplete (job : Nat)
  | partsetFill (job : Nat)
  | stagedUnitCommit (unit : Nat)
  | biasHostFlip (fn : Nat)
  | layerGrow (die slice : Nat)
  | layerShrink (die slice : Nat)
  | gangStart (die : Nat)
  | parkOut (team : Nat)
  | stageEnter (gid : Nat)
  | pwrStep (quad : Nat)
  | invalidateCompletion (fn tag : Nat)
  | job (k : Nat)
  | resume (gid : Nat)
  | lose (ctx : Nat)
  | eventArrive (fn stop : Nat) (b : List Byte)
  | control (k die : Nat)
  | forcePublish (die num : Nat) (obj : Option Nat)
  | publishing (die num : Nat) (obj : Option Nat)
  | published (die num : Nat) (obj : Option Nat)
  deriving DecidableEq, Repr

/-- A soft error that cannot be corrected, by what it strikes (R52, R57, R131, R253, R324, R483, R548): the unit of protection at a place, a
register of a group by its kind and key, a word of a matrix memory, and the entries of the other structures. -/
inductive Upset where
  | place (l : Loc)
  | vreg (gid key : Nat)
  | xreg (gid key : Nat)
  | wreg (gid key : Nat)
  | sreg (gid n : Nat)
  | creg (gid n : Nat)
  | generator (gid key : Nat)
  | matrix (team kind word : Nat)
  | stored (gid id : Nat)
  | queued (gid id : Nat)
  | synced (k : Nat)
  | cue (book die pass tile : Nat) (far : Bool)
  | sample (team k : Nat)
  deriving DecidableEq, Repr

/-- What the outside world and timing chose to happen next (log 1): a group issues, the module's environment acts (a row
of the opcode table), a piece of pending work is performed; the host reads a BAR0 register, the management processor reads or writes one of
its own (R392, R506, R516, R530, R543); a soft error is corrected at a part's graphics DRAM or on a die, or is uncorrectable (R52, R484), a
transfer of a DRAM codeword fails its CRC some times over (R52); the host's cache takes and changes a line of a host-bias page (R39, R548),
and the host maps a page of a function's IO virtual addresses (R507). -/
inductive Move where
  | issue (gid : Nat)
  | event (i : Instr)
  | act (a : Act)
  | hostRead (fn off : Nat)
  | mgmtRead (reg : Nat)
  | mgmtWrite (reg : Nat) (val : W64)
  | corrected (onDie : Bool) (part : Nat)
  | upset (u : Upset)
  | crcFailure (codeword times : Nat)
  | hostLine (line : Nat) (data : List Byte) (poison : Bool)
  | hostMap (fn page : Nat) (at_ : Option Nat)
  deriving DecidableEq, Repr

/-- Reasons the machine stops. -/
inductive Fault where
  /-- Raised by every instruction row (never by an event) when State.focus names no group of a team, or a group
  with no lane: an instruction issues from a run of lanes (R11, R372), so there is nothing for it to act on. Safe: step never issues without a group. -/
  | noIssuingGroup
  deriving DecidableEq, Repr

/-- Reasons a step is refused. -/
inductive Refusal where
  /-- An instruction of the opcode table that has no meaning yet. Safe: nothing is claimed about it. -/
  | notModelled (mnemonic : String)
  deriving DecidableEq, Repr

/-- LYR_WAYPARTk (R92). mapped is how many mebibytes answer accesses now (R94, R95). -/
structure Waypart where
  ringFloor : Nat
  err : Nat
  busy : Bool
  scrWays : Nat
  mapped : Nat
  deriving DecidableEq, Repr

/-- A bias flip in progress (R45, R46): the lines whose ownership request is unanswered. -/
structure Flip where
  page : Nat
  toDevice : Bool
  lines : List Nat
  deriving DecidableEq, Repr

/-- MEM_BIASPAGE, MEM_BIASCTL and MEM_BIASSTAT of a function (R40 to R42). BUSY is flip.isSome; CUR is computed. -/
structure BiasRegs where
  page : Nat
  target : Bool
  err : Nat
  done : Bool
  flip : Option Flip
  deriving DecidableEq, Repr

/-- Corrected and uncorrectable counts (R54, R484). -/
structure ErrCount where
  corr : Nat
  uncorr : Nat
  deriving DecidableEq, Repr

/-- The command and event queue registers of a function (R507), and the event entries not yet written, each with the stop
it reports, if any (R513). -/
structure HostQueue where
  cmdBase : Nat
  evtBase : Nat
  evtVec : Nat
  evtLog2 : Nat
  cmdLog2 : Nat
  en : Bool
  cmdTail : Nat
  cmdHead : Nat
  evtTail : Nat
  evtHead : Nat
  pending : List (List Byte × Option Nat)
  deriving DecidableEq, Repr

/-- A host command that is not yet complete (R509, R512). A PARTMEM waits for the bias flips that it lists, as function and page; an ANSWER for
the contexts that it restores (R474); dies lists the dies that a VACATE, a SWOUT or a CTXEND has still to reach (R515). -/
inductive Job where
  | vacate (fn tag mask : Nat) (dies : List Nat)
  | partset (tag vf mask : Nat)
  | wswrite (tag : Nat) (units : List Nat)
  | launch (fn tag ctx addr : Nat)
  | ctxend (fn tag ctx : Nat) (dies : List Nat)
  | swout (fn tag ctx : Nat) (dies : List Nat)
  | swin (fn tag ctx : Nat)
  | lnksvc (tag link m : Nat)
  | partmem (tag : Nat) (flips : List (Nat × Nat))
  | answer (fn tag ctx : Nat) (restore : List Nat)
  deriving DecidableEq, Repr

/-- PWR_QCTL and PWR_QSTAT of a quad (R531, R532), the step of its transition that is running (R534; 0: none) with what it leads to,
the islands that are awake (R527) and the operating point its supply stands at. -/
structure Power where
  drWait : Nat
  bankOff : Bool
  targetOpp : Nat
  targetPass : Nat
  hint : Nat
  busy : Bool
  opp : Nat
  err : Nat
  pass : Nat
  step : Nat
  aim : Nat
  supply : Nat
  ls1 : Bool
  ls2 : Bool
  deriving DecidableEq, Repr

/-- The rise permit of a die: its holder, and the quads with a transition in progress in order of their writes (R535). -/
structure RisePermit where
  holder : Option Nat
  waiters : List Nat
  deriving DecidableEq, Repr

/-- The link registers of one end of a module (R517), and the width, the test and the lane maps that a running retrain uses (R519, R521). -/
structure LinkEnd where
  spRx : Nat
  spTx : Nat
  width : Nat
  state : Nat
  thresh : Nat
  ctlWidth : Nat
  off : Bool
  test : Bool
  pause : Bool
  crcErr : Nat
  retries : Nat
  rxMap : Nat
  txMap : Nat
  laneErr : Nat
  trainWidth : Nat
  trainTest : Bool
  trainRx : Nat
  trainTx : Nat
  deriving DecidableEq, Repr

/-- The virtual channels of a link (R515). -/
inductive VChan where
  | req
  | rsp
  | cue
  | mgt
  deriving DecidableEq, Repr

/-- A message between two dies, or a die and Protrum, which is number 4 (R17, R515): what it brings about where it arrives. -/
structure Msg where
  src : Nat
  dst : Nat
  chan : VChan
  body : Act
  deriving DecidableEq, Repr

/-- A flit in flight (R515): its sequence number, the module that carries it, and its message; none for one that carries traffic whose
messages the model does not list (log 35). -/
structure Flit where
  seq : Nat
  m : Nat
  msg : Option Msg
  deriving DecidableEq, Repr

/-- One direction of a link (R515): the next sequence number to send, the next to deliver, the messages that wait to be sent, oldest first,
and the flits in flight. -/
structure LinkDir where
  sent : Nat
  delivered : Nat
  queue : List Msg
  flits : List Flit
  deriving DecidableEq, Repr

/-- An instance of the service routine of R524: where it waits, and the answer it owes an LNKSVC command. -/
structure Service where
  link : Nat
  m : Nat
  phase : Nat
  width : Nat
  a : Nat
  b : Nat
  job : Option Nat
  deriving DecidableEq, Repr

/-- BOOT_STAT and BOOT_IMG (R539, R540), whether this boot ran a host image (R545), the number of boots that have begun (R478), the power profile
that the module read at bring-up (R528; true for 700 W), and the stored firmware image in its region of the NAND array (R538, R541). -/
structure Boot where
  started : Bool
  state : Nat
  err : Nat
  base : Nat
  hostImage : Bool
  count : Nat
  prof700 : Bool
  image : List Byte
  deriving DecidableEq, Repr

/-- PVEC, DVEC and the timeouts that VECSET writes (R509). -/
structure Vectors where
  pvec : Nat
  dvec : Nat
  ptmo : Nat
  dtmo : Nat
  deriving DecidableEq, Repr

/-- The module. The first six fields are the model's own (log 1, log 2): what happens next, the pending work, the group
that issues, whether it had to wait, the counter of free values, and the next record number. spdm and hostReply are the answers to the
host's last SPDM request and its last read of the module's memory or registers; no reply stands for poison or an abort. mgmtReply is the management
processor's last read. arrived holds the messages that have arrived and are not yet taken, oldest first. crcBad lists DRAM codewords whose
next read fails in transfer (R52). hostLines and hostLineBad are the lines of host-bias pages that the host's cache holds changed, and those
it holds poisoned; cxlLines are those that the device holds (R39, R548). ioMap is the host's map of IO virtual pages where it differs from the
identity (log 11). cycles holds CLK_LOCAL of each core as last read (R397). -/
structure State where
  agenda : List Move
  work : List Act
  focus : Nat
  stalled : Bool
  tick : Nat
  nextId : Nat
  host : Memory
  dram : Memory
  flash : Memory
  layer : Memory
  hostBad : List Nat
  dramBad : List Nat
  layerBad : List Nat
  flashBad : List Nat
  staged : Map (List Byte)
  hdm : Option Nat
  wsBase : Nat
  wsEn : Bool
  hostBias : List Nat
  hostLines : Map (List Byte)
  hostLineBad : List Nat
  cxlLines : List Nat
  crcBad : List Nat
  ioMap : Map (Option Nat)
  bias : Map BiasRegs
  granules : Map Nat
  ecc : Map ErrCount
  mck : Map ErrCount
  l1 : Map (List TlbEntry)
  dieTlb : Map DieSet
  ats : List AtsReq
  pri : List PriReq
  priOff : List Nat
  priAlloc : Map Nat
  waits : List PageWait
  invs : List Invalidation
  flushing : List Nat
  waypart : Map Waypart
  groups : Map Group
  teams : Map Team
  grids : Map Grid
  ctxs : Map Ctx
  books : Map Playbill
  queues : Map (List Nat)
  deques : Map (List (Nat × Nat))
  mailboxes : Map (List Nat)
  syncRecs : List SyncRec
  acks : List Ack
  codePages : List CodePage
  stops : Map Stop
  quadOwner : Map Nat
  vacating : List Nat
  vacated : List Nat
  zeroing : List Nat
  power : Map Power
  rise : Map RisePermit
  drowsy : List Nat
  hq : Map HostQueue
  jobs : Map Job
  msix : List (Nat × Nat)
  vectors : Vectors
  linkEnds : Map LinkEnd
  linkDirs : Map LinkDir
  arrived : List Msg
  services : List Service
  windowStart : Map Nat
  lostLinks : List Nat
  boot : Boot
  ready : List BringUp
  failed : List BringUp
  spdm : List Byte
  hostReply : Option (List Byte)
  mgmtReply : Nat
  cycles : Map Nat
  dead : Bool
  deriving DecidableEq, Repr

/-- The queue registers after reset (R507). -/
def HostQueue.reset : HostQueue := ⟨0, 0, 0, 4, 4, false, 0, 0, 0, 0, []⟩

/-- The bias registers after reset (R40 to R42). -/
def BiasRegs.reset : BiasRegs := ⟨0, true, 0, false, none⟩

/-- LYR_WAYPARTk after reset (R92). -/
def Waypart.reset : Waypart := ⟨0, 0, false, 0, 0⟩

/-- PWR_QCTL and PWR_QSTAT after reset (R531, R532): OPP 0, PASS 1, every island awake (R527). -/
def Power.reset : Power := ⟨64, true, 0, 1, 0, false, 0, 0, 1, 0, 0, 0, true, true⟩

/-- A module end after reset (R517). -/
def LinkEnd.reset : LinkEnd := ⟨0, 0, 0, 2, 256, 0, false, false, false, 0, 0, 0, 0, 0, 0, false, 0, 0⟩

/-- A link direction after reset: nothing sent. -/
def LinkDir.reset : LinkDir := ⟨0, 0, [], []⟩

/-- The module right after power-on. A map that lists no entry for a register reads its reset value (R40 to R54, R92, R507,
R517, R531, R532). No context exists and no group runs; graphics DRAM, layer and weight store hold zero (R542, R57). -/
def State.reset : State where
  agenda := []
  work := []
  focus := 0
  stalled := false
  tick := 0
  nextId := 1
  host := []
  dram := []
  flash := []
  layer := []
  hostBad := []
  dramBad := []
  layerBad := []
  flashBad := []
  staged := []
  hdm := none
  wsBase := 0
  wsEn := false
  hostBias := []
  hostLines := []
  hostLineBad := []
  cxlLines := []
  crcBad := []
  ioMap := []
  bias := []
  granules := []
  ecc := []
  mck := []
  l1 := []
  dieTlb := []
  ats := []
  pri := []
  priOff := []
  priAlloc := []
  waits := []
  invs := []
  flushing := []
  waypart := []
  groups := []
  teams := []
  grids := []
  ctxs := []
  books := []
  queues := []
  deques := []
  mailboxes := []
  syncRecs := []
  acks := []
  codePages := []
  stops := []
  quadOwner := []
  vacating := []
  vacated := []
  zeroing := []
  power := []
  rise := []
  drowsy := []
  hq := []
  jobs := []
  msix := []
  vectors := ⟨0, 0, 0, 0⟩
  linkEnds := []
  linkDirs := []
  arrived := []
  services := []
  windowStart := []
  lostLinks := []
  boot := ⟨false, 0, 0, 0, false, 0, false, []⟩
  ready := []
  failed := []
  spdm := []
  hostReply := none
  mgmtReply := 0
  cycles := []
  dead := false

end Sys2Proof.Machine
end

