-- ==== Sys2Proof/Machine/Path.lean ====
section
/-! DEFINITION. The ways between the dies and Protrum (R16, R17): the ends and modules of the links (R514, R516), which links a message
crosses, whether they carry traffic (R519, R520, R544), and the messages on their way (R515). -/

namespace Sys2Proof.Machine

/-- A piece of pending work queued, unless it is pending already (log 1). -/
def State.push (s : State) (a : Act) : State := if s.work.contains a then s else { s with work := s.work ++ [a] }

/-! ## Ends of a link

Link j below 4 joins link 0 of die j, its side 0, to link 1 of the next die. Link 4 + j joins link 2 of die j, its side 0, to Protrum. -/

/-- The LNK_STAT number of a module at an end (R516); it is the end's key in State.linkEnds. -/
def endReg (link side m : Nat) : Nat :=
  if link < 4 then
    if side = 0 then 0x0800 + 128 * link + 8 * m else 0x0800 + 128 * ((link + 1) % 4) + 32 + 8 * m
  else if side = 0 then 0x0800 + 128 * (link - 4) + 64 + 8 * m
  else 0x0A00 + 32 * (link - 4) + 8 * m

/-- Every module of every link, by end. -/
def allEnds : List (Nat × Nat × Nat) :=
  (List.range 8).flatMap (fun l => (List.range 2).flatMap (fun d => (List.range 4).map (fun m => (l, d, m))))

/-- The end whose LNK_STAT has a number (R516). -/
def endOfReg (r : Nat) : Option (Nat × Nat × Nat) := allEnds.find? (fun x => endReg x.1 x.2.1 x.2.2 == r)

/-- The link, the side and the module exist. -/
def endExists (link side m : Nat) : Bool := decide (link < 8) && decide (side < 2) && decide (m < 4)

def State.linkEnd (s : State) (link side m : Nat) : LinkEnd := s.linkEnds.getD (endReg link side m) LinkEnd.reset

/-- The bring-up functions of a module's ends (R542, R543). -/
def moduleUnits (link m : Nat) : List BringUp :=
  if link < 4 then [.linkModule link 0 m, .linkModule ((link + 1) % 4) 1 m] else [.linkModule (link - 4) 2 m]

/-- The module carries traffic: it is active at both ends (R519, R520, R544). -/
def State.moduleUp (s : State) (link m : Nat) : Bool :=
  (s.linkEnd link 0 m).state == 2 && (s.linkEnd link 1 m).state == 2 && (moduleUnits link m).all (fun u => s.ready.contains u)

/-- The modules that carry a link's traffic. -/
def State.modulesUp (s : State) (link : Nat) : List Nat := (List.range 4).filter (fun m => s.moduleUp link m)

/-- The key of a direction: 0 from side 0 to side 1. -/
def dirKey (link dir : Nat) : Nat := 2 * link + dir

def State.linkDir (s : State) (link dir : Nat) : LinkDir := s.linkDirs.getD (dirKey link dir) LinkDir.reset

/-! ## The way from one party to another -/

/-- The number of Protrum, and of the host and the weight store behind it, beside dies 0 to 3. -/
def protrum : Nat := 4

/-- The next party on the way (R17): Protrum over the die's own link, a neighbour over the link that joins them, the opposite die through
die (d + 1) mod 4. -/
def nextHop (from_ dst : Nat) : Nat :=
  if from_ = protrum ∨ dst = protrum ∨ dst = (from_ + 3) % 4 then dst else (from_ + 1) % 4

/-- The link between two parties that share one, and the direction from the first to the second (R16). -/
def linkBetween (a b : Nat) : Nat × Nat :=
  if b = protrum then (4 + a, 0) else if a = protrum then (4 + b, 1) else if b = (a + 1) % 4 then (a, 0) else (b, 1)

/-- The links that traffic from one party to another crosses, in order (R17). -/
def pathOf (from_ dst : Nat) : List (Nat × Nat) :=
  if from_ = dst then []
  else
    let n := nextHop from_ dst
    if n = dst then [linkBetween from_ n] else [linkBetween from_ n, linkBetween n dst]

/-- Requests reach the party and its answers come back: every link on both ways carries traffic (R519, R520). -/
def State.reach (s : State) (a b : Nat) : Bool := (pathOf a b ++ pathOf b a).all (fun l => !(s.modulesUp l.1 == []))

/-! ## Messages -/

/-- Flits of a channel that a direction may have under way (R515). -/
def VChan.credits : VChan → Nat
  | .req => 128
  | .rsp => 128
  | .cue => 32
  | .mgt => 16

/-- A flit that carries a message of the channel. -/
def Flit.ofChan (f : Flit) (c : VChan) : Bool :=
  match f.msg with
  | some m => m.chan == c
  | none => false

/-- A message leaves a party on its way to its destination, or has arrived there (R17, R515). -/
def State.sendFrom (s : State) (at_ : Nat) (m : Msg) : State :=
  if at_ = m.dst then ({ s with arrived := s.arrived ++ [m] } : State).push m.body
  else
    let (l, d) := linkBetween at_ (nextHop at_ m.dst)
    let q := s.linkDir l d
    ({ s with linkDirs := s.linkDirs.set (dirKey l d) { q with queue := q.queue ++ [m] } } : State).push (.linkFlit l d)

/-- A message sent (R515). -/
def State.sendMsg (s : State) (m : Msg) : State := s.sendFrom m.src m

/-- A message with a body is waiting, in flight, arrived, or being acted on. -/
def State.onWay (s : State) (a : Act) : Bool :=
  s.work.contains a || s.arrived.any (fun m => m.body == a) ||
    s.linkDirs.any (fun d => d.2.queue.any (fun m => m.body == a) || d.2.flits.any (fun f => f.msg.any (fun m => m.body == a)))

/-- The arrived message that is the next of its source, destination and channel to be taken (R515), with the others left. -/
def takeArrived (p : Msg → Bool) : List Msg → Option (Msg × List Msg)
  | [] => none
  | m :: r =>
    if p m then some (m, r)
    else
      match takeArrived (fun x => p x && !(x.src == m.src && x.dst == m.dst && x.chan == m.chan)) r with
      | some (x, l) => some (x, m :: l)
      | none => none

/-- The party that a direction of a link leads to. -/
def dirEnd (link dir : Nat) : Nat :=
  if link < 4 then (if dir = 0 then (link + 1) % 4 else link) else if dir = 0 then protrum else link - 4

/-- Flits whose module carries no traffic any more are sent again on the others (R519). -/
def LinkDir.redeal (d : LinkDir) (ups : List Nat) : LinkDir :=
  { d with flits := d.flits.map (fun f => if ups.contains f.m || ups == [] then f else { f with m := ups.getD (f.seq % ups.length) f.m }) }

/-- Waiting messages packed into flits, each channel within its credits; the flits are dealt over the active modules in turn (R515). One
message to a flit is the model's choice (log 35). -/
def LinkDir.pack (ups : List Nat) : List Msg → LinkDir → LinkDir
  | [], d => { d with queue := [] }
  | m :: r, d =>
    if (d.flits.filter (fun f => f.ofChan m.chan)).length < m.chan.credits then
      LinkDir.pack ups r { d with sent := d.sent + 1, flits := d.flits ++ [⟨d.sent, ups.getD (d.sent % ups.length) 0, some m⟩] }
    else
      let d1 := LinkDir.pack ups r d
      { d1 with queue := m :: d1.queue }

/-- The direction as the next flit finds it: the waiting messages packed, or a flit of other traffic where there are none. -/
def LinkDir.loaded (d : LinkDir) (ups : List Nat) : LinkDir :=
  let d1 := LinkDir.pack ups d.queue (d.redeal ups)
  if d1.flits = [] then { d1 with sent := d1.sent + 1, flits := [⟨d1.sent, ups.getD (d1.sent % ups.length) 0, none⟩] } else d1

end Sys2Proof.Machine
end

