-- ==== Sys2Proof/Machine/Mem.lean ====
section
/-! DEFINITION. Memory: one byte, byte runs, the place of a translated address, and reads and writes at a place. -/

namespace Sys2Proof.Machine

/-- The result of a step. -/
abbrev Result := Host.Outcome State Fault Refusal

/-- The byte at an address; an unlisted byte is 0. -/
def Memory.get (m : Memory) (a : Nat) : Byte := Map.getD m a 0

/-- The memory with one byte written; a zero byte is not listed. -/
def Memory.put (m : Memory) (a : Nat) (b : Byte) : Memory := if b = 0 then Map.erase m a else Map.set m a b

/-- The canonical form: addresses strictly rising and no listed byte 0. -/
def Memory.wf (m : Memory) : Bool := Map.sorted m && m.all (fun c => !(c.2 == 0))

/-- n bytes from an address, the lowest first. -/
def Memory.bytes (m : Memory) (a : Nat) : Nat → List Byte
  | 0 => []
  | n + 1 => m.get a :: Memory.bytes m (a + 1) n

/-- The memory with a run of bytes written. -/
def Memory.write (m : Memory) (a : Nat) : List Byte → Memory
  | [] => m
  | b :: r => Memory.write (m.put a b) (a + 1) r

/-- The memory with n bytes from an address set to 0. -/
def Memory.clear (m : Memory) (a n : Nat) : Memory := m.filter (fun c => decide (c.1 < a) || decide (a + n ≤ c.1))

/-- The listed bytes of a range, by offset from its start. -/
def Memory.slice (m : Memory) (a n : Nat) : Memory :=
  (m.filter (fun c => decide (a ≤ c.1) && decide (c.1 < a + n))).map (fun c => (c.1 - a, c.2))

/-- The memory with a range replaced by listed bytes (the rest of the range 0). -/
def Memory.replace (m : Memory) (a n : Nat) (d : Memory) : Memory :=
  d.foldl (fun m c => if c.1 < n then m.put (a + c.1) c.2 else m) (m.clear a n)

/-- Little-endian value of a list of bytes (R6). -/
def ofBytes : List Byte → Nat
  | [] => 0
  | b :: r => b.toNat + 256 * ofBytes r

/-- The n low bytes of a number, the lowest first (R6). -/
def toBytes (x : Nat) : Nat → List Byte
  | 0 => []
  | n + 1 => BitVec.ofNat 8 x :: toBytes (x / 256) n

/-- An n-byte little-endian number (R6). -/
def Memory.read (m : Memory) (a n : Nat) : Nat := ofBytes (m.bytes a n)

/-! ## Places -/

/-- The size of the graphics DRAM (R37). -/
def dramBytes : Nat := 2 ^ 39

/-- Bytes that the weight store holds (R56). -/
def storeBytes : Nat := 8 * 10 ^ 12

/-- Where a translated address leads (R32, R37, R55, R56); none for a store offset outside the store. -/
def State.route (s : State) (hpa : Nat) : Option Loc :=
  let inHdm : Option Nat :=
    match s.hdm with
    | some base => if base ≤ hpa ∧ hpa < base + dramBytes then some (hpa - base) else none
    | none => none
  match inHdm with
  | some dpa => some (.dram dpa)
  | none =>
    if s.wsEn ∧ hpa / 2 ^ 43 = s.wsBase then
      (if hpa % 2 ^ 43 < storeBytes then some (.flash (hpa % 2 ^ 43)) else none)
    else some (.host hpa)

/-- A range cut into pieces that cross no multiple of a unit, as (address, bytes); fuel bounds their number. -/
def cutAt (unit : Nat) : Nat → Nat → Nat → List (Nat × Nat)
  | 0, _, _ => []
  | k + 1, a, n =>
    let m := min n (unit - a % unit)
    if n = 0 then [] else (a, m) :: cutAt unit k (a + m) (n - m)

/-- The place n bytes further on. -/
def Loc.add : Loc → Nat → Loc
  | .host a, n => .host (a + n)
  | .dram a, n => .dram (a + n)
  | .flash a, n => .flash (a + n)
  | .layer d a, n => .layer d (a + n)
  | .team t a, n => .team t (a + n)

/-- The die whose memory controller holds a device physical address (R49). -/
def dieOfDpa (dpa : Nat) : Nat := bits dpa 38 37

/-- The channel of a graphics DRAM line (R51). -/
def channelOfDpa (dpa : Nat) : Nat :=
  bits dpa 12 8 ^^^ bits dpa 17 13 ^^^ bits dpa 22 18 ^^^ bits dpa 27 23 ^^^ bits dpa 32 28 ^^^ bits dpa 36 33

/-- The address of a graphics DRAM byte within its channel (R51). -/
def localOfDpa (dpa : Nat) : Nat := bits dpa 36 13 * 2 ^ 8 + bits dpa 7 0

/-- The JESD239 device that holds an address (R50, R51). -/
def deviceOfDpa (dpa : Nat) : BringUp := .dram (dieOfDpa dpa) (channelOfDpa dpa / 2)

/-- Some function flips the bias of this 64 KiB page (R45, R46). -/
def State.flipping (s : State) (page : Nat) : Bool :=
  s.bias.any (fun e =>
    match e.2.flip with
    | some f => f.page == page
    | none => false)

/-- The key of a layer byte in State.layer: its die and its offset (R86). -/
def layerKey (die off : Nat) : Nat := die * 2 ^ 32 + off

/-- The party whose memory holds a place: a die's memory controller, or Protrum before the host and the weight store (R17, R32). Layer and
team bytes are reached on the accessing die itself. -/
def Loc.keeper : Loc → Option Nat
  | .dram dpa => some (dieOfDpa dpa)
  | .host _ => some protrum
  | .flash _ => some protrum
  | .layer _ _ => none
  | .team _ _ => none

/-- What an access meets at its place: it waits (R17, R45, R46, R519, R544), it meets a failed part (R544), or it is served. -/
inductive Access where
  | wait
  | broken
  | served
  deriving DecidableEq, Repr

/-- What a place itself answers. -/
def State.served (s : State) : Loc → Access
  | .dram dpa =>
    if s.flipping (dpa / 65536) then .wait
    else if deviceOfDpa dpa ∈ s.failed then .broken
    else if deviceOfDpa dpa ∈ s.ready then .served
    else .wait
  | .flash _ => if BringUp.flash ∈ s.failed then .broken else if BringUp.flash ∈ s.ready then .served else .wait
  | .host _ => .served
  | .layer _ _ => .served
  | .team _ _ => .served

/-- The place lies in a page in host bias, whose lines are obtained from the host (R32, R39). -/
def State.hostOwned (s : State) (l : Loc) : Bool :=
  match l with
  | .dram a => s.hostBias.contains (a / 65536)
  | _ => false

/-- An access from a party, a die or Protrum: it waits at its source while a link on its way carries no traffic, the way of the CXL.cache
request for a line of a host-bias page included (R17, R32, R519). -/
def State.access (s : State) (from_ : Nat) (l : Loc) : Access :=
  match l.keeper with
  | none => s.served l
  | some k => if s.reach from_ k && (!(s.hostOwned l) || s.reach k protrum) then s.served l else .wait

def State.team? (s : State) (t : Nat) : Option Team := s.teams.get? t

/-- One byte of graphics DRAM as an access finds it: the host's changed copy of a line of a host-bias page comes first (R32, R39). -/
def State.dramByte (s : State) (a : Nat) : Byte :=
  match s.hostLines.get? (a / 64) with
  | some d => d.getD (a % 64) 0
  | none => s.dram.get a

/-- One byte of a place, without checks. -/
def State.byteAt (s : State) : Loc → Byte
  | .host a => s.host.get a
  | .dram a => s.dramByte a
  | .flash a => s.flash.get a
  | .layer d a => s.layer.get (layerKey d a)
  | .team t a =>
    match s.team? t with
    | some tm => tm.mem.get a
    | none => 0

/-- n bytes from a place, without checks. -/
def State.bytesAt (s : State) (l : Loc) : Nat → List Byte
  | 0 => []
  | n + 1 => s.byteAt l :: State.bytesAt s (l.add 1) n

/-- Some unit of protection of size u in the n bytes from a is listed as uncorrectable. -/
def badIn (l : List Nat) (u a n : Nat) : Bool := l.any (fun k => decide (k * u < a + n) && decide (a < (k + 1) * u))

/-- The n bytes from a place hold uncorrectable data (R52, R57, R483, R548). -/
def State.poisoned (s : State) (l : Loc) (n : Nat) : Bool :=
  match l with
  | .host a => badIn s.hostBad 64 a n
  | .dram a => badIn s.dramBad 32 a n || badIn s.crcBad 32 a n || badIn s.hostLineBad 64 a n
  | .flash a => badIn s.flashBad 4096 a n
  | .layer d a => badIn s.layerBad 8 (layerKey d a) n
  | .team t a =>
    match s.team? t with
    | some tm => badIn tm.bad 4 a n
    | none => false

/-- A saturating count (R54, R484). -/
def satInc (n : Nat) : Nat := min (n + 1) 0xFFFFFFFF

def ErrCount.zero : ErrCount := ⟨0, 0⟩

/-- The map with one count raised. -/
def bumpUncorr (m : Map ErrCount) (k : Nat) : Map ErrCount :=
  let c := Map.getD m k ErrCount.zero
  Map.set m k { c with uncorr := satInc c.uncorr }

def bumpCorr (m : Map ErrCount) (k : Nat) : Map ErrCount :=
  let c := Map.getD m k ErrCount.zero
  Map.set m k { c with corr := satInc c.corr }

/-- An uncorrectable event at n bytes from a place is counted at the part that holds it (R52, R483, R484); the host's own poison is not
(R548). A transfer that failed its CRC five times has been answered by it. -/
def State.countBad (s : State) (l : Loc) (n : Nat) : State :=
  match l with
  | .dram a =>
    if badIn s.dramBad 32 a n || badIn s.crcBad 32 a n then
      { s with
        ecc := bumpUncorr s.ecc (dieOfDpa a)
        crcBad := s.crcBad.filter (fun k => !(decide (k * 32 < a + n) && decide (a < (k + 1) * 32))) }
    else s
  | .layer d _ => { s with mck := bumpUncorr s.mck d }
  | .team t _ =>
    match s.team? t with
    | some tm => { s with mck := bumpUncorr s.mck tm.die }
    | none => s
  | .host _ => s
  | .flash _ => s

/-- An uncorrectable event on a die, or on Protrum as number 4, counted (R484). -/
def State.countUncorr (s : State) (part : Nat) : State := { s with mck := bumpUncorr s.mck part }

/-- The listed bad units that a write of n bytes from a does not cover whole (R52, R483). -/
def clearBad (l : List Nat) (u a n : Nat) : List Nat := l.filter (fun k => !(decide (a ≤ k * u) && decide ((k + 1) * u ≤ a + n)))

/-- The host's changed copy of a line written back to graphics DRAM whole, which clears its codewords (R39, R45, R52). -/
def State.writeBack (s : State) (line : Nat) : State :=
  match s.hostLines.get? line with
  | none => s
  | some d =>
    { s with
      dram := s.dram.write (64 * line) d
      dramBad := clearBad s.dramBad 32 (64 * line) d.length
      hostLines := s.hostLines.erase line }

/-- The device obtains a line of a host-bias page (R32, R39): the host's changed copy is written back first, and the device holds the line;
a poisoned line stays the host's (R548). -/
def State.obtainLine (s : State) (line : Nat) : State :=
  if !(s.hostBias.contains (line / 1024)) || s.hostLineBad.contains line then s
  else
    let s1 := s.writeBack line
    { s1 with cxlLines := if s1.cxlLines.contains line then s1.cxlLines else line :: s1.cxlLines }

/-- The lines of n bytes of graphics DRAM obtained; a page in device bias needs nothing (R39). -/
def State.obtain (s : State) (a n : Nat) : State :=
  if s.hostBias = [] then s
  else (List.range ((a + n + 63) / 64 - a / 64)).foldl (fun s k => s.obtainLine (a / 64 + k)) s

/-- A device access of n bytes obtains the lines of its place (R32). -/
def State.obtainAt (s : State) (l : Loc) (n : Nat) : State :=
  match l with
  | .dram a => s.obtain a n
  | _ => s

/-- A run of bytes written at a place. A write to the weight store has no effect here (R56 refuses it before). -/
def State.writeAt (s : State) (l : Loc) (d : List Byte) : State :=
  match l with
  | .host a => { s with host := s.host.write a d }
  | .dram a =>
    let s1 := s.obtain a d.length
    { s1 with dram := s1.dram.write a d, dramBad := clearBad s1.dramBad 32 a d.length }
  | .flash _ => s
  | .layer die a =>
    { s with layer := s.layer.write (layerKey die a) d, layerBad := clearBad s.layerBad 8 (layerKey die a) d.length }
  | .team t a =>
    { s with teams := s.teams.modify t (fun tm => { tm with mem := tm.mem.write a d, bad := clearBad tm.bad 4 a d.length }) }

/-- The maximal runs of listed bytes (offset, bytes) of a line, so that a masked write keeps the order of its bytes. -/
def runsOf : Memory → List (Nat × List Byte)
  | [] => []
  | (a, b) :: r =>
    match runsOf r with
    | [] => [(a, [b])]
    | (a', l) :: t => if a' = a + 1 then (a, b :: l) :: t else (a, [b]) :: (a', l) :: t

/-- The bytes of a line entry written at the line's place. data lists (offset, byte), zero bytes too. -/
def State.writeRuns (s : State) (l : Loc) : List (Nat × List Byte) → State
  | [] => s
  | (o, d) :: r => State.writeRuns (s.writeAt (l.add o) d) l r

/-- Runs at neighbouring places joined. -/
def mergeRuns : List (Loc × List Byte) → List (Loc × List Byte)
  | [] => []
  | (l, d) :: r =>
    match mergeRuns r with
    | (l', d') :: t => if l' = l.add d.length then (l, d ++ d') :: t else (l, d) :: (l', d') :: t
    | [] => [(l, d)]

/-! ## The stacked layer -/

def State.wayp (s : State) (die slice : Nat) : Waypart := s.waypart.getD (die * 24 + slice) Waypart.reset

/-- The partition (virtual function) that a quad belongs to; 0 for none (R26, R509). -/
def State.ownerOf (s : State) (quad : Nat) : Nat := s.quadOwner.getD quad 0

/-- The quad, module-wide, that a slice's core pair belongs to (R18). -/
def quadOfSlice (die slice : Nat) : Nat := 12 * die + slice / 2

/-- A quad of the function's partition: it leaves from the first step of a vacate to its return (R26, R458, R502). -/
def State.inPartition (s : State) (fn quad : Nat) : Bool :=
  s.ownerOf quad == fn && !(fn == 0) && !(s.vacating.contains quad) && !(s.vacated.contains quad)

/-- The checks of one layer byte range in order (R87): none, or the cause. -/
def State.layerCheck (s : State) (fn die off n : Nat) : Option Nat :=
  let slice := bits off 28 24
  if off ≥ 2 ^ 29 ∨ slice > 23 then some 0x04
  else if !(s.inPartition fn (quadOfSlice die slice)) then some 0x07
  else if (s.wayp die slice).mapped ≤ bits off 23 20 ∨ (s.wayp die slice).mapped ≤ bits (off + (n - 1)) 23 20 then some 0x0A
  else none

end Sys2Proof.Machine
end

