-- ==== Sys2Proof/Machine/Xlate.lean ====
section
/-! DEFINITION. Translation by the host: the caches, the requests on the way, and the accesses that wait (R60 to R79). -/

namespace Sys2Proof.Machine

/-- Bits [63:57] equal bit [56] (R60). -/
def canonical (va : Nat) : Bool := bits va 63 56 == 0 || bits va 63 56 == 255

/-- The virtual address that is translated (R60). -/
def va57 (va : Nat) : Nat := va % 2 ^ 57

/-- The 4 KiB page of a virtual address. -/
def pageOf (va : Nat) : Nat := va57 va / 4096

/-- The number of a core over all dies, with room for core 48, which is none: it is Protrum's place for its own reads (log 26). -/
def coreKey (die core : Nat) : Nat := die * 64 + core

/-! ## The capabilities of a function -/

/-- The PASID, ATS and page request capability settings (R66). -/
structure Capabilities where
  maxPasidWidth : Nat
  executePermission : Bool
  privilegedMode : Bool
  invalidateQueueDepth : Nat
  pageAlignedRequest : Bool
  globalInvalidate : Bool
  pageRequestCapacity : Nat
  pagesPerGroup : Nat
  deriving DecidableEq, Repr

/-- The settings of every function, physical and virtual (R66); a depth of 0 in the register stands for 32. -/
def capabilities : Capabilities := ⟨20, true, false, 32, true, true, 512, 1⟩

/-! ## The caches -/

/-- An entry's tag matches the address (R63). -/
def TlbEntry.covers (e : TlbEntry) (fn pasid va : Nat) : Bool :=
  e.fn == fn && e.pasid == pasid && va57 va / 2 ^ e.size == e.va / 2 ^ e.size

/-- The page sizes of an entry, as powers of two, ascending (R61). -/
def pageSizes : List Nat := [12, 21, 30]

/-- The L1 set that an address of a page size falls in (R64). -/
def l1Set (size va : Nat) : Nat := bits va (size + 5) size

/-- The set of the die cache (R64). -/
def dieSet (size va pasid : Nat) : Nat := bits va (size + 9) size ^^^ pasid % 1024

/-- The key of an L1 set in State.l1, whose list holds the entries of its 6 ways, the most recently used first (R63, R64). -/
def l1Key (die core set : Nat) : Nat := coreKey die core * 64 + set

/-- The key of a set of the die cache in State.dieTlb. -/
def dieKey (die set : Nat) : Nat := die * 1024 + set

/-- An entry of a list of one page size that covers the address. -/
def findTlb (fn pasid va size : Nat) (l : List TlbEntry) : Option TlbEntry := l.find? (fun e => e.size == size && e.covers fn pasid va)

/-- A hit in the L1 of a core: one set for each size is probed, and the smallest page is used (R64). -/
def State.l1Hit (s : State) (die core fn pasid va : Nat) : Option TlbEntry :=
  pageSizes.findSome? (fun k => findTlb fn pasid va k (s.l1.getD (l1Key die core (l1Set k va)) []))

/-- The entries of a set of a die cache. -/
def State.dieWays (s : State) (die set : Nat) : DieSet := s.dieTlb.getD (dieKey die set) ⟨[], 0⟩

/-- A hit in the die cache (R64). -/
def State.dieHit (s : State) (die fn pasid va : Nat) : Option TlbEntry :=
  pageSizes.findSome? (fun k => findTlb fn pasid va k ((s.dieWays die (dieSet k va pasid)).ways.map (fun w => w.2)))

/-- A lookup: the L1 of the core, then the die cache (R63 to R65). -/
def State.lookup (s : State) (die core fn pasid va : Nat) : Option TlbEntry :=
  match s.l1Hit die core fn pasid va with
  | some e => some e
  | none => s.dieHit die fn pasid va

/-- Two entries have one tag (R63). -/
def TlbEntry.sameTag (a b : TlbEntry) : Bool := a.fn == b.fn && a.pasid == b.pasid && a.size == b.size && a.va == b.va

/-- An entry put at the head of an L1 set, in place of one with its tag or of the least recently used of 6 (R64). -/
def installTlb (l : List TlbEntry) (e : TlbEntry) : List TlbEntry := (e :: l.filter (fun o => !(o.sameTag e))).take 6

/-- The replacement tree after a use of a way: every node on the way's path points away from it (R64). -/
def treeUse (tree way : Nat) : Nat :=
  (List.range 4).foldl (fun t k =>
    let child := (way + 16) / 2 ^ k
    let node := child / 2
    t / 2 ^ (node + 1) * 2 ^ (node + 1) + (if child % 2 = 0 then 2 ^ node else 0) + t % 2 ^ node) tree

/-- The way that the replacement tree points at (R64). -/
def treeVictim (tree : Nat) : Nat := ((List.range 4).foldl (fun n _ => 2 * n + (if bit tree n then 1 else 0)) 1) - 16

/-- An entry put in a set of a die cache: in place of one with its tag, in a free way, or in the way that the tree gives (R64). -/
def DieSet.install (d : DieSet) (e : TlbEntry) : DieSet :=
  let way := match d.ways.find? (fun w => w.2.sameTag e) with
    | some w => w.1
    | none => ((List.range 16).find? (fun k => (d.ways.get? k).isNone)).getD (treeVictim d.tree)
  ⟨d.ways.set way e, treeUse d.tree way⟩

/-- An entry installed in the die cache and in the L1 of some cores (R65). -/
def State.install (s : State) (die : Nat) (cores : List Nat) (e : TlbEntry) : State :=
  let set := dieSet e.size e.va e.pasid
  { s with
    dieTlb := s.dieTlb.set (dieKey die set) ((s.dieWays die set).install e)
    l1 := cores.foldl (fun m c => m.set (l1Key die c (l1Set e.size e.va)) (installTlb (m.getD (l1Key die c (l1Set e.size e.va)) []) e)) s.l1 }

/-- A use of an entry where a lookup found it (R64). A hit in the die cache installs nothing in the L1, since R65 names the completion only
(log 94). -/
def State.useTlb (s : State) (die core fn pasid va : Nat) : State :=
  match s.l1Hit die core fn pasid va with
  | some e => { s with l1 := s.l1.modify (l1Key die core (l1Set e.size e.va)) (fun l => installTlb l e) }
  | none =>
    match s.dieHit die fn pasid va with
    | some e => { s with dieTlb := s.dieTlb.modify (dieKey die (dieSet e.size e.va e.pasid)) (fun d => d.install e) }
    | none => s

/-- The permissions that an access needs (R69). -/
def TlbEntry.allows (e : TlbEntry) : Need → Bool
  | .read => e.r
  | .write => e.w
  | .both => e.r && e.w
  | .fetch => e.x

/-- NW of the request that an access makes (R67). -/
def Need.nw : Need → Bool
  | .read => true
  | .fetch => true
  | .write => false
  | .both => false

/-- What an access without a usable entry asks for first (R69). -/
def firstPhase (e : Option TlbEntry) (need : Need) : Phase :=
  match e with
  | none => .wantAts
  | some e => if e.nw && !need.nw then .wantAts else .wantPri

/-- The waiting record of an owner for a page. -/
def State.waitFor (s : State) (o : Owner) (page : Nat) : Option PageWait := s.waits.find? (fun w => w.owner == o && w.page == page)

/-- The address that an entry gives a byte. -/
def TlbEntry.hpaOf (e : TlbEntry) (va : Nat) : Nat := e.hpa + va57 va % 2 ^ e.size

/-- The translated address of one byte, if its page may be used now: by the translation that the access holds, from a cache, or
untranslated (R67, R75). -/
def State.hpaOf (s : State) (o : Owner) (die core fn pasid va : Nat) (need : Need) : Option Nat :=
  let held : Option Nat :=
    match s.waitFor o (pageOf va) with
    | some w =>
      (match w.phase with
       | .have e => if e.allows need then some (e.hpaOf va) else none
       | .untranslated => some (Config.untranslated fn pasid (va57 va))
       | _ => none)
    | none => none
  match held with
  | some a => some a
  | none =>
    match s.lookup die core fn pasid va with
    | some e => if e.allows need then some (e.hpaOf va) else none
    | none => none

/-- Page requests of a function that the host has not answered, over all dies (R69). -/
def State.priCount (s : State) (fn : Nat) : Nat := (s.pri.filter (fun p => p.fn == fn && p.sent)).length

/-- How many page requests a function may have outstanding (R69). Log 5. -/
def State.priLimit (s : State) (fn : Nat) : Nat := min capabilities.pageRequestCapacity (s.priAlloc.getD fn capabilities.pageRequestCapacity)

/-- The lowest page request group index that no outstanding request of the function has (R69). Log 5. -/
def State.priGroup (s : State) (fn : Nat) : Nat :=
  ((List.range capabilities.pageRequestCapacity).find? (fun k => !(s.pri.any (fun p => p.fn == fn && p.sent && p.group == k)))).getD 0

/-- Page requests that wait are sent in the order in which they arose, as the count of their function allows (R69). -/
def State.sendPris (s : State) : List PriReq → State
  | [] => s
  | p :: r =>
    if !p.sent && decide (s.priCount p.fn < s.priLimit p.fn) then
      State.sendPris { s with pri := s.pri.map (fun x => if x = p then { p with sent := true, group := s.priGroup p.fn } else x) } r
    else State.sendPris s r

/-- One waiting access asks for what it needs next (R68, R69, R70). An access that joins a page request of its die counts it as one of its
own (log 80). -/
def State.sendWait (s : State) (w : PageWait) : State × PageWait :=
  match w.phase with
  | .wantAts =>
    if s.ats.any (fun a => a.die == w.die && a.fn == w.fn && a.pasid == w.pasid && a.page == w.page && a.nw == w.need.nw) then
      (s, { w with phase := .atsSent })
    else if (s.ats.filter (fun a => a.die == w.die)).length < 512 then
      ({ s with ats := s.ats ++ [⟨w.die, w.fn, w.pasid, w.page, w.need.nw, w.need == .fetch, []⟩] }, { w with phase := .atsSent })
    else (s, w)
  | .wantPri =>
    if s.priOff.contains w.fn then (s, { w with phase := .refused 0x06 false })
    else if s.pri.any (fun p => p.die == w.die && p.fn == w.fn && p.pasid == w.pasid && p.page == w.page) then
      (s, { w with phase := .priSent, tries := w.tries + 1 })
    else ({ s with pri := s.pri ++ [⟨w.die, w.fn, w.pasid, w.page, w.need, 0, false⟩] }, { w with phase := .priSent, tries := w.tries + 1 })
  | .atsSent => (s, w)
  | .priSent => (s, w)
  | .have _ => (s, w)
  | .untranslated => (s, w)
  | .refused _ _ => (s, w)

/-- Every waiting access sends what it may send, oldest first. -/
def pumpList : List PageWait → State → List PageWait → State
  | [], s, acc => { s with waits := acc }
  | w :: r, s, acc =>
    let (s', w') := s.sendWait w
    pumpList r s' (acc ++ [w'])

def State.pump (s : State) : State :=
  let s1 := pumpList s.waits s []
  s1.sendPris s1.pri

/-- Why a write to a translated page is refused whatever the page permission says, if so (R56): the page lies in the weight store, or in its
window at or beyond the store's end, where the first row of R56 is taken before the second (log 95). -/
def State.storeRefusal (s : State) (e : TlbEntry) (need : Need) (va : Nat) : Option Nat :=
  if need.nw then none
  else
    match s.route (e.hpaOf va) with
    | some (.flash _) => some 0x07
    | some _ => none
    | none => some 0x04

/-- A page that an owner needs: nothing if it has a record, or if a cache allows the access, else a waiting record (R68, R69). -/
def State.needPage (s : State) (o : Owner) (die core fn pasid : Nat) (need : Need) (page : Nat) : State :=
  match s.waitFor o page with
  | some _ => s
  | none =>
    let e := s.lookup die core fn pasid (page * 4096)
    if (match e with
        | some e => e.allows need
        | none => false) then s.useTlb die core fn pasid (page * 4096)
    else
      let phase := match e.bind (fun e => s.storeRefusal e need (page * 4096)) with
        | some c => .refused c false
        | none => firstPhase e need
      { s with waits := s.waits ++ [⟨o, die, core, fn, pasid, page, need, phase, 0⟩] }

def State.needPages (s : State) (o : Owner) (die core fn pasid : Nat) (need : Need) (pages : List Nat) : State :=
  (pages.foldl (fun s p => s.needPage o die core fn pasid need p) s).pump

/-- Where an owner's pages stand. -/
inductive Standing where
  | ready
  | waiting
  | refused (cause : Nat) (context : Bool)
  deriving DecidableEq, Repr

def standingOf : List PageWait → Standing
  | [] => .ready
  | w :: r =>
    match w.phase with
    | .refused c x => .refused c x
    | .have _ => standingOf r
    | .untranslated => standingOf r
    | _ =>
      match standingOf r with
      | .refused c x => .refused c x
      | _ => .waiting

/-- An owner's standing over the pages it needs (R75). -/
def State.standing (s : State) (o : Owner) : Standing := standingOf (s.waits.filter (fun w => w.owner == o))

/-- An owner keeps the translations of its pages until it has performed in all its lanes (R75): each page of a cache gets a record. -/
def State.pin (s : State) (o : Owner) (die core fn pasid : Nat) (need : Need) (pages : List Nat) : State :=
  pages.foldl (fun s p =>
    match s.waitFor o p, s.lookup die core fn pasid (p * 4096) with
    | none, some e => { s with waits := s.waits ++ [⟨o, die, core, fn, pasid, p, need, .have e, 0⟩] }
    | _, _ => s) s

/-- An owner's standing over some of its pages: one read of a longer work. -/
def State.standingOn (s : State) (o : Owner) (pages : List Nat) : Standing :=
  standingOf (s.waits.filter (fun w => w.owner == o && pages.contains w.page))

/-- The cause that a page of an owner was refused with, if it was (R70). -/
def State.refusedPage (s : State) (o : Owner) (page : Nat) : Option Nat :=
  match s.waitFor o page with
  | some w =>
    (match w.phase with
     | .refused c _ => some c
     | _ => none)
  | none => none

/-- The owner's waiting records dropped: it performed, or it was refused. -/
def State.dropWaits (s : State) (o : Owner) : State := { s with waits := s.waits.filter (fun w => !(w.owner == o)) }

/-- The installed size of a completion (R67): the largest of 4 KiB, 2 MiB and 1 GiB that does not exceed it. -/
def installSize (size : Nat) : Nat := if size < 21 then 12 else if size < 30 then 21 else 30

/-- The entry that a completion installs (R67): aligned to contain the requested page. -/
def atsEntry (fn pasid page size hpa : Nat) (r w x nw : Bool) : TlbEntry :=
  let k := installSize size
  let va := page * 4096
  ⟨fn, pasid, k, va / 2 ^ k * 2 ^ k, (hpa / 2 ^ size * 2 ^ size + va % 2 ^ size) / 2 ^ k * 2 ^ k, r, w, x, nw⟩

/-- A refused completion (R70): a further page request, or after the fourth a cause. -/
def refuseOrAsk (w : PageWait) (cause : Nat) : PageWait :=
  if w.tries < 4 then { w with phase := .wantPri } else { w with phase := .refused cause false }

/-- An entry's page overlaps a range of virtual addresses. -/
def TlbEntry.overlaps (e : TlbEntry) (base len : Nat) : Bool := decide (e.va < base + len) && decide (base < e.va + 2 ^ e.size)

/-- A 4 KiB page overlaps a range of virtual addresses. -/
def pageInRange (page base len : Nat) : Bool := decide (page * 4096 < base + len) && decide (base < page * 4096 + 4096)

/-- An invalidation that arrived while the request was outstanding overlaps the page that its completion gives (R73). -/
def AtsReq.staleFor (a : AtsReq) (reply : AtsReply) : Bool :=
  a.overtaken.any (fun v =>
    match reply with
    | .page size hpa r w x => (atsEntry a.fn a.pasid a.page size hpa r w x a.nw).overlaps v.1 v.2
    | .untranslated => pageInRange a.page v.1 v.2
    | .refused => pageInRange a.page v.1 v.2)

/-- An ATS completion for the accesses that wait on it (R67, R69, R70, R73). -/
def State.atsComplete (s : State) (die fn pasid page : Nat) (nw : Bool) (reply : AtsReply) : State :=
  match s.ats.find? (fun a => a.die == die && a.fn == fn && a.pasid == pasid && a.page == page && a.nw == nw) with
  | none => s
  | some req =>
    let s1 : State := { s with ats := s.ats.filter (fun a => !(a == req)) }
    let mine (w : PageWait) : Bool :=
      w.die == die && w.fn == fn && w.pasid == pasid && w.page == page && w.need.nw == nw && w.phase == .atsSent
    let upd (s : State) (f : PageWait → PageWait) : State := { s with waits := s.waits.map (fun w => if mine w then f w else w) }
    if req.staleFor reply then (upd s1 (fun w => { w with phase := .wantAts })).pump
    else
      match reply with
      | .refused => (upd s1 (fun w => { w with phase := .refused 0x06 true })).pump
      | .untranslated => (upd s1 (fun w => { w with phase := .untranslated })).pump
      | .page size hpa r w x =>
        if !r && !w then (upd s1 (fun v => refuseOrAsk v 0x06)).pump
        else
          let e := atsEntry fn pasid page size hpa r w x nw
          let s2 := s1.install die ((s1.waits.filter mine).map (fun v => v.core)) e
          (upd s2 (fun v => if e.allows v.need then { v with phase := .have e }
            else match s2.storeRefusal e v.need (page * 4096) with
              | some c => { v with phase := .refused c false }
              | none => refuseOrAsk v 0x07)).pump

/-- A page request response (R70): it names the function and the group index of the request that it answers. -/
def State.pageResponse (s : State) (fn group : Nat) (reply : PriReply) : State :=
  match s.pri.find? (fun p => p.fn == fn && p.group == group && p.sent) with
  | none => s
  | some req =>
    let mine (w : PageWait) : Bool := w.die == req.die && w.fn == fn && w.pasid == req.pasid && w.page == req.page && w.phase == .priSent
    match reply with
    | .success =>
      ({ s with
        pri := s.pri.filter (fun p => !(p == req))
        waits := s.waits.map (fun w => if mine w then { w with phase := .wantAts } else w) } : State).pump
    | .invalid =>
      ({ s with
        pri := s.pri.filter (fun p => !(p == req))
        waits := s.waits.map (fun w => if mine w then { w with phase := .refused 0x06 false } else w) } : State).pump
    | .failure =>
      ({ s with
        pri := s.pri.filter (fun p => !(p.fn == fn))
        priOff := fn :: s.priOff
        waits := s.waits.map (fun w =>
          if w.fn = fn ∧ (w.phase = .priSent ∨ w.phase = .wantPri) then { w with phase := .refused 0x06 true } else w) } : State).pump

/-- An atomic that has performed a lane keeps its translations until its last (R75, R72). -/
def State.midway (s : State) (o : Owner) : Bool :=
  match o with
  | .entry gid id =>
    (match s.groups.get? gid with
     | some g => g.entries.any (fun e => e.id == id && !(e.done == 0))
     | none => false)
  | _ => false

/-- A translation that an access under way holds falls in the range (R72). -/
def State.heldMidway (s : State) (fn pasid : Nat) (glob : Bool) (base len : Nat) : Bool :=
  s.waits.any (fun w => w.fn == fn && (glob || w.pasid == pasid) && (match w.phase with
    | .have e => e.overlaps base len
    | _ => false) && s.midway w.owner)

/-- Every entry of every translation cache of the module. -/
def State.translations (s : State) : List TlbEntry :=
  s.l1.flatMap (fun c => c.2) ++ s.dieTlb.flatMap (fun c => c.2.ways.map (fun w => w.2))

/-- An invalidation of a function and range removes the entry (R71); glob: whatever the PASID. -/
def TlbEntry.goes (e : TlbEntry) (fn pasid : Nat) (glob : Bool) (base len : Nat) : Bool :=
  e.fn == fn && (glob || e.pasid == pasid) && e.overlaps base len

/-- The entries of a function and range removed from every cache and from the accesses that have not begun, and the overtaken ATS requests
marked (R71, R73, R74). glob: whatever the PASID. The code pages that a core checked under a removed translation must be checked again
(R481). -/
def State.invalidate (s : State) (fn pasid : Nat) (glob : Bool) (base len : Nat) : State :=
  let hit (p : Nat) : Bool := glob || p == pasid
  let gone (e : TlbEntry) : Bool := e.goes fn pasid glob base len
  let went := s.translations.filter gone
  { s with
    l1 := s.l1.map (fun c => (c.1, c.2.filter (fun e => !(gone e))))
    dieTlb := s.dieTlb.map (fun c => (c.1, { c.2 with ways := c.2.ways.filter (fun w => !(gone w.2)) }))
    ats := s.ats.map (fun a => if a.fn = fn ∧ hit a.pasid then { a with overtaken := a.overtaken ++ [(base, len)] } else a)
    waits := s.waits.map (fun w => match w.phase with
      | .have e => if gone e && !(s.midway w.owner) then { w with phase := .wantAts } else w
      | _ => w)
    codePages := s.codePages.filter (fun c => !(c.fn == fn && hit c.pasid &&
      (pageInRange c.page base len || went.any (fun e => e.covers c.fn c.pasid (c.page * 4096))))) }

end Sys2Proof.Machine
end

