-- ==== Sys2Proof/Machine/Group.lean ====
section
/-! DEFINITION. A group's own state: its registers, its lane-PC table, its draws (R110 to R134, R371, R372, R299). -/

namespace Sys2Proof.Machine

/-- The lanes of a mask, ascending. -/
def lanesOf (m : BitVec 64) : List Nat := (List.range 64).filter (fun i => m.getLsbD i)

/-- The mask of one lane. -/
def laneBit (i : Nat) : BitVec 64 := BitVec.twoPow 64 i

/-- The mask of a list of lanes. -/
def maskOf (l : List Nat) : BitVec 64 := l.foldl (fun m i => m ||| laneBit i) 0

/-- All lanes of a width: lanes 0 to n - 1. -/
def allLanes (n : Nat) : BitVec 64 := BitVec.ofNat 64 (2 ^ n - 1)

/-! ## Registers -/

/-- Register v of a lane. After a REPACK that did not carry it, an unwritten register holds a free value (R384, log 8). -/
def Group.readV (g : Group) (lane n : Nat) : W32 :=
  match g.v.get? (lane * 256 + n) with
  | some x => x
  | none => if g.undef = 0 then 0 else Config.freeReg g.undef lane n

/-- The marks left when a word is written whole, which clears its own (R483). -/
def unmark (l : List Nat) (k : Nat) : List Nat := l.filter (fun x => !(x == k))

/-- The marks left when n consecutive words are written whole. -/
def unmarkAll (l : List Nat) (k n : Nat) : List Nat := l.filter (fun x => !(decide (k ≤ x) && decide (x < k + n)))

def Group.writeV (g : Group) (lane n : Nat) (x : W32) : Group :=
  { g with v := g.v.set (lane * 256 + n) x, badV := unmark g.badV (lane * 256 + n) }

/-- cnt consecutive registers of a lane, the lowest in the low bits (R112). -/
def Group.readWide (g : Group) (lane n : Nat) : Nat → Nat
  | 0 => 0
  | cnt + 1 => (g.readV lane n).toNat + 2 ^ 32 * Group.readWide g lane (n + 1) cnt

def Group.writeWide (g : Group) (lane n : Nat) : Nat → Nat → Group
  | 0, _ => g
  | cnt + 1, x => Group.writeWide (g.writeV lane n (BitVec.ofNat 32 x)) lane (n + 1) cnt (x / 2 ^ 32)

def Group.readS (g : Group) (n : Nat) : W64 := g.s.getD n 0
def Group.writeS (g : Group) (n : Nat) (x : W64) : Group := { g with s := g.s.set n x, badS := unmarkAll g.badS (2 * n) 2 }
def Group.readC (g : Group) (n : Nat) : Nat := (g.c.getD n 0).toNat
def Group.writeC (g : Group) (n : Nat) (x : Nat) : Group := { g with c := g.c.set n (BitVec.ofNat 32 x), badC := unmark g.badC n }
def Group.readX (g : Group) (lane n : Nat) : W32 := g.x.getD (lane * 4 + n) 0
def Group.writeX (g : Group) (lane n : Nat) (x : W32) : Group := { g with x := g.x.set (lane * 4 + n) x, badX := unmark g.badX (lane * 4 + n) }

/-- Register w of a lane (R120), free after a REPACK that did not carry it (R384, log 8). -/
def Group.readW (g : Group) (lane n : Nat) : BitVec 192 :=
  match g.w.get? (lane * 8 + n) with
  | some x => x
  | none => if g.undef = 0 then 0 else Config.freeRes g.undef lane n

def Group.writeW (g : Group) (lane n : Nat) (x : BitVec 192) : Group := { g with w := g.w.set (lane * 8 + n) x, badW := unmarkAll g.badW (6 * (lane * 8 + n)) 6 }

/-- Some words of a reservoir written, and the others kept with their marks (R131, R305): words are numbered from COUNT up. -/
def Group.writeWords (g : Group) (lane n : Nat) (x : BitVec 192) (words : List Nat) : Group :=
  { g with
    w := g.w.set (lane * 8 + n) x
    badW := g.badW.filter (fun k => !(words.any (fun j => k == 6 * (lane * 8 + n) + j))) }

/-- Predicate p of every lane, bit j for lane j; p0 is true (R111). -/
def Group.predMask (g : Group) (n : Nat) : BitVec 64 := if n = 0 then BitVec.allOnes 64 else g.p.getD n 0

/-- Predicate p written in the lanes of a mask; writes to p0 are discarded (R111). -/
def Group.writePred (g : Group) (n : Nat) (lanes val : BitVec 64) : Group :=
  if n = 0 then g else { g with p := g.p.set n ((g.predMask n &&& ~~~lanes) ||| (val &&& lanes)) }

/-- Predicate b, group-wide. -/
def Group.readB (g : Group) (n : Nat) : Bool := g.b.getLsbD n

def Group.writeB (g : Group) (n : Nat) (x : Bool) : Group :=
  { g with b := if x then g.b ||| BitVec.twoPow 4 n else g.b &&& ~~~(BitVec.twoPow 4 n) }

/-- The lanes that a lane-set guard leaves active (R168). -/
def Group.guardMask (g : Group) (gd : Guard) : BitVec 64 :=
  if gd.sel = 0 then BitVec.allOnes 64 else if gd.sense then ~~~(g.predMask gd.sel.toNat) else g.predMask gd.sel.toNat

/-- A uniform-set guard (R168): true if the instruction takes effect. -/
def Group.guardTrue (g : Group) (gd : Guard) : Bool := gd.sel == 0 || g.readB gd.sel.toNat != gd.sense

/-! ## Draws -/

/-- Mix of R299. -/
def mix (z : W64) : W64 :=
  let z := z ^^^ (z >>> 30)
  let z := z * 0x8E3B5D71C9A42F67#64
  let z := z ^^^ (z >>> 27)
  let z := z * 0xB7E01D936A5CF2C5#64
  z ^^^ (z >>> 31)

/-- The four rounds of R299. -/
def drawRounds : Nat → W64 × W64 → W64 × W64
  | 0, x => x
  | n + 1, (a, b) =>
    let a' := mix (a + b)
    drawRounds n (a', (b.rotateLeft 17) ^^^ a')

/-- The value of a draw from KEY, STREAM and COUNTER (R299). -/
def drawValue (key : BitVec 128) (stream counter : W64) : W32 :=
  let r := drawRounds 4 (stream ^^^ key.extractLsb' 0 64, counter + key.extractLsb' 64 64)
  r.1.extractLsb' 32 32 ^^^ r.2.extractLsb' 0 32

/-- Draw(i): the value and the group with COUNTER(i) advanced (R133, R299). -/
def Group.draw (g : Group) (lane : Nat) : W32 × Group :=
  let c := g.counter.getD lane 0
  (drawValue g.key (g.stream.getD lane 0) c, { g with counter := g.counter.set lane (c + 1) })

/-- n draws of a lane, in order. -/
def Group.drawN (g : Group) (lane : Nat) : Nat → List W32 × Group
  | 0 => ([], g)
  | n + 1 =>
    let (d, g1) := g.draw lane
    let (r, g2) := Group.drawN g1 lane n
    (d :: r, g2)

/-! ## The lane-PC table -/

/-- Lanes placed at a program counter: in its entry, or in a new one in ascending order (R372). -/
def tableInsert (pc : W64) (m : BitVec 64) : List (W64 × BitVec 64) → List (W64 × BitVec 64)
  | [] => [(pc, m)]
  | (q, n) :: r => if q = pc then (q, n ||| m) :: r else if pc < q then (pc, m) :: (q, n) :: r else (q, n) :: tableInsert pc m r

/-- The table without some lanes; an entry whose mask becomes empty is removed (R372). -/
def tableRemove (t : List (W64 × BitVec 64)) (m : BitVec 64) : List (W64 × BitVec 64) :=
  (t.map (fun e => (e.1, e.2 &&& ~~~m))).filter (fun e => !(e.2 == 0))

/-- The run's lanes leave their entries, and each target takes its lanes (R372). -/
def tableMove (t : List (W64 × BitVec 64)) (run : BitVec 64) (targets : List (W64 × BitVec 64)) : List (W64 × BitVec 64) :=
  targets.foldl (fun t e => if e.2 = 0 then t else tableInsert e.1 e.2 t) (tableRemove t run)

/-- The lanes of half 0 and half 1 of a ganged group (R372, R446). -/
def lowHalf : BitVec 64 := 0xFFFF
def highHalf : BitVec 64 := 0xFFFF0000

/-- The run's lanes moved to new program counters; lanes without a target leave the table (R372). -/
def Group.place (g : Group) (run : BitVec 64) (targets : List (W64 × BitVec 64)) : Group :=
  if g.gang then
    { g with
      table := tableMove g.table (run &&& lowHalf) (targets.map (fun e => (e.1, e.2 &&& lowHalf)))
      table1 := tableMove g.table1 (run &&& highHalf) (targets.map (fun e => (e.1, e.2 &&& highHalf))) }
  else { g with table := tableMove g.table run targets }

/-- The issuing run: the first entry, or in a ganged group the lanes of either half at the lower first PC (R372). -/
def Group.run (g : Group) : Option (W64 × BitVec 64) :=
  if g.gang then
    match g.table, g.table1 with
    | [], [] => none
    | e :: _, [] => some e
    | [], e :: _ => some e
    | (p, m) :: _, (q, n) :: _ => if p = q then some (p, m ||| n) else if p < q then some (p, m) else some (q, n)
  else
    match g.table with
    | [] => none
    | e :: _ => some e

/-! ## Hazards and counters -/

/-- An entry that the group's own issue waits for: while a handler runs, the book's entries do not count (R553). -/
def Group.mine (g : Group) (e : Entry) : Bool := !(g.hnd && e.book)

/-- The group's entries that its issue waits for. -/
def Group.liveEntries (g : Group) : List Entry := g.entries.filter g.mine

/-- The key of the register that a key names: keys from 640 on stand for the low word of an s register, from 768 on for one word of a w register. -/
def wholeKey (k : Nat) : Nat := if k < 640 then k else if k < 768 then k - 384 else 384 + (k - 768) / 6

/-- Some outstanding instruction will write one of these registers (R129, R76), one that the prompt book holds too: it stays outstanding while
the handler runs (R553). -/
def Group.blocked (g : Group) (regs : List Nat) : Bool := g.entries.any (fun e => e.dsts.any (fun d => regs.any (fun k => wholeKey k == d)))

/-- Entries of the replay queue: instructions that wait for translation or have faulted (R76, R553). -/
def Group.replayFull (g : Group) : Bool := decide (16 ≤ (g.liveEntries.filter (fun e => e.state == .waiting || e.state == .faulted)).length)

/-- Two byte ranges of one space have a byte in common (R76). Team windows are compared by their own addresses. -/
def rangesMeet (a b : Space × Nat × Nat) : Bool := a.1 == b.1 && decide (a.2.1 < b.2.1 + b.2.2) && decide (b.2.1 < a.2.1 + a.2.2)

/-- Stands among an entry's ranges while what it reads is not known: any global byte. No later instruction waits for such an entry; it finds what
it is to find in its seen bytes (R76, R192). -/
def anyGlobal : Space × Nat × Nat := (.glob, 0, 2 ^ 64)

/-- An outstanding memory instruction of the group accesses a common byte (R76, R192). Engine work does not count (R200). -/
def Group.overlaps (g : Group) (rs : List (Space × Nat × Nat)) : Bool :=
  g.liveEntries.any (fun e => !(e.counter == .cps || e.counter == .tls) &&
    e.ranges.any (fun a => !(a == anyGlobal) && rs.any (fun b => rangesMeet a b)))

/-! ## Program order (R192) -/

/-- Two runs of global bytes may be the same bytes through two addresses: their offsets in a page meet, and no page is smaller than 4 KiB
(R61). -/
def offsetsMeet (a n b m : Nat) : Bool :=
  decide ((b % 4096 + 4096 - a % 4096) % 4096 < n) || decide ((a % 4096 + 4096 - b % 4096) % 4096 < m)

/-- The place of an owner's instruction in its group's program order; none for one that follows every store in the buffer. -/
def Group.orderOf (g : Group) (o : Owner) : Option Nat :=
  match o with
  | .entry _ id => (g.entries.find? (fun e => e.id == id)).map (fun e => e.seq)
  | _ => none

/-- The same for a reading of an instruction, which may be made as it issues, before its entry is there: it then follows every earlier entry. -/
def Group.readOrder (g : Group) (o : Owner) : Option Nat :=
  match o with
  | .entry _ id => some ((g.orderOf o).getD id)
  | _ => none

/-- A place in program order comes before another. -/
def precedes (seq : Nat) (order : Option Nat) : Bool :=
  match order with
  | some n => decide (seq < n)
  | none => true

/-- A store, an atomic or an xadd, which writes for its group in program order (R192). -/
def Entry.storing (e : Entry) : Bool :=
  e.counter == .sts ||
    (match e.instr with
     | .atom _ _ => true
     | .cas _ _ => true
     | _ => false)

/-- Earlier stores and atomics of the group that are not performed yet and that an access waits for (R76). -/
def Group.writesBefore (g : Group) (order : Option Nat) : List Entry :=
  g.entries.filter (fun e => e.storing && !e.book && !(e.state == .faulted) && precedes e.seq order)

/-- A spawn, which reads its record. -/
def isSpawn (i : Instr) : Bool :=
  match i with
  | .spawn _ _ _ => true
  | .uniformXf op _ _ _ _ _ _ => op == .spawn
  | _ => false

/-- An earlier read of the group that may be of these global bytes and has not read them yet (R192). -/
def Entry.mayRead (e : Entry) (order a n : Nat) : Bool :=
  (e.counter == .lds || isSpawn e.instr) && !e.storing && !e.book && decide (e.seq < order) &&
    e.ranges.any (fun r => r.1 == .glob && offsetsMeet r.2.1 r.2.2 a n)

/-- The read keeps the bytes of a place as it is to find them, those that it does not keep already. -/
def Entry.keep (e : Entry) (l : Loc) (b : List Byte) : Entry :=
  { e with seen := (b.zipIdx).foldl (fun m x => if m.any (fun y => y.1 == l.add x.2) then m else m ++ [(l.add x.2, x.1)]) e.seen }

/-- The bytes of a place as the read is to find them. -/
def Entry.asSeen (e : Entry) (l : Loc) (b : List Byte) : List Byte :=
  (b.zipIdx).map (fun x => match e.seen.find? (fun y => y.1 == l.add x.2) with
    | some y => y.2
    | none => x.1)

/-- Where a byte lies in a store-buffer entry's line: by its address, or by its translated address hpa (R192). -/
def SbEntry.offsetOf (e : SbEntry) (sp : Space) (a : Nat) (hpa : Option Nat) : Option Nat :=
  if !(e.space == sp) then none
  else if e.line ≤ a ∧ a < e.line + 256 then some (a - e.line)
  else
    match e.phys, hpa with
    | some p, some h => if p ≤ h ∧ h < p + 256 then some (h - p) else none
    | _, _ => none

/-- The entry holds the byte. -/
def SbEntry.byteOf (e : SbEntry) (sp : Space) (a : Nat) (hpa : Option Nat) : Option Byte :=
  match e.offsetOf sp a hpa with
  | some k => if bit e.mask k then some (e.data.get k) else none
  | none => none

/-- The group's own store-buffer bytes over what memory holds (R192, R347): of the entries that come before in program order, the latest. -/
def Group.forward (g : Group) (order : Option Nat) (sp : Space) (a : Nat) (hpa : Option Nat) (b : Byte) : Byte :=
  (g.sbuf.foldl (fun (r : Nat × Byte) e =>
    match e.byteOf sp a hpa with
    | some x => if precedes e.seq order && decide (r.1 ≤ e.seq) then (e.seq, x) else r
    | none => r) (0, b)).2

/-- Bytes with their addresses, each forwarded. -/
def Group.forwardAll (g : Group) (order : Option Nat) (sp : Space) (a : Nat) (hpa : Option Nat) : List Byte → List Byte
  | [] => []
  | b :: r => g.forward order sp a hpa b :: Group.forwardAll g order sp (a + 1) (hpa.map (· + 1)) r

/-- The group's own store-buffer entries hold every one of the n bytes from a, so that a read of them reads no memory (R347). -/
def Group.holds (g : Group) (order : Option Nat) (sp : Space) (a : Nat) (hpa : Option Nat) (n : Nat) : Bool :=
  (List.range n).all (fun k => g.sbuf.any (fun e => precedes e.seq order && (e.byteOf sp (a + k) (hpa.map (· + k))).isSome))

/-- A restored entry of the group that is not yet translated again may be of the line that holds an address (R78, R192). -/
def Group.mayAlias (g : Group) (order : Option Nat) (sp : Space) (a : Nat) : Bool :=
  sp == .glob && g.sbuf.any (fun e => precedes e.seq order && e.space == .glob && e.phys.isNone && !(e.line == a / 256 * 256) &&
    e.line % 4096 == a / 256 * 256 % 4096)

def Group.count (g : Group) : Counter → Nat
  | .lds => g.lds
  | .sts => g.sts
  | .cps => g.cps
  | .tls => g.tls
  | .none => 0

/-- A counter raised by one issue (R196). -/
def Group.countUp (g : Group) : Counter → Group
  | .lds => { g with lds := g.lds + 1 }
  | .sts => { g with sts := g.sts + 1 }
  | .cps => { g with cps := g.cps + 1 }
  | .tls => { g with tls := g.tls + 1 }
  | .none => g

/-- A counter lowered by one completion (R196). -/
def Group.countDown (g : Group) : Counter → Group
  | .lds => { g with lds := g.lds - 1 }
  | .sts => { g with sts := g.sts - 1 }
  | .cps => { g with cps := g.cps - 1 }
  | .tls => { g with tls := g.tls - 1 }
  | .none => g

/-- An entry that the group issues nothing after until it has completed: pbind (R421), and an instruction that a trap return injects; none of
them counts in a counter. A spawn counts in none either, and the group goes on past it (R76). -/
def Entry.blocking (e : Entry) : Bool := e.counter == .none && !(isSpawn e.instr)

/-- The atom or cas acquires when it has been performed in every lane (R209). -/
def acquiringAtomic (i : Instr) : Bool :=
  match i with
  | .atom _ f => f.order == 1 || f.order == 3
  | .cas _ f => f.order == 1 || f.order == 3
  | _ => false

/-- An atom or cas of the group has not acquired yet, and no later access is performed before it does (R348). -/
def Group.acquiring (g : Group) : Bool := g.liveEntries.any (fun e => acquiringAtomic e.instr)

/-- Which engine an instruction goes to (R198): 1 the copy engine, 2 the layer loader; 0 for none. -/
def engineOf (i : Instr) : Nat :=
  match i with
  | .copy _ _ _ _ _ _ _ => 1
  | .lload _ _ _ _ _ _ _ => 2
  | .lstore _ _ _ _ _ _ _ => 2
  | _ => 0

/-- The spaces of an async operation: destination and source. -/
def engineSpaces (i : Instr) : Space × Space :=
  match i with
  | .copy _ _ _ _ dsp ssp _ => (dsp, ssp)
  | .lload _ _ _ _ _ _ _ => (.layer, .glob)
  | .lstore _ _ _ _ _ _ _ => (.glob, .layer)
  | _ => (.glob, .glob)

/-- Matrix work of the group transfers to or from the layer (R262, R266). -/
def MatOp.inLayer : MatOp → Bool
  | .mld _ _ _ _ sp _ => sp == .layer
  | .mloop _ _ _ _ _ _ _ _ _ asp bsp _ _ _ _ => asp == .layer || bsp == .layer
  | .mst _ _ _ _ _ sp _ => sp == .layer
  | .mscale _ _ _ sp => sp == .layer
  | .mma _ _ _ _ _ _ => false
  | .mzero _ _ => false

/-- The group has nothing to wait for: it may issue its next instruction (R76, R364, R371, R421, R465). A faulted entry outside
the book is one that a stop left, and it is re-injected first (R474). -/
def Group.mayIssue (g : Group) : Bool :=
  g.placed && g.wait == .none && g.pend.isNone && !g.replayFull && g.run.isSome && !(g.liveEntries.any (fun e => e.blocking || e.state == .faulted))

end Sys2Proof.Machine
end

