-- ==== Sys2Proof/Machine/Ops.lean ====
section
/-! DEFINITION. The operations that meanings share: taking an exception and the way back, draining the store buffer, stash
windows, release and acquire, and the frame of one issue. -/

namespace Sys2Proof.Machine

/-! ## Order -/

/-- An element put before the first that is not below it. -/
def insertBy {α : Type} (le : α → α → Bool) (x : α) : List α → List α
  | [] => [x]
  | y :: r => if le x y then x :: y :: r else y :: insertBy le x r

/-- A list in ascending order; equal elements keep their order. -/
def sortBy {α : Type} (le : α → α → Bool) (l : List α) : List α := l.foldr (insertBy le) []

/-! ## Records -/

def State.setGroup (s : State) (gid : Nat) (g : Group) : State := { s with groups := s.groups.set gid g }
def State.setTeam (s : State) (t : Nat) (tm : Team) : State := { s with teams := s.teams.set t tm }
def State.setCtx (s : State) (c : Nat) (x : Ctx) : State := { s with ctxs := s.ctxs.set c x }
def State.setGrid (s : State) (n : Nat) (x : Grid) : State := { s with grids := s.grids.set n x }
def State.setBook (s : State) (n : Nat) (x : Playbill) : State := { s with books := s.books.set n x }

/-- The instruction waits: nothing of it has happened, and it is issued again later (log 1). -/
def State.hold (s : State) : Result := .next { s with stalled := true }

/-- The function whose context a group belongs to (R23, R62). -/
def State.fnOf (s : State) (g : Group) : Nat :=
  match s.ctxs.get? g.ctx with
  | some c => c.fn
  | none => 0

def State.pasidOf (s : State) (g : Group) : Nat :=
  match s.ctxs.get? g.ctx with
  | some c => c.pasid
  | none => 0

/-! ## Sync objects -/

/-- The object that covers an address of a space (R335); layer: the layer space. -/
def Ctx.objectOf (c : Ctx) (layer : Bool) (a : Nat) : Nat :=
  match c.binds.find? (fun b => b.layer == layer && decide (b.base ≤ a) && decide (a < b.limit)) with
  | some b => b.obj
  | none => c.defObj

def State.objectOf (s : State) (ctx : Nat) (layer : Bool) (a : Nat) : Nat :=
  match s.ctxs.get? ctx with
  | some c => c.objectOf layer a
  | none => 0

/-- The bytes at an address belong to the released or acquired objects; none stands for all objects. -/
def State.covers (s : State) (ctx : Nat) (obj : Option Nat) (layer : Bool) (a : Nat) : Bool :=
  match obj with
  | none => true
  | some o => s.objectOf ctx layer a == o

/-! ## The upper rungs -/

/-- A stop at its rung holds the party (R460). -/
def Stop.holds (st : Stop) (fn ctx team : Nat) : Bool :=
  if st.rung = 1 then st.team == team
  else if st.rung = 2 then st.ctx == ctx
  else if st.rung = 3 then st.fn == fn
  else true

/-- Some stop holds the group (R460, R473). -/
def State.stoppedAt (s : State) (g : Group) : Bool := s.stops.any (fun e => e.2.holds (s.fnOf g) g.ctx g.team)

/-- The group stands on its core with its team and its context, so that what it has issued goes on, a stop that has still to save it or not (R458 step
2, R475, R485). -/
def State.going (s : State) (g : Group) : Bool :=
  g.placed &&
    (match s.teams.get? g.team with
     | some t => t.state == .running
     | none => false) &&
    (match s.ctxs.get? g.ctx with
     | some c => c.state == .running
     | none => false)

/-- The group stands on its core, and no rung, team or context holds it (R460, R458, R475). -/
def State.awake (s : State) (g : Group) : Bool := s.going g && !(s.stoppedAt g)

/-- A cause at rung 1 to 4 (R460, R463): a stop is raised, unless one of that rung already holds the party. -/
def State.raiseUpper (s : State) (rung cause code fn ctx team : Nat) (pc addr : W64) : State :=
  if s.stops.any (fun e => e.2.rung == rung && e.2.holds fn ctx team) then s
  else
    { s with
      stops := s.stops.set s.nextId ⟨rung, cause, code, fn, ctx, team, pc, addr, false, false, []⟩
      work := s.work ++ [.upperRungStop s.nextId]
      nextId := s.nextId + 1 }

/-! ## Draining the store buffer -/

/-- Two entries are of one line: by its address, or in global space by its translated address (R192); after a restore, an address that is
not yet translated again may be any (R78). -/
def SbEntry.sameLine (a b : SbEntry) : Bool :=
  a.space == b.space && (a.line == b.line || (a.space == .glob && (match a.phys, b.phys with
    | some x, some y => x == y
    | _, _ => true)))

/-- Two entries write a common byte, so that they are performed in program order (R192, R347). -/
def SbEntry.clashes (a b : SbEntry) : Bool := a.sameLine b && !(a.mask &&& b.mask == 0)

/-- An entry comes before another in program order (R347). -/
def SbEntry.before (a b : SbEntry) : Bool := decide (a.seq < b.seq) || (a.seq == b.seq && decide (a.id < b.id))

/-- Where an access of a team member lands: the window and the offset within it (R108). -/
def Team.windowAt (t : Team) (sp : Space) (a : Nat) : Option (Nat × Nat) :=
  match t.wins.find? (fun e =>
    match sp with
    | .team => decide (e.2.tbase ≤ a) && decide (a < e.2.tbase + e.2.len)
    | .glob => decide (e.2.gbase ≤ a) && decide (a < e.2.gbase + e.2.len)
    | .layer => false) with
  | some e => some (e.1, match sp with
    | .team => a - e.2.tbase
    | .glob => a - e.2.gbase
    | .layer => 0)
  | none => none

/-- An earlier store or atomic of the group is to write one of n global bytes, as far as is known: by its address, or by another address of the same
place, hpa being the translated address of the bytes (R76, R192). -/
def State.writeAhead (s : State) (gid : Nat) (g : Group) (order : Option Nat) (a n : Nat) (hpa : Option Nat) : Bool :=
  (g.writesBefore order).any (fun e => e.ranges.any (fun r => r.1 == .glob &&
    ((decide (r.2.1 < a + n) && decide (a < r.2.1 + r.2.2)) ||
      (offsetsMeet r.2.1 r.2.2 a n &&
        (match s.teams.get? g.team with
         | some t => (t.windowAt .glob r.2.1).isNone && (t.windowAt .glob a).isNone
         | none => true) &&
        (match s.hpaOf (.entry gid e.id) g.die g.core (s.fnOf g) (s.pasidOf g) r.2.1 (if e.counter == .sts then .write else .both), hpa with
         | some x, some y => decide (x < y + n) && decide (y < x + r.2.2)
         | _, _ => true)))))

/-- The group reads or writes bytes at a place that hold b, by an instruction at a place in program order: its earlier reads that have not read them
keep them, with the group's own earlier stores over them (R192, R333). -/
def State.keepBytes (s : State) (gid : Nat) (order : Option Nat) (l : Loc) (a : Nat) (hpa : Option Nat) (b : List Byte) : State :=
  match s.groups.get? gid, order with
  | some g, some n =>
    if g.entries.any (fun e => e.mayRead n a b.length) then
      s.setGroup gid { g with entries := g.entries.map (fun e =>
        if e.mayRead n a b.length then e.keep l (g.forwardAll (some e.seq) .glob a hpa b) else e) }
    else s
  | _, _ => s

/-- A store-buffer entry leaves; STS falls when it was the last of its instruction (R196). -/
def State.dropSb (s : State) (gid : Nat) (e : SbEntry) : State :=
  match s.groups.get? gid with
  | none => s
  | some g =>
    let rest := g.sbuf.filter (fun x => !(x.id == e.id))
    let g1 : Group := { g with sbuf := rest }
    let g2 := if rest.any (fun x => x.op == e.op) then g1 else g1.countDown .sts
    let recs := s.syncRecs.map (fun r => if r.gid = gid then { r with ids := r.ids.filter (fun i => !(i == e.id)) } else r)
    ({ s with syncRecs := recs } : State).setGroup gid g2

/-- What stops a store-buffer entry, if anything: it waits, or it is refused with a cause at a rung (R78, R87, R56, R483). -/
inductive DrainStep where
  | place (s : State) (l : Loc)
  | waits (s : State)
  | refuse (s : State) (rung cause : Nat)

/-- The place that a store-buffer entry is performed at (R32, R78, R86). -/
def State.drainPlace (s : State) (gid : Nat) (g : Group) (e : SbEntry) : DrainStep :=
  let fn := s.fnOf g
  if e.bad then .refuse (s.countUncorr g.die) 2 0x0B
  else
    match e.space with
    | .team => .place s (.team g.team e.line)
    | .layer =>
      match s.layerCheck fn g.die e.line 256 with
      | some c => .refuse s 0 c
      | none => .place s (.layer g.die e.line)
    | .glob =>
      let o : Owner := .store gid e.id
      let found : State × Option Nat :=
        match e.phys with
        | some a => (s, some a)
        | none =>
          let s1 := s.needPages o g.die g.core fn (s.pasidOf g) .write [pageOf e.line]
          (s1, s1.hpaOf o g.die g.core fn (s.pasidOf g) e.line .write)
      match found with
      | (s1, none) =>
        match s1.standing o with
        | .refused c _ => .refuse (s1.dropWaits o) 2 c
        | _ => .waits s1
      | (s1, some a) =>
        match s1.route a with
        | none => .refuse (s1.dropWaits o) 0 0x04
        | some (.flash _) => .refuse (s1.dropWaits o) 0 0x07
        | some l => .place (s1.dropWaits o) l

/-- A cause of an instruction that has left the replay queue: its state for the prompt book (R466). -/
def Pend.issued (cause : Nat) (pc addr : W64) : Pend := ⟨cause, 0, pc, false, 0, 0, 0, [], addr⟩

/-- An earlier entry, store or atomic of the group is to write a byte of a store-buffer entry first (R192, R347). -/
def State.storeHeld (s : State) (gid : Nat) (g : Group) (e : SbEntry) : Bool :=
  g.sbuf.any (fun x => x.before e && x.clashes e) ||
    (e.space == .glob && (runsOf e.data).any (fun r => s.writeAhead gid g (some e.seq) (e.line + r.1) r.2.length (e.phys.map (· + r.1))))

/-- A store-buffer entry's bytes written at its place, once the group's earlier reads have kept what it replaces (R192). -/
def State.writeEntry (s : State) (gid : Nat) (e : SbEntry) (l : Loc) : State :=
  let s1 := if e.space = .glob then (runsOf e.data).foldl (fun s r =>
      s.keepBytes gid (some e.seq) (l.add r.1) (e.line + r.1) (e.phys.map (· + r.1)) (s.bytesAt (l.add r.1) r.2.length)) s else s
  s1.writeRuns l (runsOf e.data)

/-- One store-buffer entry performed at its point of coherence (R347, R78). The result says whether it has left the buffer;
a refusal raises its cause and discards it. raised: the refusal at the group rung that is still to be taken. -/
structure Drained where
  state : State
  gone : Bool
  raised : Option Pend

def State.drainOne (s : State) (gid : Nat) (e : SbEntry) : Drained :=
  match s.groups.get? gid with
  | none => ⟨s, true, none⟩
  | some g =>
    if s.storeHeld gid g e then ⟨s, false, none⟩
    else
      match s.drainPlace gid g e with
      | .waits s1 => ⟨s1, false, none⟩
      | .refuse s1 rung c =>
        if rung = 0 then ⟨s1.dropSb gid e, true, some (Pend.issued c e.pc (BitVec.ofNat 64 e.line))⟩
        else ⟨(s1.dropSb gid e).raiseUpper rung c 0 (s.fnOf g) g.ctx g.team e.pc (BitVec.ofNat 64 e.line), true, none⟩
      | .place s1 l =>
        match s1.access g.die l with
        | .wait => ⟨s1, false, none⟩
        | .broken => ⟨s1.dropSb gid e, true, some (Pend.issued 0x0B e.pc (BitVec.ofNat 64 e.line))⟩
        | .served => ⟨(s1.writeEntry gid e l).dropSb gid e, true, none⟩

/-- Entries performed oldest first. ok: every one has left the buffer. -/
def State.drainList (s : State) (gid : Nat) : List SbEntry → Drained
  | [] => ⟨s, true, none⟩
  | e :: r =>
    let d := s.drainOne gid e
    let t := State.drainList d.state gid r
    ⟨t.state, d.gone && t.gone, if d.raised.isSome then d.raised else t.raised⟩

/-! ## Taking an exception at the group rung -/

/-- A lane record of R469. -/
def laneRec (cause : Nat) (addr : Nat) : W64 := BitVec.ofNat 64 (2 ^ 63 + cause * 2 ^ 57 + addr % 2 ^ 57)

/-- Entries of a replay queue that a prompt book holds, oldest first (R465 step 1, R468). -/
def Group.bookEntries (g : Group) : List Entry :=
  (g.entries.filter (fun e => !e.book && (e.state == .waiting || e.state == .faulted || e.state == .engine))).take 16

/-- Instructions that must first complete or stop (R465 step 1); async engines keep running. -/
def Group.settling (g : Group) : Bool :=
  g.entries.any (fun e => !e.book && e.state == .inFlight && !(e.counter == .cps || e.counter == .tls))

def EntryState.code : EntryState → Nat
  | .inFlight => 0
  | .waiting => 1
  | .faulted => 2
  | .engine => 3

def Counter.code : Counter → Nat
  | .lds => 0
  | .sts => 1
  | .cps => 2
  | .tls => 3
  | .none => 0

/-- REMAIN of an entry (R468). Its arrangement is the device's own: log 12. -/
def remainWords : Option Remain → List Nat
  | none => []
  | some r => [r.dst, r.src, r.rowBytes, r.rows + (if r.back then 2 ^ 32 else 0), wrapInt r.dstPitch 64, wrapInt r.srcPitch 64, r.row, r.done]

/-- Numbers of w bytes laid out one after another. -/
def rowBytesOf (w : Nat) (l : List Nat) : List Byte := l.flatMap (fun x => toBytes x w)

/-- Per-lane numbers laid out at their lanes. -/
def putLanes (m : Memory) (base w : Nat) (l : List (Nat × Nat)) : Memory :=
  l.foldl (fun m e => m.write (base + w * e.1) (toBytes e.2 w)) m

/-- STATE of an entry of a book (R468): a stopped instruction with work remaining in an engine resumes from REMAIN (R203, R278, R295). -/
def Entry.stateCode (e : Entry) : Nat := if e.state = .faulted ∧ e.remain.isSome then EntryState.engine.code else e.state.code

/-- A replay entry as the book holds it (R468, R469). -/
def Entry.image (e : Entry) : Memory :=
  let m : Memory := []
  let m := m.write 0x000 (rowBytesOf 4 [e.w1.toNat, e.w2.toNat])
  let m := m.write 0x008 (rowBytesOf 8 [e.pc.toNat, (e.mask &&& ~~~e.done).toNat])
  let m := m.write 0x018 (rowBytesOf 1 [e.stateCode, if e.stateCode = 2 then e.cause else 0, 0, 0, e.counter.code])
  let m := m.write 0x020 (rowBytesOf 8 (remainWords e.remain))
  let m := m.write 0x060 (rowBytesOf 8 (e.uops.map (fun x => x.toNat)))
  let m := putLanes m 0x100 8 (e.lrec.map (fun x => (x.1, x.2.toNat)))
  let m := putLanes m 0x300 1 e.dreg
  let m := putLanes m 0x400 16 (e.opa.map (fun x => (x.1, x.2.toNat)))
  let m := putLanes m 0x800 16 (e.opb.map (fun x => (x.1, x.2.toNat)))
  putLanes m 0xC00 16 (e.opc.map (fun x => (x.1, x.2.toNat)))

/-- The header of a prompt book (R467). -/
def Group.header (g : Group) (p : Pend) (k : Nat) : Memory :=
  let entries := g.table ++ g.table1
  let flags := (if g.width = 64 then 1 else 0) + (if g.gang then 2 else 0) + (if p.issue then 4 else 0)
  let m : Memory := []
  let m := m.write 0x000 (rowBytesOf 1 [p.cause, entries.length, p.code, flags])
  let m := m.write 0x004 (toBytes k 4)
  let m := m.write 0x008 (rowBytesOf 8 [p.pc.toNat, (g.readS (g.ubud - 1)).toNat, g.live.toNat, if p.issue then p.run.toNat else 0])
  let m := if p.issue then m.write 0x028 (rowBytesOf 4 [p.w1.toNat, p.w2.toNat]) else m
  let m := m.write 0x030 (rowBytesOf 8 ((List.range 7).map (fun n => (g.predMask (n + 1) &&& allLanes g.width).toNat)))
  let m := m.write 0x068 [g.b.setWidth 8]
  let m := m.write 0x070 (toBytes (g.help &&& g.live).toNat 8)
  let m := m.write 0x100 (rowBytesOf 8 (entries.flatMap (fun e => [e.1.toNat, e.2.toNat])))
  if p.issue then putLanes m 0x500 8 (p.irec.map (fun x => (x.1, x.2.toNat))) else m

/-- The pages of a prompt book that hold anything, by page number within the book; every other page is 0 (R467). -/
def Group.bookPages (g : Group) (p : Pend) (k : Nat) : List Memory := g.header p k :: g.bookEntries.map Entry.image

/-- The address of prompt book k (R461). -/
def TrapTable.bookAddr (t : TrapTable) (k : Nat) : Nat := t.pbva + 0x20000 * k

/-- The number of 4 KiB pages of a prompt book (R467). -/
def bookPageCount : Nat := 17

/-- A page's worth of bytes replaced at a place. -/
def State.replaceAt (s : State) (l : Loc) (n : Nat) (d : Memory) : State :=
  match l with
  | .host a => { s with host := s.host.replace a n d }
  | .dram a =>
    let s1 := s.obtain a n
    { s1 with dram := s1.dram.replace a n d, dramBad := clearBad s1.dramBad 32 a n }
  | .flash _ => s
  | .layer die a => { s with layer := s.layer.replace (layerKey die a) n d, layerBad := clearBad s.layerBad 8 (layerKey die a) n }
  | .team t a =>
    { s with teams := s.teams.modify t (fun tm => { tm with mem := tm.mem.replace a n d, bad := clearBad tm.bad 4 a n }) }

/-- Why a translated page of a book cannot be written at all, if so: it lies in the weight store, at no place, or in a failed device
(R56, R544, R461). -/
def State.bookCause (s : State) (gid : Nat) (g : Group) (addr : Nat) : Option Nat :=
  (List.range bookPageCount).findSome? (fun i =>
    match s.hpaOf (.book gid) g.die g.core (s.fnOf g) (s.pasidOf g) (addr + 4096 * i) .write with
    | none => none
    | some a =>
      match s.route a with
      | none => some 0x04
      | some (.flash _) => some 0x07
      | some l => if s.access g.die l = .broken then some 0x0B else none)

/-- The places of the book's pages, when every page may be written now (R461). -/
def State.bookPlaces (s : State) (gid : Nat) (g : Group) (addr : Nat) : List Nat → Option (List Loc)
  | [] => some []
  | i :: r =>
    match s.hpaOf (.book gid) g.die g.core (s.fnOf g) (s.pasidOf g) (addr + 4096 * i) .write, State.bookPlaces s gid g addr r with
    | some a, some t =>
      match s.route a with
      | some l => if s.access g.die l = .served then some (l :: t) else none
      | none => none
    | _, _ => none

/-- The book's pages written in turn. -/
def State.writePages (s : State) : List Loc → List Memory → State
  | [], _ => s
  | l :: r, [] => State.writePages (s.replaceAt l 4096 []) r []
  | l :: r, d :: t => State.writePages (s.replaceAt l 4096 d) r t

/-- The lowest-numbered free book (R465 step 2). -/
def freeBook (used : List Nat) (n : Nat) : Option Nat := (List.range (min n (used.length + 1))).find? (fun k => !(used.contains k))

/-- The registers on entry to the handler (R465 steps 4 and 5): SAVEDS is in the book; s[U-1] holds the book address, HND is
set, and the table becomes one entry at GVEC with every lane it held. Where the lanes are all parked the table stays empty: the handler is entered
and issues nothing (log 32). -/
def Group.atHandler (g : Group) (k : Nat) (addr gvec : W64) : Group :=
  let one (t : List (W64 × BitVec 64)) : List (W64 × BitVec 64) :=
    let m := t.foldl (fun m e => m ||| e.2) 0
    if m = 0 then [] else [(gvec, m)]
  let ids := g.bookEntries.map (fun e => e.id)
  { (g.writeS (g.ubud - 1) addr) with
    hnd := true, book := k, hcount := 0, pend := none
    table := one g.table, table1 := one g.table1
    entries := g.entries.map (fun e => if ids.contains e.id then { e with book := true } else e) }

/-- Entering the handler at the group rung (R465), when a book is free and can be written now; otherwise the requests for
its pages are on their way and the group goes on waiting, off the stage where no book is free. A refused write to a book stops the context (R461), and
the group is saved with its cause and without an entry (R463). -/
def State.enterHandler (s : State) (gid : Nat) (g : Group) (p : Pend) (c : Ctx) : State × Bool :=
  if g.settling then (s, false)
  else
    match freeBook c.books c.traps.pbn with
    | none => (s.setGroup gid { g with stage := none }, false)
    | some k =>
      let addr := c.traps.bookAddr k
      let pages := (List.range bookPageCount).map (fun i => addr / 4096 + i)
      let s1 := s.needPages (.book gid) g.die g.core c.fn c.pasid .write pages
      match s1.standing (.book gid) with
      | .refused cause _ => (s1.raiseUpper 2 cause 0 c.fn g.ctx g.team p.pc (BitVec.ofNat 64 addr), false)
      | _ =>
        match s1.bookCause gid g addr, s1.bookPlaces gid g addr (List.range bookPageCount) with
        | some cause, _ => (s1.raiseUpper 2 cause 0 c.fn g.ctx g.team p.pc (BitVec.ofNat 64 addr), false)
        | none, none => (s1, false)
        | none, some places =>
          let own := g.sbuf.filter (fun e => e.space == .glob && decide (addr ≤ e.line) && decide (e.line < addr + 0x11000))
          let d := s1.drainList gid own
          if !d.gone || d.raised.isSome then (d.state, false)
          else
            match d.state.groups.get? gid with
            | none => (d.state, false)
            | some g1 =>
              let s2 := (d.state.writePages places (g1.bookPages p k)).dropWaits (.book gid)
              let s3 := s2.setGroup gid (g1.atHandler k (BitVec.ofNat 64 addr) (BitVec.ofNat 64 c.traps.gvec))
              (s3.setCtx g.ctx { c with books := k :: c.books }, true)

/-- The address of the first lane recorded (R469, R473); 0 if there is none. -/
def addrOf (recs : Map W64) : W64 :=
  match recs with
  | [] => 0
  | e :: _ => e.2 &&& 0x01FFFFFFFFFFFFFF#64

/-- The address that an event record names for a cause (R473). -/
def Pend.where (p : Pend) : W64 := if p.irec = [] then p.addr else addrOf p.irec

/-- The group is entering its handler: a book is free for it, and none of its pages is refused (R465, R485). -/
def State.entering (s : State) (gid : Nat) (g : Group) : Bool :=
  match g.pend, s.ctxs.get? g.ctx with
  | some _, some c =>
    g.placed && !g.hnd && !(c.traps.gvec == 0) &&
      (match freeBook c.books c.traps.pbn with
       | some k => (match s.standing (.book gid) with
         | .refused _ _ => false
         | _ => (s.bookCause gid g (c.traps.bookAddr k)).isNone)
       | none => false)
  | _, _ => false

/-- The group's pending cause is taken: at the handler, or at the team rung while HND = 1 or GVEC = 0 (R463, R465). The
result says whether it was taken. -/
def State.takeTrap (s : State) (gid : Nat) : State × Bool :=
  match s.groups.get? gid with
  | none => (s, true)
  | some g =>
    match g.pend, s.ctxs.get? g.ctx with
    | some p, some c =>
      if g.hnd || c.traps.gvec == 0 then
        ((s.setGroup gid { g with pend := none }).raiseUpper 1 p.cause p.code c.fn g.ctx g.team p.pc p.where, true)
      else s.enterHandler gid g p c
    | _, _ => (s, true)

/-- TAKING AN EXCEPTION at the group rung (R463, R465): the cause becomes pending, so that the group issues nothing further,
and the handler is entered at once where it can be; a wait of the group ends, since its instruction is issued again, but for an exit, whose
instruction has been executed (R378). A group that is being saved keeps its cause until it next runs (R463). -/
def State.raise (s : State) (gid : Nat) (p : Pend) : State :=
  match s.groups.get? gid with
  | none => s
  | some g =>
    let s1 := s.setGroup gid { g with pend := some p, wait := if g.wait = .exit then .exit else .none }
    if !g.placed then s1.push (.trapEntry gid)
    else
      match s1.takeTrap gid with
      | (s2, true) => s2
      | (s2, false) => s2.push (.trapEntry gid)

/-- A cause of an instruction that has issued, taken unless another is pending already (R463, R466). -/
def State.raiseIssued (s : State) (gid : Nat) (p : Pend) : State :=
  match s.groups.get? gid with
  | none => s
  | some g => if g.pend.isSome then s else s.raise gid p

/-- A drain's result with its cause taken. -/
def Drained.settle (d : Drained) (gid : Nat) : State × Bool :=
  match d.raised with
  | none => (d.state, d.gone)
  | some p => (d.state.raiseIssued gid p, d.gone)

/-! ## Stash windows -/

/-- A window's bytes lie at this global address (R108). -/
def Window.globalOf (w : Window) (off : Nat) : Nat := w.gbase + off

/-- Dirty bytes of a window that a predicate on global addresses selects. -/
def Window.dirtyWhere (w : Window) (f : Nat → Bool) : List Nat := w.dirty.filter (fun o => f (w.globalOf o))

/-- Where a dirty byte goes when it is written back (R32, R109). -/
inductive BackTo where
  | place (l : Loc)
  | wait
  | refused (cause : Nat)
  deriving DecidableEq, Repr

/-- The place of one dirty byte (R56, R70, R109, R544). -/
def State.backPlace (s : State) (t : Nat) (tm : Team) (win : Nat) (w : Window) (fn pasid o : Nat) : BackTo :=
  match s.refusedPage (.stash t win) (pageOf (w.globalOf o)), s.hpaOf (.stash t win) tm.die (tm.cores.headD 0) fn pasid (w.globalOf o) .write with
  | some c, _ => .refused c
  | none, none => .wait
  | none, some a =>
    match s.route a with
    | none => .refused 0x04
    | some (.flash _) => .refused 0x07
    | some l =>
      match s.access tm.die l with
      | .wait => .wait
      | .broken => .refused 0x0B
      | .served => .place l

/-- Dirty bytes at consecutive places, as runs: each written as one. -/
def backRuns (w : Window) (l : List (Nat × BackTo)) : List (Loc × List Byte) :=
  mergeRuns (l.filterMap (fun e => match e.2 with
    | .place p => some (p, [w.data.get e.1])
    | .wait => none
    | .refused _ => none))

/-- Selected dirty bytes of one window written back and made clean, all in one step; drop: the selected sectors become invalid (R109).
A refusal is raised at the context rung and the bytes that it meets are discarded; every other byte is written back. -/
def State.flushWindow (s : State) (t win : Nat) (f : Nat → Bool) (drop : Bool) : State × Bool :=
  match s.teams.get? t with
  | none => (s, true)
  | some tm =>
    match tm.wins.get? win with
    | none => (s, true)
    | some w =>
      let offs := sortBy (fun a b => decide (a ≤ b)) (w.dirtyWhere f)
      let (fn, pasid) : Nat × Nat := match s.ctxs.get? tm.ctx with
        | some c => (c.fn, c.pasid)
        | none => (0, 0)
      let pages := (offs.map (fun o => pageOf (w.globalOf o))).eraseDups
      let s1 := s.needPages (.stash t win) tm.die (tm.cores.headD 0) fn pasid .write pages
      let clean (s : State) : State :=
        { s with teams := s.teams.modify t (fun tm => { tm with wins := tm.wins.modify win (fun w =>
            { w with
              dirty := w.dirty.filter (fun o => !(f (w.globalOf o)))
              valid := if drop then w.valid.filter (fun k => !(f (w.globalOf (64 * k)))) else w.valid }) }) }
      let refuse (s : State) (c : Nat) : State := s.raiseUpper 2 c 0 fn tm.ctx t 0 (BitVec.ofNat 64 w.gbase)
      let places := offs.map (fun o => (o, s1.backPlace t tm win w fn pasid o))
      if places.any (fun p => p.2 == .wait) then (s1, false)
      else
        let s2 := (backRuns w places).foldl (fun s r => s.writeAt r.1 r.2) (s1.dropWaits (.stash t win))
        (clean (match places.find? (fun p => match p.2 with
          | .refused _ => true
          | _ => false) with
          | some (_, .refused c) => refuse s2 c
          | _ => s2), true)

def State.flushWindows (s : State) (t : Nat) (f : Nat → Bool) (drop : Bool) : List Nat → State × Bool
  | [] => (s, true)
  | k :: r =>
    let (s1, ok) := s.flushWindow t k f drop
    let (s2, ok2) := State.flushWindows s1 t f drop r
    (s2, ok && ok2)

/-- The dirty bytes of a team's windows that an object covers written back (R109). -/
def State.flushTeam (s : State) (t ctx : Nat) (obj : Option Nat) (drop : Bool) : State × Bool :=
  s.flushWindows t (fun a => s.covers ctx obj false a) drop (List.range 8)

/-! ## Release and acquire -/

/-- Earlier reads without their data, and instructions that wait in the replay queue (R342, R76); async and matrix work
does not hold a release back (R200, R350). -/
def Group.unsettled (g : Group) : Bool := g.liveEntries.any (fun e => !(e.counter == .cps || e.counter == .tls))

/-- The records of the sync directory of a group's die (R344). -/
def State.dirCount (s : State) (die : Nat) : Nat :=
  (s.syncRecs.filter (fun r =>
    match s.groups.get? r.gid with
    | some g => g.die == die
    | none => false)).length

/-- The writes of a recorded release are not yet all performed (R344). -/
def State.recOpen (s : State) (r : SyncRec) : Bool :=
  !(r.ids == []) ||
    (match s.groups.get? r.gid with
     | some g =>
       (match s.teams.get? g.team with
        | some t => t.wins.any (fun w => !(w.2.dirty == []))
        | none => false)
     | none => false)

/-- Sync directory records whose writes are all performed are dropped (R344), and acknowledgements of records that are gone. -/
def State.purgeRecs (s : State) : State :=
  { s with
    syncRecs := s.syncRecs.filter s.recOpen
    acks := s.acks.filter (fun a => s.syncRecs.any (fun r => r.num == a.num && s.recOpen r)) }

/-- A release at group or team scope recorded in the sync directory (R344). -/
def State.recordRelease (s : State) (gid : Nat) (obj : Option Nat) (ids : List Nat) : State :=
  { s with syncRecs := s.syncRecs ++ [⟨gid, obj, ids, false, s.nextId⟩], nextId := s.nextId + 1 }

/-- What a release on an object (none: all objects) at a scope performs (R342, R344). Every entry of the store buffer is covered or precedes the
release in program order, and all of them are performed, since a write that happens before another for any object comes earlier in coherence order
(R333), and an entry may be performed at any time (R347). False: it must wait, and what it could do is done. -/
def State.releaseNow (s : State) (gid : Nat) (obj : Option Nat) (scope : Nat) : State × Bool :=
  match s.groups.get? gid with
  | none => (s, true)
  | some g =>
    let s := s.purgeRecs
    let full := decide (4096 ≤ s.dirCount g.die)
    let scope := if full then max scope 2 else scope
    if scope = 0 then (s.recordRelease gid obj (g.sbuf.map (fun e => e.id)), true)
    else
      let (s1, ok) := (s.drainList gid g.sbuf).settle gid
      if !ok then (s1, false)
      else if scope = 1 then (s1.recordRelease gid obj [], true)
      else s1.flushTeam g.team g.ctx obj false

/-- A release waits for the group's earlier reads and replay entries (R342, R76). -/
def State.release (s : State) (gid : Nat) (obj : Option Nat) (scope : Nat) : State × Bool :=
  match s.groups.get? gid with
  | none => (s, true)
  | some g => if g.unsettled then (s, false) else s.releaseNow gid obj scope

/-- A release on several objects in turn. -/
def State.releaseAll (s : State) (gid scope : Nat) : List (Option Nat) → State × Bool
  | [] => (s, true)
  | o :: r =>
    let (s1, ok) := s.releaseNow gid o scope
    let (s2, ok2) := State.releaseAll s1 gid scope r
    (s2, ok && ok2)

/-- A record whose release an acquire on these objects must see published (R343, R344). -/
def SyncRec.concerns (r : SyncRec) (obj : Option Nat) : Bool :=
  match obj, r.obj with
  | none, _ => true
  | some _, none => true
  | some a, some b => a == b

/-- A forced publish performed on the die of the recorded release (R343): what a release at quad scope would have performed of it for the object. An
uncorrectable record is lost, and its owner's context stops with cause 0x0B (R483). -/
def State.publishHere (s : State) (obj : Option Nat) (r : SyncRec) (g : Group) : State × Bool :=
  if r.bad then
    (((({ s with syncRecs := s.syncRecs.filter (fun x => !(x == r)) } : State).countUncorr g.die).raiseUpper 2 0x0B 0 (s.fnOf g) g.ctx g.team 0 0),
      true)
  else
    let (s1, ok) := (s.drainList r.gid (g.sbuf.filter (fun e => r.ids.contains e.id))).settle r.gid
    let (s2, ok2) := s1.flushTeam g.team g.ctx obj false
    (s2, ok && ok2)

/-- A forced publish is asked for from another die (R344, R515), once: its request, the publish and the acknowledgement are on their way. -/
def State.askPublish (s : State) (die owner num : Nat) (obj : Option Nat) : State :=
  if s.onWay (.forcePublish die num obj) || s.onWay (.publishing die num obj) || s.onWay (.published die num obj) then s
  else s.sendMsg ⟨die, owner, .cue, .forcePublish die num obj⟩

/-- A forced publish (R343) for an acquire on a die: performed there if the release was made on it, else asked for from its die by a message, and done
once its acknowledgement has come back (R344, R515). -/
def State.publish (s : State) (die : Nat) (obj : Option Nat) (r : SyncRec) : State × Bool :=
  match s.groups.get? r.gid with
  | none => ({ s with syncRecs := s.syncRecs.filter (fun x => !(x == r)) }, true)
  | some g =>
    if g.die = die then s.publishHere obj r g
    else if s.acks.contains ⟨die, r.num, obj⟩ then (s, true)
    else (s.askPublish die g.die r.num obj, false)

def State.publishAll (s : State) (die : Nat) (obj : Option Nat) : List SyncRec → State × Bool
  | [] => (s, true)
  | r :: t =>
    let (s1, ok) := s.publish die obj r
    let (s2, ok2) := State.publishAll s1 die obj t
    (s2, ok && ok2)

/-- What an acquire on an object (none: all) does (R343, R348, R109). The caches drop nothing in this model (R103, log 6). -/
def State.acquireNow (s : State) (gid : Nat) (obj : Option Nat) : State × Bool :=
  match s.groups.get? gid with
  | none => (s, true)
  | some g =>
    let (s1, ok) := s.publishAll g.die obj (s.syncRecs.filter (fun r => !(r.gid == gid) && r.concerns obj))
    if !ok then (s1, false) else s1.flushTeam g.team g.ctx obj true

/-- An acquire on several objects in turn. -/
def State.acquireAll (s : State) (gid : Nat) : List (Option Nat) → State × Bool
  | [] => (s, true)
  | o :: r =>
    let (s1, ok) := s.acquireNow gid o
    let (s2, ok2) := State.acquireAll s1 gid r
    (s2, ok && ok2)

/-- An acquire waits for the group's earlier reads (R338, R76). -/
def State.acquire (s : State) (gid : Nat) (obj : Option Nat) : State × Bool :=
  match s.groups.get? gid with
  | none => (s, true)
  | some g => if g.unsettled then (s, false) else s.acquireNow gid obj

/-! ## The frame of one issue -/

/-- One issue of an instruction: the group, the issuing run and its program counter, and the instruction's length (R372). -/
structure Issue where
  i : Instr
  gid : Nat
  g : Group
  pc : W64
  run : BitVec 64
  len : Nat
  deriving DecidableEq, Repr

/-- The key that stands for predicate b0 as the destination of an outstanding sqtab or sqfact (R326). -/
def b0Key : Nat := 520

/-- The instruction reads or writes predicate b0 (R326, R367, R368, R386, R265, R327, R328). -/
def usesB0 (i : Instr) : Bool :=
  match i with
  | .scmpS64 bd _ _ use _ bc _ _ => bd == 0 || (use && bc == 0)
  | .scmpN64 bd _ _ use _ bc _ _ => bd == 0 || (use && bc == 0)
  | .ssel _ _ _ bc _ _ => bc == 0
  | .sqstart _ _ b _ _ => b == 0
  | .sqstage _ b _ _ => b == 0
  | .sqtab _ _ _ _ _ => true
  | .sqfact _ _ _ _ _ => true
  | .mclaim _ _ _ => true
  | .ilock _ _ _ => true
  | .uniformXf op _ _ _ _ _ _ => op == .ilock
  | _ => false

/-- The focus group issues an instruction; one that uses b0 waits for an outstanding write of it (R326, R76). -/
def withIssue (i : Instr) (len : Nat) (s : State) (k : Issue → Result) : Result :=
  match s.groups.get? s.focus with
  | none => .fault .noIssuingGroup
  | some g =>
    match g.run with
    | none => .fault .noIssuingGroup
    | some (pc, run) => if usesB0 i && g.blocked [b0Key] then s.hold else k ⟨i, s.focus, g, pc, run, len⟩

/-- The group after the instruction: the run's lanes at the next instruction (R372). -/
def Issue.advance (c : Issue) (g : Group) : Group := g.place c.run [(c.pc + BitVec.ofNat 64 c.len, c.run)]

/-- The instruction completes: the group's new state, its lanes moved on. -/
def Issue.done (c : Issue) (s : State) (g : Group) : Result := .next (s.setGroup c.gid (c.advance g))

/-- The instruction's words (R467 WORDS). -/
def Issue.words (c : Issue) : W32 × W32 :=
  match encode c.i with
  | some (a, some b) => (a, b)
  | some (a, none) => (a, 0)
  | none => (0, 0)

/-- A cause found at issue (R466): the lanes stay at the instruction and nothing of it takes effect. -/
def Issue.pend (c : Issue) (cause : Nat) (irec : Map W64) : Pend := ⟨cause, 0, c.pc, true, c.run, c.words.1, c.words.2, irec, 0⟩

def Issue.trap (c : Issue) (s : State) (cause : Nat) (irec : Map W64) : Result := .next (s.raise c.gid (c.pend cause irec))

/-- The instruction waits in a wait of its own, which an event of its own ends (R451). -/
def Issue.waitIn (c : Issue) (s : State) (w : Wait) (a : Act) : Result :=
  .next ((s.setGroup c.gid { c.g with wait := w, waitPc := c.pc + BitVec.ofNat 64 c.len, waitRun := c.run }).push a)

/-- The group as it stands after the shared operations of an instruction, if it is still at the instruction: a cause that
they raised leaves the instruction to be issued again (R466). -/
def Issue.still (c : Issue) (s : State) : Option Group :=
  match s.groups.get? c.gid with
  | none => none
  | some g => if g.pend.isNone && g.hnd == c.g.hnd && g.run == some (c.pc, c.run) then some g else none

/-- The instruction completes on the group as it stands. -/
def Issue.finish (c : Issue) (s : State) (f : Group → Group) : Result :=
  match c.still s with
  | none => .next s
  | some g => c.done s (f g)

/-- A piece of pending work for a group that stands on its core; otherwise it stays pending. -/
def wake (gid : Nat) (a : Act) (s : State) (k : Group → Result) : Result :=
  match s.groups.get? gid with
  | none => .next s
  | some g => if s.going g then k g else .next (s.push a)

/-- A message that has arrived with a body of its own is taken and acted on; it waits behind earlier ones of its source, destination and channel (R515). -/
def arrive (a : Act) (s : State) (k : State → Result) : Result :=
  match takeArrived (fun m => m.body == a) s.arrived with
  | some (_, rest) => k { s with arrived := rest }
  | none => .next (if s.arrived.any (fun m => m.body == a) then s.push a else s)

/-- The instruction acts as if the guard or its condition made it a no-op (R364). -/
def Issue.skip (c : Issue) (s : State) : Result := c.done s c.g

/-- The wait of a group ends: its lanes move on. -/
def Group.resume (g : Group) : Group := { (g.place g.waitRun [(g.waitPc, g.waitRun)]) with wait := .none }

end Sys2Proof.Machine
end

