-- ==== Sys2Proof/Machine/Operands.lean ====
section
/-! DEFINITION. Operand forms: registers, channels, indexed registers, broadcasts, immediates (R112 to R125, R164 to R168),
and the frame that the lane arithmetic instructions share (R217, R218). -/

namespace Sys2Proof.Machine

/-- A short-form field as a source or a destination of the extended form (R164, R171). -/
def asSrc : Operand → LSrc
  | .reg n => .reg n
  | .chan p n => .chan p n

def asDst : Operand → LDst
  | .reg n => .reg n
  | .chan p n => .chan p n

/-- A VReg as a source or a destination. -/
def vSrc : VReg → LSrc
  | .reg n => .reg n
  | .idx x o => .idx x o

def vDst : VReg → LDst
  | .reg n => .reg n
  | .idx x o => .idx x o

/-- IMM16 widened to the type of operand B (R167). -/
def immValue (ty : ImmTy) (v : BitVec 16) : Nat :=
  match ty with
  | .s32 => (v.signExtend 32).toNat
  | .n32 => v.toNat
  | .s64 => (v.signExtend 64).toNat
  | .n64 => v.toNat
  | .f32 => v.toNat * 2 ^ 16
  | .f64 => v.toNat * 2 ^ 48
  | .h16 => v.toNat * (2 ^ 16 + 1)
  | .s8 => (v.toNat % 256) * 0x01010101

/-- The register number of an indexed operand in a lane (R117). -/
def Group.indexOf (g : Group) (lane x off : Nat) : Nat := (g.readX lane x).toNat % 256 + off

/-- LIMIT of an index register; values above 256 act as 256 (R116). -/
def Group.limitOf (g : Group) (lane x : Nat) : Nat := min (bits (g.readX lane x).toNat 24 16) 256

/-- The lane is in bound for a w-register operand (R117). -/
def Group.inBound (g : Group) (lane x off w : Nat) : Bool :=
  let n := g.indexOf lane x off
  decide (n < g.limitOf lane x) && decide (n < g.lbud) && n % w == 0

/-- A source of an extended form with the registers it takes (0: no such operand). -/
structure Src where
  src : LSrc
  w : Nat
  deriving DecidableEq, Repr

/-- Out-of-bound lanes of an indexed source or destination, with their register numbers. -/
def Group.outOfBound (g : Group) (act : BitVec 64) (x off w : Nat) : List (Nat × Nat) :=
  ((lanesOf act).filter (fun l => !(g.inBound l x off w))).map (fun l => (l, g.indexOf l x off))

def Group.srcBad (g : Group) (act : BitVec 64) (o : Src) : List (Nat × Nat) :=
  match o.src with
  | .idx x off => if o.w = 0 then [] else g.outOfBound act x.toNat off.toNat o.w
  | .reg _ => []
  | .chan _ _ => []
  | .uni _ => []
  | .imm _ => []

def Group.dstBad (g : Group) (act : BitVec 64) (d : LDst) (w : Nat) : List (Nat × Nat) :=
  match d with
  | .idx x off => if w = 0 then [] else g.outOfBound act x.toNat off.toNat w
  | .reg _ => []
  | .chan _ _ => []

/-- Lane records for cause 0x05 (R117, R469). -/
def boundRecs (l : List (Nat × Nat)) : Map W64 := l.map (fun e => (e.1, laneRec 0x05 e.2))

/-- A directly named source lies within the budgets (R115). -/
def Group.srcBudget (g : Group) (o : Src) : Bool :=
  match o.src with
  | .reg n => o.w == 0 || decide (n.toNat + o.w ≤ g.lbud)
  | .uni n => decide (n.toNat < g.ubud)
  | .chan _ _ => true
  | .idx _ _ => true
  | .imm _ => true

def Group.dstBudget (g : Group) (d : LDst) (w : Nat) : Bool :=
  match d with
  | .reg n => w == 0 || decide (n.toNat + w ≤ g.lbud)
  | .chan _ _ => true
  | .idx _ _ => true

/-- The register keys of a register run (Entry.dsts). -/
def vKeys (n w : Nat) : List Nat := (List.range w).map (fun k => n + k)
def sKey (n : Nat) : Nat := 256 + n
def wKey (n : Nat) : Nat := 384 + n

/-- The keys of the low word of an s register, and of one word of a w register (R131). -/
def sLow (n : Nat) : Nat := 640 + n
def wWord (n j : Nat) : Nat := 768 + 6 * n + j

/-- The key that stands for the lanes' draws: an instruction that will still draw holds it (R133). -/
def drawKey : Nat := 512

/-- The keys of index and counter registers, which no outstanding instruction writes. -/
def xKey (n : Nat) : Nat := 528 + n
def cKey (n : Nat) : Nat := 536 + n

/-- The registers that a source reads in the active lanes. -/
def Group.srcKeys (g : Group) (act : BitVec 64) (o : Src) : List Nat :=
  match o.src with
  | .reg n => vKeys n.toNat o.w
  | .uni n => [if o.w ≤ 1 then sLow n.toNat else sKey n.toNat]
  | .idx x off =>
    if o.w = 0 then [] else xKey x.toNat :: ((lanesOf act).flatMap (fun l => vKeys (g.indexOf l x.toNat off.toNat) o.w)).eraseDups
  | .chan _ _ => []
  | .imm _ => []

/-- The index register that a destination reads. -/
def dstIndex (d : LDst) (w : Nat) : List Nat :=
  match d with
  | .idx x _ => if w = 0 then [] else [xKey x.toNat]
  | .reg _ => []
  | .chan _ _ => []

def Group.dstKeys (g : Group) (act : BitVec 64) (d : LDst) (w : Nat) : List Nat :=
  match d with
  | .reg n => vKeys n.toNat w
  | .idx x off => if w = 0 then [] else ((lanesOf act).flatMap (fun l => vKeys (g.indexOf l x.toNat off.toNat) w)).eraseDups
  | .chan _ _ => []

/-- A word of the register that a key names is uncorrectable in an active lane (R131); the draws read KEY, STREAM and COUNTER (R133). -/
def Group.badWord (g : Group) (act : BitVec 64) (k : Nat) : Bool :=
  if k < 256 then (lanesOf act).any (fun l => g.badV.contains (l * 256 + k))
  else if k < 384 then g.badS.any (fun x => x / 2 == k - 256)
  else if k < 392 then (lanesOf act).any (fun l => g.badW.any (fun x => x / 6 == l * 8 + (k - 384)))
  else if k = 512 then g.badGen.any (fun x => decide (256 ≤ x) || act.getLsbD (x / 4))
  else if k < 528 then false
  else if k < 532 then (lanesOf act).any (fun l => g.badX.contains (l * 4 + (k - 528)))
  else if k < 640 then decide (536 ≤ k) && g.badC.contains (k - 536)
  else if k < 768 then g.badS.contains (2 * (k - 640))
  else (lanesOf act).any (fun l => g.badW.contains (6 * (l * 8 + (k - 768) / 6) + (k - 768) % 6))

/-- An uncorrectable register word among those read in the active lanes (R131). -/
def Group.badWords (g : Group) (act : BitVec 64) (keys : List Nat) : Bool := keys.any (g.badWord act)

/-- An uncorrectable word of one of these s registers (R131). -/
def Group.badUni (g : Group) (regs : List Nat) : Bool := g.badS.any (fun k => regs.contains (k / 2))

/-- An instruction that reads an uncorrectable word of its registers or of its team's matrix memories has no effect (R131, R253), and the
event is counted at its die (R483, R484). -/
def Issue.badTrap (c : Issue) (s : State) : Result := c.trap (s.countUncorr c.g.die) 0x0B []

/-! ## Channels -/

def Chan.off : Chan := ⟨.disabled, 0, 0, [], [], 0⟩

/-- Channel n of a team (R121). -/
def Team.chan (t : Team) (n : Nat) : Chan := t.chans.getD n Chan.off

/-- COUNT of a channel (R121). -/
def Chan.count (c : Chan) : Nat :=
  match c.kind with
  | .lane => c.lanes.length
  | .uniform => c.words.length
  | .disabled => 0

/-- The channel of a source, with its pop bit (R164). -/
def srcChan : LSrc → Option (Bool × Nat)
  | .chan p n => some (p, n.toNat)
  | .reg _ => none
  | .idx _ _ => none
  | .uni _ => none
  | .imm _ => none

/-- A channel named as a source is of the kind, and a channel named as a destination too, with bit 6 clear (R123). -/
def Team.srcKind (t : Team) (k : ChanKind) (o : LSrc) : Bool :=
  match srcChan o with
  | some (_, n) => (t.chan n).kind == k
  | none => true

def Team.dstKind (t : Team) (k : ChanKind) (d : LDst) : Bool :=
  match d with
  | .chan n6 n => !n6 && (t.chan n.toNat).kind == k
  | .reg _ => true
  | .idx _ _ => true

/-- Heads taken or read in field order (R124): the channels after the pops and the value of each source; none if an entry
is missing. -/
def takeLanes (ch : Map Chan) : List (Option (Bool × Nat)) → Option (Map Chan × List (Map Val))
  | [] => some (ch, [])
  | none :: r =>
    match takeLanes ch r with
    | some (c, l) => some (c, [] :: l)
    | none => none
  | some (pop, n) :: r =>
    let c := ch.getD n Chan.off
    match c.lanes with
    | [] => none
    | e :: rest =>
      match takeLanes (if pop then ch.set n { c with lanes := rest, head := (c.head + 1) % c.depth } else ch) r with
      | some (c', l) => some (c', e :: l)
      | none => none

def takeWords (ch : Map Chan) : List (Option (Bool × Nat)) → Option (Map Chan × List W64)
  | [] => some (ch, [])
  | none :: r =>
    match takeWords ch r with
    | some (c, l) => some (c, 0 :: l)
    | none => none
  | some (pop, n) :: r =>
    let c := ch.getD n Chan.off
    match c.words with
    | [] => none
    | e :: rest =>
      match takeWords (if pop then ch.set n { c with words := rest, head := (c.head + 1) % c.depth } else ch) r with
      | some (c', l) => some (c', e :: l)
      | none => none

/-- The bytes of one entry (R122). -/
def Chan.entryBytes (c : Chan) : Nat :=
  match c.kind with
  | .lane => 256
  | .uniform => 8
  | .disabled => 0

/-- The team-memory address of the k-th entry from the head (R122, log 96). -/
def Chan.entryAt (c : Chan) (k : Nat) : Nat := 128 * c.base + c.entryBytes * ((c.head + k) % c.depth)

/-- A word that an instruction takes from channel storage is poisoned (R483): of a lane entry, the words of the active lanes. -/
def Team.takesBad (t : Team) (act : BitVec 64) (ch : Map Chan) : List (Option (Bool × Nat)) → Bool
  | [] => false
  | none :: r => Team.takesBad t act ch r
  | some (pop, n) :: r =>
    let c := ch.getD n Chan.off
    let a := c.entryAt 0
    (match c.kind with
     | .lane => (lanesOf act).any (fun l => badIn t.bad 4 (a + 4 * l) 4)
     | .uniform => badIn t.bad 4 a 8
     | .disabled => false) ||
      Team.takesBad t act (if pop then ch.set n { c with head := (c.head + 1) % c.depth } else ch) r

/-- The poison left when an entry is pushed, whose words are written whole (R483). -/
def Team.badAfterPush (t : Team) (ch : Map Chan) (n : Nat) : List Nat :=
  let c := ch.getD n Chan.off
  clearBad t.bad 4 (c.entryAt c.count) c.entryBytes

/-- The destination channel has room once the pops are counted (R124). -/
def roomFor (ch : Map Chan) (d : LDst) : Bool :=
  match d with
  | .chan _ n => decide ((ch.getD n.toNat Chan.off).count < (ch.getD n.toNat Chan.off).depth)
  | .reg _ => true
  | .idx _ _ => true

def dstIsChan : LDst → Bool
  | .chan _ _ => true
  | .reg _ => false
  | .idx _ _ => false

/-- An entry pushed (R124, R125). -/
def pushLanes (ch : Map Chan) (n : Nat) (e : Map Val) : Map Chan := ch.modify n (fun c => { c with lanes := c.lanes ++ [e] })
def pushWord (ch : Map Chan) (n : Nat) (e : W64) : Map Chan := ch.modify n (fun c => { c with words := c.words ++ [e] })

/-- The ordering of an instruction that uses channels (R337): a push releases at team scope, then a pop or peek acquires,
on all objects. -/
def State.chanOrder (s : State) (gid : Nat) (takes pushes : Bool) : State × Bool :=
  let (s1, ok) := if pushes then s.release gid none 1 else (s, true)
  if !ok then (s1, false) else if takes then s1.acquire gid none else (s1, true)

/-! ## Lane operands -/

/-- The value of a source in a lane (R112, R117, R124, R166, R167). -/
def Group.srcValue (g : Group) (tick lane : Nat) (o : Src) (ty : ImmTy) (ch : Map Val) : Nat :=
  match o.src with
  | .reg n => g.readWide lane n.toNat o.w
  | .idx x off => g.readWide lane (g.indexOf lane x.toNat off.toNat) o.w
  | .uni n => (g.readS n.toNat).toNat % 2 ^ (32 * o.w)
  | .imm v => immValue ty v
  | .chan _ _ =>
    let low := (ch.getD lane 0).toNat % 2 ^ 32
    if o.w = 2 then low + 2 ^ 32 * (Config.freeChan tick lane).toNat else low

/-- A result written to a lane's destination register (R112, R117). -/
def Group.putLane (g : Group) (lane : Nat) (d : LDst) (w x : Nat) : Group :=
  match d with
  | .reg n => g.writeWide lane n.toNat w x
  | .idx k off => g.writeWide lane (g.indexOf lane k.toNat off.toNat) w x
  | .chan _ _ => g

/-- The entry that a lane-channel push writes: the active lanes' results, and 0 in every other lane (R124). -/
def laneEntry (tick w : Nat) (res : List (Nat × Nat)) : Map Val :=
  res.map (fun e => (e.1, if w = 2 then (Config.freeChan tick e.1).setWidth 128 else BitVec.ofNat 128 (e.2 % 2 ^ 32)))

/-- A lane instruction's result in one lane: the value and the flags it raises. -/
structure LaneOut where
  val : Nat
  flags : Flags
  deriving DecidableEq, Repr

/-- The operand values of one lane and the draws it takes. -/
structure LaneIn where
  lane : Nat
  a : Nat
  b : Nat
  c : Nat
  draws : List W32
  deriving DecidableEq, Repr

/-- The operands of a lane instruction: destination, sources, guard, type of B, draws in each active lane, and the keys of further registers
that it reads. -/
structure LaneForm where
  d : LDst
  dw : Nat
  a : Src
  b : Src
  c : Src
  ty : ImmTy
  guard : Guard
  draws : Nat
  extra : List Nat
  deriving DecidableEq, Repr

/-- What the issue checks of a lane instruction find, in order (R172 checks 3 and 4, R117). -/
def Issue.laneChecks (c : Issue) (t : Team) (f : LaneForm) (act : BitVec 64) : Option (Nat × Map W64) :=
  let g := c.g
  let srcs := [f.a, f.b, f.c]
  let bad := g.dstBad act f.d f.dw ++ srcs.flatMap (g.srcBad act)
  if !(srcs.all g.srcBudget && g.dstBudget f.d f.dw) then some (0x05, [])
  else if !(srcs.all (fun o => t.srcKind .lane o.src) && t.dstKind .lane f.d) then some (0x04, [])
  else if !(bad == []) then some (0x05, boundRecs bad)
  else none

/-- The words that a lane instruction reads (R131). -/
def Issue.laneReads (c : Issue) (f : LaneForm) (act : BitVec 64) : List Nat :=
  [f.a, f.b, f.c].flatMap (c.g.srcKeys act) ++ dstIndex f.d f.dw ++ (if f.draws = 0 then [] else [drawKey]) ++ f.extra

/-- The registers that a lane instruction reads or writes. -/
def Issue.laneKeys (c : Issue) (f : LaneForm) (act : BitVec 64) : List Nat :=
  [f.a, f.b, f.c].flatMap (c.g.srcKeys act) ++ c.g.dstKeys act f.d f.dw

/-- The inputs of every active lane, all read before anything is written (R217). -/
def Group.inputs (g : Group) (tick : Nat) (f : LaneForm) (act : BitVec 64) (ch : List (Map Val)) : List LaneIn :=
  (lanesOf act).map (fun l =>
    ⟨l, g.srcValue tick l f.a .s32 (ch.getD 0 []), g.srcValue tick l f.b f.ty (ch.getD 1 []),
      g.srcValue tick l f.c .s32 (ch.getD 2 []), (g.drawN l f.draws).1⟩)

/-- COUNTER advanced in every lane that drew (R133). -/
def Group.afterDraws (g : Group) (n : Nat) : List Nat → Group
  | [] => g
  | l :: r => Group.afterDraws (g.drawN l n).2 n r

/-- Results written to the destination registers, lane by lane. -/
def Group.putLanes (g : Group) (d : LDst) (w : Nat) : List (Nat × Nat) → Group
  | [] => g
  | e :: r => Group.putLanes (g.putLane e.1 d w e.2) d w r

/-- Flags raised by any lane become sticky (R150, R151). -/
def Group.raiseFlags (g : Group) (l : List Flags) : Group := { g with flags := l.foldl (fun a b => a ||| b) g.flags }

/-- THE FRAME OF A LANE INSTRUCTION with sources A, B, C (R217): the checks (chk is the data check of the instruction's own
statement), the waits, the sources read, then one action on the group that writes the results; a destination channel
takes one entry. -/
def laneFrame (i : Instr) (len : Nat) (f : LaneForm) (s : State) (chk : List LaneIn → Option (Nat × Map W64))
    (act : Issue → BitVec 64 → List LaneIn → Group → Group × List (Nat × Nat)) : Result :=
  withIssue i len s fun c =>
    let g := c.g
    let on := c.run &&& g.guardMask f.guard
    match s.teams.get? g.team with
    | none => .fault .noIssuingGroup
    | some t =>
      match c.laneChecks t f on with
      | some (cause, recs) => c.trap s cause recs
      | none =>
        if g.blocked (c.laneKeys f on ++ (if f.draws = 0 then [] else [drawKey])) then s.hold
        else if g.badWords on (c.laneReads f on) then c.badTrap s
        else
          let uses := [srcChan f.a.src, srcChan f.b.src, srcChan f.c.src]
          let takes := uses.any Option.isSome
          if !takes && !dstIsChan f.d then
            match chk (g.inputs s.tick f on []) with
            | some (cause, recs) => c.trap s cause recs
            | none =>
              let (g1, _) := act c on (g.inputs s.tick f on []) g
              c.done s (g1.afterDraws f.draws (lanesOf on))
          else
            match takeLanes t.chans uses with
            | none => c.waitIn s .channel (.channelResume c.gid)
            | some (ch, vals) =>
              if !roomFor ch f.d then c.waitIn s .channel (.channelResume c.gid)
              else if t.takesBad on t.chans uses then c.badTrap s
              else if (chk (g.inputs s.tick f on vals)).isSome then
                match chk (g.inputs s.tick f on vals) with
                | some (cause, recs) => c.trap s cause recs
                | none => s.hold
              else
                match s.chanOrder c.gid takes (dstIsChan f.d) with
                | (s1, false) => .next { s1 with stalled := true }
                | (s1, true) =>
                  match c.still s1, s1.teams.get? g.team with
                  | some g0, some t0 =>
                    let (g1, res) := act c on (g.inputs s.tick f on vals) g0
                    let t1 : Team := match f.d with
                      | .chan _ n => { t0 with chans := pushLanes ch n.toNat (laneEntry s.tick f.dw res), bad := t0.badAfterPush ch n.toNat }
                      | .reg _ => { t0 with chans := ch }
                      | .idx _ _ => { t0 with chans := ch }
                    c.done (s1.setTeam g.team t1) (g1.afterDraws f.draws (lanesOf on))
                  | _, _ => .next s1

/-- Results of every lane written to D and their flags raised: the action of an instruction that computes each lane for
itself. -/
def writeAct (f : LaneForm) (fn : LaneIn → LaneOut) (_ : Issue) (_ : BitVec 64) (ins : List LaneIn) (g : Group) :
    Group × List (Nat × Nat) :=
  let outs := ins.map (fun x => (x.lane, fn x))
  let vals := outs.map (fun o => (o.1, o.2.val))
  ((g.putLanes f.d f.dw vals).raiseFlags (outs.map (fun o => o.2.flags)), vals)

/-- A lane instruction that computes each lane for itself (R217). -/
def laneOp (i : Instr) (len : Nat) (f : LaneForm) (fn : LaneIn → LaneOut) (s : State) : Result :=
  laneFrame i len f s (fun _ => none) (writeAct f fn)

/-- No operand in a field. -/
def noSrc : Src := ⟨.reg 0, 0⟩

/-! ## Uniform operands -/

/-- A uniform source: register, channel or immediate (R164, R365, R367). -/
def asUSrc : Operand → USrc
  | .reg n => .reg n
  | .chan p n => .chan p n

def uChan : USrc → Option (Bool × Nat)
  | .chan p n => some (p, n.toNat)
  | .reg _ => none
  | .imm _ => none

def Group.uBudget (g : Group) : USrc → Bool
  | .reg n => decide (n.toNat < g.ubud)
  | .chan _ _ => true
  | .imm _ => true

def uKeys : USrc → List Nat
  | .reg n => [sKey n.toNat]
  | .chan _ _ => []
  | .imm _ => []

/-- The value of a uniform source (R365). -/
def Group.uValue (g : Group) (o : USrc) (ch : W64) : W64 :=
  match o with
  | .reg n => g.readS n.toNat
  | .chan _ _ => ch
  | .imm v => v.signExtend 64

/-- THE FRAME OF A UNIFORM INSTRUCTION with sources A and B and a destination D (R364): checks, waits, sources, then an
action; under a false guard a no-op whose channel operations still take place, the destination channel taking 0. -/
def uniFrame (i : Instr) (len : Nat) (d : Option Operand) (a b : Option USrc) (gd : Guard) (s : State)
    (act : W64 → W64 → Group → Group × W64) : Result :=
  withIssue i len s fun c =>
    let g := c.g
    let srcs := a.toList ++ b.toList
    let dsts := (d.map asUSrc).toList
    match s.teams.get? g.team with
    | none => .fault .noIssuingGroup
    | some t =>
      let dchan := d.bind (fun o => match o with
        | .chan p n => some (p, n)
        | .reg _ => none)
      let kindOk := srcs.all (fun o => match uChan o with
        | some (_, n) => (t.chan n).kind == ChanKind.uniform
        | none => true) && (match dchan with
        | some (n6, n) => !n6 && (t.chan n.toNat).kind == ChanKind.uniform
        | none => true)
      if !((srcs ++ dsts).all g.uBudget) then c.trap s 0x05 []
      else if !kindOk then c.trap s 0x04 []
      else if g.blocked ((srcs ++ dsts).flatMap uKeys) then s.hold
      else if g.badWords c.run (srcs.flatMap uKeys) then c.badTrap s
      else
        let on := g.guardTrue gd
        let uses := [a.bind uChan, b.bind uChan]
        let takes := uses.any Option.isSome
        let value (o : Option USrc) (ch : W64) : W64 := match o with
          | some x => g.uValue x ch
          | none => 0
        let write (g : Group) (x : W64) : Group := match d with
          | some (.reg n) => g.writeS n.toNat x
          | some (.chan _ _) => g
          | none => g
        if !takes && dchan.isNone then
          if on then
            let (g1, x) := act (value a 0) (value b 0) g
            c.done s (write g1 x)
          else c.skip s
        else
          match takeWords t.chans uses with
          | none => c.waitIn s .channel (.channelResume c.gid)
          | some (ch, vals) =>
            let room := match dchan with
              | some (_, n) => decide ((ch.getD n.toNat Chan.off).count < (ch.getD n.toNat Chan.off).depth)
              | none => true
            if !room then c.waitIn s .channel (.channelResume c.gid)
            else if t.takesBad 0 t.chans uses then c.badTrap s
            else
              match s.chanOrder c.gid takes dchan.isSome with
              | (s1, false) => .next { s1 with stalled := true }
              | (s1, true) =>
                match c.still s1, s1.teams.get? g.team with
                | some g0, some t0 =>
                  let (g1, x) := if on then act (value a (vals.getD 0 0)) (value b (vals.getD 1 0)) g0 else (g0, 0)
                  let t1 : Team := match dchan with
                    | some (_, n) => { t0 with chans := pushWord ch n.toNat x, bad := t0.badAfterPush ch n.toNat }
                    | none => { t0 with chans := ch }
                  c.done (s1.setTeam g.team t1) (if on then write g1 x else g1)
                | _, _ => .next s1

end Sys2Proof.Machine
end

