-- ==== Sys2Proof/Machine/Access.lean ====
section
/-! DEFINITION. Memory accesses: their addresses, the checks of R189, the places they reach, and reading and writing there
(R75 to R78, R104 to R109, R122, R189 to R192). -/

namespace Sys2Proof.Machine

/-! ## Where an access lands -/

/-- One access of a lane: n bytes at an address of a space. -/
structure Req where
  lane : Nat
  sp : Space
  a : Nat
  n : Nat
  deriving DecidableEq, Repr

/-- The n bytes at a team address touch channel storage (R122). -/
def Team.inChannel (t : Team) (a n : Nat) : Bool :=
  t.chans.any (fun e =>
    let c := e.2
    let size := c.depth * (match c.kind with
      | .lane => 256
      | .uniform => 8
      | .disabled => 0)
    decide (a < 128 * c.base + size) && decide (128 * c.base < a + n))

/-- Check 4 of R189: none, or the cause. -/
def State.rangeCheck (s : State) (g : Group) (t : Team) (q : Req) : Option Nat :=
  match q.sp with
  | .glob => if canonical q.a && canonical ((q.a + (q.n - 1)) % 2 ^ 64) then none else some 0x04
  | .layer => s.layerCheck (s.fnOf g) g.die q.a q.n
  | .team => if t.size < q.a + q.n then some 0x04 else none

/-- Check 5 of R189: team bytes in channel storage, a store to a read-only window, an atomic or XACC access in a window. -/
def Team.placeCheck (t : Team) (q : Req) (write whole : Bool) : Bool :=
  (q.sp == .team && t.inChannel q.a q.n) ||
    (match t.windowAt q.sp q.a with
     | none => false
     | some (k, _) =>
       whole || (write && (match t.wins.get? k with
         | some w => !w.rw
         | none => false)))

/-- A request's bytes as hazards compare them (R76): an access to a window is one to its global range (R108). -/
def Team.rangeOf (t : Team) (q : Req) : Space × Nat × Nat :=
  match t.windowAt q.sp q.a with
  | none => (q.sp, q.a, q.n)
  | some (k, off) =>
    match t.wins.get? k with
    | some w => (.glob, w.gbase + off, q.n)
    | none => (q.sp, q.a, q.n)

/-- The bytes of a window's sector that an access needs, when the sector is invalid (R108): the window and the sector. -/
def Team.fillOf (t : Team) (q : Req) : Option (Nat × Nat) :=
  match t.windowAt q.sp q.a with
  | none => none
  | some (k, off) =>
    match t.wins.get? k with
    | some w => if w.valid.contains (off / 64) then none else some (k, off / 64)
    | none => none

/-- The pages that a request needs, with the permission (R69, R108). -/
def Team.pagesOf (t : Team) (need : Need) (q : Req) : List (Nat × Need) :=
  match t.windowAt q.sp q.a with
  | some (k, off) =>
    match t.wins.get? k with
    | some w => if w.valid.contains (off / 64) then [] else [(pageOf (w.gbase + off), .read)]
    | none => []
  | none =>
    match q.sp with
    | .glob => if pageOf q.a = pageOf (q.a + (q.n - 1)) then [(pageOf q.a, need)] else [(pageOf q.a, need), (pageOf (q.a + (q.n - 1)), need)]
    | .layer => []
    | .team => []

/-- The pages that some requests need are asked for (R68, R69). -/
def State.ask (s : State) (o : Owner) (g : Group) (need : Need) (qs : List Req) : State :=
  match s.teams.get? g.team with
  | none => s
  | some t =>
    ((qs.flatMap (t.pagesOf need)).foldl (fun s p => s.needPage o g.die g.core (s.fnOf g) (s.pasidOf g) p.2 p.1) s).pump

/-- Records of failing lanes, by the first failing access of each (R190, R469). -/
def recsOf (l : List (Req × Nat)) : Map W64 := l.foldl (fun m e => if (m.get? e.1.lane).isSome then m else m.set e.1.lane (laneRec e.2 e.1.a)) []

/-- The requests whose page was refused, with the cause of the first (R70, R190). -/
def State.refusedRecs (s : State) (o : Owner) (t : Team) (qs : List Req) : Map W64 :=
  qs.foldl (fun m q =>
    match (t.pagesOf .read q).findSome? (fun p => s.refusedPage o p.1) with
    | some c => if (m.get? q.lane).isSome then m else m.set q.lane (laneRec c q.a)
    | none => m) []

/-- Where an access goes, or why it cannot go there now. -/
inductive Place where
  | at (l : Loc)
  | wait
  | fails (cause : Nat)
  deriving DecidableEq, Repr

/-- The place of one translated address for a party (R17, R32, R45, R55, R544). -/
def State.locAt (s : State) (from_ hpa : Nat) : Place :=
  match s.route hpa with
  | none => .fails 0x04
  | some l =>
    match s.access from_ l with
    | .wait => .wait
    | .broken => .fails 0x0B
    | .served => .at l

/-- The place of a byte that lies in no window (R32, R86, R87). -/
def State.placeAt (s : State) (g : Group) (o : Owner) (need : Need) (sp : Space) (a : Nat) : Place :=
  match sp with
  | .team => .at (.team g.team a)
  | .layer =>
    match s.layerCheck (s.fnOf g) g.die a 1 with
    | some c => .fails c
    | none => .at (.layer g.die a)
  | .glob =>
    match s.hpaOf o g.die g.core (s.fnOf g) (s.pasidOf g) a need with
    | none => .wait
    | some hpa => s.locAt g.die hpa

/-- The translated address of a global byte of an owner, where it has one now. -/
def State.ownHpa (s : State) (g : Group) (o : Owner) (need : Need) (sp : Space) (a : Nat) : Option Nat :=
  if sp = .glob then s.hpaOf o g.die g.core (s.fnOf g) (s.pasidOf g) a need else none

/-- A request for global bytes, its address in global space: one to a stash window is one to its global range (R108). -/
def Team.globalOf (t : Team) (q : Req) : Option Nat :=
  match t.rangeOf q with
  | (.glob, a, _) => some a
  | (.layer, _, _) => none
  | (.team, _, _) => none

/-- A request waits for an earlier store or atomic of the group (R76, R192). -/
def State.behindWrite (s : State) (gid : Nat) (g : Group) (t : Team) (o : Owner) (need : Need) (q : Req) : Bool :=
  match t.globalOf q with
  | none => false
  | some a => s.writeAhead gid g (g.orderOf o) a q.n (if (t.windowAt q.sp q.a).isSome then none else s.ownHpa g o need q.sp q.a)

/-! ## Reading -/

/-- What reading n bytes gives. -/
inductive Got where
  | bytes (l : List Byte)
  | wait
  | fails (cause : Nat)
  deriving DecidableEq, Repr

/-- Bytes at one place (R52, R57, R483, R548). -/
def State.readPlace (s : State) (l : Loc) (n : Nat) : Got := if s.poisoned l n then .fails 0x0B else .bytes (s.bytesAt l n)

/-- Two runs read one after another. -/
def Got.append : Got → Got → Got
  | .bytes a, .bytes b => .bytes (a ++ b)
  | .fails c, _ => .fails c
  | .wait, .fails c => .fails c
  | .wait, _ => .wait
  | .bytes _, .fails c => .fails c
  | .bytes _, .wait => .wait

/-- n bytes from a place of the group, not crossing a page. own: its own store-buffer bytes are seen. -/
def State.readRun (s : State) (g : Group) (o : Owner) (need : Need) (sp : Space) (a n : Nat) (own : Bool) : Got :=
  let hpa : Option Nat := if own then s.ownHpa g o need sp a else none
  let order := g.orderOf o
  match s.placeAt g o need sp a with
  | .wait => .wait
  | .fails c => .fails c
  | .at l =>
    if own && g.mayAlias order sp a then .wait
    else if own && g.holds order sp a hpa n then .bytes (g.forwardAll order sp a hpa (s.bytesAt l n))
    else
      match s.readPlace l n with
      | .bytes b => .bytes (if own then g.forwardAll order sp a hpa b else b)
      | r => r

/-- n bytes of a request: from a filled window, or from memory with the group's own stores over it. -/
def State.readReq (s : State) (g : Group) (t : Team) (o : Owner) (need : Need) (q : Req) : Got :=
  match t.windowAt q.sp q.a with
  | some (k, off) =>
    match t.wins.get? k with
    | some w => if w.valid.contains (off / 64) then .bytes (w.data.bytes off q.n) else .wait
    | none => .wait
  | none =>
    if q.sp = .glob ∧ pageOf q.a ≠ pageOf (q.a + (q.n - 1)) then
      let m := 4096 - q.a % 4096
      (s.readRun g o need q.sp q.a m true).append (s.readRun g o need q.sp (q.a + m) (q.n - m) true)
    else s.readRun g o need q.sp q.a q.n true

/-- An uncorrectable read counted at its part (R484). -/
def State.countRead (s : State) (g : Group) (o : Owner) (need : Need) (sp : Space) (a n : Nat) : State :=
  match s.placeAt g o need sp a with
  | .at l => s.countBad l n
  | .wait => s
  | .fails _ => s

/-- The lines that a read of n bytes obtains from the host (R32, R39). -/
def State.obtainRead (s : State) (g : Group) (o : Owner) (need : Need) (sp : Space) (a n : Nat) : State :=
  if s.hostBias = [] then s
  else
    match s.placeAt g o need sp a with
    | .at l => s.obtainAt l n
    | .wait => s
    | .fails _ => s

/-- A sector of a window filled (R108). -/
def State.fillSector (s : State) (g : Group) (o : Owner) (k sec : Nat) : State × Got :=
  match s.teams.get? g.team with
  | none => (s, .wait)
  | some t =>
    match t.wins.get? k with
    | none => (s, .bytes [])
    | some w =>
      if w.valid.contains sec then (s, .bytes [])
      else
        let a := w.gbase + 64 * sec
        match s.readRun g o .read .glob a 64 false with
        | .bytes b =>
          let rom : Bool := match s.placeAt g o .read .glob a with
            | .at (.flash _) => true
            | _ => false
          ((s.obtainRead g o .read .glob a 64).setTeam g.team { t with wins := t.wins.set k { w with
            valid := sec :: w.valid, data := w.data.write (64 * sec) b
            rom := if rom then sec :: w.rom.filter (fun x => !(x == sec)) else w.rom.filter (fun x => !(x == sec)) } }, .bytes [])
        | .fails c => (if c = 0x0B then s.countRead g o .read .glob a 64 else s, .fails c)
        | .wait => (s, .wait)

/-- The sectors that some requests need are filled; a failure names its window and sector. -/
def State.fillAll (s : State) (g : Group) (o : Owner) : List (Nat × Nat) → State × Got × (Nat × Nat)
  | [] => (s, .bytes [], (0, 0))
  | f :: r =>
    match s.fillSector g o f.1 f.2 with
    | (s1, .bytes _) => State.fillAll s1 g o r
    | (s1, e) => (s1, e, f)

/-- What all the requests of an instruction read, each lane's bytes in order; or it waits; or it fails (R190). -/
inductive Reads where
  | ok (s : State) (l : List (Req × List Byte))
  | wait (s : State)
  | fail (s : State) (cause : Nat) (context : Bool) (recs : Map W64)

/-- The bytes of requests that were all read. -/
def gather : List (Req × Got) → Option (List (Req × List Byte))
  | [] => some []
  | (q, .bytes b) :: r =>
    match gather r with
    | some l => some ((q, b) :: l)
    | none => none
  | (_, .wait) :: _ => none
  | (_, .fails _) :: _ => none

/-- Failing requests with their causes. -/
def failures (l : List (Req × Got)) : List (Req × Nat) :=
  l.filterMap (fun e => match e.2 with
    | .fails c => some (e.1, c)
    | .bytes _ => none
    | .wait => none)

/-- Uncorrectable reads counted at their parts (R484). -/
def State.countFails (s : State) (g : Group) (o : Owner) (need : Need) (l : List (Req × Nat)) : State :=
  l.foldl (fun s e => if e.2 = 0x0B then s.countRead g o need e.1.sp e.1.a e.1.n else s) s

/-- A request's bytes as memory or a filled window holds them, with their place and addresses, if they are global (R108, R192). -/
def State.globalBytes (s : State) (g : Group) (t : Team) (o : Owner) (need : Need) (q : Req) : Option (Loc × Nat × Option Nat × List Byte) :=
  match t.windowAt q.sp q.a with
  | some (k, off) =>
    (match t.wins.get? k with
     | some w => some (.team g.team (w.tbase + off), w.gbase + off, none, w.data.bytes off q.n)
     | none => none)
  | none =>
    match q.sp, s.placeAt g o need q.sp q.a with
    | .glob, .at l => some (l, q.a, s.ownHpa g o need q.sp q.a, s.bytesAt l q.n)
    | _, _ => none

/-- The bytes that a request finds: those that its instruction has kept, and of the others what it has read (R192). -/
def State.found (s : State) (g : Group) (t : Team) (o : Owner) (need : Need) (q : Req) (b : List Byte) : List Byte :=
  match o with
  | .entry _ id =>
    (match g.entries.find? (fun e => e.id == id) with
     | some e =>
       if e.seen = [] then b
       else
         match s.globalBytes g t o need q with
         | some (l, _, _, _) => e.asSeen l b
         | none => b
     | none => b)
  | _ => b

/-- The earlier reads of the group keep the bytes of a request that an instruction is about to read or write (R192, R333). -/
def State.keepReq (s : State) (gid : Nat) (g : Group) (t : Team) (o : Owner) (need : Need) (s0 : State) (q : Req) : State :=
  match s.globalBytes g t o need q with
  | some (l, a, hpa, b) => s0.keepBytes gid (g.readOrder o) l a hpa b
  | none => s0

/-- The group of an owner; 0 for one that is no entry's. -/
def Owner.gid (o : Owner) : Nat :=
  match o with
  | .entry gid _ => gid
  | .out gid _ => gid
  | .store gid _ => gid
  | .fetch gid => gid
  | .book gid => gid
  | _ => 0

/-- All the requests of an instruction read at one moment, after translation and after the group's earlier writes (R75, R76, R189 checks 6 and 7,
R192). -/
def State.readAll (s : State) (g : Group) (o : Owner) (need : Need) (qs : List Req) : Reads :=
  let s1 := s.ask o g need qs
  match s1.teams.get? g.team with
  | none => .wait s1
  | some t =>
    match s1.standing o with
    | .waiting => .wait s1
    | .refused c x => .fail (s1.dropWaits o) c x (s1.refusedRecs o t qs)
    | .ready =>
      if qs.any (s1.behindWrite o.gid g t o need) then .wait s1
      else
      match s1.fillAll g o (qs.filterMap t.fillOf) with
      | (s2, .wait, _) => .wait s2
      | (s2, .fails c, f) =>
        .fail (s2.dropWaits o) c false (recsOf ((qs.filter (fun q => t.fillOf q == some f)).map (fun q => (q, c))))
      | (s2, .bytes _, _) =>
        match s2.teams.get? g.team with
        | none => .wait s2
        | some t2 =>
          let got := qs.map (fun q => (q, s2.readReq g t2 o need q))
          match gather got with
          | some l =>
            .ok ((qs.foldl (fun s q => s2.keepReq o.gid g t2 o need (s.obtainRead g o need q.sp q.a q.n) q) s2).dropWaits o)
              (l.map (fun x => (x.1, s2.found g t2 o need x.1 x.2)))
          | none =>
            match failures got with
            | [] => .wait s2
            | f :: r =>
              .fail ((s2.countFails g o need (f :: r)).dropWaits o) f.2 false
                (recsOf (f :: r))

/-! ## Writing -/

/-- Bytes merged into a filled window (R108). -/
def State.windowWrite (s : State) (team k off : Nat) (b : List Byte) : State :=
  { s with teams := s.teams.modify team (fun t => { t with wins := t.wins.modify k (fun w =>
      { w with data := w.data.write off b, dirty := (List.range b.length).map (fun i => off + i) ++
          w.dirty.filter (fun d => !(decide (off ≤ d) && decide (d < off + b.length))) }) }) }

/-- The team address of an offset of a window, and the bytes there. -/
def State.windowTeam (s : State) (team k off : Nat) : Nat :=
  match (s.teams.get? team).bind (fun t => t.wins.get? k) with
  | some w => w.tbase + off
  | none => off

def State.windowBytes (s : State) (team k off n : Nat) : List Byte :=
  match (s.teams.get? team).bind (fun t => t.wins.get? k) with
  | some w => w.data.bytes off n
  | none => []

/-- A line of a store being built: line address, byte mask, bytes by offset. -/
structure Line where
  sp : Space
  line : Nat
  mask : Nat
  data : Map Byte
  deriving DecidableEq, Repr

/-- One byte added to its line; lines stand in the order of the lowest lane that touches each (R105). -/
def addByte (sp : Space) (a : Nat) (b : Byte) : List Line → List Line
  | [] => [⟨sp, a / 256 * 256, 2 ^ (a % 256), [(a % 256, b)]⟩]
  | l :: r =>
    if l.sp = sp ∧ l.line = a / 256 * 256 then { l with mask := l.mask ||| 2 ^ (a % 256), data := Map.set l.data (a % 256) b } :: r
    else l :: addByte sp a b r

def addBytes (sp : Space) (a : Nat) : List Byte → List Line → List Line
  | [], ls => ls
  | b :: r, ls => addBytes sp (a + 1) r (addByte sp a b ls)

/-- The lines that a store touches (R105): lanes ascending, a later lane's byte over an earlier one's. -/
def linesOf (w : List (Req × List Byte)) : List Line := w.foldl (fun ls e => addBytes e.1.sp e.1.a e.2 ls) []

/-- The group's own store-buffer entries that touch a range and come before an instruction. -/
def Group.ownStores (g : Group) (order : Option Nat) (sp : Space) (a n : Nat) (hpa : Option Nat) : List SbEntry :=
  g.sbuf.filter (fun e => precedes e.seq order && (List.range n).any (fun k => (e.byteOf sp (a + k) (hpa.map (· + k))).isSome))

/-- The group's own earlier stores to a range performed (R192). False: they must wait. -/
def State.clearOwn (s : State) (gid : Nat) (order : Option Nat) (sp : Space) (a n : Nat) (hpa : Option Nat) : State × Bool :=
  match s.groups.get? gid with
  | none => (s, true)
  | some g => if g.mayAlias order sp a then (s, false) else (s.drainList gid (g.ownStores order sp a n hpa)).settle gid

/-- A store's bytes taken (R75, R194, R347, R349): team bytes are performed at once, window bytes merge into their sectors,
and the rest enters the store buffer, one entry for each line. The pages are translated by now; phys holds the line's
address. The result says how many entries were made. -/
def State.storeBytes (s : State) (gid : Nat) (g : Group) (t : Team) (o : Owner) (op seq : Nat) (pc : W64) (ws : List (Req × List Byte)) :
    State × Nat :=
  let isWin (e : Req × List Byte) : Bool := (t.windowAt e.1.sp e.1.a).isSome
  let isTeam (e : Req × List Byte) : Bool := e.1.sp == .team && !(isWin e)
  let s1 := (ws.filter isTeam).foldl (fun s e => s.writeAt (.team g.team e.1.a) e.2) s
  let s2 := (ws.filter isWin).foldl (fun s e =>
    match t.windowAt e.1.sp e.1.a with
    | some (k, off) =>
      (match t.globalOf e.1 with
       | some a => s.keepBytes gid (some seq) (.team g.team (s.windowTeam g.team k off)) a none (s.windowBytes g.team k off e.1.n)
       | none => s).windowWrite g.team k off e.2
    | none => s) s1
  let lines := linesOf (ws.filter (fun e => !(isTeam e) && !(isWin e)))
  let physOf (l : Line) : Option Nat :=
    match l.sp with
    | .glob => s.hpaOf o g.die g.core (s.fnOf g) (s.pasidOf g) l.line .write
    | .layer => none
    | .team => none
  let entries := (lines.zipIdx).map (fun e =>
    (⟨s2.nextId + e.2, e.1.sp, e.1.line, physOf e.1, e.1.mask, e.1.data, op, pc, false, seq⟩ : SbEntry))
  let s3 : State := { s2 with nextId := s2.nextId + lines.length }
  let s4 : State := { s3 with groups := s3.groups.modify gid (fun g => { g with sbuf := g.sbuf ++ entries }) }
  (entries.foldl (fun s e => s.push (.storeBufferDrain gid e.id)) s4, lines.length)

end Sys2Proof.Machine
end

