-- ==== Sys2Proof/Machine/MemOps.lean ====
section
/-! DEFINITION. What each memory instruction accesses, the entry it makes at issue, and its performing (R75 to R77, R189 to
R216, R306, R466 to R471). -/

namespace Sys2Proof.Machine

/-- What a memory instruction does with its bytes. -/
inductive MemKind where
  | load (signed : Bool)
  | store
  | atom (op order scope : Nat)
  | cas (order scope : Nat)
  | xadd (order : Nat)
  | xrd (f64 : Bool) (mode : Nat)
  | resld (w : Nat)
  | resst (w : Nat)
  deriving DecidableEq, Repr

/-- A memory instruction's form: uni for the uniform loads and stores (one access, R195), dst and c as lane registers, dw
the registers of one destination, size the bytes, align what the address must be a multiple of. -/
structure MemOp where
  kind : MemKind
  uni : Bool
  space : Space
  au : Bool
  idx : Bool
  a : Nat
  b : Nat
  off : Int
  size : Nat
  align : Nat
  dst : VReg
  dw : Nat
  c : VReg
  cw : Nat
  bw : Nat
  guard : Guard
  deriving DecidableEq, Repr

/-- A class LM form. -/
def lmOp (k : MemKind) (f : LM) (size dw cw : Nat) : MemOp :=
  ⟨k, false, f.space, f.au, f.idx, f.a.toNat, f.b.toNat, f.off.toInt, size, size, f.d, dw, f.c, cw, if f.idx then 1 else 0, f.guard⟩

/-- An atomic form (R206): n is the width in bytes. -/
def laOp (k : MemKind) (f : LA) (c : BitVec 7) (cw : Nat) : MemOp :=
  let n := 4 * 2 ^ f.width.toNat
  ⟨k, false, f.space, f.au, false, f.a.toNat, f.b.toNat, f.off.toInt, n, n, .reg f.d, n / 4, .reg c, cw * (n / 4), n / 4, f.guard⟩

/-- A class UM form (R178, R195). -/
def umOp (store : Bool) (f : UM) (size : Nat) : MemOp :=
  ⟨if store then .store else .load false, true, f.space, true, false, f.a.toNat, 0, f.off.toInt, size, size, .reg 0, 0,
    .reg f.r, 0, 0, f.guard⟩

/-- The memory form of an instruction; none for the others. -/
def memOp (i : Instr) : Option MemOp :=
  match i with
  | .ldB8 f => some (lmOp (.load false) f 1 1 0)
  | .ldS8 f => some (lmOp (.load true) f 1 1 0)
  | .ldB16 f => some (lmOp (.load false) f 2 1 0)
  | .ldS16 f => some (lmOp (.load true) f 2 1 0)
  | .ldB32 f => some (lmOp (.load false) f 4 1 0)
  | .ldB64 f => some (lmOp (.load false) f 8 2 0)
  | .ldB128 f => some (lmOp (.load false) f 16 4 0)
  | .stB8 f => some (lmOp .store f 1 0 1)
  | .stB16 f => some (lmOp .store f 2 0 1)
  | .stB32 f => some (lmOp .store f 4 0 1)
  | .stB64 f => some (lmOp .store f 8 0 2)
  | .stB128 f => some (lmOp .store f 16 0 4)
  | .atom op f => some (laOp (.atom op.toNat f.order.toNat f.scope.toNat) f 0 0)
  | .cas c f => some (laOp (.cas f.order.toNat f.scope.toNat) f c 1)
  | .xadd f => some { lmOp (.xadd f.order.toNat) f 64 0 1 with }
  | .xrd f f64 rm => some (lmOp (.xrd f64 rm.toNat) f 64 (if f64 then 2 else 1) 0)
  | .resld w f => some { lmOp (.resld w.toNat) f 24 0 0 with align := 8 }
  | .resst w f => some { lmOp (.resst w.toNat) f 24 0 0 with align := 8 }
  | .sldB32 f => some (umOp false f 4)
  | .sldB64 f => some (umOp false f 8)
  | .sstB32 f => some (umOp true f 4)
  | .sstB64 f => some (umOp true f 8)
  | _ => none

/-- The s register that an sld writes. -/
def sldDst (i : Instr) : Option Nat :=
  match i with
  | .sldB32 f => some f.r.toNat
  | .sldB64 f => some f.r.toNat
  | _ => none

def MemKind.isLoad : MemKind → Bool
  | .load _ => true
  | .xrd _ _ => true
  | .resld _ => true
  | _ => false

/-- The kinds whose helper lanes are suppressed (R191). -/
def MemKind.skipsHelpers (k : MemKind) : Bool := !k.isLoad

/-- The kinds performed lane by lane, each as one indivisible step (R208, R211). -/
def MemKind.isAtomic : MemKind → Bool
  | .atom _ _ _ => true
  | .cas _ _ => true
  | .xadd _ => true
  | _ => false

/-- The kinds that access XACC cells (R211, R212). -/
def MemKind.isXacc : MemKind → Bool
  | .xadd _ => true
  | .xrd _ _ => true
  | _ => false

/-- The permission that a form needs of its pages (R69). -/
def MemKind.need (k : MemKind) : Need := if k.isLoad then .read else if k.isAtomic then .both else .write

/-- The form writes memory. -/
def MemKind.writes (k : MemKind) : Bool := !k.isLoad

/-- The counter of a form (R196). -/
def MemKind.counter : MemKind → Counter
  | .store => .sts
  | .xadd _ => .sts
  | .resst _ => .sts
  | .load _ => .lds
  | .atom _ _ _ => .lds
  | .cas _ _ => .lds
  | .xrd _ _ => .lds
  | .resld _ => .lds

/-- The release that a form makes before its lanes are performed, by scope (R209, R211). -/
def MemKind.releases : MemKind → Option Nat
  | .atom _ order scope => if order = 2 ∨ order = 3 then some scope else none
  | .cas order scope => if order = 2 ∨ order = 3 then some scope else none
  | .xadd order => if order = 2 then some 4 else none
  | _ => none

/-- The form acquires once every lane is performed (R209). -/
def MemKind.acquires : MemKind → Bool
  | .atom _ order _ => order == 1 || order == 3
  | .cas order _ => order == 1 || order == 3
  | _ => false

/-- The lanes that an entry performs; a uniform form makes one access, recorded at lane 0. -/
def MemOp.lanes (op : MemOp) (mask : BitVec 64) : List Nat := if op.uni then [0] else lanesOf mask

/-- The address of a lane (R177, R178), from the operands that the entry holds. -/
def MemOp.addr (op : MemOp) (e : Entry) (lane : Nat) : Nat :=
  let base := if op.au then (e.uops.getD 1 0).toNat else (e.opa.getD lane 0).toNat
  let index : Int := if op.idx then toSigned (e.opb.getD lane 0).toNat 32 else 0
  wrapInt (base + index + op.off) (if op.space = .glob then 64 else 32)

/-- The single-copy-atomic parts of a lane's access that are checked and performed each by itself, as offset and bytes (R306). -/
def MemOp.parts (op : MemOp) : List (Nat × Nat) := if op.size = 24 then [(0, 8), (8, 8), (16, 8)] else [(0, op.size)]

/-- One part of a lane's access. -/
def MemOp.part (op : MemOp) (e : Entry) (lane : Nat) (p : Nat × Nat) : Req :=
  ⟨lane, op.space, (op.addr e lane + p.1) % 2 ^ (if op.space = .glob then 64 else 32), p.2⟩

/-- The accesses of an entry, by ascending lane. -/
def MemOp.reqs (op : MemOp) (e : Entry) : List Req := (op.lanes e.mask).flatMap (fun l => op.parts.map (op.part e l))

/-- The data that a lane stores (R194, R306). -/
def MemOp.data (op : MemOp) (e : Entry) (lane : Nat) : List Byte :=
  let x := if op.uni then (e.uops.getD 3 0).toNat
    else (e.opc.getD lane 0).toNat + 2 ^ 128 * (e.high.getD lane 0).toNat
  toBytes x op.size

/-- The lowest failing check of one lane, with its cause (R189 checks 3 to 5). -/
def State.reqCheck (s : State) (g : Group) (t : Team) (op : MemOp) (q : Req) : Option (Nat × Nat) :=
  if !(q.a % op.align == 0) then some (3, 0x03)
  else
    match s.rangeCheck g t q with
    | some c => some (4, c)
    | none => if t.placeCheck q op.kind.writes (op.kind.isAtomic || op.kind.isXacc) then some (5, 0x07) else none

/-- A lane that fails a check: the check's number, the cause, and the address or register number to record (R190, R469). -/
structure LaneFail where
  lane : Nat
  check : Nat
  cause : Nat
  addr : Nat
  deriving DecidableEq, Repr

/-- Each lane's own lowest failing check, recorded (R190). -/
def failRecs (l : List LaneFail) : Map W64 :=
  (l.foldl (fun (m : Map LaneFail) f => match m.get? f.lane with
    | some g => if f.check < g.check then m.set f.lane f else m
    | none => m.set f.lane f) []).map (fun f => (f.1, laneRec f.2.cause f.2.addr))

/-- The cause of the lowest-numbered check that fails, and the records of every failing lane (R190). Where two lanes fail
check 4 with different causes the lowest lane's is taken: log 18. -/
def worst : List LaneFail → Option (Nat × Map W64)
  | [] => none
  | f :: r => some ((r.foldl (fun m e => if e.check < m.check then e else m) f).cause, failRecs (f :: r))

/-- Lanes that fail checks 3 to 5. -/
def State.reqFails (s : State) (g : Group) (t : Team) (op : MemOp) (qs : List Req) : List LaneFail :=
  qs.filterMap (fun q => (s.reqCheck g t op q).map (fun c => ⟨q.lane, c.1, c.2, q.a⟩))

/-! ## Capturing an entry -/

/-- An entry with nothing captured. -/
def Entry.blank (i : Instr) (w : W32 × W32) (pc : W64) (mask : BitVec 64) (id : Nat) : Entry :=
  ⟨id, i, w.1, w.2, pc, mask, .inFlight, 0, .none, [], [], [], [], [], [], [], [], none, 0, 0, [], 0, [], [], false, false, id, []⟩

/-- Lane values of a register run (R469). -/
def Group.captureV (g : Group) (lanes : List Nat) (n w : Nat) : Map Val :=
  lanes.map (fun l => (l, BitVec.ofNat 128 (g.readWide l n w)))

/-- The register number of a lane register operand in a lane (R117). -/
def Group.vregOf (g : Group) (lane : Nat) : VReg → Nat
  | .reg n => n.toNat
  | .idx x off => g.indexOf lane x.toNat off.toNat

/-- Registers of the base operand: a pair for a lane global base (R177). -/
def MemOp.baseWidth (op : MemOp) : Nat := if op.space = .glob then 2 else 1

/-- The entry of a memory instruction at issue (R468, R469). -/
def Issue.memEntry (c : Issue) (op : MemOp) (mask helpers : BitVec 64) (id : Nat) : Entry :=
  let g := c.g
  let lanes := lanesOf mask
  let w := match op.kind with
    | .resst n => lanes.map (fun l => (l, g.readW l n))
    | _ => []
  let store := match op.c with
    | .reg n => n.toNat
    | .idx _ _ => 0
  let rs := match op.kind with
    | .xrd _ mode => mode == 4
    | _ => false
  { Entry.blank c.i c.words c.pc (if op.uni then c.run else mask) id with
    counter := op.kind.counter
    uops := [0, if op.au then g.readS op.a else 0, 0, if op.uni then g.readS store else 0]
    opa := if op.au then [] else g.captureV lanes op.a op.baseWidth
    opb := if op.bw = 0 then [] else g.captureV lanes op.b op.bw
    opc := if op.uni then [] else if w = [] then
        (if op.cw = 0 then [] else lanes.map (fun l => (l, BitVec.ofNat 128 (g.readWide l (g.vregOf l op.c) op.cw))))
      else w.map (fun e => (e.1, e.2.setWidth 128))
    high := w.map (fun e => (e.1, e.2.extractLsb' 128 64))
    draws := if rs then lanes.map (fun l => (l, (g.draw l).1)) else []
    dreg := if op.dw = 0 then [] else (lanesOf (mask ||| helpers)).map (fun l => (l, g.vregOf l op.dst))
    helpers := helpers
    dsts := (match op.kind with
        | .resld n => [wKey n]
        | _ => []) ++ (match sldDst c.i with
        | some d => [sKey d]
        | none => []) ++
      (if op.dw = 0 then [] else ((lanesOf (mask ||| helpers)).flatMap (fun l => vKeys (g.vregOf l op.dst) op.dw)).eraseDups)
    width := op.dw }

/-! ## Completing -/

/-- An entry leaves its group, and its counter falls (R196). -/
def Group.retire (g : Group) (e : Entry) : Group := ({ g with entries := g.entries.filter (fun x => !(x.id == e.id)) } : Group).countDown e.counter

/-- An entry changed in its group. -/
def Group.setEntry (g : Group) (e : Entry) : Group := { g with entries := g.entries.map (fun x => if x.id = e.id then e else x) }

def State.setEntry (s : State) (gid : Nat) (e : Entry) : State := { s with groups := s.groups.modify gid (fun g => g.setEntry e) }

/-- Destinations of an atomic's performed lanes (R208). -/
def Group.landAtomic (g : Group) (e : Entry) (op : MemOp) : Group :=
  if op.dw = 0 then g
  else e.res.foldl (fun g x => if g.live.getLsbD x.1 then g.writeWide x.1 (e.dreg.getD x.1 0) op.dw x.2.toNat else g) g

/-- Helper lanes get 0 when the instruction completes (R191). -/
def Group.landHelpers (g : Group) (e : Entry) (op : MemOp) : Group :=
  if op.dw = 0 then g
  else (lanesOf (e.helpers &&& g.live)).foldl (fun g l => g.writeWide l (e.dreg.getD l 0) op.dw 0) g

/-- A cause of an issued instruction (R466): its entry stays in the replay queue as faulted, with the lanes still to be
performed and their records, and the cause is raised at its rung. -/
def State.failEntryAt (s : State) (gid : Nat) (e : Entry) (cause : Nat) (context : Bool) (recs : Map W64) (addr : W64) : State :=
  let e1 : Entry := { e with state := .faulted, cause := cause, lrec := recs, mask := e.mask &&& ~~~e.done, done := 0 }
  let s1 := s.setEntry gid { e1 with res := if (memOp e.instr).isSome then [] else e.res }
  match s1.groups.get? gid with
  | none => s1
  | some g =>
    let g1 := match memOp e.instr with
      | some op => g.landAtomic e op
      | none => g
    let p : Pend := { Pend.issued cause e.pc addr with irec := recs }
    if context then (s1.setGroup gid g1).raiseUpper 2 cause 0 (s1.fnOf g) g.ctx g.team e.pc p.where
    else (s1.setGroup gid g1).raiseIssued gid p

/-- An entry fails, with the records of its lanes. -/
def State.failEntry (s : State) (gid : Nat) (e : Entry) (cause : Nat) (context : Bool) (recs : Map W64) : State :=
  s.failEntryAt gid e cause context recs (addrOf recs)

/-- An entry goes on waiting in the replay queue (R76). -/
def State.waitEntry (s : State) (gid : Nat) (e : Entry) (a : Act) : State :=
  (s.setEntry gid (if e.state = .inFlight then { e with state := .waiting } else e)).push a

/-- An entry that its unit may work on now: not faulted, and not held in a prompt book (R465). -/
def Entry.workable (e : Entry) : Bool := !(e.book || e.state == .faulted)

/-- A piece of pending work for an entry that its unit may work on now; one that is uncorrectable in the replay queue stops with cause 0x0B
at the context rung (R483). -/
def withEntry (gid id : Nat) (a : Act) (s : State) (k : Group → Entry → Result) : Result :=
  wake gid a s fun g =>
    match g.entries.find? (fun e => e.id == id) with
    | none => .next s
    | some e =>
      if !e.workable then .next s
      else if e.bad then .next ((s.countUncorr g.die).failEntry gid e 0x0B true [])
      else k g e

/-- A value widened to a lane register (R193). -/
def loadValue (signed : Bool) (b : List Byte) : Nat :=
  let n := 8 * b.length
  if signed then wrapInt (toSigned (ofBytes b) n) 32 else ofBytes b

/-- The parts of each lane put together again. -/
def joinLanes : List (Req × List Byte) → List (Req × List Byte)
  | [] => []
  | (q, b) :: r =>
    match joinLanes r with
    | (q', b') :: t => if q.lane = q'.lane then (q, b ++ b') :: t else (q, b) :: (q', b') :: t
    | [] => [(q, b)]

/-- The destinations of a load that has landed (R194, R195, R306, R212): every lane that has not exited (R378). The flags of a lane that was
active at issue count also if it has exited since (R151). -/
def Group.land (g : Group) (e : Entry) (op : MemOp) (l : List (Req × List Byte)) : Group :=
  let here (x : Req × List Byte) : Bool := op.uni || g.live.getLsbD x.1.lane
  match op.kind with
  | .load signed =>
    if op.uni then
      (match sldDst e.instr, l.filter here with
       | some d, x :: _ => g.writeS d (BitVec.ofNat 64 (ofBytes x.2))
       | _, _ => g)
    else (l.filter here).foldl (fun g x => g.writeWide x.1.lane (e.dreg.getD x.1.lane 0) op.dw (loadValue signed x.2)) g
  | .resld w => (l.filter here).foldl (fun g x => g.writeW x.1.lane w (BitVec.ofNat 192 (ofBytes x.2))) g
  | .xrd f64? mode =>
    l.foldl (fun g x =>
      let r := xaccRead (if f64? then f64 else f32) (modeOf mode) (e.draws.getD x.1.lane 0).toNat (ofBytes x.2)
      (if here x then g.writeWide x.1.lane (e.dreg.getD x.1.lane 0) op.dw r.1 else g).raiseFlags [r.2]) g
  | .store => g
  | .atom _ _ _ => g
  | .cas _ _ => g
  | .xadd _ => g
  | .resst _ => g

/-- A global cell must lie in graphics DRAM in device bias (R211, R212): lanes that do not. -/
def State.xaccMisplaced (s : State) (g : Group) (o : Owner) (need : Need) (qs : List Req) : List (Req × Nat) :=
  qs.filterMap (fun q =>
    match s.placeAt g o need q.sp q.a with
    | .at (.dram d) => if s.hostBias.contains (d / 65536) then some (q, 0x07) else none
    | .at (.host _) => some (q, 0x07)
    | .at (.flash _) => some (q, 0x07)
    | .at (.layer _ _) => none
    | .at (.team _ _) => none
    | .wait => none
    | .fails _ => none)

/-- Lanes whose translated address refuses a write (R56, R189 check 6): a store offset outside the store or beyond its end is refused with cause 0x04
and one inside it with 0x07 (R56; its order is log 95). A filled window sector was translated as it was filled (R108). -/
def State.writeRefused (s : State) (g : Group) (t : Team) (o : Owner) (need : Need) (qs : List Req) : List (Req × Nat) :=
  qs.filterMap (fun q =>
    match t.windowAt q.sp q.a with
    | some (k, off) =>
      (match t.wins.get? k with
       | some w =>
         if w.valid.contains (off / 64) then (if w.rom.contains (off / 64) then some (q, 0x07) else none)
         else
           (match s.placeAt g o .read .glob (w.gbase + off) with
            | .at (.flash _) => some (q, 0x07)
            | _ => none)
       | none => none)
    | none =>
      match s.placeAt g o need q.sp q.a with
      | .at (.flash _) => some (q, 0x07)
      | .at (.dram _) => none
      | .at (.host _) => none
      | .at (.layer _ _) => none
      | .at (.team _ _) => none
      | .wait => none
      | .fails c => if c = 0x0B then none else some (q, c))

/-- The owner of an entry's translations. -/
def Entry.owner (e : Entry) (gid : Nat) : Owner := .entry gid e.id

/-- The group's own earlier stores to the bytes of some requests performed (R192). False: they must wait. -/
def State.clearOwnAll (s : State) (gid : Nat) (order : Option Nat) (g : Group) (o : Owner) (need : Need) : List Req → State × Bool
  | [] => (s, true)
  | q :: r =>
    let (s1, ok) := s.clearOwn gid order q.sp q.a q.n (s.ownHpa g o need q.sp q.a)
    let (s2, ok2) := State.clearOwnAll s1 gid order g o need r
    (s2, ok && ok2)

/-- XACC cells that a reading of them may not reach, once they are translated (R212, R189 check 6). -/
def State.cellsRefused (s : State) (g : Group) (o : Owner) (op : MemOp) (qs : List Req) : List (Req × Nat) :=
  if op.kind.isXacc && s.standing o == .ready then s.xaccMisplaced g o .read qs else []

/-- A load, xrd or resld performed whole (R75, R194). -/
def State.performLoad (s : State) (gid : Nat) (e : Entry) (op : MemOp) : State :=
  let o := e.owner gid
  let qs := op.reqs e
  match (match s.groups.get? gid with
    | some g => if op.kind.isXacc then s.clearOwnAll gid (some e.seq) g o .read qs else (s, true)
    | none => (s, true)) with
  | (s1, false) => s1.push (.loadLanding gid e.id)
  | (s0, true) =>
    match s0.groups.get? gid with
    | none => s0
    | some g =>
      let s1 := s0.ask o g .read qs
      match s1.cellsRefused g o op qs with
      | f :: r => (s1.dropWaits o).failEntry gid e f.2 false (recsOf (f :: r))
      | [] =>
        match s0.readAll g o .read qs with
        | .wait s2 => s2.waitEntry gid e (.loadLanding gid e.id)
        | .fail s2 c x recs => s2.failEntry gid e c x recs
        | .ok s2 l =>
          match s2.groups.get? gid with
          | none => s2
          | some g1 => s2.setGroup gid ((g1.land e op (joinLanes l)).retire e)

/-- The bytes of a store by lane. -/
def MemOp.writesOf (op : MemOp) (e : Entry) : List (Req × List Byte) :=
  (op.lanes e.mask).flatMap (fun l => op.parts.map (fun p => (op.part e l p, ((op.data e l).drop p.1).take p.2)))

/-- Entries of the store buffer that a store still needs room for (R347). -/
def Team.linesNeeded (t : Team) (ws : List (Req × List Byte)) : Nat :=
  (linesOf (ws.filter (fun e => !((t.windowAt e.1.sp e.1.a).isSome) && !(e.1.sp == .team)))).length

/-- A store performed whole (R75, R194): its bytes enter the store buffer, team memory or their window. Check 6 of R189 comes before check 7. -/
def State.performStore (s : State) (gid : Nat) (g : Group) (e : Entry) (op : MemOp) : State :=
  let o := e.owner gid
  let again (s : State) : State := s.waitEntry gid e (.replay gid e.id)
  let s1 := s.ask o g .write (op.reqs e)
  match s1.teams.get? g.team with
  | none => s1
  | some t =>
    match s1.standing o with
    | .waiting => again s1
    | .refused c x => (s1.dropWaits o).failEntry gid e c x (s1.refusedRecs o t (op.reqs e))
    | .ready =>
      match s1.writeRefused g t o .write (op.reqs e) with
      | f :: r => (s1.dropWaits o).failEntry gid e f.2 false (recsOf (f :: r))
      | [] =>
        match s1.fillAll g o ((op.reqs e).filterMap t.fillOf) with
        | (s2, .wait, _) => again s2
        | (s2, .fails c, f) =>
          (s2.dropWaits o).failEntry gid e c false (recsOf (((op.reqs e).filter (fun q => t.fillOf q == some f)).map (fun q => (q, c))))
        | (s2, .bytes _, _) =>
          match s2.teams.get? g.team, s2.groups.get? gid with
          | some t2, some g2 =>
            let ws := op.writesOf e
            if 64 < g2.sbuf.length + t2.linesNeeded ws then again s2
            else
              let (s3, n) := s2.storeBytes gid g2 t2 o e.id e.seq e.pc ws
              let s4 := s3.dropWaits o
              (match s4.groups.get? gid with
               | none => s4
               | some g4 =>
                 let g5 : Group := { g4 with entries := g4.entries.filter (fun x => !(x.id == e.id)) }
                 s4.setGroup gid (if n = 0 then g5.countDown .sts else g5))
          | _, _ => s2

/-! ## Atomics -/

/-- F of R207 on n-byte values. -/
def atomValue (op n old b : Nat) : Nat :=
  let m := 2 ^ (8 * n)
  match op with
  | 0 => (old + b) % m
  | 1 => old &&& b
  | 2 => old ||| b
  | 3 => old ^^^ b
  | 4 => if toSigned b (8 * n) < toSigned old (8 * n) then b else old
  | 5 => min old b
  | 6 => if toSigned old (8 * n) < toSigned b (8 * n) then b else old
  | 7 => max old b
  | 8 => b
  | 9 => if b ≤ old then 0 else old + 1
  | _ => if old = 0 ∨ b < old then b else old - 1

/-- The value an atomic lane writes, if it writes (R208, R211). -/
def MemOp.newValue (op : MemOp) (e : Entry) (lane old : Nat) : Option Nat :=
  let m := 2 ^ (8 * op.size)
  match op.kind with
  | .atom f _ _ => some (atomValue f op.size old ((e.opb.getD lane 0).toNat % m))
  | .cas _ _ => if old = (e.opb.getD lane 0).toNat % m then some ((e.opc.getD lane 0).toNat % m) else none
  | .xadd _ => some (xaccAdd old (e.opc.getD lane 0).toNat)
  | .load _ => none
  | .store => none
  | .xrd _ _ => none
  | .resld _ => none
  | .resst _ => none

/-- One lane's indivisible step at its point of coherence: the state and the old value, or it waits, or it fails. -/
def State.atomLane (s : State) (gid : Nat) (g : Group) (o : Owner) (op : MemOp) (e : Entry) (q : Req) : State × Got :=
  match s.placeAt g o .both q.sp q.a with
  | .wait => (s, .wait)
  | .fails c => (s, .fails c)
  | .at l =>
    match s.readPlace l q.n with
    | .bytes b =>
      let s1 := if q.sp = .glob then (s.obtainAt l q.n).keepBytes gid (some e.seq) l q.a (s.ownHpa g o .both q.sp q.a) b else s.obtainAt l q.n
      (match op.newValue e q.lane (ofBytes b) with
       | some x => (s1.writeAt l (toBytes x q.n), .bytes b)
       | none => (s1, .bytes b))
    | r => (s.countBad l q.n, r)

/-- The objects that cover the lanes of an entry (R337), each once; none stands for every object, as covers a team byte (R335). -/
def State.objectsOf (s : State) (g : Group) (qs : List Req) : List (Option Nat) :=
  (qs.map (fun q => if q.sp = .team then none else some (s.objectOf g.ctx (q.sp == .layer) q.a))).eraseDups

/-- An atomic instruction all of whose lanes are performed or failed: it acquires if it must (R209), writes its
destinations and completes, or its failing lanes raise cause 0x0B (R190). -/
def State.endAtomic (s : State) (gid : Nat) (g : Group) (e : Entry) (op : MemOp) (a : Act) : State :=
  let acq := if op.kind.acquires then s.acquireAll gid (s.objectsOf g (op.reqs { e with mask := e.mask ||| e.done })) else (s, true)
  match acq with
  | (s1, false) => s1.push a
  | (s1, true) =>
    match s1.groups.get? gid with
    | none => s1
    | some g1 =>
      let s2 := (s1.setGroup gid (g1.landAtomic e op)).dropWaits (e.owner gid)
      match e.lrec with
      | [] => { s2 with groups := s2.groups.modify gid (fun g => (g.landHelpers e op).retire e) }
      | recs => s2.failEntry gid { e with done := e.mask &&& ~~~(maskOf (recs.map (fun r => r.1))), res := e.res } 0x0B false recs

/-- Every lane of an atomic may be performed: translated, and accepted at check 6 (R75, R189); it keeps these translations to its end. -/
def State.atomReady (s : State) (gid : Nat) (g : Group) (e : Entry) (op : MemOp) (a : Act) : State × Bool :=
  let o := e.owner gid
  let qs := op.reqs { e with mask := e.mask &&& ~~~e.done }
  let s1 := s.ask o g .both qs
  match s1.teams.get? g.team with
  | none => (s1, false)
  | some t =>
    match s1.standing o with
    | .waiting => (s1.waitEntry gid e a, false)
    | .refused c x => ((s1.dropWaits o).failEntry gid e c x (s1.refusedRecs o t qs), false)
    | .ready =>
      match s1.writeRefused g t o .both qs ++ (if op.kind.isXacc then s1.xaccMisplaced g o .both qs else []) with
      | f :: r => ((s1.dropWaits o).failEntry gid e f.2 false (recsOf (f :: r)), false)
      | [] => (s1.pin o g.die g.core (s.fnOf g) (s.pasidOf g) .both ((qs.flatMap (t.pagesOf .both)).map (fun p => p.1)).eraseDups, true)

/-- The lanes of an atomic that are accounted for: performed, or failed at check 7. -/
def Entry.settledMask (e : Entry) : BitVec 64 := e.done ||| maskOf (e.lrec.map (fun r => r.1))

/-- One lane of an atomic, cas or xadd (R208, R209, R211). -/
def State.performLane (s : State) (gid id lane : Nat) (a : Act) : State :=
  match s.groups.get? gid with
  | none => s
  | some g =>
    match g.entries.find? (fun e => e.id == id) with
    | none => s
    | some e =>
      match memOp e.instr with
      | none => s
      | some op =>
        let pending := e.mask &&& ~~~e.settledMask
        if e.book || e.state == .faulted || !(op.kind.isAtomic) then s
        else if e.bad then (s.countUncorr g.die).failEntry gid e 0x0B true []
        else if pending = 0 then s.endAtomic gid g e op a
        else if !(pending.getLsbD lane) then s
        else
          let q : Req := ⟨lane, op.space, op.addr e lane, op.size⟩
          let first := ((lanesOf pending).filter (fun l => decide (l < lane) && op.addr e l / op.size == q.a / op.size)).isEmpty
          if !first && !(op.kind == .xadd 0 || op.kind == .xadd 2) then s.push a
          else
            match s.atomReady gid g e op a with
            | (s1, false) => s1
            | (s1, true) =>
              let hpa := s1.ownHpa g (e.owner gid) .both q.sp q.a
              if q.sp == .glob && s1.writeAhead gid g (some e.seq) q.a q.n hpa then s1.waitEntry gid e a
              else
              match s1.clearOwn gid (some e.seq) q.sp q.a q.n hpa with
              | (s2, false) => s2.push a
              | (s2, true) =>
                match s2.groups.get? gid with
                | none => s2
                | some g2 =>
                  match s2.atomLane gid g2 (e.owner gid) op e q with
                  | (s3, .wait) => s3.push a
                  | (s3, .fails c) =>
                    let e1 : Entry := { e with state := .inFlight, lrec := e.lrec.set lane (laneRec c q.a) }
                    let s4 := s3.setEntry gid e1
                    if e1.mask &&& ~~~e1.settledMask = 0 then s4.endAtomic gid g2 e1 op a else s4
                  | (s3, .bytes b) =>
                    let e1 : Entry := { e with
                      state := .inFlight, done := e.done ||| laneBit lane
                      res := e.res.set lane (BitVec.ofNat 128 (ofBytes b)) }
                    let s4 := s3.setEntry gid e1
                    if e1.mask &&& ~~~e1.settledMask = 0 then s4.endAtomic gid g2 e1 op a else s4

end Sys2Proof.Machine
end

