-- ==== Sys2Proof/Machine/Stage.lean ====
section
/-! DEFINITION. The stage of a sub-core: which groups stand on it, which may issue, and how one comes onto it (R127, R130, R364, R380, R451 to
R453). -/

namespace Sys2Proof.Machine

/-! ## Readiness -/

/-- The clock of the group's quad is being switched (R534 step 2). -/
def State.clockSwitch (s : State) (g : Group) : Bool := (s.power.getD (12 * g.die + g.core / 4) Power.reset).step == 2

/-- A switch-out or an end of a context is under way on a die: its message has come there (R458 step 2, R475, R515). -/
def State.leavingCtx (s : State) (ctx die : Nat) : Bool :=
  s.jobs.any (fun j => match j.2 with
    | .swout _ _ c dies => c == ctx && !(dies.contains die)
    | .ctxend _ _ c dies => c == ctx && !(dies.contains die)
    | _ => false)

/-- A vacate of a quad is under way on its die: its message has come there (R458 steps 1 and 2, R515). -/
def State.leavingQuad (s : State) (quad : Nat) : Bool :=
  s.vacating.contains quad && s.jobs.any (fun j => match j.2 with
    | .vacate _ _ mask dies => bit mask quad && !(dies.contains (quad / 12))
    | _ => false)

/-- The group stops issuing to be saved (R458 step 2, R475). -/
def State.leaving (s : State) (g : Group) : Bool := s.leavingQuad (12 * g.die + g.core / 4) || s.leavingCtx g.ctx g.die

/-- The group may issue, if its next instruction can (R451): its own state allows it, and its team, its context, the rungs and its quad's clock do (R364,
R460, R475, R534). After a RESUME its replay queue is taken up first (R474). -/
def State.groupReady (s : State) (gid : Nat) : Bool :=
  match s.groups.get? gid with
  | none => false
  | some g => g.mayIssue && s.awake g && !(s.clockSwitch g) && !(s.leaving g) && !(s.work.contains (.resume gid))

/-- The group is ready (R451): it may issue, and its next instruction was not found to be held. -/
def State.issueReady (s : State) (gid : Nat) : Bool :=
  s.groupReady gid && (match s.groups.get? gid with
    | some g => !g.held
    | none => false)

/-- The group stands on the stage, from which alone a group issues (R451, R454). -/
def State.onStage (s : State) (gid : Nat) : Bool :=
  match s.groups.get? gid with
  | none => false
  | some g => g.stage.isSome

/-- The group may issue now: it is ready, and it stands on the stage. -/
def State.mayIssue (s : State) (gid : Nat) : Bool := s.groupReady gid && s.onStage gid

/-- The next group after the focus, in turn, that may issue (R454). -/
def State.nextFocus (s : State) : Nat :=
  let ready := (s.groups.filter (fun e => s.mayIssue e.1)).map (fun e => e.1)
  match ready.find? (fun k => decide (s.focus < k)) with
  | some k => k
  | none => ready.headD s.focus

/-! ## Banks of the lane file (R114, R130) -/

/-- The number of a bank of a lane file (R130). -/
def bankKey (die core sub bank : Nat) : Nat := ((48 * die + core) * 8 + sub) * 48 + bank

/-- The banks that hold a group's rows: a bank is 32 rows, 4 blocks of 8 (R114, R130). -/
def Group.banks (g : Group) : List Nat := (g.blocks.map (fun b => bankKey g.die g.core g.sub (b / 4))).eraseDups

/-- A group's banks awake: it comes onto the stage (R130). -/
def State.wakeBanks (s : State) (g : Group) : State := { s with drowsy := s.drowsy.filter (fun k => !(g.banks.contains k)) }

/-! ## Coming onto the stage -/

/-- Two placed groups share a sub-core. -/
def Group.beside (g h : Group) : Bool := h.placed && h.die == g.die && h.core == g.core && h.sub == g.sub

/-- The lowest free stage place of a sub-core (R445). -/
def State.freeStage (s : State) (die core sub : Nat) : Option Nat :=
  let used := s.groups.filterMap (fun e => if e.2.placed ∧ e.2.die = die ∧ e.2.core = core ∧ e.2.sub = sub then e.2.stage else none)
  (List.range 8).find? (fun k => !(used.contains k))

/-- The element of the least number, the first of several. -/
def leastBy {α : Type} (f : α → Nat) : List α → Option α
  | [] => none
  | x :: r =>
    match leastBy f r with
    | none => some x
    | some y => if f y < f x then some y else some x

/-- A ready group in the wings of the same sub-core: the one that has been ready longest, or of several the one placed earliest (R452). -/
def State.wingsReady (s : State) (g : Group) : Option Nat :=
  (leastBy (fun e => e.2.turned) (s.groups.filter (fun e => g.beside e.2 && e.2.stage.isNone && s.issueReady e.1))).map (fun e => e.1)

/-- A group put on a stage place; its banks wake (R130, R451). -/
def State.enterStage (s : State) (gid : Nat) (place : Option Nat) : State :=
  match s.groups.get? gid with
  | none => s
  | some g => (s.wakeBanks g).setGroup gid { g with stage := place, since := s.tick }

/-- A stage group's place given to a ready wings group, if there is one (R451, R452). -/
def State.swapStage (s : State) (gid : Nat) (g : Group) : State :=
  match s.wingsReady g with
  | none => s
  | some k => (s.setGroup gid { g with stage := none }).enterStage k g.stage

/-- The waits at which a stage group leaves (R451). -/
def Wait.leaves : Wait → Bool
  | .mpwait _ _ => true
  | .sqstage _ _ => true
  | .prun _ _ _ => true
  | .pwait _ _ => true
  | .pwaited _ _ => true
  | .pdrop _ => true
  | .repack => true
  | .fetch => true
  | .yield => true
  | .twait _ => true
  | .none => false
  | .counters _ _ _ _ _ => false
  | .channel => false
  | .sqdrain _ => false
  | .exit => false

/-- A stage group leaves for a ready wings group (R451): at one of its waits, or when it has not been ready for 16 clocks. A step stands for a clock
(log 77). -/
def State.dueOut (s : State) (gid : Nat) (g : Group) : Bool :=
  !(s.issueReady gid) && (g.wait.leaves || g.replayFull || (!g.ready && decide (g.turned + 16 ≤ s.tick)))

/-- The order of the stage groups that go out: by a time, then by stage place (R452). -/
def stageOrder (f : Group → Nat) (e : Nat × Group) : Nat := 8 * f e.2 + e.2.stage.getD 0

/-- The stage group whose place a ready wings group g takes (R451 to R453): of those due out the one that has waited longest; else, once g has been ready
for 256 clocks, the one longest on the stage of those that have stood there for 4,096. -/
def State.leaver (s : State) (g : Group) : Option (Nat × Group) :=
  let stage := s.groups.filter (fun e => g.beside e.2 && e.2.stage.isSome)
  match leastBy (stageOrder (fun h => h.turned)) (stage.filter (fun e => s.dueOut e.1 e.2)) with
  | some e => some e
  | none =>
    if g.ready && decide (g.turned + 256 ≤ s.tick) then
      leastBy (stageOrder (fun h => h.since)) (stage.filter (fun e => decide (e.2.since + 4096 ≤ s.tick)))
    else none

/-- A ready wings group comes onto the stage: on a free place, or on one that another group leaves (R451 to R453). -/
def State.comeUp (s : State) (gid : Nat) : State :=
  match s.groups.get? gid with
  | none => s
  | some g =>
    if g.stage.isSome || !(s.issueReady gid) then s
    else
      match s.freeStage g.die g.core g.sub with
      | some k => s.enterStage gid (some k)
      | none =>
        match s.leaver g with
        | some (j, h) => (s.setGroup j { h with stage := none }).enterStage gid h.stage
        | none => s

/-- Each group's readiness looked at: when it last changed is kept (R451 to R453). -/
def State.look (s : State) : State :=
  { s with groups := s.groups.map (fun e =>
      if s.issueReady e.1 = e.2.ready then e else (e.1, { e.2 with ready := s.issueReady e.1, turned := s.tick })) }

/-- The placed groups in the wings. -/
def State.inWings (s : State) : List (Nat × Group) := s.groups.filter (fun e => e.2.placed && e.2.stage.isNone)

/-- Every wings group that may comes onto its stage, the longest ready first (R452). -/
def State.stagePass (s : State) : State :=
  (sortBy (fun a b => decide (a.2.turned ≤ b.2.turned)) s.inWings).foldl (fun s e => s.comeUp e.1) s

end Sys2Proof.Machine
end

