-- ==== Sys2Proof/Machine/Fetch.lean ====
section
/-! DEFINITION. Instruction fetch (R79, R181, R374, R481): the checked code pages of a core, and the words at a program
counter. -/

namespace Sys2Proof.Machine

/-- The checked page of a core that holds an address (R481). -/
def State.codePage? (s : State) (die core fn pasid page : Nat) : Option CodePage :=
  s.codePages.find? (fun c => c.die == die && c.core == core && c.fn == fn && c.pasid == pasid && c.page == page)

/-- A 4-byte word of a memory. -/
def Memory.word (m : Memory) (a : Nat) : W32 := wordOfBytes (m.get a) (m.get (a + 1)) (m.get (a + 2)) (m.get (a + 3))

/-- The entry of a translation cache that lets a fetch pass (R69, R79). -/
def State.fetchEntry (s : State) (die core fn pasid va : Nat) : Option TlbEntry :=
  (s.lookup die core fn pasid va).filter (fun e => e.allows .fetch)

/-- What memory holds now at a code address, if the core can tell (R181). -/
def State.currentWord (s : State) (die core fn pasid va : Nat) : Option W32 :=
  match s.fetchEntry die core fn pasid va with
  | none => none
  | some e =>
    match s.route (e.hpaOf va) with
    | none => none
    | some l => some (wordOfBytes (s.byteAt l) (s.byteAt (l.add 1)) (s.byteAt (l.add 2)) (s.byteAt (l.add 3)))

/-- A group may fetch from a page that its core has checked: a cache holds an entry for it that lets a fetch pass (R69, R79), or the page went
untranslated and the group waited for it, which serves one fetch (R67). -/
def State.mayFetch (s : State) (gid : Nat) (c : CodePage) (va : Nat) : Bool :=
  (s.fetchEntry c.die c.core c.fn c.pasid va).isSome || (c.direct && c.grants.contains gid)

/-- The word that a group fetches at a canonical address, or none if its page is not checked or it may not fetch from it (R69, R79). After a store into the
page the old or the new word is fetched, which the spec leaves to timing: a free choice (R181, log 2). -/
def State.fetchWord (s : State) (gid die core fn pasid va k : Nat) : Option W32 :=
  match s.codePage? die core fn pasid (pageOf va) with
  | none => none
  | some c =>
    let old := Memory.word c.data (va % 4096)
    if !(s.mayFetch gid c va) then none
    else
    match s.currentWord die core fn pasid va with
    | none => some old
    | some new => if new = old then some old else if Config.freeBit (2 * s.tick + k) then some new else some old

/-- The outcome of a fetch. -/
inductive Fetch where
  | words (w1 w2 : W32)
  | missing (page : Nat)
  | outside
  deriving DecidableEq, Repr

/-- The words at a program counter; the second is 0 for a short form (R161, R374). -/
def State.fetch (s : State) (gid : Nat) (g : Group) (pc : W64) : Fetch :=
  let fn := s.fnOf g
  let pasid := s.pasidOf g
  if !canonical pc.toNat then .outside
  else
    match s.fetchWord gid g.die g.core fn pasid pc.toNat 0 with
    | none => .missing (pageOf pc.toNat)
    | some w1 =>
      if !extended (fOp w1) then .words w1 0
      else if !canonical (pc.toNat + 4) then .outside
      else
        match s.fetchWord gid g.die g.core fn pasid (pc.toNat + 4) 1 with
        | none => .missing (pageOf (pc.toNat + 4))
        | some w2 => .words w1 w2

/-- A group's one fetch from pages that went untranslated is used up: each later one asks again (R67). -/
def State.useFetch (s : State) (gid : Nat) : State :=
  if s.codePages.any (fun c => c.grants.contains gid) then
    { s with codePages := s.codePages.map (fun c => { c with grants := c.grants.filter (fun k => !(k == gid)) }) }
  else s

/-- After an instruction of a group: its fetch is used up, unless the instruction is held and is to be issued again. -/
def fetched (gid : Nat) (r : Result) : Result :=
  match r with
  | .next t => .next (if t.stalled then t else t.useFetch gid)
  | .fault f => .fault f
  | .refused f => .refused f

/-- The group waits for a code page (R79). -/
def State.fetchMiss (s : State) (gid : Nat) (g : Group) (page : Nat) : State :=
  (s.setGroup gid { g with wait := .fetch }).push (.codePageFill g.die g.core (s.fnOf g) (s.pasidOf g) page)

/-! ## The program that State.withFetchWord places (log 14) -/

/-- The address of the words that State.withFetchWord places. -/
def loadPc : Nat := 0x1000

/-- A context with nothing bound and no handler. -/
def loadCtx : Ctx :=
  ⟨1, 1, .running, 0, 0, 0, 0, 0, 0, 0, [], ⟨0, 0, 0, 0, 0, 0, 0, 0, 64⟩, [], 0, [], [], [], 0⟩

/-- An image of one role at the widest budgets. -/
def loadImage : Image := ⟨32, 1, 4096, [⟨0, 0, 1, 256, 8, 128, 0, 0⟩], [], [], [], []⟩

def loadGrid (ctx team : Nat) : Grid :=
  ⟨ctx, ⟨0, loadImage, 1, 1, 0, [], [], 0, 0⟩, none, 0, true, 0, false, none, 0, [], [], [team], false⟩

def Matrix.empty : Matrix := ⟨false, 0, 0, 16, [], [], [], [], [], []⟩

def loadTeam (ctx grid : Nat) : Team :=
  ⟨ctx, grid, 0, .grid, .running, false, 0, [0], 1, loadImage, 4096, [], [], [], [(0, ⟨1, 0, 0, true⟩)], [], Matrix.empty, ⟨[], [], 0, 0⟩,
    false, false, []⟩

/-- A group of 32 lanes as a gang start leaves it (R111, R371). -/
def loadGroup (ctx grid team : Nat) : Group where
  ctx := ctx
  grid := grid
  team := team
  role := 0
  num := 0
  width := 32
  gang := false
  lbud := 256
  wbud := 8
  ubud := 128
  carryV := 0
  carryW := 0
  pos := 0
  die := 0
  core := 0
  sub := 0
  stage := some 0
  placed := true
  v := []
  x := []
  w := []
  p := []
  s := []
  c := []
  b := 0
  key := 0
  stream := (List.range 32).map (fun i => (i, BitVec.ofNat 64 i))
  counter := []
  flags := 0
  undef := 0
  badV := []
  badX := []
  badW := []
  badS := []
  badC := []
  badGen := []
  blocks := List.range 39
  table := [(BitVec.ofNat 64 loadPc, 0xFFFFFFFF)]
  table1 := []
  parked := []
  arrived := false
  live := 0xFFFFFFFF
  help := 0
  lds := 0
  sts := 0
  cps := 0
  tls := 0
  entries := []
  sbuf := []
  queries := []
  hnd := false
  book := 0
  hcount := 0
  pend := none
  wait := .none
  waitPc := 0
  waitRun := 0
  spawned := []
  held := false
  ready := true
  turned := 0
  since := 0

/-- Bytes placed at a physical address, wherever it leads (R32). -/
def State.place (s : State) (hpa : Nat) (bytes : List Byte) : State :=
  match s.route hpa with
  | none => s
  | some (.flash off) => { s with flash := s.flash.write off bytes }
  | some l => s.writeAt l bytes

/-- The translation of the page that State.load places: one to one, to be read and fetched from. -/
def loadEntry : TlbEntry := ⟨1, 1, 12, loadPc, loadPc, true, false, true, true⟩

/-- The module with a context, a grid, a team and a group whose next instruction is the given bytes, in a page that its core
has translated and checked: it stands for a LAUNCH (R442, R443) and a code-page fill (R79, R481). -/
def State.load (s0 : State) (bytes : List Byte) : State :=
  let s := (s0.place loadPc bytes).install 0 [0] loadEntry
  let n := s.nextId
  { s with
    agenda := []
    stalled := false
    tick := 2 * (s.tick / 2)
    focus := n
    nextId := n + 4
    ctxs := s.ctxs.set (n + 3) loadCtx
    grids := s.grids.set (n + 2) (loadGrid (n + 3) (n + 1))
    teams := s.teams.set (n + 1) (loadTeam (n + 3) (n + 2))
    groups := s.groups.set n (loadGroup (n + 3) (n + 2) (n + 1))
    stops := []
    codePages := ⟨0, 0, 1, 1, pageOf loadPc, Memory.write [] (loadPc % 4096) bytes, false, []⟩ ::
      s.codePages.filter (fun c => !(c.die == 0 && c.core == 0 && c.fn == 1 && c.pasid == 1 && c.page == pageOf loadPc)) }

end Sys2Proof.Machine
end

