-- ==== Sys2Proof/Machine/Special.lean ====
section
/-! DEFINITION. The special functions of R224: the exact value is enclosed ever more closely until its rounding is decided. -/

namespace Sys2Proof.Machine

/-- An enclosure at precision p: the value lies strictly between lo and hi units of 2^-p. -/
abbrev Enclosure := Nat → Nat × Nat

/-- The value of an enclosure with its first places decided and the rest in sticky; the precision doubles while the two
bounds still differ or too few places are known. The value is never itself a short binary fraction, so some precision
decides it (DEDUCED, log 20). -/
def settle (enc : Enclosure) (neg : Bool) (scale : Int) : Nat → Nat → Exact
  | 0, p =>
    let (lo, _) := enc p
    ⟨neg, lo >>> 48, scale + 48 - (p : Int), true⟩
  | fuel + 1, p =>
    let (lo, hi) := enc p
    let m := lo >>> 48
    if m = hi >>> 48 && decide (2 ^ 64 ≤ m) then ⟨neg, m, scale + 48 - (p : Int), true⟩
    else settle enc neg scale fuel (2 * p)

/-- The sum over k of n / ((2k + 1) * d^(2k+1)), signs alternating where alt is set, in units of one: atan(1/d) or
atanh(1/d) scaled by n. pw is the current n / d^(2k+1). -/
def atanSeries (alt : Bool) (dd : Nat) : Nat → Nat → Nat → Int → Int
  | 0, _, _, acc => acc
  | fuel + 1, k, pw, acc =>
    let t : Int := ((pw / (2 * k + 1) : Nat) : Int)
    atanSeries alt dd fuel (k + 1) (pw / dd) (if alt && k % 2 == 1 then acc - t else acc + t)

/-- Pi in units of 2^-p, to within 2^20 units, by Machin's formula. -/
def piFix (p : Nat) : Nat :=
  let one := 2 ^ p
  (16 * atanSeries true 25 (p / 4 + 8) 0 (one / 5) 0 - 4 * atanSeries true 57121 (p / 15 + 8) 0 (one / 239) 0).toNat

/-- The natural logarithm of 2 in units of 2^-p, to within 2^20 units: 2 atanh(1/3). -/
def ln2Fix (p : Nat) : Nat := (2 * atanSeries false 9 (p / 3 + 8) 0 (2 ^ p / 3) 0).toNat

/-- The sum of x^k / k! from the term t of number k on, in units of 2^-p. -/
def expSeries (p x : Nat) : Nat → Nat → Nat → Nat → Nat
  | 0, _, _, acc => acc
  | fuel + 1, k, t, acc => expSeries p x fuel (k + 1) (((t * x) >>> p) / (k + 1)) (acc + t)

/-- The alternating sum of x^(2k+1) / (2k+1)!, in units of 2^-p; x2 is the square of x. -/
def sinSeries (p x2 : Nat) : Nat → Nat → Nat → Int → Int
  | 0, _, _, acc => acc
  | fuel + 1, k, t, acc =>
    sinSeries p x2 fuel (k + 1) (((t * x2) >>> p) / ((2 * k + 2) * (2 * k + 3))) (if k % 2 = 0 then acc + (t : Int) else acc - (t : Int))

/-- 2^f for a fraction f = num / 2^den in (0, 1). -/
def exp2Enclosure (num den : Nat) : Enclosure := fun p =>
  let w := p + 32
  let x := (num * ln2Fix w) >>> den
  let s := expSeries w x (p / 2 + 16) 0 (2 ^ w) 0
  ((s - 2 ^ 30) >>> 32, ((s + 2 ^ 30) >>> 32) + 1)

/-- sin(pi * t) for t = num / 2^den in (0, 1/2). -/
def sinEnclosure (num den : Nat) : Enclosure := fun p =>
  let w := p + 32
  let x := (num * piFix w) >>> den
  let s := (sinSeries w ((x * x) >>> w) (p / 4 + 16) 0 x 0).toNat
  ((s - 2 ^ 30) >>> 32, ((s + 2 ^ 30) >>> 32) + 1)

/-- The next n binary places of log2 of a value in [1, 2), enclosed by lo and hi in units of 2^-w; none where the bounds do
not decide a place. -/
def log2Places (w : Nat) : Nat → Nat → Nat → Nat → Option Nat
  | 0, _, _, acc => some acc
  | n + 1, lo, hi, acc =>
    let l := (lo * lo) >>> w
    let h := ((hi * hi) >>> w) + 1
    if 2 ^ (w + 1) ≤ l then log2Places w n (l / 2) (h / 2 + 1) (2 * acc + 1)
    else if h < 2 ^ (w + 1) then log2Places w n l h (2 * acc)
    else none

/-- log2 of m * 2^e for m > 0 that is no power of 2: the sign, and the magnitude with sticky (R224). -/
def log2Exact (m : Nat) (e : Int) : Exact :=
  let k := m.log2
  let n : Int := e + (k : Int)
  let w := 640
  let y := (m <<< w) >>> k
  let fr := ((log2Places w 192 y y 0).getD 0 : Nat)
  let v : Int := n * (2 ^ 192 : Nat) + (fr : Int)
  if v < 0 then ⟨true, (-v).toNat - 1, -192, true⟩ else ⟨false, v.toNat, -192, true⟩

/-- 1 / b for a finite non-zero b. -/
def exactRcp (b : Exact) : Exact := exactDiv ⟨false, 1, 0, false⟩ b

/-- 1 / √b for b > 0. -/
def exactRsq (b : Exact) : Exact :=
  let odd := (b.e % 2).toNat
  let m := b.m <<< odd
  let k := 128 + m.log2
  let n := 2 ^ (2 * k)
  let r := isqrt (n / m)
  ⟨false, r, -(k : Int) - (b.e - (odd : Int)) / 2, r * r * m != n⟩

/-- 2^b for a finite non-zero b (R224). Outside -200 to 200 the value is clamped: it overflows or lies below every
FP32 place that R147 reads in any case. -/
def exactExp2 (b : Exact) : Exact :=
  if 8 < (b.m.log2 : Int) + b.e then
    if b.neg then ⟨false, 1, -400, true⟩ else ⟨false, 1, 400, false⟩
  else
    let den := (-b.e).toNat
    let mag : Nat := b.m <<< b.e.toNat
    let v : Int := if b.neg then -(mag : Int) else (mag : Int)
    let n := v / (2 ^ den : Nat)
    let num := (v % (2 ^ den : Nat)).toNat
    if num = 0 then ⟨false, 1, n, false⟩ else settle (exp2Enclosure num den) false n 3 256

/-- The position of b in half-turns modulo 2, in units of 2^-den with den at least 1. -/
def halfTurns (b : Exact) : Nat × Nat :=
  let den := (-b.e).toNat + 1
  let mag : Nat := b.m <<< (b.e + (den : Int)).toNat
  let full := 2 * 2 ^ den
  (if b.neg then (full - mag % full) % full else mag % full, den)

/-- The sine of pi times r / 2^den with 0 ≤ r < 2 * 2^den: none for zero (R224). -/
def sinHalfTurns (r den : Nat) : Option Exact :=
  let one := 2 ^ den
  let neg := decide (one ≤ r)
  let t := r % one
  if t = 0 then none
  else
    let u := if one < 2 * t then one - t else t
    if 2 * u = one then some ⟨neg, 1, 0, false⟩ else some (settle (sinEnclosure u den) neg 0 3 256)

/-- The special functions of R224. -/
inductive SpecialFn where
  | rcp
  | rsq
  | ex2
  | lg2
  | sin
  | cos
  deriving DecidableEq, Repr

/-- The exact value or the special result of a special function (R224). -/
def specialValue (fn : SpecialFn) (b : Num) : Num × Flags :=
  match fn, b with
  | _, .nan => (.nan, 0)
  | .rcp, .zero n => (.inf n, flagDz)
  | .rcp, .inf n => (.zero n, 0)
  | .rcp, .fin x => (.fin (exactRcp x), 0)
  | .rsq, .zero n => (.inf n, flagDz)
  | .rsq, .inf n => if n then (.nan, flagInv) else (.zero false, 0)
  | .rsq, .fin x => if x.neg then (.nan, flagInv) else (.fin (exactRsq x), 0)
  | .ex2, .zero _ => (.fin ⟨false, 1, 0, false⟩, 0)
  | .ex2, .inf n => if n then (.zero false, 0) else (.inf false, 0)
  | .ex2, .fin x => (.fin (exactExp2 x), 0)
  | .lg2, .zero _ => (.inf true, flagDz)
  | .lg2, .inf n => if n then (.nan, flagInv) else (.inf false, 0)
  | .lg2, .fin x =>
    if x.neg then (.nan, flagInv)
    else if x.m = 2 ^ x.m.log2 then (numOfInt (x.e + (x.m.log2 : Int)), 0)
    else (.fin (log2Exact x.m x.e), 0)
  | .sin, .zero n => (.zero n, 0)
  | .sin, .inf _ => (.nan, flagInv)
  | .sin, .fin x =>
    let (r, den) := halfTurns x
    match sinHalfTurns r den with
    | some v => (.fin v, 0)
    | none => (.zero x.neg, 0)
  | .cos, .zero _ => (.fin ⟨false, 1, 0, false⟩, 0)
  | .cos, .inf _ => (.nan, flagInv)
  | .cos, .fin x =>
    let (r, den) := halfTurns x
    match sinHalfTurns ((r + 2 ^ (den - 1)) % (2 * 2 ^ den)) den with
    | some v => (.fin v, 0)
    | none => (.zero false, 0)

/-- A special function on an FP32 code. -/
def special (fn : SpecialFn) (mode : Mode) (draw b : Nat) : Nat × Flags :=
  f32.finish mode draw (specialValue fn (f32.decode b))

end Sys2Proof.Machine
end

