-- ==== Sys2Proof/Machine/Lane.lean ====
section
/-! DEFINITION. The lane set: arithmetic, bits, moves, compares, conversions and lane exchange (chapter 09). -/

namespace Sys2Proof.Machine

/-! ## What the short opcodes compute -/

/-- A value and no flag. -/
def plain (x : Nat) : LaneOut := ⟨x, 0⟩

def LaneOut.of (r : Nat × Flags) : LaneOut := ⟨r.1, r.2⟩

/-- The draw of an element, as the D of R147. -/
def LaneIn.drawAt (x : LaneIn) (k : Nat) : Nat := (x.draws.getD k 0).toNat

/-- Element j of a packed 16-bit operand (R137). -/
def elem16 (x j : Nat) : Nat := bits x (16 * j + 15) (16 * j)

/-- A packed instruction: each element for itself, the flags the OR of the two (R223). -/
def packed2 (f : Nat → Nat × Flags) : LaneOut :=
  let r0 := f 0
  let r1 := f 1
  ⟨r0.1 + 2 ^ 16 * r1.1, r0.2 ||| r1.2⟩

/-- The low w bits of an integer. -/
def wrapped (z : Int) (w : Nat) : LaneOut := plain (wrapInt z w)

/-- Set bits among the low n. -/
def popcount (x : Nat) : Nat → Nat
  | 0 => 0
  | n + 1 => (if bit x n then 1 else 0) + popcount x n

/-- Leading zeros of the low n bits. -/
def leadingZeros (x : Nat) : Nat → Nat
  | 0 => 0
  | n + 1 => if bit x n then 0 else 1 + leadingZeros x n

/-- The low n bits of x, reversed. -/
def reversed (x : Nat) : Nat → Nat
  | 0 => 0
  | n + 1 => (if bit x 0 then 2 ^ n else 0) + reversed (x / 2) n

/-- The result of a short lane opcode in one lane (R220 to R232). lid, xset, xget, lnrd and lnrdx have their own actions. -/
def laneValue (op : LaneOp) (mode : Mode) (x : LaneIn) : LaneOut :=
  let a := x.a
  let b := x.b
  let d := x.drawAt 0
  let sa := toSigned a 32
  let sb := toSigned b 32
  match op with
  | .faddF32 => .of (f32.add mode d a b)
  | .fsubF32 => .of (f32.sub mode d a b)
  | .fmulF32 => .of (f32.mul mode d a b)
  | .fminF32 => plain (f32.minmax false a b)
  | .fmaxF32 => plain (f32.minmax true a b)
  | .fdivF32 => .of (f32.div mode d a b)
  | .fsqrtF32 => .of (f32.sqrt mode d b)
  | .daddF64 => .of (f64.add mode d a b)
  | .dsubF64 => .of (f64.sub mode d a b)
  | .dmulF64 => .of (f64.mul mode d a b)
  | .dminF64 => plain (f64.minmax false a b)
  | .dmaxF64 => plain (f64.minmax true a b)
  | .ddivF64 => .of (f64.div mode d a b)
  | .dsqrtF64 => .of (f64.sqrt mode d b)
  | .hadd2F16 => packed2 (fun j => f16.add mode (x.drawAt j) (elem16 a j) (elem16 b j))
  | .hmul2F16 => packed2 (fun j => f16.mul mode (x.drawAt j) (elem16 a j) (elem16 b j))
  | .hmin2F16 => packed2 (fun j => (f16.minmax false (elem16 a j) (elem16 b j), 0))
  | .hmax2F16 => packed2 (fun j => (f16.minmax true (elem16 a j) (elem16 b j), 0))
  | .hadd2Bf16 => packed2 (fun j => bf16.add mode (x.drawAt j) (elem16 a j) (elem16 b j))
  | .hmul2Bf16 => packed2 (fun j => bf16.mul mode (x.drawAt j) (elem16 a j) (elem16 b j))
  | .hmin2Bf16 => packed2 (fun j => (bf16.minmax false (elem16 a j) (elem16 b j), 0))
  | .hmax2Bf16 => packed2 (fun j => (bf16.minmax true (elem16 a j) (elem16 b j), 0))
  | .iaddS32 => plain ((a + b) % 2 ^ 32)
  | .isubS32 => wrapped ((a : Int) - b) 32
  | .imulS32 => plain ((a * b) % 2 ^ 32)
  | .imulhiS32 => wrapped ((sa * sb) / 2 ^ 32) 32
  | .imulhiN32 => plain ((a * b) / 2 ^ 32)
  | .iminS32 => plain (if sa < sb then a else b)
  | .iminN32 => plain (min a b)
  | .imaxS32 => plain (if sa < sb then b else a)
  | .imaxN32 => plain (max a b)
  | .iaddS64 => plain ((a + b) % 2 ^ 64)
  | .isubS64 => wrapped ((a : Int) - b) 64
  | .qaddS32 => .of (satS32 (sa + sb))
  | .qsubS32 => .of (satS32 (sa - sb))
  | .iabsS32 => plain (sb.natAbs % 2 ^ 32)
  | .inegS32 => wrapped (-sb) 32
  | .andB32 => plain (a &&& b)
  | .orB32 => plain (a ||| b)
  | .xorB32 => plain (a ^^^ b)
  | .notB32 => plain (2 ^ 32 - 1 - b)
  | .shlB32 => plain (if b ≥ 32 then 0 else (a <<< b) % 2 ^ 32)
  | .shrN32 => plain (if b ≥ 32 then 0 else a >>> b)
  | .shrS32 => wrapped (sa >>> (min b 32)) 32
  | .rotB32 => plain ((a <<< (b % 32) ||| a >>> (32 - b % 32)) % 2 ^ 32)
  | .popcB32 => plain (popcount b 32)
  | .clzB32 => plain (leadingZeros b 32)
  | .brevB32 => plain (reversed b 32)
  | .movB32 => plain b
  | .movB64 => plain b
  | .frcpF32 => .of (special .rcp mode d b)
  | .frsqF32 => .of (special .rsq mode d b)
  | .fex2F32 => .of (special .ex2 mode d b)
  | .flg2F32 => .of (special .lg2 mode d b)
  | .fsinF32 => .of (special .sin mode d b)
  | .fcosF32 => .of (special .cos mode d b)
  | .lidB32 => plain 0
  | .xset => plain 0
  | .xget => plain 0
  | .lnrdB32 => plain a
  | .lnrdxB32 => plain a

/-- The opcode works on two packed elements (R223). -/
def isPacked : LaneOp → Bool
  | .hadd2F16 | .hmul2F16 | .hadd2Bf16 | .hmul2Bf16 => true
  | _ => false

/-- Draws that a short opcode takes in each active lane (R147, R223). -/
def laneDraws (op : LaneOp) (mode : Mode) : Nat :=
  if op.shape.rounds && mode == .rsr then (if isPacked op then 2 else 1) else 0

/-- The lane's number within its group, or within its half of a ganged group (R234, R241). -/
def Group.laneNumber (g : Group) (lane : Nat) : Nat := if g.gang then lane % 16 else lane

/-- Lanes of the group or half that an exchange works in, and its first lane (R241). -/
def Group.exchange (g : Group) (lane : Nat) : Nat × Nat := if g.gang then (16, lane / 16 * 16) else (g.width, 0)

/-- Values written to D in every lane, no flag. -/
def writeVals (f : LaneForm) (vals : List (Nat × Nat)) (g : Group) : Group × List (Nat × Nat) := (g.putLanes f.d f.dw vals, vals)

/-- lid (R234). -/
def lidAct (f : LaneForm) (_ : Issue) (_ : BitVec 64) (ins : List LaneIn) (g : Group) : Group × List (Nat × Nat) :=
  writeVals f (ins.map (fun x => (x.lane, g.laneNumber x.lane))) g

/-- lnrd and lnrdx (R241, R242): every a(j) is read before any D is written. -/
def exchangeAct (f : LaneForm) (xor : Bool) (_ : Issue) (_ : BitVec 64) (ins : List LaneIn) (g : Group) :
    Group × List (Nat × Nat) :=
  let pick (x : LaneIn) : Nat :=
    let (n, base) := g.exchange x.lane
    let j := if xor then (x.lane - base) ^^^ (x.b % n) else x.b % n
    match ins.find? (fun y => y.lane == base + j) with
    | some y => y.a
    | none => x.a
  writeVals f (ins.map (fun x => (x.lane, pick x))) g

/-- xget (R235): the RSV fields read as 0. -/
def xgetAct (f : LaneForm) (k : Nat) (_ : Issue) (_ : BitVec 64) (ins : List LaneIn) (g : Group) : Group × List (Nat × Nat) :=
  writeVals f (ins.map (fun x => (x.lane, (g.readX x.lane k).toNat &&& 0x01FF00FF))) g

/-- xset (R235): each active lane's x register. -/
def xsetAct (k : Nat) (_ : Issue) (_ : BitVec 64) (ins : List LaneIn) (g : Group) : Group × List (Nat × Nat) :=
  (ins.foldl (fun g x => g.writeX x.lane k (BitVec.ofNat 32 x.b)) g, [])

/-- The data check of xset (R235): a lane whose value has an RSV bit of R116. -/
def xsetCheck (ins : List LaneIn) : Option (Nat × Map W64) :=
  match ins.filter (fun x => !(x.b &&& 0xFE00FF00 == 0)) with
  | [] => none
  | l => some (0x02, l.map (fun x => (x.lane, laneRec 0x02 0)))

/-- A field that names an x register or a predicate (R218). -/
def smallSrc : LSrc → Nat
  | .reg n => n.toNat
  | .chan _ _ => 0
  | .idx _ _ => 0
  | .uni _ => 0
  | .imm _ => 0

def smallDst : LDst → Nat
  | .reg n => n.toNat
  | .chan _ _ => 0
  | .idx _ _ => 0

/-- A short lane opcode over the extended form's fields (R171). -/
def laneShort (i : Instr) (len : Nat) (op : LaneOp) (x : LX) (s : State) : Result :=
  let sh := op.shape
  let mode := modeOf x.mod.toNat
  let f : LaneForm := ⟨x.d, sh.dw, ⟨x.a, sh.aw⟩, ⟨x.b, sh.bw⟩, noSrc, sh.ty, x.guard, laneDraws op mode, []⟩
  match op with
  | .lidB32 => laneFrame i len f s (fun _ => none) (lidAct f)
  | .lnrdB32 => laneFrame i len f s (fun _ => none) (exchangeAct f false)
  | .lnrdxB32 => laneFrame i len f s (fun _ => none) (exchangeAct f true)
  | .xget =>
    laneFrame i len { f with b := noSrc, extra := [xKey (smallSrc x.b)] } s (fun _ => none) (xgetAct f (smallSrc x.b))
  | .xset =>
    laneFrame i len { f with d := .reg 0 } s xsetCheck (xsetAct (smallDst x.d))
  | op => laneFrame i len f s (fun _ => none) (writeAct f (laneValue op mode))

/-- A short form: no guard, RNE (R170). -/
def shortLane (i : Instr) (op : LaneOp) (d a b : Operand) (s : State) : Result :=
  laneShort i 4 op ⟨asDst d, asSrc a, asSrc b, .reg 0, Guard.none, 0, 0, 0⟩ s

/-! ## The short opcodes -/

/-- FADD_F32 (R220). -/
def execFaddF32 (d a b : Operand) (s : State) : Result := shortLane (.faddF32 d a b) .faddF32 d a b s

/-- FSUB_F32 (R220). -/
def execFsubF32 (d a b : Operand) (s : State) : Result := shortLane (.fsubF32 d a b) .fsubF32 d a b s

/-- FMUL_F32 (R220). -/
def execFmulF32 (d a b : Operand) (s : State) : Result := shortLane (.fmulF32 d a b) .fmulF32 d a b s

/-- FMIN_F32 (R222). -/
def execFminF32 (d a b : Operand) (s : State) : Result := shortLane (.fminF32 d a b) .fminF32 d a b s

/-- FMAX_F32 (R222). -/
def execFmaxF32 (d a b : Operand) (s : State) : Result := shortLane (.fmaxF32 d a b) .fmaxF32 d a b s

/-- FDIV_F32 (R220). -/
def execFdivF32 (d a b : Operand) (s : State) : Result := shortLane (.fdivF32 d a b) .fdivF32 d a b s

/-- FSQRT_F32 (R220). -/
def execFsqrtF32 (d b : Operand) (s : State) : Result := shortLane (.fsqrtF32 d b) .fsqrtF32 d (.reg 0) b s

/-- DADD_F64 (R220). -/
def execDaddF64 (d a b : Operand) (s : State) : Result := shortLane (.daddF64 d a b) .daddF64 d a b s

/-- DSUB_F64 (R220). -/
def execDsubF64 (d a b : Operand) (s : State) : Result := shortLane (.dsubF64 d a b) .dsubF64 d a b s

/-- DMUL_F64 (R220). -/
def execDmulF64 (d a b : Operand) (s : State) : Result := shortLane (.dmulF64 d a b) .dmulF64 d a b s

/-- DMIN_F64 (R222). -/
def execDminF64 (d a b : Operand) (s : State) : Result := shortLane (.dminF64 d a b) .dminF64 d a b s

/-- DMAX_F64 (R222). -/
def execDmaxF64 (d a b : Operand) (s : State) : Result := shortLane (.dmaxF64 d a b) .dmaxF64 d a b s

/-- DDIV_F64 (R220). -/
def execDdivF64 (d a b : Operand) (s : State) : Result := shortLane (.ddivF64 d a b) .ddivF64 d a b s

/-- DSQRT_F64 (R220). -/
def execDsqrtF64 (d b : Operand) (s : State) : Result := shortLane (.dsqrtF64 d b) .dsqrtF64 d (.reg 0) b s

/-- HADD2_F16 (R223). -/
def execHadd2F16 (d a b : Operand) (s : State) : Result := shortLane (.hadd2F16 d a b) .hadd2F16 d a b s

/-- HMUL2_F16 (R223). -/
def execHmul2F16 (d a b : Operand) (s : State) : Result := shortLane (.hmul2F16 d a b) .hmul2F16 d a b s

/-- HMIN2_F16 (R223). -/
def execHmin2F16 (d a b : Operand) (s : State) : Result := shortLane (.hmin2F16 d a b) .hmin2F16 d a b s

/-- HMAX2_F16 (R223). -/
def execHmax2F16 (d a b : Operand) (s : State) : Result := shortLane (.hmax2F16 d a b) .hmax2F16 d a b s

/-- HADD2_BF16 (R223). -/
def execHadd2Bf16 (d a b : Operand) (s : State) : Result := shortLane (.hadd2Bf16 d a b) .hadd2Bf16 d a b s

/-- HMUL2_BF16 (R223). -/
def execHmul2Bf16 (d a b : Operand) (s : State) : Result := shortLane (.hmul2Bf16 d a b) .hmul2Bf16 d a b s

/-- HMIN2_BF16 (R223). -/
def execHmin2Bf16 (d a b : Operand) (s : State) : Result := shortLane (.hmin2Bf16 d a b) .hmin2Bf16 d a b s

/-- HMAX2_BF16 (R223). -/
def execHmax2Bf16 (d a b : Operand) (s : State) : Result := shortLane (.hmax2Bf16 d a b) .hmax2Bf16 d a b s

/-- IADD_S32 (R227). -/
def execIaddS32 (d a b : Operand) (s : State) : Result := shortLane (.iaddS32 d a b) .iaddS32 d a b s

/-- ISUB_S32 (R227). -/
def execIsubS32 (d a b : Operand) (s : State) : Result := shortLane (.isubS32 d a b) .isubS32 d a b s

/-- IMUL_S32 (R227). -/
def execImulS32 (d a b : Operand) (s : State) : Result := shortLane (.imulS32 d a b) .imulS32 d a b s

/-- IMULHI_S32 (R227). -/
def execImulhiS32 (d a b : Operand) (s : State) : Result := shortLane (.imulhiS32 d a b) .imulhiS32 d a b s

/-- IMULHI_N32 (R227). -/
def execImulhiN32 (d a b : Operand) (s : State) : Result := shortLane (.imulhiN32 d a b) .imulhiN32 d a b s

/-- IMIN_S32 (R227). -/
def execIminS32 (d a b : Operand) (s : State) : Result := shortLane (.iminS32 d a b) .iminS32 d a b s

/-- IMIN_N32 (R227). -/
def execIminN32 (d a b : Operand) (s : State) : Result := shortLane (.iminN32 d a b) .iminN32 d a b s

/-- IMAX_S32 (R227). -/
def execImaxS32 (d a b : Operand) (s : State) : Result := shortLane (.imaxS32 d a b) .imaxS32 d a b s

/-- IMAX_N32 (R227). -/
def execImaxN32 (d a b : Operand) (s : State) : Result := shortLane (.imaxN32 d a b) .imaxN32 d a b s

/-- IADD_S64 (R227). -/
def execIaddS64 (d a b : Operand) (s : State) : Result := shortLane (.iaddS64 d a b) .iaddS64 d a b s

/-- ISUB_S64 (R227). -/
def execIsubS64 (d a b : Operand) (s : State) : Result := shortLane (.isubS64 d a b) .isubS64 d a b s

/-- QADD_S32 (R227). -/
def execQaddS32 (d a b : Operand) (s : State) : Result := shortLane (.qaddS32 d a b) .qaddS32 d a b s

/-- QSUB_S32 (R227). -/
def execQsubS32 (d a b : Operand) (s : State) : Result := shortLane (.qsubS32 d a b) .qsubS32 d a b s

/-- IABS_S32 (R227). -/
def execIabsS32 (d b : Operand) (s : State) : Result := shortLane (.iabsS32 d b) .iabsS32 d (.reg 0) b s

/-- INEG_S32 (R227). -/
def execInegS32 (d b : Operand) (s : State) : Result := shortLane (.inegS32 d b) .inegS32 d (.reg 0) b s

/-- AND_B32 (R228). -/
def execAndB32 (d a b : Operand) (s : State) : Result := shortLane (.andB32 d a b) .andB32 d a b s

/-- OR_B32 (R228). -/
def execOrB32 (d a b : Operand) (s : State) : Result := shortLane (.orB32 d a b) .orB32 d a b s

/-- XOR_B32 (R228). -/
def execXorB32 (d a b : Operand) (s : State) : Result := shortLane (.xorB32 d a b) .xorB32 d a b s

/-- NOT_B32 (R228). -/
def execNotB32 (d b : Operand) (s : State) : Result := shortLane (.notB32 d b) .notB32 d (.reg 0) b s

/-- SHL_B32 (R228). -/
def execShlB32 (d a b : Operand) (s : State) : Result := shortLane (.shlB32 d a b) .shlB32 d a b s

/-- SHR_N32 (R228). -/
def execShrN32 (d a b : Operand) (s : State) : Result := shortLane (.shrN32 d a b) .shrN32 d a b s

/-- SHR_S32 (R228). -/
def execShrS32 (d a b : Operand) (s : State) : Result := shortLane (.shrS32 d a b) .shrS32 d a b s

/-- ROT_B32 (R228). -/
def execRotB32 (d a b : Operand) (s : State) : Result := shortLane (.rotB32 d a b) .rotB32 d a b s

/-- POPC_B32 (R228). -/
def execPopcB32 (d b : Operand) (s : State) : Result := shortLane (.popcB32 d b) .popcB32 d (.reg 0) b s

/-- CLZ_B32 (R228). -/
def execClzB32 (d b : Operand) (s : State) : Result := shortLane (.clzB32 d b) .clzB32 d (.reg 0) b s

/-- BREV_B32 (R228). -/
def execBrevB32 (d b : Operand) (s : State) : Result := shortLane (.brevB32 d b) .brevB32 d (.reg 0) b s

/-- MOV_B32 (R232). -/
def execMovB32 (d b : Operand) (s : State) : Result := shortLane (.movB32 d b) .movB32 d (.reg 0) b s

/-- MOV_B64 (R232). -/
def execMovB64 (d b : Operand) (s : State) : Result := shortLane (.movB64 d b) .movB64 d (.reg 0) b s

/-- LID_B32 (R234). -/
def execLidB32 (d : Operand) (s : State) : Result := shortLane (.lidB32 d) .lidB32 d (.reg 0) (.reg 0) s

/-- XSET (R235). -/
def execXset (x : BitVec 2) (b : Operand) (s : State) : Result := shortLane (.xset x b) .xset (.reg (x.setWidth 7)) (.reg 0) b s

/-- XGET (R235). -/
def execXget (d : Operand) (x : BitVec 2) (s : State) : Result := shortLane (.xget d x) .xget d (.reg 0) (.reg (x.setWidth 7)) s

/-- FRCP_F32 (R224). -/
def execFrcpF32 (d b : Operand) (s : State) : Result := shortLane (.frcpF32 d b) .frcpF32 d (.reg 0) b s

/-- FRSQ_F32 (R224). -/
def execFrsqF32 (d b : Operand) (s : State) : Result := shortLane (.frsqF32 d b) .frsqF32 d (.reg 0) b s

/-- FEX2_F32 (R224). -/
def execFex2F32 (d b : Operand) (s : State) : Result := shortLane (.fex2F32 d b) .fex2F32 d (.reg 0) b s

/-- FLG2_F32 (R224). -/
def execFlg2F32 (d b : Operand) (s : State) : Result := shortLane (.flg2F32 d b) .flg2F32 d (.reg 0) b s

/-- FSIN_F32 (R224). -/
def execFsinF32 (d b : Operand) (s : State) : Result := shortLane (.fsinF32 d b) .fsinF32 d (.reg 0) b s

/-- FCOS_F32 (R224). -/
def execFcosF32 (d b : Operand) (s : State) : Result := shortLane (.fcosF32 d b) .fcosF32 d (.reg 0) b s

/-- LNRD_B32 (R242). -/
def execLnrdB32 (d a b : Operand) (s : State) : Result := shortLane (.lnrdB32 d a b) .lnrdB32 d a b s

/-- LNRDX_B32 (R242). -/
def execLnrdxB32 (d a b : Operand) (s : State) : Result := shortLane (.lnrdxB32 d a b) .lnrdxB32 d a b s

/-- LANE_XF (R171): the short form's operands with a guard, a mode and the extension word's sources. -/
def execLaneXf (op : LaneOp) (f : LX) (s : State) : Result := laneShort (.laneXf op f) 8 op f s

/-! ## The extended arithmetic forms -/

/-- The form of an LX instruction of a given shape (R166). -/
def lxForm (x : LX) (sh : OpShape) (draws : Nat) : LaneForm :=
  ⟨x.d, sh.dw, ⟨x.a, sh.aw⟩, ⟨x.b, sh.bw⟩, ⟨x.c, sh.cw⟩, sh.ty, x.guard, draws, []⟩

/-- Draws of an instruction that rounds n elements (R147). -/
def srDraws (mode : Mode) (n : Nat) : Nat := if mode == .rsr then n else 0

/-- FMA_F32 (R220). -/
def execFmaF32 (f : LX) (s : State) : Result :=
  let mode := modeOf f.mod.toNat
  laneOp (.fmaF32 f) 8 (lxForm f ⟨1, 1, 1, 1, .f32, true⟩ (srDraws mode 1)) (fun x => .of (f32.fma mode (x.drawAt 0) x.a x.b x.c)) s

/-- FMA_F64 (R220). -/
def execFmaF64 (f : LX) (s : State) : Result :=
  let mode := modeOf f.mod.toNat
  laneOp (.fmaF64 f) 8 (lxForm f ⟨2, 2, 2, 2, .f64, true⟩ (srDraws mode 1)) (fun x => .of (f64.fma mode (x.drawAt 0) x.a x.b x.c)) s

/-- HFMA2_F16 (R223). -/
def execHfma2F16 (f : LX) (s : State) : Result :=
  let mode := modeOf f.mod.toNat
  laneOp (.hfma2F16 f) 8 (lxForm f ⟨1, 1, 1, 1, .h16, true⟩ (srDraws mode 2))
    (fun x => packed2 (fun j => f16.fma mode (x.drawAt j) (elem16 x.a j) (elem16 x.b j) (elem16 x.c j))) s

/-- HFMA2_BF16 (R223). -/
def execHfma2Bf16 (f : LX) (s : State) : Result :=
  let mode := modeOf f.mod.toNat
  laneOp (.hfma2Bf16 f) 8 (lxForm f ⟨1, 1, 1, 1, .h16, true⟩ (srDraws mode 2))
    (fun x => packed2 (fun j => bf16.fma mode (x.drawAt j) (elem16 x.a j) (elem16 x.b j) (elem16 x.c j))) s

/-- IMAD_S32 (R227). -/
def execImadS32 (f : LX) (s : State) : Result :=
  laneOp (.imadS32 f) 8 (lxForm f ⟨1, 1, 1, 1, .s32, false⟩ 0) (fun x => plain ((x.a * x.b + x.c) % 2 ^ 32)) s

/-- IMAD_S64 (R227). -/
def execImadS64 (f : LX) (s : State) : Result :=
  laneOp (.imadS64 f) 8 (lxForm f ⟨2, 1, 1, 2, .s32, false⟩ 0)
    (fun x => wrapped (toSigned x.a 32 * toSigned x.b 32 + x.c) 64) s

/-- The signed byte dot product (R227). -/
def dot4 (a b c : Nat) : Int :=
  (List.range 4).foldl (fun t j => t + toSigned (bits a (8 * j + 7) (8 * j)) 8 * toSigned (bits b (8 * j + 7) (8 * j)) 8) (c : Int)

/-- DOT4_S8 (R227). -/
def execDot4S8 (f : LX) (s : State) : Result :=
  laneOp (.dot4S8 f) 8 (lxForm f ⟨1, 1, 1, 1, .s8, false⟩ 0) (fun x => wrapped (dot4 x.a x.b x.c) 32) s

/-- One bit of bool3 (R229). -/
def bool3Bit (tab a b c k : Nat) : Nat :=
  if bit tab (4 * (bit c k).toNat + 2 * (bit b k).toNat + (bit a k).toNat) then 2 ^ k else 0

/-- BOOL3_B32 (R229). -/
def execBool3B32 (f : LX) (s : State) : Result :=
  laneOp (.bool3B32 f) 8 (lxForm f ⟨1, 1, 1, 1, .s32, false⟩ 0)
    (fun x => plain ((List.range 32).foldl (fun t k => t + bool3Bit f.tab.toNat x.a x.b x.c k) 0)) s

/-- Byte k of bsel's result (R230). -/
def bselByte (a b c k : Nat) : Nat :=
  let sel := bits c (8 * k + 7) (8 * k)
  let e := bits (a + 2 ^ 32 * b) (8 * (sel % 8) + 7) (8 * (sel % 8))
  if bit sel 5 then 0 else if bit sel 4 then (if bit e 7 then 255 else 0) else e

/-- BSEL_B32 (R230). -/
def execBselB32 (f : LX) (s : State) : Result :=
  laneOp (.bselB32 f) 8 (lxForm f ⟨1, 1, 1, 1, .s32, false⟩ 0)
    (fun x => plain ((List.range 4).foldl (fun t k => t + 2 ^ (8 * k) * bselByte x.a x.b x.c k) 0)) s

/-- The field width that a control word gives (R231). -/
def fieldLen (b : Nat) : Nat :=
  if bits b 7 0 ≥ 32 ∨ bits b 15 8 = 0 then 0 else min (bits b 15 8) (32 - bits b 7 0)

/-- BFE_B32 (R231). -/
def execBfeB32 (f : LX) (s : State) : Result :=
  laneOp (.bfeB32 f) 8 (lxForm f ⟨1, 1, 1, 0, .s32, false⟩ 0)
    (fun x => plain (if fieldLen x.b = 0 then 0 else (x.a >>> bits x.b 7 0) % 2 ^ fieldLen x.b)) s

/-- The field inserted (R231). -/
def bitInsert (a b c : Nat) : Nat :=
  let pos := bits b 7 0
  let n := fieldLen b
  if n = 0 then c else c - 2 ^ pos * bits c (pos + n - 1) pos + 2 ^ pos * (a % 2 ^ n)

/-- BFI_B32 (R231). -/
def execBfiB32 (f : LX) (s : State) : Result :=
  laneOp (.bfiB32 f) 8 (lxForm f ⟨1, 1, 1, 1, .s32, false⟩ 0) (fun x => plain (bitInsert x.a x.b x.c)) s

/-- FRND_F32 (R225). -/
def execFrndF32 (f : LX) (s : State) : Result :=
  let mode := modeOf f.mod.toNat
  laneOp (.frndF32 f) 8 (lxForm f ⟨1, 0, 1, 0, .f32, true⟩ (srDraws mode 1)) (fun x => .of (frnd mode (x.drawAt 0) x.b)) s

/-- FCLASS_F32 (R226). -/
def execFclassF32 (f : LX) (s : State) : Result :=
  laneOp (.fclassF32 f) 8 (lxForm f ⟨1, 0, 1, 0, .f32, false⟩ 0) (fun x => plain (fclass x.b)) s

/-- MOVI (R233). -/
def execMovi (d : BitVec 7) (imm : W32) (g : Guard) (s : State) : Result :=
  laneOp (.movi d imm g) 8 ⟨.reg d, 1, noSrc, noSrc, noSrc, .s32, g, 0, []⟩ (fun _ => plain imm.toNat) s

/-! ## Compares and selects -/

/-- A predicate operand with its negation (R236, R243): pC XOR the negation bit, in every lane. -/
def Group.predOperand (g : Group) (n : Nat) (neg : Bool) : BitVec 64 := if neg then ~~~(g.predMask n) else g.predMask n

/-- A compare's predicate (R236): lanes of the active mask take the combined condition. -/
def compareAct (pd pc : Nat) (cond : LaneIn → Bool) (_ : Issue) (on : BitVec 64) (ins : List LaneIn) (g : Group) :
    Group × List (Nat × Nat) :=
  let hit := maskOf ((ins.filter cond).map (fun x => x.lane))
  (g.writePred pd on (hit &&& g.predOperand (pc % 8) (decide (8 ≤ pc))), [])

/-- A compare (R236). w: registers of an operand. -/
def compareOp (i : Instr) (f : LX) (w : Nat) (ty : ImmTy) (cond : LaneIn → Bool) (s : State) : Result :=
  laneFrame i 8 ⟨.reg 0, 0, ⟨f.a, w⟩, ⟨f.b, w⟩, noSrc, ty, f.guard, 0, []⟩ s (fun _ => none)
    (compareAct (smallDst f.d) (smallSrc f.c) cond)

/-- FCMP_F32 (R236). -/
def execFcmpF32 (f : LX) (s : State) : Result :=
  compareOp (.fcmpF32 f) f 1 .f32 (fun x => condFloat f.mod.toNat (f32.decode x.a) (f32.decode x.b)) s

/-- DCMP_F64 (R236). -/
def execDcmpF64 (f : LX) (s : State) : Result :=
  compareOp (.dcmpF64 f) f 2 .f64 (fun x => condFloat f.mod.toNat (f64.decode x.a) (f64.decode x.b)) s

/-- ICMP_S32 (R236). -/
def execIcmpS32 (f : LX) (s : State) : Result :=
  compareOp (.icmpS32 f) f 1 .s32 (fun x => condInt f.mod.toNat (toSigned x.a 32) (toSigned x.b 32)) s

/-- ICMP_N32 (R236). -/
def execIcmpN32 (f : LX) (s : State) : Result := compareOp (.icmpN32 f) f 1 .n32 (fun x => condInt f.mod.toNat x.a x.b) s

/-- ICMP_S64 (R236). -/
def execIcmpS64 (f : LX) (s : State) : Result :=
  compareOp (.icmpS64 f) f 2 .s64 (fun x => condInt f.mod.toNat (toSigned x.a 64) (toSigned x.b 64)) s

/-- ICMP_N64 (R236). -/
def execIcmpN64 (f : LX) (s : State) : Result := compareOp (.icmpN64 f) f 2 .n64 (fun x => condInt f.mod.toNat x.a x.b) s

/-- sel's choice in every lane (R238). -/
def selAct (f : LaneForm) (pc : Nat) (_ : Issue) (_ : BitVec 64) (ins : List LaneIn) (g : Group) : Group × List (Nat × Nat) :=
  let m := g.predOperand (pc % 8) (decide (8 ≤ pc))
  writeVals f (ins.map (fun x => (x.lane, if m.getLsbD x.lane then x.a else x.b))) g

/-- SEL_B32 (R238). -/
def execSelB32 (f : LX) (s : State) : Result :=
  let form : LaneForm := ⟨f.d, 1, ⟨f.a, 1⟩, ⟨f.b, 1⟩, noSrc, .s32, f.guard, 0, []⟩
  laneFrame (.selB32 f) 8 form s (fun _ => none) (selAct form (smallSrc f.c))

/-! ## Conversion -/

/-- One element converted (R239). -/
def convertOne (src dst : BitVec 8) (mode : Mode) (draw code : Nat) : Nat × Flags :=
  (Fmt.ofCode dst).convert mode draw ((Fmt.ofCode src).decode (code % 2 ^ fmtWidth src))

/-- CVT (R239). -/
def execCvt (f : LC) (s : State) : Result :=
  let mode := modeOf f.mod.toNat
  laneOp (.cvt f) 8 ⟨vDst f.d, fmtRegs f.dst, ⟨vSrc f.a, fmtRegs f.src⟩, noSrc, noSrc, .s32, f.guard, srDraws mode 1, []⟩
    (fun x => .of (convertOne f.src f.dst mode (x.drawAt 0) x.a)) s

/-- E elements converted one after another, from element j (R240). -/
def convertMany (src dst : BitVec 8) (mode : Mode) (x : LaneIn) (j : Nat) : Nat → LaneOut
  | 0 => ⟨0, 0⟩
  | n + 1 =>
    let r := convertOne src dst mode (x.drawAt j) (x.a >>> (fmtWidth src * j))
    let t := convertMany src dst mode x (j + 1) n
    ⟨r.1 * 2 ^ (fmtWidth dst * j) + t.val, r.2 ||| t.flags⟩

/-- CVTPK (R240). -/
def execCvtpk (f : LC) (s : State) : Result :=
  let mode := modeOf f.mod.toNat
  let e := (cvtpkGroup f.src f.dst).1
  let gs := (cvtpkGroup f.src f.dst).2.1
  let gd := (cvtpkGroup f.src f.dst).2.2
  laneOp (.cvtpk f) 8 ⟨vDst f.d, gd, ⟨vSrc f.a, gs⟩, noSrc, noSrc, .s32, f.guard, srDraws mode e, []⟩
    (fun x => convertMany f.src f.dst mode x 0 e) s

/-! ## Lane exchange -/

/-- The lanes of the active mask that exchange with a lane (R241). -/
def Group.peers (g : Group) (on : BitVec 64) (lane : Nat) : BitVec 64 :=
  if g.gang then (if lane < 16 then on &&& lowHalf else on &&& highHalf) else on

/-- agree's value over a set of lanes (R243). -/
def agreeValue (kind : Nat) (on q : BitVec 64) : Bool :=
  let all := on &&& ~~~q == 0
  let any := !(on &&& q == 0)
  match kind with
  | 0 => all
  | 1 => any
  | _ => all || !any

/-- AGREE (R243). -/
def execAgree (pd pa : BitVec 3) (neg : Bool) (kind : BitVec 2) (g : Guard) (s : State) : Result :=
  laneFrame (.agree pd pa neg kind g) 8 ⟨.reg 0, 0, noSrc, noSrc, noSrc, .s32, g, 0, []⟩ s (fun _ => none)
    (fun _ on _ grp =>
      let q := grp.predOperand pa.toNat neg
      let hit := maskOf ((lanesOf on).filter (fun l => agreeValue kind.toNat (grp.peers on l) q))
      (grp.writePred pd.toNat on hit, []))

/-- LMASK (R244). In a 64-lane group D is a pair: an odd D is a reserved value (DEDUCED from R112, log 15). -/
def execLmask (d : BitVec 7) (pa : BitVec 3) (neg : Bool) (g : Guard) (s : State) : Result :=
  withIssue (.lmask d pa neg g) 8 s fun c =>
    let w := if c.g.width = 64 then 2 else 1
    let form : LaneForm := ⟨.reg d, w, noSrc, noSrc, noSrc, .s32, g, 0, []⟩
    if w = 2 ∧ d.toNat % 2 = 1 then c.trap s 0x02 []
    else
      laneFrame (.lmask d pa neg g) 8 form s (fun _ => none)
        (fun _ on _ grp =>
          let q := grp.predOperand pa.toNat neg
          let mask (l : Nat) : Nat :=
            let m := (grp.peers on l &&& q).toNat
            if grp.gang ∧ 16 ≤ l then m / 2 ^ 16 else m
          writeVals form ((lanesOf on).map (fun l => (l, mask l))) grp)

/-- One level of the reduction tree (R156): neighbouring nodes combined, a lone node passed on. -/
def treeLevel (op : Nat → Nat → Nat × Flags) : List (Option Nat) → List (Option Nat) × Flags
  | [] => ([], 0)
  | [x] => ([x], 0)
  | x :: y :: r =>
    let (t, fl) := treeLevel op r
    match x, y with
    | some a, some b =>
      let v := op a b
      (some v.1 :: t, v.2 ||| fl)
    | some a, none => (some a :: t, fl)
    | none, some b => (some b :: t, fl)
    | none, none => (none :: t, fl)

/-- The root after n levels, and the flags of every node (R156, R245). -/
def treeRoot (op : Nat → Nat → Nat × Flags) : Nat → List (Option Nat) → Option Nat × Flags
  | 0, l => (l.headD none, 0)
  | n + 1, l =>
    let (t, f1) := treeLevel op l
    let (r, f2) := treeRoot op n t
    (r, f1 ||| f2)

/-- The nodes of a group or half: one for each lane, present if active (R156). -/
def nodesOf (ins : List LaneIn) (base n : Nat) : List (Option Nat) :=
  (List.range n).map (fun j =>
    match ins.find? (fun x => x.lane == base + j) with
    | some x => some x.a
    | none => none)

/-- A reduction (R245): every active lane receives its group's or half's root. -/
def reduceAct (f : LaneForm) (op : Nat → Nat → Nat × Flags) (_ : Issue) (_ : BitVec 64) (ins : List LaneIn) (g : Group) :
    Group × List (Nat × Nat) :=
  let root (lane : Nat) : Option Nat × Flags :=
    let (n, base) := g.exchange lane
    treeRoot op n.log2 (nodesOf ins base n)
  let outs := ins.map (fun x => (x.lane, root x.lane))
  let vals := outs.map (fun o => (o.1, o.2.1.getD 0))
  ((g.putLanes f.d f.dw vals).raiseFlags (outs.map (fun o => o.2.2)), vals)

/-- A reduction instruction (R245). -/
def reduceOp (i : Instr) (f : LX) (op : Nat → Nat → Nat × Flags) (s : State) : Result :=
  let form : LaneForm := ⟨f.d, 1, ⟨f.a, 1⟩, noSrc, noSrc, .s32, f.guard, 0, []⟩
  laneFrame i 8 form s (fun _ => none) (reduceAct form op)

/-- RSUM_F32 (R245, R156). -/
def execRsumF32 (f : LX) (s : State) : Result := reduceOp (.rsumF32 f) f (f32.add (modeOf f.mod.toNat) 0) s

/-- RMIN_F32 (R245). -/
def execRminF32 (f : LX) (s : State) : Result := reduceOp (.rminF32 f) f (fun a b => (f32.minmax false a b, 0)) s

/-- RMAX_F32 (R245). -/
def execRmaxF32 (f : LX) (s : State) : Result := reduceOp (.rmaxF32 f) f (fun a b => (f32.minmax true a b, 0)) s

/-- RSUM_S32 (R245). -/
def execRsumS32 (f : LX) (s : State) : Result := reduceOp (.rsumS32 f) f (fun a b => ((a + b) % 2 ^ 32, 0)) s

/-- RMIN_S32 (R245). -/
def execRminS32 (f : LX) (s : State) : Result :=
  reduceOp (.rminS32 f) f (fun a b => (if toSigned a 32 < toSigned b 32 then a else b, 0)) s

/-- RMAX_S32 (R245). -/
def execRmaxS32 (f : LX) (s : State) : Result :=
  reduceOp (.rmaxS32 f) f (fun a b => (if toSigned a 32 < toSigned b 32 then b else a, 0)) s

/-- DRAW_B32 (R300). -/
def execDrawB32 (d : BitVec 7) (g : Guard) (s : State) : Result :=
  laneOp (.drawB32 d g) 8 ⟨.reg d, 1, noSrc, noSrc, noSrc, .s32, g, 1, []⟩ (fun x => plain (x.drawAt 0)) s

end Sys2Proof.Machine
end

