-- ==== Sys2Proof/Machine/Control.lean ====
section
/-! DEFINITION. The uniform set's arithmetic, control flow and system registers (chapter 14), and REPACK. -/

namespace Sys2Proof.Machine

/-- How a uniform instruction was written: itself, its length, and what the XF twin adds (R171, R179). -/
structure UCtx where
  i : Instr
  len : Nat
  guard : Guard
  mod : BitVec 4
  deriving DecidableEq, Repr

/-- The short form (R170). -/
def UCtx.short (i : Instr) : UCtx := ⟨i, 4, Guard.none, 0⟩

/-- An extended form with its guard. -/
def UCtx.ext (i : Instr) (g : Guard) : UCtx := ⟨i, 8, g, 0⟩

/-- A uniform instruction over s registers named directly: the budget (R115), uncorrectable words (R131) and outstanding
destinations (R129) are checked, and a false guard makes it a no-op (R364). -/
def uniOp (u : UCtx) (reads writes : List Nat) (s : State) (k : Issue → Result) : Result :=
  withIssue u.i u.len s fun c =>
    if !((reads ++ writes).all (fun n => decide (n < c.g.ubud))) then c.trap s 0x05 []
    else if c.g.blocked ((reads ++ writes).map sKey) then s.hold
    else if c.g.badUni reads then c.badTrap s
    else if !c.g.guardTrue u.guard then c.skip s
    else k c

/-! ## Uniform arithmetic -/

/-- A 128-bit product's high half (R365). -/
def mulHigh (signed : Bool) (a b : W64) : W64 :=
  if signed then BitVec.ofInt 64 ((a.toInt * b.toInt) / 2 ^ 64) else BitVec.ofNat 64 ((a.toNat * b.toNat) / 2 ^ 64)

/-- The result of a uniform arithmetic opcode (R365). -/
def uniValue (op : UniOp) (a b : W64) : W64 :=
  match op with
  | .saddB64 => a + b
  | .ssubB64 => a - b
  | .smulB64 => a * b
  | .smulhiS64 => mulHigh true a b
  | .smulhiN64 => mulHigh false a b
  | .sminS64 => if a.slt b then a else b
  | .sminN64 => if a < b then a else b
  | .smaxS64 => if a.slt b then b else a
  | .smaxN64 => if a < b then b else a
  | .sandB64 => a &&& b
  | .sorB64 => a ||| b
  | .sxorB64 => a ^^^ b
  | .snotB64 => ~~~b
  | .sshlB64 => if 64 ≤ b.toNat then 0 else a <<< b.toNat
  | .sshrN64 => if 64 ≤ b.toNat then 0 else a >>> b.toNat
  | .sshrS64 => a.sshiftRight (min b.toNat 64)
  | .smovB64 => b
  | .spopcB64 => BitVec.ofNat 64 (popcount b.toNat 64)
  | .sclzB64 => BitVec.ofNat 64 (leadingZeros b.toNat 64)
  | _ => 0

/-- A uniform arithmetic instruction (R364, R365). a is none for a one-source form. -/
def uniArith (u : UCtx) (op : UniOp) (d : Operand) (a : Option Operand) (b : USrc) (s : State) : Result :=
  uniFrame u.i u.len (some d) (a.map asUSrc) (some b) u.guard s (fun x y g => (g, uniValue op x y))

/-- A short uniform form of two sources. -/
def uni2 (i : Instr) (op : UniOp) (d a b : Operand) (s : State) : Result := uniArith (UCtx.short i) op d (some a) (asUSrc b) s

/-- A short uniform form of one source. -/
def uni1 (i : Instr) (op : UniOp) (d b : Operand) (s : State) : Result := uniArith (UCtx.short i) op d none (asUSrc b) s

/-- SADD_B64 (R365). -/
def execSaddB64 (d a b : Operand) (s : State) : Result := uni2 (.saddB64 d a b) .saddB64 d a b s

/-- SSUB_B64 (R365). -/
def execSsubB64 (d a b : Operand) (s : State) : Result := uni2 (.ssubB64 d a b) .ssubB64 d a b s

/-- SMUL_B64 (R365). -/
def execSmulB64 (d a b : Operand) (s : State) : Result := uni2 (.smulB64 d a b) .smulB64 d a b s

/-- SMULHI_S64 (R365). -/
def execSmulhiS64 (d a b : Operand) (s : State) : Result := uni2 (.smulhiS64 d a b) .smulhiS64 d a b s

/-- SMULHI_N64 (R365). -/
def execSmulhiN64 (d a b : Operand) (s : State) : Result := uni2 (.smulhiN64 d a b) .smulhiN64 d a b s

/-- SMIN_S64 (R365). -/
def execSminS64 (d a b : Operand) (s : State) : Result := uni2 (.sminS64 d a b) .sminS64 d a b s

/-- SMIN_N64 (R365). -/
def execSminN64 (d a b : Operand) (s : State) : Result := uni2 (.sminN64 d a b) .sminN64 d a b s

/-- SMAX_S64 (R365). -/
def execSmaxS64 (d a b : Operand) (s : State) : Result := uni2 (.smaxS64 d a b) .smaxS64 d a b s

/-- SMAX_N64 (R365). -/
def execSmaxN64 (d a b : Operand) (s : State) : Result := uni2 (.smaxN64 d a b) .smaxN64 d a b s

/-- SAND_B64 (R365). -/
def execSandB64 (d a b : Operand) (s : State) : Result := uni2 (.sandB64 d a b) .sandB64 d a b s

/-- SOR_B64 (R365). -/
def execSorB64 (d a b : Operand) (s : State) : Result := uni2 (.sorB64 d a b) .sorB64 d a b s

/-- SXOR_B64 (R365). -/
def execSxorB64 (d a b : Operand) (s : State) : Result := uni2 (.sxorB64 d a b) .sxorB64 d a b s

/-- SNOT_B64 (R365). -/
def execSnotB64 (d b : Operand) (s : State) : Result := uni1 (.snotB64 d b) .snotB64 d b s

/-- SSHL_B64 (R365). -/
def execSshlB64 (d a b : Operand) (s : State) : Result := uni2 (.sshlB64 d a b) .sshlB64 d a b s

/-- SSHR_N64 (R365). -/
def execSshrN64 (d a b : Operand) (s : State) : Result := uni2 (.sshrN64 d a b) .sshrN64 d a b s

/-- SSHR_S64 (R365). -/
def execSshrS64 (d a b : Operand) (s : State) : Result := uni2 (.sshrS64 d a b) .sshrS64 d a b s

/-- SMOV_B64 (R365). -/
def execSmovB64 (d b : Operand) (s : State) : Result := uni1 (.smovB64 d b) .smovB64 d b s

/-- SPOPC_B64 (R365). -/
def execSpopcB64 (d b : Operand) (s : State) : Result := uni1 (.spopcB64 d b) .spopcB64 d b s

/-- SCLZ_B64 (R365). -/
def execSclzB64 (d b : Operand) (s : State) : Result := uni1 (.sclzB64 d b) .sclzB64 d b s

/-- SMOVI (R366). KIND 2 keeps the low half of s[D], which it therefore reads (R131). -/
def execSmovi (d : BitVec 7) (imm : W32) (kind : BitVec 2) (g : Guard) (s : State) : Result :=
  uniOp (.ext (.smovi d imm kind g) g) (if kind = 2 then [d.toNat] else []) [d.toNat] s fun c =>
    let old := c.g.readS d.toNat
    let x : W64 :=
      if kind = 0 then imm.signExtend 64
      else if kind = 1 then imm.setWidth 64
      else imm ++ old.extractLsb' 0 32
    c.done s (c.g.writeS d.toNat x)

/-- A uniform compare (R367). -/
def uniCompare (i : Instr) (bd : BitVec 2) (a : Operand) (b : USrc) (use neg : Bool) (bc : BitVec 2) (cond : BitVec 4)
    (signed : Bool) (g : Guard) (s : State) : Result :=
  uniFrame i 8 none (some (asUSrc a)) (some b) g s (fun x y grp =>
    let r := if signed then condInt cond.toNat x.toInt y.toInt else condInt cond.toNat x.toNat y.toNat
    (grp.writeB bd.toNat (r && (!use || (grp.readB bc.toNat != neg))), 0))

/-- SCMP_S64 (R367). -/
def execScmpS64 (bd : BitVec 2) (a : Operand) (b : USrc) (use neg : Bool) (bc : BitVec 2) (cond : BitVec 4) (g : Guard)
    (s : State) : Result :=
  uniCompare (.scmpS64 bd a b use neg bc cond g) bd a b use neg bc cond true g s

/-- SCMP_N64 (R367). -/
def execScmpN64 (bd : BitVec 2) (a : Operand) (b : USrc) (use neg : Bool) (bc : BitVec 2) (cond : BitVec 4) (g : Guard)
    (s : State) : Result :=
  uniCompare (.scmpN64 bd a b use neg bc cond g) bd a b use neg bc cond false g s

/-- SSEL (R368). -/
def execSsel (d a : Operand) (b : USrc) (bc : BitVec 2) (neg : Bool) (g : Guard) (s : State) : Result :=
  uniFrame (.ssel d a b bc neg g) 8 (some d) (some (asUSrc a)) (some b) g s (fun x y grp =>
    (grp, if grp.readB bc.toNat != neg then x else y))

/-- The field that sbfe extracts (R369). -/
def sbfeValue (signed : Bool) (a b : W64) : W64 :=
  let pos := bits b.toNat 7 0
  let len := bits b.toNat 15 8
  let n := if pos ≥ 64 ∨ len = 0 then 0 else min len (64 - pos)
  let x := (a.toNat >>> pos) % 2 ^ n
  if n = 0 then 0 else if signed then BitVec.ofInt 64 (toSigned x n) else BitVec.ofNat 64 x

/-- SBFE (R369). -/
def execSbfe (d a : Operand) (b : USrc) (signed : Bool) (g : Guard) (s : State) : Result :=
  uniFrame (.sbfe d a b signed g) 8 (some d) (some (asUSrc a)) (some b) g s (fun x y grp => (grp, sbfeValue signed x y))

/-! ## Control flow -/

/-- nop (R381). -/
def opNop (u : UCtx) (s : State) : Result := withIssue u.i u.len s fun c => c.skip s

/-- NOP (R381). -/
def execNop (s : State) : Result := opNop (.short .nop) s

/-- yield (R380): the group's place on the stage goes to a group in the wings that is ready, if there is one. -/
def opYield (u : UCtx) (s : State) : Result :=
  withIssue u.i u.len s fun c =>
    match (if c.g.guardTrue u.guard then s.wingsReady c.g else none) with
    | none => c.skip s
    | some k => c.done (s.enterStage k c.g.stage) { c.g with stage := none }

/-- YIELD (R380). -/
def execYield (s : State) : Result := opYield (.short .yield) s

/-- PKIND of the XF twin (R179): the guard names a lane predicate. -/
def UCtx.pkind (u : UCtx) : Bool := u.mod.getLsbD 0

/-- The lanes of the run that take a branch, call, return or exit (R374, R179). -/
def UCtx.takers (u : UCtx) (c : Issue) : BitVec 64 :=
  if u.pkind then c.run &&& c.g.guardMask u.guard else if c.g.guardTrue u.guard then c.run else 0

/-- The address of the next instruction. -/
def Issue.nextPc (c : Issue) : W64 := c.pc + BitVec.ofNat 64 c.len

/-- The target of an OFF24 field (R179). -/
def Issue.target (c : Issue) (off : BitVec 24) : W64 := c.pc + (off.signExtend 64 <<< 2)

/-- Taking lanes to the target, the others on (R374). -/
def Issue.branch (c : Issue) (take : BitVec 64) (target : W64) (g : Group) : Group :=
  g.place c.run [(target, take), (c.nextPc, c.run &&& ~~~take)]

/-- bra (R375). -/
def opBra (u : UCtx) (off : BitVec 24) (s : State) : Result :=
  withIssue u.i u.len s fun c => .next (s.setGroup c.gid (c.branch (u.takers c) (c.target off) c.g))

/-- BRA (R375). -/
def execBra (off : BitVec 24) (s : State) : Result := opBra (.short (.bra off)) off s

/-- brx (R375): a target that is not a multiple of 4 raises cause 0x03 (R179), if some lane takes the branch: of a brx that no lane takes the
spec does not say (log 84). -/
def opBrx (u : UCtx) (a : BitVec 7) (s : State) : Result :=
  withIssue u.i u.len s fun c =>
    if !(decide (a.toNat < c.g.ubud)) then c.trap s 0x05 []
    else if c.g.blocked [sKey a.toNat] then s.hold
    else if c.g.badUni [a.toNat] then c.badTrap s
    else
      let take := u.takers c
      let t := c.g.readS a.toNat
      if !(take == 0) && !(t.toNat % 4 == 0) then c.trap s 0x03 []
      else .next (s.setGroup c.gid (c.branch take t c.g))

/-- BRX (R375). -/
def execBrx (a : BitVec 7) (s : State) : Result := opBrx (.short (.brx a)) a s

/-- The link pair of every taking lane (R376). -/
def Group.writeLinks (g : Group) (ret : W64) : List Nat → Group
  | [] => g
  | l :: r => Group.writeLinks (g.writeWide l (g.lbud - 2) 2 ret.toNat) ret r

/-- call (R376). -/
def opCall (u : UCtx) (off : BitVec 24) (s : State) : Result :=
  withIssue u.i u.len s fun c =>
    if c.g.blocked (vKeys (c.g.lbud - 2) 2) then s.hold
    else
      let take := u.takers c
      .next (s.setGroup c.gid (c.branch take (c.target off) (c.g.writeLinks c.nextPc (lanesOf take))))

/-- CALL (R376). -/
def execCall (off : BitVec 24) (s : State) : Result := opCall (.short (.call off)) off s

/-- A lane's link pair value (R377). -/
def Group.linkOf (g : Group) (lane : Nat) : W64 := BitVec.ofNat 64 (g.readWide lane (g.lbud - 2) 2)

/-- ret (R377). -/
def opRet (u : UCtx) (s : State) : Result :=
  withIssue u.i u.len s fun c =>
    let take := u.takers c
    let bad := (lanesOf take).filter (fun l => !((c.g.linkOf l).toNat % 4 == 0))
    if c.g.blocked (vKeys (c.g.lbud - 2) 2) then s.hold
    else if c.g.badWords take (vKeys (c.g.lbud - 2) 2) then c.badTrap s
    else if !(bad == []) then c.trap s 0x03 (bad.map (fun l => (l, laneRec 0x03 (c.g.linkOf l).toNat)))
    else
      .next (s.setGroup c.gid
        (c.g.place c.run ((lanesOf take).map (fun l => (c.g.linkOf l, laneBit l)) ++ [(c.nextPc, c.run &&& ~~~take)])))

/-- RET (R377). -/
def execRet (s : State) : Result := opRet (.short .ret) s

/-- A sample that is not FREE is live (R313). -/
def Team.liveSamples (t : Team) : Bool := t.sol.samples.any (fun e => !(e.2.state == .free))

/-- Groups of a team that have not exited, other than one (R322). -/
def State.otherGroups (s : State) (team gid : Nat) : Bool :=
  s.groups.any (fun e => e.2.team == team && !(e.1 == gid) && !(e.2.live == 0))

/-- One EXPECT lowered and its phase completed if R356 allows. -/
def Meet.settle (m : Meet) : Meet :=
  if m.expect ≤ m.arrived ∧ 0 < m.arrived then { m with arrived := 0, phase := (m.phase + 1) % 2 ^ 32 } else m

/-- Every meeting point with AUTO lowered by one group's exit (R360). -/
def Team.lowerExpect (t : Team) : Team :=
  { t with mps := t.mps.map (fun e => if e.2.auto then (e.1, ({ e.2 with expect := e.2.expect - 1 } : Meet).settle) else e) }

/-- exit (R378): the taking lanes end. -/
def opExit (u : UCtx) (s : State) : Result :=
  withIssue u.i u.len s fun c =>
    let take := u.takers c
    let g1 : Group := { (c.g.place c.run [(c.nextPc, c.run &&& ~~~take)]) with
      live := c.g.live &&& ~~~take, help := c.g.help &&& ~~~take
      queries := c.g.queries.filter (fun q => !(take.getLsbD q.1) || q.2.state == .active) }
    let held : Bool :=
      match s.teams.get? c.g.team with
      | some t => t.liveSamples && !s.otherGroups c.g.team c.gid
      | none => false
    if take = 0 then c.skip s
    else if g1.live = 0 ∧ held then c.trap s 0x0F []
    else if g1.live = 0 then
      .next ((s.setGroup c.gid { g1 with wait := .exit, waitRun := take }).push (.groupExit c.gid))
    else
      let halfGone := c.g.gang && ((g1.live &&& lowHalf == 0 && !(c.g.live &&& lowHalf == 0)) ||
        (g1.live &&& highHalf == 0 && !(c.g.live &&& highHalf == 0)))
      let s1 := s.setGroup c.gid g1
      let s2 : State := if halfGone then { s1 with teams := s1.teams.modify c.g.team Team.lowerExpect } else s1
      if g1.table = [] ∧ g1.table1 = [] then
        .next ((s2.setGroup c.gid { g1 with wait := .repack }).push (.repackArrive c.gid))
      else .next s2

/-- EXIT (R378). -/
def execExit (s : State) : Result := opExit (.short .exit) s

/-- EXIT_HELP (R379): the taking lanes become helpers, and the run moves on. -/
def opExitHelp (u : UCtx) (s : State) : Result :=
  withIssue u.i u.len s fun c => c.done s { c.g with help := c.g.help ||| u.takers c }

/-- EXIT_HELP (R379). -/
def execExitHelp (g : Guard) (pkind : Bool) (s : State) : Result :=
  opExitHelp ⟨.exitHelp g pkind, 8, g, if pkind then 3 else 2⟩ s

/-- trap (R399): it completes, then raises cause 0x10 with its code. -/
def opTrap (u : UCtx) (code : BitVec 8) (s : State) : Result :=
  withIssue u.i u.len s fun c =>
    if !c.g.guardTrue u.guard then c.skip s
    else .next ((s.setGroup c.gid (c.advance c.g)).raise c.gid ⟨0x10, code.toNat, c.pc, false, 0, 0, 0, [], 0⟩)

/-- TRAP (R399). -/
def execTrap (code : BitVec 8) (s : State) : Result := opTrap (.short (.trap code)) code s

/-- ILLEGAL_INSTRUCTION (R172 check 1, R176). -/
def execIllegalInstruction (w : W32) (s : State) : Result :=
  withIssue (.illegalInstruction w) 4 s fun c =>
    let w2 := if extended (fOp w) then
        (match s.fetch c.gid c.g c.pc with
         | .words _ b => b
         | .missing _ => 0
         | .outside => 0)
      else 0
    .next (s.raise c.gid ⟨0x01, 0, c.pc, true, c.run, w, w2, [], 0⟩)

/-! ## Locked code, draws, hints -/

/-- The granules of a range of code (R386). -/
def granules (a n : Nat) : List Nat := (List.range ((a + n - 1) / 256 + 1 - a / 256)).map (fun k => a / 256 + k)

/-- Granules added while the set holds fewer than 128 (R386). The walk stops looking once the set is full. -/
def lockAdd (set : List Nat) : List Nat → List Nat
  | [] => set
  | g :: r => if set.contains g then lockAdd set r else if set.length < 128 then lockAdd (set ++ [g]) r else lockAdd set r

/-- Granules of a range that lie in a set, counted from the set (a range may be long). -/
def lockedIn (set : List Nat) (first last : Nat) : Nat := (set.filter (fun g => decide (first ≤ g) && decide (g ≤ last))).length

/-- A range's first granules, as many as could still be added (R386): the rest cannot enter the set. -/
def lockCandidates (set : List Nat) (first last : Nat) : List Nat :=
  (List.range (min (last + 1 - first) (129 + set.length))).map (fun k => first + k)

/-- The s register of a uniform source, if it names one. -/
def uRegs : USrc → List Nat
  | .reg n => [n.toNat]
  | .chan _ _ => []
  | .imm _ => []

/-- ilock (R386); B may be an immediate in the twin (R171). -/
def opIlock (u : UCtx) (d a : BitVec 7) (b : USrc) (s : State) : Result :=
  uniOp u (a.toNat :: uRegs b) [d.toNat] s fun c =>
    let base := (c.g.readS a.toNat).toNat
    let n := (c.g.uValue b 0).toNat
    match s.ctxs.get? c.g.ctx with
    | none => c.skip s
    | some x =>
      if n = 0 then c.done s ((c.g.writeS d.toNat 0).writeB 0 true)
      else if !canonical base || decide (2 ^ 64 ≤ base + n - 1) then c.done s ((c.g.writeS d.toNat 0).writeB 0 false)
      else
        let first := base / 256
        let last := (base + n - 1) / 256
        let set := lockAdd x.locked (lockCandidates x.locked first last)
        let k := lockedIn set first last
        c.done (s.setCtx c.g.ctx { x with locked := set })
          ((c.g.writeS d.toNat (BitVec.ofNat 64 (256 * k))).writeB 0 (decide (k = last + 1 - first)))

/-- ILOCK (R386). -/
def execIlock (d a b : BitVec 7) (s : State) : Result := opIlock (.short (.ilock d a b)) d a (.reg b) s

/-- iunlock (R387). A range that passes 2^64 - 1 removes nothing, as a non-canonical one (log 16). -/
def opIunlock (u : UCtx) (a : BitVec 7) (b : USrc) (s : State) : Result :=
  uniOp u (a.toNat :: uRegs b) [] s fun c =>
    let base := (c.g.readS a.toNat).toNat
    let n := (c.g.uValue b 0).toNat
    match s.ctxs.get? c.g.ctx with
    | none => c.skip s
    | some x =>
      if n = 0 ∨ canonical base = false ∨ 2 ^ 64 ≤ base + n - 1 then c.skip s
      else
        c.done (s.setCtx c.g.ctx { x with
          locked := x.locked.filter (fun g => !(decide (base / 256 ≤ g) && decide (g ≤ (base + n - 1) / 256))) }) c.g

/-- IUNLOCK (R387). -/
def execIunlock (a b : BitVec 7) (s : State) : Result := opIunlock (.short (.iunlock a b)) a (.reg b) s

/-- genkey.key (R389). -/
def opGenkeyKey (u : UCtx) (a : BitVec 7) (s : State) : Result :=
  uniOp u [a.toNat, a.toNat + 1] [] s fun c =>
    if c.g.blocked [drawKey] then s.hold else c.done s { c.g with
      key := c.g.readS (a.toNat + 1) ++ c.g.readS a.toNat, badGen := unmarkAll c.g.badGen 256 4 }

/-- GENKEY_KEY (R389). -/
def execGenkeyKey (a : BitVec 7) (s : State) : Result := opGenkeyKey (.short (.genkeyKey a)) a s

/-- genkey.ctr (R389). -/
def opGenkeyCtr (u : UCtx) (a : BitVec 7) (s : State) : Result :=
  uniOp u [a.toNat] [] s fun c =>
    if c.g.blocked [drawKey] then s.hold else c.done s { c.g with
      counter := (lanesOf c.run).foldl (fun m l => m.set l (c.g.readS a.toNat)) c.g.counter
      badGen := (lanesOf c.run).foldl (fun m l => unmarkAll m (4 * l + 2) 2) c.g.badGen }

/-- GENKEY_CTR (R389). -/
def execGenkeyCtr (a : BitVec 7) (s : State) : Result := opGenkeyCtr (.short (.genkeyCtr a)) a s

/-- genkey.strm (R389): the lane number is that of R234. -/
def opGenkeyStrm (u : UCtx) (a : BitVec 7) (s : State) : Result :=
  uniOp u [a.toNat] [] s fun c =>
    if c.g.blocked [drawKey] then s.hold else c.done s { c.g with
      stream := (lanesOf c.run).foldl (fun m l => m.set l (c.g.readS a.toNat + BitVec.ofNat 64 (c.g.laneNumber l))) c.g.stream
      badGen := (lanesOf c.run).foldl (fun m l => unmarkAll m (4 * l) 2) c.g.badGen }

/-- GENKEY_STRM (R389). -/
def execGenkeyStrm (a : BitVec 7) (s : State) : Result := opGenkeyStrm (.short (.genkeyStrm a)) a s

/-- genkey.rdkey (R389). -/
def opGenkeyRdkey (u : UCtx) (d : BitVec 7) (s : State) : Result :=
  uniOp u [] [d.toNat, d.toNat + 1] s fun c =>
    if c.g.badGen.any (fun k => decide (256 ≤ k)) then c.badTrap s
    else c.done s ((c.g.writeS d.toNat (c.g.key.extractLsb' 0 64)).writeS (d.toNat + 1) (c.g.key.extractLsb' 64 64))

/-- GENKEY_RDKEY (R389). -/
def execGenkeyRdkey (d : BitVec 7) (s : State) : Result := opGenkeyRdkey (.short (.genkeyRdkey d)) d s

/-- genkey.rd (R389). -/
def opGenkeyRd (u : UCtx) (d : BitVec 7) (s : State) : Result :=
  uniOp u [] [d.toNat, d.toNat + 1] s fun c =>
    let l := (lanesOf c.run).headD 0
    if c.g.blocked [drawKey] then s.hold
    else if c.g.badGen.any (fun k => k / 4 == l) then c.badTrap s
    else c.done s ((c.g.writeS d.toNat (c.g.counter.getD l 0)).writeS (d.toNat + 1) (c.g.stream.getD l 0))

/-- GENKEY_RD (R389). -/
def execGenkeyRd (d : BitVec 7) (s : State) : Result := opGenkeyRd (.short (.genkeyRd d)) d s

/-- The quad, module-wide, of a core (R18). -/
def quadOf (die core : Nat) : Nat := 12 * die + core / 4

/-- pwrhint (R390): HINT of the quad (R532). -/
def opPwrhint (u : UCtx) (kind : BitVec 8) (s : State) : Result :=
  withIssue u.i u.len s fun c =>
    if !c.g.guardTrue u.guard then c.skip s
    else
      let q := quadOf c.g.die c.g.core
      c.done { s with power := s.power.set q { (s.power.getD q Power.reset) with hint := kind.toNat } } c.g

/-- PWRHINT (R390). -/
def execPwrhint (kind : BitVec 8) (s : State) : Result := opPwrhint (.short (.pwrhint kind)) kind s

/-! ## System registers -/

/-- GRP_STAT (R396). -/
def Group.stat (g : Group) : Nat :=
  (if g.hnd then 1 else 0) + (if g.width = 64 then 2 ^ 6 else 0) + (if g.gang then 2 ^ 7 else 0) +
    2 ^ 32 * (g.table.length + g.table1.length)

/-- LOC_ID (R21). -/
def Group.locId (g : Group) : Nat := 2 ^ 22 * g.die + 2 ^ 18 * (g.core / 4) + 2 ^ 16 * (g.core % 4) + 2 ^ 13 * g.sub

def ChanKind.code : ChanKind → Nat
  | .disabled => 0
  | .lane => 1
  | .uniform => 2

/-- CHN_TABn (R121). -/
def Chan.reg (c : Chan) : Nat := 2 ^ 13 * c.base + 2 ^ 8 * c.count + 2 ^ 6 * c.kind.code + c.depth

/-- LYR_WAYPARTk (R92). -/
def Waypart.reg (w : Waypart) : Nat := 2 ^ 16 * w.ringFloor + 2 ^ 12 * w.err + (if w.busy then 2 ^ 11 else 0) + w.scrWays

/-- MAT_CLAIM (R253). -/
def Matrix.claimReg (m : Matrix) (pos : Nat) : Nat := 2 ^ 32 * pos + 2 ^ 24 * m.accKib + 2 ^ 16 * m.slots + m.lease

/-- What a sysrd meets. -/
inductive SysRead where
  | value (x : Nat)
  | cause (c : Nat)
  | waits
  deriving DecidableEq, Repr

/-- Work of the group that a sysrd of NUM_FLAGS waits for (R151). -/
def State.flagsPending (s : State) (gid : Nat) (g : Group) : Bool :=
  !(g.entries == []) || !(g.sbuf == []) ||
    (match s.teams.get? g.team with
     | some t => t.mat.queue.any (fun q => q.gid == gid)
     | none => false)

/-- Earlier instructions of the group may still raise a flag: a syswr of NUM_FLAGS, which takes effect in program order, waits for them (R151, R391). What a
prompt book holds is performed after the handler. -/
def State.flagsAhead (s : State) (gid : Nat) (g : Group) : Bool :=
  g.liveEntries.any (fun e => !(e.counter == .sts) && !(e.counter == .cps)) ||
    (match s.teams.get? g.team with
     | some t => t.mat.queue.any (fun q => q.gid == gid)
     | none => false)

/-- CLK_LOCAL of a core as a read finds it now (R397): it has counted on since it was last read, from 0 when its function became ready. -/
def State.clkLocal (s : State) (die core : Nat) : Nat :=
  (s.cycles.getD (coreKey die core) 0 + Config.clockAdvance (coreKey die core) s.tick) % 2 ^ 64

/-- A read of a system register leaves CLK_LOCAL at the count that it found. -/
def State.afterRead (s : State) (g : Group) (reg : Nat) : State :=
  if reg = 0x0005 then { s with cycles := s.cycles.set (coreKey g.die g.core) (s.clkLocal g.die g.core) } else s

/-- The system registers that a program reads (R391, R392). -/
def State.sysReg (s : State) (c : Issue) (reg : Nat) : SysRead :=
  let g := c.g
  if 0x0800 ≤ reg ∧ reg ≤ 0x0FFF then .cause 0x07
  else if 0x0100 ≤ reg ∧ reg < 0x0118 then
    (if s.inPartition (s.fnOf g) (quadOfSlice g.die (reg - 0x0100)) then .value (s.wayp g.die (reg - 0x0100)).reg else .cause 0x07)
  else
    match s.teams.get? g.team with
    | none => .cause 0x02
    | some t =>
      if 0x0200 ≤ reg ∧ reg < 0x0240 then .value (t.chan (reg - 0x0200)).reg
      else if 0x0308 ≤ reg ∧ reg < 0x0310 then .value (bits (t.mat.descs.getD ((reg - 0x0308) / 2) 0).toNat (64 * (reg % 2) + 63) (64 * (reg % 2)))
      else
        match reg with
        | 0x0000 => .value g.locId
        | 0x0001 => if s.flagsPending c.gid g then .waits else .value g.flags.toNat
        | 0x0002 => .value c.run.toNat
        | 0x0003 => .value g.live.toNat
        | 0x0004 => .value g.stat
        | 0x0005 => .value (s.clkLocal g.die g.core)
        | 0x0006 => .value (match s.ctxs.get? g.ctx with
          | some x => x.locked.length
          | none => 0)
        | 0x0007 => .value (g.help &&& g.live).toNat
        | 0x0300 => .value (t.mat.claimReg g.pos)
        | 0x0400 =>
          let p := s.power.getD (quadOf g.die g.core) Power.reset
          .value (2 ^ 8 * p.opp + p.pass)
        | _ => .cause 0x02

/-- sysrd (R391). -/
def opSysrd (u : UCtx) (d : BitVec 7) (reg : BitVec 15) (s : State) : Result :=
  uniOp u [] [d.toNat] s fun c =>
    match s.sysReg c reg.toNat with
    | .cause x => c.trap s x []
    | .waits => s.hold
    | .value x => c.done (s.afterRead c.g reg.toNat) (c.g.writeS d.toNat (BitVec.ofNat 64 x))

/-- SYSRD (R391). -/
def execSysrd (d : BitVec 7) (reg : BitVec 15) (s : State) : Result := opSysrd (.short (.sysrd d reg)) d reg s

/-- The layer bytes of mebibytes lo to hi - 1 of a slice discarded (R95): they read 0 when they are mapped again (R94). -/
def State.dropMib (s : State) (die slice lo hi : Nat) : State :=
  let a := layerKey die (slice * 2 ^ 24 + lo * 2 ^ 20)
  let n := (hi - lo) * 2 ^ 20
  { s with layer := s.layer.clear a n, layerBad := clearBad s.layerBad 8 a n }

/-- A write of M to SCRWAYS (R93, R94, R95). -/
def State.waypartWrite (s : State) (die slice m : Nat) : State :=
  let w := s.wayp die slice
  let put (s : State) (w : Waypart) : State := { s with waypart := s.waypart.set (die * 24 + slice) w }
  if w.busy then put s { w with err := 1 }
  else if m < w.ringFloor then put s { w with err := 2 }
  else if m = w.scrWays then put s { w with err := 0 }
  else if w.scrWays < m then (put s { w with err := 0, busy := true, scrWays := m }).push (.layerGrow die slice)
  else
    (put (s.dropMib die slice m w.scrWays) { w with err := 0, busy := true, scrWays := m, mapped := m }).push
      (.layerShrink die slice)

/-- Layer accesses of the group that have not completed (R93), those of its async operations and its matrix transfers among them (R332). -/
def State.layerPending (s : State) (gid : Nat) (g : Group) : Bool :=
  g.entries.any (fun e => e.ranges.any (fun r => r.1 == .layer) || (engineSpaces e.instr).1 == .layer || (engineSpaces e.instr).2 == .layer) ||
    g.sbuf.any (fun e => e.space == .layer) ||
    (match s.teams.get? g.team with
     | some t => t.mat.queue.any (fun q => q.gid == gid && q.op.inLayer)
     | none => false)

/-- A listed system register other than NUM_FLAGS and LYR_WAYPART, or one of the management range (R392). -/
def readOnlyReg (reg : Nat) : Bool :=
  decide (0x0800 ≤ reg ∧ reg ≤ 0x0FFF) || decide (0x0200 ≤ reg ∧ reg < 0x0240) || decide (0x0308 ≤ reg ∧ reg < 0x0310) ||
    [0x0000, 0x0002, 0x0003, 0x0004, 0x0005, 0x0006, 0x0007, 0x0300, 0x0400].contains reg

/-- syswr (R391, R9). -/
def opSyswr (u : UCtx) (reg : BitVec 15) (d : BitVec 7) (s : State) : Result :=
  uniOp u [d.toNat] [] s fun c =>
    let r := reg.toNat
    let x := (c.g.readS d.toNat).toNat
    let slice := r - 0x0100
    if r = 0x0001 then
      (if s.flagsAhead c.gid c.g then s.hold
       else if 2 ^ 6 ≤ x then c.trap s 0x02 []
       else c.done s { c.g with flags := c.g.flags &&& ~~~(BitVec.ofNat 6 x) })
    else if 0x0100 ≤ r ∧ r < 0x0118 then
      if !(s.inPartition (s.fnOf c.g) (quadOfSlice c.g.die slice)) then c.trap s 0x07 []
      else if s.layerPending c.gid c.g then s.hold
      else if !(bits x 63 24 == 0) || !(bits x 10 5 == 0) || decide (16 < bits x 4 0) then c.trap s 0x02 []
      else c.done (s.waypartWrite c.g.die slice (bits x 4 0)) c.g
    else if readOnlyReg r then c.trap s 0x07 []
    else c.trap s 0x02 []

/-- SYSWR (R391). -/
def execSyswr (reg : BitVec 15) (d : BitVec 7) (s : State) : Result := opSyswr (.short (.syswr reg d)) reg d s

/-! ## Moving lanes between groups -/

/-- repack (R382, R383 step 1): the run's lanes park. -/
def opRepack (u : UCtx) (d : BitVec 7) (key : Option (BitVec 7)) (s : State) : Result :=
  withIssue u.i u.len s fun c =>
    let keyBad : Bool := match key with
      | some v => decide (c.g.lbud ≤ v.toNat)
      | none => false
    let keys : List Nat := match key with
      | some v => [v.toNat]
      | none => []
    if c.g.gang then c.trap s 0x01 []
    else if keyBad || !(decide (d.toNat < c.g.ubud)) then c.trap s 0x05 []
    else if c.g.blocked (sKey d.toNat :: keys) then s.hold
    else if c.g.badWords c.run keys then c.badTrap s
    else if !c.g.guardTrue u.guard then c.skip s
    else
      let parkOf (l : Nat) : Parked :=
        ⟨l, c.pc, decide (u.len = 8), d.toNat, key.map (fun v => (c.g.readV l v.toNat).toNat % 2 ^ 16), c.words.1, c.words.2⟩
      let g1 : Group := { (c.g.place c.run []) with parked := c.g.parked ++ (lanesOf c.run).map parkOf }
      if g1.table = [] then .next ((s.setGroup c.gid { g1 with wait := .repack }).push (.repackArrive c.gid))
      else .next (s.setGroup c.gid g1)

/-- REPACK (R383). -/
def execRepack (d : BitVec 7) (s : State) : Result := opRepack (.short (.repack d)) d none s

/-- REPACK_KEY (R383). -/
def execRepackKey (d v : BitVec 7) (s : State) : Result := opRepack (.short (.repackKey d v)) d (some v) s

/-- The groups of a group's repack set that have not exited, by ascending group number (R382). -/
def State.repackSet (s : State) (g : Group) : List (Nat × Group) :=
  sortBy (fun a b => decide (a.2.num ≤ b.2.num)) (s.groups.filter (fun e => e.2.team == g.team && e.2.role == g.role &&
    e.2.num / 4 == g.num / 4 && !(e.2.wait == .exit)))

/-- A surviving lane of a repack: its key, its group and itself (R383 step 4). -/
structure Mover where
  key : Nat
  gid : Nat
  num : Nat
  p : Parked
  deriving DecidableEq, Repr

/-- The order of R383 step 4. -/
def Mover.le (a b : Mover) : Bool :=
  if a.key ≠ b.key then decide (a.key < b.key) else if a.num ≠ b.num then decide (a.num < b.num) else decide (a.p.lane ≤ b.p.lane)

/-- The checks of R383 step 3: one PC, equal KEYED, equal KEY. -/
def repackOk (l : List (Nat × Group)) : Bool :=
  let ps := l.flatMap (fun e => e.2.parked)
  match ps with
  | [] => true
  | p :: _ => ps.all (fun q => q.pc == p.pc && q.key.isSome == p.key.isSome) &&
      l.all (fun e => l.all (fun f => e.2.key == f.2.key))

/-- The marks of one lane's registers moved with them to another lane: w keys to a lane. -/
def moveMarks (l : List Nat) (w from_ lane : Nat) (pick : Nat → Bool) : List Nat :=
  (l.filter (fun k => k / w == from_ && pick (k % w))).map (fun k => lane * w + k % w)

/-- The values that a lane takes with it (R384), moved to a new lane of a receiving group. -/
def Group.receive (g : Group) (src : Group) (from_ lane : Nat) (pick : Nat → Bool) (pickW : Nat → Bool) : Group :=
  let g := ((List.range 256).filter pick).foldl (fun g n => g.writeV lane n (src.readV from_ n)) g
  let g := ((List.range 8).filter pickW).foldl (fun g n => g.writeW lane n (src.readW from_ n)) g
  let g := (List.range 4).foldl (fun g n => g.writeX lane n (src.readX from_ n)) g
  let g := (List.range 8).foldl (fun g n =>
    if (src.predMask n).getLsbD from_ then g.writePred n (laneBit lane) (laneBit lane) else g.writePred n (laneBit lane) 0) g
  { g with
    stream := g.stream.set lane (src.stream.getD from_ 0)
    counter := g.counter.set lane (src.counter.getD from_ 0)
    badV := g.badV ++ moveMarks src.badV 256 from_ lane pick
    badW := g.badW ++ moveMarks src.badW 48 from_ lane (fun k => pickW (k / 6))
    badX := g.badX ++ moveMarks src.badX 4 from_ lane (fun _ => true)
    badGen := g.badGen ++ moveMarks (src.badGen.filter (fun k => decide (k < 256))) 4 from_ lane (fun _ => true)
    help := if src.help.getLsbD from_ then g.help ||| laneBit lane else g.help
    queries := match src.queries.get? from_ with
      | some q => g.queries.set lane q
      | none => g.queries.erase lane }

/-- A receiving group after the move (R383 steps 5 and 6, R384). epoch numbers the free values of what was not carried. -/
def Group.refill (g : Group) (epoch : Nat) (fl : Flags) (old : Map Group) (l : List Mover) : Group :=
  let blank : Group := { g with
    v := [], x := [], w := [], stream := [], counter := [], help := 0, queries := [], parked := [], arrived := false
    undef := epoch, flags := fl, wait := .none, badV := [], badX := [], badW := [], badGen := g.badGen.filter (fun k => decide (256 ≤ k)) }
  let n := l.length
  let filled := (l.zipIdx).foldl (fun g (e : Mover × Nat) =>
    match old.get? e.1.gid with
    | some src => g.receive src e.1.p.lane e.2 (fun k => bit blank.carryV k && decide (k < blank.lbud)) (fun k => bit blank.carryW k && decide (k < blank.wbud))
    | none => g) blank
  match l with
  | [] => { filled with live := 0, table := [], wait := .exit, waitRun := allLanes 1 }
  | m :: _ =>
    { (filled.writeS m.p.d (BitVec.ofNat 64 n)) with
      live := allLanes n
      table := [(m.p.pc + (if m.p.long then 8 else 4), allLanes n)] }

/-- The set's lanes redistributed (R383 steps 4 to 6). -/
def State.repackMove (s : State) (l : List (Nat × Group)) : State :=
  let movers := sortBy Mover.le (l.flatMap (fun e => e.2.parked.map (fun p => (⟨p.key.getD 0, e.1, e.2.num, p⟩ : Mover))))
  let fl := l.foldl (fun f e => f ||| e.2.flags) 0
  let go := l.foldl (fun (a : State × List Mover) e =>
    let g1 := e.2.refill (s.nextId) fl l (a.2.take e.2.width)
    let s1 := a.1.setGroup e.1 g1
    (if g1.live = 0 then s1.push (.groupExit e.1) else s1, a.2.drop e.2.width)) (s, movers)
  { go.1 with nextId := s.nextId + 1 }

/-- A failed check (R383 step 3): every lane is restored at its repack, and every group of the set raises cause 0x02. -/
def State.repackFail (s : State) (l : List (Nat × Group)) : State :=
  l.foldl (fun s e =>
    let back := e.2.parked.foldl (fun t p => tableInsert p.pc (laneBit p.lane) t) e.2.table
    let pc := match e.2.parked with
      | p :: _ => p.pc
      | [] => 0
    let (w1, w2) : W32 × W32 := match e.2.parked with
      | p :: _ => (p.w1, p.w2)
      | [] => (0, 0)
    (s.setGroup e.1 { e.2 with table := back, parked := [], arrived := false, wait := .none }).raise e.1
      ⟨0x02, 0, pc, true, e.2.parked.foldl (fun m p => m ||| laneBit p.lane) 0, w1, w2, [], 0⟩) s

/-- The last arrival completes the repack (R383 steps 3 to 6). Each receiving group acquires on all objects first. -/
def State.repackTry (s : State) (g : Group) : State :=
  let l := s.repackSet g
  if !(l.all (fun e => e.2.arrived)) then s
  else if !repackOk l then s.repackFail l
  else
    let a := l.foldl (fun (a : State × Bool) e =>
      let (s1, ok) := a.1.acquire e.1 none
      (s1, a.2 && ok)) (s, true)
    if a.2 then a.1.repackMove (a.1.repackSet g) else a.1.push (.repackArrive ((l.headD (0, g)).1))

/-- REPACK_ARRIVE (R383 steps 2 and 3): a group with no unparked lane drains, releases and arrives. -/
def execRepackArrive (gid : Nat) (s : State) : Result :=
  wake gid (.repackArrive gid) s fun g =>
    if g.parked = [] ∨ !(g.table == []) then .next s
    else if g.arrived then .next (s.repackTry g)
    else if !(g.lds == 0) || g.unsettled then .next (s.push (.repackArrive gid))
    else
      match s.release gid none 1 with
      | (s1, false) => .next (s1.push (.repackArrive gid))
      | (s1, true) =>
        match s1.groups.get? gid with
        | none => .next s1
        | some g1 => .next ((s1.setGroup gid { g1 with arrived := true }).repackTry g1)

end Sys2Proof.Machine
end

