-- ==== Sys2Proof/Machine/Sync.lean ====
section
/-! DEFINITION. Release, acquire, meeting points and WAIT (chapter 13, R197), and the store buffer's own drain. -/

namespace Sys2Proof.Machine

/-- fence (R354): a release on all objects, then an acquire on all objects. -/
def opFence (u : UCtx) (scope : BitVec 3) (s : State) : Result :=
  withIssue u.i u.len s fun c =>
    if !c.g.guardTrue u.guard then c.skip s
    else
      match s.release c.gid none scope.toNat with
      | (s1, false) => s1.hold
      | (s1, true) =>
        match s1.acquire c.gid none with
        | (s2, false) => s2.hold
        | (s2, true) => c.finish s2 id

/-- FENCE (R354). -/
def execFence (scope : BitVec 3) (s : State) : Result := opFence (.short (.fence scope)) scope s

/-- The address of acq or rel is in its space (R355). -/
def syncAddrOk (layer : Bool) (a : Nat) : Bool :=
  if layer then bits a 63 29 == 0 && decide (bits a 28 24 ≤ 23) else canonical a

/-- acq and rel (R355): one operation on the object that covers an address. -/
def syncOp (u : UCtx) (layer : Bool) (a : BitVec 7) (s : State) (f : State → Nat → Option Nat → State × Bool) : Result :=
  uniOp u [a.toNat] [] s fun c =>
    let addr := (c.g.readS a.toNat).toNat
    if !syncAddrOk layer addr then c.trap s 0x04 []
    else
      match f s c.gid (some (s.objectOf c.g.ctx layer addr)) with
      | (s1, false) => s1.hold
      | (s1, true) => c.finish s1 id

/-- acq (R355); an acquire acts the same at every scope (R342). -/
def opAcq (u : UCtx) (layer : Bool) (a : BitVec 7) (s : State) : Result := syncOp u layer a s State.acquire

/-- ACQ (R355). -/
def execAcq (scope : BitVec 3) (layer : Bool) (a : BitVec 7) (s : State) : Result :=
  opAcq (.short (.acq scope layer a)) layer a s

/-- rel (R355). -/
def opRel (u : UCtx) (scope : BitVec 3) (layer : Bool) (a : BitVec 7) (s : State) : Result :=
  syncOp u layer a s (fun s gid o => s.release gid o scope.toNat)

/-- REL (R355). -/
def execRel (scope : BitVec 3) (layer : Bool) (a : BitVec 7) (s : State) : Result :=
  opRel (.short (.rel scope layer a)) scope layer a s

/-! ## Meeting points -/

/-- A meeting point of the issuing group's team. -/
def State.meet (s : State) (team m : Nat) : Option Meet :=
  match s.teams.get? team with
  | none => none
  | some t => t.mps.get? m

/-- A meeting point's new state. -/
def State.setMeet (s : State) (team m : Nat) (x : Meet) : State :=
  { s with teams := s.teams.modify team (fun t => { t with mps := t.mps.set m x }) }

/-- How many arrivals one issue makes (R358): the halves with a lane in the run, or 1. -/
def Issue.arrivals (c : Issue) : Nat :=
  if c.g.gang then (if c.run &&& lowHalf = 0 then 0 else 1) + (if c.run &&& highHalf = 0 then 0 else 1) else 1

/-- mparr (R358). -/
def opMparr (u : UCtx) (d m : BitVec 7) (s : State) : Result :=
  uniOp u [] [d.toNat] s fun c =>
    match s.meet c.g.team m.toNat with
    | none => c.trap s 0x04 []
    | some _ =>
      match s.release c.gid none 1 with
      | (s1, false) => s1.hold
      | (s1, true) =>
        match s1.meet c.g.team m.toNat with
        | none => .next s1
        | some p =>
          match c.still s1 with
          | none => .next s1
          | some g =>
            c.done (s1.setMeet c.g.team m.toNat ({ p with arrived := p.arrived + c.arrivals } : Meet).settle)
              (g.writeS d.toNat (BitVec.ofNat 64 p.phase))

/-- MPARR (R358). -/
def execMparr (d m : BitVec 7) (s : State) : Result := opMparr (.short (.mparr d m)) d m s

/-- mpwait (R359): a phase already completed ends it at once. -/
def opMpwait (u : UCtx) (m b : BitVec 7) (s : State) : Result :=
  uniOp u [b.toNat] [] s fun c =>
    let token := (c.g.readS b.toNat).toNat
    match s.meet c.g.team m.toNat with
    | none => c.trap s 0x04 []
    | some p =>
      if 2 ^ 32 ≤ token then c.trap s 0x04 []
      else if p.phase = token then c.waitIn s (.mpwait m.toNat token) (.mpwaitWake c.gid)
      else
        match s.acquire c.gid none with
        | (s1, false) => s1.hold
        | (s1, true) => c.finish s1 id

/-- MPWAIT (R359). -/
def execMpwait (m b : BitVec 7) (s : State) : Result := opMpwait (.short (.mpwait m b)) m b s

/-- mpinit (R357). -/
def opMpinit (u : UCtx) (m b : BitVec 7) (s : State) : Result :=
  uniOp u [b.toNat] [] s fun c =>
    let n := (c.g.readS b.toNat).toNat
    match s.meet c.g.team m.toNat with
    | none => c.trap s 0x04 []
    | some p =>
      if n = 0 ∨ 65535 < n then c.trap s 0x04 []
      else c.done (s.setMeet c.g.team m.toNat ({ p with expect := n, auto := false } : Meet).settle) c.g

/-- MPINIT (R357). -/
def execMpinit (m b : BitVec 7) (s : State) : Result := opMpinit (.short (.mpinit m b)) m b s

/-- A waiting instruction ends with an acquire on all objects (R359, R423, R437), then its group is changed and goes on. -/
def endWait (gid : Nat) (a : Act) (s : State) (f : Group → Group) : Result :=
  match s.acquire gid none with
  | (s1, false) => .next (s1.push a)
  | (s1, true) =>
    match s1.groups.get? gid with
    | none => .next s1
    | some g => .next (s1.setGroup gid (f g).resume)

/-- MPWAIT_WAKE (R359). -/
def execMpwaitWake (gid : Nat) (s : State) : Result :=
  wake gid (.mpwaitWake gid) s fun g =>
    match g.wait with
    | .mpwait m token =>
      (match s.meet g.team m with
       | none => .next s
       | some p => if p.phase = token then .next (s.push (.mpwaitWake gid)) else endWait gid (.mpwaitWake gid) s id)
    | _ => .next s

/-! ## WAIT and channels -/

/-- The limits of a WAIT are met (R197). -/
def Group.countersMet (g : Group) (l st c t : Nat) (cr : Option Nat) : Bool :=
  decide (g.lds ≤ l) && decide (g.sts ≤ st) && decide (g.cps ≤ c) && decide (g.tls ≤ t) &&
    (match cr with
     | some n => g.readC n == 0
     | none => true)

/-- wait (R197): the twin names a completion register by MOD. -/
def opWait (u : UCtx) (l st c t : BitVec 6) (s : State) : Result :=
  withIssue u.i u.len s fun x =>
    let cr : Option Nat := if u.mod.getLsbD 3 then some (u.mod.toNat % 8) else none
    if !x.g.guardTrue u.guard then x.skip s
    else if x.g.badWords x.run (cr.map cKey).toList then x.badTrap s
    else if x.g.countersMet l.toNat st.toNat c.toNat t.toNat cr then x.skip s
    else x.waitIn s (.counters l.toNat st.toNat c.toNat t.toNat cr) (.waitRelease x.gid)

/-- WAIT (R197). -/
def execWait (l st c t : BitVec 6) (s : State) : Result := opWait (.short (.wait l st c t)) l st c t s

/-- WAIT_RELEASE (R197). -/
def execWaitRelease (gid : Nat) (s : State) : Result :=
  wake gid (.waitRelease gid) s fun g =>
    match g.wait with
    | .counters l st c t cr =>
      if g.countersMet l st c t cr then .next (s.setGroup gid g.resume) else .next (s.push (.waitRelease gid))
    | _ => .next s

/-- CHANNEL_OPERATION_RESUME (R124): the group issues its instruction again, which takes its channel operations if the
entries and the room are there now, and waits again if not. -/
def execChannelOperationResume (gid : Nat) (s : State) : Result :=
  wake gid (.channelResume gid) s fun g =>
    match g.wait with
    | .channel => .next (s.setGroup gid { g with wait := .none })
    | _ => .next s

/-- STORE_BUFFER_DRAIN (R347): one entry is performed, unless an older one that it clashes with, its translation or its
place holds it back. -/
def execStoreBufferDrain (gid k : Nat) (s : State) : Result :=
  wake gid (.storeBufferDrain gid k) s fun g =>
    match g.sbuf.find? (fun e => e.id == k) with
    | none => .next s
    | some e =>
      match (s.drainOne gid e).settle gid with
      | (s1, true) => .next s1
      | (s1, false) => .next (s1.push (.storeBufferDrain gid k))

/-! ## Forced publishes between dies (R344, R515) -/

/-- A publish asked for from another die goes on where its release was made; when it is done, or its record is gone, its acknowledgement leaves. -/
def runPublishing (die num : Nat) (obj : Option Nat) (s : State) : Result :=
  match s.syncRecs.find? (fun r => r.num == num) with
  | none => .next { s with acks := ⟨die, num, obj⟩ :: s.acks }
  | some r =>
    match s.groups.get? r.gid with
    | none => .next { s with acks := ⟨die, num, obj⟩ :: s.acks }
    | some g =>
      match s.publishHere obj r g with
      | (s1, false) => .next (s1.push (.publishing die num obj))
      | (s1, true) => .next (s1.sendMsg ⟨g.die, die, .cue, .published die num obj⟩)

/-- A request of a forced publish has come to the die of its release. -/
def runForcePublish (die num : Nat) (obj : Option Nat) (s : State) : Result :=
  arrive (.forcePublish die num obj) s (runPublishing die num obj)

/-- The acknowledgement has come back: the record counts as published for the acquires of the die. -/
def runPublished (die num : Nat) (obj : Option Nat) (s : State) : Result :=
  arrive (.published die num obj) s fun s1 => .next { s1 with acks := ⟨die, num, obj⟩ :: s1.acks }

end Sys2Proof.Machine
end

