-- ==== Sys2Proof/Machine/Memory.lean ====
section
/-! DEFINITION. Loads, stores, atomics, XACC, reservoir transfers and stash windows (chapter 08, R306). -/

namespace Sys2Proof.Machine

/-! ## Issue of a memory instruction -/

/-- The registers that a form names directly lie within the budgets (R115). -/
def MemOp.budgetOk (op : MemOp) (i : Instr) (g : Group) : Bool :=
  let v (n w : Nat) : Bool := w == 0 || decide (n + w ≤ g.lbud)
  let reg (r : VReg) (w : Nat) : Bool := match r with
    | .reg n => v n.toNat w
    | .idx _ _ => true
  (if op.au then decide (op.a < g.ubud) else v op.a op.baseWidth) && v op.b op.bw && reg op.dst op.dw && reg op.c op.cw &&
    (match op.kind with
     | .resld n => decide (n < g.wbud)
     | .resst n => decide (n < g.wbud)
     | _ => true) &&
    (match sldDst i with
     | some d => decide (d < g.ubud)
     | none => true) &&
    (if op.uni && op.kind == .store then (match op.c with
      | .reg n => decide (n.toNat < g.ubud)
      | .idx _ _ => true) else true)

/-- Out-of-bound lanes of an indexed destination or data register (R117, R189 check 2). -/
def MemOp.boundFails (op : MemOp) (g : Group) (act : BitVec 64) : List (Nat × Nat) :=
  let bad (r : VReg) (w : Nat) : List (Nat × Nat) := match r with
    | .reg _ => []
    | .idx x off => if w = 0 then [] else g.outOfBound act x.toNat off.toNat w
  bad op.dst op.dw ++ bad op.c op.cw

/-- The registers that a form reads at issue, by key; act are the lanes whose data it reads. -/
def MemOp.readKeys (op : MemOp) (g : Group) (act : BitVec 64) : List Nat :=
  (match op.dst, op.c with
   | .idx x _, _ => [xKey x.toNat]
   | _, .idx x _ => if op.cw = 0 then [] else [xKey x.toNat]
   | _, _ => []) ++
  (if op.au then [sKey op.a] else vKeys op.a op.baseWidth) ++ (if op.bw = 0 then [] else vKeys op.b op.bw) ++
    (if op.cw = 0 then [] else ((lanesOf act).flatMap (fun l => vKeys (g.vregOf l op.c) op.cw)).eraseDups) ++
    (match op.kind with
     | .resst n => [wKey n]
     | _ => []) ++
    (if op.uni && op.kind == .store then (match op.c with
      | .reg n => [sKey n.toNat]
      | .idx _ _ => []) else [])

/-- A memory entry's work queued: its landing, its lanes, or its replay. -/
def State.pushEntry (s : State) (gid : Nat) (e : Entry) (op : MemOp) : State :=
  if op.kind.isAtomic then (lanesOf e.mask).foldl (fun s l =>
      s.push (if op.kind.counter = .sts then .xaccCellAdd gid e.id l else .atomicPerform gid e.id l)) s
  else if op.kind.isLoad then s.push (.loadLanding gid e.id)
  else s.push (.replay gid e.id)

/-- A memory instruction that passed its checks starts: its pages are asked for, a store whose pages are there is performed,
and every other form's work is queued (R75, R76, R194). -/
def State.startEntry (s : State) (gid : Nat) (e : Entry) (op : MemOp) : State :=
  match s.groups.get? gid with
  | none => s
  | some g =>
    if op.kind.writes && !op.kind.isAtomic then s.performStore gid g e op
    else
      let s1 := s.ask (e.owner gid) g op.kind.need (op.reqs e)
      let s2 := if s1.standing (e.owner gid) = .ready then s1 else s1.setEntry gid { e with state := .waiting }
      s2.pushEntry gid e op

/-- THE ISSUE OF A MEMORY INSTRUCTION (R189 to R196): its checks in order, its waits, its operands captured. -/
def memIssue (i : Instr) (op : MemOp) (s : State) : Result :=
  withIssue i 8 s fun c =>
    let g := c.g
    let act := c.run &&& g.guardMask op.guard
    let mask := if op.kind.skipsHelpers then act &&& ~~~g.help else act
    let helpers := if op.kind.skipsHelpers then act &&& g.help else 0
    match s.teams.get? g.team with
    | none => .fault .noIssuingGroup
    | some t =>
      let bounds := op.boundFails g (if op.kind.skipsHelpers then mask else act)
      let reads := op.readKeys g (act &&& ~~~(maskOf (bounds.map (fun b => b.1))))
      let e0 := c.memEntry op mask helpers s.nextId
      let qs := if op.uni && !g.guardTrue op.guard then [] else op.reqs e0
      if !(op.budgetOk i g) then c.trap s 0x05 []
      else if g.blocked (reads ++ e0.dsts ++ (if e0.draws = [] then [] else [drawKey])) then s.hold
      else if g.badWords (if op.uni then c.run else act) (reads ++ (if e0.draws = [] then [] else [drawKey])) then c.badTrap s
      else if op.uni && !g.guardTrue op.guard then c.skip s
      else
        match worst ((if op.uni then [] else bounds.map (fun b => (⟨b.1, 2, 0x05, b.2⟩ : LaneFail))) ++ s.reqFails g t op qs) with
        | some (cause, recs) => c.trap s cause recs
        | none =>
          let helped := if op.dw = 0 then g else (lanesOf helpers).foldl (fun g l => g.writeWide l (g.vregOf l op.dst) op.dw 0) g
          if qs = [] then c.done s helped
          else if 255 ≤ g.count op.kind.counter then s.hold
          else if g.acquiring || g.overlaps (qs.map t.rangeOf) then s.hold
          else if op.kind.writes && !op.kind.isAtomic && decide (64 < g.sbuf.length + t.linesNeeded (op.writesOf e0)) then s.hold
          else
            let rel := match op.kind.releases with
              | none => (s, !(op.kind.acquires && g.unsettled))
              | some scope => if g.unsettled then (s, false) else s.releaseAll c.gid scope (s.objectsOf g qs)
            match rel with
            | (s1, false) => s1.hold
            | (s1, true) =>
              match c.still s1 with
              | none => .next s1
              | some g1 =>
                let e := { e0 with id := s1.nextId, seq := s1.nextId, ranges := qs.map t.rangeOf }
                let h := g1.afterDraws (if e.draws = [] then 0 else 1) (lanesOf mask)
                let g2 : Group := { (c.advance h) with entries := h.entries ++ [e] }
                .next ((({ s1 with nextId := s1.nextId + 1 } : State).setGroup c.gid (g2.countUp op.kind.counter)).startEntry c.gid e op)

/-! ## The lane and uniform forms -/

/-- LD_B8 (R194). -/
def execLdB8 (f : LM) (s : State) : Result := memIssue (.ldB8 f) (lmOp (.load false) f 1 1 0) s

/-- LD_S8 (R194). -/
def execLdS8 (f : LM) (s : State) : Result := memIssue (.ldS8 f) (lmOp (.load true) f 1 1 0) s

/-- LD_B16 (R194). -/
def execLdB16 (f : LM) (s : State) : Result := memIssue (.ldB16 f) (lmOp (.load false) f 2 1 0) s

/-- LD_S16 (R194). -/
def execLdS16 (f : LM) (s : State) : Result := memIssue (.ldS16 f) (lmOp (.load true) f 2 1 0) s

/-- LD_B32 (R194). -/
def execLdB32 (f : LM) (s : State) : Result := memIssue (.ldB32 f) (lmOp (.load false) f 4 1 0) s

/-- LD_B64 (R194). -/
def execLdB64 (f : LM) (s : State) : Result := memIssue (.ldB64 f) (lmOp (.load false) f 8 2 0) s

/-- LD_B128 (R194). -/
def execLdB128 (f : LM) (s : State) : Result := memIssue (.ldB128 f) (lmOp (.load false) f 16 4 0) s

/-- ST_B8 (R194). -/
def execStB8 (f : LM) (s : State) : Result := memIssue (.stB8 f) (lmOp .store f 1 0 1) s

/-- ST_B16 (R194). -/
def execStB16 (f : LM) (s : State) : Result := memIssue (.stB16 f) (lmOp .store f 2 0 1) s

/-- ST_B32 (R194). -/
def execStB32 (f : LM) (s : State) : Result := memIssue (.stB32 f) (lmOp .store f 4 0 1) s

/-- ST_B64 (R194). -/
def execStB64 (f : LM) (s : State) : Result := memIssue (.stB64 f) (lmOp .store f 8 0 2) s

/-- ST_B128 (R194). -/
def execStB128 (f : LM) (s : State) : Result := memIssue (.stB128 f) (lmOp .store f 16 0 4) s

/-- ATOM (R206 to R209). -/
def execAtom (op : BitVec 4) (f : LA) (s : State) : Result :=
  memIssue (.atom op f) (laOp (.atom op.toNat f.order.toNat f.scope.toNat) f 0 0) s

/-- CAS (R206 to R209). -/
def execCas (c : BitVec 7) (f : LA) (s : State) : Result :=
  memIssue (.cas c f) (laOp (.cas f.order.toNat f.scope.toNat) f c 1) s

/-- XADD (R211). -/
def execXadd (f : LM) (s : State) : Result := memIssue (.xadd f) (lmOp (.xadd f.order.toNat) f 64 0 1) s

/-- XRD (R212). -/
def execXrd (f : LM) (f64? : Bool) (rm : BitVec 3) (s : State) : Result :=
  memIssue (.xrd f f64? rm) (lmOp (.xrd f64? rm.toNat) f 64 (if f64? then 2 else 1) 0) s

/-- RESLD (R306). -/
def execResld (w : BitVec 3) (f : LM) (s : State) : Result :=
  memIssue (.resld w f) { lmOp (.resld w.toNat) f 24 0 0 with align := 8 } s

/-- RESST (R306). -/
def execResst (w : BitVec 3) (f : LM) (s : State) : Result :=
  memIssue (.resst w f) { lmOp (.resst w.toNat) f 24 0 0 with align := 8 } s

/-- SLD_B32 (R195). -/
def execSldB32 (f : UM) (s : State) : Result := memIssue (.sldB32 f) (umOp false f 4) s

/-- SLD_B64 (R195). -/
def execSldB64 (f : UM) (s : State) : Result := memIssue (.sldB64 f) (umOp false f 8) s

/-- SST_B32 (R195). -/
def execSstB32 (f : UM) (s : State) : Result := memIssue (.sstB32 f) (umOp true f 4) s

/-- SST_B64 (R195). -/
def execSstB64 (f : UM) (s : State) : Result := memIssue (.sstB64 f) (umOp true f 8) s

/-! ## Events of memory instructions -/

/-- Any entry that is not held in a prompt book and still has work is performed if it can be. -/
def State.performEntry (s : State) (gid id : Nat) (g : Group) : State :=
  match g.entries.find? (fun e => e.id == id) with
  | none => s
  | some e =>
    match memOp e.instr with
    | none => s
    | some op =>
      if e.book || e.state == .faulted || op.kind.isAtomic then s
      else if e.bad then (s.countUncorr g.die).failEntry gid e 0x0B true []
      else if op.kind.isLoad then s.performLoad gid e op
      else s.performStore gid g e op

/-- ATOMIC_PERFORM (R208). -/
def execAtomicPerform (gid id lane : Nat) (s : State) : Result :=
  wake gid (.atomicPerform gid id lane) s fun _ => .next (s.performLane gid id lane (.atomicPerform gid id lane))

/-- XACC_CELL_ADD (R158, R211). -/
def execXaccCellAdd (gid id lane : Nat) (s : State) : Result :=
  wake gid (.xaccCellAdd gid id lane) s fun _ => .next (s.performLane gid id lane (.xaccCellAdd gid id lane))

/-- A store in the replay queue is tried again (R76). -/
def runReplay (gid id : Nat) (s : State) : Result :=
  wake gid (.replay gid id) s fun g => .next (s.performEntry gid id g)

/-! ## Stash windows -/

/-- stmap (R204): alignment first, then the limits. -/
def stmapCheck (t : Team) (win tb gb len : Nat) : Option Nat :=
  if !(tb % 256 == 0 && gb % 256 == 0 && len % 256 == 0) then some 0x03
  else if len = 0 ∨ 2 ^ 18 < len then some 0x04
  else if !(canonical gb && canonical ((gb + len - 1) % 2 ^ 64)) then some 0x04
  else if t.size < tb + len || t.inChannel tb len then some 0x04
  else if t.wins.any (fun e => (decide (tb < e.2.tbase + e.2.len) && decide (e.2.tbase < tb + len)) ||
      (decide (gb < e.2.gbase + e.2.len) && decide (e.2.gbase < gb + len))) then some 0x04
  else if (t.wins.get? win).isSome then some 0x04
  else none

/-- STMAP (R204). The group's own buffered stores to the range are performed first, so that sectors are filled over them
(R192). -/
def execStmap (t gl len : BitVec 7) (rw : Bool) (win : BitVec 3) (gd : Guard) (s : State) : Result :=
  uniOp (.ext (.stmap t gl len rw win gd) gd) [t.toNat, gl.toNat, len.toNat] [] s fun c =>
    let tb := (c.g.readS t.toNat).toNat
    let gb := (c.g.readS gl.toNat).toNat
    let n := (c.g.readS len.toNat).toNat
    match s.teams.get? c.g.team with
    | none => .fault .noIssuingGroup
    | some tm =>
      match stmapCheck tm win.toNat tb gb n with
      | some cause => c.trap s cause []
      | none =>
        if c.g.acquiring || c.g.overlaps [(.glob, gb, n), (.team, tb, n)] || c.g.entries.any (fun e => e.ranges.contains anyGlobal) then s.hold
        else
          match s.clearOwn c.gid none .glob gb n none with
          | (s1, false) => s1.hold
          | (s1, true) =>
            c.finish { s1 with teams := s1.teams.modify c.g.team (fun tm =>
              { tm with wins := tm.wins.set win.toNat ⟨tb, gb, n, rw, [], [], [], []⟩ }) } id

/-- The team memory under an unmapped window: valid sectors hold the window's contents (R204), and their words are written whole (R483). -/
def Team.unmap (t : Team) (win : Nat) : Team :=
  match t.wins.get? win with
  | none => t
  | some w =>
    let mem := w.valid.foldl (fun m k => m.write (w.tbase + 64 * k) (w.data.bytes (64 * k) 64)) t.mem
    let bad := w.valid.foldl (fun l k => clearBad l 4 (w.tbase + 64 * k) 64) t.bad
    { t with mem := mem, bad := bad, wins := t.wins.erase win }

/-- STUNMAP (R205): the group issues nothing further until the write-back has been performed. -/
def execStunmap (win : BitVec 3) (gd : Guard) (s : State) : Result :=
  uniOp (.ext (.stunmap win gd) gd) [] [] s fun c =>
    if c.g.unsettled then s.hold
    else
      match s.flushWindow c.g.team win.toNat (fun _ => true) false with
      | (s1, false) => s1.hold
      | (s1, true) => c.finish { s1 with teams := s1.teams.modify c.g.team (fun t => t.unmap win.toNat) } id

end Sys2Proof.Machine
end

