-- ==== Sys2Proof/Machine/Texture.lean ====
section
/-! DEFINITION. Texture sampling (R213 to R216). -/

namespace Sys2Proof.Machine

/-- A texture header (R213): w and h are the sizes of level 0, levels is LVM1. -/
structure TexHdr where
  base : Nat
  w : Nat
  h : Nat
  fmt : Nat
  lvm1 : Nat
  wrapU : Nat
  wrapV : Nat
  bilinear : Bool
  linear : Bool
  deriving DecidableEq, Repr

/-- A header read as a 256-bit number; none for a reserved value or a reserved bit (R213). A BASE that is not aligned and an LVM1 above its
limit count as reserved values, though the spec names no cause for them (log 85). -/
def texHeader (x : Nat) : Option TexHdr :=
  let w := bits x 79 64 + 1
  let h := bits x 95 80 + 1
  if !(bits x 63 0 % 256 == 0) || decide (4 < bits x 103 96) || decide ((max w h).log2 < bits x 107 104) || !(bits x 255 114 == 0) then none
  else some ⟨bits x 63 0, w, h, bits x 103 96, bits x 107 104, bits x 109 108, bits x 111 110, bit x 112, bit x 113⟩

/-- TB of R214. -/
def TexHdr.texel (t : TexHdr) : Nat :=
  match t.fmt with
  | 1 => 8
  | 2 => 16
  | _ => 4

def TexHdr.wAt (t : TexHdr) (l : Nat) : Nat := max 1 (t.w >>> l)
def TexHdr.hAt (t : TexHdr) (l : Nat) : Nat := max 1 (t.h >>> l)

/-- ROWB of R214. -/
def TexHdr.row (t : TexHdr) (l : Nat) : Nat := 256 * ((t.wAt l * t.texel + 255) / 256)

/-- LOFF of R214. -/
def TexHdr.levelOff (t : TexHdr) : Nat → Nat
  | 0 => 0
  | l + 1 => TexHdr.levelOff t l + t.row l * t.hAt l

/-- Wrap of R216; none is a zero-border texel. -/
def texWrap (mode : Nat) (i : Int) (s : Nat) : Option Nat :=
  match mode with
  | 0 => some (i % (s : Int)).toNat
  | 1 => some (max 0 (min i ((s : Int) - 1))).toNat
  | 2 =>
    let m := (i % (2 * s : Nat)).toNat
    some (if m < s then m else 2 * s - 1 - m)
  | _ => if 0 ≤ i ∧ i < s then some i.toNat else none

/-- A weighted texel: the weight in units of 2^-24, and its address, or none for a zero-border texel. -/
structure Tap where
  weight : Nat
  addr : Option Nat
  deriving DecidableEq, Repr

/-- The address of texel (x, y, l) (R214). -/
def TexHdr.texelAt (t : TexHdr) (l : Nat) (x y : Int) : Option Nat :=
  match texWrap t.wrapU x (t.wAt l), texWrap t.wrapV y (t.hAt l) with
  | some i, some j => some ((t.base + t.levelOff l + j * t.row l + i * t.texel) % 2 ^ 64)
  | _, _ => none

/-- floor(x * k) of a finite value. -/
def floorScaled (x : Num) (k : Nat) : Int :=
  match x with
  | .fin v =>
    let z : Int := (if v.neg then -(v.m * k : Nat) else (v.m * k : Nat))
    if 0 ≤ v.e then z * 2 ^ v.e.toNat else z / 2 ^ (-v.e).toNat
  | .zero _ => 0
  | .nan => 0
  | .inf _ => 0

/-- Sample(l) of R216 as taps, each weight multiplied by factor / 256. A texel of weight 0 is not read. -/
def TexHdr.sample (t : TexHdr) (u v : Num) (l factor : Nat) : List Tap :=
  if !t.bilinear then [⟨65536 * factor, t.texelAt l (floorScaled u (t.wAt l)) (floorScaled v (t.hAt l))⟩]
  else
    let x := floorScaled u (t.wAt l * 256) - 128
    let y := floorScaled v (t.hAt l * 256) - 128
    let x0 := x / 256
    let y0 := y / 256
    let a := (x - 256 * x0).toNat
    let b := (y - 256 * y0).toNat
    [⟨(256 - a) * (256 - b) * factor, t.texelAt l x0 y0⟩, ⟨a * (256 - b) * factor, t.texelAt l (x0 + 1) y0⟩,
      ⟨(256 - a) * b * factor, t.texelAt l x0 (y0 + 1)⟩, ⟨a * b * factor, t.texelAt l (x0 + 1) (y0 + 1)⟩].filter
      (fun p => !(p.weight == 0))

/-- L * 256 of R216, rounded down. -/
def texLod (lod : Num) (lvm1 : Nat) : Nat :=
  match lod with
  | .nan => 0
  | .inf neg => if neg then 0 else 256 * lvm1
  | .zero _ => 0
  | .fin x => min (floorScaled (.fin x) 256).toNat (256 * lvm1)

/-- The taps of a lane (R216). -/
def TexHdr.taps (t : TexHdr) (u v lod : Num) : List Tap :=
  let l := texLod lod t.lvm1
  if !t.linear then t.sample u v ((l / 128 + 1) / 2) 256
  else
    let l0 := l / 256
    let f := l - 256 * l0
    (if f = 256 then [] else t.sample u v l0 (256 - f)) ++ (if f = 0 then [] else t.sample u v (min (l0 + 1) t.lvm1) f)

/-- Channel k of a texel's bytes (R214), as a value; UN8X4 gives the byte. -/
def TexHdr.channel (t : TexHdr) (b : List Byte) (k : Nat) : Num :=
  let one : Num := .fin ⟨false, 1, 0, false⟩
  match t.fmt with
  | 0 => numOfInt ((b.getD k 0).toNat : Int)
  | 1 => f16.decode (ofBytes ((b.drop (2 * k)).take 2))
  | 2 => f32.decode (ofBytes ((b.drop (4 * k)).take 4))
  | 3 => if k = 0 then f32.decode (ofBytes (b.take 4)) else if k = 3 then one else .zero false
  | _ => if k < 2 then f16.decode (ofBytes ((b.drop (2 * k)).take 2)) else if k = 3 then one else .zero false

/-- The weighted sum of a channel, rounded once (R216). A zero sum is +0 (log 19). A NaN texel beside texels of +Inf and of -Inf gives NaN with no
flag: the spec does not say (log 85). -/
def TexHdr.blend (t : TexHdr) (vals : List (Nat × Num)) : Nat × Flags :=
  let has (f : Num → Bool) : Bool := vals.any (fun v => f v.2)
  let pinf := has (fun x => x == .inf false)
  let ninf := has (fun x => x == .inf true)
  let total : Option Exact := vals.foldl (fun acc v =>
    match v.2 with
    | .fin x =>
      let p := exactMul ⟨false, v.1, -24, false⟩ x
      (match acc with
       | some a => exactAdd a p
       | none => some p)
    | .zero _ => acc
    | .nan => acc
    | .inf _ => acc) none
  if has Num.isNan then (f32.nanCode, 0)
  else if pinf && ninf then (f32.nanCode, flagInv)
  else if pinf then (f32.infCode false, 0)
  else if ninf then (f32.infCode true, 0)
  else
    match total with
    | none => (0, 0)
    | some x => f32.round .rne 0 (if t.fmt = 0 then exactDiv x ⟨false, 255, 0, false⟩ else x)

/-- The four channels of a lane from its taps and the texels read (R216). -/
def TexHdr.result (t : TexHdr) (taps : List Tap) (read : Nat → List Byte) : List (Nat × Flags) :=
  (List.range 4).map (fun k => t.blend (taps.map (fun p =>
    (p.weight, match p.addr with
      | some a => t.channel (read a) k
      | none => .zero false))))

/-- The operands of a lane: u, v and the level of detail. -/
def Entry.texOperands (e : Entry) (lane : Nat) : Num × Num × Num :=
  let uv := (e.opa.getD lane 0).toNat
  (f32.decode (uv % 2 ^ 32), f32.decode (uv / 2 ^ 32 % 2 ^ 32), f32.decode ((e.opb.getD lane 0).toNat % 2 ^ 32))

/-- The taps of every lane; none where u or v is NaN or infinite (R216). -/
def Entry.texPlan (e : Entry) (t : TexHdr) : List (Nat × Option (List Tap)) :=
  (lanesOf e.mask).map (fun l =>
    let (u, v, lod) := e.texOperands l
    if u.isNan || u.isInf || v.isNan || v.isInf then (l, none) else (l, some (t.taps u v lod)))

/-- The texels that some taps read. -/
def TexHdr.reqsOf (t : TexHdr) (plan : List (Nat × Option (List Tap))) : List Req :=
  plan.flatMap (fun p =>
    match p.2 with
    | none => []
    | some taps => taps.filterMap (fun q => q.addr.map (fun a => (⟨p.1, .glob, a, t.texel⟩ : Req))))

/-- The header address of a tex. -/
def Entry.texAddr (e : Entry) : Nat := (e.uops.getD 3 0).toNat

/-- The captured header of a tex (R215). -/
def Entry.texHead (e : Entry) : Option Nat :=
  match e.res.get? 0, e.res.get? 1 with
  | some lo, some hi => some (lo.toNat + 2 ^ 128 * hi.toNat)
  | _, _ => none

/-- The entry with its header captured: from now the bytes that it reads are known (R76). -/
def Entry.captureHead (e : Entry) (x : Nat) : Entry :=
  { e with
    res := [(0, BitVec.ofNat 128 x), (1, BitVec.ofNat 128 (x / 2 ^ 128))]
    ranges := (.glob, e.texAddr, 32) :: (match texHeader x with
      | some t => (t.reqsOf (e.texPlan t)).map (fun q => (q.sp, q.a, q.n))
      | none => []) }

/-- The header read with the permissions of a load (R213). -/
def State.readHead (s : State) (gid : Nat) (g : Group) (e : Entry) : Reads :=
  s.readAll g (e.owner gid) .read [⟨(lanesOf e.mask).headD 0, .glob, e.texAddr, 32⟩]

/-- The number of a header's bytes. -/
def headOf (l : List (Req × List Byte)) : Nat := ofBytes (l.flatMap (fun r => r.2))

/-- A tex issues: it enters the group's queue and counts in LDS (R215). -/
def Issue.enterTex (c : Issue) (s : State) (e : Entry) : Result :=
  let g2 : Group := { (c.advance c.g) with entries := c.g.entries ++ [e] }
  .next ((({ s with nextId := s.nextId + 1 } : State).setGroup c.gid (g2.countUp .lds)).push (.loadLanding c.gid e.id))

def isTex (i : Instr) : Bool :=
  match i with
  | .tex _ _ _ _ _ _ _ => true
  | _ => false

/-- The texels whose address fails R60 (R189 check 4). -/
def Entry.texOutside (e : Entry) (t : TexHdr) : List Req := (t.reqsOf (e.texPlan t)).filter (fun q => !(canonical q.a))

/-- tex at issue (R215): checks, operands captured, and the header too where its page is there, with the texels' own check 4 (R189). Until a header
that waits for its page is captured, which bytes the tex reads is not known, and no later instruction waits for it (R76). -/
def execTex (d a b : BitVec 7) (bu : Bool) (cc : BitVec 7) (hint : BitVec 2) (gd : Guard) (s : State) : Result :=
  let i := Instr.tex d a b bu cc hint gd
  withIssue i 8 s fun c =>
    let g := c.g
    let act := c.run &&& g.guardMask gd
    let reads := vKeys a.toNat 2 ++ (if bu then [sLow b.toNat] else [b.toNat]) ++ [sKey cc.toNat]
    let hdr := (g.readS cc.toNat).toNat
    let okB : Bool := if bu then decide (b.toNat < g.ubud) else decide (b.toNat < g.lbud)
    if !(decide (d.toNat + 4 ≤ g.lbud) && decide (a.toNat + 2 ≤ g.lbud) && okB && decide (cc.toNat < g.ubud)) then c.trap s 0x05 []
    else if g.blocked (reads ++ vKeys d.toNat 4) then s.hold
    else if g.badWords act reads then c.badTrap s
    else if act = 0 then c.skip s
    else if !(hdr % 32 == 0) then c.trap s 0x03 []
    else if !canonical hdr then c.trap s 0x04 []
    else if 255 ≤ g.lds || g.acquiring || g.overlaps [(.glob, hdr, 32)] then s.hold
    else
      let lanes := lanesOf act
      let e : Entry := { Entry.blank i c.words c.pc act s.nextId with
        counter := .lds
        uops := [0, 0, 0, g.readS cc.toNat]
        opa := g.captureV lanes a.toNat 2
        opb := if bu then lanes.map (fun l => (l, (g.readS b.toNat).setWidth 32 |>.setWidth 128)) else g.captureV lanes b.toNat 1
        dreg := lanes.map (fun l => (l, d.toNat))
        dsts := vKeys d.toNat 4
        width := 4
        ranges := [anyGlobal] }
      match s.readHead c.gid g e with
      | .ok s1 l =>
        (match texHeader (headOf l) with
         | none => c.trap s1 0x02 []
         | some h =>
           let e1 := e.captureHead (headOf l)
           match e.texOutside h with
           | q :: r => c.trap s1 0x04 (recsOf ((q :: r).map (fun q => (q, 0x04))))
           | [] => if g.overlaps e1.ranges then s.hold else c.enterTex s1 e1)
      | .wait _ => c.enterTex s e
      | .fail _ _ _ _ => c.enterTex s e

/-- tex with its header: the texels read and the lanes written together (R216, R191). -/
def State.texSample (s : State) (gid : Nat) (g : Group) (e : Entry) (t : TexHdr) : State :=
  let plan := e.texPlan t
  let reqs := t.reqsOf plan
  let outside := e.texOutside t
  if !(outside == []) then s.failEntry gid e 0x04 false (recsOf (outside.map (fun q => (q, 0x04))))
  else
    match s.readAll g (e.owner gid) .read reqs with
    | .wait s1 => s1.waitEntry gid e (.loadLanding gid e.id)
    | .fail s1 c x recs => s1.failEntry gid e c x recs
    | .ok s1 l =>
      let read (a : Nat) : List Byte := match l.find? (fun x => x.1.a == a) with
        | some x => x.2
        | none => []
      match s1.groups.get? gid with
      | none => s1
      | some g1 =>
        let g2 := plan.foldl (fun g p =>
          let res := match p.2 with
            | none => List.replicate 4 (0, flagInv)
            | some taps => t.result taps read
          let h := if g.live.getLsbD p.1 then
              g.writeWide p.1 (e.dreg.getD p.1 0) 4 (ofBytes (res.flatMap (fun r => toBytes r.1 4))) else g
          h.raiseFlags (res.map (fun r => r.2))) g1
        s1.setGroup gid (g2.retire e)

/-- A tex with a captured header goes on to its texels; a header with a reserved value refuses it (R213). -/
def State.texGo (s : State) (gid : Nat) (e : Entry) (x : Nat) : State :=
  match texHeader x, s.groups.get? gid with
  | none, _ => s.failEntry gid { e with res := [] } 0x02 false []
  | some t, some g => s.texSample gid g e t
  | some _, none => s

/-- The landing of a tex: its header first, if it is not captured yet, then its texels. -/
def State.performTex (s : State) (gid : Nat) (g : Group) (e : Entry) : State :=
  match e.texHead with
  | some x => s.texGo gid e x
  | none =>
    match s.readHead gid g e with
    | .wait s1 => s1.waitEntry gid e (.loadLanding gid e.id)
    | .fail s1 c x recs => s1.failEntry gid e c x recs
    | .ok s1 l => (s1.setEntry gid (e.captureHead (headOf l))).texGo gid (e.captureHead (headOf l)) (headOf l)

end Sys2Proof.Machine
end

