-- ==== Sys2Proof/Machine/Engine.lean ====
section
/-! DEFINITION. The async engines: copy, lload and lstore (R118, R119, R198 to R203). -/

namespace Sys2Proof.Machine

/-- A layer range checked mebibyte by mebibyte (R87). -/
def State.layerRange (s : State) (fn die off n : Nat) : Option Nat :=
  if n = 0 then none
  else
    (List.range ((off + n - 1) / 2 ^ 20 + 1 - off / 2 ^ 20)).foldl (fun acc k =>
      match acc with
      | some c => some c
      | none => s.layerCheck fn die (max off ((off / 2 ^ 20 + k) * 2 ^ 20)) 1) none

/-- The checks that a range in layer or team space gets at issue (R198): the causes of checks 4 and 5 of R189. A global range
is met page by page. -/
def State.engineRange (s : State) (g : Group) (t : Team) (sp : Space) (a n : Nat) (write : Bool) : Option Nat × Option Nat :=
  match sp with
  | .glob => (none, none)
  | .layer => (s.layerRange (s.fnOf g) g.die a n, none)
  | .team =>
    if n = 0 then (none, none)
    else
      (if t.size < a + n then some 0x04 else none,
        if t.inChannel a n || (write && t.wins.any (fun e => !e.2.rw && decide (a < e.2.tbase + e.2.len) && decide (e.2.tbase < a + n)))
        then some 0x07 else none)

/-- The first of some checks that fails. -/
def firstSome : List (Option Nat) → Option Nat
  | [] => none
  | some c :: _ => some c
  | none :: r => firstSome r

/-- A global address reduced modulo 2^64; a layer or team offset as it is (R198). -/
def engineAddr (sp : Space) (z : Int) : Nat := if sp = .glob then wrapInt z 64 else z.toNat

/-- The completion register of an async operation (R118). -/
def cregOf (i : Instr) : Nat :=
  match i with
  | .copy _ _ _ c _ _ _ => c.toNat
  | .lload _ _ _ _ c _ _ => c.toNat
  | .lstore _ _ _ _ c _ _ => c.toNat
  | _ => 0

/-- Operations that a core's engine holds (R198). -/
def State.engineLoad (s : State) (die core eng : Nat) : Nat :=
  (s.groups.flatMap (fun x => if x.2.die = die ∧ x.2.core = core ∧ x.2.placed then
    x.2.entries.filter (fun e => engineOf e.instr == eng && !(e.state == .faulted)) else [])).length

/-- The shared checks of lload and lstore (R202): glob and lay are the two addresses; the layer rows are all checked. -/
def State.blockCheck (s : State) (g : Group) (glob lay rowBytes rows stride pitch : Nat) : Option Nat :=
  if !(rowBytes % 16 == 0 && glob % 16 == 0 && lay % 16 == 0 && stride % 16 == 0) then some 0x03
  else if rowBytes < 16 ∨ 65536 < rowBytes ∨ rows < 1 ∨ 65536 < rows ∨ 2 ^ 24 < rowBytes * rows ∨ pitch < rowBytes then some 0x04
  else firstSome ((List.range rows).map (fun r => s.layerRange (s.fnOf g) g.die (lay + r * pitch) rowBytes))

/-- The checks of copy (R201). -/
def State.copyCheck (s : State) (g : Group) (t : Team) (dsp ssp : Space) (dst src n : Nat) : Option Nat :=
  if !(dst % 16 == 0 && src % 16 == 0 && n % 16 == 0) then some 0x03
  else if 2 ^ 24 < n then some 0x04
  else
    let cd := s.engineRange g t dsp dst n true
    let cs := s.engineRange g t ssp src n false
    firstSome [cd.1, cs.1, cd.2, cs.2]

/-- A copy moves its bytes from the end, so that it reads each source byte before it writes over it (R201): its destination overlaps its source
from above in one space. -/
def movesBack (dsp ssp : Space) (dst src n : Nat) : Bool := dsp == ssp && decide (src < dst) && decide (dst < src + n)

/-- The addresses in a space of a byte of another space that lies in a stash window, whose team side and global side are the same bytes (R108). -/
def Team.twinOf (t : Team) (to_ sp : Space) (a : Nat) : Option Nat :=
  match t.windowAt sp a with
  | none => none
  | some (k, off) =>
    (t.wins.get? k).bind (fun w =>
      match to_ with
      | .team => some (w.tbase + off)
      | .glob => some (w.gbase + off)
      | .layer => none)

/-- Some bytes of a copy's destination are bytes of its source, which lies in the other space, through a stash window: the copy keeps them as it is to
read them (R201). -/
def State.keepSource (s : State) (gid id : Nat) (team : Nat) (dsp ssp : Space) (r : Remain) (qs : List Req) : State :=
  if dsp == ssp then s
  else
    match s.teams.get? team, s.groups.get? gid with
    | some t, some g =>
      qs.foldl (fun s q =>
        match t.twinOf ssp dsp q.a, t.windowAt dsp q.a with
        | some a, some (k, off) =>
          if r.src ≤ a + q.n ∧ a < r.src + r.rowBytes then
            s.setGroup gid { g with entries := (s.groups.getD gid g).entries.map (fun e =>
              if e.id = id then e.keep (.team team (s.windowTeam team k off)) (s.windowBytes team k off q.n) else e) }
          else s
        | _, _ => s) s
    | _, _ => s

/-- PITCH of a block transfer in bytes (R202). -/
def pitchOf (pitch : BitVec 12) (rowBytes : Nat) : Nat := if pitch = 0 then rowBytes else pitch.toNat * 16

/-- What an async operation is to move, from its uniform operands D, A, B and C (R198, R201, R202), or the cause that refuses
it. -/
def State.enginePlan (s : State) (g : Group) (t : Team) (i : Instr) (u : List W64) : Except Nat Remain :=
  let r (k : Nat) : Nat := (u.getD k 0).toNat
  let rowBytes := bits (r 2) 31 0
  let rows := bits (r 2) 63 32
  let st := toSigned (r 3) 64
  match i with
  | .copy _ _ _ _ dsp ssp _ =>
    (match s.copyCheck g t dsp ssp (r 0) (r 1) (r 2) with
     | some c => .error c
     | none => .ok ⟨r 0, r 1, r 2, 1, 0, 0, 0, 0, r 2, movesBack dsp ssp (r 0) (r 1) (r 2)⟩)
  | .lload _ _ _ _ _ pitch _ =>
    (match s.blockCheck g (r 1) (r 0) rowBytes rows (r 3) (pitchOf pitch rowBytes) with
     | some c => .error c
     | none => .ok ⟨r 0, r 1, rowBytes, rows, pitchOf pitch rowBytes, st, 0, 0, rowBytes * rows, false⟩)
  | .lstore _ _ _ _ _ pitch _ =>
    (match s.blockCheck g (r 0) (r 1) rowBytes rows (r 3) (pitchOf pitch rowBytes) with
     | some c => .error c
     | none => .ok ⟨r 0, r 1, rowBytes, rows, st, pitchOf pitch rowBytes, 0, 0, rowBytes * rows, false⟩)
  | _ => .error 0x02

/-- A range, and the global ranges of its bytes that lie on the team side of a stash window (R108), which is how an access to them is listed. -/
def Team.spread (t : Team) (r : Space × Nat × Nat) : List (Space × Nat × Nat) :=
  r :: t.wins.filterMap (fun e =>
    let lo := max r.2.1 e.2.tbase
    let hi := min (r.2.1 + r.2.2) (e.2.tbase + e.2.len)
    if r.1 = .team ∧ lo < hi then some (.glob, e.2.gbase + (lo - e.2.tbase), hi - lo) else none)

/-- The bytes that an async operation touches, as hazards compare them (R76). -/
def engineBytes (i : Instr) (r : Remain) : List (Space × Nat × Nat) :=
  let sp := engineSpaces i
  (List.range r.rows).flatMap (fun (k : Nat) =>
    let at_ (s : Space) (a : Nat) (p : Int) : Nat := if s = .glob then wrapInt (a + k * p) 64 else (a + k * p).toNat
    [(sp.1, at_ sp.1 r.dst r.dstPitch, r.rowBytes), (sp.2, at_ sp.2 r.src r.srcPitch, r.rowBytes)])

/-- THE ISSUE OF AN ASYNC OPERATION: it passes its checks, waits for its engine, its counter or its completion register (R119,
R196, R198) or for an earlier access of the group to its bytes (R76), and starts. One that moves nothing does nothing. -/
def engineIssue (i : Instr) (gd : Guard) (reads : List (BitVec 7)) (s : State) : Result :=
  uniOp (.ext i gd) (reads.map (fun n => n.toNat)) [] s fun c =>
    let g := c.g
    let uops := (reads.map (fun n => g.readS n.toNat)) ++ List.replicate (4 - reads.length) 0
    match s.teams.get? g.team with
    | none => .fault .noIssuingGroup
    | some t =>
      match s.enginePlan g t i uops with
      | .error cause => c.trap s cause []
      | .ok r =>
        let k := cregOf i
        if r.left = 0 then c.skip s
        else if g.badWords c.run [cKey k] then c.badTrap s
        else if g.acquiring || g.overlaps ((engineBytes i r).flatMap t.spread) then s.hold
        else if 255 ≤ g.cps || decide (0xFFFFFFFF < g.readC k + r.left) || decide (16 ≤ s.engineLoad g.die g.core (engineOf i)) then s.hold
        else
          let e : Entry := { Entry.blank i c.words c.pc c.run s.nextId with counter := .cps, uops := uops, remain := some r }
          let g1 : Group := { (c.advance (g.writeC k (g.readC k + r.left))) with entries := g.entries ++ [e] }
          .next ((({ s with nextId := s.nextId + 1 } : State).setGroup c.gid (g1.countUp .cps)).push (.engineUnitLand c.gid e.id))

/-- COPY (R198, R201). -/
def execCopy (d a b : BitVec 7) (c : BitVec 3) (dsp ssp : Space) (gd : Guard) (s : State) : Result :=
  engineIssue (.copy d a b c dsp ssp gd) gd [d, a, b] s

/-- LLOAD (R202). -/
def execLload (d a b c : BitVec 7) (cr : BitVec 3) (pitch : BitVec 12) (gd : Guard) (s : State) : Result :=
  engineIssue (.lload d a b c cr pitch gd) gd [d, a, b, c] s

/-- LSTORE (R202). -/
def execLstore (d a b c : BitVec 7) (cr : BitVec 3) (pitch : BitVec 12) (gd : Guard) (s : State) : Result :=
  engineIssue (.lstore d a b c cr pitch gd) gd [d, a, b, c] s

/-! ## One unit -/

/-- The next unit (R199): the destination, the source and the length; it never crosses a 256-byte boundary of the destination. -/
def Remain.unit (r : Remain) : Int × Int × Nat :=
  let d : Int := r.dst + r.row * r.dstPitch
  let s : Int := r.src + r.row * r.srcPitch
  let m := r.rowBytes - r.done
  if r.back then
    let n := min m (((r.dst + m - 1) % 256) + 1)
    (d + (m - n : Nat), s + (m - n : Nat), n)
  else
    let n := min m (256 - ((d + r.done) % 256).toNat)
    (d + r.done, s + r.done, n)

/-- The work after one unit of n bytes. -/
def Remain.after (r : Remain) (n : Nat) : Remain :=
  if r.done + n = r.rowBytes then { r with row := r.row + 1, done := 0, left := r.left - n } else { r with done := r.done + n, left := r.left - n }

/-- A run of bytes as accesses of 16 bytes. -/
def pieces (sp : Space) (a n : Nat) : List Req := (List.range (n / 16)).map (fun k => ⟨0, sp, a + 16 * k, 16⟩)

/-- The pieces that lie in no window, at their places (R32). -/
def State.piecePlaces (s : State) (g : Group) (t : Team) (o : Owner) (l : List (Req × List Byte)) : List (Loc × List Byte) :=
  l.filterMap (fun e =>
    if (t.windowAt e.1.sp e.1.a).isSome then none
    else
      match s.placeAt g o .write e.1.sp e.1.a with
      | .at p => some (p, e.2)
      | .wait => none
      | .fails _ => none)

/-- Bytes written at translated places (R199): neighbouring pieces together, so that a codeword that they cover is covered whole (R52), and a
window's pieces merged into its sectors. -/
def State.writePieces (s : State) (g : Group) (o : Owner) (l : List (Req × List Byte)) : State :=
  match s.teams.get? g.team with
  | none => s
  | some t =>
    let s1 := l.foldl (fun s e =>
      match t.windowAt e.1.sp e.1.a with
      | some (k, off) => s.windowWrite g.team k off e.2
      | none => s) s
    (mergeRuns (s.piecePlaces g t o l)).foldl (fun s r => s.writeAt r.1 r.2) s1

/-- What stops some pieces that are to be written: nothing, a wait, or a cause (R56, R87, R189). A piece in a read-only window is refused
like a store there (R108): log 82. -/
def State.writeStop (s : State) (g : Group) (t : Team) (o : Owner) (qs : List Req) : Option (Option Nat) :=
  match (s.writeRefused g t o .write qs).map (fun f => f.2) with
  | c :: _ => some (some c)
  | [] =>
    if qs.any (fun q => t.placeCheck q true false && !(q.sp == .team)) then some (some 0x07)
    else
      qs.foldl (fun acc q =>
        match acc with
        | some x => some x
        | none =>
          if (t.windowAt q.sp q.a).isSome then none
          else
            match s.placeAt g o .write q.sp q.a with
            | .at _ => none
            | .wait => some none
            | .fails c => some (some c)) none

/-- What became of a unit. -/
inductive UnitEnd where
  | moved (s : State)
  | wait (s : State)
  | fail (s : State) (cause : Nat) (context : Bool) (addr : W64)

/-- The address of the first of some requests. -/
def firstAddr (qs : List Req) : W64 := BitVec.ofNat 64 ((qs.map (fun q => q.a)).headD 0)

/-- A run of addresses made ready to be written (R199): their pages allow it (check 6 of R189 first), their window sectors are filled, and the group's
own earlier stores to them are performed (R192, R200). -/
def State.readyRun (s : State) (gid : Nat) (g : Group) (o : Owner) (order : Option Nat) (qs : List Req) : UnitEnd :=
  if !(qs.all (fun q => !(q.sp == .glob) || canonical q.a)) then .fail s 0x04 false (firstAddr (qs.filter (fun q => !(canonical q.a))))
  else
    let s1 := s.ask o g .write qs
    match s1.standing o, s1.teams.get? g.team with
    | _, none => .wait s1
    | .waiting, some _ => .wait s1
    | .refused c x, some t => .fail (s1.dropWaits o) c x (addrOf (s1.refusedRecs o t qs))
    | .ready, some t =>
      if qs.any (fun q => match t.globalOf q with
        | some a => s1.writeAhead gid g order a q.n (if (t.windowAt q.sp q.a).isSome then none else s1.ownHpa g o .write q.sp q.a)
        | none => false) then .wait s1
      else
      match s1.writeStop g t o qs with
      | some (some c) => .fail (s1.dropWaits o) c false (firstAddr qs)
      | some none => .wait s1
      | none =>
        match s1.fillAll g o (qs.filterMap t.fillOf) with
        | (s2, .wait, _) => .wait s2
        | (s2, .fails c, _) => .fail (s2.dropWaits o) c false (firstAddr qs)
        | (s2, .bytes _, _) =>
          match s2.clearOwnAll gid order g o .write qs with
          | (s3, false) => .wait s3
          | (s3, true) => .moved s3

/-- Bytes written at a run of addresses once it is ready (R199). -/
def State.putRun (s : State) (gid : Nat) (g : Group) (o : Owner) (order : Option Nat) (qs : List Req) (b : List (List Byte)) : UnitEnd :=
  match s.readyRun gid g o order qs with
  | .moved s1 => .moved ((s1.writePieces g o (qs.zip b)).dropWaits o)
  | r => r

/-- Bytes of a run of addresses, in order, once their pages allow it. -/
def State.getRun (s : State) (g : Group) (o : Owner) (qs : List Req) : Reads :=
  if !(qs.all (fun q => !(q.sp == .glob) || canonical q.a)) then .fail s 0x04 false (recsOf ((qs.filter (fun q => !(canonical q.a))).map (fun q => (q, 0x04))))
  else s.readAll g o .read qs

/-- One unit moved: the source is read, with the group's own earlier stores over it, then the destination is made ready and written (R199,
R200, R201). -/
def State.moveUnit (s : State) (gid id : Nat) (r : Remain) (dsp ssp : Space) (dst src n : Nat) : UnitEnd :=
  match s.groups.get? gid with
  | none => .wait s
  | some g =>
    match s.getRun g (.entry gid id) (pieces ssp src n) with
    | .wait s1 => .wait s1
    | .fail s1 c x recs => .fail s1 c x (addrOf recs)
    | .ok s1 l =>
      match s1.readyRun gid g (.out gid id) (g.orderOf (.entry gid id)) (pieces dsp dst n) with
      | .moved s2 =>
        let s3 := s2.keepSource gid id g.team dsp ssp r (pieces dsp dst n)
        .moved ((s3.writePieces g (.out gid id) ((pieces dsp dst n).zip (l.map (fun x => x.2)))).dropWaits (.out gid id))
      | e => e

/-- One landed unit counted (R118, R199). -/
def Group.unitLanded (g : Group) (e : Entry) (r : Remain) (n : Nat) : Group :=
  let k := cregOf e.instr
  let g1 := g.writeC k (g.readC k - n)
  if r.left = 0 then g1.retire e else g1.setEntry { e with remain := some r }

/-- ENGINE_UNIT_LAND (R199, R203). -/
def execEngineUnitLand (gid id : Nat) (s : State) : Result :=
  withEntry gid id (.engineUnitLand gid id) s fun _ e =>
    match e.remain with
    | none => .next s
    | some r =>
      if engineOf e.instr = 0 then .next s
      else
        let (dsp, ssp) := engineSpaces e.instr
        let (d, a, n) := r.unit
        match s.moveUnit gid id r dsp ssp (engineAddr dsp d) (engineAddr ssp a) n with
        | .wait s1 => .next (s1.push (.engineUnitLand gid id))
        | .fail s1 c x a => .next (s1.failEntryAt gid e c x [] a)
        | .moved s1 =>
          match s1.groups.get? gid with
          | none => .next s1
          | some g1 =>
            let r1 := r.after n
            let s2 := s1.setGroup gid (g1.unitLanded ((g1.entries.find? (fun x => x.id == id)).getD e) r1 n)
            .next (if r1.left = 0 then s2 else s2.push (.engineUnitLand gid id))

end Sys2Proof.Machine
end

