-- ==== Sys2Proof/Machine/Matrix.lean ====
section
/-! DEFINITION. The matrix engine (chapter 10, R152 to R155): claims, descriptors, transfers and steps. -/

namespace Sys2Proof.Machine

/-! ## Descriptors and tiles -/

/-- The formats that a matrix operand may have (R255). -/
def matFormat (c : BitVec 8) : Bool :=
  let k := c.toNat % 64
  let v := c.toNat / 64
  if k = 3 ∨ k = 4 then v == 0
  else if k = 8 ∨ k = 9 then v == 0 || v == 2
  else (decide (0x11 ≤ k) && decide (k ≤ 0x17)) || (decide (0x21 ≤ k) && decide (k ≤ 0x23))

/-- An integer element format. -/
def isIntFmt : Fmt → Bool
  | .int _ _ => true
  | .float _ => false
  | .scale => false

/-- The fields of a 128-bit descriptor (R254). -/
def Desc.ofBits (x : Nat) : Desc :=
  { m := 16 * (bits x 19 16 + 1), n := 16 * (bits x 24 20 + 1), afmt := BitVec.ofNat 8 x, bfmt := BitVec.ofNat 8 (x / 256)
    sha := bits x 29 27, shb := bits x 32 30, asc := bit x 25, bsc := bit x 26
    sba := bits x 76 64, sbb := bits x 92 80, sta := toSigned (bits x 111 96) 16, stb := toSigned (bits x 127 112) 16 }

/-- A valid descriptor for a team on n cores (R255, R247). -/
def descOk (x n : Nat) : Bool :=
  let d := Desc.ofBits x
  bits x 63 33 == 0 && bits x 79 77 == 0 && bits x 95 93 == 0 && decide (bits x 24 20 ≤ 23) && matFormat d.afmt && matFormat d.bfmt &&
    (Fmt.ofCode d.afmt).width == (Fmt.ofCode d.bfmt).width && isIntFmt (Fmt.ofCode d.afmt) == isIntFmt (Fmt.ofCode d.bfmt) &&
    (!(isIntFmt (Fmt.ofCode d.afmt)) || (!d.asc && !d.bsc)) &&
    (if n = 1 then decide (d.m ≤ 128) else d.m % 32 == 0) && (if n = 4 then d.n % 32 == 0 else true)

/-- KBS of a descriptor (R246). -/
def Desc.kbs (d : Desc) : Nat := 512 / (Fmt.ofCode d.afmt).width / 32

/-- The sub-tile of each core (R247). -/
def Desc.mc (d : Desc) (cores : Nat) : Nat := if cores = 1 then d.m else d.m / 2
def Desc.nc (d : Desc) (cores : Nat) : Nat := if cores = 4 then d.n / 2 else d.n

/-- The origin of a core's sub-tile (R247). -/
def Desc.origin (d : Desc) (cores q : Nat) : Nat × Nat :=
  if cores = 1 then (0, 0) else if cores = 2 then (q * (d.m / 2), 0) else (q / 2 * (d.m / 2), q % 2 * (d.n / 2))

/-- B slots nb (R247). -/
def Desc.nb (d : Desc) (cores : Nat) : Nat := (d.nc cores + 127) / 128

/-- Bytes of a core's accumulator tile (R252). -/
def Desc.accBytes (d : Desc) (cores : Nat) : Nat := 4 * d.mc cores * d.nc cores

/-- The keys of operand, accumulator and scale bytes of core position q. -/
def slotKey (q slot byte : Nat) : Nat := q * 2 ^ 17 + slot * 8192 + byte
def accKey (q byte : Nat) : Nat := q * 2 ^ 18 + byte
def scaleKey (q entry : Nat) : Nat := q * 2 ^ 14 + 2 * entry

/-! ## Issue checks -/

/-- A range of slots lies in the claim. -/
def Matrix.hasSlots (m : Matrix) (s n : Nat) : Bool := decide (s + n ≤ m.slots)

/-- A tile lies in the claimed accumulator bytes (R252). -/
def Matrix.hasAcc (m : Matrix) (acc bytes : Nat) : Bool := decide (1024 * acc + bytes ≤ 1024 * m.accKib)

/-- Every scale entry of one side lies in the claim for a step T (R256): rows 0 to last. -/
def Matrix.hasScales (m : Matrix) (use : Bool) (base : Nat) (adv : Int) (t : Nat) (last sh kbs : Nat) : Bool :=
  let lo : Int := base + t * adv
  let hi : Int := lo + ((last >>> sh) * kbs + (kbs - 1) : Nat)
  !use || (decide (0 ≤ lo) && decide (hi < (512 * m.slots : Nat)))

/-- The scale entries of both sides for a step (R256, R266). -/
def Matrix.scalesOk (m : Matrix) (d : Desc) (t : Nat) : Bool :=
  m.hasScales d.asc d.sba d.sta t (d.m - 1) d.sha d.kbs && m.hasScales d.bsc d.sbb d.stb t (d.n - 1) d.shb d.kbs

/-- The descriptor that an instruction names, if it was ever written (R255). -/
def Matrix.desc? (m : Matrix) (n : BitVec 2) : Option Desc := (m.descs.get? n.toNat).map (fun x => Desc.ofBits x.toNat)

/-- The destination format of mst agrees with the tile (R271). -/
def mstFormat (d : Desc) (fmt : BitVec 8) : Bool :=
  if isIntFmt (Fmt.ofCode d.afmt) then fmt == 0x0A || fmt == 0x8A else fmt == 0x02 || fmt == 0x03 || fmt == 0x04

/-- The rows that an A or B load reads: their number over the whole team tile. -/
def Desc.rows (d : Desc) (isB : Bool) : Nat := if isB then d.n else d.m

/-- Rows of a transfer: a space, the first row's address, the stride, the number of rows, the bytes of one. -/
structure Rows where
  sp : Space
  base : Int
  stride : Nat
  n : Nat
  bytes : Nat
  deriving DecidableEq, Repr

/-- The address of each row. -/
def Rows.starts (r : Rows) : List Int := (List.range r.n).map (fun (k : Nat) => r.base + (k * r.stride : Nat))

/-- What checks 4 and 5 of R189 find of layer or team rows (R268, R550). -/
def State.rowsCheck (s : State) (g : Group) (t : Team) (write : Bool) (r : Rows) : List (Option Nat × Option Nat) :=
  if r.sp = .glob then []
  else r.starts.map (fun a => if a < 0 then (some 0x04, none) else s.engineRange g t r.sp a.toNat r.bytes write)

/-- A uniform operand of the captured list. -/
def uop (l : List W64) (k : Nat) : Nat := (l.getD k 0).toNat

/-- The operation of a matrix instruction with the operands captured at issue and its descriptor (R260). -/
def matOp (i : Instr) (u : List W64) (d : Desc) : Option MatOp :=
  match i with
  | .mld slot _ _ _ kindB sp _ _ => some (.mld slot.toNat (uop u 1) (uop u 2) kindB sp d)
  | .mma acc sa sb _ zero _ t _ => some (.mma acc.toNat sa.toNat sb.toNat zero d t.toNat)
  | .mloop _ _ acc _ zero _ slot asp bsp _ =>
    some (.mloop acc.toNat (uop u 1) (uop u 4) (bits (uop u 5) 31 0) (bits (uop u 5) 63 32) (toSigned (bits (uop u 6) 31 0) 32)
      (toSigned (bits (uop u 6) 63 32) 32) (bits (uop u 0) 15 0) slot.toNat asp bsp zero d 0 false)
  | .mst _ _ acc fmt rm sp _ _ => some (.mst (uop u 0) (uop u 1) acc.toNat fmt rm.toNat sp d)
  | .mscale _ _ _ _ sp _ => some (.mscale (bits (uop u 0) 15 0) (uop u 1) (bits (uop u 2) 15 0) sp)
  | .mzero acc len => some (.mzero acc.toNat len.toNat)
  | _ => none

/-- The element size of an mst destination. -/
def mstWidth (fmt : BitVec 8) : Nat := (Fmt.ofCode fmt).width / 8

/-- Check 3 of R550. -/
def MatOp.aligned : MatOp → Bool
  | .mld _ a st _ _ _ => a % 16 == 0 && st % 16 == 0
  | .mma _ _ _ _ _ _ => true
  | .mloop _ a b sa sb ia ib _ _ _ _ _ _ _ _ =>
    a % 16 == 0 && b % 16 == 0 && sa % 16 == 0 && sb % 16 == 0 && ia % 16 == 0 && ib % 16 == 0
  | .mst a st _ fmt _ _ _ => a % mstWidth fmt == 0 && st % mstWidth fmt == 0
  | .mscale _ a _ _ => a % 2 == 0
  | .mzero _ _ => true

/-- Check 4 of R550 (R266): everything lies in the claim. -/
def MatOp.claimed (o : MatOp) (m : Matrix) (cores : Nat) : Bool :=
  match o with
  | .mld slot _ _ isB _ d => m.hasSlots slot (if isB then d.nb cores else 1)
  | .mma acc sa sb _ d t => m.hasSlots sa 1 && m.hasSlots sb (d.nb cores) && m.hasAcc acc (d.accBytes cores) && m.scalesOk d t
  | .mloop acc _ _ _ _ _ _ count slot _ _ _ d _ _ =>
    m.hasSlots slot (2 * (1 + d.nb cores)) && m.hasAcc acc (d.accBytes cores) &&
      (count == 0 || (m.scalesOk d 0 && m.scalesOk d (count - 1)))
  | .mst _ _ acc _ _ _ d => m.hasAcc acc (d.accBytes cores)
  | .mscale first _ count _ => decide (1 ≤ count) && decide (count ≤ 8192) && decide (first + count ≤ 512 * m.slots)
  | .mzero acc len => decide (acc + len ≤ m.accKib)

/-- The rows that a matrix instruction transfers (R268, R270, R271, R273). -/
def MatOp.rows : MatOp → List Rows
  | .mld _ a st isB sp d => [⟨sp, a, st, d.rows isB, 64⟩]
  | .mloop _ a b sa sb ia ib count _ asp bsp _ d _ _ =>
    (List.range count).flatMap (fun (k : Nat) => [⟨asp, a + k * ia, sa, d.m, 64⟩, ⟨bsp, b + k * ib, sb, d.n, 64⟩])
  | .mst a st _ fmt _ sp d => [⟨sp, a, st, d.m, d.n * mstWidth fmt⟩]
  | .mscale _ a count sp => [⟨sp, a, 0, 1, 2 * count⟩]
  | .mma _ _ _ _ _ _ => []
  | .mzero _ _ => []

/-- The transfer writes memory. -/
def MatOp.stores : MatOp → Bool
  | .mst _ _ _ _ _ _ _ => true
  | .mld _ _ _ _ _ _ => false
  | .mma _ _ _ _ _ _ => false
  | .mloop _ _ _ _ _ _ _ _ _ _ _ _ _ _ _ => false
  | .mscale _ _ _ _ => false
  | .mzero _ _ => false

/-- Check 5 of R550: layer and team ranges, by checks 4 and then 5 of R189 over all of them. -/
def State.matRanges (s : State) (g : Group) (t : Team) (o : MatOp) : Option Nat :=
  let c := o.rows.flatMap (s.rowsCheck g t o.stores)
  firstSome (c.map (fun x => x.1) ++ c.map (fun x => x.2))

/-- The bytes that a matrix instruction transfers, as hazards compare them (R76). -/
def MatOp.bytes (o : MatOp) : List (Space × Nat × Nat) := o.rows.flatMap (fun r => r.starts.map (fun a => (r.sp, engineAddr r.sp a, r.bytes)))

/-- The accumulator bytes of each core that a matrix instruction writes: the first and the number (R260). -/
def MatOp.accWrites (o : MatOp) (cores : Nat) : Nat × Nat :=
  match o with
  | .mma acc _ _ _ d _ => (1024 * acc, d.accBytes cores)
  | .mloop acc _ _ _ _ _ _ _ _ _ _ _ d _ _ => (1024 * acc, d.accBytes cores)
  | .mzero acc len => (1024 * acc, 1024 * len)
  | .mld _ _ _ _ _ _ => (0, 0)
  | .mst _ _ _ _ _ _ _ => (0, 0)
  | .mscale _ _ _ _ => (0, 0)

/-- The upper bits of mscale's operands (R273). -/
def mscaleHigh (i : Instr) (u : List W64) : Bool :=
  match i with
  | .mscale _ _ _ _ _ _ => !(bits (uop u 0) 63 16 == 0 && bits (uop u 2) 63 16 == 0)
  | _ => false

/-- The descriptor check (check 2 of R550): the descriptor named, or the cause. -/
def matDesc (i : Instr) (m : Matrix) : Except Nat Desc :=
  let zero : Desc := Desc.ofBits 0
  let want (n : BitVec 2) (f : Desc → Bool) : Except Nat Desc :=
    match m.desc? n with
    | none => .error 0x02
    | some d => if f d then .ok d else .error 0x02
  match i with
  | .mld _ _ _ _ _ _ dn _ => want dn (fun _ => true)
  | .mma _ _ _ ty _ dn _ _ => want dn (fun d => ty == 0 || ty == d.afmt)
  | .mloop _ _ _ ty _ dn _ _ _ _ => want dn (fun d => ty == 0 || ty == d.afmt)
  | .mst _ _ _ fmt _ _ dn _ => want dn (fun d => mstFormat d fmt)
  | _ => .ok zero

/-- The issue checks of R550 from its order 2 on. -/
def State.matCheck (s : State) (g : Group) (t : Team) (i : Instr) (u : List W64) (d : Desc) : Option Nat :=
  match matOp i u d with
  | none => some 0x02
  | some o =>
    if !o.aligned then some 0x03
    else if mscaleHigh i u || !(o.claimed t.mat t.ncores) then some 0x04
    else s.matRanges g t o

/-! ## Issue -/

/-- The event that an item waits for next. -/
def MatItem.act (team : Nat) (x : MatItem) : Act :=
  match x.op with
  | .mld _ _ _ _ _ _ => .matrixTransferLand team x.id
  | .mst _ _ _ _ _ _ _ => .matrixTransferLand team x.id
  | .mscale _ _ _ _ => .matrixTransferLand team x.id
  | .mma _ _ _ _ _ _ => .matrixStep team x.id
  | .mzero _ _ => .matrixStep team x.id
  | .mloop _ _ _ _ _ _ _ count _ _ _ zero _ t loaded =>
    if zero || loaded || decide (count ≤ t) then .matrixStep team x.id else .matrixTransferLand team x.id

def State.modTeam (s : State) (t : Nat) (f : Team → Team) : State := { s with teams := s.teams.modify t f }

/-- The head of a team's matrix queue is awaited (R260). -/
def State.pushMatrix (s : State) (team : Nat) : State :=
  match s.teams.get? team with
  | none => s
  | some t =>
    match t.mat.queue with
    | [] => s
    | x :: _ => if x.stopped then s else s.push (x.act team)

/-- A matrix instruction enters the matrix order of its team (R260) and counts in TLS. -/
def State.enqueue (s : State) (gid team : Nat) (x : MatItem) : State :=
  let s1 := s.modTeam team (fun t => { t with mat := { t.mat with queue := t.mat.queue ++ [x] } })
  ({ s1 with groups := s1.groups.modify gid (fun g => g.countUp .tls) } : State).pushMatrix team

/-- THE ISSUE OF A MATRIX INSTRUCTION that counts in TLS (R264, R550): its checks, then its place in the matrix order. base
is the instruction whichever form was written. -/
def matIssue (u : UCtx) (base : Instr) (reads : List Nat) (uops : Group → List W64) (s : State) : Result :=
  uniOp u reads [] s fun c =>
    match s.teams.get? c.g.team with
    | none => .fault .noIssuingGroup
    | some t =>
      match matDesc base t.mat with
      | .error cause => c.trap s cause []
      | .ok d =>
        match s.matCheck c.g t base (uops c.g) d, matOp base (uops c.g) d with
        | some cause, _ => c.trap s cause []
        | none, none => c.trap s 0x02 []
        | none, some o =>
          if 255 ≤ c.g.tls || c.g.acquiring || c.g.overlaps (o.bytes.flatMap t.spread) then s.hold
          else
            let x : MatItem := ⟨s.nextId, c.gid, base, o, c.words.1, c.words.2, c.pc, c.run, uops c.g, 0, false⟩
            .next ((({ s with nextId := s.nextId + 1 } : State).setGroup c.gid (c.advance c.g)).enqueue c.gid c.g.team x)

/-- MLD (R268). -/
def execMld (slot : BitVec 8) (a b : BitVec 7) (hint : BitVec 2) (kindB : Bool) (sp : Space) (dn : BitVec 2) (gd : Guard)
    (s : State) : Result :=
  let i := Instr.mld slot a b hint kindB sp dn gd
  matIssue (.ext i gd) i [a.toNat, b.toNat] (fun g => [0, g.readS a.toNat, g.readS b.toNat, 0]) s

/-- MMA (R269). -/
def execMma (acc sa sb ty : BitVec 8) (zero : Bool) (dn : BitVec 2) (t : BitVec 16) (gd : Guard) (s : State) : Result :=
  let i := Instr.mma acc sa sb ty zero dn t gd
  matIssue (.ext i gd) i [] (fun _ => [0, 0, 0, 0]) s

/-- MLOOP (R270). -/
def execMloop (d a : BitVec 7) (acc ty : BitVec 8) (zero : Bool) (dn : BitVec 2) (slot : BitVec 4) (asp bsp : Space) (gd : Guard)
    (s : State) : Result :=
  let i := Instr.mloop d a acc ty zero dn slot asp bsp gd
  matIssue (.ext i gd) i [d.toNat, a.toNat, a.toNat + 1, a.toNat + 2, a.toNat + 3]
    (fun g => [g.readS d.toNat, g.readS a.toNat, 0, 0, g.readS (a.toNat + 1), g.readS (a.toNat + 2), g.readS (a.toNat + 3)]) s

/-- MST (R271). -/
def execMst (d a : BitVec 7) (acc fmt : BitVec 8) (rm : BitVec 4) (sp : Space) (dn : BitVec 2) (gd : Guard) (s : State) : Result :=
  let i := Instr.mst d a acc fmt rm sp dn gd
  matIssue (.ext i gd) i [d.toNat, a.toNat] (fun g => [g.readS d.toNat, g.readS a.toNat, 0, 0]) s

/-- MSCALE (R273). -/
def execMscale (d a b : BitVec 7) (hint : BitVec 2) (sp : Space) (gd : Guard) (s : State) : Result :=
  let i := Instr.mscale d a b hint sp gd
  matIssue (.ext i gd) i [d.toNat, a.toNat, b.toNat] (fun g => [g.readS d.toNat, g.readS a.toNat, g.readS b.toNat, 0]) s

/-- mzero (R276). -/
def opMzero (u : UCtx) (acc len : BitVec 8) (s : State) : Result := matIssue u (.mzero acc len) [] (fun _ => [0, 0, 0, 0]) s

/-- MZERO (R276). -/
def execMzero (acc len : BitVec 8) (s : State) : Result := opMzero (.short (.mzero acc len)) acc len s

/-- Slots and accumulator KiB that the placed teams claim on a core (R249). -/
def State.claimedOn (s : State) (die core : Nat) : Nat × Nat :=
  s.teams.foldl (fun a e =>
    if e.2.die = die ∧ e.2.state = .running ∧ core ∈ e.2.cores ∧ e.2.mat.claimed = true then
      (a.1 + e.2.mat.slots, a.2 + e.2.mat.accKib) else a) (0, 0)

/-- MCLAIM (R265). -/
def execMclaim (slots acc : BitVec 8) (gd : Guard) (s : State) : Result :=
  uniOp (.ext (.mclaim slots acc gd) gd) [] [] s fun c =>
    match s.teams.get? c.g.team with
    | none => .fault .noIssuingGroup
    | some t =>
      let n := slots.toNat
      let k := 16 * acc.toNat
      let free := t.cores.all (fun q => decide ((s.claimedOn t.die q).1 + n ≤ 16) && decide ((s.claimedOn t.die q).2 + k ≤ 192))
      if !t.mat.claimed && free then
        c.done (s.setTeam c.g.team { t with mat := { t.mat with claimed := true, slots := n, accKib := k, slotMem := [], accMem := [], scaleMem := [], bad := [] } })
          (c.g.writeB 0 true)
      else c.done s (c.g.writeB 0 false)

/-- The claim released and its contents discarded (R267). -/
def Matrix.release (m : Matrix) : Matrix :=
  { m with claimed := false, slots := 0, accKib := 0, slotMem := [], accMem := [], scaleMem := [], bad := [] }

/-! ## mrd -/

/-- A word of one of the matrix memories is listed as uncorrectable (R253): kind 0 slots, 1 accumulators, 2 scales. -/
def Matrix.isBad (m : Matrix) (kind key n : Nat) : Bool := m.bad.any (fun b => b.1 == kind && decide (4 * b.2 < key + n) && decide (key < 4 * (b.2 + 1)))

/-- The accumulator bytes that an mrd reads, by lane (R274). -/
def Entry.mrdOffs (e : Entry) : List (Nat × Nat) :=
  match e.instr with
  | .mrd _ _ acc _ => e.opa.map (fun x => (x.1, 1024 * acc.toNat + 4 * (x.2.toNat % 2 ^ 32)))
  | _ => []

/-- The entry is an mrd that has not read yet: it waits in matrix order, or it has faulted and will be performed in its place (R260, R471). -/
def Entry.mrdPending (e : Entry) : Bool :=
  match e.instr with
  | .mrd _ _ _ _ => true
  | _ => false

/-- A queued matrix instruction writes a word that an mrd reads (R260, R274). -/
def MatItem.writesFor (x : MatItem) (cores : Nat) (e : Entry) : Bool :=
  let (lo, n) := x.op.accWrites cores
  e.mrdOffs.any (fun o => decide (lo < o.2 + 4) && decide (o.2 < lo + n))

/-- The mrd waits for an earlier matrix instruction of its team (R274). -/
def Team.mrdWaits (t : Team) (e : Entry) : Bool := t.mat.queue.any (fun x => decide (x.id < e.id) && x.writesFor t.ncores e)

/-- An mrd of the team, earlier in matrix order, still reads what the instruction writes (R260). -/
def State.readFirst (s : State) (team cores : Nat) (x : MatItem) : Bool :=
  s.groups.any (fun g => g.2.team == team && g.2.entries.any (fun e => e.mrdPending && decide (e.id < x.id) && x.writesFor cores e))

/-- Some mrd of the team has not been performed. -/
def State.mrdPending (s : State) (team : Nat) : Bool := s.groups.any (fun g => g.2.team == team && g.2.entries.any Entry.mrdPending)

/-- mfree (R267): it waits for every earlier matrix instruction of the team. -/
def opMfree (u : UCtx) (s : State) : Result :=
  uniOp u [] [] s fun c =>
    match s.teams.get? c.g.team with
    | none => .fault .noIssuingGroup
    | some t =>
      if !(t.mat.queue == []) || s.mrdPending c.g.team then s.hold
      else c.done (s.setTeam c.g.team { t with mat := t.mat.release }) c.g

/-- MFREE (R267). -/
def execMfree (s : State) : Result := opMfree (.short .mfree) s

/-- MDESC (R272, R255): an earlier instruction keeps the descriptor that it captured. -/
def execMdesc (n : BitVec 2) (a b : BitVec 7) (gd : Guard) (s : State) : Result :=
  uniOp (.ext (.mdesc n a b gd) gd) [a.toNat, b.toNat] [] s fun c =>
    match s.teams.get? c.g.team with
    | none => .fault .noIssuingGroup
    | some t =>
      let x := c.g.readS b.toNat ++ c.g.readS a.toNat
      if !(descOk x.toNat t.ncores) then c.trap s 0x02 []
      else c.done (s.setTeam c.g.team { t with mat := { t.mat with descs := t.mat.descs.set n.toNat x } }) c.g

/-- MLEASE (R275). -/
def execMlease (steps : BitVec 9) (gd : Guard) (s : State) : Result :=
  uniOp (.ext (.mlease steps gd) gd) [] [] s fun c =>
    c.done (s.modTeam c.g.team (fun t => { t with mat := { t.mat with lease := if steps = 0 then 16 else steps.toNat } })) c.g

/-- The words that an mrd reads written to its destination in every lane that has not exited (R274, R378). -/
def Group.landMrd (g : Group) (m : Matrix) (e : Entry) : Group :=
  e.mrdOffs.foldl (fun g o =>
    if g.live.getLsbD o.1 then g.writeV o.1 (e.dreg.getD o.1 0) (BitVec.ofNat 32 (m.accMem.read (accKey g.pos o.2) 4)) else g) g

/-- An mrd reads an uncorrectable word (R253). -/
def Entry.mrdBad (e : Entry) (pos : Nat) (m : Matrix) : Bool := e.mrdOffs.any (fun o => m.isBad 1 (accKey pos o.2) 4)

/-- MRD (R274): it counts in LDS, and its words are read at once where no earlier matrix instruction is still to write them. An uncorrectable word
read so fails the instruction at its issue (log 101). -/
def execMrd (d a : BitVec 7) (acc : BitVec 8) (gd : Guard) (s : State) : Result :=
  let i := Instr.mrd d a acc gd
  withIssue i 8 s fun c =>
    let act := c.run &&& c.g.guardMask gd
    match s.teams.get? c.g.team with
    | none => .fault .noIssuingGroup
    | some t =>
      let lanes := lanesOf act
      let e : Entry := { Entry.blank i c.words c.pc act s.nextId with
        counter := .lds, opa := c.g.captureV lanes a.toNat 1, dreg := lanes.map (fun l => (l, d.toNat)), dsts := [d.toNat], width := 1 }
      let bad := e.mrdOffs.filter (fun o => decide (1024 * t.mat.accKib < o.2 + 4))
      if !(decide (d.toNat < c.g.lbud) && decide (a.toNat < c.g.lbud)) then c.trap s 0x05 []
      else if c.g.blocked [a.toNat, d.toNat] then s.hold
      else if c.g.badWords act [a.toNat] then c.badTrap s
      else if !(bad == []) then c.trap s 0x04 (bad.map (fun o => (o.1, laneRec 0x04 o.2)))
      else if act = 0 then c.skip s
      else if 255 ≤ c.g.lds then s.hold
      else if t.mrdWaits e then
        let g2 : Group := { (c.advance c.g) with entries := c.g.entries ++ [e] }
        .next ((({ s with nextId := s.nextId + 1 } : State).setGroup c.gid (g2.countUp .lds)).push (.loadLanding c.gid e.id))
      else if e.mrdBad c.g.pos t.mat then c.badTrap s
      else c.done s (c.g.landMrd t.mat e)

/-- An mrd that waited lands (R274); an uncorrectable word fails it as an issued instruction (log 101). -/
def State.performMrd (s : State) (gid : Nat) (g : Group) (e : Entry) : State :=
  match s.teams.get? g.team with
  | none => s
  | some t =>
    if t.mrdWaits e then s.push (.loadLanding gid e.id)
    else if e.mrdBad g.pos t.mat then (s.countUncorr g.die).failEntry gid e 0x0B false []
    else s.setGroup gid ((g.landMrd t.mat e).retire e)

/-! ## Steps -/

/-- Element k of a row of 64 bytes that starts at a key (R251, R137). -/
def Matrix.elem (m : Matrix) (key width k : Nat) : Nat :=
  if width = 4 then
    let b := (m.slotMem.get (key + k / 2)).toNat
    if k % 2 = 0 then b % 16 else b / 16
  else m.slotMem.read (key + k * width / 8) (width / 8)

/-- What the products of one K block come to: the exact finite sum, and the special cases of R153. -/
structure Block where
  sum : Option Exact
  nan : Bool
  zeroInf : Bool
  pinf : Bool
  ninf : Bool
  deriving DecidableEq, Repr

/-- One product added to a block. -/
def Block.add (b : Block) (x y : Num) : Block :=
  match numMul x y with
  | (.fin p, _) => { b with sum := match b.sum with
      | none => some p
      | some a => exactAdd a p }
  | (.zero _, _) => b
  | (.inf neg, _) => if neg then { b with ninf := true } else { b with pinf := true }
  | (.nan, f) => if f = 0 then { b with nan := true } else { b with zeroInf := true }

/-- BlockAdd for floating-point formats (R152, R153): the accumulator code after one block, and its flags. -/
def blockAdd (c : Nat) (b : Block) (g : Num) : Nat × Flags :=
  let cv := f32.decode c
  let anyInf := b.pinf || b.ninf
  let inv := b.zeroInf || (b.pinf && b.ninf) || (anyInf && g.isZero)
  if b.nan || g.isNan || inv then (f32.nanCode, flagIf inv flagInv)
  else if anyInf then
    (match cv with
     | .nan => (f32.nanCode, 0)
     | .inf neg => if neg = b.ninf then (f32.infCode neg, 0) else (f32.nanCode, flagInv)
     | .zero _ => (f32.infCode b.ninf, 0)
     | .fin _ => (f32.infCode b.ninf, 0))
  else
    match b.sum, g with
    | some s, .fin x => f32.finish .rne 0 (numAdd .rne cv (.fin (exactMul s x)))
    | _, _ => (c, 0)

/-- A scale of one side for a row, a step and a block (R256). -/
def Matrix.scale (m : Matrix) (use : Bool) (q base : Nat) (adv : Int) (t row sh kbs b : Nat) : Num :=
  if !use then .fin ⟨false, 1, 0, false⟩
  else scaleDecode (m.scaleMem.read (scaleKey q (base + t * adv + ((row >>> sh) * kbs + b : Nat) : Int).toNat) 2)

/-- One accumulator element after a step (R269, R152 to R154). -/
def Matrix.element (m : Matrix) (d : Desc) (q sa sb t m0 n0 i j c : Nat) : Nat × Flags :=
  let fa := Fmt.ofCode d.afmt
  let fb := Fmt.ofCode d.bfmt
  let w := fa.width
  let ka := slotKey q sa (64 * i)
  let kb := slotKey q sb (64 * j)
  if isIntFmt fa then
    let value (f : Fmt) (x : Nat) : Int := match f with
      | .int n uns => if uns then (x : Int) else toSigned x n
      | .float _ => 0
      | .scale => 0
    (wrapInt ((List.range (512 / w)).foldl (fun a k => a + value fa (m.elem ka w k) * value fb (m.elem kb w k)) (c : Int)) 32, 0)
  else
    (List.range d.kbs).foldl (fun (acc : Nat × Flags) b =>
      let blk := (List.range 32).foldl (fun (x : Block) k =>
        x.add (fa.decode (m.elem ka w (32 * b + k))) (fb.decode (m.elem kb w (32 * b + k)))) ⟨none, false, false, false, false⟩
      let g := (numMul (m.scale d.asc q d.sba d.sta t (m0 + i) d.sha d.kbs b) (m.scale d.bsc q d.sbb d.stb t (n0 + j) d.shb d.kbs b)).1
      let r := blockAdd acc.1 blk g
      (r.1, acc.2 ||| r.2)) (c, 0)

/-- One core's step (R269). -/
def Matrix.coreStep (m : Matrix) (d : Desc) (cores q acc sa sb t : Nat) : Memory × Flags :=
  let (m0, n0) := d.origin cores q
  (List.range (d.mc cores)).foldl (fun (x : Memory × Flags) i =>
    (List.range (d.nc cores)).foldl (fun (x : Memory × Flags) j =>
      let k := accKey q (1024 * acc + 4 * (i * d.nc cores + j))
      let r := m.element d q sa sb t m0 n0 i j (x.1.read k 4)
      (x.1.write k (toBytes r.1 4), x.2 ||| r.2)) x) (m.accMem, 0)

/-- One step on every core of the team (R246, R269). -/
def Matrix.step (m : Matrix) (d : Desc) (cores acc sa sb t : Nat) : Matrix × Flags :=
  (List.range cores).foldl (fun (x : Matrix × Flags) q =>
    let r := x.1.coreStep d cores q acc sa sb t
    ({ x.1 with accMem := r.1 }, x.2 ||| r.2)) (m, 0)

/-- An uncorrectable word among the scale entries of some rows of one side that a core's step reads (R253, R256). -/
def Matrix.scaleBad (m : Matrix) (use : Bool) (q base : Nat) (adv : Int) (t row rows sh kbs : Nat) : Bool :=
  use && m.isBad 2 (scaleKey q (base + t * adv + ((row >>> sh) * kbs : Nat) : Int).toNat) (2 * ((((row + rows - 1) >>> sh) + 1 - (row >>> sh)) * kbs))

/-- An uncorrectable word among those that a step reads (R253). -/
def Matrix.stepBad (m : Matrix) (d : Desc) (cores acc sa sb t : Nat) (zero : Bool) : Bool :=
  (List.range cores).any (fun q =>
    m.isBad 0 (slotKey q sa 0) (64 * d.mc cores) || m.isBad 0 (slotKey q sb 0) (64 * d.nc cores) ||
      (!zero && m.isBad 1 (accKey q (1024 * acc)) (d.accBytes cores)) ||
      m.scaleBad d.asc q d.sba d.sta t (d.origin cores q).1 (d.mc cores) d.sha d.kbs ||
      m.scaleBad d.bsc q d.sbb d.stb t (d.origin cores q).2 (d.nc cores) d.shb d.kbs)

/-- Accumulator bytes set to 0 on every core (R270, R276); their uncorrectable words are cleared. -/
def Matrix.zero (m : Matrix) (cores acc bytes : Nat) : Matrix :=
  (List.range cores).foldl (fun m q =>
    { m with accMem := m.accMem.clear (accKey q (1024 * acc)) bytes
             bad := m.bad.filter (fun b => !(b.1 == 1 && decide (accKey q (1024 * acc) ≤ 4 * b.2) && decide (4 * b.2 + 4 ≤ accKey q (1024 * acc) + bytes))) }) m

/-- The item has completed: it leaves the matrix order, and TLS falls. -/
def State.matDone (s : State) (team : Nat) (x : MatItem) : State :=
  let s1 := s.modTeam team (fun t => { t with mat := { t.mat with queue := t.mat.queue.filter (fun y => !(y.id == x.id)) } })
  ({ s1 with groups := s1.groups.modify x.gid (fun g => g.countDown .tls) } : State).pushMatrix team

/-- The item goes on with a new operation and progress. -/
def State.matNext (s : State) (team : Nat) (x : MatItem) (o : MatOp) (landed : Nat) : State :=
  (s.modTeam team (fun t => { t with mat := { t.mat with queue := t.mat.queue.map (fun y =>
    if y.id = x.id then { y with op := o, landed := landed } else y) } })).pushMatrix team

/-- REMAIN of a stopped matrix instruction (log 12): its step, its remaining count, the units landed. -/
def MatItem.remain (x : MatItem) : Remain :=
  match x.op with
  | .mloop _ _ _ _ _ _ _ count _ _ _ _ _ t _ => ⟨t, 0, 0, count - t, 0, 0, x.landed, 0, 0, false⟩
  | _ => ⟨0, 0, 0, 0, 0, 0, x.landed, 0, 0, false⟩

/-- A matrix instruction that is refused or reads uncorrectable data (R253, R262, R278): it stays in the matrix order,
stopped, and enters the replay queue of its group. -/
def State.matFail (s : State) (team : Nat) (x : MatItem) (cause : Nat) (context : Bool) (addr : W64) : State :=
  let s1 := s.modTeam team (fun t => { t with mat := { t.mat with queue := t.mat.queue.map (fun y =>
    if y.id = x.id then { y with stopped := true } else y) } })
  let e : Entry := { Entry.blank x.instr (x.w1, x.w2) x.pc x.run x.id with
    state := .faulted, cause := cause, counter := .tls, uops := x.uops, remain := some x.remain }
  let s2 : State := { s1 with groups := s1.groups.modify x.gid (fun g => { g with entries := insertBy (fun a b => decide (a.id ≤ b.id)) e g.entries }) }
  s2.failEntryAt x.gid e cause context [] addr

/-- The head of the matrix order, if it is the item named. -/
def State.matHead (s : State) (team id : Nat) : Option (Team × MatItem) :=
  match s.teams.get? team with
  | none => none
  | some t =>
    match t.mat.queue with
    | [] => none
    | x :: _ => if x.id = id ∧ x.stopped = false then some (t, x) else none

/-- The head of the matrix order waits for an mrd that reads what it writes (R260). -/
def State.matHeld (s : State) (team id : Nat) : Bool :=
  match s.matHead team id with
  | none => false
  | some (t, x) => s.readFirst team t.ncores x

/-- A step of a tile on the team's matrix state, with its flags to the issuing group (R151). -/
def State.matStep (s : State) (team : Nat) (t : Team) (x : MatItem) (d : Desc) (acc sa sb k : Nat) (zero : Bool) (next : State → State) : State :=
  if t.mat.stepBad d t.ncores acc sa sb k zero then (s.countUncorr t.die).matFail team x 0x0B false 0
  else
    let m0 := if zero then t.mat.zero t.ncores acc (d.accBytes t.ncores) else t.mat
    let (m, f) := m0.step d t.ncores acc sa sb k
    let s1 := s.setTeam team { t with mat := m }
    next { s1 with groups := s1.groups.modify x.gid (fun g => g.raiseFlags [f]) }

/-- MATRIX_STEP (R269, R270, R276). -/
def execMatrixStep (team id : Nat) (s : State) : Result :=
  match s.matHead team id with
  | none => .next s
  | some (t, x) =>
    wake x.gid (.matrixStep team id) s fun _ =>
      if s.matHeld team id then .next (s.push (.matrixStep team id))
      else match x.op with
      | .mma acc sa sb zero d k => .next (s.matStep team t x d acc sa sb k zero (fun s => s.matDone team x))
      | .mzero acc len => .next ((s.setTeam team { t with mat := t.mat.zero t.ncores acc (1024 * len) }).matDone team x)
      | .mloop acc a b sa sb ia ib count slot asp bsp zero d k loaded =>
        if zero then
          let s1 := s.setTeam team { t with mat := t.mat.zero t.ncores acc (d.accBytes t.ncores) }
          .next (s1.matNext team x (.mloop acc a b sa sb ia ib count slot asp bsp false d k loaded) 0)
        else if count ≤ k then .next (s.matDone team x)
        else if !loaded then .next s
        else
          let set_ := slot + k % 2 * (1 + d.nb t.ncores)
          .next (s.matStep team t x d acc set_ (set_ + 1) k false (fun s =>
            if count ≤ k + 1 then s.matDone team x
            else s.matNext team x (.mloop acc a b sa sb ia ib count slot asp bsp false d (k + 1) false) 0))
      | .mld _ _ _ _ _ _ => .next s
      | .mst _ _ _ _ _ _ _ => .next s
      | .mscale _ _ _ _ => .next s

/-! ## Transfers -/

/-- Bytes written into a matrix memory; whole uncorrectable words written are cleared. -/
def clearBadWords (l : List (Nat × Nat)) (kind key n : Nat) : List (Nat × Nat) :=
  l.filter (fun b => !(b.1 == kind && decide (key ≤ 4 * b.2) && decide (4 * b.2 + 4 ≤ key + n)))

def Matrix.putSlot (m : Matrix) (key : Nat) (b : List Byte) : Matrix :=
  { m with slotMem := m.slotMem.write key b, bad := clearBadWords m.bad 0 key b.length }

/-- One 2-byte scale entry written; an uncorrectable word it covers half of stays marked (log 100). -/
def Matrix.putScale (m : Matrix) (key : Nat) (b : List Byte) : Matrix :=
  { m with scaleMem := m.scaleMem.write key b, bad := clearBadWords m.bad 2 key b.length }

/-- Reading one row of a load into the slot of its core (R268): unit k is row k of the cores in turn. -/
def State.loadRow (s : State) (team : Nat) (t : Team) (x : MatItem) (slot : Nat) (base : Int) (stride : Nat) (isB : Bool) (sp : Space)
    (d : Desc) (k : Nat) : UnitEnd :=
  let per := if isB then d.nc t.ncores else d.mc t.ncores
  let q := k / per
  let r := k % per
  let (m0, n0) := d.origin t.ncores q
  let a := engineAddr sp (base + ((if isB then n0 else m0) + r) * stride)
  match s.groups.get? x.gid with
  | none => .wait s
  | some g =>
    match s.getRun g (.matrix team x.id) (pieces sp a 64) with
    | .wait s2 => .wait s2
    | .fail s2 c y recs => .fail s2 c y (addrOf recs)
    | .ok s2 l => .moved (s2.modTeam team (fun t => { t with mat := t.mat.putSlot (slotKey q slot (64 * r)) (l.flatMap (fun z => z.2)) }))

/-- Units one after another, from one on, at most n of them: where it stopped and why. -/
def runUnits (f : State → Nat → UnitEnd) : Nat → Nat → State → UnitEnd × Nat
  | 0, k, s => (.moved s, k)
  | n + 1, k, s =>
    match f s k with
    | .moved s1 => runUnits f n (k + 1) s1
    | e => (e, k)

/-- The accumulator row that one unit of mst stores (R271): team row k / parts of core column k % parts. -/
def State.storeRow (s : State) (t : Team) (x : MatItem) (addr stride acc : Nat) (fmt : BitVec 8) (mode : Nat) (sp : Space)
    (d : Desc) (k : Nat) : UnitEnd :=
  let parts := if t.ncores = 4 then 2 else 1
  let row := k / parts
  let mc := d.mc t.ncores
  let nc := d.nc t.ncores
  let q := row / mc * parts + k % parts
  let (m0, n0) := d.origin t.ncores q
  let w := mstWidth fmt
  let a (j : Nat) : Nat := engineAddr sp (addr + (m0 + row % mc) * stride + (n0 + j) * w)
  let key := accKey q (1024 * acc + 4 * (row % mc * nc))
  let conv (c : Nat) : Nat × Flags :=
    if isIntFmt (Fmt.ofCode fmt) then (c, 0) else (Fmt.ofCode fmt).convert (modeOf mode) 0 (f32.decode c)
  let outs := (List.range nc).map (fun j => conv (t.mat.accMem.read (key + 4 * j) 4))
  if t.mat.isBad 1 key (4 * nc) then .fail (s.countUncorr t.die) 0x0B false 0
  else
    match s.groups.get? x.gid with
    | none => .wait s
    | some g =>
      match s.putRun x.gid g (.out x.gid x.id) none ((List.range nc).map (fun j => ⟨0, sp, a j, w⟩)) (outs.map (fun o => toBytes o.1 w)) with
      | .moved s2 => .moved { s2 with groups := s2.groups.modify x.gid (fun g => g.raiseFlags (outs.map (fun o => o.2))) }
      | e => e

/-- One scale entry read and given to every core (R273). The entries are written one by one, so a 2-byte entry never covers the whole of an
uncorrectable 32-bit word, which stays marked (log 100). -/
def State.loadScale (s : State) (team : Nat) (t : Team) (x : MatItem) (first addr : Nat) (sp : Space) (k : Nat) : UnitEnd :=
  let a := engineAddr sp (addr + 2 * k)
  match s.groups.get? x.gid with
  | none => .wait s
  | some g =>
    match s.getRun g (.matrix team x.id) [⟨0, sp, a, 2⟩] with
    | .wait s2 => .wait s2
    | .fail s2 c y recs => .fail s2 c y (addrOf recs)
    | .ok s2 l =>
      .moved (s2.modTeam team (fun tm => { tm with mat := (List.range t.ncores).foldl (fun m q =>
          m.putScale (scaleKey q (first + k)) (l.flatMap (fun z => z.2))) tm.mat }))

/-- A transfer goes on from the unit it has reached, as far as it can (R262, R203). -/
def State.runTransfer (s : State) (team : Nat) (x : MatItem) (total : Nat) (f : State → Nat → UnitEnd) (done : State → State) : State :=
  match runUnits f (total - x.landed) x.landed s with
  | (.moved s1, _) => done s1
  | (.wait s1, k) => (s1.matNext team x x.op k).push (.matrixTransferLand team x.id)
  | (.fail s1 c y a, k) => (s1.matNext team x x.op k).matFail team { x with landed := k } c y a

/-- MATRIX_TRANSFER_LAND (R262, R268, R270, R271, R273). -/
def execMatrixTransferLand (team id : Nat) (s : State) : Result :=
  match s.matHead team id with
  | none => .next s
  | some (t, x) =>
    wake x.gid (.matrixTransferLand team id) s fun _ =>
      match x.op with
      | .mld slot a st isB sp d =>
        let per := if isB then d.nc t.ncores else d.mc t.ncores
        .next (s.runTransfer team x (t.ncores * per) (fun s k => s.loadRow team t x slot a st isB sp d k) (fun s => s.matDone team x))
      | .mst a st acc fmt mode sp d =>
        .next (s.runTransfer team x (d.m * (if t.ncores = 4 then 2 else 1)) (fun s k => s.storeRow t x a st acc fmt mode sp d k)
          (fun s => s.matDone team x))
      | .mscale first a count sp =>
        .next (s.runTransfer team x count (fun s k => s.loadScale team t x first a sp k) (fun s => s.matDone team x))
      | .mloop acc a b sa sb ia ib count slot asp bsp zero d k loaded =>
        if zero || loaded || decide (count ≤ k) then .next s
        else
          let set_ := slot + k % 2 * (1 + d.nb t.ncores)
          let na := t.ncores * d.mc t.ncores
          .next (s.runTransfer team x (na + t.ncores * d.nc t.ncores) (fun s n =>
            if n < na then s.loadRow team t x set_ (a + k * ia) sa false asp d n
            else s.loadRow team t x (set_ + 1) (b + k * ib) sb true bsp d (n - na))
            (fun s => s.matNext team x (.mloop acc a b sa sb ia ib count slot asp bsp zero d k true) 0))
      | .mma _ _ _ _ _ _ => .next s
      | .mzero _ _ => .next s

end Sys2Proof.Machine
end

