-- ==== Sys2Proof/Machine/Reservoirs.lean ====
section
/-! DEFINITION. The reservoir instructions of the B slot (R301 to R305). -/

namespace Sys2Proof.Machine

/-- A reservoir (R120): COUNT, WSUM, TARGET and the sample of a w register. -/
structure Res where
  count : Nat
  wsum : Nat
  target : Nat
  sample : Nat
  deriving DecidableEq, Repr

def Res.of (x : BitVec 192) : Res := ⟨bits x.toNat 31 0, bits x.toNat 63 32, bits x.toNat 95 64, bits x.toNat 191 96⟩
def Res.word (r : Res) : BitVec 192 := BitVec.ofNat 192 (r.count + 2 ^ 32 * r.wsum + 2 ^ 64 * r.target + 2 ^ 96 * r.sample)

/-- A rounded result of +Inf becomes the largest finite value (R301). -/
def saturated (r : Nat × Flags) : Nat × Flags :=
  if r.1 = f32.infCode false then (f32.maxFin false, r.2 ||| flagOvf ||| flagInx ||| flagSat) else r

/-- A value that resup and resmg refuse: NaN, infinite or below 0. -/
def unusable (x : Num) : Bool := x.isNan || x.isInf || numLt false x (.zero false)

/-- Dr * s < w * 2^32, exactly (R302). A NaN s accepts nothing, and a weight of +0 or -0 is never accepted: where resset made WSUM negative
the pseudocode's compare alone would accept it, and the model follows the sentence (log 86). A draw of 0 against an s of -Inf is no number, and
accepts nothing (log 102). -/
def accepts (draw s w : Nat) : Bool :=
  !((f32.decode w).isZero) && numLt false (numMul (numOfInt draw) (f32.decode s)).1 (numMul (.fin ⟨false, 1, 32, false⟩) (f32.decode w)).1

/-- The candidate of weight w is accepted, WSUM being risen by it (R302). -/
def Res.accepted (r : Res) (draw w : Nat) : Bool := accepts draw (saturated (f32.add .rne 0 r.wsum w)).1 w

/-- One candidate of weight w taken by a reservoir (R302, R303): added counts, and what is kept if it is accepted. COUNT clamped at its largest value
raises no flag (log 97). -/
def Res.take (r : Res) (draw w added sample target : Nat) : Res × Flags :=
  let (s, fl) := saturated (f32.add .rne 0 r.wsum w)
  let r1 : Res := { r with count := min (r.count + added) 0xFFFFFFFF, wsum := s }
  (if r.accepted draw w then { r1 with sample := sample, target := target } else r1, fl)

/-- The words of a reservoir that taking a candidate writes, by number from COUNT up (R131). -/
def Res.writes (r : Res) (draw w : Nat) : List Nat := if r.accepted draw w then [0, 1, 2, 3, 4, 5] else [0, 1]

/-- resup in one lane (R302). -/
def Res.update (r : Res) (draw w sample target : Nat) : Res × Flags :=
  if unusable (f32.decode w) then (r, flagInv) else r.take draw w 1 sample target

/-- w of R303: p * S.WSUM / S.TARGET with one rounding. -/
def mergeWeight (src : Res) (p : Nat) : Nat × Flags :=
  let ok (x : Nat) : Bool := match f32.decode x with
    | .fin v => !v.neg
    | .nan => false
    | .inf _ => false
    | .zero _ => false
  if src.count = 0 || !(ok src.wsum && ok src.target) then (0, 0)
  else
    let (a, f1) := numMul (f32.decode p) (f32.decode src.wsum)
    let (b, f2) := numDiv a (f32.decode src.target)
    saturated (f32.finish .rne 0 (b, f1 ||| f2))

/-- resmg in one lane (R303). -/
def Res.merge (r src : Res) (draw p : Nat) : Res × Flags :=
  if unusable (f32.decode p) then (r, flagInv)
  else
    let (w, f1) := mergeWeight src p
    let (r1, f2) := r.take draw w src.count src.sample p
    (r1, f1 ||| f2)

/-- The capped reservoir of resfin (R304). -/
def Res.capped (r : Res) (cap : Nat) : Res × Flags :=
  if cap ≠ 0 ∧ cap < r.count then
    let (p, f1) := numMul (f32.decode r.wsum) (numOfInt cap)
    let (q, f2) := numDiv p (numOfInt r.count)
    let (c, f3) := f32.finish .rne 0 (q, f1 ||| f2)
    ({ r with wsum := c, count := cap }, f3)
  else (r, 0)

/-- The weight of resfin (R304). -/
def Res.final (r : Res) : Nat × Flags :=
  if r.count = 0 || (f32.decode r.target).isZero || (f32.decode r.wsum).isZero then (0, 0)
  else
    let (p, f1) := numMul (numOfInt r.count) (f32.decode r.target)
    let (q, f2) := numDiv (f32.decode r.wsum) p
    f32.finish .rne 0 (q, f1 ||| f2)

/-- THE FRAME OF A RESERVOIR INSTRUCTION (R301, R217): v registers as (number, count), w registers that it reads by number with the words read,
those that it writes by number, and one action for each active lane, which draws first if the instruction draws. -/
def resFrame (i : Instr) (gd : Guard) (vr vw : List (Nat × Nat)) (wr : List (Nat × List Nat)) (ww : List Nat) (draws : Bool) (s : State)
    (act : Group → Nat → Nat → Group × Flags) : Result :=
  withIssue i 8 s fun c =>
    let g := c.g
    let on := c.run &&& g.guardMask gd
    let vkeys (l : List (Nat × Nat)) : List Nat := l.flatMap (fun e => vKeys e.1 e.2)
    if !((vr ++ vw).all (fun e => decide (e.1 + e.2 ≤ g.lbud)) && (wr.map (fun e => e.1) ++ ww).all (fun n => decide (n < g.wbud))) then c.trap s 0x05 []
    else if g.blocked (vkeys (vr ++ vw) ++ (wr.map (fun e => e.1) ++ ww).map wKey ++ (if draws then [drawKey] else [])) then s.hold
    else if g.badWords on (vkeys vr ++ wr.flatMap (fun e => e.2.map (wWord e.1)) ++ (if draws then [drawKey] else [])) then c.badTrap s
    else
      c.done s ((lanesOf on).foldl (fun g l =>
        let (d, g1) : Nat × Group := if draws then
            (let (d, h) := g.draw l
             (d.toNat, h)) else (0, g)
        let (g2, fl) := act g1 l d
        g2.raiseFlags [fl]) g)

/-- RESUP (R302). -/
def execResup (w : BitVec 3) (a b c : BitVec 7) (gd : Guard) (s : State) : Result :=
  resFrame (.resup w a b c gd) gd [(a.toNat, 3), (b.toNat, 1), (c.toNat, 1)] [] [(w.toNat, [0, 1])] [w.toNat] true s fun g l d =>
    let old := Res.of (g.readW l w.toNat)
    let x := (g.readV l b.toNat).toNat
    let (r, fl) := old.update d x (g.readWide l a.toNat 3) (g.readV l c.toNat).toNat
    (g.writeWords l w.toNat r.word (if unusable (f32.decode x) then [] else old.writes d x), fl)

/-- RESMG (R303). -/
def execResmg (wd wa : BitVec 3) (c : BitVec 7) (gd : Guard) (s : State) : Result :=
  resFrame (.resmg wd wa c gd) gd [(c.toNat, 1)] [] [(wa.toNat, [0, 1, 2, 3, 4, 5]), (wd.toNat, [0, 1])] [wd.toNat] true s fun g l d =>
    let old := Res.of (g.readW l wd.toNat)
    let src := Res.of (g.readW l wa.toNat)
    let p := (g.readV l c.toNat).toNat
    let (r, fl) := old.merge src d p
    (g.writeWords l wd.toNat r.word (if unusable (f32.decode p) then [] else old.writes d (mergeWeight src p).1), fl)

/-- RESFIN (R304). -/
def execResfin (d : BitVec 7) (w : BitVec 3) (cap : BitVec 16) (gd : Guard) (s : State) : Result :=
  resFrame (.resfin d w cap gd) gd [] [(d.toNat, 1)] [(w.toNat, [0, 1, 2])] [w.toNat] false s fun g l _ =>
    let old := Res.of (g.readW l w.toNat)
    let (r, f1) := old.capped cap.toNat
    let (x, f2) := r.final
    (((g.writeWords l w.toNat r.word (if cap.toNat ≠ 0 ∧ cap.toNat < old.count then [0, 1] else [])).writeV l d.toNat (BitVec.ofNat 32 x)), f1 ||| f2)

/-- The v registers of a FIELD and its place in the w register (R305): count, then low bit. -/
def resField (field : BitVec 3) : Nat × Nat :=
  match field.toNat with
  | 0 => (3, 96)
  | 1 => (1, 64)
  | 2 => (1, 32)
  | 3 => (1, 0)
  | _ => (6, 0)

/-- The words of a FIELD, by number from COUNT up. -/
def fieldWords (field : BitVec 3) : List Nat := (List.range (resField field).1).map (fun j => (resField field).2 / 32 + j)

/-- RESGET (R305). -/
def execResget (d : BitVec 7) (w : BitVec 3) (field : BitVec 3) (gd : Guard) (s : State) : Result :=
  let (n, lo) := resField field
  resFrame (.resget d w field gd) gd [] [(d.toNat, n)] [(w.toNat, fieldWords field)] [] false s fun g l _ =>
    (g.writeWide l d.toNat n ((g.readW l w.toNat).toNat >>> lo), 0)

/-- RESSET (R305). -/
def execResset (w : BitVec 3) (a : BitVec 7) (field : BitVec 3) (gd : Guard) (s : State) : Result :=
  let (n, lo) := resField field
  resFrame (.resset w a field gd) gd [(a.toNat, n)] [] [] [w.toNat] false s fun g l _ =>
    let old := (g.readW l w.toNat).toNat
    let mask := (2 ^ (32 * n) - 1) <<< lo
    (g.writeWords l w.toNat (BitVec.ofNat 192 ((old - (old &&& mask)) ||| ((g.readWide l a.toNat n) <<< lo))) (fieldWords field), 0)

/-- RESCLR (R305). -/
def execResclr (w : BitVec 3) (gd : Guard) (s : State) : Result :=
  resFrame (.resclr w gd) gd [] [] [] [w.toNat] false s fun g l _ => (g.writeW l w.toNat 0, 0)

end Sys2Proof.Machine
end

