-- ==== Sys2Proof/Machine/Inject.lean ====
section
/-! DEFINITION. A lane instruction that takes its sources from an operand log (R469, R471): the same instruction over fixed
registers, A at v0, B at v8, C at v12, its destination at v16. -/

namespace Sys2Proof.Machine

/-- A destination at v16; a channel stays a channel (R471). -/
def seatDst : LDst → LDst
  | .reg _ => .reg 16
  | .idx _ _ => .reg 16
  | .chan p n => .chan p n

/-- An extended form over the fixed registers. -/
def reseatLx (f : LX) : LX := { f with d := seatDst f.d, a := .reg 0, b := .reg 8, c := .reg 12, guard := Guard.none }

/-- One whose D and C name predicates. -/
def reseatTest (f : LX) : LX := { f with a := .reg 0, b := .reg 8, guard := Guard.none }

/-- The operands of a form with a lane destination and one lane source. -/
def laneRegs (d : LDst) (dw : Nat) (a : LSrc) (aw : Nat) : LaneForm := ⟨d, dw, ⟨a, aw⟩, noSrc, noSrc, .s32, Guard.none, 0, []⟩

/-- A short opcode's twin over the fixed registers, and its own operands; xset and xget name an x register. -/
def reseatXf (op : LaneOp) (f : LX) : Option (Instr × LaneForm) :=
  let sh := op.shape
  let own : LaneForm := ⟨f.d, sh.dw, ⟨f.a, sh.aw⟩, ⟨f.b, sh.bw⟩, noSrc, sh.ty, f.guard, 0, []⟩
  match op with
  | .xset => some (.laneXf op { f with b := .reg 8, guard := Guard.none }, { own with d := .reg 0 })
  | .xget => some (.laneXf op { f with d := seatDst f.d, guard := Guard.none }, { own with b := noSrc, extra := [xKey (smallSrc f.b)] })
  | _ => some (.laneXf op { f with d := seatDst f.d, a := .reg 0, b := .reg 8, guard := Guard.none }, own)

def reseatShort (op : LaneOp) (d : LDst) (a b : LSrc) : Option (Instr × LaneForm) :=
  reseatXf op ⟨d, a, b, .reg 0, Guard.none, 0, 0, 0⟩

/-- A lane instruction that accesses no memory of its own: it over the fixed registers, and its own operands. w64: the group
has 64 lanes. -/
def laneTwin (w64 : Bool) (i : Instr) : Option (Instr × LaneForm) :=
  match i with
  | .faddF32 d a b => reseatShort .faddF32 (asDst d) (asSrc a) (asSrc b)
  | .fsubF32 d a b => reseatShort .fsubF32 (asDst d) (asSrc a) (asSrc b)
  | .fmulF32 d a b => reseatShort .fmulF32 (asDst d) (asSrc a) (asSrc b)
  | .fminF32 d a b => reseatShort .fminF32 (asDst d) (asSrc a) (asSrc b)
  | .fmaxF32 d a b => reseatShort .fmaxF32 (asDst d) (asSrc a) (asSrc b)
  | .fdivF32 d a b => reseatShort .fdivF32 (asDst d) (asSrc a) (asSrc b)
  | .fsqrtF32 d b => reseatShort .fsqrtF32 (asDst d) (.reg 0) (asSrc b)
  | .daddF64 d a b => reseatShort .daddF64 (asDst d) (asSrc a) (asSrc b)
  | .dsubF64 d a b => reseatShort .dsubF64 (asDst d) (asSrc a) (asSrc b)
  | .dmulF64 d a b => reseatShort .dmulF64 (asDst d) (asSrc a) (asSrc b)
  | .dminF64 d a b => reseatShort .dminF64 (asDst d) (asSrc a) (asSrc b)
  | .dmaxF64 d a b => reseatShort .dmaxF64 (asDst d) (asSrc a) (asSrc b)
  | .ddivF64 d a b => reseatShort .ddivF64 (asDst d) (asSrc a) (asSrc b)
  | .dsqrtF64 d b => reseatShort .dsqrtF64 (asDst d) (.reg 0) (asSrc b)
  | .hadd2F16 d a b => reseatShort .hadd2F16 (asDst d) (asSrc a) (asSrc b)
  | .hmul2F16 d a b => reseatShort .hmul2F16 (asDst d) (asSrc a) (asSrc b)
  | .hmin2F16 d a b => reseatShort .hmin2F16 (asDst d) (asSrc a) (asSrc b)
  | .hmax2F16 d a b => reseatShort .hmax2F16 (asDst d) (asSrc a) (asSrc b)
  | .hadd2Bf16 d a b => reseatShort .hadd2Bf16 (asDst d) (asSrc a) (asSrc b)
  | .hmul2Bf16 d a b => reseatShort .hmul2Bf16 (asDst d) (asSrc a) (asSrc b)
  | .hmin2Bf16 d a b => reseatShort .hmin2Bf16 (asDst d) (asSrc a) (asSrc b)
  | .hmax2Bf16 d a b => reseatShort .hmax2Bf16 (asDst d) (asSrc a) (asSrc b)
  | .iaddS32 d a b => reseatShort .iaddS32 (asDst d) (asSrc a) (asSrc b)
  | .isubS32 d a b => reseatShort .isubS32 (asDst d) (asSrc a) (asSrc b)
  | .imulS32 d a b => reseatShort .imulS32 (asDst d) (asSrc a) (asSrc b)
  | .imulhiS32 d a b => reseatShort .imulhiS32 (asDst d) (asSrc a) (asSrc b)
  | .imulhiN32 d a b => reseatShort .imulhiN32 (asDst d) (asSrc a) (asSrc b)
  | .iminS32 d a b => reseatShort .iminS32 (asDst d) (asSrc a) (asSrc b)
  | .iminN32 d a b => reseatShort .iminN32 (asDst d) (asSrc a) (asSrc b)
  | .imaxS32 d a b => reseatShort .imaxS32 (asDst d) (asSrc a) (asSrc b)
  | .imaxN32 d a b => reseatShort .imaxN32 (asDst d) (asSrc a) (asSrc b)
  | .iaddS64 d a b => reseatShort .iaddS64 (asDst d) (asSrc a) (asSrc b)
  | .isubS64 d a b => reseatShort .isubS64 (asDst d) (asSrc a) (asSrc b)
  | .qaddS32 d a b => reseatShort .qaddS32 (asDst d) (asSrc a) (asSrc b)
  | .qsubS32 d a b => reseatShort .qsubS32 (asDst d) (asSrc a) (asSrc b)
  | .iabsS32 d b => reseatShort .iabsS32 (asDst d) (.reg 0) (asSrc b)
  | .inegS32 d b => reseatShort .inegS32 (asDst d) (.reg 0) (asSrc b)
  | .andB32 d a b => reseatShort .andB32 (asDst d) (asSrc a) (asSrc b)
  | .orB32 d a b => reseatShort .orB32 (asDst d) (asSrc a) (asSrc b)
  | .xorB32 d a b => reseatShort .xorB32 (asDst d) (asSrc a) (asSrc b)
  | .notB32 d b => reseatShort .notB32 (asDst d) (.reg 0) (asSrc b)
  | .shlB32 d a b => reseatShort .shlB32 (asDst d) (asSrc a) (asSrc b)
  | .shrN32 d a b => reseatShort .shrN32 (asDst d) (asSrc a) (asSrc b)
  | .shrS32 d a b => reseatShort .shrS32 (asDst d) (asSrc a) (asSrc b)
  | .rotB32 d a b => reseatShort .rotB32 (asDst d) (asSrc a) (asSrc b)
  | .popcB32 d b => reseatShort .popcB32 (asDst d) (.reg 0) (asSrc b)
  | .clzB32 d b => reseatShort .clzB32 (asDst d) (.reg 0) (asSrc b)
  | .brevB32 d b => reseatShort .brevB32 (asDst d) (.reg 0) (asSrc b)
  | .movB32 d b => reseatShort .movB32 (asDst d) (.reg 0) (asSrc b)
  | .movB64 d b => reseatShort .movB64 (asDst d) (.reg 0) (asSrc b)
  | .lidB32 d => reseatShort .lidB32 (asDst d) (.reg 0) (.reg 0)
  | .xset x b => reseatShort .xset (.reg (x.setWidth 7)) (.reg 0) (asSrc b)
  | .xget d x => reseatShort .xget (asDst d) (.reg 0) (.reg (x.setWidth 7))
  | .frcpF32 d b => reseatShort .frcpF32 (asDst d) (.reg 0) (asSrc b)
  | .frsqF32 d b => reseatShort .frsqF32 (asDst d) (.reg 0) (asSrc b)
  | .fex2F32 d b => reseatShort .fex2F32 (asDst d) (.reg 0) (asSrc b)
  | .flg2F32 d b => reseatShort .flg2F32 (asDst d) (.reg 0) (asSrc b)
  | .fsinF32 d b => reseatShort .fsinF32 (asDst d) (.reg 0) (asSrc b)
  | .fcosF32 d b => reseatShort .fcosF32 (asDst d) (.reg 0) (asSrc b)
  | .lnrdB32 d a b => reseatShort .lnrdB32 (asDst d) (asSrc a) (asSrc b)
  | .lnrdxB32 d a b => reseatShort .lnrdxB32 (asDst d) (asSrc a) (asSrc b)
  | .fmaF32 f => some (.fmaF32 (reseatLx f), lxForm f ⟨1, 1, 1, 1, .f32, true⟩ 0)
  | .fmaF64 f => some (.fmaF64 (reseatLx f), lxForm f ⟨2, 2, 2, 2, .f64, true⟩ 0)
  | .hfma2F16 f => some (.hfma2F16 (reseatLx f), lxForm f ⟨1, 1, 1, 1, .h16, true⟩ 0)
  | .hfma2Bf16 f => some (.hfma2Bf16 (reseatLx f), lxForm f ⟨1, 1, 1, 1, .h16, true⟩ 0)
  | .imadS32 f => some (.imadS32 (reseatLx f), lxForm f ⟨1, 1, 1, 1, .s32, false⟩ 0)
  | .imadS64 f => some (.imadS64 (reseatLx f), lxForm f ⟨2, 1, 1, 2, .s32, false⟩ 0)
  | .selB32 f => some (.selB32 { reseatTest f with d := seatDst f.d }, ⟨f.d, 1, ⟨f.a, 1⟩, ⟨f.b, 1⟩, noSrc, .s32, f.guard, 0, []⟩)
  | .bool3B32 f => some (.bool3B32 (reseatLx f), lxForm f ⟨1, 1, 1, 1, .s32, false⟩ 0)
  | .fcmpF32 f => some (.fcmpF32 (reseatTest f), ⟨.reg 0, 0, ⟨f.a, 1⟩, ⟨f.b, 1⟩, noSrc, .f32, f.guard, 0, []⟩)
  | .dcmpF64 f => some (.dcmpF64 (reseatTest f), ⟨.reg 0, 0, ⟨f.a, 2⟩, ⟨f.b, 2⟩, noSrc, .f64, f.guard, 0, []⟩)
  | .fclassF32 f => some (.fclassF32 (reseatLx f), lxForm f ⟨1, 0, 1, 0, .f32, false⟩ 0)
  | .icmpS32 f => some (.icmpS32 (reseatTest f), ⟨.reg 0, 0, ⟨f.a, 1⟩, ⟨f.b, 1⟩, noSrc, .s32, f.guard, 0, []⟩)
  | .icmpN32 f => some (.icmpN32 (reseatTest f), ⟨.reg 0, 0, ⟨f.a, 1⟩, ⟨f.b, 1⟩, noSrc, .n32, f.guard, 0, []⟩)
  | .icmpS64 f => some (.icmpS64 (reseatTest f), ⟨.reg 0, 0, ⟨f.a, 2⟩, ⟨f.b, 2⟩, noSrc, .s64, f.guard, 0, []⟩)
  | .icmpN64 f => some (.icmpN64 (reseatTest f), ⟨.reg 0, 0, ⟨f.a, 2⟩, ⟨f.b, 2⟩, noSrc, .n64, f.guard, 0, []⟩)
  | .cvt f => some (.cvt { f with d := .reg 16, a := .reg 0, guard := Guard.none }, laneRegs (vDst f.d) (fmtRegs f.dst) (vSrc f.a) (fmtRegs f.src))
  | .cvtpk f =>
    some (.cvtpk { f with d := .reg 16, a := .reg 0, guard := Guard.none },
      laneRegs (vDst f.d) (cvtpkGroup f.src f.dst).2.2 (vSrc f.a) (cvtpkGroup f.src f.dst).2.1)
  | .frndF32 f => some (.frndF32 (reseatLx f), lxForm f ⟨1, 0, 1, 0, .f32, true⟩ 0)
  | .bselB32 f => some (.bselB32 (reseatLx f), lxForm f ⟨1, 1, 1, 1, .s32, false⟩ 0)
  | .bfeB32 f => some (.bfeB32 (reseatLx f), lxForm f ⟨1, 1, 1, 0, .s32, false⟩ 0)
  | .bfiB32 f => some (.bfiB32 (reseatLx f), lxForm f ⟨1, 1, 1, 1, .s32, false⟩ 0)
  | .dot4S8 f => some (.dot4S8 (reseatLx f), lxForm f ⟨1, 1, 1, 1, .s8, false⟩ 0)
  | .movi d imm _ => some (.movi 16 imm Guard.none, laneRegs (.reg d) 1 (.reg 0) 0)
  | .agree pd pa neg kind _ => some (.agree pd pa neg kind Guard.none, laneRegs (.reg 0) 0 (.reg 0) 0)
  | .lmask d pa neg _ => some (.lmask 16 pa neg Guard.none, laneRegs (.reg d) (if w64 then 2 else 1) (.reg 0) 0)
  | .rsumF32 f => some (.rsumF32 (reseatLx f), lxForm f ⟨1, 1, 0, 0, .s32, false⟩ 0)
  | .rminF32 f => some (.rminF32 (reseatLx f), lxForm f ⟨1, 1, 0, 0, .s32, false⟩ 0)
  | .rmaxF32 f => some (.rmaxF32 (reseatLx f), lxForm f ⟨1, 1, 0, 0, .s32, false⟩ 0)
  | .rsumS32 f => some (.rsumS32 (reseatLx f), lxForm f ⟨1, 1, 0, 0, .s32, false⟩ 0)
  | .rminS32 f => some (.rminS32 (reseatLx f), lxForm f ⟨1, 1, 0, 0, .s32, false⟩ 0)
  | .rmaxS32 f => some (.rmaxS32 (reseatLx f), lxForm f ⟨1, 1, 0, 0, .s32, false⟩ 0)
  | .resup w a b c _ =>
    some (.resup w 0 8 12 Guard.none, ⟨.reg 0, 0, ⟨.reg a, 3⟩, ⟨.reg b, 1⟩, ⟨.reg c, 1⟩, .s32, Guard.none, 0, []⟩)
  | .resmg wd wa c _ => some (.resmg wd wa 12 Guard.none, ⟨.reg 0, 0, noSrc, noSrc, ⟨.reg c, 1⟩, .s32, Guard.none, 0, []⟩)
  | .resfin d w cap _ => some (.resfin 16 w cap Guard.none, laneRegs (.reg d) 1 (.reg 0) 0)
  | .resget d w field _ => some (.resget 16 w field Guard.none, laneRegs (.reg d) (resField field).1 (.reg 0) 0)
  | .resset w a field _ => some (.resset w 0 field Guard.none, laneRegs (.reg 0) 0 (.reg a) (resField field).1)
  | .resclr w _ => some (.resclr w Guard.none, laneRegs (.reg 0) 0 (.reg 0) 0)
  | .drawB32 d _ => some (.drawB32 16 Guard.none, laneRegs (.reg d) 1 (.reg 0) 0)
  | .laneXf op f => reseatXf op f
  | _ => none

end Sys2Proof.Machine
end

