-- ==== Sys2Proof/Machine/Rays.lean ====
section
/-! DEFINITION. Traversal queries and camera rays (R279 to R298). -/

namespace Sys2Proof.Machine

/-! ## Exact values -/

/-- The bytes [off, off + n) of a record given as one little-endian number. -/
def fieldAt (x off n : Nat) : Nat := x / 256 ^ off % 256 ^ n

/-- A finite FP32 code in units of 2^-149. -/
def fixed32 (code : Nat) : Int :=
  match f32.decode code with
  | .fin x => if x.neg then -((x.m <<< (x.e + 149).toNat : Nat) : Int) else ((x.m <<< (x.e + 149).toNat : Nat) : Int)
  | .nan => 0
  | .inf _ => 0
  | .zero _ => 0

def finite32 (code : Nat) : Bool := !((f32.decode code).isNan || (f32.decode code).isInf)

/-- z * 2^e rounded once with RNE (R145); an exact 0 is +0 (log 19). -/
def roundInt (z e : Int) : Nat := if z = 0 then 0 else (f32.round .rne 0 ⟨decide (z < 0), z.natAbs, e, false⟩).1

/-- n / d rounded once with RNE; an exact 0 is +0 (log 19). -/
def roundFrac (n d : Int) : Nat :=
  if n = 0 then 0
  else (f32.round .rne 0 (exactDiv ⟨decide (n < 0), n.natAbs, 0, false⟩ ⟨decide (d < 0), d.natAbs, 0, false⟩)).1

/-- A quotient with a positive denominator. -/
structure Frac where
  n : Int
  d : Int
  deriving DecidableEq, Repr

def Frac.of (n d : Int) : Frac := if d < 0 then ⟨-n, -d⟩ else ⟨n, d⟩
def Frac.le (a b : Frac) : Bool := decide (a.n * b.d ≤ b.n * a.d)
def Frac.lt (a b : Frac) : Bool := !(b.le a)

/-- Scaled FP32 values as quotients. -/
def Frac.ofFixed (z : Int) : Frac := ⟨z, 2 ^ 149⟩

abbrev Vec := Int × Int × Int

def vecOf (l : List Nat) : Vec := (fixed32 (l.getD 0 0), fixed32 (l.getD 1 0), fixed32 (l.getD 2 0))
def Vec.sub (a b : Vec) : Vec := (a.1 - b.1, a.2.1 - b.2.1, a.2.2 - b.2.2)

/-- det(a, b, c) of R285. -/
def det (a b c : Vec) : Int :=
  a.1 * (b.2.1 * c.2.2 - b.2.2 * c.2.1) - a.2.1 * (b.1 * c.2.2 - b.2.2 * c.1) + a.2.2 * (b.1 * c.2.1 - b.2.1 * c.1)

/-! ## Rays and queries -/

/-- A void ray (R291). -/
def rayVoid (ray : List Nat) : Bool :=
  let at' (k : Nat) : Num := f32.decode (ray.getD k 0)
  (List.range 8).any (fun k => (at' k).isNan) || [0, 1, 2, 4, 5, 6].any (fun k => (at' k).isInf) ||
    [4, 5, 6].all (fun k => (at' k).isZero) || (at' 3).isInf || numLt false (at' 7) (at' 3)

def Query.idle : Query := ⟨.idle, [], 0, 0, none, none, []⟩

/-- A query ended with a status (R288): nothing of its walk is left. -/
def Query.endWith (q : Query) (status : Nat) : Query := { q with state := .done status, cand := none, stack := [] }

/-- End(BEST is none ? 0 : 1) of R287. -/
def Query.finish (q : Query) : Query := q.endWith (if q.best.isSome then 1 else 0)

/-- A query whose stack is empty ends (R287). -/
def Query.settle (q : Query) : Query := if q.state = .active ∧ q.stack = [] then q.finish else q

/-- A trace's new query (R288, R291, R294). -/
def Query.start (ray : List Nat) (flags mask root : Nat) (helper : Bool) : Query :=
  let q : Query := ⟨.active, ray, flags, mask, none, none, [.node root 1 none]⟩
  if helper || rayVoid ray then q.endWith 0 else q

/-- The traversal instructions that go on with a query. -/
inductive TravKind where
  | trace
  | next
  | accept
  | hit
  deriving DecidableEq, Repr

/-- What trnext, traccept and trhit make of a query (R288, R294). -/
def Query.go (k : TravKind) (helper : Bool) (q : Query) : Query :=
  if helper then ({ q with best := none } : Query).endWith 0
  else
    match q.state with
    | .cand =>
      (match k with
       | .accept =>
         let q1 : Query := { q with best := q.cand, cand := none, state := .active }
         if bit q.flags 4 then q1.endWith 1 else q1.settle
       | .hit => q.finish
       | .next => ({ q with cand := none, state := .active } : Query).settle
       | .trace => q)
    | .idle => q
    | .done _ => q
    | .active => if k = .hit then q.finish else q

/-- The block of a status without a result (R292). -/
def emptyBlock (code : Nat) : List Nat := [code, 0x7F800000, 0, 0, 0xFFFFFFFF, 0xFFFFFFFF, 0, 0]

/-- A hit's block (R292). -/
def Hit.block (h : Hit) (code : Nat) : List Nat :=
  [code + (if h.front then 4 else 0), h.t, h.u, h.v, h.primId, h.instId, h.tuser, h.iuser]

/-- The result block of a query (R292). -/
def Query.block (q : Query) : List Nat :=
  match q.state with
  | .cand =>
    (match q.cand with
     | some h => h.block 2
     | none => emptyBlock 0)
  | .done status =>
    if status = 1 then
      (match q.best with
       | some h => h.block 1
       | none => emptyBlock 0)
    else emptyBlock status
  | .idle => emptyBlock 0
  | .active => emptyBlock 0

/-! ## Reading the structure -/

/-- The bytes that a visit reads: their address and number (R279 to R281). -/
def Visit.range : Visit → Nat × Nat
  | .node va _ _ => (va, 128)
  | .inst va => (va, 64)
  | .tri va next _ _ => ((va + 48 * next) % 2 ^ 64, 48)

/-- The address of a visit breaks R60 or its alignment, or the node lies too deep (R282). -/
def Visit.malformed (v : Visit) : Bool :=
  let (a, n) := v.range
  !(canonical a && canonical ((a + (n - 1)) % 2 ^ 64)) ||
    (match v with
     | .node va depth _ => !(va % 128 == 0) || decide (16 < depth)
     | .inst va => !(va % 64 == 0)
     | .tri va _ _ _ => !(va % 16 == 0))

/-- A child word (R280) used in a level: bottom says which. -/
def childOk (bottom : Bool) (w : Nat) : Bool :=
  match bits w 31 30 with
  | 0 => bits w 29 26 == 0
  | 1 => bottom
  | 2 => !bottom
  | _ => false

/-- A node meets R282: fields, child words in use, finite ORIGIN. -/
def nodeOk (x : Nat) (bottom : Bool) : Bool :=
  let cnt := fieldAt x 0x0F 1
  let base := fieldAt x 0x10 8
  (List.range 3).all (fun k => finite32 (fieldAt x (4 * k) 4) && decide (1 ≤ fieldAt x (0x0C + k) 1) &&
    decide (fieldAt x (0x0C + k) 1 ≤ 254)) &&
  decide (1 ≤ cnt) && decide (cnt ≤ 8) && base % 128 == 0 && canonical base && fieldAt x 0x18 8 == 0 && fieldAt x 0x70 16 == 0 &&
  (List.range cnt).all (fun c => childOk bottom (fieldAt x (0x50 + 4 * c) 4))

/-- One axis of R283: not entered; or no limit; or the slab's start and end. -/
def slabAxis (lo hi o d : Int) : Option (Option (Frac × Frac)) :=
  if d = 0 then (if lo ≤ o ∧ o ≤ hi then some none else none)
  else
    let a := Frac.of (lo - o) d
    let b := Frac.of (hi - o) d
    some (some (if a.le b then (a, b) else (b, a)))

/-- Child c's slab on axis k of a node (R279, R283). -/
def childAxis (x c k : Nat) (o d : Int) : Option (Option (Frac × Frac)) :=
  let origin := fixed32 (fieldAt x (4 * k) 4)
  let e := fieldAt x (0x0C + k) 1
  let qlo := fieldAt x (0x20 + 6 * c + k) 1
  let qhi := fieldAt x (0x20 + 6 * c + 3 + k) 1
  if qhi < qlo then none else slabAxis (origin + qlo * 2 ^ (e + 22)) (origin + qhi * 2 ^ (e + 22)) o d

/-- The largest start and smallest end of the slabs. -/
def slabMeet : List (Frac × Frac) → Option (Frac × Frac)
  | [] => none
  | s :: r =>
    match slabMeet r with
    | none => some s
    | some t => some (if s.1.le t.1 then t.1 else s.1, if s.2.le t.2 then s.2 else t.2)

/-- BOUND of R283; none is an infinite TMAX. -/
def Query.bound (q : Query) : Option Frac :=
  match q.best with
  | some h => some ⟨h.tn, h.td⟩
  | none => if (f32.decode (q.ray.getD 7 0)).isInf then none else some (Frac.ofFixed (fixed32 (q.ray.getD 7 0)))

/-- A quotient is at most a bound. -/
def underBound (a : Frac) : Option Frac → Bool
  | none => true
  | some b => a.le b

/-- The ray that a visit uses, O and D: its instance's, or the query's own. -/
def Query.rayIn (q : Query) : Option Entered → List Nat × List Nat
  | some i => (i.o, i.d)
  | none => (q.ray.take 3, (q.ray.drop 4).take 3)

/-- The start of child c when it is entered (R283). -/
def Query.enters (q : Query) (inst : Option Entered) (x c : Nat) : Option Frac :=
  let (o, d) := q.rayIn inst
  let axes := (List.range 3).map (fun k => childAxis x c k (fixed32 (o.getD k 0)) (fixed32 (d.getD k 0)))
  if axes.any Option.isNone then none
  else
    match slabMeet (axes.filterMap (fun a => a.bind id)) with
    | none => none
    | some (ta, tb) =>
      if ta.le tb && (Frac.ofFixed (fixed32 (q.ray.getD 3 0))).le tb && underBound ta q.bound then some ta else none

/-- Children placed by (ta, c): c rises from call to call, so an equal ta goes behind. -/
def placeChild (e : Frac × Nat) : List (Frac × Nat) → List (Frac × Nat)
  | [] => [e]
  | h :: r => if e.1.lt h.1 then e :: h :: r else h :: placeChild e r

/-- What a child word adds to the stack, first popped first (R280, R287). -/
def childVisits (inst : Option Entered) (depth base w : Nat) : List Visit :=
  let a := (base + 128 * bits w 25 0) % 2 ^ 64
  match bits w 31 30 with
  | 0 => [.node a (depth + 1) inst]
  | 1 =>
    match inst with
    | some i => [.tri a 0 (bits w 29 26) i]
    | none => []
  | _ => (List.range (bits w 29 26 + 1)).map (fun j => .inst ((a + 64 * j) % 2 ^ 64))

/-- A node popped (R287). -/
def Query.atNode (q : Query) (x depth : Nat) (inst : Option Entered) (rest : List Visit) : Query :=
  if !nodeOk x inst.isSome then q.endWith 3
  else
    let l := (List.range (fieldAt x 0x0F 1)).foldl (fun l c =>
      match q.enters inst x c with
      | some ta => placeChild (ta, c) l
      | none => l) []
    { q with stack := l.flatMap (fun e => childVisits inst depth (fieldAt x 0x10 8) (fieldAt x (0x50 + 4 * e.2) 4)) ++ rest }

/-- An instance record meets R282. -/
def instOk (x : Nat) : Bool :=
  let fl := fieldAt x 0x3D 1
  (List.range 12).all (fun k => finite32 (fieldAt x (4 * k) 4)) && fieldAt x 0x30 8 % 128 == 0 && canonical (fieldAt x 0x30 8) &&
    decide (fl < 8) && !(bit fl 0 && bit fl 1)

/-- Row k of the transform applied to a point or a direction, rounded once (R284). -/
def transformRow (x k : Nat) (v : Vec) (point : Bool) : Nat :=
  let m (j : Nat) : Int := fixed32 (fieldAt x (16 * k + 4 * j) 4)
  roundInt (m 0 * v.1 + m 1 * v.2.1 + m 2 * v.2.2 + (if point then m 3 * 2 ^ 149 else 0)) (-298)

/-- An instance popped (R284, R287). -/
def Query.atInst (q : Query) (va x : Nat) (rest : List Visit) : Query :=
  if !instOk x then q.endWith 3
  else
    let (o, d) := q.rayIn none
    let o1 := (List.range 3).map (fun k => transformRow x k (vecOf o) true)
    let d1 := (List.range 3).map (fun k => transformRow x k (vecOf d) false)
    if fieldAt x 0x3C 1 &&& q.mask = 0 then { q with stack := rest }
    else if (o1 ++ d1).any (fun c => !finite32 c) || d1.all (fun c => c % 2 ^ 31 == 0) then { q with stack := rest }
    else { q with stack := .node (fieldAt x 0x30 8) 1 (some ⟨va, fieldAt x 0x38 4, fieldAt x 0x3D 1, fieldAt x 0x3E 2, o1, d1⟩) :: rest }

/-- The test of R285 on a triangle record. -/
def Query.triHit (q : Query) (i : Entered) (va x : Nat) : Option Hit :=
  let vert (k : Nat) : List Nat := (List.range 3).map (fun j => fieldAt x (12 * k + 4 * j) 4)
  if (List.range 3).any (fun k => (vert k).any (fun c => !finite32 c)) then none
  else
    let o := vecOf i.o
    let d := vecOf i.d
    let v0 := Vec.sub (vecOf (vert 0)) o
    let v1 := Vec.sub (vecOf (vert 1)) o
    let v2 := Vec.sub (vecOf (vert 2)) o
    let e0 := det v1 v2 d
    let e1 := det v2 v0 d
    let e2 := det v0 v1 d
    let s := e0 + e1 + e2
    let inside := (decide (0 < s) && decide (0 ≤ e0) && decide (0 ≤ e1) && decide (0 ≤ e2)) ||
      (decide (s < 0) && decide (e0 ≤ 0) && decide (e1 ≤ 0) && decide (e2 ≤ 0))
    let t := det v0 v1 v2
    let tf := Frac.of t s
    let tmax : Option Frac := if (f32.decode (q.ray.getD 7 0)).isInf then none else some (Frac.ofFixed (fixed32 (q.ray.getD 7 0)))
    let culled := !(bit i.flags 2) && ((bit q.flags 2 && decide (s < 0)) || (bit q.flags 3 && decide (0 < s)))
    if inside && (Frac.ofFixed (fixed32 (q.ray.getD 3 0))).le tf && underBound tf tmax && !culled then
      some ⟨tf.n, tf.d, i.id, fieldAt x 0x24 4, i.addr, va, decide (0 < s), roundFrac t s, roundFrac e1 s, roundFrac e2 s,
        fieldAt x 0x28 4, i.user⟩
    else none

/-- Lexicographic order of identifiers and addresses. -/
def lexLt : List Nat → List Nat → Bool
  | [], _ => false
  | _ :: _, [] => false
  | a :: r, b :: t => decide (a < b) || (a == b && lexLt r t)

/-- A hit is better than another (R286). -/
def Hit.better (a b : Hit) : Bool :=
  let x : Frac := ⟨a.tn, a.td⟩
  let y : Frac := ⟨b.tn, b.td⟩
  x.lt y || (x.le y && y.le x && lexLt [a.instId, a.primId, a.instAddr, a.triAddr] [b.instId, b.primId, b.instAddr, b.triAddr])

/-- A triangle is opaque (R285). -/
def opaqueTri (rayFlags instFlags triFlags : Nat) : Bool :=
  if bit rayFlags 0 then true
  else if bit rayFlags 1 then false
  else if bit instFlags 0 then true
  else if bit instFlags 1 then false
  else bit triFlags 0

/-- Triangle record next of a leaf tested (R287). -/
def Query.atTri (q : Query) (va next n : Nat) (i : Entered) (x : Nat) (rest : List Visit) : Query :=
  let later : List Visit := if next < n then .tri va (next + 1) n i :: rest else rest
  let fl := fieldAt x 0x2C 4
  if 1 < fl then q.endWith 3
  else
    match q.triHit i ((va + 48 * next) % 2 ^ 64) x with
    | none => { q with stack := later }
    | some h =>
      let wins := match q.best with
        | none => true
        | some b => h.better b
      if !wins then { q with stack := later }
      else if opaqueTri q.flags i.flags fl then
        (if bit q.flags 4 then ({ q with best := some h } : Query).endWith 1 else { q with best := some h, stack := later })
      else { q with cand := some h, state := .cand, stack := later }

/-- One step of a walk: the entry on top of the stack, with the bytes it reads (R287). -/
def Query.step (q : Query) (x : Nat) : Query :=
  match q.stack with
  | [] => q.settle
  | v :: rest =>
    (match v with
     | .node _ depth inst => q.atNode x depth inst rest
     | .inst va => q.atInst va x rest
     | .tri va next n i => q.atTri va next n i x rest).settle

/-! ## The traversal instructions -/

/-- The traversal kind of an instruction. -/
def travKind : Instr → Option TravKind
  | .trace _ _ _ _ _ _ _ => some .trace
  | .trnext _ _ => some .next
  | .traccept _ _ => some .accept
  | .trhit _ _ => some .hit
  | _ => none

/-- FLAGS and RMASK of a trace. -/
def traceParams : Instr → Nat × Nat
  | .trace _ _ _ rmask flags _ _ => (flags.toNat, rmask.toNat)
  | _ => (0, 0)

/-- A lane's query (R288); a lane that has started none is IDLE. -/
def Group.query (g : Group) (lane : Nat) : Query := g.queries.getD lane Query.idle

/-- The words of a ray block as an entry holds them: the low four in A, the high four in B (log 24). -/
def Entry.ray (e : Entry) (lane : Nat) : List Nat :=
  let a := (e.opa.getD lane 0).toNat
  let b := (e.opb.getD lane 0).toNat
  (List.range 4).map (fun k => fieldAt a (4 * k) 4) ++ (List.range 4).map (fun k => fieldAt b (4 * k) 4)

/-- The queries of an entry's lanes started or continued (R288, R294). -/
def Group.beginWalk (g : Group) (e : Entry) (k : TravKind) : Group :=
  { g with queries := (lanesOf e.mask).foldl (fun m l =>
      let helper := g.help.getLsbD l
      m.set l (match k with
        | .trace => Query.start (e.ray l) (traceParams e.instr).1 (traceParams e.instr).2 (e.uops.getD 2 0).toNat helper
        | _ => (g.query l).go k helper)) g.queries }

/-- An earlier traversal instruction of the group is still to act on a query of some lanes (R288). -/
def Group.walksIn (g : Group) (act : BitVec 64) : Bool :=
  g.liveEntries.any (fun e => (travKind e.instr).isSome && !(e.mask &&& act == 0))

/-- A traversal instruction's entry starts: it counts in LDS until its blocks are written (R294), and it acts on its queries in program order (R288).
Which global bytes its walk reads is not known (R287). -/
def Issue.startTrav (c : Issue) (s : State) (e : Entry) (d : BitVec 7) (act : BitVec 64) (k : TravKind) : Result :=
  let e1 : Entry := { e with
    counter := .lds, dreg := (lanesOf act).map (fun l => (l, d.toNat)), dsts := vKeys d.toNat 8, width := 8
    ranges := if k = .hit then [] else [anyGlobal] }
  if 255 ≤ c.g.lds || c.g.walksIn act then s.hold
  else if !(k == .hit) && c.g.acquiring then s.hold
  else
    let g1 := (c.advance c.g).beginWalk e1 k
    let g2 : Group := { g1 with entries := g1.entries ++ [e1] }
    .next ((({ s with nextId := s.nextId + 1 } : State).setGroup c.gid (g2.countUp .lds)).push (.traversalComplete c.gid e1.id))

/-- TRACE (R294): the checks of its root, then one query for each active lane. -/
def execTrace (d a root : BitVec 7) (rmask : BitVec 8) (flags : BitVec 5) (hint : BitVec 2) (gd : Guard) (s : State) : Result :=
  withIssue (.trace d a root rmask flags hint gd) 8 s fun c =>
    let g := c.g
    let act := c.run &&& g.guardMask gd
    let reads := vKeys a.toNat 8 ++ [sKey root.toNat]
    let top := (g.readS root.toNat).toNat
    if !(decide (d.toNat + 8 ≤ g.lbud) && decide (a.toNat + 8 ≤ g.lbud) && decide (root.toNat < g.ubud)) then c.trap s 0x05 []
    else if g.blocked (reads ++ vKeys d.toNat 8) then s.hold
    else if g.badWords act reads then c.badTrap s
    else if !(top % 128 == 0) then c.trap s 0x03 []
    else if !canonical top then c.trap s 0x04 []
    else if act = 0 then c.skip s
    else
      let e := { Entry.blank c.i c.words c.pc act s.nextId with
        uops := [0, 0, g.readS root.toNat, 0]
        opa := g.captureV (lanesOf act) a.toNat 4
        opb := g.captureV (lanesOf act) (a.toNat + 4) 4 }
      c.startTrav s e d act .trace

/-- trnext, traccept and trhit (R288). -/
def travOp (i : Instr) (k : TravKind) (d : BitVec 7) (gd : Guard) (s : State) : Result :=
  withIssue i 8 s fun c =>
    let act := c.run &&& c.g.guardMask gd
    if c.g.lbud < d.toNat + 8 then c.trap s 0x05 []
    else if c.g.blocked (vKeys d.toNat 8) then s.hold
    else if act = 0 then c.skip s
    else c.startTrav s (Entry.blank c.i c.words c.pc act s.nextId) d act k

/-- TRNEXT (R288). -/
def execTrnext (d : BitVec 7) (gd : Guard) (s : State) : Result := travOp (.trnext d gd) .next d gd s

/-- TRACCEPT (R288). -/
def execTraccept (d : BitVec 7) (gd : Guard) (s : State) : Result := travOp (.traccept d gd) .accept d gd s

/-- TRHIT (R288). -/
def execTrhit (d : BitVec 7) (gd : Guard) (s : State) : Result := travOp (.trhit d gd) .hit d gd s

/-- Every active lane's block written together (R294). -/
def Group.writeBlocks (g : Group) (e : Entry) : Group :=
  (lanesOf (e.mask &&& g.live)).foldl (fun g l =>
    g.writeWide l (e.dreg.getD l 0) 8 (ofBytes ((g.query l).block.flatMap (fun w => toBytes w 4)))) g

/-- A read of n bytes at an address in pieces of 16, so that none crosses a page or a stash sector (R104, R108). -/
def piecesOf (lane a n : Nat) : List Req := (List.range (n / 16)).map (fun k => ⟨lane, .glob, (a + 16 * k) % 2 ^ 64, 16⟩)

/-- The walks of an entry's lanes, by lane. -/
def Group.walking (g : Group) (e : Entry) : List (Nat × Query) :=
  ((lanesOf e.mask).map (fun l => (l, g.query l))).filter (fun q => q.2.state == .active)

/-- A walk that stands at a malformed entry ends with status 3; one with nothing left ends (R282, R287). -/
def Query.screen (q : Query) : Query :=
  match q.stack with
  | [] => q.settle
  | v :: _ => if v.malformed then q.endWith 3 else q

/-- REMAIN of a stopped walk (R295, R468): the lanes that still walk (log 12). Where each stands is in its query. -/
def walkRemain (lanes : List Nat) : Remain := ⟨(maskOf lanes).toNat, 0, 0, 0, 0, 0, 0, 0, 0, false⟩

/-- One node step or record of every lane's walk (R287); the blocks are written once every lane has suspended or ended
(R294); a refusal or uncorrectable data stops the instruction where its walks stand (R295). -/
def State.performWalk (s : State) (gid : Nat) (g : Group) (e : Entry) : State :=
  let screened : Group := { g with queries := (g.walking e).foldl (fun m q => m.set q.1 q.2.screen) g.queries }
  let s0 := s.setGroup gid screened
  match screened.walking e with
  | [] => s0.setGroup gid ((screened.writeBlocks e).retire e)
  | ws =>
    let reqs := ws.flatMap (fun w => match w.2.stack with
      | [] => []
      | v :: _ => piecesOf w.1 v.range.1 v.range.2)
    match s0.readAll screened (e.owner gid) .read reqs with
    | .wait s1 => s1.waitEntry gid e (.traversalComplete gid e.id)
    | .fail s1 c x recs => s1.failEntry gid { e with remain := some (walkRemain (ws.map (fun w => w.1))) } c x recs
    | .ok s1 l =>
      match s1.groups.get? gid with
      | none => s1
      | some g1 =>
        let bytes (lane : Nat) : Nat := ofBytes ((l.filter (fun r => r.1.lane == lane)).flatMap (fun r => r.2))
        let g2 : Group := { g1 with queries := ws.foldl (fun m w => m.set w.1 (w.2.step (bytes w.1))) g1.queries }
        match g2.walking e with
        | [] => s1.setGroup gid ((g2.writeBlocks e).retire e)
        | _ :: _ => (s1.setGroup gid g2).push (.traversalComplete gid e.id)

/-- TRAVERSAL_COMPLETE (R294, R287). -/
def execTraversalComplete (gid id : Nat) (s : State) : Result :=
  withEntry gid id (.traversalComplete gid id) s fun g e =>
    if (travKind e.instr).isSome then .next (s.performWalk gid g e) else .next s

/-! ## Camera rays -/

/-- CAMRAY (R298): the check of its descriptor's address, then the descriptor is asked for. A jittered one draws once the
descriptor has arrived, so later instructions that draw wait for it (R133). -/
def execCamray (d tile desc : BitVec 7) (jit : Bool) (hint : BitVec 2) (gd : Guard) (s : State) : Result :=
  withIssue (.camray d tile desc jit hint gd) 8 s fun c =>
    let g := c.g
    let act := c.run &&& g.guardMask gd
    let reads := [sKey tile.toNat, sKey desc.toNat]
    let a := (g.readS desc.toNat).toNat
    if !(decide (d.toNat + 8 ≤ g.lbud) && decide (tile.toNat < g.ubud) && decide (desc.toNat < g.ubud)) then c.trap s 0x05 []
    else if g.blocked (reads ++ vKeys d.toNat 8 ++ (if jit then [drawKey] else [])) then s.hold
    else if g.badWords act (reads ++ (if jit then [drawKey] else [])) then c.badTrap s
    else if !(a % 64 == 0) then c.trap s 0x03 []
    else if !canonical a then c.trap s 0x04 []
    else if act = 0 then c.skip s
    else if 255 ≤ g.lds then s.hold
    else if g.acquiring || g.overlaps [(.glob, a, 64)] then s.hold
    else
      let e : Entry := { Entry.blank c.i c.words c.pc act s.nextId with
        counter := .lds
        uops := [0, g.readS tile.toNat, g.readS desc.toNat, 0]
        dreg := (lanesOf act).map (fun l => (l, d.toNat))
        dsts := vKeys d.toNat 8 ++ (if jit then [drawKey] else [])
        width := 8
        ranges := [(.glob, a, 64)] }
      let g2 : Group := { (c.advance g) with entries := g.entries ++ [e] }
      .next ((({ s with nextId := s.nextId + 1 } : State).setGroup c.gid (g2.countUp .lds)).push (.camrayArrival c.gid e.id))

/-- A pixel coordinate x + j in units of 2^-32 (R298). -/
def pixelAt (x j : Nat) : Num := if x * 2 ^ 32 + j = 0 then .zero false else .fin ⟨false, x * 2 ^ 32 + j, -32, false⟩

/-- CORNER_k + (x + jx) * RIGHT_k + (y + jy) * DOWN_k, rounded once (R298, R221). -/
def camComponent (corner right down : Nat) (px py : Num) : Nat × Flags :=
  let (p, f1) := numMul px (f32.decode right)
  let (q, f2) := numMul py (f32.decode down)
  let (a, f3) := numAdd .rne (f32.decode corner) p
  let (b, f4) := numAdd .rne a q
  let (r, f5) := f32.convert .rne 0 b
  (r, f1 ||| f2 ||| f3 ||| f4 ||| f5)

/-- The ray block of a lane and its flags (R297, R298). x is the descriptor as one number. -/
def camBlock (x px py jx jy : Nat) : List Nat × Flags :=
  let comp (k : Nat) : Nat × Flags :=
    camComponent (fieldAt x (0x10 + 4 * k) 4) (fieldAt x (0x20 + 4 * k) 4) (fieldAt x (0x30 + 4 * k) 4) (pixelAt px jx) (pixelAt py jy)
  let ds := (List.range 3).map comp
  let outside := decide (fieldAt x 0x2C 2 ≤ px) || decide (fieldAt x 0x2E 2 ≤ py)
  ((List.range 3).map (fun k => fieldAt x (4 * k) 4) ++ [fieldAt x 0x0C 4] ++ ds.map (fun r => r.1) ++
      [if outside then 0xFF800000 else fieldAt x 0x1C 4],
    ds.foldl (fun f r => f ||| r.2) 0)

/-- The rays of one lane: its draws, its block, its flags (R298). -/
def Group.camLane (e : Entry) (jit : Bool) (x : Nat) (g : Group) (lane : Nat) : Group :=
  let n := g.laneNumber lane
  let tile := (e.uops.getD 1 0).toNat
  let px := bits tile 15 0 + n % 8
  let py := bits tile 31 16 + n / 8
  let (js, g1) : List W32 × Group := if jit then g.drawN lane 2 else ([], g)
  let j (k : Nat) : Nat := if jit then (js.getD k 0).toNat else 2 ^ 31
  let (block, fl) := camBlock x px py (j 0) (j 1)
  let g2 := if g.live.getLsbD lane then g1.writeWide lane (e.dreg.getD lane 0) 8 (ofBytes (block.flatMap (fun w => toBytes w 4))) else g1
  g2.raiseFlags [fl]

/-- JIT of a camray. -/
def camJit : Instr → Option Bool
  | .camray _ _ _ jit _ _ => some jit
  | _ => none

/-- A camray whose descriptor is read (R298). Its draws read the generator as it stands then (R131, R133). -/
def State.performCamray (s : State) (gid : Nat) (g : Group) (e : Entry) (jit : Bool) : State :=
  match s.readAll g (e.owner gid) .read (piecesOf ((lanesOf e.mask).headD 0) (e.uops.getD 2 0).toNat 64) with
  | .wait s1 => s1.waitEntry gid e (.camrayArrival gid e.id)
  | .fail s1 c x recs => s1.failEntry gid e c x recs
  | .ok s1 l =>
    let x := ofBytes (l.flatMap (fun r => r.2))
    if !(fieldAt x 0x3C 4 == 0) then s1.failEntry gid e 0x02 false []
    else
      match s1.groups.get? gid with
      | none => s1
      | some g1 =>
        if jit && g1.badWords e.mask [drawKey] then (s1.countUncorr g1.die).failEntry gid e 0x0B false []
        else s1.setGroup gid (((lanesOf e.mask).foldl (Group.camLane e jit x) g1).retire e)

/-- CAMRAY_DESCRIPTOR_ARRIVAL (R298). -/
def execCamrayDescriptorArrival (gid id : Nat) (s : State) : Result :=
  withEntry gid id (.camrayArrival gid id) s fun g e =>
    match camJit e.instr with
    | none => .next s
    | some jit => .next (s.performCamray gid g e jit)

end Sys2Proof.Machine
end

