-- ==== Sys2Proof/Machine/Solver.lean ====
section
/-! DEFINITION. The solver sequencer (chapter 12). -/

namespace Sys2Proof.Machine

/-! ## Tableaux and step factors -/

/-- FP32 value k of a table in an image. -/
def imageF32 (img : List Byte) (off k : Nat) : Nat := ofBytes ((img.drop (off + 4 * k)).take 4)

/-- a(i, j), b(j), bh(j) and c(i) of a coefficient image (R308). -/
def tabA (img : List Byte) (i j : Nat) : Nat := imageF32 img 0x70 (i * (i - 1) / 2 + j)
def tabB (img : List Byte) (j : Nat) : Nat := imageF32 img 0x30 j
def tabBh (img : List Byte) (j : Nat) : Nat := imageF32 img 0x50 j
def tabC (img : List Byte) (i : Nat) : Nat := imageF32 img 0x10 i

/-- S and FSAL (R308). -/
def tabStages (img : List Byte) : Nat := (img.getD 0 0).toNat
def tabFsal (img : List Byte) : Bool := (img.getD 1 0).toNat == 1

def isZero32 (c : Nat) : Bool := (f32.decode c).isZero
def num1 : Num := .fin ⟨false, 1, 0, false⟩

/-- A valid coefficient image (R309). -/
def coefOk (img : List Byte) : Bool :=
  let s := tabStages img
  let zero (off n : Nat) : Bool := ((img.drop off).take n).all (fun b => b == 0)
  decide (1 ≤ s) && decide (s ≤ 8) && decide ((img.getD 1 0).toNat ≤ 1) && zero 0x02 14 && zero 0xE0 32 &&
    (List.range 52).all (fun k => finite32 (imageF32 img 0x10 k)) && isZero32 (tabC img 0) &&
    (List.range 8).all (fun i => decide (i < s) || (isZero32 (tabC img i) && isZero32 (tabB img i) && isZero32 (tabBh img i) &&
      (List.range i).all (fun j => isZero32 (tabA img i j)))) &&
    (!tabFsal img || (decide (2 ≤ s) && numEq (f32.decode (tabC img (s - 1))) num1 && isZero32 (tabB img (s - 1)) &&
      (List.range (s - 1)).all (fun j => numEq (f32.decode (tabA img (s - 1) j)) (f32.decode (tabB img j)))))

/-- A valid step-factor image (R310). -/
def factorsOk (img : List Byte) : Bool :=
  let f (k : Nat) : Num := f32.decode (imageF32 img 0 k)
  let top : Num := .fin ⟨false, 256, 0, false⟩
  (List.range 64).all (fun k => finite32 (imageF32 img 0 k) && numLt false (.zero false) (f k) && !(numLt false top (f k)) &&
    (k == 63 || !(numLt false (f k) (f (k + 1)))) && (decide (k < 33) || numLt false (f k) num1))

/-- The quad of a team, module-wide (R20, R25). -/
def Team.quad (t : Team) : Nat := 12 * t.die + t.cores.headD 0 / 4

/-- Teams whose entries a quad's sequencer holds: those on its cores (R307). -/
def State.teamsOnQuad (s : State) (quad : Nat) : List Team :=
  (s.teams.filter (fun e => e.2.state == .running && e.2.quad == quad)).map (fun e => e.2)

def State.tabsOnQuad (s : State) (quad : Nat) : Nat := ((s.teamsOnQuad quad).map (fun t => t.sol.tabs.length)).foldl (· + ·) 0
def State.samplesOnQuad (s : State) (quad : Nat) : Nat := ((s.teamsOnQuad quad).map (fun t => t.sol.samples.length)).foldl (· + ·) 0

/-- An outstanding sqtab or sqfact. -/
def isTabLoad (i : Instr) : Bool :=
  match i with
  | .sqtab _ _ _ _ _ => true
  | .sqfact _ _ _ _ _ => true
  | _ => false

/-- Some group of a team has a table load, issued before number k, that is not complete (R318). -/
def State.tabBefore (s : State) (team k : Nat) : Bool :=
  s.groups.any (fun e => e.2.team == team && e.2.entries.any (fun x => isTabLoad x.instr && decide (x.id < k)))

/-- Some group of a team has a table load that is not complete (R318). -/
def State.tabLoading (s : State) (team : Nat) : Bool := s.tabBefore team s.nextId

/-- A table load of the team comes before what a group issues now (R318). What its own prompt book holds is issued anew after the handler (R470). -/
def State.tabAhead (s : State) (gid team : Nat) : Bool :=
  s.groups.any (fun e => e.2.team == team && e.2.entries.any (fun x => isTabLoad x.instr && !(e.1 == gid && x.book)))

/-- sqtab and sqfact at issue (R326): one uniform load of 256 bytes. -/
def tabLoad (i : Instr) (a : BitVec 7) (sp : Space) (gd : Guard) (order : Bool) (s : State) : Result :=
  uniOp (.ext i gd) [a.toNat] [] s fun c =>
    let addr := (c.g.readS a.toNat).toNat % (if sp = .glob then 2 ^ 64 else 2 ^ 32)
    let q : Req := ⟨0, sp, addr, 256⟩
    match s.teams.get? c.g.team with
    | none => .fault .noIssuingGroup
    | some t =>
      if order && s.tabLoading c.g.team then s.hold
      else if !(addr % 256 == 0) then c.trap s 0x03 [(0, laneRec 0x03 addr)]
      else
        match s.rangeCheck c.g t q with
        | some cause => c.trap s cause [(0, laneRec cause addr)]
        | none =>
          if t.placeCheck q false false then c.trap s 0x07 [(0, laneRec 0x07 addr)]
          else if 255 ≤ c.g.lds || c.g.acquiring || c.g.overlaps [t.rangeOf q] then s.hold
          else
            let e : Entry := { Entry.blank c.i c.words c.pc c.run s.nextId with
              counter := .lds, uops := [0, c.g.readS a.toNat, 0, 0], dsts := [b0Key], ranges := [t.rangeOf q] }
            let g1 : Group := { (c.advance c.g) with entries := c.g.entries ++ [e] }
            .next ((({ s with nextId := s.nextId + 1 } : State).setGroup c.gid (g1.countUp .lds)).push (.loadLanding c.gid e.id))

/-- SQTAB (R326): it waits for every earlier sqtab and sqfact of the team (R318). -/
def execSqtab (tab : BitVec 3) (a : BitVec 7) (hint : BitVec 2) (sp : Space) (gd : Guard) (s : State) : Result :=
  tabLoad (.sqtab tab a hint sp gd) a sp gd true s

/-- SQFACT (R326). -/
def execSqfact (tab : BitVec 3) (a : BitVec 7) (hint : BitVec 2) (sp : Space) (gd : Guard) (s : State) : Result :=
  tabLoad (.sqfact tab a hint sp gd) a sp gd false s

/-- The table, the space and the part (true: coefficients) of a table load. -/
def tabParams (i : Instr) : Option (Nat × Space × Bool) :=
  match i with
  | .sqtab tab _ _ sp _ => some (tab.toNat, sp, true)
  | .sqfact tab _ _ sp _ => some (tab.toNat, sp, false)
  | _ => none

/-- A table image that has landed (R326). -/
def State.landTable (s : State) (gid : Nat) (g : Group) (t : Team) (e : Entry) (tab : Nat) (coef : Bool) (img : List Byte) : State :=
  let bound := (t.sol.tabs.get? tab).isSome
  if !bound && decide (8 ≤ s.tabsOnQuad t.quad) then s.setGroup gid ((g.writeB 0 false).retire e)
  else if !(if coef then coefOk img else factorsOk img) then s.failEntry gid e 0x0F false []
  else if t.sol.samples.any (fun x => x.2.tab == tab) then s.failEntry gid e 0x0F false []
  else
    let old := t.sol.tabs.getD tab ⟨none, none⟩
    let new : Tableau := if coef then { old with coef := some img } else { old with factors := some img }
    ({ s with teams := s.teams.modify g.team (fun t => { t with sol := { t.sol with tabs := t.sol.tabs.set tab new } }) } : State).setGroup gid
      ((g.writeB 0 true).retire e)

/-- The landing of a table load, after every earlier one of the team (R318). -/
def State.performTable (s : State) (gid : Nat) (g : Group) (e : Entry) : State :=
  match tabParams e.instr with
  | none => s
  | some (tab, sp, coef) =>
    if s.tabBefore g.team e.id then s.waitEntry gid e (.loadLanding gid e.id)
    else
    let addr := (e.uops.getD 1 0).toNat % (if sp = .glob then 2 ^ 64 else 2 ^ 32)
    match s.readAll g (e.owner gid) .read ((List.range 16).map (fun k => ⟨0, sp, addr + 16 * k, 16⟩)) with
    | .wait s1 => s1.waitEntry gid e (.loadLanding gid e.id)
    | .fail s1 c x recs => s1.failEntry gid e c x recs
    | .ok s1 l =>
      match s1.groups.get? gid, s1.teams.get? g.team with
      | some g1, some t => s1.landTable gid g1 t e tab coef (l.flatMap (fun r => r.2))
      | _, _ => s1

/-! ## The sequencer's arithmetic -/

/-- A step begins (R314): hs and LAST from h and the time that is left. -/
def Sample.begin (sm : Sample) : Sample :=
  let gap : Num := (numAdd .rne (f32.decode sm.tend) (f32.decode sm.t).negate).1
  let size : Num := match gap with
    | .fin x => .fin { x with neg := false }
    | .zero _ => .zero false
    | .nan => .nan
    | .inf _ => .inf false
  if !(numLt false (f32.decode sm.h) size) then { sm with hs := (f32.convert .rne 0 size).1, last := true }
  else { sm with hs := sm.h, last := false }

/-- dh of R314, exact. -/
def Sample.dh (sm : Sample) : Num := if sm.down then (f32.decode sm.hs).negate else f32.decode sm.hs

/-- The sum of products whose coefficient is not 0; none without such a term (R314, R315). -/
def weighted : List (Num × Num) → Option Num
  | [] => none
  | (c, k) :: r =>
    if c.isZero then weighted r
    else
      match weighted r with
      | none => some (numMul c k).1
      | some x => some (numAdd .rne (numMul c k).1 x).1

/-- y + dh * sum, rounded once; y itself without a term (R314). The sign of an exact zero is that of an IEEE sum of the two (log 19). -/
def advanceBy (y dh : Num) (sum : Option Num) : Nat :=
  match sum with
  | none => (f32.convert .rne 0 y).1
  | some x => (f32.convert .rne 0 (numAdd .rne y (numMul dh x).1).1).1

/-- t(i) of R314. -/
def Sample.time (sm : Sample) (img : List Byte) (i : Nat) : Nat :=
  (f32.convert .rne 0 (numFma .rne sm.dh (f32.decode (tabC img i)) (f32.decode sm.t)).1).1

/-- |x|. -/
def Num.abs : Num → Num
  | .nan => .nan
  | .inf _ => .inf false
  | .zero _ => .zero false
  | .fin x => .fin { x with neg := false }

/-- The larger of two magnitudes; a NaN operand gives NaN (log 25). -/
def magMax (a b : Num) : Num := if a.isNan || b.isNan then .nan else if numLt false a b then b else a

/-- r[e] of R315: err and y, ynew with the tolerances. -/
def errorRatio (err : Option Num) (atol rtol y ynew : Num) : Num :=
  let e : Num := err.getD (.zero false)
  if e.isNan || e.isInf then .nan
  else
    let sc := (numAdd .rne atol (numMul rtol (magMax y.abs ynew.abs)).1).1
    if numLt false (.zero false) sc then f32.decode (f32.convert .rne 0 (numDiv e.abs sc).1).1
    else if e.isZero then .zero false else .inf false

/-- E of R315. -/
def errorNorm (l : List Num) : Num := l.foldl (fun a r => if a.isNan || r.isNan then .nan else if numLt false a r then r else a) (.zero false)

/-- k of R316 before a rejection raises it: floor(4 * log2(E)) + 32, kept between 0 and 63. -/
def factorIndex (e : Num) : Nat :=
  match e with
  | .zero _ => 0
  | .nan => 63
  | .inf _ => 63
  | .fin x => (max 0 (min 63 (((x.m ^ 4).log2 : Int) + 4 * x.e + 32))).toNat

/-- hn of R316. -/
def Sample.nextStep (sm : Sample) (factors : List Byte) (k : Nat) : Nat :=
  let r := (f32.convert .rne 0 (numMul (f32.decode sm.hs) (f32.decode (imageF32 factors 0 k))).1).1
  if numLt false (f32.decode r) (f32.decode sm.hmin) then sm.hmin
  else if numLt false (f32.decode sm.hmax) (f32.decode r) then sm.hmax else r

/-! ## The sequencer's reads and writes -/

/-- What stops the sequencer at its ranges (R324). -/
structure SeqFault where
  reason : Nat
  cause : Nat
  deriving DecidableEq, Repr

/-- The layer bytes of a range of the team's die, or why they cannot be reached (R312, R324). -/
def State.seqRead (s : State) (fn die off n : Nat) : Except SeqFault (List Byte) :=
  match s.layerRange fn die off n with
  | some c => .error ⟨3, c⟩
  | none => if s.poisoned (.layer die off) n then .error ⟨2, 0x0B⟩ else .ok (s.bytesAt (.layer die off) n)

/-- Little-endian words of a run of bytes. -/
def words4 : List Byte → List Nat
  | a :: b :: c :: d :: r => ofBytes [a, b, c, d] :: words4 r
  | _ => []

def State.seqWords (s : State) (fn die off n : Nat) : Except SeqFault (List Nat) :=
  match s.seqRead fn die off (4 * n) with
  | .ok l => .ok (words4 l)
  | .error e => .error e

/-- K(j) for every j of a list, with its number. -/
def State.seqK (s : State) (fn die : Nat) (sm : Sample) : List Nat → Except SeqFault (List (Nat × List Nat))
  | [] => .ok []
  | j :: r =>
    match s.seqWords fn die (sm.hist + 4 * sm.ne * (1 + j)) sm.ne, State.seqK s fn die sm r with
    | .ok a, .ok b => .ok ((j, a) :: b)
    | .error e, _ => .error e
    | .ok _, .error e => .error e

/-- Words written to the layer (R312, R324). -/
def State.seqWrite (s : State) (fn die off : Nat) (ws : List Nat) : Except SeqFault State :=
  match s.layerRange fn die off (4 * ws.length) with
  | some c => .error ⟨3, c⟩
  | none => .ok (s.writeAt (.layer die off) (ws.flatMap (fun w => toBytes w 4)))

/-- Element e of K columns with their coefficients. -/
def terms (cols : List (Num × List Nat)) (e : Nat) : List (Num × Num) := cols.map (fun c => (c.1, f32.decode (c.2.getD e 0)))

/-- A sample's record changed. -/
def State.setSample (s : State) (team n : Nat) (sm : Sample) : State :=
  { s with teams := s.teams.modify team (fun t => { t with sol := { t.sol with samples := t.sol.samples.set n sm } }) }

/-- The end record (R317). -/
def Sample.record (sm : Sample) (code reason : Nat) : List Nat :=
  [code + 256 * reason, sm.acc, sm.rej, sm.t, sm.h, 0, 0, 0]

/-- A sample ends (R317, R331): its end record is written if its bytes are reachable (R324), its number becomes FREE. -/
def State.endSample (s : State) (fn : Nat) (team : Nat) (t : Team) (n : Nat) (sm : Sample) (code reason : Nat) : State :=
  let s1 := match s.seqWrite fn t.die sm.hist (sm.record code reason) with
    | .ok x => x
    | .error _ => s
  { s1 with teams := s1.teams.modify team (fun t => { t with sol := { t.sol with
      samples := t.sol.samples.erase n
      done := if code = 4 then satInc t.sol.done else t.sol.done
      failed := if code = 4 then t.sol.failed else satInc t.sol.failed } }) }

/-- A fault of the sequencer at a sample's ranges (R324): the sample ends FAILED and the cause is raised at the team rung, with the offset of the
sample's history whatever the address that failed (log 73). -/
def State.seqFail (s : State) (fn team : Nat) (t : Team) (n : Nat) (sm : Sample) (f : SeqFault) : State :=
  ((if f.cause = 0x0B then s.countUncorr t.die else s).endSample fn team t n sm 5 f.reason).raiseUpper 1 f.cause 0 fn t.ctx team 0 (BitVec.ofNat 64 sm.hist)

/-- The coefficient columns of stage i, or of the solution, over the K that exist. -/
def columns (coef : Nat → Num) (ks : List (Nat × List Nat)) : List (Num × List Nat) := ks.map (fun k => (coef k.1, k.2))

/-- The stage numbers below n whose K some coefficient uses: a K whose coefficient is 0 is not read, so cannot fail (log 104). -/
def usedStages (n : Nat) (used : Nat → Bool) : List Nat := (List.range n).filter used

/-- The input of stage i ≥ 1 formed in the Y region (R314). -/
def State.formInput (s : State) (fn die : Nat) (sm : Sample) (img : List Byte) : Except SeqFault State :=
  let coef (j : Nat) : Num := f32.decode (tabA img sm.stage j)
  match s.seqK fn die sm (usedStages sm.stage (fun j => !(coef j).isZero)), s.seqWords fn die sm.yaddr sm.ne with
  | .ok ks, .ok y =>
    let cols := columns coef ks
    s.seqWrite fn die sm.hist ((y.zipIdx).map (fun e => advanceBy (f32.decode e.1) sm.dh (weighted (terms cols e.2))))
  | .error e, _ => .error e
  | .ok _, .error e => .error e

/-- The solution, the error norm and K(S - 1) at the end of a step (R315). -/
def State.formSolution (s : State) (fn die : Nat) (sm : Sample) (img : List Byte) : Except SeqFault (List Nat × Num) :=
  let b (j : Nat) : Num := f32.decode (tabB img j)
  let d (j : Nat) : Num := (numAdd .rne (f32.decode (tabB img j)) (f32.decode (tabBh img j)).negate).1
  match s.seqK fn die sm (usedStages (tabStages img) (fun j => !(b j).isZero || !(d j).isZero)), s.seqWords fn die sm.yaddr sm.ne with
  | .ok ks, .ok y =>
    let bs := columns b ks
    let ds := columns d ks
    let pairs := (y.zipIdx).map (fun e =>
      let yn := advanceBy (f32.decode e.1) sm.dh (weighted (terms bs e.2))
      let err := (weighted (terms ds e.2)).map (fun x => (numMul sm.dh x).1)
      (yn, errorRatio err (f32.decode sm.atol) (f32.decode sm.rtol) (f32.decode e.1) (f32.decode yn)))
    .ok (pairs.map (fun p => p.1), errorNorm (pairs.map (fun p => p.2)))
  | .error e, _ => .error e
  | .ok _, .error e => .error e

/-- The function of a context. -/
def State.ctxFn (s : State) (ctx : Nat) : Nat :=
  match s.ctxs.get? ctx with
  | some c => c.fn
  | none => 0

/-- The sequencer may work for a team: it runs, and nothing holds it (R323, R460). -/
def State.seqAwake (s : State) (t : Nat) (tm : Team) : Bool :=
  tm.state == .running && !(s.stops.any (fun e => e.2.holds (s.ctxFn tm.ctx) tm.ctx t)) &&
    (match s.ctxs.get? tm.ctx with
     | some c => c.state == .running
     | none => false)

/-- A sample's number, its record, its team and its coefficient image. -/
structure SeqWork where
  t : Team
  sm : Sample
  img : List Byte
  factors : List Byte

def State.seqWork (s : State) (team n : Nat) : Option SeqWork :=
  match s.teams.get? team with
  | none => none
  | some t =>
    match t.sol.samples.get? n with
    | none => none
    | some sm =>
      match (t.sol.tabs.getD sm.tab ⟨none, none⟩).coef, (t.sol.tabs.getD sm.tab ⟨none, none⟩).factors with
      | some img, some f => some ⟨t, sm, img, f⟩
      | _, _ => none

/-- The state after the sequencer finds that its entry of a sample is uncorrectable, if it is (R324, R483). -/
def State.sampleLost (s : State) (team n : Nat) : Option State :=
  match s.teams.get? team with
  | none => none
  | some t =>
    match t.sol.samples.get? n with
    | none => none
    | some sm => if sm.bad then some (s.seqFail (s.ctxFn t.ctx) team t n sm ⟨2, 0x0B⟩) else none

/-- Work of the sequencer on a sample whose state is one that a test accepts. -/
def withSample (team n : Nat) (a : Act) (ok : SampleState → Bool) (s : State) (k : SeqWork → Result) : Result :=
  match s.seqWork team n with
  | none => .next s
  | some w =>
    if !(ok w.sm.state) then .next s
    else if !(s.seqAwake team w.t) then .next (s.push a)
    else
      match s.sampleLost team n with
      | some s1 => .next s1
      | none => k w

/-- SEQ_STAGE_INPUT (R314): stage 0 is delivered as it stands, a later stage's input is formed, and the stage is READY. -/
def execSeqStageInput (team sample : Nat) (s : State) : Result :=
  withSample team sample (.seqStageInput team sample) (fun x => x == .busyInput) s fun k =>
    let fn := s.ctxFn k.t.ctx
    if k.sm.stage = 0 then .next (s.setSample team sample { k.sm with state := .ready })
    else
      match s.formInput fn k.t.die k.sm k.img with
      | .error f => .next (s.seqFail fn team k.t sample k.sm f)
      | .ok s1 => .next (s1.setSample team sample { k.sm with state := .ready })

/-- The next step, or the step again, begins at a stage (R316). -/
def State.nextSeqStep (s : State) (team sample : Nat) (sm : Sample) (stage : Nat) : State :=
  (s.setSample team sample { sm.begin with stage := stage, state := .busyInput }).push (.seqStageInput team sample)

/-- An accepted step (R316). -/
def State.acceptStep (s : State) (fn team sample : Nat) (k : SeqWork) (ynew : List Nat) (hn : Nat) : State :=
  let sm := k.sm
  let tn := if sm.last then sm.tend else (f32.convert .rne 0 (numAdd .rne (f32.decode sm.t) sm.dh).1).1
  if numEq (f32.decode tn) (f32.decode sm.t) then s.endSample fn team k.t sample sm 5 1
  else
    match s.seqWrite fn k.t.die sm.yaddr ynew with
    | .error f => s.seqFail fn team k.t sample sm f
    | .ok s1 =>
      let sm1 : Sample := { sm with t := tn, acc := satInc sm.acc }
      let copied : Except SeqFault State :=
        if !tabFsal k.img then .ok s1
        else
          match s1.seqWords fn k.t.die (sm.hist + 4 * sm.ne * tabStages k.img) sm.ne with
          | .ok w => s1.seqWrite fn k.t.die (sm.hist + 4 * sm.ne) w
          | .error f => .error f
      match copied with
      | .error f => s1.seqFail fn team k.t sample sm1 f
      | .ok s2 =>
        if sm.last then s2.endSample fn team k.t sample sm1 4 0
        else s2.nextSeqStep team sample { sm1 with h := hn } (if tabFsal k.img then 1 else 0)

/-- SEQ_STEP_END (R315, R316). -/
def execSeqStepEnd (team sample : Nat) (s : State) : Result :=
  withSample team sample (.seqStepEnd team sample) (fun x => x == .busyStep) s fun k =>
    let fn := s.ctxFn k.t.ctx
    match s.formSolution fn k.t.die k.sm k.img with
    | .error f => .next (s.seqFail fn team k.t sample k.sm f)
    | .ok (ynew, e) =>
      match s.seqWrite fn k.t.die k.sm.hist ynew with
      | .error f => .next (s.seqFail fn team k.t sample k.sm f)
      | .ok s1 =>
        let accept := !e.isNan && !(numLt false num1 e)
        let idx := if accept then factorIndex e else max (factorIndex e) 33
        let hn := k.sm.nextStep k.factors idx
        if accept then .next (s1.acceptStep fn team sample k ynew hn)
        else
          let sm : Sample := { k.sm with rej := satInc k.sm.rej }
          if !(numLt false (f32.decode sm.hmin) (f32.decode sm.hs)) then .next (s1.endSample fn team k.t sample sm 5 1)
          else .next (s1.nextSeqStep team sample { sm with h := hn } 0)

/-! ## The instructions -/

/-- The parameters of sqstart as a sample (R311). p k is s[A + k]. -/
def sampleOf (p : Nat → Nat) (tab : Nat) (tile : Bool) : Sample :=
  let lo (k : Nat) : Nat := p k % 2 ^ 32
  let hi (k : Nat) : Nat := p k / 2 ^ 32
  { state := .busyInput, stage := 0, tab := tab, yaddr := lo 0, hist := hi 0, ne := lo 1, t := lo 2, tend := hi 2, h := lo 3, hmin := hi 3,
    hmax := lo 4, atol := hi 4, rtol := lo 5, hs := 0, last := false, acc := 0, rej := 0, tile := tile
    down := !(numLt false (f32.decode (lo 2)) (f32.decode (hi 2))), bad := false }

/-- Valid parameters (R311). -/
def Sample.paramsOk (sm : Sample) : Bool :=
  let v (c : Nat) : Num := f32.decode c
  [sm.t, sm.tend, sm.h, sm.hmin, sm.hmax, sm.atol, sm.rtol].all finite32 &&
    numLt false (.zero false) (v sm.hmin) && !(numLt false (v sm.h) (v sm.hmin)) && !(numLt false (v sm.hmax) (v sm.h)) &&
    !(numLt false (v sm.atol) (.zero false)) && !(numLt false (v sm.rtol) (.zero false))

/-- The last check of sqstart (R327): NE, the overlap of the ranges, and R87, first of y's range and in each from its lowest mebibyte (log 103). -/
def State.sampleRanges (s : State) (fn die : Nat) (sm : Sample) (stages : Nat) : Option Nat :=
  let n := 4 * sm.ne
  let m := n * (stages + 1)
  if !(sm.ne % 16 == 0) || decide (sm.ne < 16) || decide (262144 < sm.ne) then some 0x04
  else if sm.yaddr < sm.hist + m ∧ sm.hist < sm.yaddr + n then some 0x04
  else firstSome [s.layerRange fn die sm.yaddr n, s.layerRange fn die sm.hist m]

/-- Whether a team was launched for a tile (R321). -/
def Team.forTile (t : Team) : Bool :=
  match t.origin with
  | .tile _ _ _ _ => true
  | .grid => false
  | .task _ => false

/-- The first check of sqstart that fails (R327), or the sample and the stage count. -/
def State.sampleChecks (s : State) (fn : Nat) (t : Team) (n : Nat) (sm : Sample) (reserved : Bool) : Option Nat :=
  let tb := t.sol.tabs.getD sm.tab ⟨none, none⟩
  if 4096 ≤ n ∨ (t.sol.samples.get? n).isSome then some 0x04
  else
    match tb.coef, tb.factors with
    | some img, some _ =>
      if reserved || !sm.paramsOk then some 0x02
      else if !(sm.yaddr % 64 == 0 && sm.hist % 64 == 0) then some 0x03
      else s.sampleRanges fn t.die sm (tabStages img)
    | _, _ => some 0x0F

/-- SQSTART (R327). -/
def execSqstart (d a : BitVec 7) (b : BitVec 2) (tab : BitVec 3) (gd : Guard) (s : State) : Result :=
  uniOp (.ext (.sqstart d a b tab gd) gd) (d.toNat :: (List.range 6).map (fun k => a.toNat + k)) [] s fun c =>
    let p (k : Nat) : Nat := (c.g.readS (a.toNat + k)).toNat
    let n := (c.g.readS d.toNat).toNat
    match s.teams.get? c.g.team with
    | none => .fault .noIssuingGroup
    | some t =>
      if s.tabLoading c.g.team then s.hold
      else
        let sm := sampleOf p tab.toNat t.forTile
        let fn := s.fnOf c.g
        match s.sampleChecks fn t n sm (!(p 1 / 2 ^ 32 == 0) || !(p 5 / 2 ^ 32 == 0)) with
        | some cause => c.trap s cause []
        | none =>
          if 4096 ≤ s.samplesOnQuad t.quad then c.done s (c.g.writeB b.toNat false)
          else if numEq (f32.decode sm.t) (f32.decode sm.tend) then
            c.done ((s.setSample c.g.team n sm).endSample fn c.g.team t n sm 4 0) (c.g.writeB b.toNat true)
          else c.done ((s.setSample c.g.team n sm.begin).push (.seqStageInput c.g.team n)) (c.g.writeB b.toNat true)

/-- The team's lowest READY sample (R320, R328). -/
def Team.readySample (t : Team) : Option (Nat × Sample) := t.sol.samples.find? (fun e => e.2.state == .ready)

/-- The two words that sqstage writes (R328). -/
def Sample.stageWords (sm : Sample) (n : Nat) (img : List Byte) : W64 × W64 :=
  (BitVec.ofNat 64 (n + 2 ^ 12 * sm.stage + 2 ^ 32 * sm.time img sm.stage),
    BitVec.ofNat 64 ((if sm.stage = 0 then sm.yaddr else sm.hist) + 2 ^ 32 * (sm.hist + 4 * sm.ne * (1 + sm.stage))))

/-- A READY stage delivered to a group (R328). -/
def State.deliver (s : State) (gid team : Nat) (t : Team) (d b n : Nat) (sm : Sample) (g : Group) : State × Group :=
  let img := (t.sol.tabs.getD sm.tab ⟨none, none⟩).coef.getD []
  let w := sm.stageWords n img
  (s.setSample team n { sm with state := .out gid }, ((g.writeS d w.1).writeS (d + 1) w.2).writeB b true)

/-- SQSTAGE (R328): a stage is delivered after the acquire of R318, and after every earlier table load of the team. -/
def execSqstage (d : BitVec 7) (b : BitVec 2) (wait : Bool) (gd : Guard) (s : State) : Result :=
  uniOp (.ext (.sqstage d b wait gd) gd) [] [d.toNat, d.toNat + 1] s fun c =>
    match s.teams.get? c.g.team with
    | none => .fault .noIssuingGroup
    | some t =>
      if s.tabAhead c.gid c.g.team then s.hold
      else
      match t.readySample with
      | some (n, sm) =>
        (match s.sampleLost c.g.team n with
         | some s1 => s1.hold
         | none =>
           (match s.acquire c.gid none with
            | (s1, false) => s1.hold
            | (s1, true) =>
              (match c.still s1 with
               | none => .next s1
               | some g =>
                 let (s2, g2) := s1.deliver c.gid c.g.team t d.toNat b.toNat n sm g
                 c.done s2 g2)))
      | none =>
        if !wait || t.sol.samples == [] then c.done s (c.g.writeB b.toNat false)
        else c.waitIn s (.sqstage d.toNat b.toNat) (.sqstageWake c.gid)

/-- SQSTAGE_WAKE (R328). -/
def execSqstageWake (gid : Nat) (s : State) : Result :=
  wake gid (.sqstageWake gid) s fun g =>
    match g.wait, s.teams.get? g.team with
    | .sqstage d b, some t =>
      (match t.readySample with
       | some (n, sm) =>
         (match s.sampleLost g.team n with
          | some s1 => .next (s1.push (.sqstageWake gid))
          | none =>
            (match s.acquire gid none with
             | (s1, false) => .next (s1.push (.sqstageWake gid))
             | (s1, true) =>
               (match s1.groups.get? gid with
                | none => .next s1
                | some g1 =>
                  let (s2, g2) := s1.deliver gid g.team t d b n sm g1
                  .next (s2.setGroup gid g2.resume))))
       | none =>
         if t.sol.samples = [] then .next (s.setGroup gid (g.writeB b false).resume) else .next (s.push (.sqstageWake gid)))
    | _, _ => .next s

/-- The sample is OUT at this stage (R329). -/
def Sample.outAt (sm : Sample) (stage : Nat) : Bool :=
  sm.stage == stage &&
    (match sm.state with
     | .out _ => true
     | .free => false
     | .busyInput => false
     | .busyStep => false
     | .ready => false)

/-- SQRET (R329): after every earlier table load of the team, the release of R318; then the sequencer goes on with the sample. -/
def execSqret (a : BitVec 7) (gd : Guard) (s : State) : Result :=
  uniOp (.ext (.sqret a gd) gd) [a.toNat] [] s fun c =>
    let x := (c.g.readS a.toNat).toNat
    let n := bits x 11 0
    if s.tabAhead c.gid c.g.team then s.hold
    else
    match s.sampleLost c.g.team n, s.seqWork c.g.team n with
    | some s1, _ => s1.hold
    | none, none => c.trap s 0x0F []
    | none, some k =>
      if !k.sm.outAt (bits x 14 12) then c.trap s 0x0F []
      else
        match s.release c.gid none 2 with
        | (s1, false) => s1.hold
        | (s1, true) =>
          match c.still s1 with
          | none => .next s1
          | some g =>
            if tabStages k.img ≤ k.sm.stage + 1 then
              c.done ((s1.setSample c.g.team n { k.sm with state := .busyStep }).push (.seqStepEnd c.g.team n)) g
            else
              c.done ((s1.setSample c.g.team n { k.sm with state := .busyInput, stage := k.sm.stage + 1 }).push
                (.seqStageInput c.g.team n)) g

/-- The code of a sample's state (R330). -/
def SampleState.code : SampleState → Nat
  | .free => 0
  | .ready => 1
  | .out _ => 2
  | .busyInput => 3
  | .busyStep => 3

/-- SQSTAT (R330). -/
def execSqstat (d a : BitVec 7) (gd : Guard) (s : State) : Result :=
  uniOp (.ext (.sqstat d a gd) gd) [a.toNat] [d.toNat, d.toNat + 1] s fun c =>
    let n := (c.g.readS a.toNat).toNat
    match s.teams.get? c.g.team with
    | none => .fault .noIssuingGroup
    | some t =>
      if s.tabAhead c.gid c.g.team then s.hold
      else if 4096 ≤ n then c.trap s 0x04 []
      else
        match s.sampleLost c.g.team n, t.sol.samples.get? n with
        | some s1, _ => s1.hold
        | none, none => c.done s ((c.g.writeS d.toNat 0).writeS (d.toNat + 1) 0)
        | none, some sm =>
          c.done s ((c.g.writeS d.toNat (BitVec.ofNat 64 (sm.state.code + 8 * sm.stage + 2 ^ 32 * sm.t))).writeS (d.toNat + 1)
            (BitVec.ofNat 64 (sm.h + 2 ^ 32 * sm.acc)))

/-- The counts that sqdrain writes (R331). -/
def Solver.counts (x : Solver) : W64 := BitVec.ofNat 64 (x.done + 2 ^ 32 * x.failed)

/-- SQDRAIN (R331). -/
def execSqdrain (d : BitVec 7) (gd : Guard) (s : State) : Result :=
  uniOp (.ext (.sqdrain d gd) gd) [] [d.toNat] s fun c => c.waitIn s (.sqdrain d.toNat) (.sqdrainWake c.gid)

/-- SQDRAIN_WAKE (R331): the acquire of R318, then the counts. -/
def execSqdrainWake (gid : Nat) (s : State) : Result :=
  wake gid (.sqdrainWake gid) s fun g =>
    match g.wait, s.teams.get? g.team with
    | .sqdrain d, some t =>
      if !(t.sol.samples == []) then .next (s.push (.sqdrainWake gid))
      else
        match s.acquire gid none with
        | (s1, false) => .next (s1.push (.sqdrainWake gid))
        | (s1, true) =>
          (match s1.groups.get? gid with
           | none => .next s1
           | some g1 =>
             .next ((({ s1 with teams := s1.teams.modify g.team (fun t => { t with sol := { t.sol with done := 0, failed := 0 } }) } : State)).setGroup
               gid (g1.writeS d t.sol.counts).resume))
    | _, _ => .next s

end Sys2Proof.Machine
end

