-- ==== Sys2Proof/Machine/Place.lean ====
section
/-! DEFINITION. Where a team fits: rows, slots, group places, team memory and meeting points (R18, R25, R114, R443 to R449). -/

namespace Sys2Proof.Machine

/-- Lanes of a group of an image; a ganged group has 32 (R446). -/
def Image.lanes (im : Image) : Nat := if im.width = 64 then 64 else 32

/-- Native groups of a role: two legacy groups gang into one (R446). -/
def Image.native (im : Image) (r : Role) : Nat := if im.width = 16 then (r.groups + 1) / 2 else r.groups

/-- Lane rows of a group (R114). -/
def rowsOf (l w lanes : Nat) : Nat := (l + 6 * w + 8 + 7) / 8 * 8 * (lanes / 32)

/-- A group that wants a place: its role, number and team core position, its lane rows and its uniform slots (R114, R444). -/
structure Seat where
  role : Nat
  num : Nat
  pos : Nat
  rows : Nat
  slots : Nat
  deriving DecidableEq, Repr

/-- The seats of the roles from number k on; first is the number of repack sets dealt before (R444, R382). -/
def seatsFrom (im : Image) : List Role → Nat → Nat → List Seat
  | [], _, _ => []
  | r :: t, k, first =>
    (List.range (im.native r)).map (fun n => ⟨k, n, (first + n / 4) % im.cores, rowsOf r.l r.w im.lanes, r.u + 8⟩) ++
      seatsFrom im t (k + 1) (first + (im.native r + 3) / 4)

/-- Every group of a team of an image, in order of (role, group number) (R444, R445). -/
def Image.seats (im : Image) : List Seat := seatsFrom im im.roles 0 0

/-- What is taken of a sub-core: lane rows, uniform slots, group places. -/
structure SubUse where
  rows : Nat
  slots : Nat
  groups : Nat
  deriving DecidableEq, Repr

def SubUse.empty : SubUse := ⟨0, 0, 0⟩

/-- The seat can be taken on the sub-core (R114, R445: 8 groups on stage and 24 in the wings). -/
def SubUse.holds (u : SubUse) (x : Seat) : Bool :=
  decide (u.rows + x.rows ≤ 1536) && decide (u.slots + x.slots ≤ 2048) && decide (u.groups < 32)

/-- The sub-core that a seat goes to: of those that can hold it, the one with the most free rows, the lowest on a tie (R445). -/
def bestSub (x : Seat) : List (SubUse × Nat) → Option Nat
  | [] => none
  | (u, k) :: r =>
    match bestSub x r with
    | none => if u.holds x then some k else none
    | some j => if u.holds x && (r.find? (fun e => e.2 == j)).all (fun e => decide (u.rows ≤ e.1.rows)) then some k else some j

/-- A seat taken on a sub-core. -/
def SubUse.add (u : SubUse) (x : Seat) : SubUse := ⟨u.rows + x.rows, u.slots + x.slots, u.groups + 1⟩

/-- Seats placed one at a time on one core (R445): each with its sub-core. -/
def placeSeats : List Seat → List SubUse → Option (List (Seat × Nat))
  | [], _ => some []
  | x :: r, us =>
    match bestSub x us.zipIdx with
    | none => none
    | some k =>
      match placeSeats r (us.zipIdx.map (fun e => if e.2 = k then e.1.add x else e.1)) with
      | none => none
      | some l => some ((x, k) :: l)

/-- The seats of each position placed on its core; uses gives what is taken on each. -/
def placeTeam (seats : List Seat) : List (List SubUse) → Nat → Option (List (Seat × Nat))
  | [], _ => some []
  | us :: r, q =>
    match placeSeats (seats.filter (fun x => x.pos == q)) us, placeTeam seats r (q + 1) with
    | some a, some b => some (a ++ b)
    | _, _ => none

/-- The eight idle sub-cores of a core. -/
def idleSubs : List SubUse := List.replicate 8 SubUse.empty

/-- Team-memory bytes of the core at a position (R443). -/
def shareOf (size cores q : Nat) : Nat :=
  let full := size / 256
  (full + cores - 1 - q) / cores * 256 + (if full % cores = q then size % 256 else 0)

/-- A team of the image fits idle cores (R442 code 6, R449). -/
def Image.fitsIdle (im : Image) : Bool :=
  decide (im.teamMem ≤ 2 ^ 19 * im.cores) && (placeTeam im.seats (List.replicate im.cores idleSubs) 0).isSome

/-- The seats of a team that was saved: those of its groups that have not exited (R458 step 6). -/
def State.savedSeats (s : State) (t : Nat) : List (Nat × Seat) :=
  (s.groups.filter (fun e => e.2.team == t)).map (fun e =>
    (e.1, ⟨e.2.role, e.2.num, e.2.pos, rowsOf e.2.lbud e.2.wbud e.2.width, e.2.ubud + 8⟩))

/-- What the placed groups take of the sub-cores of a core (R114). -/
def State.subUses (s : State) (die core : Nat) : List SubUse :=
  (List.range 8).map (fun k =>
    s.groups.foldl (fun u e =>
      if e.2.placed ∧ e.2.die = die ∧ e.2.core = core ∧ e.2.sub = k then
        u.add ⟨0, 0, 0, rowsOf e.2.lbud e.2.wbud e.2.width, e.2.ubud + 8⟩ else u) SubUse.empty)

/-- The teams that stand on a core, with their position there. -/
def State.teamsOn (s : State) (die core : Nat) : List (Team × Nat) :=
  s.teams.filterMap (fun e =>
    if e.2.die = die ∧ e.2.state = .running then (e.2.cores.findIdx? (fun c => c == core)).map (fun q => (e.2, q)) else none)

/-- Team-memory bytes of a core that no team holds; each deque record takes 128 (R433). -/
def State.freeMem (s : State) (die core : Nat) : Nat :=
  2 ^ 19 - ((s.teamsOn die core).foldl (fun n e => n + shareOf e.1.size e.1.ncores e.2) 0 +
    128 * (s.deques.getD (48 * die + core) []).length)

/-- Meeting points of a core that no team holds (R356, R443). -/
def State.freeMeets (s : State) (die core : Nat) : Nat :=
  128 - (s.teamsOn die core).foldl (fun n e => if e.2 = 0 then n + e.1.mps.length else n) 0

/-- The candidate core sets of a die, ascending (R448, R25). -/
def coreSets (n : Nat) : List (List Nat) := (List.range (48 / n)).map (fun k => (List.range n).map (fun i => n * k + i))

/-- Team memory, meeting points, and what a saved team needs again of its cores and quad (R449, R277, R323). -/
def State.roomFor (s : State) (t : Team) (mpn : Nat) (die : Nat) (cores : List Nat) : Bool :=
  (cores.zipIdx).all (fun e => decide (shareOf t.size t.ncores e.2 ≤ s.freeMem die e.1)) &&
    decide (mpn ≤ s.freeMeets die (cores.headD 0)) &&
    (!t.mat.claimed || cores.all (fun c => decide ((s.claimedOn die c).1 + t.mat.slots ≤ 16) && decide ((s.claimedOn die c).2 + t.mat.accKib ≤ 192))) &&
    (let q := 12 * die + cores.headD 0 / 4
     decide (s.tabsOnQuad q + t.sol.tabs.length ≤ 8) && decide (s.samplesOnQuad q + t.sol.samples.length ≤ 4096))

/-- A team fits a core set (R449): the sub-core of each group. -/
def State.fits (s : State) (id : Nat) (t : Team) (mpn : Nat) (cores : List Nat) : Option (List (Seat × Nat)) :=
  let fn := s.ctxFn t.ctx
  let seats := if t.saved then (s.savedSeats id).map (fun e => e.2) else t.image.seats
  if cores.all (fun c => s.inPartition fn (12 * t.die + c / 4) && !(s.vacating.contains (12 * t.die + c / 4))) && s.roomFor t mpn t.die cores then
    placeTeam seats (cores.map (s.subUses t.die)) 0
  else none

/-- The first core set that fits a team (R448). -/
def State.findCores (s : State) (id : Nat) (t : Team) (mpn : Nat) : List (List Nat) → Option (List Nat × List (Seat × Nat))
  | [] => none
  | c :: r =>
    match s.fits id t mpn c with
    | some l => some (c, l)
    | none => State.findCores s id t mpn r

/-- The dies that hold a quad of a function's partition, ascending (R411, R447). Vacated quads have left it (R458 step 5). -/
def State.diesOf (s : State) (fn : Nat) : List Nat :=
  (List.range 4).filter (fun d => (List.range 12).any (fun q => s.inPartition fn (12 * d + q)))

end Sys2Proof.Machine
end

