-- ==== Sys2Proof/Machine/Front.lean ====
section
/-! DEFINITION. Reading the tables of a launch: the image loader (R186, R187, R480), the launch record and its checks (R438 to
R442). -/

namespace Sys2Proof.Machine

/-- What reading or checking something gives: a result, a wait for translation, or a cause, at the context rung or not. -/
inductive Fetched (α : Type) where
  | ok (s : State) (x : α)
  | wait (s : State)
  | fail (s : State) (cause : Nat) (context : Bool)

/-- How a party reads n bytes at a global address. -/
abbrev Reader := State → Nat → Nat → Fetched (List Byte)

/-- Both ends of a range are canonical (R60). -/
def rangeOk (va n : Nat) : Bool := canonical va && canonical ((va + (n - 1)) % 2 ^ 64) && decide (va + (n - 1) < 2 ^ 64)

/-- Pieces read after translation; their lines are obtained from the host (R32, R39). -/
def State.readPieces (s : State) (o : Owner) (die core fn pasid : Nat) : List (Nat × Nat) → Fetched (List Byte)
  | [] => .ok s []
  | (a, n) :: r =>
    match s.hpaOf o die core fn pasid a .read with
    | none => .wait s
    | some hpa =>
      match s.locAt (if core = 48 then protrum else die) hpa with
      | .wait => .wait s
      | .fails c => .fail s c false
      | .at l =>
        if s.poisoned l n then .fail (s.countBad l n) 0x0B false
        else
          match State.readPieces (s.obtainAt l n) o die core fn pasid r with
          | .ok s1 b => .ok s1 (s.bytesAt l n ++ b)
          | .wait s1 => .wait s1
          | .fail s1 c x => .fail s1 c x

/-- A read by Protrum in a context's space, with the permissions of a load; die 0's translation cache serves it (log 26). -/
def frontRead (o : Owner) (fn pasid : Nat) : Reader := fun s va n =>
  if n = 0 then .ok s []
  else if !rangeOk va n then .fail s 0x04 false
  else
    let ps := cutAt 4096 (n / 4096 + 2) va n
    let pages := ps.map (fun p => pageOf p.1)
    let s1 := s.needPages o 0 48 fn pasid .read pages
    match s1.standingOn o pages with
    | .refused c x => .fail s1 c x
    | .waiting => .wait s1
    | .ready => s1.readPieces o 0 48 fn pasid ps

/-- A read as loads of a group (R192, R421): pieces within 64-byte sectors, after the group's earlier stores and seen over them; their lines are
obtained from the host, and an uncorrectable one is counted at its part (R32, R39, R52). -/
def groupRead (o : Owner) (gid : Nat) : Reader := fun s va n =>
  let qs : List Req := (cutAt 64 (n / 64 + 2) va n).map (fun p => ⟨0, .glob, p.1, p.2⟩)
  match s.groups.get? gid with
  | none => .wait s
  | some g =>
    if n = 0 then .ok s []
    else if !rangeOk va n then .fail s 0x04 false
    else
      let s1 := s.ask o g .read qs
      let pages (t : Team) : List Nat := (qs.flatMap (t.pagesOf .read)).map (fun p => p.1)
      match s1.standingOn o (match s1.teams.get? g.team with
        | some t => pages t
        | none => []), s1.teams.get? g.team with
      | .refused c x, _ => .fail s1 c x
      | .waiting, _ => .wait s1
      | .ready, none => .wait s1
      | .ready, some t =>
        if qs.any (s1.behindWrite gid g t o .read) then .wait s1
        else
        match s1.fillAll g o (qs.filterMap t.fillOf) with
        | (s2, .wait, _) => .wait s2
        | (s2, .fails c, _) => .fail s2 c false
        | (s2, .bytes _, _) =>
          match s2.teams.get? g.team with
          | none => .wait s2
          | some t2 =>
            let got := qs.map (fun q => (q, s2.readReq g t2 o .read q))
            match got.foldl (fun (a : Got) x => a.append x.2) (.bytes []) with
            | .bytes b => .ok (qs.foldl (fun s q => s.obtainRead g o .read q.sp q.a q.n) s2) b
            | .wait => .wait s2
            | .fails c => .fail (s2.countFails g o .read (failures got)) c false

/-! ## Checks with a report -/

/-- Why a launch or a bind is refused: a code with the report of R410, or a cause met while reading. -/
inductive Refuse where
  | report (code pass res need have_ : Nat)
  | cause (c : Nat) (context : Bool)
  deriving DecidableEq, Repr

/-- The result of reading and checking tables. -/
inductive Parsed (α : Type) where
  | ok (s : State) (x : α)
  | wait (s : State)
  | no (s : State) (e : Refuse)

/-- A refusal with a code alone. -/
def Refuse.code (c : Nat) : Refuse := .report c 0xFFFF 0xFFFF 0 0

def Parsed.andThen {α β : Type} (m : Parsed α) (k : State → α → Parsed β) : Parsed β :=
  match m with
  | .ok s x => k s x
  | .wait s => .wait s
  | .no s e => .no s e

/-- A read whose failure is a refusal with a code (R442), or with code 0 the cause itself. -/
def readAs (rd : Reader) (code : Nat) (s : State) (va n : Nat) : Parsed (List Byte) :=
  match rd s va n with
  | .ok s1 b => .ok s1 b
  | .wait s1 => .wait s1
  | .fail s1 c x => .no s1 (if code = 0 then .cause c x else .code code)

/-- A check. -/
@[inline] def require {α : Type} (b : Bool) (e : Refuse) (s : State) (k : Parsed α) : Parsed α := if b then k else .no s e

/-- The same work on every element, in order. -/
def parseEach {α β : Type} (f : State → α → Parsed β) : List α → State → Parsed (List β)
  | [], s => .ok s []
  | x :: r, s => (f s x).andThen fun s1 y => (parseEach f r s1).andThen fun s2 l => .ok s2 (y :: l)

/-- A field of n bytes at an offset. -/
def leField (b : List Byte) (off n : Nat) : Nat := ofBytes ((b.drop off).take n)

/-- A signed byte. -/
def leSigned (b : List Byte) (off : Nat) : Int := toSigned (leField b off 1) 8

/-! ## The image -/

/-- A section record (R187); none if it is refused. -/
def sectOf (b : List Byte) : Option Sect :=
  let kind := leField b 0x10 1
  if !(leField b 0x12 2 == 0) || !(leField b 0x24 12 == 0) || decide (3 < kind) || (kind == 3 && !(leField b 0x18 8 == 0)) ||
      (!(kind == 0) && !(leField b 0x20 4 == 0)) then none
  else some ⟨kind, leField b 0x11 1, leField b 0x14 4, leField b 0x18 8, leField b 0x20 4⟩

/-- A role record (R186, R187); none if it is refused. -/
def roleOf (sects : List Sect) (b : List Byte) : Option Role :=
  let entry := leField b 0 8
  let groups := leField b 0x0A 2
  match sects[leField b 8 2]? with
  | none => none
  | some x =>
    if leField b 0x31 15 == 0 && !(groups == 0) && x.kind == 0 && entry % 4 == 0 && decide (entry < x.size) then
      some ⟨entry, leField b 8 2, groups, leField b 0x0C 2, leField b 0x0E 1, leField b 0x0F 1, leField b 0x10 32, leField b 0x30 1⟩
    else none

/-- A stencil record (R187); none if it is refused. -/
def stencilOf (b : List Byte) : Option Stencil :=
  if leField b 0 1 ≤ 7 ∧ leField b 1 1 = 0 ∧ leField b 6 2 = 0 then
    some ⟨leField b 0 1, leSigned b 2, leSigned b 3, leSigned b 4, leSigned b 5⟩
  else none

/-- A checked record, or a refusal with code 2. -/
def orRefuse {α : Type} (s : State) (x : Option α) : Parsed α :=
  match x with
  | some y => .ok s y
  | none => .no s (.code 2)

/-- The header's fixed values and ranges (R186). -/
def imageHeaderOk (h : List Byte) : Bool :=
  leField h 0 4 == 0x4557424D && leField h 4 2 == 1 && (leField h 6 2 == 0 || leField h 6 2 == 9) &&
    [16, 32, 64].contains (leField h 8 1) && [1, 2, 4].contains (leField h 9 1) &&
    decide (1 ≤ leField h 0x0A 1 ∧ leField h 0x0A 1 ≤ 4) && decide (1 ≤ leField h 0x0B 1 ∧ leField h 0x0B 1 ≤ 32) &&
    decide (leField h 0x2C 4 ≤ 8) && leField h 0x38 8 == 0

/-- Digests of 32 bytes each. -/
def digestsOf (b : List Byte) (n : Nat) : List (BitVec 256) := (List.range n).map (fun k => BitVec.ofNat 256 (leField b (32 * k) 32))

/-- THE LOADER (R186, R187, R480): an image read and checked; every refusal is code 2 (R442). -/
def loadImageAt (rd : Reader) (keyAddr : Nat) (s : State) (addr : Nat) : Parsed Image :=
  let at_ (off : Nat) : Nat := (addr + off) % 2 ^ 64
  (readAs rd 2 s addr 64).andThen fun s h =>
  require (imageHeaderOk h) (.code 2) s <|
  let nsec := leField h 0x0B 1
  let count := leField h 0x28 4
  (parseEach (fun s k => (readAs rd 2 s (at_ (leField h 0x18 8 + 48 * k)) 48).andThen fun s b => orRefuse s (sectOf b)) (List.range nsec) s).andThen fun s sects =>
  (parseEach (fun s k => (readAs rd 2 s (at_ (leField h 0x10 8 + 64 * k)) 64).andThen fun s b => orRefuse s (roleOf sects b)) (List.range (leField h 0x0A 1)) s).andThen fun s roles =>
  (parseEach (fun s k => (readAs rd 2 s (at_ (leField h 0x30 8 + 8 * k)) 8).andThen fun s b => orRefuse s (stencilOf b)) (List.range (leField h 0x2C 4)) s).andThen fun s stens =>
  require (decide ((stens.map (fun x => x.slot)).Nodup)) (.code 2) s <|
  (readAs rd 2 s (at_ (leField h 0x20 8)) (32 * count + 64)).andThen fun s table =>
  (readAs rd 2 s keyAddr 64).andThen fun s key =>
  require (Config.sm2Verify key (table.take (32 * count)) (table.drop (32 * count))) (.code 2) s <|
  .ok s ⟨leField h 8 1, leField h 9 1, leField h 0x0C 4, roles, sects, [], digestsOf table count, stens⟩

/-! ## The launch record -/

/-- What a launch record starts (R438): a host grid, or a pass or a task with the image that its own record names. -/
inductive LaunchFor where
  | host
  | named (image : Nat)
  deriving DecidableEq, Repr

def LaunchFor.isHost : LaunchFor → Bool
  | .host => true
  | .named _ => false

/-- Check 1 of R442. -/
def launchRecordOk (h : List Byte) (kind : LaunchFor) : Bool :=
  let table (n off al : Nat) : Bool := leField h off 8 % al == 0 && (!(n == 0) || leField h off 8 == 0)
  leField h 0x3B 5 == 0 && decide (leField h 0x0D 1 ≤ 64) && decide (leField h 0x0E 1 ≤ 64) && decide (leField h 0x0F 1 ≤ 128) &&
    decide (leField h 0x38 2 ≤ 16384) && table (leField h 0x0C 1) 0x20 8 && table (leField h 0x0D 1) 0x28 4 &&
    table (leField h 0x0E 1) 0x30 16 && (!kind.isHost || (!(leField h 8 4 == 0) && decide (leField h 0x3A 1 < 16)))

/-- A section base (R439). -/
def baseOk (x : Sect) (b : Nat) : Bool := canonical b && b % 2 ^ x.align == 0 && (!(x.kind == 0) || b % 4096 == 0)

/-- A role's budgets (R113). -/
def Role.budgetOk (r : Role) : Bool :=
  r.l % 8 == 0 && decide (8 ≤ r.l ∧ r.l ≤ 256) && decide (r.w ≤ 8) && r.u % 8 == 0 && decide (8 ≤ r.u ∧ r.u ≤ 128)

/-- A preload entry (R440); none if it is refused (code 4). -/
def preloadOf (im : Image) (b : List Byte) : Option Preload :=
  let reg := leField b 0 1
  let kind := leField b 1 1
  let roles := leField b 2 1
  let idx := leField b 3 1
  let idxOk := if kind = 1 then decide (idx < im.sects.length) else if kind = 3 then decide (idx ≤ 63) else idx == 0
  let regOk := (im.roles.zipIdx).all (fun r => !(bit roles r.2) || decide (reg < r.1.u))
  if leField b 4 4 = 0 ∧ kind ≤ 4 ∧ roles < 2 ^ im.roles.length ∧ reg ≤ 127 ∧ idxOk = true ∧ regOk = true then
    some ⟨reg, kind, roles, idx, BitVec.ofNat 64 (leField b 8 8)⟩
  else none

/-- A channel descriptor (R121, R441), with the storage it takes; none if it is invalid by itself. -/
def chanOf (size d : Nat) : Option (Chan × Nat × Nat) :=
  let kind := bits d 7 6
  let base := bits d 31 13
  let depth := bits d 4 0
  let a := 128 * base
  let n := depth * (if kind = 1 then 256 else 8)
  if !(bits d 12 8 == 0) || bit d 5 || kind == 3 then none
  else if kind = 0 then (if base = 0 ∧ depth = 0 then some (⟨.disabled, 0, 0, [], [], 0⟩, 0, 0) else none)
  else if 1 ≤ depth ∧ depth ≤ 16 ∧ a + n ≤ size then
    some (⟨if kind = 1 then .lane else .uniform, base, depth, [], [], 0⟩, a, n)
  else none

/-- The channel table of the descriptors (R441); none if one is invalid or two overlap (code 5). -/
def chansOf (size : Nat) : List Nat → Nat → List (Nat × Nat) → Option (Map Chan)
  | [], _, _ => some []
  | d :: r, n, used =>
    match chanOf size d with
    | none => none
    | some (c, a, len) =>
      if used.any (fun u => decide (a < u.1 + u.2) && decide (u.1 < a + len)) then none
      else
        match chansOf size r (n + 1) (if len = 0 then used else (a, len) :: used) with
        | none => none
        | some m => some (if c.kind = .disabled then m else m.set n c)

/-- A LAUNCH RECORD read and checked in the order of R442; check 7 stands with its caller. -/
def readLaunch (rd : Reader) (keyAddr : Nat) (kind : LaunchFor) (s : State) (addr : Nat) : Parsed LaunchRec :=
  let at_ (off : Nat) : Nat := (addr + off) % 2 ^ 64
  require (addr % 64 == 0) (.code 1) s <|
  (readAs rd 1 s (at_ 0) 64).andThen fun s h =>
  require (launchRecordOk h kind) (.code 1) s <|
  let nsect := leField h 0x0C 1
  let nchan := leField h 0x0D 1
  let npre := leField h 0x0E 1
  (loadImageAt rd keyAddr s (match kind with
    | .host => leField h 0 8
    | .named a => a)).andThen fun s im =>
  require (nsect == im.sects.length) (.code 2) s <|
  (readAs rd 2 s (leField h 0x20 8) (8 * nsect)).andThen fun s bases =>
  let bs := (List.range nsect).map (fun k => leField bases (8 * k) 8)
  require ((im.sects.zip bs).all (fun e => baseOk e.1 e.2)) (.code 2) s <|
  require (im.roles.all Role.budgetOk) (.code 3) s <|
  (readAs rd 4 s (leField h 0x30 8) (16 * npre)).andThen fun s pre =>
  let ps := (List.range npre).map (fun k => preloadOf im ((pre.drop (16 * k)).take 16))
  require (ps.all Option.isSome) (.code 4) s <|
  (readAs rd 5 s (leField h 0x28 8) (4 * nchan)).andThen fun s ch =>
  match chansOf im.teamMem ((List.range nchan).map (fun k => leField ch (4 * k) 4)) 0 [] with
  | none => .no s (.code 5)
  | some chans =>
    require im.fitsIdle (.code 6) s <|
    .ok s ⟨addr, { im with bases := bs }, leField h 8 4, leField h 0x0F 1, BitVec.ofNat 128 (leField h 0x10 16), ps.filterMap id, chans,
      leField h 0x38 2, leField h 0x3A 1⟩

/-- The dies that a host grid may use (R438 DIEMASK, R447). -/
def State.gridDies (s : State) (fn mask : Nat) : List Nat := (s.diesOf fn).filter (fun d => mask == 0 || bit mask d)

end Sys2Proof.Machine
end

