-- ==== Sys2Proof/Machine/Queue.lean ====
section
/-! DEFINITION. The command and event queues of a function: completions and event records (R473, R507, R508, R511, R513). -/

namespace Sys2Proof.Machine

/-- The queue registers of a function. -/
def State.queueOf (s : State) (fn : Nat) : HostQueue := s.hq.getD fn HostQueue.reset

def State.setQueue (s : State) (fn : Nat) (q : HostQueue) : State := { s with hq := s.hq.set fn q }

/-- An entry of 32 bytes made ready for a function's event queue, with the stop it reports, if any (R513). -/
def State.postEvent (s : State) (fn : Nat) (b : List Byte) (stop : Option Nat) : State :=
  let q := s.queueOf fn
  (s.setQueue fn { q with pending := q.pending ++ [(b, stop)] }).push (.eventRecordWrite fn)

/-- An event record of a stop has come to Protrum (R473, R515): it is made ready for its function's queue. -/
def runEventArrive (fn stop : Nat) (b : List Byte) (s : State) : Result :=
  arrive (.eventArrive fn stop b) s fun s1 => .next (s1.postEvent fn b (some stop))

/-- A completion (R508, R511). -/
def completion (tag status ctx r0 r1 : Nat) : List Byte :=
  [0, BitVec.ofNat 8 status] ++ toBytes tag 2 ++ toBytes ctx 4 ++ toBytes r0 8 ++ toBytes r1 8 ++ toBytes 0 8

/-- A command completes (R508). -/
def State.complete (s : State) (fn tag status ctx r0 : Nat) : State := s.postEvent fn (completion tag status ctx r0 0) none

/-- The event record of a stop (R473): the context and the team only at the rungs that name them. -/
def Stop.record (st : Stop) (pasid team : Nat) : List Byte :=
  [BitVec.ofNat 8 st.rung, BitVec.ofNat 8 st.cause, BitVec.ofNat 8 st.code, 0] ++ toBytes (if st.rung ≤ 2 then pasid else 0) 4 ++
    toBytes (if st.rung = 1 then team else 0xFFFFFFFF) 4 ++ toBytes 0 4 ++ toBytes st.pc.toNat 8 ++ toBytes st.addr.toNat 8

/-- A stop's vector (R460, R461, R509). -/
def State.stopVector (s : State) (st : Stop) : Nat :=
  let traps := match s.ctxs.get? st.ctx with
    | some c => (c.traps.tvec, c.traps.cvec)
    | none => (0, 0)
  if st.rung = 1 then traps.1 else if st.rung = 2 then traps.2 else if st.rung = 3 then s.vectors.pvec else s.vectors.dvec

/-- The physical address of an IO virtual address of a function: none where the host's map refuses it. Where the host has said nothing of a page
it is the same address (PRESUMED, log 11). -/
def State.ioAt (s : State) (fn a : Nat) : Option Nat :=
  match s.ioMap.get? (fn * 2 ^ 52 + a / 4096) with
  | none => some a
  | some p => p.map (fun p => p * 4096 + a % 4096)

/-- A range of IO virtual addresses by pages. -/
def ioPieces (a n : Nat) : List (Nat × Nat) := cutAt 4096 (n / 4096 + 2) a n

/-- What a read at IO virtual addresses gives: its bytes, with the lines that it obtained; or it fails; or it waits. -/
inductive IoRead where
  | ok (s : State) (b : List Byte)
  | fail (s : State)
  | wait

/-- The place of an IO virtual address of a function, and what Protrum meets there (R32, R45, R46, R544). none: the translation is refused. -/
def State.ioPlace (s : State) (fn a : Nat) : Option (Loc × Access) :=
  ((s.ioAt fn a).bind s.route).map (fun l => (l, s.access protrum l))

/-- Bytes written at an IO virtual address of a function, once every piece may be; a piece that the host's map refuses, or that lies in a failed device,
is dropped (R544, log 11). none: it waits. -/
def State.ioWrite (s : State) (fn a : Nat) (b : List Byte) : Option State :=
  let ps := ioPieces a b.length
  if ps.any (fun p => (s.ioPlace fn p.1).any (fun x => x.2 == .wait)) then none
  else
    some (ps.foldl (fun s p =>
      match s.ioPlace fn p.1 with
      | some (l, .served) => s.writeAt l ((b.drop (p.1 - a)).take p.2)
      | _ => s) s)

/-- Pieces read one after another; an uncorrectable one is counted at its part (R52). -/
def State.ioReadPieces (s : State) (fn : Nat) : List (Nat × Nat) → IoRead
  | [] => .ok s []
  | p :: r =>
    match s.ioPlace fn p.1 with
    | none => .fail s
    | some (_, .broken) => .fail s
    | some (_, .wait) => .wait
    | some (l, .served) =>
      if s.poisoned l p.2 then .fail (s.countBad l p.2)
      else
        match State.ioReadPieces (s.obtainAt l p.2) fn r with
        | .ok s1 b => .ok s1 (s.bytesAt l p.2 ++ b)
        | .fail s1 => .fail s1
        | .wait => .wait

/-- Bytes read at an IO virtual address of a function (R32, R39, R544): it fails where the translation is refused, the device has failed or the data is
uncorrectable (log 11). -/
def State.ioRead (s : State) (fn a n : Nat) : IoRead := s.ioReadPieces fn (ioPieces a n)

/-- A vector of a function signalled: it has 64 (R505); a higher number names none (log 88). -/
def State.signal (s : State) (fn v : Nat) : State := if v < 64 then { s with msix := s.msix ++ [(fn, v)] } else s

/-- The event queue has no room for an entry (R513): one more would make it look empty. -/
def HostQueue.full (q : HostQueue) : Bool := (q.evtTail + 1) % 2 ^ q.evtLog2 == q.evtHead % 2 ^ q.evtLog2

/-- A stop at the team or context rung of a context that is lost: nobody can answer it (R511). -/
def State.lostStop (s : State) (st : Stop) : Bool :=
  decide (st.rung ≤ 2) && (match s.ctxs.get? st.ctx with
    | some c => c.state == .lost
    | none => true)

/-- EVENT_RECORD_WRITE (R513, R473): the oldest pending entry is written whole, once its place may be written, EVTTAIL moves on, EVTVEC is signalled, and
for a stop its rung's vector too; the stop counts as delivered. -/
def execEventRecordWrite (fn : Nat) (s : State) : Result :=
  let q := s.queueOf fn
  match q.pending with
  | [] => .next s
  | (b, stop) :: r =>
    if !q.en || q.full then .next (s.push (.eventRecordWrite fn))
    else
      match s.ioWrite fn (q.evtBase + 32 * (q.evtTail % 2 ^ q.evtLog2)) b with
      | none => .next (s.push (.eventRecordWrite fn))
      | some s1 =>
      let s2 := s1.setQueue fn { q with evtTail := (q.evtTail + 1) % 2 ^ q.evtLog2, pending := r }
      let s3 := s2.signal fn q.evtVec
      let s4 : State :=
        match stop with
        | none => s3
        | some k =>
          match s3.stops.get? k with
          | none => s3
          | some st =>
            ({ s3 with stops := if s3.lostStop st then s3.stops.erase k else s3.stops.set k { st with delivered := true } } : State).signal fn
              (s3.stopVector st)
      .next (if r = [] then s4 else s4.push (.eventRecordWrite fn))

end Sys2Proof.Machine
end

