-- ==== Sys2Proof/Machine/Sched.lean ====
section
/-! DEFINITION. From launch to issue slot: gang start, placement, the stage, group exit, team end, grid end (chapter 16, R378,
R512). -/

namespace Sys2Proof.Machine

/-! ## A new team -/

/-- The team number that STREAM, the preloads and the reports use (R132, R401, R434, R440). -/
def Team.number (t : Team) : Nat := t.num

/-- The value of a preload (R440). A ganged group's number is its native one (log 31). -/
def Preload.valueFor (p : Preload) (bases : List Nat) (team role group : Nat) : W64 :=
  match p.kind with
  | 0 => p.value
  | 1 => BitVec.ofNat 64 (bases.getD p.idx 0) + p.value
  | 2 => BitVec.ofNat 64 team + p.value
  | 3 => p.value + BitVec.ofNat 64 (team * 2 ^ p.idx)
  | _ => BitVec.ofNat 64 (role * 2 ^ 32 + group)

/-- STREAM of a lane (R132, R446). -/
def streamOf (team role group lane : Nat) : W64 := BitVec.ofNat 64 (team % 2 ^ 40 * 2 ^ 24 + role * 2 ^ 22 + group * 2 ^ 8 + lane)

/-- The lanes that a group starts with (R446): half 1 of an odd role's last group has none. -/
def startLanes (im : Image) (r : Role) (num : Nat) : BitVec 64 :=
  if im.width = 16 then (if 2 * num + 1 < r.groups then lowHalf ||| highHalf else lowHalf) else allLanes im.lanes

/-- STREAM of every lane of a group. -/
def startStreams (im : Image) (team role num : Nat) : Map W64 :=
  (List.range im.lanes).map (fun l =>
    (l, if im.width = 16 then streamOf team role (2 * num + l / 16) (l % 16) else streamOf team role num l))

/-- The first program counter of a role (R439). -/
def Image.startPc (im : Image) (r : Role) : W64 := BitVec.ofNat 64 (im.bases.getD r.sect 0 + r.entry)

/-- The blocks of 8 rows that the groups of a sub-core hold (R114). -/
def State.blocksUsed (s : State) (die core sub : Nat) : List Nat :=
  s.groups.flatMap (fun e => if e.2.placed ∧ e.2.die = die ∧ e.2.core = core ∧ e.2.sub = sub then e.2.blocks else [])

/-- Blocks for a number of rows: the lowest of the 192 that are free (R114). -/
def State.blocksFor (s : State) (die core sub rows : Nat) : List Nat :=
  ((List.range 192).filter (fun b => !((s.blocksUsed die core sub).contains b))).take (rows / 8)

/-- A group at the start of its team (R111, R132, R371, R440, R443, R446). -/
def freshGroup (ctx grid tid : Nat) (t : Team) (lr : LaunchRec) (r : Role) (x : Seat) (die core sub : Nat) (stage : Option Nat)
    (blocks : List Nat) : Group where
  ctx := ctx
  grid := grid
  team := tid
  role := x.role
  num := x.num
  width := t.image.lanes
  gang := t.image.width == 16
  lbud := r.l
  wbud := r.w
  ubud := r.u
  carryV := r.carryV
  carryW := r.carryW
  pos := x.pos
  die := die
  core := core
  sub := sub
  stage := stage
  placed := true
  v := []
  x := []
  w := []
  p := []
  s := (lr.preloads.filter (fun p => bit p.roles x.role)).foldl (fun m p => m.set p.reg (p.valueFor t.image.bases t.num x.role x.num)) []
  c := []
  b := 0
  key := lr.seed
  stream := startStreams t.image t.num x.role x.num
  counter := []
  flags := 0
  undef := 0
  badV := []
  badX := []
  badW := []
  badS := []
  badC := []
  badGen := []
  blocks := blocks
  table :=
    if t.image.width = 16 then [(t.image.startPc r, lowHalf)] else [(t.image.startPc r, startLanes t.image r x.num)]
  table1 :=
    if startLanes t.image r x.num &&& highHalf = 0 ∨ t.image.width ≠ 16 then [] else [(t.image.startPc r, highHalf)]
  parked := []
  arrived := false
  live := startLanes t.image r x.num
  help := 0
  lds := 0
  sts := 0
  cps := 0
  tls := 0
  entries := []
  sbuf := []
  queries := []
  hnd := false
  book := 0
  hcount := 0
  pend := none
  wait := .none
  waitPc := 0
  waitRun := 0
  spawned := []
  held := false
  ready := true
  turned := 0
  since := 0

/-- A team as a launch makes it: queued, with nothing allocated. -/
def newTeam (ctx grid num : Nat) (origin : Origin) (die : Nat) (im : Image) : Team :=
  ⟨ctx, grid, num, origin, .queued, false, die, [], im.cores, im, im.teamMem, [], [], [], [], [], Matrix.empty, ⟨[], [], 0, 0⟩,
    false, false, []⟩

/-- A team's meeting points at its start: EXPECT counts legacy groups (R356, R446). -/
def startMeets (im : Image) (mpn : Nat) : Map Meet :=
  (List.range mpn).map (fun k => (k, ⟨(im.roles.map (fun r => r.groups)).foldl (· + ·) 0, 0, 0, true⟩))

/-! ## Cue-board entries of a team -/

/-- The book, the pass, the first tile and the tiles of a team launched for a tile. -/
def State.tileOf (s : State) (t : Team) : Option (Nat × Playbill × Nat × List Nat) :=
  match t.origin with
  | .tile b p first _ =>
    (match s.books.get? b with
     | some pb =>
       (match pb.passes[p]? with
        | some ps => some (b, pb, p, (List.range ps.batch).map (fun i => first + i))
        | none => none)
     | none => none)
  | .grid => none
  | .task _ => none

/-- Cue-board entries changed. -/
def Playbill.mapCues (pb : Playbill) (f : Cue → Bool) (g : Cue → Cue) : Playbill :=
  { pb with cues := pb.cues.map (fun c => if f c then g c else c) }

/-- The entries of a team's own tiles (R415). -/
def isOwnCue (die pass : Nat) (tiles : List Nat) (c : Cue) : Bool := !c.far && c.die == die && c.pass == pass && tiles.contains c.tile

/-- The entries of a team's tiles are RUN from its start (R415). -/
def State.cueRun (s : State) (t : Team) : State :=
  match s.tileOf t with
  | none => s
  | some (b, pb, p, tiles) => s.setBook b (pb.mapCues (isOwnCue t.die p tiles) (fun c => { c with state := .run }))

/-! ## Task-tile reservations (R430) -/

/-- Cue-board entries in use on a die: those of bound playbills and the reservations of grids (R414, R430). -/
def State.cuesUsed (s : State) (die : Nat) : Nat :=
  s.books.foldl (fun n b => n + (b.2.cues.filter (fun c => c.die == die)).length) 0 +
    s.grids.foldl (fun n g => if g.2.started ∧ g.2.home = die then n + g.2.launch.tent else n) 0

/-- The grid has its task-tile entries, or may take them now (R430, R449). -/
def State.tentReady (s : State) (g : Grid) : Bool := g.started || decide (s.cuesUsed g.home + g.launch.tent ≤ 65536)

/-! ## Gang start -/

/-- A group put on a sub-core, its rows in awake banks (R130). -/
def State.seat (s : State) (gid : Nat) (g : Group) : State :=
  (s.wakeBanks g).setGroup gid { g with held := false, ready := true, turned := s.tick, since := s.tick }

/-- The group waits in twait, which it does off the stage (R437, R451). -/
def Group.inTwait (g : Group) : Bool :=
  match g.wait with
  | .twait _ => true
  | _ => false

/-- A seat's new place on a core, for a saved group (R458 step 6, R476). A fetch that it waited for is made anew there. -/
def State.reseat (s : State) (gid die core : Nat) (x : Seat) (sub : Nat) : State :=
  match s.groups.get? gid with
  | none => s
  | some g =>
    s.seat gid { g with
      die := die, core := core, sub := sub, stage := if g.inTwait then none else s.freeStage die core sub, placed := true
      blocks := s.blocksFor die core sub x.rows, wait := if g.wait = .fetch then .none else g.wait }

/-- A fresh group put on its sub-core. -/
def State.addGroup (s : State) (tid : Nat) (t : Team) (lr : LaunchRec) (x : Seat) (core sub : Nat) : State :=
  match t.image.roles[x.role]? with
  | none => s
  | some r =>
    ({ s with nextId := s.nextId + 1 } : State).seat s.nextId
      (freshGroup t.ctx t.grid tid t lr r x t.die core sub (s.freeStage t.die core sub) (s.blocksFor t.die core sub x.rows))

/-- A team started or restored in one step on a core set (R443, R458 step 6, R476). -/
def State.startTeam (s : State) (tid : Nat) (t : Team) (lr : LaunchRec) (cores : List Nat) (l : List (Seat × Nat)) : State :=
  if t.saved then
    let s1 := s.setTeam tid { t with state := .running, saved := false, cores := cores }
    let s2 : State := { s1 with ctxs := s1.ctxs.modify t.ctx (fun c => { c with saves := c.saves.filter (fun b => !(b.team == tid)) }) }
    (s.savedSeats tid).foldl (fun s e =>
      match l.find? (fun x => x.1 == e.2) with
      | some x => s.reseat e.1 t.die (cores.getD e.2.pos 0) e.2 x.2
      | none => s) s2
  else
    let t1 : Team := { t with state := .running, cores := cores, chans := lr.chans, mps := startMeets t.image lr.mpn }
    let s1 := (s.setTeam tid t1).cueRun t1
    l.foldl (fun s x => s.addGroup tid t1 lr x.1 (cores.getD x.1.pos 0) x.2) s1

/-- A team of the queue may act as its head (R448): its context is switched in and stays so, and nothing holds it. -/
def State.eligible (s : State) (tid : Nat) : Bool :=
  match s.teams.get? tid with
  | none => false
  | some t =>
    t.state == .queued && !(s.stops.any (fun e => e.2.holds (s.ctxFn t.ctx) t.ctx tid)) && !(s.leavingCtx t.ctx t.die) &&
      (match s.ctxs.get? t.ctx with
       | some c => c.state == .running
       | none => false)

/-- The meeting points that a team takes at its start. -/
def Team.meetsWanted (t : Team) (g : Grid) : Nat := if t.saved then t.mps.length else g.launch.mpn

/-- The team is placed on the first core set that fits it, if any (R448, R449); its grid's task-tile entries are taken once
(R430). -/
def State.placeNow (s : State) (tid : Nat) : Option State :=
  match s.teams.get? tid with
  | none => none
  | some t =>
    match s.grids.get? t.grid with
    | none => none
    | some g =>
      if !s.tentReady g then none
      else
        match s.findCores tid t (t.meetsWanted g) (coreSets t.ncores) with
        | none => none
        | some (cores, l) => some ((s.setGrid t.grid { g with started := true }).startTeam tid t g.launch cores l)

/-- A die's placement queue. -/
def State.queueAt (s : State) (die : Nat) : List Nat := s.queues.getD die []
def State.setQueueAt (s : State) (die : Nat) (l : List Nat) : State := { s with queues := s.queues.set die l }

/-- Teams put at the tail of their die's queue (R447); the queue is looked at. -/
def State.enqueueTeam (s : State) (die tid : Nat) : State := (s.setQueueAt die (s.queueAt die ++ [tid])).push (.gangStart die)

/-- A team put at the head of its die's queue (R450, R458 step 4). -/
def State.requeueTeam (s : State) (die tid : Nat) : State := (s.setQueueAt die (tid :: s.queueAt die)).push (.gangStart die)

/-! ## Saving a team -/

/-- A page wait of a group, its team or its matrix work, which does not survive a save (R475). -/
def Owner.ofTeam (o : Owner) (tid : Nat) (gids : List Nat) : Bool :=
  match o with
  | .entry g _ => gids.contains g
  | .out g _ => gids.contains g
  | .store g _ => gids.contains g
  | .fetch g => gids.contains g
  | .stash t _ => t == tid
  | .book g => gids.contains g
  | .matrix t _ => t == tid
  | .overflow _ _ _ => false
  | .front _ => false
  | .launch _ _ => false

/-- The groups of a team. -/
def State.groupsOf (s : State) (tid : Nat) : List Nat := (s.groups.filter (fun e => e.2.team == tid)).map (fun e => e.1)

/-- A TEAM SAVED WHOLE (R458 steps 2 and 3, R475): it leaves its cores with its groups and everything that travels with it;
translations are not saved. -/
def State.takeTeam (s : State) (tid : Nat) (st : TeamState) : State :=
  let gids := s.groupsOf tid
  { s with
    teams := s.teams.modify tid (fun t => { t with state := st, saved := true, cores := [] })
    groups := s.groups.map (fun e => if e.2.team = tid then
      (e.1, { e.2 with placed := false, stage := none, sbuf := e.2.sbuf.map (fun x => { x with phys := none }) }) else e)
    waits := s.waits.filter (fun w => !(w.owner.ofTeam tid gids)) }

/-- The bytes of a context's save area (R477, R552). -/
def Ctx.saveBytes (c : Ctx) : Nat := 4096 * c.saveSize

/-- HMAC-SM3 (R478 names it; RFC 2104 for SM3's block of 64 bytes, log 44). -/
def hmacSm3 (key : BitVec 256) (msg : List Byte) : List Byte :=
  let k := toBytes key.toNat 64
  toBytes (Config.sm3 (k.map (fun b => b ^^^ 0x5C) ++ toBytes (Config.sm3 (k.map (fun b => b ^^^ 0x36) ++ msg)).toNat 32)).toNat 32

/-- The tag of a block (R478), under the key of a boot. -/
def saveTag (boot dpa seq : Nat) (payload : List Byte) : List Byte :=
  (hmacSm3 (Config.saveKey boot) (toBytes dpa 8 ++ toBytes seq 8 ++ payload)).take 8

/-- The device address of a block of a save area (R477). -/
def Ctx.blockAt (c : Ctx) (k : Nat) : Nat := c.saveArea + 4096 * k

/-- A block's 4,088 bytes of payload and its tag (R477, R478). -/
def Ctx.blockBytes (c : Ctx) (boot tick team seq k : Nat) : List Byte :=
  let payload := (Config.savePayload tick team k ++ List.replicate 4088 0).take 4088
  payload ++ saveTag boot (c.blockAt k) seq payload

/-- What a party meets at a block of a save area, which the device reaches by its address whatever the bias of its pages (R45, R46, R477, R519, R544). -/
def State.blockAccess (s : State) (from_ : Nat) (c : Ctx) (k : Nat) : Access :=
  let ls := (List.range 16).map (fun i =>
    if s.reach from_ (dieOfDpa (c.blockAt k + 256 * i)) then s.served (.dram (c.blockAt k + 256 * i)) else .wait)
  if ls.contains .wait then .wait else if ls.contains .broken then .broken else .served

/-- The blocks that the save of a team takes: the lowest that hold nothing (R477). -/
def State.blocksToSave (s : State) (c : Ctx) (tid : Nat) : List Nat :=
  let n := max 1 (Config.saveBlocks s.tick tid)
  ((List.range c.saveSize).filter (fun k => !(c.saves.any (fun b => b.block == k)))).foldl (fun l k => if l.length < n then l ++ [k] else l) []

/-- A team may be saved now: no group of it is entering its handler, and its blocks may be written (R485, R519). -/
def State.savable (s : State) (tid : Nat) : Bool :=
  match s.teams.get? tid with
  | none => true
  | some t =>
    s.groups.all (fun e => !(e.2.team == tid) || !(s.entering e.1 e.2)) &&
      (match s.ctxs.get? t.ctx with
       | none => true
       | some c => (s.blocksToSave c tid).all (fun k => !(s.blockAccess t.die c k == .wait)))

/-- Every running team that a predicate selects may be saved now. -/
def State.allSavable (s : State) (f : Nat → Team → Bool) : Bool := s.teams.all (fun e => !(e.2.state == .running && f e.1 e.2) || s.savable e.1)

/-- A team written to the save area of its context (R477, R478): SEQ rises. A block in a failed device takes nothing (R544). -/
def State.writeSave (s : State) (ctx tid : Nat) : State :=
  match s.ctxs.get? ctx, s.teams.get? tid with
  | some c, some t =>
    let seq := c.seq + 1
    let ks := s.blocksToSave c tid
    ks.foldl (fun s k =>
      if s.blockAccess t.die c k = .served then
        { s with
          dram := s.dram.write (c.blockAt k) (c.blockBytes s.boot.count s.tick tid seq k)
          dramBad := clearBad s.dramBad 32 (c.blockAt k) 4096 }
      else s)
      (s.setCtx ctx { c with seq := seq, saves := c.saves ++ ks.map (fun k => ⟨tid, k, seq⟩) })
  | _, _ => s

/-- The blocks of a context that hold teams which a predicate selects. -/
def State.savedBlocks (s : State) (ctx : Nat) (f : Nat → Bool) : List (Ctx × SavedBlock) :=
  match s.ctxs.get? ctx with
  | none => []
  | some c => (c.saves.filter (fun b => f b.team)).map (fun b => (c, b))

/-- What one block meets at a restore (R479, R544). -/
def State.blockCause (s : State) (from_ : Nat) (c : Ctx) (b : SavedBlock) : Option Nat :=
  let bytes := s.dram.bytes (c.blockAt b.block) 4096
  if s.blockAccess from_ c b.block = .broken ∨ badIn (s.dramBad ++ s.crcBad) 32 (c.blockAt b.block) 4096 = true then some 0x0B
  else if !(bytes.drop 4088 == saveTag s.boot.count (c.blockAt b.block) b.seq (bytes.take 4088)) then some 0x0C
  else none

/-- A restore's reading of the blocks of a context's selected teams waits (R45, R46, R519, R544). -/
def State.saveWaits (s : State) (from_ ctx : Nat) (f : Nat → Bool) : Bool :=
  (s.savedBlocks ctx f).any (fun x => s.blockAccess from_ x.1 x.2.block == .wait)

/-- What a restore of the selected teams of a context meets in its save area (R479): an uncorrectable word, a tag that does not match, or
neither. -/
def State.saveCause (s : State) (from_ ctx : Nat) (f : Nat → Bool) : Option Nat :=
  (s.savedBlocks ctx f).findSome? (fun x => s.blockCause from_ x.1 x.2)

/-- The uncorrectable blocks of a context's selected teams counted as a restore has read them (R52). -/
def State.countSaved (s : State) (from_ ctx : Nat) (f : Nat → Bool) : State :=
  match (s.savedBlocks ctx f).find? (fun x => (s.blockCause from_ x.1 x.2).isSome) with
  | some x => s.countBad (.dram (x.1.blockAt x.2.block)) 4096
  | none => s

/-- A restore that is aborted (R479): the context is lost, and its cause is reported at the context rung. -/
def State.refuseRestore (s : State) (ctx cause : Nat) : State :=
  match s.ctxs.get? ctx with
  | none => s
  | some c => ((s.setCtx ctx { c with state := .lost }).raiseUpper 2 cause 0 c.fn ctx 0 0 (BitVec.ofNat 64 c.saveArea)).push (.lose ctx)

/-- A landing of an instruction that reads memory and has its own result, a task's or a playbill's aside (R75, R194). -/
def State.landRead (s : State) (gid : Nat) (g : Group) (e : Entry) : State :=
  match e.instr with
  | .tex _ _ _ _ _ _ _ => s.performTex gid g e
  | .sqtab _ _ _ _ _ => s.performTable gid g e
  | .sqfact _ _ _ _ _ => s.performTable gid g e
  | .mrd _ _ _ _ => s.performMrd gid g e
  | .trace _ _ _ _ _ _ _ => s.performWalk gid g e
  | .trnext _ _ => s.performWalk gid g e
  | .traccept _ _ => s.performWalk gid g e
  | .trhit _ _ => s.performWalk gid g e
  | .camray _ _ _ jit _ _ => s.performCamray gid g e jit
  | _ => s.performEntry gid e.id g

/-- The instruction only reads memory: what its requests read lands at a save (R475 step 2). -/
def landsAtSave (i : Instr) : Bool :=
  match memOp i with
  | some op => op.kind.isLoad
  | none => isTex i || isTabLoad i || (travKind i).isSome || (camJit i).isSome

/-- Reads whose requests have left the core land before a save (R475 step 2). One that would stop its context keeps its cause: it is
performed again when the group next runs (R463). -/
def State.landGroup (s : State) (gid : Nat) : State :=
  match s.groups.get? gid with
  | none => s
  | some g0 => (g0.entries.filter (fun e => e.state == .inFlight && !e.book && !e.bad && landsAtSave e.instr)).foldl (fun s e =>
      match s.groups.get? gid with
      | none => s
      | some g =>
        let s1 := s.landRead gid g e
        if s1.stops = s.stops then s1 else s) s

/-- A group of the team stops where it stands: a cause that arises from here on is kept in its state (R463, R475 step 1). -/
def State.halt (s : State) (tid : Nat) : State :=
  { s with groups := s.groups.map (fun e => if e.2.team = tid then (e.1, { e.2 with placed := false }) else e) }

/-- A team saved (R458 step 3, R475, R477). -/
def State.saveTeam (s : State) (tid : Nat) (st : TeamState) : State :=
  match s.teams.get? tid with
  | none => s
  | some t => (((s.groupsOf tid).foldl State.landGroup (s.halt tid)).writeSave t.ctx tid).takeTeam tid st

/-- The teams that a predicate selects saved, and put at the head of their dies' queues in order of (grid, team number)
(R458 steps 3 and 4). -/
def State.saveTeams (s : State) (f : Team → Bool) : State :=
  let l := sortBy (fun a b => if a.2.grid = b.2.grid then decide (a.2.num ≤ b.2.num) else decide (a.2.grid < b.2.grid))
    (s.teams.filter (fun e => e.2.state == .running && f e.2))
  let s1 := l.foldl (fun s e => s.saveTeam e.1 .queued) s
  l.reverse.foldl (fun s e => s.requeueTeam e.2.die e.1) s1

/-! ## Teams that may be parked out (R437, R450) -/

/-- A task has retired (R431, R435). -/
def Grid.retiredTask (g : Grid) (id : Nat) : Bool :=
  match g.tasks.get? id with
  | some t => t.place == .retired
  | none => false

/-- The tasks that a twait waits for have retired (R437). -/
def State.twaitOver (s : State) (g : Group) (id : Nat) : Bool :=
  match s.grids.get? g.grid with
  | none => true
  | some gr => if id = 0 then g.spawned.all gr.retiredTask else gr.retiredTask id

/-- The twaits of every group of a parked-out team are over (R450). -/
def State.parkedReady (s : State) (tid : Nat) : Bool :=
  s.groups.all (fun e => !(e.2.team == tid) || (match e.2.wait with
    | .twait id => s.twaitOver e.2 id
    | _ => true))

/-- A team is parkable (R450): it runs, and each of its groups that has not exited waits in twait. -/
def State.parkable (s : State) (tid : Nat) (t : Team) : Bool :=
  t.state == .running && !(s.stops.any (fun e => e.2.holds (s.ctxFn t.ctx) t.ctx tid)) &&
    s.groups.all (fun e => !(e.2.team == tid) || (match e.2.wait with
      | .twait _ => true
      | _ => false))

/-- The module without some teams on their cores. -/
def State.without (s : State) (l : List Nat) : State := l.foldl (fun s t => s.takeTeam t .parkedOut) s

/-- The parkable teams of a die that hold what something needs (R450): it would fit if they were parked out, and does not while one of them is not. -/
def State.blockers (s : State) (die : Nat) (fits : State → Bool) : List Nat :=
  let l := (s.teams.filter (fun e => e.2.die == die && s.parkable e.1 e.2 && !(s.parkedReady e.1))).map (fun e => e.1)
  if fits s || !(fits (s.without l)) then []
  else l.foldl (fun keep t => if fits (s.without (keep.filter (fun k => !(k == t)))) then keep.filter (fun k => !(k == t)) else keep) l

/-- The teams that hold what something needs are to be parked out (R450). -/
def State.askRoom (s : State) (die : Nat) (fits : State → Bool) : State :=
  (s.blockers die fits).foldl (fun s t => s.push (.parkOut t)) s

/-! ## The head of a queue -/

/-- The start of a tile's team is an acquire on everything in its stencil (R29): what narrower releases have recorded is published first
(R343). Which objects the stencil's bytes belong to is not worked out: all of them are (log 81). A team of a host grid is started from Protrum
(R17). -/
def State.startAcquire (s : State) (t : Team) : State × Bool :=
  if t.saved then (s, s.reach t.die protrum)
  else if t.forTile then s.publishAll t.die none s.syncRecs
  else (s, t.origin != .grid || s.reach t.die protrum)

/-- The head of a die's queue placed, if it fits now and its start may be performed; a parkable team that holds what it needs is parked out
(R450). -/
def State.startHead (s : State) (die tid : Nat) (t : Team) : State :=
  if (s.placeNow tid).isNone then (s.askRoom die (fun x => (x.placeNow tid).isSome)).push (.gangStart die)
  else
    match s.startAcquire t with
    | (s1, false) => s1.push (.gangStart die)
    | (s1, true) =>
      match s1.placeNow tid with
      | none => s1.push (.gangStart die)
      | some s2 =>
        let s3 := s2.setQueueAt die ((s2.queueAt die).filter (fun k => !(k == tid)))
        if s3.queueAt die = [] then s3 else s3.push (.gangStart die)

/-- GANG_START (R443, R448): the first eligible team of a die's queue is placed; the queue is looked at again while it holds
a team. A saved one is first checked (R479). -/
def execGangStart (die : Nat) (s : State) : Result :=
  match (s.queueAt die).find? s.eligible with
  | none => .next (if s.queueAt die = [] then s else s.push (.gangStart die))
  | some tid =>
    match s.teams.get? tid with
    | none => .next s
    | some t =>
      let own (k : Nat) : Bool := k == tid
      if s.saveWaits die t.ctx own then .next (s.push (.gangStart die))
      else
        match s.saveCause die t.ctx own with
        | some cause => .next (((s.countSaved die t.ctx own).refuseRestore t.ctx cause).push (.gangStart die))
        | none => .next (s.startHead die tid t)

/-! ## The stage (R451 to R453): timing only -/

/-- STAGE_LEAVE (R451): at one of its waits a group gives its place to a ready one; in twait it leaves at once. -/
def execStageLeave (gid : Nat) (s : State) : Result :=
  match s.groups.get? gid with
  | none => .next s
  | some g =>
    if g.stage.isNone || !g.placed then .next s
    else if g.inTwait && (s.wingsReady g).isNone then .next (s.setGroup gid { g with stage := none })
    else if g.wait.leaves || g.replayFull then .next (s.swapStage gid g)
    else .next s

/-- STAGE_IDLE_TIMEOUT (R451): a stage group that is not ready is swapped out. -/
def execStageIdleTimeout (gid : Nat) (s : State) : Result :=
  match s.groups.get? gid with
  | none => .next s
  | some g => if g.stage.isNone || !g.placed || s.issueReady gid then .next s else .next (s.swapStage gid g)

/-- STAGE_TIMESLICE (R453): a stage group is swapped for one that has been ready long. -/
def execStageTimeslice (gid : Nat) (s : State) : Result :=
  match s.groups.get? gid with
  | none => .next s
  | some g => if g.stage.isNone || !g.placed then .next s else .next (s.swapStage gid g)

/-- STAGE_ENTER (R451): a ready wings group takes a free stage place. -/
def execStageEnter (gid : Nat) (s : State) : Result :=
  match s.groups.get? gid with
  | none => .next s
  | some g =>
    if g.stage.isSome || !g.placed || !(s.issueReady gid) then .next s
    else .next (s.enterStage gid (s.freeStage g.die g.core g.sub))

/-! ## The end of a group, a team and a grid -/

/-- A team's exit from its grid; the last one lets the grid end (R423, R512). count: it is one of the grid's own teams. -/
def State.leaveGrid (s : State) (tid : Nat) (t : Team) (count : Bool) : State :=
  match s.grids.get? t.grid with
  | none => s
  | some g =>
    let g1 : Grid := { g with liveTeams := g.liveTeams.filter (fun k => !(k == tid)), exited := g.exited + (if count then 1 else 0) }
    (s.setGrid t.grid g1).push (.gridEnd t.grid)

/-- The last group of a team has exited: its cores, team memory, claims and samples are free, and what the team was launched
for may retire (R418, R435, R443). -/
def State.endTeam (s : State) (tid : Nat) : State :=
  match s.teams.get? tid with
  | none => s
  | some t =>
    let t1 : Team := { t with
      state := .ended, mem := [], bad := [], chans := [], mps := [], wins := [], mat := Matrix.empty
      sol := ⟨[], [], 0, 0⟩ }
    match t.origin with
    | .grid => ({ s with teams := s.teams.erase tid } : State).leaveGrid tid t true
    | .tile _ _ _ _ =>
      if t.retired then ({ s with teams := s.teams.erase tid } : State).leaveGrid tid t true
      else (s.setTeam tid t1).push (.tileRetire tid)
    | .task _ => (s.setTeam tid t1).push (.taskRetire tid)

/-- Meeting points lowered n times, each with its own phase check (R360). -/
def Team.lowerTimes (t : Team) : Nat → Team
  | 0 => t
  | n + 1 => Team.lowerTimes t.lowerExpect n

/-- Halves whose last lane went with the group's last exit (R360). -/
def Group.halvesEnding (g : Group) : Nat :=
  if g.gang then (if g.waitRun &&& lowHalf = 0 then 0 else 1) + (if g.waitRun &&& highHalf = 0 then 0 else 1) else 1

/-- GROUP_EXIT_COMPLETE (R378, R351, R360): the counters and the replay queue empty, a release on all objects at device scope,
the meeting points adjusted, the registers freed. A prompt book that the group still holds is freed with it (log 32). -/
def execGroupExitComplete (gid : Nat) (s : State) : Result :=
  wake gid (.groupExit gid) s fun g =>
    if !(g.wait == .exit) then .next s
    else if !(g.lds == 0 && g.sts == 0 && g.cps == 0 && g.tls == 0 && g.entries == [] && g.pend.isNone) then .next (s.push (.groupExit gid))
    else
      match s.release gid none 4 with
      | (s1, false) => .next (s1.push (.groupExit gid))
      | (s1, true) =>
        match s1.groups.get? gid with
        | none => .next s1
        | some g1 =>
          let s2 := s1.modTeam g.team (fun t => t.lowerTimes g1.halvesEnding)
          let s3 : State := { s2 with
            groups := s2.groups.erase gid
            syncRecs := s2.syncRecs.filter (fun r => !(r.gid == gid))
            ctxs := if g1.hnd then s2.ctxs.modify g1.ctx (fun c => { c with books := c.books.filter (fun k => !(k == g1.book)) }) else s2.ctxs }
          let s4 := s3.repackTry g1
          .next (if s4.groups.any (fun e => e.2.team == g.team) then s4 else s4.endTeam g.team)

end Sys2Proof.Machine
end

