-- ==== Sys2Proof/Machine/Playbill.lean ====
section
/-! DEFINITION. Playbills: reading and checking one (R401 to R410), footprints, spans over dies (R411), rings (R413) and the
entries they need (R414). -/

namespace Sys2Proof.Machine

/-! ## Records -/

/-- A resource record (R408); none if it is refused (code 2). -/
def resourceOf (b : List Byte) : Option Resource :=
  let kind := leField b 0 1
  let fl := leField b 1 1
  let moves := bit fl 0
  let tb := leField b 8 4
  let depth := leField b 0x0C 4
  let base := leField b 0x10 8
  let ovf := leField b 0x18 8
  let range (n : Nat) : Bool := decide (1 ≤ n ∧ n ≤ 4096)
  if kind ≤ 2 ∧ fl < 2 ∧ (moves = true → kind = 2) ∧ range (leField b 2 2) = true ∧ range (leField b 4 2) = true ∧ leField b 6 2 = 0 ∧
      tb % 256 = 0 ∧ 256 ≤ tb ∧ tb ≤ 2 ^ 20 ∧ (if kind = 2 then 1 ≤ depth ∧ depth ≤ 65535 else depth = 0) ∧
      (if kind = 2 then base = 0 else base % 256 = 0) ∧ (if moves then ovf % 256 = 0 else ovf = 0) ∧ leField b 0x20 32 = 0 then
    some ⟨kind, moves, leField b 2 2, leField b 4 2, tb, depth, base, ovf⟩
  else none

/-- A pass record as it stands in memory: useImg marks the read entries that take their offsets from the image (R406, R407). -/
structure PassRec where
  image : Nat
  launch : Nat
  gx : Nat
  gy : Nat
  batch : Nat
  reads : List (ReadEntry × Bool)
  writes : List Nat
  deriving DecidableEq, Repr

/-- A read entry (R407); none if it is refused (code 3). -/
def readEntryOf (nres e : Nat) : Option (ReadEntry × Bool) :=
  let use := bit e 10
  let off (k : Nat) : Int := toSigned (bits e (k + 7) k) 8
  if bits e 63 48 = 0 ∧ bits e 15 14 = 0 ∧ bits e 9 0 < nres ∧ (use = true → bits e 47 16 = 0) ∧ off 16 ≤ off 32 ∧ off 24 ≤ off 40 then
    some (⟨bits e 9 0, bit e 11, bits e 13 12, off 16, off 24, off 32, off 40⟩, use)
  else none

/-- A pass record (R406, R407); none if it is refused (code 3). -/
def passRecOf (nres : Nat) (b : List Byte) : Option PassRec :=
  let gx := leField b 0x10 2
  let gy := leField b 0x12 2
  let batch := leField b 0x14 1
  let nread := leField b 0x15 1
  let nwrite := leField b 0x16 1
  let rd := (List.range 8).map (fun k => leField b (0x20 + 8 * k) 8)
  let wr := (List.range 4).map (fun k => leField b (0x60 + 4 * k) 4)
  let reads := (rd.take nread).map (readEntryOf nres)
  let writes := wr.take nwrite
  if 1 ≤ gx ∧ gx ≤ 4096 ∧ 1 ≤ gy ∧ gy ≤ 4096 ∧ [1, 2, 4, 8].contains batch = true ∧ gx % batch = 0 ∧ nread ≤ 8 ∧ 1 ≤ nwrite ∧ nwrite ≤ 4 ∧
      leField b 0x17 9 = 0 ∧ leField b 0x70 16 = 0 ∧ (rd.drop nread).all (fun e => e == 0) = true ∧ (wr.drop nwrite).all (fun e => e == 0) = true ∧
      reads.all Option.isSome = true ∧ writes.all (fun e => decide (e < 1024) && decide (e < nres)) = true ∧ writes.Nodup then
    some ⟨leField b 0 8, leField b 8 8, gx, gy, batch, reads.filterMap id, writes⟩
  else none

/-- A read entry with the offsets of the image's stencil record of its slot (R407); none fails code 3. -/
def ReadEntry.resolve (r : ReadEntry) (im : Image) (slot : Nat) : Option ReadEntry :=
  match im.stencils.find? (fun x => x.slot == slot) with
  | none => none
  | some x => if x.dx0 ≤ x.dx1 ∧ x.dy0 ≤ x.dy1 then some { r with dx0 := x.dx0, dy0 := x.dy0, dx1 := x.dx1, dy1 := x.dy1 } else none

/-- A pass's read entries with their offsets. -/
def PassRec.resolved (p : PassRec) (im : Image) : Option (List ReadEntry) :=
  let l := (p.reads.zipIdx).map (fun e => if e.1.2 then e.1.1.resolve im e.2 else some e.1.1)
  if l.all Option.isSome then some (l.filterMap id) else none

/-! ## Geometry -/

/-- The first and the last coordinate of a footprint along one axis, before clipping (R403). -/
def spanOf (up : Bool) (sh x : Nat) (d0 d1 : Int) : Int × Int :=
  let b : Int := if up then x * 2 ^ sh else x / 2 ^ sh
  let e : Int := if up then 2 ^ sh - 1 else 0
  (b + d0, b + d1 + e)

/-- The coordinates of a footprint along one axis of n tiles (R403). -/
def clipped (n : Nat) (p : Int × Int) : List Nat :=
  let lo := p.1.toNat
  let hi := min p.2 ((n : Int) - 1)
  if hi < lo then [] else (List.range (hi.toNat + 1 - lo)).map (fun k => lo + k)

/-- A resource of a list. -/
def resAt (rs : List Resource) (n : Nat) : Resource := rs.getD n ⟨0, false, 1, 1, 256, 0, 0, 0⟩

/-- The tiles of a read entry's footprint for tile (x, y), by index (R403). -/
def ReadEntry.footprint (r : ReadEntry) (rs : List Resource) (x y : Nat) : List Nat :=
  let n := resAt rs r.res
  (clipped n.gy (spanOf r.up r.sh y r.dy0 r.dy1)).flatMap (fun ry =>
    (clipped n.gx (spanOf r.up r.sh x r.dx0 r.dx1)).map (fun rx => ry * n.gx + rx))

/-- The stencil of the team of the tiles from first on, as (resource, tile) (R403). -/
def Pass.stencil (p : Pass) (rs : List Resource) (first : Nat) : List (Nat × Nat) :=
  ((List.range p.batch).flatMap (fun i =>
    p.reads.flatMap (fun r => (r.footprint rs ((first + i) % p.gx) (first / p.gx)).map (fun t => (r.res, t))))).eraseDups

/-- The writer pass of a resource. -/
def writerOf (ps : List Pass) (n : Nat) : Option Nat := ps.findIdx? (fun p => p.writes.contains n)

/-- The rows of band k of n for gy rows: the first and the count (R411). -/
def bandOf (gy n k : Nat) : Nat × Nat := (k * (gy / n) + min k (gy % n), gy / n + (if k < gy % n then 1 else 0))

/-- The rows of one's own band. -/
def ownRows (gy n k : Nat) : List Nat := (List.range (bandOf gy n k).2).map (fun i => (bandOf gy n k).1 + i)

/-- Rows of a pass's tiles that transient reads of the given rows of a later pass cover (R411). -/
def rowsRead (rs : List Resource) (writes : List Nat) (q : Pass) (rows : List Nat) : List Nat :=
  rows.flatMap (fun y =>
    q.reads.flatMap (fun r =>
      if (resAt rs r.res).kind = 2 ∧ writes.contains r.res = true ∧
          (List.range q.gx).any (fun x => !(clipped (resAt rs r.res).gx (spanOf r.up r.sh x r.dx0 r.dx1) == [])) = true then
        clipped (resAt rs r.res).gy (spanOf r.up r.sh y r.dy0 r.dy1)
      else []))

/-- The extended bands of every pass on die k of n, from the last pass down (R411). -/
def extendedRows (rs : List Resource) (n k : Nat) : List Pass → List (List Nat)
  | [] => []
  | p :: later =>
    let rest := extendedRows rs n k later
    let need := (later.zip rest).flatMap (fun q => rowsRead rs p.writes q.1 q.2)
    ((List.range p.gy).filter (fun y => (ownRows p.gy n k).contains y || need.contains y)) :: rest

/-- The span of die k of a list of dies: the rows of every pass that run there (R411). -/
def spanRows (ps : List Pass) (rs : List Resource) (dies : List Nat) (k : Nat) : List (List Nat) := extendedRows rs dies.length k ps

/-- The place of a die among a playbill's dies. -/
def dieIndex (dies : List Nat) (die : Nat) : Nat := dies.findIdx (fun d => d == die)

/-- The row lies in the die's own band (R411). -/
def inOwnBand (gy : Nat) (dies : List Nat) (die y : Nat) : Bool := (ownRows gy dies.length (dieIndex dies die)).contains y

/-! ## Entries (R414, R415) -/

/-- Which entry of a die holds a tile: far, the pass or the resource of a far one, the tile (R414, R415); none for an input. -/
def cueKey (ps : List Pass) (rs : List Resource) (dies : List Nat) (die : Nat) (t : Nat × Nat) : Option (Bool × Nat × Nat) :=
  let r := resAt rs t.1
  match writerOf ps t.1 with
  | none => none
  | some w =>
    if r.kind = 0 then none
    else if r.kind = 2 then some (false, w, t.2)
    else if inOwnBand r.gy dies die (t.2 / r.gx) then some (false, w, t.2)
    else some (true, t.1, t.2)

/-- The entries that hold a team's stencil, each once (R415). -/
def stencilKeys (ps : List Pass) (rs : List Resource) (dies : List Nat) (die : Nat) (p : Pass) (first : Nat) : List (Bool × Nat × Nat) :=
  ((p.stencil rs first).filterMap (cueKey ps rs dies die)).eraseDups

/-- A team of a die's span: its pass, its first tile and the entries of its stencil. -/
structure SpanTeam where
  pass : Nat
  first : Nat
  dup : Bool
  keys : List (Bool × Nat × Nat)
  deriving DecidableEq, Repr

/-- The teams of a die's span in order of (pass, first tile) (R401, R411, R416). -/
def spanTeams (ps : List Pass) (rs : List Resource) (dies : List Nat) (die : Nat) : List SpanTeam :=
  ((ps.zipIdx).zip (spanRows ps rs dies (dieIndex dies die))).flatMap (fun e =>
    e.2.flatMap (fun y =>
      (List.range (e.1.1.gx / e.1.1.batch)).map (fun i =>
        let first := y * e.1.1.gx + i * e.1.1.batch
        ⟨e.1.2, first, !(inOwnBand e.1.1.gy dies die y), stencilKeys ps rs dies die e.1.1 first⟩)))

/-- The entries of a die, as they stand while no run is in flight: its span's tiles, then the far tiles that it reads (R414). -/
def dieCues (ps : List Pass) (rs : List Resource) (dies : List Nat) (die : Nat) : List Cue :=
  let teams := spanTeams ps rs dies die
  let batch (p : Nat) : Nat := (ps.map (fun x => x.batch)).getD p 1
  (teams.flatMap (fun t => (List.range (batch t.pass)).map (fun i => ⟨die, t.pass, t.first + i, .free, 0, 0, t.dup, false, false, false⟩))) ++
    (((teams.flatMap (fun t => t.keys)).eraseDups.filter (fun k => k.1)).map (fun k => ⟨die, k.2.1, k.2.2, .free, 0, 0, false, true, false, false⟩))

/-! ## Rings (R413) -/

/-- The lowest multiple of 256 at which a ring of a size is clear of the ranges (start, end) taken, in a slice of a limit. -/
def ringOffset (size limit : Nat) (used : List (Nat × Nat)) : Option Nat :=
  let up (x : Nat) : Nat := (x + 255) / 256 * 256
  let cands := sortBy (fun a b => decide (a ≤ b)) (0 :: used.map (fun u => up u.2))
  cands.find? (fun o => decide (o + size ≤ limit) && used.all (fun u => decide (o + size ≤ u.1) || decide (u.2 ≤ o)))

/-- A ring placed on the first slice (slice, mapped MiB) that has room: its layer offset. -/
def ringPlace (size : Nat) (used : List (Nat × Nat)) : List (Nat × Nat) → Option Nat
  | [] => none
  | (k, mib) :: r =>
    let base := k * 2 ^ 24
    let here := (used.filter (fun u => decide (u.1 / 2 ^ 24 = k))).map (fun u => (u.1 - base, u.2 - base))
    match ringOffset size (mib * 2 ^ 20) here with
    | some o => some (base + o)
    | none => ringPlace size used r

/-- The rings of a die placed in turn (R413); the resource of the first that does not fit. -/
def placeRings (rs : List Resource) (die : Nat) (slices : List (Nat × Nat)) : List Nat → List (Nat × Nat) → Except Nat (List Ring)
  | [], _ => .ok []
  | n :: t, used =>
    let size := (resAt rs n).depth * (resAt rs n).tileBytes
    match ringPlace size used slices with
    | none => .error n
    | some o =>
      match placeRings rs die slices t ((o, o + size) :: used) with
      | .error m => .error m
      | .ok l => .ok (⟨die, n, o⟩ :: l)

/-- The transient resources that a pass of the die's span writes, ascending (R413). -/
def dieRings (ps : List Pass) (rs : List Resource) (dies : List Nat) (die : Nat) : List Nat :=
  let rows := spanRows ps rs dies (dieIndex dies die)
  (List.range rs.length).filter (fun n => (resAt rs n).kind == 2 &&
    (match writerOf ps n with
     | some w => !(rows.getD w [] == [])
     | none => false))

/-- The partition's slices of a die with their mapped scratchpad, ascending (R413, R97). -/
def State.ringSlices (s : State) (fn die : Nat) : List (Nat × Nat) :=
  ((List.range 24).filter (fun k => s.inPartition fn (quadOfSlice die k))).map (fun k => (k, (s.wayp die k).mapped))

/-- The layer bytes of a die that rings of bound playbills hold. -/
def State.ringsTaken (s : State) (die : Nat) : List (Nat × Nat) :=
  s.books.flatMap (fun b => (b.2.rings.filter (fun r => r.die == die)).map (fun r =>
    (r.off, r.off + (resAt b.2.resources r.res).depth * (resAt b.2.resources r.res).tileBytes)))

/-- Rings on every die, in ascending die order; the die and the resource of the first that does not fit. -/
def State.ringsFor (s : State) (fn : Nat) (ps : List Pass) (rs : List Resource) (dies : List Nat) (others : Bool) :
    List Nat → Except (Nat × Nat) (List Ring)
  | [] => .ok []
  | d :: r =>
    match placeRings rs d (s.ringSlices fn d) (dieRings ps rs dies d) (if others then s.ringsTaken d else []) with
    | .error n => .error (d, n)
    | .ok a =>
      match State.ringsFor s fn ps rs dies others r with
      | .error e => .error e
      | .ok b => .ok (a ++ b)

/-! ## The checks of R410 -/

/-- SPAN of a read entry of a resource (R409). -/
def ReadEntry.span (r : ReadEntry) (gx batch : Nat) : Nat :=
  let ext := if r.up then batch * 2 ^ r.sh - 1 else (batch - 1 + 2 ^ r.sh - 1) / 2 ^ r.sh
  ((r.dy1 - r.dy0).toNat + (if r.up then 2 ^ r.sh - 1 else 0)) * gx + (r.dx1 - r.dx0).toNat + ext

/-- The largest SPAN over the readers of a resource, with the lowest such pass (R409, R410). -/
def widest (rs : List Resource) (n : Nat) (ps : List Pass) : Nat × Nat :=
  (ps.zipIdx).foldl (fun (a : Nat × Nat) p =>
    p.1.reads.foldl (fun (a : Nat × Nat) r =>
      let x := r.span (resAt rs n).gx p.1.batch
      if r.res = n ∧ (a.2 = 0xFFFF ∨ a.1 < x) then (x, p.2) else a) a) (0, 0xFFFF)

/-- DMIN (R409). -/
def dmin (rs : List Resource) (ps : List Pass) (n : Nat) : Nat :=
  let bp := match writerOf ps n with
    | some w => (ps.map (fun p => p.batch)).getD w 1
    | none => 1
  if (resAt rs n).overflow then bp else bp + (widest rs n ps).1

/-- The first element that gives something. -/
def firstOf {α β : Type} (f : α → Option β) : List α → Option β
  | [] => none
  | x :: r =>
    match f x with
    | some y => some y
    | none => firstOf f r

/-- Check 5 of R410, pass by pass and then resource by resource (log 33). -/
def orderFault (rs : List Resource) (ps : List Pass) : Option Refuse :=
  let pass (e : Pass × Nat) : Option Refuse :=
    match firstOf (fun (r : ReadEntry) =>
        if (resAt rs r.res).kind = 0 then none
        else
          match writerOf ps r.res with
          | some w => if w < e.2 then none else some (Refuse.report 5 e.2 r.res 0 0)
          | none => some (Refuse.report 5 e.2 r.res 0 0)) e.1.reads with
    | some x => some x
    | none => firstOf (fun n =>
        if (resAt rs n).kind = 0 ∨ writerOf ps n ≠ some e.2 ∨ (resAt rs n).gx ≠ e.1.gx ∨ (resAt rs n).gy ≠ e.1.gy then
          some (Refuse.report 5 e.2 n 0 0) else none) e.1.writes
  match firstOf pass ps.zipIdx with
  | some x => some x
  | none => firstOf (fun (e : Resource × Nat) =>
      if e.1.kind ≠ 0 ∧ writerOf ps e.2 = none then some (Refuse.report 5 0xFFFF e.2 0 0) else none) rs.zipIdx

/-- Check 6 of R410. -/
def depthFault (rs : List Resource) (ps : List Pass) : Option Refuse :=
  firstOf (fun (e : Resource × Nat) =>
    if e.1.kind = 2 ∧ e.1.depth < dmin rs ps e.2 then some (Refuse.report 6 (widest rs e.2 ps).2 e.2 (dmin rs ps e.2) e.1.depth)
    else none) rs.zipIdx

/-- Check 7 of R410. HAVE is that of the largest slice of the die, whosever it is (DEDUCED, log 38). -/
def State.ringFault (s : State) (fn : Nat) (ps : List Pass) (rs : List Resource) (dies : List Nat) : Option Refuse :=
  match s.ringsFor fn ps rs dies false dies with
  | .ok _ => none
  | .error (d, n) =>
    let r := resAt rs n
    some (Refuse.report 7 ((writerOf ps n).getD 0xFFFF) n ((r.depth * r.tileBytes + 1023) / 1024)
      (1024 * ((List.range 24).map (fun k => (s.wayp d k).mapped)).foldl max 0))

/-- Check 8 of R410. -/
def entryFault (ps : List Pass) (rs : List Resource) (dies : List Nat) : Option Refuse :=
  firstOf (fun d =>
    let n := (dieCues ps rs dies d).length
    if 65536 < n then some (Refuse.report 8 0xFFFF 0xFFFF n 65536) else none) dies

/-- A check that refuses, or nothing. -/
@[inline] def refusing {α : Type} (x : Option Refuse) (s : State) (k : Parsed α) : Parsed α :=
  match x with
  | some e => .no s e
  | none => k

/-- The header's values (R405). -/
def billHeaderOk (h : List Byte) : Bool :=
  leField h 0 4 == 0x4C424C50 && leField h 4 2 == 1 && decide (1 ≤ leField h 6 2 ∧ leField h 6 2 ≤ 256) &&
    decide (1 ≤ leField h 8 2 ∧ leField h 8 2 ≤ 1024) && leField h 0x0A 6 == 0 && leField h 0x10 8 % 64 == 0 &&
    leField h 0x18 8 % 64 == 0 && leField h 0x20 8 % 64 == 0 && leField h 0x38 8 == 0

/-- A pass with its launch record and image (R406, R410 code 4 and the late part of code 3). -/
def loadPass (rd : Reader) (keyAddr : Nat) (seed : Nat) (s : State) (e : PassRec × Nat) : Parsed Pass :=
  match readLaunch rd keyAddr (.named e.1.image) s e.1.launch with
  | .wait s1 => .wait s1
  | .no s1 _ => .no s1 (.report 4 e.2 0xFFFF 0 0)
  | .ok s1 lr =>
    match e.1.resolved lr.image with
    | none => .no s1 (.report 3 e.2 0xFFFF 0 0)
    | some reads => .ok s1 ⟨{ lr with seed := BitVec.ofNat 128 (seed + e.2) }, e.1.gx, e.1.gy, e.1.batch, reads, e.1.writes⟩

/-- A PLAYBILL read and checked after its header (R410). Only the launch records and images of its passes refuse with code 4
where they cannot be read; any other failure is a cause (R421). -/
def readBill (rd : Reader) (keyAddr fn : Nat) (dies : List Nat) (h : List Byte) (s : State) : Parsed (List Pass × List Resource) :=
  require (billHeaderOk h) (.report 1 0xFFFF 0xFFFF 0 0) s <|
  let nres := leField h 8 2
  let seed := leField h 0x28 16
  (parseEach (fun s n => (readAs rd 0 s ((leField h 0x18 8 + 64 * n) % 2 ^ 64) 64).andThen fun s b =>
    match resourceOf b with
    | some r => .ok s r
    | none => .no s (.report 2 0xFFFF n 0 0)) (List.range nres) s).andThen fun s rs =>
  (parseEach (fun s p => (readAs rd 0 s ((leField h 0x10 8 + 128 * p) % 2 ^ 64) 128).andThen fun s b =>
    match passRecOf nres b with
    | some r => .ok s r
    | none => .no s (.report 3 p 0xFFFF 0 0)) (List.range (leField h 6 2)) s).andThen fun s recs =>
  (parseEach (loadPass rd keyAddr seed) recs.zipIdx s).andThen fun s ps =>
  refusing (orderFault rs ps) s <|
  refusing (depthFault rs ps) s <|
  refusing (s.ringFault fn ps rs dies) s <|
  refusing (entryFault ps rs dies) s <|
  .ok s (ps, rs)

end Sys2Proof.Machine
end

