-- ==== Sys2Proof/Machine/Graph.lean ====
section
/-! DEFINITION. The cue board (R415 to R419), the graph instructions (R421 to R428) and the end of a run and of a grid. -/

namespace Sys2Proof.Machine

/-! ## Stores of the graph front as a group's stores -/

/-- Bytes stored at a global address as one store of a group (R421): nothing is stored unless all can be. -/
def State.groupWrite (s : State) (gid : Nat) (o : Owner) (op seq : Nat) (pc : W64) (a : Nat) (b : List Byte) : UnitEnd :=
  let ps := cutAt 64 (b.length / 64 + 2) a b.length
  let ws : List (Req × List Byte) := ps.map (fun p => (⟨0, .glob, p.1, p.2⟩, (b.drop (p.1 - a)).take p.2))
  let qs := ws.map (fun w => w.1)
  match s.groups.get? gid with
  | none => .wait s
  | some g =>
    if !rangeOk a b.length then .fail s 0x04 false (BitVec.ofNat 64 a)
    else
      let s1 := s.ask o g .write qs
      match s1.standing o, s1.teams.get? g.team with
      | .waiting, _ => .wait s1
      | .refused c x, some t => .fail (s1.dropWaits o) c x (addrOf (s1.refusedRecs o t qs))
      | _, none => .wait s1
      | .ready, some t =>
        match s1.fillAll g o (qs.filterMap t.fillOf) with
        | (s2, .wait, _) => .wait s2
        | (s2, .fails c, _) => .fail (s2.dropWaits o) c false (BitVec.ofNat 64 a)
        | (s2, .bytes _, _) =>
          match s2.teams.get? g.team, s2.groups.get? gid with
          | some t2, some g2 =>
            if !(qs.all (fun q => !(t2.placeCheck q true false))) then .fail (s2.dropWaits o) 0x07 false (BitVec.ofNat 64 a)
            else
              (match s2.writeRefused g2 t2 o .write qs with
               | f :: _ => .fail (s2.dropWaits o) f.2 false (BitVec.ofNat 64 f.1.a)
               | [] =>
                 if 64 < g2.sbuf.length + t2.linesNeeded ws ∨ 255 ≤ g2.sts then .wait s2
                 else
                   let (s3, n) := s2.storeBytes gid g2 t2 o op seq pc ws
                   let s4 := s3.dropWaits o
                   .moved (if n = 0 then s4 else { s4 with groups := s4.groups.modify gid (fun g => g.countUp .sts) }))
          | _, _ => .wait s2

/-! ## pbind -/

/-- The destination of a pbind. -/
def pbindDst (i : Instr) : Option Nat :=
  match i with
  | .pbind d _ _ => some d.toNat
  | _ => none

/-- A blocking instruction completes: its result is written and its entry leaves. -/
def State.endBlocking (s : State) (gid : Nat) (e : Entry) (d x : Nat) : State :=
  let s1 := (s.dropWaits (e.owner gid)).dropWaits (.out gid e.id)
  { s1 with groups := s1.groups.modify gid (fun g => (g.writeS d (BitVec.ofNat 64 x)).retire e) }

/-- PBIND (R421): the check of its operand, then the playbill is asked for; the group issues nothing further until it ends. -/
def execPbind (d a : BitVec 7) (gd : Guard) (s : State) : Result :=
  uniOp (.ext (.pbind d a gd) gd) [a.toNat] [d.toNat] s fun c =>
    let addr := (c.g.readS a.toNat).toNat
    if !(addr % 64 == 0) then c.trap s 0x03 []
    else if !canonical addr then c.trap s 0x04 []
    else if c.g.unsettled then s.hold
    else
      let e : Entry := { Entry.blank c.i c.words c.pc c.run s.nextId with uops := [0, BitVec.ofNat 64 addr, 0, 0], dsts := [sKey d.toNat] }
      let g1 : Group := { (c.advance c.g) with entries := c.g.entries ++ [e] }
      .next ((({ s with nextId := s.nextId + 1 } : State).setGroup c.gid g1).push (.loadLanding c.gid e.id))

/-- RINGFLOOR of every slice of a die from the rings that bound playbills hold there (R413, R97). -/
def State.refloor (s : State) (die : Nat) : State :=
  let used := s.ringsTaken die
  (List.range 24).foldl (fun s k =>
    let ends := (used.filter (fun u => decide (u.1 / 2 ^ 24 = k))).map (fun u => u.2 - k * 2 ^ 24)
    let w := s.wayp die k
    let f := (ends.foldl max 0 + 2 ^ 20 - 1) / 2 ^ 20
    if w.ringFloor = f then s else { s with waypart := s.waypart.set (die * 24 + k) { w with ringFloor := f } }) s

def State.refloorAll (s : State) : State := (List.range 4).foldl (fun s d => s.refloor d) s

/-- The key of a handle of a function's partition in State.books. -/
def bookKey (fn handle : Nat) : Nat := fn * 8 + handle

/-- The lowest free handle of a partition (R421). -/
def State.freeHandle (s : State) (fn : Nat) : Option Nat := (List.range 8).find? (fun h => (s.books.get? (bookKey fn h)).isNone)

/-- A checked playbill bound, if a handle, the rings and the entries are free (R421): the value of s[D]. -/
def State.bind (s : State) (fn ctx : Nat) (dies : List Nat) (seed : Nat) (ps : List Pass) (rs : List Resource) : State × Nat :=
  let cues := dies.map (fun d => (d, dieCues ps rs dies d))
  match s.freeHandle fn, s.ringsFor fn ps rs dies true dies with
  | some h, .ok rings =>
    if cues.any (fun c => decide (65536 < s.cuesUsed c.1 + c.2.length)) then (s, 2)
    else
      let pb : Playbill := ⟨ctx, h, ps, rs, BitVec.ofNat 128 seed, dies, rings, false, 0, 0, cues.flatMap (fun c => c.2), 0, 0, [], []⟩
      ((s.setBook (bookKey fn h) pb).refloorAll, 256 * h)
  | _, _ => (s, 2)

/-- A rejection report (R410). -/
def reportBytes (code pass res need have_ : Nat) : List Byte :=
  toBytes code 4 ++ toBytes pass 2 ++ toBytes res 2 ++ toBytes need 4 ++ toBytes have_ 4 ++ List.replicate 48 0

/-- pbind performed (R421, R410): from its start whenever it has waited. -/
def State.performBind (s : State) (gid : Nat) (g : Group) (e : Entry) : State :=
  let o := e.owner gid
  let fn := s.fnOf g
  let key := match s.ctxs.get? g.ctx with
    | some c => c.traps.keyAddr
    | none => 0
  let again (s : State) : State := s.waitEntry gid e (.loadLanding gid e.id)
  let fails (s : State) (c : Nat) (x : Bool) (a : W64) : State := ((s.dropWaits o).dropWaits (.out gid e.id)).failEntryAt gid e c x [] a
  let dies := s.diesOf fn
  match pbindDst e.instr, readAs (groupRead o gid) 0 s (e.uops.getD 1 0).toNat 64 with
  | none, _ => s
  | some _, .wait s1 => again s1
  | some _, .no s1 (.cause c x) => fails s1 c x 0
  | some _, .no s1 (.report _ _ _ _ _) => s1
  | some d, .ok s1 h =>
    match readBill (groupRead o gid) key fn dies h s1 with
    | .wait s2 => again s2
    | .no s2 (.cause c x) => fails s2 c x 0
    | .no s2 (.report code p r n v) =>
      (match s2.groupWrite gid (.out gid e.id) e.id e.seq e.pc (leField h 0x20 8) (reportBytes code p r n v) with
       | .wait s3 => again s3
       | .fail s3 c x a => fails s3 c x a
       | .moved s3 => s3.endBlocking gid e d 1)
    | .ok s2 (ps, rs) =>
      let (s3, x) := s2.bind fn g.ctx dies (leField h 0x28 16) ps rs
      s3.endBlocking gid e d x

/-! ## The cue board -/

/-- The first tile of the team that holds a tile of a pass (R401). -/
def Pass.firstOf (p : Pass) (tile : Nat) : Nat := tile - tile % p.gx % p.batch

/-- The stencil's entries of the team that holds a tile of a pass on a die. -/
def Playbill.keysOf (pb : Playbill) (die pass tile : Nat) : List (Bool × Nat × Nat) :=
  match pb.passes[pass]? with
  | none => []
  | some p => stencilKeys pb.passes pb.resources pb.dies die p (p.firstOf tile)

/-- An entry's key. -/
def Cue.key (c : Cue) : Bool × Nat × Nat := (c.far, c.pass, c.tile)

/-- PEND of a waiting entry after some entries of its die have retired (R418 step 2). -/
def Cue.advance (pb : Playbill) (die : Nat) (done : List (Bool × Nat × Nat)) (c : Cue) : Cue :=
  if c.die = die ∧ !c.far ∧ c.state = .wait then
    let n := c.pend - ((pb.keysOf die c.pass c.tile).filter (fun k => done.contains k)).length
    { c with pend := n, state := if n = 0 then .ready else .wait }
  else c

/-- Entries of a die that have retired become DONE, or FREE without readers, and what waits for them advances (R418). -/
def Playbill.retireKeys (pb : Playbill) (die : Nat) (keys : List (Bool × Nat × Nat)) : Playbill :=
  { pb with cues := pb.cues.map (fun c =>
      if c.die = die ∧ keys.contains c.key = true then { c with state := if c.readers = 0 then .free else .done }
      else c.advance pb die keys) }

/-- READERS lowered in each entry that holds a tile of a stencil (R418 step 3). -/
def Playbill.dropReaders (pb : Playbill) (die : Nat) (keys : List (Bool × Nat × Nat)) : Playbill :=
  pb.mapCues (fun c => c.die == die && keys.contains c.key) (fun c =>
    { c with readers := c.readers - 1, state := if c.readers ≤ 1 ∧ c.state = .done then .free else c.state })

/-- The teams of a book on a die whose tiles are all READY and not granted are offered their slots (R416, R417). -/
def State.offerReady (s : State) (b die : Nat) : State :=
  match s.books.get? b with
  | none => s
  | some pb =>
    s.teams.foldl (fun s e =>
      match e.2.origin with
      | .tile b' p first _ =>
        let n := match pb.passes[p]? with
          | some x => x.batch
          | none => 0
        if b' = b ∧ e.2.die = die ∧ (List.range n).all (fun i =>
            pb.cues.any (fun c => isOwnCue die p [first + i] c && c.state == .ready && !c.granted)) = true then
          s.push (.ringSlotGrant e.1)
        else s
      | .grid => s
      | .task _ => s) s

/-- The persistent tiles that a run with DUP = 0 wrote are told to the dies that hold a far entry for them (R418 step 4). -/
def State.sendCues (s : State) (b : Nat) (pb : Playbill) (p die : Nat) (tiles : List Nat) : State :=
  let writes := match pb.passes[p]? with
    | some x => x.writes.filter (fun n => (resAt pb.resources n).kind == 1)
    | none => []
  (pb.cues.filter (fun c => c.far && !(c.die == die) && writes.contains c.pass && tiles.contains c.tile)).foldl (fun s c =>
    s.sendMsg ⟨die, c.die, .cue, .cueMessage c.die b c.pass c.tile⟩) s

/-- A context's work goes on: it is switched in and nothing holds it. -/
def State.ctxAwake (s : State) (ctx : Nat) : Bool :=
  match s.ctxs.get? ctx with
  | none => false
  | some c => c.state == .running && !(s.stops.any (fun e => decide (2 ≤ e.2.rung) && e.2.holds c.fn ctx 0))

/-- The state after the cue board of a die meets an uncorrectable entry of a book, if it holds one (R483): the context is stopped with cause
0x0B, and its run makes no progress (R419). -/
def State.cueFault (s : State) (b die : Nat) : Option State :=
  match s.books.get? b with
  | none => none
  | some pb =>
    if pb.cues.any (fun c => c.die == die && c.bad) then
      some (if s.ctxAwake pb.ctx then (s.countUncorr die).raiseUpper 2 0x0B 0 (s.ctxFn pb.ctx) pb.ctx 0 0 0 else s)
    else none

/-- A team's retire from its step 2 on (R418). -/
def State.retireTile (s : State) (tid : Nat) (t : Team) : State :=
  match t.origin, s.tileOf t with
  | .tile _ _ first dup, some (b, pb, p, tiles) =>
    let pb1 := pb.retireKeys t.die (tiles.map (fun i => (false, p, i)))
    let pb2 := pb1.dropReaders t.die (pb.keysOf t.die p first)
    let pb3 : Playbill := { pb2 with retired := pb2.retired + (if dup then 0 else tiles.length) }
    let s1 := s.setBook b pb3
    let s2 := if dup then s1 else s1.sendCues b pb3 p t.die tiles
    let s3 := s2.offerReady b t.die
    if t.state = .ended then ({ s3 with teams := s3.teams.erase tid } : State).leaveGrid tid t true
    else (s3.setTeam tid { t with retired := true }).push (.gridEnd t.grid)
  | _, _ => s

/-- A stop holds the team, or its context is not switched in (R460, R475). -/
def State.teamHeld (s : State) (tid : Nat) (t : Team) : Bool :=
  s.stops.any (fun e => e.2.holds (s.ctxFn t.ctx) t.ctx tid) ||
    (match s.ctxs.get? t.ctx with
     | some c => !(c.state == .running)
     | none => true)

/-- A retire waits for the team's bound samples and for the tasks that it spawned (R418, R321, R435). -/
def State.retireHeld (s : State) (t : Team) : Bool :=
  t.sol.samples.any (fun e => e.2.tile) ||
    (match s.grids.get? t.grid with
     | some g => t.children.any (fun k => match g.tasks.get? k with
       | some x => !(x.place == .retired)
       | none => false)
     | none => false)

/-- The release of a retire (R29): what the team's groups have written is performed. -/
def State.releaseTeam (s : State) (tid : Nat) : State × Bool :=
  (s.groupsOf tid).foldl (fun a gid =>
    let (s1, ok) := a.1.releaseNow gid none 4
    (s1, a.2 && ok)) (s, true)

/-- TILE_RETIRE (R418). -/
def execTileRetire (team : Nat) (s : State) : Result :=
  match s.teams.get? team with
  | none => .next s
  | some t =>
    if t.retired || !(t.retireAsked || t.state == .ended) || (s.tileOf t).isNone then .next s
    else if s.teamHeld team t || s.retireHeld t then .next (s.push (.tileRetire team))
    else
      match (s.tileOf t).bind (fun x => s.cueFault x.1 t.die), s.releaseTeam team with
      | some s1, _ => .next (s1.push (.tileRetire team))
      | none, (s1, false) => .next (s1.push (.tileRetire team))
      | none, (s1, true) =>
        match s1.teams.get? team with
        | none => .next s1
        | some t1 => .next (s1.retireTile team t1)

/-- CUE_MESSAGE_RECEIVE (R418): a far entry of a persistent tile that its writer's die has retired becomes DONE. res is the
resource. The message has come by the route of R17, and the messages of its channel that were sent before it are taken first (R515). -/
def execCueMessageReceive (die book res tile : Nat) (s : State) : Result :=
  let a : Act := .cueMessage die book res tile
  let mine (m : Msg) : Bool := m.dst == die && m.body == a
  match s.cueFault book die, takeArrived mine s.arrived with
  | _, none => .next (if s.arrived.any mine then s.push a else s)
  | some s1, some _ => .next (s1.push a)
  | none, some (_, rest) =>
    let s1 : State := { s with arrived := rest }
    match s.books.get? book with
    | none => .next s1
    | some pb => .next ((s1.setBook book (pb.retireKeys die [(true, res, tile)])).offerReady book die)

/-- The transient resources that a pass writes. -/
def Playbill.rings? (pb : Playbill) (p : Nat) : List Nat :=
  match pb.passes[p]? with
  | some x => x.writes.filter (fun n => (resAt pb.resources n).kind == 2)
  | none => []

/-- The tiles below one that use its slot, whose bytes are not yet free (R417). -/
def Playbill.occupants (pb : Playbill) (die p n tile : Nat) : List Cue :=
  let d := (resAt pb.resources n).depth
  pb.cues.filter (fun c => !c.far && c.die == die && c.pass == p && decide (c.tile < tile) && c.tile % d == tile % d &&
    !(c.state == .free) && !(pb.moved.contains (n, die, c.tile)))

/-- A reader of a tile has started (R417). -/
def Playbill.readStarted (pb : Playbill) (die p tile : Nat) : Bool :=
  pb.cues.any (fun c => !c.far && c.die == die && (c.state == .run || c.state == .done || c.state == .free) &&
    (pb.keysOf die c.pass c.tile).contains (false, p, tile))

/-- The team of a pass whose tiles take their slots next: its tiles, if all are READY (R417). -/
def Playbill.nextGrant (pb : Playbill) (die p : Nat) : List Nat :=
  match pb.passes[p]?, ((pb.cues.filter (fun c => !c.far && c.die == die && c.pass == p && !c.granted)).map (fun c => c.tile)).min? with
  | some x, some j =>
    let tiles := (List.range x.batch).map (fun i => x.firstOf j + i)
    if (pb.cues.filter (isOwnCue die p tiles)).all (fun c => c.state == .ready && !c.granted) then tiles else []
  | _, _ => []

/-- The tiles of a resource that overflows which hold the slots of the next team of its pass, with no reader started: they are copied out
(R417). -/
def Playbill.toCopy (pb : Playbill) (die p n : Nat) : List Nat :=
  if (resAt pb.resources n).overflow then
    (pb.nextGrant die p).flatMap (fun j =>
      ((pb.occupants die p n j).filter (fun c => c.state == .done && !(pb.readStarted die p c.tile))).map (fun c => c.tile))
  else []

/-- The tiles that are to be copied out for the next team of their pass: no reader of one starts before its copy (R417). -/
def Playbill.leaving (pb : Playbill) (die : Nat) : List (Bool × Nat × Nat) :=
  (List.range pb.passes.length).flatMap (fun p => (pb.rings? p).flatMap (fun n => (pb.toCopy die p n).map (fun j => (false, p, j))))

/-- RING_SLOT_GRANT (R417, R416): a READY team takes the slots of its tiles once every lower tile has been granted and the
slots are free, and enters its die's queue; where a resource overflows, the tile in the way is copied out first. -/
def execRingSlotGrant (team : Nat) (s : State) : Result :=
  match s.teams.get? team with
  | none => .next s
  | some t =>
    match t.origin, s.tileOf t with
    | .tile _ _ first _, some (b, pb, p, tiles) =>
      let own := pb.cues.filter (isOwnCue t.die p tiles)
      if !(own.all (fun c => c.state == .ready && !c.granted)) then .next s
      else if (s.cueFault b t.die).isSome then .next (((s.cueFault b t.die).getD s).push (.ringSlotGrant team))
      else
        let rings := pb.rings? p
        let lower := pb.cues.any (fun c => !c.far && c.die == t.die && c.pass == p && decide (c.tile < first) && !c.granted)
        let blocks := rings.flatMap (fun n => tiles.flatMap (fun j => (pb.occupants t.die p n j).map (fun c => (n, c))))
        let reads := pb.keysOf t.die p first
        if !(rings == []) && lower then .next (s.push (.ringSlotGrant team))
        else if (pb.leaving t.die).any (fun k => reads.contains k) then .next (s.push (.ringSlotGrant team))
        else if blocks = [] then
          .next ((s.setBook b (pb.mapCues (isOwnCue t.die p tiles) (fun c => { c with granted := true }))).enqueueTeam t.die team)
        else
          .next ((blocks.foldl (fun s x =>
            if (pb.toCopy t.die p x.1).contains x.2.tile then
              s.push (.overflowCopy b x.1 t.die x.2.tile) else s) s).push (.ringSlotGrant team))
    | _, _ => .next s

/-- Pieces written at translated places: the state, or none if one cannot be written now, or a cause. -/
def State.putPieces (s : State) (o : Owner) (die fn pasid : Nat) : List (Nat × List Byte) → Fetched Unit
  | [] => .ok s ()
  | (a, b) :: r =>
    match s.hpaOf o die 48 fn pasid a .write with
    | none => .wait s
    | some hpa =>
      match s.locAt die hpa with
      | .wait => .wait s
      | .fails c => .fail s c false
      | .at (.flash _) => .fail s 0x07 false
      | .at l => State.putPieces (s.writeAt l b) o die fn pasid r

/-- A write by Protrum or a cue board in a context's space, with the permissions of a write. -/
def State.frontWrite (s : State) (o : Owner) (die fn pasid a : Nat) (b : List Byte) : Fetched Unit :=
  if !rangeOk a b.length then .fail s 0x04 false
  else
    let ps := cutAt 4096 (b.length / 4096 + 2) a b.length
    let s1 := s.needPages o die 48 fn pasid .write (ps.map (fun p => pageOf p.1))
    match s1.standing o with
    | .refused c x => .fail (s1.dropWaits o) c x
    | .waiting => .wait s1
    | .ready =>
      match s1.putPieces o die fn pasid (ps.map (fun p => (p.1, (b.drop (p.1 - a)).take p.2))) with
      | .ok s2 _ => .ok (s2.dropWaits o) ()
      | .wait _ => .wait s1
      | .fail _ c x => .fail (s1.dropWaits o) c x

/-- A ring slot's layer place (R413). -/
def Playbill.slotOf (pb : Playbill) (die n tile : Nat) : Option Nat :=
  let r := resAt pb.resources n
  (pb.rings.find? (fun x => x.die == die && x.res == n)).map (fun x => x.off + tile % r.depth * r.tileBytes)

/-- OVERFLOW_COPY (R417, R30): where the ring is full, so that the next team needs the slot, a DONE tile that no reader has started on is copied
to the overflow area; a failure is raised at the context rung, and the copy is made again from its start. -/
def execOverflowCopy (book res die tile : Nat) (s : State) : Result :=
  match s.books.get? book with
  | none => .next s
  | some pb =>
    let r := resAt pb.resources res
    let o : Owner := .overflow book res tile
    match writerOf pb.passes res, pb.slotOf die res tile, s.ctxs.get? pb.ctx with
    | some p, some off, some c =>
      if !((pb.toCopy die p res).contains tile) then .next (s.dropWaits o)
      else if !(s.ctxAwake pb.ctx) then .next (s.push (.overflowCopy book res die tile))
      else
        let fails (s : State) (cause addr : Nat) : Result :=
          .next ((s.raiseUpper 2 cause 0 c.fn pb.ctx 0 0 (BitVec.ofNat 64 addr)).push (.overflowCopy book res die tile))
        let dst := (r.ovfBase + tile * r.tileBytes) % 2 ^ 64
        if s.poisoned (.layer die off) r.tileBytes then fails (s.countBad (.layer die off) r.tileBytes) 0x0B off
        else
          (match s.frontWrite o die c.fn c.pasid dst (s.bytesAt (.layer die off) r.tileBytes) with
           | .wait s1 => .next (s1.push (.overflowCopy book res die tile))
           | .fail s1 cause _ => fails s1 (if cause = 0x04 then 0x07 else cause) dst
           | .ok s1 _ => .next (s1.setBook book { pb with moved := (res, die, tile) :: pb.moved, copies := pb.copies + 1 }))
    | _, _, _ => .next s

/-! ## Runs -/

/-- The run in flight has ended (R423): every tile has retired, every entry is FREE, and every team of the run has exited. -/
def State.runOver (s : State) (pb : Playbill) : Bool :=
  pb.cues.all (fun c => c.state == .free) && !(s.teams.any (fun e => pb.grids.contains e.2.grid))

/-- The book of a handle that the context has bound (R421, R422; log 28). -/
def State.bookOf (s : State) (fn ctx : Nat) (h : W64) : Option (Nat × Playbill) :=
  if 8 ≤ h.toNat then none
  else
    match s.books.get? (bookKey fn h.toNat) with
    | some pb => if pb.ctx = ctx then some (bookKey fn h.toNat, pb) else none
    | none => none

/-- The groups that wait for the end of a book's run learn its count (R423). -/
def State.tellWaiters (s : State) (b count : Nat) : State :=
  { s with groups := s.groups.map (fun e => match e.2.wait with
      | .pwait d k => if k = b then (e.1, { e.2 with wait := .pwaited d count }) else e
      | _ => e) }

/-- A run that is over is closed: its grids end with it, and whoever waits for it learns its count. -/
def State.closeRun (s : State) (b : Nat) : State :=
  match s.books.get? b with
  | none => s
  | some pb =>
    if pb.running && s.runOver pb then
      (({ s with grids := s.grids.filter (fun g => !(pb.grids.contains g.1)) } : State).setBook b { pb with running := false, grids := [] }).tellWaiters
        b pb.retired
    else s

/-- The entries of a die at the start of a run (R415). -/
def runCues (pb : Playbill) (die : Nat) (teams : List SpanTeam) : List Cue :=
  (pb.cues.filter (fun c => c.die == die)).map (fun c =>
    let readers := (teams.filter (fun t => t.keys.contains c.key)).length
    if c.far then { c with state := .remote, pend := 0, readers := readers, granted := false }
    else
      let pend := (pb.keysOf die c.pass c.tile).length
      { c with state := if pend = 0 then .ready else .wait, pend := pend, readers := readers, granted := false })

/-- A RUN STARTED (R422, R401, R415, R447): a grid for each pass in ascending order, every team of the span made, the entries
set, and the teams that wait for nothing offered their slots. -/
def State.startRun (s : State) (b : Nat) (pb : Playbill) (arg : W64) : State :=
  let g0 := s.nextId
  let n := pb.passes.length
  let spans := pb.dies.map (fun d => (d, spanTeams pb.passes pb.resources pb.dies d))
  let all : List (Nat × SpanTeam) := spans.flatMap (fun x => x.2.map (fun t => (x.1, t)))
  let made := (all.zipIdx).filterMap (fun e =>
    (pb.passes[e.1.2.pass]?).map (fun p =>
      (g0 + n + e.2, newTeam pb.ctx (g0 + e.1.2.pass) (e.1.2.first / p.batch) (.tile b e.1.2.pass e.1.2.first e.1.2.dup) e.1.1 p.launch.image)))
  let grids := (pb.passes.zipIdx).map (fun p =>
    let ids := (made.filter (fun t => t.2.grid == g0 + p.2)).map (fun t => t.1)
    (g0 + p.2, (⟨pb.ctx, { p.1.launch with teams := ids.length }, some (b, p.2, arg), pb.dies.headD 0, p.1.launch.tent = 0, 0, false, none,
      0, [], [], ids, false⟩ : Grid)))
  let s1 : State := { s with
    nextId := g0 + n + all.length
    grids := grids.foldl (fun m g => m.set g.1 g.2) s.grids
    teams := made.foldl (fun m t => m.set t.1 t.2) s.teams }
  let s2 := s1.setBook b { pb with
    running := true, runs := pb.runs + 1, arg := arg, retired := 0, copies := 0, moved := []
    cues := spans.flatMap (fun x => runCues pb x.1 x.2), grids := grids.map (fun g => g.1) }
  pb.dies.foldl (fun s d => s.offerReady b d) s2

/-- PRUN (R422): without a run in flight a run starts at once, else the group waits. -/
def execPrun (d a b : BitVec 7) (gd : Guard) (s : State) : Result :=
  uniOp (.ext (.prun d a b gd) gd) [a.toNat, b.toNat] [d.toNat] s fun c =>
    match s.bookOf (s.fnOf c.g) c.g.ctx (c.g.readS a.toNat) with
    | none => c.trap s 0x04 []
    | some (k, _) =>
      let s1 := s.closeRun k
      match s1.books.get? k with
      | none => .next s1
      | some pb =>
        if pb.running then c.waitIn s1 (.prun d.toNat k (c.g.readS b.toNat)) (.prunStart c.gid)
        else c.done (s1.startRun k pb (c.g.readS b.toNat)) (c.g.writeS d.toNat (BitVec.ofNat 64 (pb.runs + 1)))

/-- PRUN_START (R422). A handle dropped meanwhile raises cause 0x04 when the prun is issued again. -/
def execPrunStart (gid : Nat) (s : State) : Result :=
  wake gid (.prunStart gid) s fun g =>
    match g.wait with
    | .prun d k arg =>
      let s1 := s.closeRun k
      (match s1.books.get? k with
       | none => .next (s1.setGroup gid { g with wait := .none })
       | some pb =>
         if pb.running then .next (s1.push (.prunStart gid))
         else .next ((s1.startRun k pb arg).setGroup gid (g.writeS d (BitVec.ofNat 64 (pb.runs + 1))).resume))
    | _ => .next s

/-- PWAIT (R423): with no run in flight it completes at once with the count of the last run. -/
def execPwait (d a : BitVec 7) (gd : Guard) (s : State) : Result :=
  uniOp (.ext (.pwait d a gd) gd) [a.toNat] [d.toNat] s fun c =>
    match s.bookOf (s.fnOf c.g) c.g.ctx (c.g.readS a.toNat) with
    | none => c.trap s 0x04 []
    | some (k, _) =>
      let s1 := s.closeRun k
      match s1.books.get? k with
      | none => .next s1
      | some pb =>
        if pb.running then c.waitIn s1 (.pwait d.toNat k) (.pwaitWake c.gid)
        else
          match s1.acquire c.gid none with
          | (s2, false) => s2.hold
          | (s2, true) => c.finish s2 (fun g => g.writeS d.toNat (BitVec.ofNat 64 pb.retired))

/-- PWAIT_WAKE (R423): the run that the group waited for has ended, and its count is written after the acquire. -/
def execPwaitWake (gid : Nat) (s : State) : Result :=
  wake gid (.pwaitWake gid) s fun g =>
    match g.wait with
    | .pwait _ k => .next ((s.closeRun k).push (.pwaitWake gid))
    | .pwaited d n => endWait gid (.pwaitWake gid) s (fun g => g.writeS d (BitVec.ofNat 64 n))
    | _ => .next s

/-- The bytes of a ring discarded: they read as bytes that nothing has written (log 87). -/
def State.dropRing (s : State) (rs : List Resource) (r : Ring) : State :=
  let n := (resAt rs r.res).depth * (resAt rs r.res).tileBytes
  { s with layer := s.layer.clear (layerKey r.die r.off) n, layerBad := clearBad s.layerBad 8 (layerKey r.die r.off) n }

/-- A playbill unbound (R424): its entries freed, its rings and their contents discarded, RINGFLOOR lowered. -/
def State.unbind (s : State) (k : Nat) : State :=
  match s.books.get? k with
  | none => s
  | some pb => (pb.rings.foldl (fun s r => s.dropRing pb.resources r) ({ s with books := s.books.erase k } : State)).refloorAll

/-- PDROP (R424): a handle that is not bound is left as it is. -/
def execPdrop (a : BitVec 7) (gd : Guard) (s : State) : Result :=
  uniOp (.ext (.pdrop a gd) gd) [a.toNat] [] s fun c =>
    match s.bookOf (s.fnOf c.g) c.g.ctx (c.g.readS a.toNat) with
    | none => c.skip s
    | some (k, _) =>
      let s1 := s.closeRun k
      match s1.books.get? k with
      | none => .next s1
      | some pb => if pb.running then c.waitIn s1 (.pdrop k) (.pdropUnbind c.gid) else c.skip (s1.unbind k)

/-- PDROP_UNBIND (R424). -/
def execPdropUnbind (gid : Nat) (s : State) : Result :=
  wake gid (.pdropUnbind gid) s fun g =>
    match g.wait with
    | .pdrop k =>
      let s1 := s.closeRun k
      (match s1.books.get? k with
       | none => .next (s1.setGroup gid g.resume)
       | some pb => if pb.running then .next (s1.push (.pdropUnbind gid)) else .next ((s1.unbind k).setGroup gid g.resume))
    | _ => .next s

/-- GQUERY (R425). -/
def execGquery (d a : BitVec 7) (kind : BitVec 4) (gd : Guard) (s : State) : Result :=
  uniOp (.ext (.gquery d a kind gd) gd) [a.toNat] [d.toNat] s fun c =>
    let bk := s.bookOf (s.fnOf c.g) c.g.ctx (c.g.readS a.toNat)
    let x : Nat :=
      match kind.toNat, bk with
      | 0, _ => 65536 - s.cuesUsed c.g.die
      | 1, none => 0
      | 1, some (_, pb) => if pb.running && !(s.runOver pb) then 2 else 1
      | _, none => 0
      | _, some (_, pb) => pb.copies
    c.done s (c.g.writeS d.toNat (BitVec.ofNat 64 x))

/-! ## Inside a tile or task -/

/-- The task of a team, if it was launched for one. -/
def State.taskOf (s : State) (t : Team) : Option (Nat × Task) :=
  match t.origin with
  | .task id =>
    (match s.grids.get? t.grid with
     | some g => (g.tasks.get? id).map (fun x => (id, x))
     | none => none)
  | .grid => none
  | .tile _ _ _ _ => none

/-- The value of tilecur (R426). -/
def State.tileWord (s : State) (t : Team) : Nat :=
  match t.origin, s.tileOf t with
  | .tile _ _ first dup, some (_, pb, p, tiles) =>
    (match pb.passes[p]? with
     | some x => 2 ^ 41 * tiles.length + (if dup then 2 ^ 40 else 0) + 2 ^ 32 * p + 2 ^ 16 * (first / x.gx) + first % x.gx
     | none => 0)
  | .task id, _ => 2 ^ 63 + id % 2 ^ 63
  | _, _ => 0

/-- tilecur (R426). -/
def opTilecur (u : UCtx) (d : BitVec 7) (s : State) : Result :=
  uniOp u [] [d.toNat] s fun c =>
    match s.teams.get? c.g.team with
    | none => .fault .noIssuingGroup
    | some t => c.done s (c.g.writeS d.toNat (BitVec.ofNat 64 (s.tileWord t)))

/-- TILECUR (R426). -/
def execTilecur (d : BitVec 7) (s : State) : Result := opTilecur (.short (.tilecur d)) d s

/-- The value of tinfo (R426). -/
def State.tileInfo (s : State) (t : Team) : W64 :=
  match s.taskOf t with
  | some (_, x) => x.arg
  | none =>
    match s.grids.get? t.grid with
    | some g =>
      (match g.pass with
       | some (_, _, arg) => arg
       | none => 0)
    | none => 0

/-- tinfo (R426). -/
def opTinfo (u : UCtx) (d : BitVec 7) (s : State) : Result :=
  uniOp u [] [d.toNat] s fun c =>
    match s.teams.get? c.g.team with
    | none => .fault .noIssuingGroup
    | some t => c.done s (c.g.writeS d.toNat (s.tileInfo t))

/-- TINFO (R426). -/
def execTinfo (d : BitVec 7) (s : State) : Result := opTinfo (.short (.tinfo d)) d s

/-- The act that performs a team's retire. -/
def Origin.retireAct (o : Origin) (tid : Nat) : Option Act :=
  match o with
  | .grid => none
  | .tile _ _ _ _ => some (.tileRetire tid)
  | .task _ => some (.taskRetire tid)

/-- tileret (R427): asks once for the team's retire; its release waits for the group's earlier reads (R342). -/
def opTileret (u : UCtx) (s : State) : Result :=
  uniOp u [] [] s fun c =>
    match s.teams.get? c.g.team with
    | none => .fault .noIssuingGroup
    | some t =>
      match t.origin.retireAct c.g.team with
      | none => c.skip s
      | some a =>
        if t.retireAsked || t.retired then c.skip s
        else if c.g.unsettled then s.hold
        else c.done ((s.setTeam c.g.team { t with retireAsked := true }).push a) c.g

/-- TILERET (R427). -/
def execTileret (s : State) : Result := opTileret (.short .tileret) s

/-- The address and the space of a tile of a playbill (R402, R413, R417). -/
def Playbill.tileAddr (pb : Playbill) (die n tile : Nat) : Nat × Nat :=
  let r := resAt pb.resources n
  if r.kind < 2 then ((r.base + tile * r.tileBytes) % 2 ^ 64, 0)
  else if pb.moved.contains (n, die, tile) then ((r.ovfBase + tile * r.tileBytes) % 2 ^ 64, 0)
  else ((pb.slotOf die n tile).getD 0, 1)

/-- taddr in MODE 0 (R428): none raises cause 0x04. -/
def State.taddrTile (s : State) (t : Team) (x : Nat) : Option (Nat × Nat) :=
  match t.origin, s.tileOf t with
  | .tile _ _ first _, some (_, pb, p, tiles) =>
    let n := bits x 9 0
    let r := resAt pb.resources n
    let tile := bits x 47 32 * r.gx + bits x 31 16
    (match pb.passes[p]? with
     | none => none
     | some ps =>
       let own := ps.writes.contains n && tiles.contains tile
       let seen := (ps.stencil pb.resources first).contains (n, tile)
       if bits x 15 10 = 0 ∧ bits x 63 48 = 0 ∧ n < pb.resources.length ∧ bits x 31 16 < r.gx ∧ bits x 47 32 < r.gy ∧ (own || seen) then
         some (pb.tileAddr t.die n tile)
       else none)
  | _, _ => none

/-- The address of a version of a task's tile (R429). -/
def versionAddr (nver vstride : Nat) (tile version : Nat) : Nat := (tile + version % nver * vstride) % 2 ^ 64

/-- taddr in MODE 1 (R428, R429): none raises cause 0x04. A read tile's copies are its entry's. -/
def State.taddrTask (s : State) (t : Team) (n : Nat) : Option (Nat × Nat) :=
  match s.taskOf t, s.grids.get? t.grid with
  | some (_, x), some g =>
    if n < 8 then
      (x.reads[n]?).map (fun r =>
        let e := g.tiles.getD r.1 ⟨0, x.nver, x.vstride, [], []⟩
        (versionAddr e.nver e.vstride r.1 r.2, 0))
    else (x.writes[n - 8]?).map (fun w => (versionAddr x.nver x.vstride w.1 w.2, 0))
  | _, _ => none

/-- TADDR (R428). -/
def execTaddr (d a : BitVec 7) (mode : Bool) (entry : BitVec 4) (gd : Guard) (s : State) : Result :=
  uniOp (.ext (.taddr d a mode entry gd) gd) (if mode then [] else [a.toNat]) [d.toNat, d.toNat + 1] s fun c =>
    match s.teams.get? c.g.team with
    | none => .fault .noIssuingGroup
    | some t =>
      match (if mode then s.taddrTask t entry.toNat else s.taddrTile t (c.g.readS a.toNat).toNat) with
      | none => c.trap s 0x04 []
      | some (x, sp) => c.done s ((c.g.writeS d.toNat (BitVec.ofNat 64 x)).writeS (d.toNat + 1) (BitVec.ofNat 64 sp))

/-! ## The end of a grid -/

/-- Every task of a grid has retired (R435). -/
def Grid.tasksRetired (g : Grid) : Bool := g.tasks.all (fun e => e.2.place == .retired)

/-- GRID_END (R512): every team has exited and every task has retired; the grid's writes are performed by the groups' own
releases, its entries are freed, and its LAUNCH completes. A pass's grid ends with its run (R423). -/
def execGridEnd (grid : Nat) (s : State) : Result :=
  match s.grids.get? grid with
  | none => .next s
  | some g =>
    match g.pass with
    | some (b, _, _) => .next (s.closeRun b)
    | none =>
      if !(g.liveTeams == []) || (g.exited < g.launch.teams && !g.aborted) || !g.tasksRetired then .next s
      else
        let s1 : State := { s with grids := s.grids.erase grid }
        match g.cmd with
        | none => .next s1
        | some (fn, tag) =>
          .next (s1.complete fn tag (if g.aborted then 0x19 else 0) g.ctx (if g.aborted then g.exited else g.launch.teams))

end Sys2Proof.Machine
end

