-- ==== Sys2Proof/Machine/Tasks.lean ====
section
/-! DEFINITION. Tasks: spawning, waiting, stealing, launching and retiring (R429 to R437), and parking a team out (R450). -/

namespace Sys2Proof.Machine

/-! ## Records and registration -/

/-- A task record (R429). -/
structure TaskRec where
  bytes : List Byte
  image : Nat
  arg : W64
  nver : Nat
  vstride : Nat
  reads : List Nat
  writes : List Nat
  deriving DecidableEq, Repr

/-- A record's fields checked by R429; none fails check 3 of R432. -/
def taskRecOf (b : List Byte) : Option TaskRec :=
  let nr := leField b 0x10 1
  let nw := leField b 0x11 1
  let nver := leField b 0x12 1
  let vs := leField b 0x14 4
  let rd := (List.range 8).map (fun k => leField b (0x20 + 8 * k) 8)
  let wr := (List.range 4).map (fun k => leField b (0x60 + 8 * k) 8)
  let ok (l : List Nat) (n : Nat) : Bool := (l.take n).all (fun a => canonical a && a % 256 == 0) && (l.drop n).all (fun a => a == 0) &&
    decide ((l.take n).Nodup)
  if nr ≤ 8 ∧ nw ≤ 4 ∧ 1 ≤ nver ∧ nver ≤ 4 ∧ leField b 0x13 1 = 0 ∧ vs % 256 = 0 ∧ leField b 0x18 8 = 0 ∧ ok rd nr = true ∧ ok wr nw = true then
    some ⟨b, leField b 0 8, BitVec.ofNat 64 (leField b 8 8), nver, vs, rd.take nr, wr.take nw⟩
  else none

/-- The distinct tiles that a record names. -/
def TaskRec.tiles (r : TaskRec) : List Nat := (r.reads ++ r.writes).eraseDups

/-- The checks of R432 on a grid's entries: a cause, or nothing. -/
def Grid.spawnFault (g : Grid) (r : TaskRec) : Option Nat :=
  if r.tiles.any (fun t => match g.tiles.get? t with
      | some e => !(e.nver == r.nver && e.vstride == r.vstride)
      | none => false) then some 0x02
  else if g.launch.tent < g.tiles.length + (r.tiles.filter (fun t => (g.tiles.get? t).isNone)).length then some 0x04
  else none

/-- A tile's entry, as the first registration that names it makes it (R430). -/
def Grid.tileEntry (g : Grid) (r : TaskRec) (t : Nat) : TileEntry := g.tiles.getD t ⟨0, r.nver, r.vstride, [], []⟩

/-- The writer of a version of a tile. -/
def TileEntry.writerOf (e : TileEntry) (v : Nat) : List Nat := (e.writers.filter (fun w => w.1 == v)).map (fun w => w.2)

/-- A read tile registered (R431): the version read, and the tasks waited for. -/
def registerRead (r : TaskRec) (id : Nat) (a : Grid × List (Nat × Nat) × List Nat) (t : Nat) : Grid × List (Nat × Nat) × List Nat :=
  let e := a.1.tileEntry r t
  ({ a.1 with tiles := a.1.tiles.set t { e with readers := e.readers ++ [(e.ver, id)] } }, a.2.1 ++ [(t, e.ver)], a.2.2 ++ e.writerOf e.ver)

/-- A write tile registered (R431): the version written, and the tasks waited for. A task does not wait for itself. -/
def registerWrite (r : TaskRec) (id : Nat) (a : Grid × List (Nat × Nat) × List Nat) (t : Nat) : Grid × List (Nat × Nat) × List Nat :=
  let e := a.1.tileEntry r t
  let v := e.ver + 1
  let old := if r.nver ≤ v then (e.readers.filter (fun x => x.1 == v - r.nver && !(x.2 == id))).map (fun x => x.2) else []
  ({ a.1 with tiles := a.1.tiles.set t { e with ver := v, writers := e.writers ++ [(v, id)] } }, a.2.1 ++ [(t, v)],
    a.2.2 ++ e.writerOf (v - 1) ++ old)

/-- REGISTRATION of a task (R431): reads before writes. -/
def Grid.register (g : Grid) (r : TaskRec) (place : TaskPlace) (team : Nat) : Grid × Nat :=
  let id := g.nextTask + 1
  let (g1, reads, w1) := r.reads.foldl (registerRead r id) (g, [], [])
  let (g2, writes, w2) := r.writes.foldl (registerWrite r id) (g1, [], [])
  ({ g2 with
      nextTask := id
      tasks := g2.tasks.set id ⟨r.bytes, r.image, r.arg, r.nver, r.vstride, reads, writes, (w1 ++ w2).eraseDups, place, false, team, 0⟩ }, id)

/-- A task waits for nothing more (R431). -/
def Grid.taskReady (g : Grid) (id : Nat) : Bool :=
  match g.tasks.get? id with
  | some t => t.waits.all g.retiredTask
  | none => false

/-! ## Deques and overflow rings (R433, R434) -/

/-- A core's module-wide number (R436). -/
def coreNumber (die core : Nat) : Nat := die * 48 + core

def State.dequeAt (s : State) (n : Nat) : List (Nat × Nat) := s.deques.getD n []

/-- A core's deque has room for one more record (R433). -/
def State.dequeRoom (s : State) (n : Nat) : Bool := decide ((s.dequeAt n).length < 64) && decide (128 ≤ s.freeMem (n / 48) (n % 48))

/-- A task changed. -/
def State.modTask (s : State) (grid task : Nat) (f : Task → Task) : State :=
  { s with grids := s.grids.modify grid (fun g => { g with tasks := g.tasks.modify task f }) }

/-- A task's place changed: it is no fused launch there (R434). -/
def State.setPlace (s : State) (grid task : Nat) (p : TaskPlace) : State := s.modTask grid task (fun t => { t with place := p, fused := false })

/-- The address of a slot of an overflow ring (R433, R510). -/
def Ctx.slotAddr (c : Ctx) (slot : Nat) : Nat := (c.ringBase + 128 * (slot % c.ringSize)) % 2 ^ 64

/-- The tail's slot of an overflow ring still holds a record: the ring is full (R433, R434). -/
def Ctx.ringFull (c : Ctx) : Bool := c.ring.any (fun e => e.1 % c.ringSize == c.ringTail % c.ringSize)

/-- A record put at the tail of its context's overflow ring (R433). written: its bytes stand in the slot, their one home from now on (R33);
otherwise the device still has them on their way (log 29). -/
def State.ringPut (s : State) (ctx grid task : Nat) (written : Bool) : State :=
  match s.ctxs.get? ctx with
  | none => s
  | some c =>
    ((s.setCtx ctx { c with ring := c.ring ++ [(c.ringTail, grid, task)], ringTail := c.ringTail + 1 }).setPlace grid task .ring).modTask grid task
      (fun t => { t with record := if written then [] else t.record })

/-- A record moved to the tail of its overflow ring by the device; its bytes are written if its slot is free and they can be written at once
(log 29). -/
def State.moveToRing (s : State) (grid task : Nat) : State :=
  match s.grids.get? grid with
  | none => s
  | some g =>
    match s.ctxs.get? g.ctx, g.tasks.get? task with
    | some c, some t =>
      if c.ringFull then s.ringPut g.ctx grid task false
      else
      match s.frontWrite (.launch grid task) 0 c.fn c.pasid (c.slotAddr c.ringTail) t.record with
      | .ok s1 _ => s1.ringPut g.ctx grid task true
      | .wait _ => s.ringPut g.ctx grid task false
      | .fail _ _ _ => s.ringPut g.ctx grid task false
    | _, _ => s

/-- The deque records of some cores moved to the overflow rings, oldest first, and requests at their mailboxes discarded (R434,
R436, R458 step 3). which selects the contexts concerned. -/
def State.spillDeques (s : State) (cores : List Nat) (which : Nat → Bool) : State :=
  cores.foldl (fun s n =>
    let mine (e : Nat × Nat) : Bool := match s.grids.get? e.1 with
      | some g => which g.ctx
      | none => true
    let l := (s.dequeAt n).filter mine
    let s1 : State := { s with deques := s.deques.set n ((s.dequeAt n).filter (fun e => !(mine e))), mailboxes := s.mailboxes.erase n }
    l.foldl (fun s e => s.moveToRing e.1 e.2) s1) s

/-- Cores are asked to take task records (R434): those with a deque record, and every core of the partition while a ring of
one of its contexts holds one. -/
def State.offerTasks (s : State) : State :=
  let s1 := s.deques.foldl (fun s e => if e.2 = [] then s else s.push (.taskLaunch (e.1 / 48) (e.1 % 48))) s
  s.ctxs.foldl (fun s c =>
    if c.2.ring = [] then s
    else (List.range 192).foldl (fun s n => if s.inPartition c.2.fn (n / 4) then s.push (.taskLaunch (n / 48) (n % 48)) else s) s) s1

/-! ## spawn -/

/-- The destination, and whether the record lies in team memory. -/
def spawnForm (i : Instr) : Option (Nat × Bool) :=
  match i with
  | .spawn d _ team => some (d.toNat, team)
  | .uniformXf _ d _ b _ _ _ => some (d.toNat % 128, b.toNat % 4 == 2)
  | _ => none

/-- The address of a record (R178). -/
def spawnAddr (team : Bool) (x : W64) : Nat := if team then x.toNat % 2 ^ 32 else x.toNat

/-- The two requests that read a record. -/
def spawnReqs (team : Bool) (a : Nat) : List Req := [⟨0, if team then .team else .glob, a, 64⟩, ⟨0, if team then .team else .glob, a + 64, 64⟩]

/-- spawn (R432): the checks of its operand, then its record is read; it goes on in the replay queue (R76). -/
def opSpawn (u : UCtx) (d a : BitVec 7) (team : Bool) (s : State) : Result :=
  uniOp u [a.toNat] [d.toNat] s fun c =>
    match s.teams.get? c.g.team with
    | none => .fault .noIssuingGroup
    | some t =>
      let addr := spawnAddr team (c.g.readS a.toNat)
      let qs := spawnReqs team addr
      if !(addr % 64 == 0) then c.trap s 0x03 []
      else
        match firstOf (s.rangeCheck c.g t) qs with
        | some cause => c.trap s cause []
        | none =>
          if qs.any (fun q => t.placeCheck q false false) then c.trap s 0x07 []
          else if c.g.unsettled then s.hold
          else
            let e : Entry := { Entry.blank c.i c.words c.pc c.run s.nextId with
              uops := [0, c.g.readS a.toNat, 0, 0], dsts := [sKey d.toNat], ranges := qs.map t.rangeOf }
            let g1 : Group := { (c.advance c.g) with entries := c.g.entries ++ [e] }
            .next ((({ s with nextId := s.nextId + 1 } : State).setGroup c.gid g1).push (.loadLanding c.gid e.id))

/-- SPAWN (R432). -/
def execSpawn (d a : BitVec 7) (team : Bool) (s : State) : Result := opSpawn (.short (.spawn d a team)) d a team s

/-- The oldest record of a core that has just spawned goes to the core whose request is oldest (R436), once the way to its die carries traffic (R519). -/
def State.serveSteal (s : State) (n : Nat) : State :=
  match s.mailboxes.getD n [], s.dequeAt n with
  | r :: rest, (g, k) :: l =>
    if !(s.reach (n / 48) (r / 48)) then s
    else
    let s1 : State := { s with mailboxes := s.mailboxes.set n rest, deques := s.deques.set n l }
    if s1.dequeRoom r then
      ({ s1 with deques := s1.deques.set r (s1.dequeAt r ++ [(g, k)]) } : State).setPlace g k (.deque r)
    else s1.moveToRing g k
  | _, _ => s

/-- A checked record registered and placed (R431, R433, R436). -/
def State.finishSpawn (s : State) (gid : Nat) (g : Group) (e : Entry) (d : Nat) (gr : Grid) (r : TaskRec) (deque : Bool) : State :=
  let n := coreNumber g.die g.core
  let (gr1, id) := gr.register r (if deque then .deque n else .ring) g.team
  let s1 := (s.setGrid g.grid gr1).endBlocking gid e d id
  let s2 : State := { s1 with
    groups := s1.groups.modify gid (fun h => { h with spawned := h.spawned ++ [id] })
    teams := s1.teams.modify g.team (fun t => { t with children := t.children ++ [id] }) }
  let s3 := if deque then { s2 with deques := s2.deques.set n (s2.dequeAt n ++ [(g.grid, id)]) } else s2.ringPut g.ctx g.grid id true
  (s3.serveSteal n).offerTasks

/-- spawn performed (R432, R433): from its start whenever it has waited. -/
def State.performSpawn (s : State) (gid : Nat) (g : Group) (e : Entry) : State :=
  let o := e.owner gid
  let again (s : State) : State := s.waitEntry gid e (.loadLanding gid e.id)
  let fails (s : State) (c : Nat) (x : Bool) (a : W64) : State := ((s.dropWaits o).dropWaits (.out gid e.id)).failEntryAt gid e c x [] a
  match spawnForm e.instr with
  | none => s
  | some (d, team) =>
    match s.readAll g o .read (spawnReqs team (spawnAddr team (e.uops.getD 1 0))) with
    | .wait s1 => again s1
    | .fail s1 c x recs => fails s1 c x (addrOf recs)
    | .ok s1 l =>
      match taskRecOf (l.flatMap (fun x => x.2)), s1.grids.get? g.grid, s1.ctxs.get? g.ctx with
      | none, _, _ => fails s1 0x02 false 0
      | some r, some gr, some c =>
        (match gr.spawnFault r with
         | some cause => fails s1 cause false 0
         | none =>
           match s1.releaseNow gid none 4 with
           | (s2, false) => again s2
           | (s2, true) =>
             if s2.dequeRoom (coreNumber g.die g.core) then s2.finishSpawn gid g e d gr r true
             else if c.ringFull then fails s2 0x09 true 0
             else
               match s2.frontWrite (.out gid e.id) g.die c.fn c.pasid (c.slotAddr c.ringTail) r.bytes with
               | .wait s3 => again s3
               | .fail s3 cause x => fails s3 cause x (BitVec.ofNat 64 (c.slotAddr c.ringTail))
               | .ok s3 _ => s3.finishSpawn gid g e d gr r false)
      | some _, _, _ => s1

/-! ## twait and steal -/

/-- The issuing task's own id (R437). -/
def Team.ownTask (t : Team) : Option Nat :=
  match t.origin with
  | .task id => some id
  | .grid => none
  | .tile _ _ _ _ => none

/-- The instruction waits, and its group leaves the stage at once (R437, R451). -/
def Issue.parkIn (c : Issue) (s : State) (w : Wait) (a : Act) : Result :=
  match c.waitIn s w a with
  | .next t => .next { t with groups := t.groups.modify c.gid (fun g => { g with stage := none }) }
  | r => r

/-- twait (R437). -/
def opTwait (u : UCtx) (a : BitVec 7) (s : State) : Result :=
  uniOp u [a.toNat] [] s fun c =>
    let id := (c.g.readS a.toNat).toNat
    match s.teams.get? c.g.team, s.grids.get? c.g.grid with
    | some t, some gr =>
      if gr.nextTask < id ∨ t.ownTask = some id then c.trap s 0x04 []
      else if !(s.twaitOver c.g id) then c.parkIn s (.twait id) (.twaitWake c.gid)
      else
        (match s.acquire c.gid none with
         | (s1, false) => s1.hold
         | (s1, true) => c.finish s1 (fun g => g))
    | _, _ => .fault .noIssuingGroup

/-- TWAIT (R437). -/
def execTwait (a : BitVec 7) (s : State) : Result := opTwait (.short (.twait a)) a s

/-- TWAIT_WAKE (R437). -/
def execTwaitWake (gid : Nat) (s : State) : Result :=
  wake gid (.twaitWake gid) s fun g =>
    match g.wait with
    | .twait id => if s.twaitOver g id then endWait gid (.twaitWake gid) s (fun g => g) else .next (s.push (.twaitWake gid))
    | _ => .next s

/-- steal (R436). -/
def opSteal (u : UCtx) (d a : BitVec 7) (s : State) : Result :=
  uniOp u [a.toNat] [d.toNat] s fun c =>
    let v := (c.g.readS a.toNat).toNat
    let own := coreNumber c.g.die c.g.core
    let box := s.mailboxes.getD v []
    if 191 < v ∨ v = own then c.trap s 0x04 []
    else if !(s.inPartition (s.fnOf c.g) (v / 4)) then c.trap s 0x07 []
    else if !(s.reach c.g.die (v / 48)) then s.hold
    else if box.length < 4 then c.done { s with mailboxes := s.mailboxes.set v (box ++ [own]) } (c.g.writeS d.toNat 0)
    else c.done s (c.g.writeS d.toNat 1)

/-- STEAL (R436). -/
def execSteal (d a : BitVec 7) (s : State) : Result := opSteal (.short (.steal d a)) d a s

/-! ## Launching a task's team (R434) -/

/-- The record that a core takes next (R434): one of its deque that a retire there made ready, the newest ready one of its
deque, the oldest ready one of a ring of its partition's contexts. -/
def State.nextRecord (s : State) (die core : Nat) : Option (Nat × Nat) :=
  let ready (e : Nat × Nat) : Bool := match s.grids.get? e.1 with
    | some g => g.taskReady e.2 && s.ctxAwake g.ctx
    | none => false
  let fused (e : Nat × Nat) : Bool := match s.grids.get? e.1 with
    | some g => (match g.tasks.get? e.2 with
      | some t => t.fused
      | none => false)
    | none => false
  let own := (s.dequeAt (coreNumber die core)).reverse.filter ready
  match own.find? fused with
  | some e => some e
  | none =>
    match own with
    | e :: _ => some e
    | [] =>
      (s.ctxs.flatMap (fun c => if s.inPartition c.2.fn (quadOf die core) then c.2.ring.map (fun r => (r.2.1, r.2.2)) else [])).find? ready

/-- The die's queue keeps a core from records (R448): its head fits a core set that includes the core. -/
def State.headFits (s : State) (die core : Nat) : Bool :=
  match (s.queueAt die).find? s.eligible with
  | none => false
  | some tid =>
    match s.teams.get? tid with
    | none => false
    | some t =>
      match s.grids.get? t.grid with
      | none => false
      | some g => s.tentReady g && (s.findCores tid t (t.meetsWanted g) ((coreSets t.ncores).filter (fun c => c.contains core))).isSome

/-- A record leaves its deque or its ring. -/
def State.takeRecord (s : State) (ctx grid task : Nat) : State :=
  let s1 : State := { s with
    deques := s.deques.map (fun e => (e.1, e.2.filter (fun r => !(r == (grid, task)))))
    ctxs := s.ctxs.modify ctx (fun c => { c with ring := c.ring.filter (fun r => !(r.2 == (grid, task))) }) }
  s1.setPlace grid task .launched

/-- No group of a core can issue (R434). -/
def State.coreIdle (s : State) (die core : Nat) : Bool :=
  !(s.groups.any (fun e => e.2.placed && e.2.die == die && e.2.core == core && s.groupReady e.1))

/-- A record where it lies (R33, R433): with the device, or in its slot of the overflow ring. -/
def State.recordBytes (s : State) (rd : Reader) (c : Ctx) (grid task : Nat) (tk : Task) : Parsed (List Byte) :=
  match tk.record, c.ring.find? (fun r => r.2 == (grid, task)) with
  | [], some r => readAs rd 0 s (c.slotAddr r.1) 128
  | b, _ => .ok s b

/-- The team that a record asks for: its record's bytes and its image (R434, R438, R442). -/
def State.recordTeam (s : State) (rd : Reader) (c : Ctx) (g : Grid) (grid task : Nat) (tk : Task) : Parsed (List Byte × LaunchRec) :=
  (s.recordBytes rd c grid task tk).andThen fun s1 b =>
    (readLaunch rd c.traps.keyAddr (.named (leField b 0 8)) s1 g.launch.addr).andThen fun s2 lr => .ok s2 (b, lr)

/-- A core set that includes the core fits the team (R434, R449). -/
def State.fitsWith (s : State) (t : Team) (mpn core : Nat) : Option (List Nat × List (Seat × Nat)) :=
  s.findCores s.nextId t mpn ((coreSets t.ncores).filter (fun x => x.contains core))

/-- A task's team, before it is placed (R434). -/
def taskTeam (ctx grid task die : Nat) (lr : LaunchRec) : Team := newTeam ctx grid (task % 2 ^ 40) (.task task) die lr.image

/-- TASK_LAUNCH (R434, R438, R442, R450): a core takes a ready record and starts its team on a set that includes it; where a parkable team holds
what it needs, that team is parked out. A team that would be refused raises cause 0x02 at the context rung and never retires. -/
def execTaskLaunch (die core : Nat) (s : State) : Result :=
  match s.nextRecord die core with
  | none => .next s
  | some (grid, task) =>
    match s.grids.get? grid with
    | none => .next s
    | some g =>
      match s.ctxs.get? g.ctx, g.tasks.get? task with
      | some c, some tk =>
        if s.headFits die core then .next (s.push (.taskLaunch die core))
        else
          let o : Owner := .launch grid task
          (match s.recordTeam (frontRead o c.fn c.pasid) c g grid task tk with
           | .wait s1 => .next (s1.push (.taskLaunch die core))
           | .no s1 e =>
             let cause := match e, tk.record with
               | .cause x _, [] => x
               | _, _ => 0x02
             .next (((s1.dropWaits o).takeRecord g.ctx grid task).raiseUpper 2 cause 0 c.fn g.ctx 0 0 (BitVec.ofNat 64 tk.image))
           | .ok s1 (b, lr) =>
             let s2 := s1.dropWaits o
             let t := taskTeam g.ctx grid task die lr
             match s2.fitsWith t lr.mpn core with
             | none =>
               if s2.coreIdle die core && (s2.dequeAt (coreNumber die core)).contains (grid, task) && !c.ringFull then
                 let rest := (s2.dequeAt (coreNumber die core)).filter (fun r => !(r == (grid, task)))
                 let s3 : State := { s2 with deques := s2.deques.set (coreNumber die core) rest }
                 .next ((s3.moveToRing grid task).push (.taskLaunch die core))
               else .next ((s2.askRoom die (fun x => (x.fitsWith t lr.mpn core).isSome)).push (.taskLaunch die core))
             | some (cores, l) =>
               let tid := s2.nextId
               let s3 := ({ s2 with nextId := tid + 1 } : State).takeRecord g.ctx grid task
               let s4 := s3.modTask grid task (fun y =>
                 { y with team := tid, record := b, image := leField b 0 8, arg := BitVec.ofNat 64 (leField b 8 8) })
               let s5 : State := { s4 with grids := s4.grids.modify grid (fun x => { x with liveTeams := x.liveTeams ++ [tid] }) }
               .next ((s5.startTeam tid t { lr with seed := g.launch.seed } cores l).push (.taskLaunch die core)))
      | _, _ => .next s

/-! ## Retiring a task -/

/-- Parked-out teams whose tasks have all retired enter the heads of their dies' queues (R450). -/
def State.unparkAll (s : State) : State :=
  (s.teams.filter (fun e => e.2.state == .parkedOut && s.parkedReady e.1)).foldl (fun s e =>
    ({ s with teams := s.teams.modify e.1 (fun t => { t with state := .queued }) } : State).requeueTeam e.2.die e.1) s

/-- A task retired (R435): its versions count as retired, the records it made ready on its core are fused launches (R434), and
waiting teams and cores look again. -/
def State.retireTask (s : State) (tid : Nat) (t : Team) (id : Nat) : State :=
  let here := t.cores.map (coreNumber t.die)
  let s1 : State := { s with grids := s.grids.modify t.grid (fun g =>
    let g1 : Grid := { g with tasks := g.tasks.modify id (fun x => { x with place := .retired }) }
    { g1 with tasks := g1.tasks.map (fun x =>
        match x.2.place with
        | .deque n => (x.1, { x.2 with fused := x.2.fused || (here.contains n && x.2.waits.contains id && g1.taskReady x.1) })
        | .ring => x
        | .launched => x
        | .retired => x) }) }
  let s2 := if t.state = .ended then ({ s1 with teams := s1.teams.erase tid } : State).leaveGrid tid t false
    else (s1.setTeam tid { t with retired := true }).push (.gridEnd t.grid)
  (s2.unparkAll).offerTasks

/-- TASK_RETIRE (R435, R418 steps 1 and 3). -/
def execTaskRetire (team : Nat) (s : State) : Result :=
  match s.teams.get? team with
  | none => .next s
  | some t =>
    match t.ownTask with
    | none => .next s
    | some id =>
      if !(t.retireAsked || t.state == .ended) then .next s
      else if t.retired then
        .next (if t.state = .ended then ({ s with teams := s.teams.erase team } : State).leaveGrid team t false else s)
      else if s.teamHeld team t || s.retireHeld t then .next (s.push (.taskRetire team))
      else
        match s.releaseTeam team with
        | (s1, false) => .next (s1.push (.taskRetire team))
        | (s1, true) =>
          match s1.teams.get? team with
          | none => .next s1
          | some t1 => .next (s1.retireTask team t1 id)

/-! ## Parking out -/

/-- The head of a die's queue fits in a state (R450). -/
def State.headRoom (s : State) (die : Nat) (x : State) : Bool :=
  match (s.queueAt die).find? s.eligible with
  | none => true
  | some h => (x.placeNow h).isSome

/-- The ready record of a core fits in a state (R450); one that is not there, or that cannot be read now, holds nothing up. -/
def State.recordRoom (s : State) (die core : Nat) (x : State) : Bool :=
  match s.nextRecord die core with
  | none => true
  | some (grid, task) =>
    match s.grids.get? grid with
    | none => true
    | some g =>
      match s.ctxs.get? g.ctx, g.tasks.get? task with
      | some c, some tk =>
        s.headFits die core ||
          (match s.recordTeam (frontRead (.launch grid task) c.fn c.pasid) c g grid task tk with
           | .ok _ (_, lr) => (x.fitsWith (taskTeam g.ctx grid task die lr) lr.mpn core).isSome
           | .wait _ => true
           | .no _ _ => true)
      | _, _ => true

/-- The cores of the quad that a team stands on. -/
def Team.quadCores (t : Team) : List Nat := (List.range 4).map (fun k => 4 * (t.cores.headD 0 / 4) + k)

/-- A parkable team is one of those that hold up its die's queue head, or a ready record of its quad (R450). -/
def State.holdsUp (s : State) (team : Nat) (t : Team) : Bool :=
  (s.blockers t.die (s.headRoom t.die)).contains team ||
    t.quadCores.any (fun c => (s.blockers t.die (s.recordRoom t.die c)).contains team)

/-- TEAM_PARK_OUT (R450): a parkable team whose tasks have not all retired is saved, and its cores freed, when its die's queue head or a ready
record of its quad fits without it and its like and not with it. It waits while its save area cannot be written (R519). -/
def execTeamParkOut (team : Nat) (s : State) : Result :=
  match s.teams.get? team with
  | none => .next s
  | some t =>
    if !(s.parkable team t) || s.parkedReady team || !(s.holdsUp team t) then .next s
    else if !(s.savable team) then .next (s.push (.parkOut team))
    else .next (((s.saveTeam team .parkedOut).push (.gangStart t.die)).offerTasks)

end Sys2Proof.Machine
end

