-- ==== Sys2Proof/Machine/Replay.lean ====
section
/-! DEFINITION. The replay queue: landings, re-injection, and the return from a handler (R400, R466 to R472, R474). -/

namespace Sys2Proof.Machine

/-! ## Landing -/

/-- A landing of an instruction that reads memory: its own statement says what becomes of it. -/
def State.landEntry (s : State) (gid : Nat) (g : Group) (e : Entry) : State :=
  match e.instr with
  | .pbind _ _ _ => s.performBind gid g e
  | .spawn _ _ _ => s.performSpawn gid g e
  | .uniformXf _ _ _ _ _ _ _ => s.performSpawn gid g e
  | _ => s.landRead gid g e

/-- LOAD_LANDING (R75, R194, R483). -/
def execLoadLanding (gid id : Nat) (s : State) : Result :=
  withEntry gid id (.loadLanding gid id) s fun g e => .next (s.landEntry gid g e)

/-! ## Re-injection -/

/-- The matrix instructions that enter the matrix order (R260). -/
def isMatrix (i : Instr) : Bool :=
  match i with
  | .mld _ _ _ _ _ _ _ _ => true
  | .mma _ _ _ _ _ _ _ _ => true
  | .mloop _ _ _ _ _ _ _ _ _ _ => true
  | .mst _ _ _ _ _ _ _ _ => true
  | .mscale _ _ _ _ _ _ => true
  | .mzero _ _ => true
  | _ => false

/-- The work of an entry queued again (R471). -/
def State.pushWork (s : State) (gid : Nat) (e : Entry) : State :=
  match memOp e.instr with
  | some op => s.pushEntry gid e op
  | none =>
    if (travKind e.instr).isSome then s.push (.traversalComplete gid e.id)
    else if (camJit e.instr).isSome then s.push (.camrayArrival gid e.id)
    else if !(engineOf e.instr == 0) then s.push (.engineUnitLand gid e.id)
    else if (laneTwin false e.instr).isSome then s.push (.replay gid e.id)
    else s.push (.loadLanding gid e.id)

/-- The page waits of an entry dropped: it looks its pages up again (R485). -/
def State.forget (s : State) (gid : Nat) (g : Group) (id : Nat) : State :=
  ((s.dropWaits (.entry gid id)).dropWaits (.out gid id)).dropWaits (.matrix g.team id)

/-- A matrix operation with the uniform operands that its entry holds now; an mloop keeps its step (R278). -/
def MatItem.withUops (x : MatItem) (u : List W64) : MatItem :=
  let d : Desc := match x.op with
    | .mld _ _ _ _ _ d => d
    | .mma _ _ _ _ d _ => d
    | .mloop _ _ _ _ _ _ _ _ _ _ _ _ d _ _ => d
    | .mst _ _ _ _ _ _ d => d
    | .mscale _ _ _ _ => Desc.ofBits 0
    | .mzero _ _ => Desc.ofBits 0
  let op : MatOp := match x.op, matOp x.instr u d with
    | .mloop _ _ _ _ _ _ _ _ _ _ _ zero _ t loaded, some (.mloop acc a b sa sb ia ib count slot asp bsp _ d' _ _) =>
      .mloop acc a b sa sb ia ib count slot asp bsp zero d' t loaded
    | _, some o => o
    | o, none => o
  { x with op := op, uops := u, stopped := false }

/-- An entry of the device goes on from where it stopped (R471): a matrix instruction in the matrix order, any other from
check 2 of R189 on. -/
def State.reenter (s : State) (gid : Nat) (e : Entry) : State :=
  match s.groups.get? gid with
  | none => s
  | some g =>
    let s1 := s.forget gid g e.id
    let queued := match s1.teams.get? g.team with
      | some t => t.mat.queue.any (fun x => x.id == e.id)
      | none => false
    if queued then
      let s2 := s1.modTeam g.team (fun t => { t with mat := { t.mat with queue := t.mat.queue.map (fun x =>
        if x.id = e.id then x.withUops e.uops else x) } })
      let s3 : State := { s2 with groups := s2.groups.modify gid (fun g => { g with entries := g.entries.filter (fun x => !(x.id == e.id)) }) }
      s3.pushMatrix g.team
    else
      let e1 : Entry := { e with
        book := false, state := if e.remain.isSome then .inFlight else .waiting, cause := 0
        lrec := if e.state = .faulted then [] else e.lrec }
      let s2 := s1.setEntry gid e1
      if isMatrix e.instr then s2 else s2.pushWork gid e1

/-- The address checks of an instruction that is no lane access (R189 checks 3 and 4). -/
def addressCheck (i : Instr) (u : List W64) : Option Nat :=
  let chk (a n : Nat) : Option Nat := if !(a % n == 0) then some 0x03 else if canonical a then none else some 0x04
  match i with
  | .tex _ _ _ _ _ _ _ => chk (uop u 3) 32
  | .trace _ _ _ _ _ _ _ => chk (uop u 2) 128
  | .camray _ _ _ _ _ _ => chk (uop u 2) 64
  | .pbind _ _ _ => chk (uop u 1) 64
  | _ => none

/-- The lanes whose offset an mrd's re-injection finds outside the accumulators (R274). -/
def Entry.mrdOutside (e : Entry) (m : Matrix) : Map W64 :=
  (e.mrdOffs.filter (fun o => decide (1024 * m.accKib < o.2 + 4))).map (fun o => (o.1, laneRec 0x04 o.2))

/-- A matrix entry that is in no matrix order yet enters it, or fails its checks (R264, R550). -/
def State.startMatrix (s : State) (gid : Nat) (g : Group) (t : Team) (e : Entry) : State :=
  match matDesc e.instr t.mat with
  | .error c => s.failEntry gid e c false []
  | .ok d =>
    match s.matCheck g t e.instr e.uops d, matOp e.instr e.uops d with
    | some c, _ => s.failEntry gid e c false []
    | none, none => s.failEntry gid e 0x02 false []
    | none, some o =>
      let x : MatItem := ⟨e.id, gid, e.instr, o, e.w1, e.w2, e.pc, e.mask, e.uops, 0, false⟩
      (s.setGroup gid (g.retire e)).enqueue gid g.team x

/-- An engine entry that has no plan yet starts, or fails its checks (R198). -/
def State.startPlan (s : State) (gid : Nat) (g : Group) (t : Team) (e : Entry) : State :=
  match s.enginePlan g t e.instr e.uops with
  | .error c => s.failEntry gid e c false []
  | .ok r =>
    if r.left = 0 then s.setGroup gid (g.retire e)
    else
      let k := cregOf e.instr
      let g1 := (g.writeC k (g.readC k + r.left)).setEntry { e with state := .inFlight, remain := some r }
      (s.setGroup gid g1).push (.engineUnitLand gid e.id)

/-- The checks of a re-injected entry from check 3 of R189 on (R471); one that fails again raises its cause anew. -/
def State.recheck (s : State) (gid id : Nat) : State :=
  match s.groups.get? gid with
  | none => s
  | some g =>
    match s.teams.get? g.team, g.entries.find? (fun e => e.id == id) with
    | some t, some e =>
      if e.book || e.state == .faulted then s
      else if isMatrix e.instr then s.startMatrix gid g t e
      else if !(engineOf e.instr == 0) then (if e.remain.isNone then s.startPlan gid g t e else s)
      else
        match memOp e.instr with
        | some op =>
          (match worst (s.reqFails g t op (op.reqs e)) with
           | some (c, recs) => s.failEntry gid e c false recs
           | none => s)
        | none =>
          match addressCheck e.instr e.uops with
          | some c => s.failEntry gid e c false []
          | none => if e.mrdOutside t.mat = [] then s else s.failEntry gid e 0x04 false (e.mrdOutside t.mat)
    | _, _ => s

/-- The entries named go on, oldest first (R471, R474). -/
def State.reenterAll (s : State) (gid : Nat) (l : List Entry) : State :=
  let s1 := l.foldl (fun s e => s.reenter gid e) s
  l.foldl (fun s e => s.recheck gid e.id) s1

/-- An entry removed by a handler (R472): its destinations stay, its counter falls; an engine's completion register falls by
what was left, an mloop keeps its steps, and a trace ends by R295. -/
def State.removeEntry (s : State) (gid : Nat) (e : Entry) : State :=
  match s.groups.get? gid with
  | none => s
  | some g =>
    let s1 := s.forget gid g e.id
    let g1 : Group := match e.remain with
      | some r => if engineOf e.instr = 0 then g else g.writeC (cregOf e.instr) (g.readC (cregOf e.instr) - r.left)
      | none => g
    let g2 : Group := if (travKind e.instr).isSome then
        { g1 with queries := (lanesOf e.mask).foldl (fun m l => m.set l ((g1.query l).endWith 3)) g1.queries }
      else g1
    let s2 := s1.setGroup gid (g2.retire e)
    (s2.modTeam g.team (fun t => { t with mat := { t.mat with queue := t.mat.queue.filter (fun x => !(x.id == e.id)) } })).pushMatrix g.team

/-! ## Reading the book -/

/-- A replay entry of the book as the handler left it: its first 96 bytes, and all of it unless it is empty. -/
structure BookPage where
  n : Nat
  head : List Byte
  page : List Byte

def BookPage.state (b : BookPage) : Nat := leField b.head 0x18 1
def BookPage.mask (b : BookPage) : BitVec 64 := BitVec.ofNat 64 (leField b.head 0x10 8)
def BookPage.pc (b : BookPage) : W64 := BitVec.ofNat 64 (leField b.head 0x08 8)
def BookPage.w1 (b : BookPage) : W32 := BitVec.ofNat 32 (leField b.head 0x00 4)
def BookPage.w2 (b : BookPage) : W32 := BitVec.ofNat 32 (leField b.head 0x04 4)
def BookPage.remain (b : BookPage) : List Byte := (b.head.drop 0x20).take 0x40
def BookPage.dreg (b : BookPage) (lane : Nat) : Nat := leField b.page (0x300 + lane) 1
def BookPage.source (b : BookPage) (k lane : Nat) : Val := BitVec.ofNat 128 (leField b.page (0x400 * (k + 1) + 16 * lane) 16)
def BookPage.uops (b : BookPage) (n : Nat) : List W64 := (List.range n).map (fun k => BitVec.ofNat 64 (leField b.page (0x60 + 8 * k) 8))

/-- The header's fields and the sixteen entries, read with the group's own reads (R470). -/
def readBook (rd : Reader) (addr : Nat) (s : State) : Parsed (List Byte × List BookPage) :=
  (readAs rd 0 s addr 0x500).andThen fun s1 h =>
    (parseEach (fun s n =>
      (readAs rd 0 s (addr + 0x1000 * (n + 1)) 0x60).andThen fun s1 head =>
        if leField head 0x18 1 = 0 then .ok s1 (⟨n, head, []⟩ : BookPage)
        else (readAs rd 0 s1 (addr + 0x1000 * (n + 1)) 0x1000).andThen fun s2 page => .ok s2 ⟨n, head, page⟩)
      (List.range 16) s1).andThen fun s2 l => .ok s2 (h, l)

/-- The table of a book: PC and mask of each entry. -/
def bookTable (h : List Byte) : List (W64 × BitVec 64) :=
  (List.range (leField h 0x001 1)).map (fun e =>
    (BitVec.ofNat 64 (leField h (0x100 + 16 * e) 8), BitVec.ofNat 64 (leField h (0x108 + 16 * e) 8)))

/-- Lanes that wait parked at a REPACK (R385). -/
def Group.parkedLanes (g : Group) : BitVec 64 := maskOf (g.parked.map (fun p => p.lane))

/-- The masks are disjoint. -/
def disjoint : List (W64 × BitVec 64) → Bool
  | [] => true
  | e :: r => r.all (fun x => x.2 &&& e.2 == 0) && disjoint r

/-- The PCs of a table are distinct. -/
def distinctPcs : List (W64 × BitVec 64) → Bool
  | [] => true
  | e :: r => r.all (fun x => !(x.1 == e.1)) && distinctPcs r

/-- The entries of one half. -/
def inHalf (m : BitVec 64) (t : List (W64 × BitVec 64)) : List (W64 × BitVec 64) := t.filter (fun e => e.2 &&& ~~~m == 0)

/-- The table meets R371 (R470). -/
def Group.tableOk (g : Group) (t : List (W64 × BitVec 64)) : Bool :=
  decide (1 ≤ t.length) && decide (t.length ≤ 64) &&
    t.all (fun e => canonical e.1.toNat && e.1.toNat % 4 == 0 && !(e.2 == 0)) && disjoint t &&
    (t.foldl (fun m e => m ||| e.2) 0 == (g.live &&& ~~~g.parkedLanes)) &&
    (if g.gang then
      (inHalf lowHalf t).length + (inHalf highHalf t).length == t.length && distinctPcs (inHalf lowHalf t) && distinctPcs (inHalf highHalf t)
    else distinctPcs t)

/-! ## The checks of the entries -/

/-- An mrd, which is of the lane set. -/
def isMrd (i : Instr) : Bool :=
  match i with
  | .mrd _ _ _ _ => true
  | _ => false

/-- The registers of a lane destination, 0 for none (R470). -/
def laneDst (g : Group) (i : Instr) : Nat :=
  match memOp i with
  | some op => op.dw
  | none =>
    if isTex i then 4
    else if isMrd i then 1
    else if (travKind i).isSome || (camJit i).isSome then 8
    else
      match laneTwin (g.width == 64) i with
      | some (_, f) => if dstIsChan f.d then 0 else f.dw
      | none => 0

/-- Check 3 of R172 on an instruction that is neither a lane access nor lane arithmetic, and on w registers. -/
def budgetsOk (g : Group) (i : Instr) : Bool :=
  let v (n : BitVec 7) (w : Nat) : Bool := decide (n.toNat + w ≤ g.lbud)
  let u (n : BitVec 7) : Bool := decide (n.toNat < g.ubud)
  let w (n : BitVec 3) : Bool := decide (n.toNat < g.wbud)
  match i with
  | .tex d a b bu c _ _ => v d 4 && v a 2 && (if bu then u b else v b 1) && u c
  | .trace d a root _ _ _ _ => v d 8 && v a 8 && u root
  | .trnext d _ => v d 8
  | .traccept d _ => v d 8
  | .trhit d _ => v d 8
  | .camray d tile desc _ _ _ => v d 8 && u tile && u desc
  | .resup x _ _ _ _ => w x
  | .resmg x y _ _ => w x && w y
  | .resfin _ x _ _ => w x
  | .resget _ x _ _ => w x
  | .resset x _ _ _ => w x
  | .resclr x _ => w x
  | .copy d a b _ _ _ _ => u d && u a && u b
  | .lload d a b c _ _ _ => u d && u a && u b && u c
  | .lstore d a b c _ _ _ => u d && u a && u b && u c
  | .mrd d a _ _ => v d 1 && v a 1
  | .mld _ a b _ _ _ _ _ => u a && u b
  | .mloop d a _ _ _ _ _ _ _ _ => u d && decide (a.toNat + 3 < g.ubud)
  | .mst d a _ _ _ _ _ _ => u d && u a
  | .mscale d a b _ _ _ => u d && u a && u b
  | _ => true

/-- Checks 3 and 4 of R172 (checks 1 and 2 are the decoder's). -/
def passesChecks (g : Group) (t : Team) (i : Instr) : Bool :=
  budgetsOk g i &&
    (match memOp i with
     | some op => op.budgetOk i g
     | none => true) &&
    (match laneTwin (g.width == 64) i with
     | some (_, f) =>
       let srcs := [f.a, f.b, f.c]
       srcs.all g.srcBudget && g.dstBudget f.d f.dw && srcs.all (fun o => t.srcKind .lane o.src) && t.dstKind .lane f.d
     | none => true)

/-- The instructions that a handler may inject (R470). -/
def injectable (g : Group) (i : Instr) : Bool :=
  (memOp i).isSome || isTex i || isMrd i || (travKind i).isSome || (camJit i).isSome || (laneTwin (g.width == 64) i).isSome || !(engineOf i == 0) ||
    (match i with
     | .mzero _ _ => false
     | _ => isMatrix i)

/-- An entry's own words are those that the device wrote. -/
def BookPage.sameWords (b : BookPage) (e : Entry) : Bool := b.w1 == e.w1 && b.w2 == e.w2

/-- The checks of R470 on one entry; dev is what the device wrote there. -/
def BookPage.ok (b : BookPage) (g : Group) (t : Team) (dev : Option Entry) : Bool :=
  let old : List Nat := match dev with
    | some e => remainWords e.remain
    | none => []
  let same := match dev with
    | some e => b.sameWords e
    | none => false
  let device3 := match dev with
    | some e => e.stateCode == 3
    | none => false
  b.remain == rowBytesOf 8 old ++ List.replicate (0x40 - 8 * old.length) 0 &&
    (b.state == 0 ||
      (decide (b.state ≤ 3) && (!(b.state == 3) || device3) && (b.mask &&& ~~~g.live == 0) &&
        (match decode b.w1 b.w2 with
         | .instr i _ =>
           passesChecks g t i && (same || injectable g i) &&
             (let w := laneDst g i
              w == 0 || (lanesOf b.mask).all (fun l => b.dreg l % (if w = 3 then 1 else if w = 6 then 2 else w) == 0 && decide (b.dreg l + w ≤ g.lbud)))
         | .illegal => false
         | .reserved => false)))

/-! ## What tret does with an entry -/

/-- Values of a source for the lanes of a mask; a source that the instruction does not read stays empty. -/
def BookPage.lanesAt (b : BookPage) (k : Nat) (old : Map Val) (m : BitVec 64) : Map Val :=
  if old = [] then [] else (lanesOf m).map (fun l => (l, b.source k l))

/-- The registers that an entry will write, from its DREG bytes. -/
def Entry.dstKeys (e : Entry) : List Nat := ((e.dreg.flatMap (fun d => vKeys d.2 e.width))).eraseDups

/-- The bytes that a memory entry accesses, as hazards compare them (R76). -/
def Entry.rangesIn (e : Entry) (t : Team) : List (Space × Nat × Nat) :=
  match memOp e.instr with
  | some op => (op.reqs e).map t.rangeOf
  | none =>
    if !(isTex e.instr) then e.ranges
    else
      match e.texHead with
      | some x => (e.captureHead x).ranges
      | none => [anyGlobal]

/-- A device entry with the fields that a handler may edit (R468). A tex whose header address stays keeps the header that it has captured
(R215). -/
def BookPage.merge (b : BookPage) (t : Team) (e : Entry) : Entry :=
  let m := b.mask ||| e.done
  let e1 : Entry := { e with
    pc := b.pc, mask := m
    uops := b.uops e.uops.length
    res := if isTex e.instr && !(b.uops e.uops.length == e.uops) then [] else e.res
    opa := b.lanesAt 0 e.opa m, opb := b.lanesAt 1 e.opb m, opc := b.lanesAt 2 e.opc m
    dreg := if e.dreg = [] then [] else (lanesOf m).map (fun l => (l, b.dreg l)) }
  { e1 with
    ranges := e1.rangesIn t
    dsts := if e1.dreg = [] then e1.dsts else (e1.dsts.filter (fun k => decide (256 ≤ k))) ++ e1.dstKeys }

/-- The counter of an injected instruction (R196). -/
def counterOf (i : Instr) : Counter :=
  match memOp i with
  | some op => op.kind.counter
  | none =>
    if !(engineOf i == 0) then .cps
    else if isMatrix i then .tls
    else if isTex i || isMrd i || (travKind i).isSome || (camJit i).isSome then .lds
    else .none

/-- An entry that a handler wrote (R471); bits [191:128] of a w source, which the log has no room for, are free (log 17). -/
def BookPage.entry (b : BookPage) (g : Group) (t : Team) (i : Instr) (id tick : Nat) : Entry :=
  let lanes := lanesOf b.mask
  let at_ (k : Nat) : Map Val := lanes.map (fun l => (l, b.source k l))
  let w := laneDst g i
  let e : Entry := { Entry.blank i (b.w1, b.w2) b.pc b.mask id with
    state := .waiting, counter := counterOf i, uops := b.uops 7, opa := at_ 0, opb := at_ 1, opc := at_ 2
    high := lanes.map (fun l => (l, Config.freeChan tick l ++ Config.freeChan tick (64 + l)))
    draws := (match memOp i with
      | some op => if op.kind == .xrd true 4 || op.kind == .xrd false 4 then lanes.map (fun l => (l, (g.draw l).1)) else []
      | none => [])
    dreg := if w = 0 then [] else lanes.map (fun l => (l, b.dreg l))
    width := w
    ranges := if isTex i || (travKind i).isSome then [anyGlobal] else [] }
  { e with
    ranges := e.rangesIn t
    dsts := e.dstKeys ++ (match memOp i with
      | some op => (match op.kind with
        | .resld n => [wKey n]
        | _ => [])
      | none => []) ++ (match sldDst i with
      | some d => [sKey d]
      | none => []) }

/-- A handler's entry enters the replay queue, counted as an issue is (R471). -/
def State.injectEntry (s : State) (gid : Nat) (e : Entry) : State :=
  match s.groups.get? gid with
  | none => s
  | some g =>
    let g1 := match travKind e.instr with
      | some k => g.beginWalk e k
      | none => g
    let g2 := g1.afterDraws (if e.draws = [] then 0 else 1) (lanesOf e.mask)
    let g3 : Group := { g2 with entries := g2.entries ++ [e] }
    let s1 := s.setGroup gid (g3.countUp e.counter)
    if isMatrix e.instr || !(engineOf e.instr == 0) then s1 else s1.pushWork gid e

/-- An entry with engine work remaining that the handler gives STATE 1 or 2: it is performed anew (R471). A traversal instruction that is no
trace goes on. -/
def BookPage.restarts (b : BookPage) (e : Entry) : Bool :=
  e.stateCode == 3 && !(b.state == 3) && ((travKind e.instr).isNone || travKind e.instr == some .trace)

/-- What becomes of one place of the book. -/
inductive Plan where
  | keep (e : Entry)
  | remove (e : Entry)
  | inject (e : Entry)

/-- A kept entry is performed after what the handler has done, and finds what is there (R471); engine work goes on as it began. -/
def Entry.anew (e : Entry) (seq : Nat) : Entry := if e.remain.isSome then e else { e with seq := seq, seen := [] }

/-- The plan of the whole book, in ascending n (R471, R472). -/
def bookPlan (g : Group) (t : Team) (tick id : Nat) (dev : List Entry) (l : List BookPage) : List Plan :=
  l.flatMap (fun b =>
    let old := dev[b.n]?
    if b.state = 0 then
      (match old with
       | some e => [.remove e]
       | none => [])
    else
      match old, decode b.w1 b.w2 with
      | some e, .instr i _ => if b.sameWords e && !(b.restarts e) then [.keep ((b.merge t e).anew (id + b.n))] else [.remove e, .inject (b.entry g t i (id + b.n) tick)]
      | none, .instr i _ => [.inject (b.entry g t i (id + b.n) tick)]
      | _, _ => [])

/-- The release of a handler's ordered atomic before it is performed (R209, R211). -/
def State.planReleases (s : State) (gid : Nat) (g : Group) : List Plan → State × Bool
  | [] => (s, true)
  | .keep _ :: r => State.planReleases s gid g r
  | .remove _ :: r => State.planReleases s gid g r
  | .inject e :: r =>
    match (memOp e.instr).bind (fun op => op.kind.releases.map (fun scope => (op, scope))) with
    | none => State.planReleases s gid g r
    | some (op, scope) =>
      let (s1, ok) := s.releaseAll gid scope (s.objectsOf g (op.reqs e))
      let (s2, ok2) := State.planReleases s1 gid g r
      (s2, ok && ok2)

/-- Entries that are newly counted by a plan. -/
def planAdds (l : List Plan) : Nat := (l.filter (fun p => match p with
  | .inject _ => true
  | .keep _ => false
  | .remove _ => false)).length

/-- Step 2 of R400: every entry of the plan, oldest first, then the checks of those that go on. -/
def State.runPlan (s : State) (gid : Nat) (l : List Plan) : State :=
  let s1 := l.foldl (fun s p => match p with
    | .keep e => s.reenter gid e
    | .remove e => s.removeEntry gid e
    | .inject e => s.injectEntry gid e) s
  l.foldl (fun s p => match p with
    | .keep e => s.recheck gid e.id
    | .remove _ => s
    | .inject e => s.recheck gid e.id) s1

/-- Step 1 of R400: the table, the predicates and s[U-1] as the book holds them; and step 3, HND. -/
def Group.restored (g : Group) (h : List Byte) : Group :=
  let t := bookTable h
  let ins (l : List (W64 × BitVec 64)) : List (W64 × BitVec 64) := l.foldl (fun m e => tableInsert e.1 e.2 m) []
  let g1 : Group := (List.range 7).foldl (fun g k => g.writePred (k + 1) (allLanes g.width) (BitVec.ofNat 64 (leField h (0x30 + 8 * k) 8))) g
  { (g1.writeS (g.ubud - 1) (BitVec.ofNat 64 (leField h 0x10 8))) with
    b := BitVec.ofNat 4 (leField h 0x68 1)
    table := if g.gang then ins (inHalf lowHalf t) else ins t
    table1 := if g.gang then ins (inHalf highHalf t) else []
    hnd := false, book := 0, hcount := 0 }

/-- TRET (R400, R470 to R472, R553): THE RETURN FROM A HANDLER. -/
def opTret (u : UCtx) (s : State) : Result :=
  uniOp u [] [] s fun c =>
    if !c.g.hnd then c.trap s 0x07 []
    else if c.g.unsettled then s.hold
    else
      match s.teams.get? c.g.team, s.ctxs.get? c.g.ctx with
      | some t, some x =>
        let o : Owner := .book c.gid
        (match readBook (groupRead o c.gid) (x.traps.bookAddr c.g.book) s with
         | .wait s1 => s1.hold
         | .no s1 (.cause cause ctx?) =>
           if ctx? then (((s1.dropWaits o).raiseUpper 2 cause 0 x.fn c.g.ctx c.g.team c.pc 0)).hold
           else c.trap (s1.dropWaits o) cause []
         | .no s1 (.report _ _ _ _ _) => s1.hold
         | .ok s1 (h, l) =>
           let s1 := s1.dropWaits o
           match c.still s1 with
           | none => .next s1
           | some g =>
             let dev := g.entries.filter (fun e => e.book)
             if !(g.tableOk (bookTable h) && l.all (fun b => b.ok g t (dev[b.n]?))) then c.trap s1 0x02 []
             else
               let plan := bookPlan g t s1.tick s1.nextId dev l
               if 255 < max (max g.lds g.sts) (max g.cps g.tls) + planAdds plan then s1.hold
               else
                 match s1.planReleases c.gid g plan with
                 | (s2, false) => s2.hold
                 | (s2, true) =>
                   match c.still s2 with
                   | none => .next s2
                   | some g2 =>
                     let s3 := ({ s2 with nextId := s2.nextId + 16 } : State).setGroup c.gid (g2.restored h)
                     let s4 : State := { s3 with ctxs := s3.ctxs.modify g.ctx (fun y => { y with books := y.books.filter (fun k => !(k == g.book)) }) }
                     .next (s4.runPlan c.gid plan))
      | _, _ => .next s

/-- TRET. -/
def execTret (s : State) : Result := opTret (.short .tret) s

end Sys2Proof.Machine
end

