-- ==== Sys2Proof/Machine/Uniform.lean ====
section
/-! DEFINITION. The extended twin of the uniform short forms (R171): each acts as its short form does, with a guard and MOD. -/

namespace Sys2Proof.Machine

/-- Operand B of an arithmetic twin: the immediate where BIMM = 1 (R171). -/
def xfB (b : BitVec 8) (imm : Option (BitVec 15)) : USrc :=
  match imm with
  | some v => .imm v
  | none => asUSrc (.ofBits b)

/-- The twin of a short form that is no arithmetic. -/
def twinControl (u : UCtx) (op : UniOp) (d a b : BitVec 8) (s : State) : Result :=
  match op with
  | .bra => opBra u (d ++ a ++ b) s
  | .call => opCall u (d ++ a ++ b) s
  | .ret => opRet u s
  | .exit => opExit u s
  | .yield => opYield u s
  | .brx => opBrx u (lo7 a) s
  | .wait =>
    let x : BitVec 24 := d ++ a ++ b
    opWait u (x.extractLsb' 18 6) (x.extractLsb' 12 6) (x.extractLsb' 6 6) (x.extractLsb' 0 6) s
  | .trap => opTrap u b s
  | .tret => opTret u s
  | .mparr => opMparr u (lo7 d) (lo7 a) s
  | .mpwait => opMpwait u (lo7 a) (lo7 b) s
  | .mpinit => opMpinit u (lo7 a) (lo7 b) s
  | .fence => opFence u (lo3 d) s
  | .acq => opAcq u (d.getLsbD 3) (lo7 a) s
  | .rel => opRel u (lo3 d) (d.getLsbD 3) (lo7 a) s
  | _ => opNop u s

/-- The five kinds of genkey (R389). -/
def twinGenkey (u : UCtx) (d a b : BitVec 8) (s : State) : Result :=
  if b = 0 then opGenkeyKey u (lo7 a) s
  else if b = 1 then opGenkeyCtr u (lo7 a) s
  else if b = 2 then opGenkeyStrm u (lo7 a) s
  else if b = 3 then opGenkeyRdkey u (lo7 d) s
  else opGenkeyRd u (lo7 d) s

/-- The twin of a short form of the system and of the graph; bv is its operand B. -/
def twinSystem (u : UCtx) (op : UniOp) (d a b : BitVec 8) (bv : USrc) (s : State) : Result :=
  match op with
  | .sysrd => opSysrd u (lo7 d) (lo7 a ++ b) s
  | .syswr => opSyswr u (lo7 a ++ b) (lo7 d) s
  | .repack => opRepack u (lo7 d) (if b.getLsbD 7 then some (lo7 b) else none) s
  | .ilock => opIlock u (lo7 d) (lo7 a) bv s
  | .iunlock => opIunlock u (lo7 a) bv s
  | .genkey => twinGenkey u d a b s
  | .pwrhint => opPwrhint u b s
  | .spawn => opSpawn u (lo7 d) (lo7 a) (b.getLsbD 1) s
  | .twait => opTwait u (lo7 a) s
  | .steal => opSteal u (lo7 d) (lo7 a) s
  | .tileret => opTileret u s
  | .tilecur => opTilecur u (lo7 d) s
  | .tinfo => opTinfo u (lo7 d) s
  | .mfree => opMfree u s
  | .mzero => opMzero u d a s
  | _ => twinControl u op d a b s

/-- The uniform arithmetic opcodes of one source (R365). -/
def oneSource (op : UniOp) : Bool :=
  match op with
  | .snotB64 | .smovB64 | .spopcB64 | .sclzB64 => true
  | _ => false

/-- The uniform arithmetic opcodes (R365). -/
def arithOp (op : UniOp) : Bool :=
  match op with
  | .saddB64 | .ssubB64 | .smulB64 | .smulhiS64 | .smulhiN64 | .sminS64 | .sminN64 | .smaxS64 | .smaxN64 | .sandB64 => true
  | .sorB64 | .sxorB64 | .sshlB64 | .sshrN64 | .sshrS64 => true
  | _ => oneSource op

/-- UNIFORM_XF (R171, R364). -/
def execUniformXf (op : UniOp) (d a b : BitVec 8) (g : Guard) (mod : BitVec 4) (imm : Option (BitVec 15)) (s : State) : Result :=
  let u : UCtx := ⟨.uniformXf op d a b g mod imm, 8, g, mod⟩
  if arithOp op then uniArith u op (.ofBits d) (if oneSource op then none else some (.ofBits a)) (xfB b imm) s
  else twinSystem u op d a b (xfB b imm) s

end Sys2Proof.Machine
end

