-- ==== Sys2Proof/Machine/Stops.lean ====
section
/-! DEFINITION. The escalation ladder above the handler: timeouts, the stop of a rung's parties, what RESUME and ABORT do, a lost
context, and the check of a code page (chapter 17). -/

namespace Sys2Proof.Machine

/-! ## Causes on their way to the handler -/

/-- TRAP_ENTRY (R465): the pending cause of a group is taken as soon as it can be. -/
def execTrapEntry (gid : Nat) (s : State) : Result :=
  wake gid (.trapEntry gid) s fun _ =>
    match s.takeTrap gid with
    | (s1, true) => .next s1
    | (s1, false) => .next (s1.push (.trapEntry gid))

/-- GROUP_RUNG_TIMEOUT (R462): the count of a placed handler reaches GTMO. -/
def execGroupRungTimeout (gid : Nat) (s : State) : Result :=
  match s.groups.get? gid with
  | none => .next s
  | some g =>
    match s.ctxs.get? g.ctx with
    | none => .next s
    | some c =>
      if g.hnd && s.awake g && !(c.traps.gtmo == 0) && decide (g.hcount < c.traps.gtmo) then
        .next ((s.setGroup gid { g with hcount := c.traps.gtmo }).raiseUpper 1 0x0D 0 c.fn g.ctx g.team 0 0)
      else .next s

/-! ## Ending a team without its code -/

/-- The groups of a team gone with everything that waits for them; the books they held are free. -/
def State.dropGroups (s : State) (tid : Nat) : State :=
  let gids := s.groupsOf tid
  let held := s.groups.filterMap (fun e => if e.2.team = tid ∧ e.2.hnd = true then some (e.2.ctx, e.2.book) else none)
  { s with
    groups := s.groups.filter (fun e => !(e.2.team == tid))
    waits := s.waits.filter (fun w => !(w.owner.ofTeam tid gids))
    syncRecs := s.syncRecs.filter (fun r => !(gids.contains r.gid))
    queues := s.queues.map (fun q => (q.1, q.2.filter (fun k => !(k == tid))))
    ctxs := s.ctxs.map (fun c => (c.1, { c.2 with books := c.2.books.filter (fun k => !(held.contains (c.1, k))) })) }

/-- ABORT at the team rung (R474): the team ends, nothing it buffered is written, and its tile or task retires with no
release. -/
def State.abortTeam (s : State) (tid : Nat) : State :=
  match s.teams.get? tid with
  | none => s
  | some t =>
    let s1 := s.dropGroups tid
    let s2 : State := { s1 with grids := s1.grids.modify t.grid (fun g => { g with aborted := true }) }
    let t1 : Team := { t with state := .ended, sol := ⟨[], [], 0, 0⟩, mat := Matrix.empty }
    match t.origin with
    | .grid => ({ s2 with teams := s2.teams.erase tid } : State).leaveGrid tid t false
    | .tile _ _ _ _ =>
      if t.retired then ({ s2 with teams := s2.teams.erase tid } : State).leaveGrid tid t true
      else (s2.setTeam tid t1).retireTile tid t1
    | .task id =>
      if t.retired then ({ s2 with teams := s2.teams.erase tid } : State).leaveGrid tid t false
      else (s2.setTeam tid t1).retireTask tid t1 id

/-! ## A lost context -/

/-- A page wait of a context's own work. -/
def Owner.ofCtx (o : Owner) (gids tids grids books : List Nat) : Bool :=
  match o with
  | .entry g _ => gids.contains g
  | .out g _ => gids.contains g
  | .store g _ => gids.contains g
  | .fetch g => gids.contains g
  | .stash t _ => tids.contains t
  | .book g => gids.contains g
  | .matrix t _ => tids.contains t
  | .overflow b _ _ => books.contains b
  | .front _ => false
  | .launch g _ => grids.contains g

/-- The completion that a grid of a context owes when the context ends (R511). -/
def State.endCommand (s : State) (ctx : Nat) (g : Grid) : State :=
  match g.cmd with
  | none => s
  | some (fn, tag) => s.complete fn tag 0x19 ctx g.exited

/-- A command of a context that is not yet complete and can never be. -/
def Job.owes (j : Job) (ctx : Nat) : Option (Nat × Nat) :=
  match j with
  | .launch fn tag c _ => if c = ctx then some (fn, tag) else none
  | .swout fn tag c _ => if c = ctx then some (fn, tag) else none
  | .swin fn tag c => if c = ctx then some (fn, tag) else none
  | .ctxend _ _ _ _ => none
  | .vacate _ _ _ _ => none
  | .partset _ _ _ => none
  | .wswrite _ _ => none
  | .lnksvc _ _ _ => none
  | .partmem _ _ => none
  | .answer _ _ _ _ => none

/-- A context is lost (R474, R479, R506): its playbills are dropped (R424), its teams and saved state discarded, the LAUNCH
commands of its grids complete with STATUS 0x19, its other commands with STATUS 0x12. A stop of its own that is not yet reported
stays until it is. -/
def State.loseCtx (s : State) (ctx : Nat) : State :=
  match s.ctxs.get? ctx with
  | none => s
  | some c =>
    let gids := (s.groups.filter (fun e => e.2.ctx == ctx)).map (fun e => e.1)
    let tids := (s.teams.filter (fun e => e.2.ctx == ctx)).map (fun e => e.1)
    let grids := s.grids.filter (fun e => e.2.ctx == ctx)
    let gridIds := grids.map (fun e => e.1)
    let books := (s.books.filter (fun e => e.2.ctx == ctx)).map (fun e => e.1)
    let owed := s.jobs.filter (fun j => (j.2.owes ctx).isSome)
    let s1 : State := { s with
      ctxs := s.ctxs.set ctx { c with state := .lost, books := [], ring := [], locked := [], saves := [] }
      groups := s.groups.filter (fun e => !(e.2.ctx == ctx))
      teams := s.teams.filter (fun e => !(e.2.ctx == ctx))
      grids := s.grids.filter (fun e => !(e.2.ctx == ctx))
      queues := s.queues.map (fun q => (q.1, q.2.filter (fun k => !(tids.contains k))))
      deques := s.deques.map (fun q => (q.1, q.2.filter (fun r => !(gridIds.contains r.1))))
      syncRecs := s.syncRecs.filter (fun r => !(gids.contains r.gid))
      waits := s.waits.filter (fun w => !(w.owner.ofCtx gids tids gridIds books))
      stops := s.stops.filter (fun e => !(decide (e.2.rung ≤ 2) && e.2.ctx == ctx && e.2.delivered))
      jobs := s.jobs.filter (fun j => !((j.2.owes ctx).isSome)) }
    let s2 := grids.foldl (fun s e => s.endCommand ctx e.2) (books.foldl State.unbind s1)
    owed.foldl (fun s j => match j.2.owes ctx with
      | some (fn, tag) => s.complete fn tag 0x12 ctx 0
      | none => s) s2

/-- A refused restore loses its context (R479). -/
def runLose (ctx : Nat) (s : State) : Result := .next (s.loseCtx ctx)

/-- Every context is lost (R462, R506). -/
def State.loseAll (s : State) (f : Ctx → Bool) : State :=
  (s.ctxs.filter (fun e => f e.2)).foldl (fun s e => s.loseCtx e.1) s

/-! ## The upper rungs -/

/-- The timeout of a stop's rung; 0 for no limit (R461, R462, R509). -/
def State.rungTimeout (s : State) (st : Stop) : Nat :=
  let traps : Nat × Nat := match s.ctxs.get? st.ctx with
    | some c => (c.traps.ttmo, c.traps.ctmo)
    | none => (0, 0)
  if st.rung = 1 then traps.1 else if st.rung = 2 then traps.2 else if st.rung = 3 then s.vectors.ptmo else s.vectors.dtmo

/-- UPPER_RUNG_TIMEOUT (R462): the host has not answered a delivered event in time; at the device rung every context is lost and the
module accepts only a reset of the physical function. -/
def execUpperRungTimeout (stop : Nat) (s : State) : Result :=
  match s.stops.get? stop with
  | none => .next s
  | some st =>
    if !st.delivered || s.rungTimeout st == 0 then .next s
    else if st.rung < 4 then .next (s.raiseUpper (st.rung + 1) 0x0D 0 st.fn st.ctx st.team 0 0)
    else .next { s.loseAll (fun _ => true) with dead := true }

/-- The running contexts that a stop at the context rung or above holds, which are switched out (R473). -/
def State.heldBy (s : State) (st : Stop) : List Nat :=
  if st.rung = 1 then [] else (s.ctxs.filter (fun e => e.2.state == .running && st.holds e.2.fn e.1 0)).map (fun e => e.1)

/-- The cores that some contexts leave: those on which a team of theirs stands or that hold a record of theirs (R434, R436). -/
def State.coresLeft (s : State) (l : List Nat) : List Nat :=
  (List.range 192).filter (fun n =>
    s.teams.any (fun e => e.2.state == .running && l.contains e.2.ctx && e.2.die == n / 48 && e.2.cores.contains (n % 48)) ||
      (s.dequeAt n).any (fun r => (s.grids.get? r.1).any (fun g => l.contains g.ctx)))

/-- Contexts saved (R475): their teams, and their deque records to their overflow rings (R434). -/
def State.switchOutAll (s : State) (l : List Nat) : State :=
  let s1 := (s.saveTeams (fun t => l.contains t.ctx)).spillDeques (s.coresLeft l) (fun c => l.contains c)
  { s1 with ctxs := s1.ctxs.map (fun e => if l.contains e.1 then (e.1, { e.2 with state := .switchedOut }) else e) }

/-- The parties of a stop are saved (R473): a team by itself, or whole contexts. -/
def State.saveParties (s : State) (st : Stop) : State :=
  if st.rung = 1 then
    (match s.teams.get? st.team with
     | some t => if t.state = .running then (s.saveTeam st.team .queued).requeueTeam t.die st.team else s
     | none => s)
  else s.switchOutAll (s.heldBy st)

/-- The parties of a stop may be saved now (R473, R485, R519). -/
def State.partiesSavable (s : State) (st : Stop) : Bool :=
  s.allSavable (fun tid t => if st.rung = 1 then tid == st.team else (s.heldBy st).contains t.ctx)

/-- Where the record of a stop comes from (R515): the die of its team, or Protrum. -/
def State.stopSource (s : State) (st : Stop) : Nat :=
  if st.rung ≤ 2 then
    (match s.teams.get? st.team with
     | some t => t.die
     | none => protrum)
  else protrum

/-- UPPER_RUNG_STOP (R460, R473): the parties are saved as soon as they may be, and the event is on its way to the host: to the context's function at the
team and context rungs, to the physical function above. -/
def execUpperRungStop (stop : Nat) (s : State) : Result :=
  match s.stops.get? stop with
  | none => .next s
  | some st =>
    if st.stopped then .next s
    else if !(s.partiesSavable st) then .next (s.push (.upperRungStop stop))
    else
      let s1 := s.saveParties st
      let pasid := match s.ctxs.get? st.ctx with
        | some c => c.pasid
        | none => 0
      let num := match s.teams.get? st.team with
        | some t => t.num
        | none => 0xFFFFFFFF
      let s2 : State := { s1 with stops := s1.stops.set stop { st with stopped := true, held := s.heldBy st } }
      .next (s2.sendMsg ⟨s.stopSource st, protrum, .mgt, .eventArrive (if st.rung ≤ 2 then st.fn else 0) stop (st.record pasid num)⟩)

/-- After RESUME a restored group takes its replay queue up again before it issues (R474). -/
def runResume (gid : Nat) (s : State) : Result :=
  wake gid (.resume gid) s fun g =>
    .next (s.reenterAll gid (g.entries.filter (fun e => !e.book && (e.state == .waiting || e.state == .faulted))))

/-- The groups that a stop holds, to be resumed. -/
def State.resumeParties (s : State) (st : Stop) : State :=
  let l := (s.groups.filter (fun e => st.holds (s.fnOf e.2) e.2.ctx e.2.team)).map (fun e => e.1)
  ((l.foldl (fun s g => s.push (.resume g)) s).offerTasks)

/-! ## Code pages -/

/-- The digest that the page-hash table gives a page: none if no code section of the image holds it (R481). -/
def pageDigest (im : Image) (page : Nat) : Option (BitVec 256) :=
  let va := page * 4096
  match (im.sects.zip im.bases).find? (fun x => x.1.kind == 0 && decide (va57 x.2 ≤ va) && decide (va < va57 x.2 + x.1.size)) with
  | none => none
  | some (x, base) => im.digests[x.hashIdx + (va - va57 base) / 4096]?

/-- The groups of a core that wait for a page. -/
def State.fetchers (s : State) (die core fn pasid page : Nat) : List (Nat × Group) :=
  s.groups.filter (fun e => e.2.wait == .fetch && e.2.die == die && e.2.core == core && s.fnOf e.2 == fn && s.pasidOf e.2 == pasid &&
    (match e.2.run with
     | some (pc, _) => s.fetch e.1 e.2 pc == .missing page
     | none => false))

/-- The page's bytes, read for a fetch (R79); its lines are obtained from the host (R32, R39). -/
def State.readPage (s : State) (o : Owner) (die core fn pasid page : Nat) : Fetched (List Byte) :=
  let s0 : State := { s with waits := s.waits.filter (fun w => !(w.owner == o) || w.page == page) }
  let s1 := s0.needPages o die core fn pasid .fetch [page]
  match s1.standing o with
  | .refused c x => .fail (s1.dropWaits o) c x
  | .waiting => .wait s1
  | .ready =>
    match s1.hpaOf o die core fn pasid (page * 4096) .fetch with
    | none => .wait s1
    | some hpa =>
      match s1.locAt die hpa with
      | .wait => .wait s1
      | .fails c => .fail (s1.dropWaits o) c false
      | .at l =>
        if s1.poisoned l 4096 then .fail ((s1.countBad l 4096).dropWaits o) 0x0B false
        else .ok ((s1.obtainAt l 4096).dropWaits o) (s1.bytesAt l 4096)

/-- A fill has ended: the groups of the core that wait for a fetch make it again (R79, R162). -/
def State.endFetch (s : State) (die core fn pasid : Nat) : State :=
  { s with groups := s.groups.map (fun e =>
      if e.2.wait = .fetch ∧ e.2.die = die ∧ e.2.core = core ∧ s.fnOf e.2 = fn ∧ s.pasidOf e.2 = pasid then (e.1, { e.2 with wait := .none }) else e) }

/-- A page taken by the core, its digest checked unless the core has checked it already under this translation (R481, R482). One that went untranslated
has none: it is checked each time, and serves each waiting group's fetch once (R67). -/
def State.takePage (s : State) (g : Group) (page : Nat) (b : List Byte) (direct : Bool) (waiting : List Nat) (a : Act) : State :=
  let (fn, pasid) := (s.fnOf g, s.pasidOf g)
  let va := BitVec.ofNat 64 (page * 4096)
  let good := match s.teams.get? g.team with
    | some t => pageDigest t.image page == some (Config.sm3 b)
    | none => false
  if !direct && (s.codePage? g.die g.core fn pasid page).any (fun c => !c.direct) then s.endFetch g.die g.core fn pasid
  else if !good then (s.raiseUpper 2 0x08 0 fn g.ctx g.team (match g.run with
    | some (pc, _) => pc
    | none => 0) va).push a
  else
    ({ s with codePages := ⟨g.die, g.core, fn, pasid, page, Memory.write [] 0 b, direct, if direct then waiting else []⟩ ::
        s.codePages.filter (fun c => !(c.die == g.die && c.core == g.core && c.fn == fn && c.pasid == pasid && c.page == page)) } : State).endFetch
      g.die g.core fn pasid

/-- CODE_PAGE_FILL (R79, R481, R482): the page is fetched whole and its digest checked before any of it is taken; a mismatch raises
cause 0x08 at the context rung. A fill that no group waits for any more ends. -/
def execCodePageFill (die core fn pasid page : Nat) (s : State) : Result :=
  let a : Act := .codePageFill die core fn pasid page
  match s.fetchers die core fn pasid page with
  | [] => .next (s.endFetch die core fn pasid)
  | l =>
    match l.find? (fun e => s.awake e.2) with
    | none => .next (s.push a)
    | some (gid, g) =>
      let va := BitVec.ofNat 64 (page * 4096)
      match s.readPage (.fetch gid) die core fn pasid page, g.run with
      | .wait s1, _ => .next (s1.push a)
      | .fail s1 _ _, none => .next s1
      | .fail s1 c ctx?, some (pc, run) =>
        if ctx? then .next ((s1.raiseUpper 2 c 0 fn g.ctx g.team pc va).push a)
        else .next ((s1.raise gid ⟨c, 0, pc, true, run, 0, 0, [], if pageOf pc.toNat = page then pc else va⟩).push a)
      | .ok s1 b, _ =>
        .next (s1.takePage g page b (match s.waitFor (.fetch gid) page with
          | some w => w.phase == .untranslated
          | none => false) (l.map (fun e => e.1)) a)

end Sys2Proof.Machine
end

