-- ==== Sys2Proof/Machine/Context.lean ====
section
/-! DEFINITION. Contexts: making, ending, switching in and out, launching a grid, and the host's answers (R334, R335, R438 to R447,
R461, R473 to R479, R509 to R512, R552). -/

namespace Sys2Proof.Machine

/-- The firmware runs and takes commands (R462, R538). -/
def State.serving (s : State) : Bool := s.boot.started && s.boot.state == 1 && !s.dead

/-- A host write that puts a non-zero value in an RSV field is ignored whole, and sets ERR of the function to 0 (R42, R507). -/
def State.rsvWrite (s : State) (fn : Nat) : State :=
  { s with bias := s.bias.set fn { (s.bias.getD fn BiasRegs.reset) with err := 0 } }

/-! ## The frame of a command -/

/-- A command that only the physical function may give (R509). -/
def pfCommand (fn : Nat) (cmd : Command) (s : State) (k : Result) : Result :=
  if !s.serving then .next s
  else if !(fn == 0) then .next (s.complete fn cmd.tag 0x11 cmd.ctx 0)
  else k

/-- A command that names a context (R509, R511); ended: it may name a lost one. -/
def ctxCommand (fn : Nat) (cmd : Command) (ended : Bool) (s : State) (k : Ctx → Result) : Result :=
  if !s.serving then .next s
  else
    match s.ctxs.get? cmd.ctx with
    | none => .next (s.complete fn cmd.tag 0x12 cmd.ctx 0)
    | some c =>
      if !(fn == 0) && !(c.fn == fn) then .next (s.complete fn cmd.tag 0x11 cmd.ctx 0)
      else if c.state == .lost && !ended then .next (s.complete fn cmd.tag 0x12 cmd.ctx 0)
      else k c

/-- A command that goes on after its intake. -/
def State.addJob (s : State) (j : Job) : State :=
  ({ s with jobs := s.jobs.set s.nextId j, nextId := s.nextId + 1 } : State).push (.job s.nextId)

/-- A job of Protrum sends its control message to some dies (R515). -/
def State.sendControl (s : State) (k : Nat) (dies : List Nat) : State :=
  dies.foldl (fun s d => s.sendMsg ⟨protrum, d, .mgt, .control k d⟩) s

/-- A die has the control message of its job. -/
def Job.heard (j : Job) (die : Nat) : Job :=
  let left (l : List Nat) : List Nat := l.filter (fun d => !(d == die))
  match j with
  | .vacate fn tag mask l => .vacate fn tag mask (left l)
  | .swout fn tag ctx l => .swout fn tag ctx (left l)
  | .ctxend fn tag ctx l => .ctxend fn tag ctx (left l)
  | .partset tag vf mask => .partset tag vf mask
  | .wswrite tag units => .wswrite tag units
  | .launch fn tag ctx addr => .launch fn tag ctx addr
  | .swin fn tag ctx => .swin fn tag ctx
  | .lnksvc tag link m => .lnksvc tag link m
  | .partmem tag l => .partmem tag l
  | .answer fn tag ctx l => .answer fn tag ctx l

/-- A control message has come to its die (R515). -/
def runControl (k die : Nat) (s : State) : Result :=
  arrive (.control k die) s fun s1 => .next { s1 with jobs := s1.jobs.modify k (fun j => j.heard die) }

/-- A job's end. -/
def State.endJob (s : State) (k fn tag status ctx r0 : Nat) : State :=
  ({ s with jobs := s.jobs.erase k } : State).complete fn tag status ctx r0

/-! ## The tables read at a switch-in -/

/-- An entry of the region binding table (R334): absent, refused, or a binding. -/
def bindingOf (b : List Byte) : Option (Option Binding) :=
  let base := leField b 0 8
  let limit := leField b 8 8
  let obj := leField b 0x10 8
  let ctl := leField b 0x18 1
  if !(bit ctl 0) then some none
  else
    let layer := bit ctl 1
    let ok := base % 256 == 0 && limit % 256 == 0 && decide (base < limit) && canonical obj && obj % 64 == 0 && decide (ctl < 4) &&
      leField b 0x19 7 == 0 && (if layer then decide (base < 2 ^ 32) && decide (limit < 2 ^ 33) else canonical base)
    if ok then some (some ⟨base, limit, obj, layer⟩) else none

/-- No two bindings of one space overlap (R335). -/
def bindingsApart : List Binding → Bool
  | [] => true
  | b :: r => r.all (fun x => !(x.layer == b.layer) || decide (x.limit ≤ b.base) || decide (b.limit ≤ x.base)) && bindingsApart r

/-- The first n records of m bytes each. -/
def recordsOf (m : Nat) : Nat → List Byte → List (List Byte)
  | 0, _ => []
  | n + 1, b => b.take m :: recordsOf m n (b.drop m)

/-- A region binding table (R334, R335). -/
def bindTabOf (b : List Byte) : Option (List Binding) :=
  let l := (recordsOf 32 256 b).map bindingOf
  if l.all Option.isSome then
    let bs := (l.filterMap id).filterMap id
    if bindingsApart bs then some bs else none
  else none

/-- A trap table (R461, R510). -/
def trapTabOf (b : List Byte) : Option TrapTable :=
  let gvec := leField b 0x00 8
  let pbva := leField b 0x08 8
  let pbn := leField b 0x10 4
  let key := leField b 0x28 8
  if canonical gvec && gvec % 4 == 0 && canonical pbva && pbva % 0x20000 == 0 && decide (pbn ≤ 65536) && (gvec == 0 || decide (1 ≤ pbn)) &&
      decide (leField b 0x18 2 ≤ 63) && decide (leField b 0x1A 2 ≤ 63) && leField b 0x1C 4 == 0 && canonical key && key % 64 == 0 &&
      !(key == 0) && leField b 0x30 16 == 0 then
    some ⟨gvec, pbva, pbn, leField b 0x14 4, leField b 0x18 2, leField b 0x1A 2, leField b 0x20 4, leField b 0x24 4, key⟩
  else none

/-- Bytes of graphics DRAM that the device reads directly by their DPA (R334, R477): every line of them must be there. -/
def State.dramRead (s : State) (dpa n : Nat) : Fetched (List Byte) :=
  let lines := (List.range ((n + 255) / 256)).map (fun k => s.access protrum (.dram (dpa + 256 * k)))
  if dramBytes < dpa + n then .fail s 0x04 false
  else if lines.contains .broken then .fail s 0x0B false
  else if lines.contains .wait then .wait s
  else if s.poisoned (.dram dpa) n then .fail (s.countBad (.dram dpa) n) 0x0B false
  else .ok s (s.bytesAt (.dram dpa) n)

/-- A switch-in's reading of both tables (R335, R461). A table that cannot be read is invalid (log 34). -/
def State.readTables (s : State) (k : Nat) (c : Ctx) : Fetched (List Binding × TrapTable) :=
  let o : Owner := .front k
  if !(c.bindTab % 8192 == 0) || !(c.trapTab % 64 == 0) then .fail s 0x16 false
  else
    match s.dramRead c.bindTab 8192 with
    | .wait s1 => .wait s1
    | .fail s1 _ _ => .fail s1 0x16 false
    | .ok s1 b =>
      match bindTabOf b, frontRead o c.fn c.pasid s1 c.trapTab 64 with
      | none, _ => .fail (s1.dropWaits o) 0x16 false
      | some _, .wait s2 => .wait s2
      | some _, .fail s2 _ _ => .fail (s2.dropWaits o) 0x16 false
      | some bs, .ok s2 t =>
        match trapTabOf t with
        | none => .fail (s2.dropWaits o) 0x16 false
        | some tt => .ok (s2.dropWaits o) (bs, tt)

/-- The queues of every die and the records looked at again. -/
def State.rouse (s : State) : State := ((List.range 4).foldl (fun s d => s.push (.gangStart d)) s).offerTasks

/-- A context switched in with its tables (R335, R461, R476). -/
def State.switchIn (s : State) (ctx : Nat) (c : Ctx) (t : List Binding × TrapTable) : State :=
  (s.setCtx ctx { c with state := .running, binds := t.1, traps := t.2 }).rouse

/-! ## CTXNEW and CTXEND -/

/-- Quads assigned to a partition or on their way into it (R552, R90). -/
def State.quadCount (s : State) (fn : Nat) : Nat :=
  if fn = 0 then 0
  else
    (s.quadOwner.filter (fun e => e.2 == fn)).length +
      (s.jobs.map (fun j => match j.2 with
        | .partset _ vf mask => if vf = fn then popcount mask 48 else 0
        | _ => 0)).foldl (· + ·) 0

/-- The blocks that a save area needs (R552). -/
def saveNeed (q : Nat) : Nat := 256 + 4608 * q

/-- A context record (R510); none if it is invalid. -/
def ctxRecordOf (fn : Nat) (b : List Byte) : Option Ctx :=
  let pasid := leField b 0x00 4
  let blocks := leField b 0x04 4
  let defobj := leField b 0x10 8
  let save := leField b 0x20 8
  let ovf := leField b 0x28 8
  let recs := leField b 0x30 4
  if pasid < 2 ^ 20 ∧ canonical defobj = true ∧ defobj % 64 = 0 ∧ save % 4096 = 0 ∧ save + 4096 * blocks ≤ dramBytes ∧ canonical ovf = true ∧
      ovf % 4096 = 0 ∧ 32 ≤ recs ∧ recs ≤ 2 ^ 24 ∧ recs % 32 = 0 ∧ leField b 0x34 12 = 0 then
    some ⟨fn, pasid, .fresh, leField b 0x08 8, defobj, leField b 0x18 8, save, blocks, ovf, recs, [], ⟨0, 0, 0, 0, 0, 0, 0, 0, 0⟩, [], 0, [],
      [], [], 0⟩
  else none

/-- CTXNEW (R510, R552): the lowest free id of 1 to 1,024; it waits while its record cannot be read yet. -/
def execCtxnew (fn : Nat) (cmd : Command) (s : State) : Result :=
  if !s.serving then .next s
  else
    match s.ioRead fn cmd.arg0.toNat 64 with
    | .wait => .next s
    | .fail s1 => .next (s1.complete fn cmd.tag 0x16 cmd.ctx 0)
    | .ok s1 b =>
      match ctxRecordOf fn b with
      | none => .next (s1.complete fn cmd.tag 0x16 cmd.ctx 0)
      | some c =>
        let need := saveNeed (s1.quadCount fn)
        match (List.range 1024).find? (fun k => (s1.ctxs.get? (k + 1)).isNone) with
        | none => .next (s1.complete fn cmd.tag 0x13 cmd.ctx need)
        | some k =>
          if c.saveSize < need then .next (s1.complete fn cmd.tag 0x13 cmd.ctx need)
          else .next ((s1.setCtx (k + 1) c).complete fn cmd.tag 0 cmd.ctx (k + 1))

/-- A context freed (R509, R424): its grids, playbills and stops end with it, and its id may be used again. -/
def State.freeCtx (s : State) (ctx : Nat) : State :=
  let s1 := s.loseCtx ctx
  { s1 with ctxs := s1.ctxs.erase ctx, stops := s1.stops.filter (fun e => !(decide (e.2.rung ≤ 2) && e.2.ctx == ctx)) }

/-- CTXEND (R509, R424): a context that is switched in is switched out first, as a job; then it is freed. -/
def execCtxend (fn : Nat) (cmd : Command) (s : State) : Result :=
  ctxCommand fn cmd true s fun c =>
    if c.state = .running then .next ((s.addJob (.ctxend fn cmd.tag cmd.ctx (s.diesOf c.fn))).sendControl s.nextId (s.diesOf c.fn))
    else .next ((s.freeCtx cmd.ctx).complete fn cmd.tag 0 cmd.ctx 0)

/-! ## Switching out and in -/

/-- SWOUT (R475): it goes on as a job; a context that is not switched in is left as it is. -/
def execSwout (fn : Nat) (cmd : Command) (s : State) : Result :=
  ctxCommand fn cmd false s fun c =>
    if c.state = .running then .next ((s.addJob (.swout fn cmd.tag cmd.ctx (s.diesOf c.fn))).sendControl s.nextId (s.diesOf c.fn))
    else .next (s.complete fn cmd.tag 0 cmd.ctx 0)

/-- A switch-out may take place now: its messages have come to the dies, whose answers can come back, and every team may be saved (R475, R485, R515). -/
def State.mayLeave (s : State) (ctx : Nat) (c : Ctx) (dies : List Nat) : Bool :=
  dies == [] && (s.diesOf c.fn).all (fun d => s.reach protrum d) && s.allSavable (fun _ t => t.ctx == ctx)

/-- A SWOUT goes on (R475). -/
def runSwout (k fn tag ctx : Nat) (dies : List Nat) (s : State) : Result :=
  match s.ctxs.get? ctx with
  | none => .next (s.endJob k fn tag 0x12 ctx 0)
  | some c =>
    if c.state ≠ .running then .next (s.endJob k fn tag 0 ctx 0)
    else if s.mayLeave ctx c dies then .next ((s.switchOutAll [ctx]).endJob k fn tag 0 ctx 0)
    else .next (s.push (.job k))

/-- A CTXEND goes on (R509). -/
def runCtxend (k fn tag ctx : Nat) (dies : List Nat) (s : State) : Result :=
  match s.ctxs.get? ctx with
  | none => .next (s.endJob k fn tag 0x12 ctx 0)
  | some c =>
    if c.state ≠ .running then .next ((s.freeCtx ctx).endJob k fn tag 0 ctx 0)
    else if s.mayLeave ctx c dies then .next (((s.switchOutAll [ctx]).freeCtx ctx).endJob k fn tag 0 ctx 0)
    else .next (s.push (.job k))

/-- SWIN (R476): it goes on as a job until the context's groups are eligible. -/
def execSwin (fn : Nat) (cmd : Command) (s : State) : Result :=
  ctxCommand fn cmd false s fun c =>
    if c.state = .running then .next (s.complete fn cmd.tag 0 cmd.ctx 0)
    else .next (s.addJob (.swin fn cmd.tag cmd.ctx))

/-- A saved team that a switch-in has still to place (R476). -/
def State.unrestored (s : State) (ctx : Nat) : Bool := s.teams.any (fun e => e.2.ctx == ctx && e.2.saved && s.eligible e.1)

/-- A switch-in goes on: the tables are read, the save area is checked (R479), then its teams are placed. -/
def runSwin (k fn tag ctx : Nat) (s : State) : Result :=
  match s.ctxs.get? ctx with
  | none => .next (s.endJob k fn tag 0x12 ctx 0)
  | some c =>
    if c.state = .running then
      .next (if s.unrestored ctx then s.push (.job k) else s.endJob k fn tag 0 ctx 0)
    else
      match s.readTables k c with
      | .wait s1 => .next (s1.push (.job k))
      | .fail s1 status _ => .next (s1.endJob k fn tag status ctx 0)
      | .ok s1 t =>
        if s1.saveWaits protrum ctx (fun _ => true) then .next (s1.push (.job k))
        else
        match s1.saveCause protrum ctx (fun _ => true) with
        | some cause => .next ((s1.countSaved protrum ctx (fun _ => true)).refuseRestore ctx cause)
        | none => .next ((s1.switchIn ctx c t).push (.job k))

/-! ## LAUNCH -/

/-- LAUNCH (R442, R512): its record is read in the order of the context's LAUNCH commands. -/
def execLaunch (fn : Nat) (cmd : Command) (s : State) : Result :=
  ctxCommand fn cmd false s fun _ => .next (s.addJob (.launch fn cmd.tag cmd.ctx cmd.arg0.toNat))

/-- An earlier LAUNCH of the context is not yet placed in its queues (R512). -/
def State.earlierLaunch (s : State) (k ctx : Nat) : Bool :=
  s.jobs.any (fun j => decide (j.1 < k) && (match j.2 with
    | .launch _ _ c _ => c == ctx
    | _ => false))

/-- The teams of a host grid put in their dies' queues (R447): team t on the (t mod n)-th die. -/
def State.startGrid (s : State) (fn tag ctx : Nat) (lr : LaunchRec) (dies : List Nat) : State :=
  let gid := s.nextId
  let ids := (List.range lr.teams).map (fun t => (t, gid + 1 + t, dies.getD (t % dies.length) 0))
  let g : Grid := ⟨ctx, lr, none, dies.headD 0, false, 0, false, some (fn, tag), 0, [], [], ids.map (fun x => x.2.1), false⟩
  let s1 : State := { s with nextId := gid + 1 + lr.teams, grids := s.grids.set gid g }
  ids.foldl (fun s x => (s.setTeam x.2.1 (newTeam ctx gid x.1 .grid x.2.2 lr.image)).enqueueTeam x.2.2 x.2.1) s1

/-- A launch goes on: a new context is switched in, then the record is checked (R442) and the grid queued (R447). One that the physical function
gives is refused with code 7 (R509). -/
def runLaunch (k fn tag ctx addr : Nat) (s : State) : Result :=
  match s.ctxs.get? ctx with
  | none => .next (s.endJob k fn tag 0x12 ctx 0)
  | some c =>
    if s.earlierLaunch k ctx then .next (s.push (.job k))
    else if c.state = .fresh then
      (match s.readTables k c with
       | .wait s1 => .next (s1.push (.job k))
       | .fail s1 status _ => .next (s1.endJob k fn tag status ctx 0)
       | .ok s1 t => .next ((s1.switchIn ctx c t).push (.job k)))
    else
      match readLaunch (frontRead (.front k) c.fn c.pasid) c.traps.keyAddr .host s addr with
      | .wait s1 => .next (s1.push (.job k))
      | .no s1 (.report code _ _ _ _) => .next ((s1.dropWaits (.front k)).endJob k fn tag code ctx 0)
      | .no s1 (.cause _ _) => .next ((s1.dropWaits (.front k)).endJob k fn tag 1 ctx 0)
      | .ok s1 lr =>
        let s2 := s1.dropWaits (.front k)
        match (if fn = 0 then [] else s2.gridDies c.fn lr.dieMask) with
        | [] => .next (s2.endJob k fn tag 7 ctx 0)
        | dies => .next (({ s2 with jobs := s2.jobs.erase k } : State).startGrid fn tag ctx lr dies)

/-! ## ANSWER -/

/-- The stop that an ANSWER names (R474, R509): by team or context at the rungs of a context, by the context's partition or any at
the rungs above. -/
def State.stopNamed (s : State) (cmd : Command) : Option (Nat × Stop) :=
  let rung := cmd.arg1.toNat
  let num (t : Nat) : Nat := match s.teams.get? t with
    | some x => x.num
    | none => 0xFFFFFFFF
  s.stops.find? (fun e => e.2.rung == rung && e.2.stopped &&
    (if rung = 1 then e.2.ctx == cmd.ctx && num e.2.team == cmd.arg2.toNat
     else if rung = 2 then e.2.ctx == cmd.ctx
     else if rung = 3 then cmd.ctx == 0 || s.ctxFn cmd.ctx == e.2.fn
     else true))

/-- ABORT (R474): the team ends, or the contexts are lost. -/
def State.abortStop (s : State) (st : Stop) : State :=
  if st.rung = 1 then s.abortTeam st.team
  else if st.rung = 2 then s.loseCtx st.ctx
  else if st.rung = 3 then s.loseAll (fun c => c.fn == st.fn)
  else s.loseAll (fun _ => true)

/-- An answer applied (R474). A RESUME restores the contexts that the stop switched out, as switch-ins do, before it completes. -/
def State.answerStop (s : State) (fn : Nat) (cmd : Command) : State :=
  match s.stopNamed cmd with
  | none => s.complete fn cmd.tag 0x18 cmd.ctx 0
  | some (k, st) =>
    let s1 : State := { s with stops := s.stops.erase k }
    if cmd.arg0 = 0 then ((s1.resumeParties st).rouse).addJob (.answer fn cmd.tag cmd.ctx st.held)
    else (s1.abortStop st).complete fn cmd.tag 0 cmd.ctx 0

/-- A RESUME goes on: each context's tables are read again (R335, R461) and its save area is checked (R479). A table that is invalid leaves the
context switched out, and the ANSWER completes with STATUS 0x16 (log 89). -/
def runAnswer (k fn tag ctx : Nat) (restore : List Nat) (s : State) : Result :=
  match restore with
  | [] => .next (s.endJob k fn tag 0 ctx 0)
  | x :: r =>
    let rest (s : State) : State := ({ s with jobs := s.jobs.set k (.answer fn tag ctx r) } : State).push (.job k)
    match s.ctxs.get? x with
    | none => .next (rest s)
    | some c =>
      if c.state ≠ .switchedOut then .next (rest s)
      else
        match s.readTables k c with
        | .wait s1 => .next (s1.push (.job k))
        | .fail s1 status _ => .next (s1.endJob k fn tag status ctx 0)
        | .ok s1 t =>
          if s1.saveWaits protrum x (fun _ => true) then .next (s1.push (.job k))
          else
          match s1.saveCause protrum x (fun _ => true) with
          | some cause => .next (rest ((s1.countSaved protrum x (fun _ => true)).refuseRestore x cause))
          | none => .next (rest (s1.switchIn x c t))

/-- ANSWER (R474, R509, R511): the physical function answers the partition and device rungs. -/
def execAnswer (fn : Nat) (cmd : Command) (s : State) : Result :=
  if !s.serving then .next s
  else if 1 < cmd.arg0.toNat then .next (s.complete fn cmd.tag 0x10 cmd.ctx 0)
  else if 3 ≤ cmd.arg1.toNat then
    pfCommand fn cmd s (.next (s.answerStop fn cmd))
  else ctxCommand fn cmd false s fun _ => .next (s.answerStop fn cmd)

end Sys2Proof.Machine
end

