-- ==== Sys2Proof/Machine/Links.lean ====
section
/-! DEFINITION. The die links: flits, the link registers, training, and the service routine (R514 to R526). -/

namespace Sys2Proof.Machine

/-- An end's registers changed; what its module can no longer carry goes to the others. -/
def State.putEnd (s : State) (link side m : Nat) (e : LinkEnd) : State :=
  let s1 : State := { s with linkEnds := s.linkEnds.set (endReg link side m) e }
  let ups := s1.modulesUp link
  { s1 with linkDirs := s1.linkDirs.map (fun d => if d.1 / 2 = link then (d.1, d.2.redeal ups) else d) }

/-! ## Flits -/

/-- LINK_FLIT_RECEIVE (R515, R517): the next flit of a direction, dealt over the active modules in turn, arrives at its receiver. A good
one is delivered in sequence order, and its message goes on or has arrived; one with a CRC error is counted and asked for again. -/
def execLinkFlitReceive (link dir : Nat) (crcOk : Bool) (s : State) : Result :=
  let ups := s.modulesUp link
  if !(endExists link dir 0) || ups == [] then .next s
  else
    let d := (s.linkDir link dir).loaded ups
    match d.flits with
    | [] => .next s
    | f :: r =>
      if crcOk then
        let s1 : State := { s with linkDirs := s.linkDirs.set (dirKey link dir) { d with delivered := f.seq + 1, flits := r } }
        match f.msg with
        | none => .next s1
        | some m => .next (s1.sendFrom (dirEnd link dir) m)
      else
        let e := s.linkEnd link (1 - dir) f.m
        let s1 : State := { s with linkDirs := s.linkDirs.set (dirKey link dir) d }
        .next (s1.putEnd link (1 - dir) f.m { e with crcErr := satInc e.crcErr, retries := satInc e.retries })

/-- A direction with messages goes on carrying them; they wait while no module carries traffic (R519). -/
def runLinkFlit (link dir : Nat) (s : State) : Result :=
  let d := s.linkDir link dir
  if d.queue == [] && d.flits == [] then .next s
  else if s.modulesUp link = [] then .next (s.push (.linkFlit link dir))
  else execLinkFlitReceive link dir true (s.push (.linkFlit link dir))

/-! ## The control bits (R519) -/

/-- A write of PAUSE, OFF, TEST and WIDTH of LNK_CTL. -/
def LinkEnd.control (e : LinkEnd) (pause off test : Bool) (width : Nat) : LinkEnd :=
  let st := if off then 4 else if e.state = 4 then 0 else e.state
  { e with
    pause := pause, off := off, test := test, ctlWidth := width
    state := if pause ∧ st = 2 then 3 else if !pause ∧ st = 3 then 2 else st }

/-- A write of some control bits at one end, the others kept. -/
def State.controlEnd (s : State) (link side m : Nat) (pause off : Option Bool) : State :=
  let e := s.linkEnd link side m
  s.putEnd link side m (e.control (pause.getD e.pause) (off.getD e.off) e.test e.ctlWidth)

/-- An end begins to train (R519, R521): with its own lane maps, and the WIDTH and the TEST of the end w that wrote RETRAIN, as all of them
stand now. -/
def LinkEnd.trains (e w : LinkEnd) : LinkEnd :=
  { e with state := 1, trainWidth := w.ctlWidth, trainTest := w.test, trainRx := e.rxMap, trainTx := e.txMap }

/-- RETRAIN (R519): with PAUSE at both ends the module trains at both, with the WIDTH and the TEST of the end that wrote it. -/
def State.retrain (s : State) (link side m : Nat) : State :=
  let w := s.linkEnd link side m
  let e0 := s.linkEnd link 0 m
  let e1 := s.linkEnd link 1 m
  if e0.pause && e1.pause then
    (s.putEnd link 0 m (e0.trains w)).putEnd link 1 m (e1.trains w)
  else s

/-- The entries of a lane map. -/
def mapEntries (x : Nat) : List Nat := (List.range 4).map (fun n => bits x (8 * n + 7) (8 * n))

/-- The lanes that a map's valid entries move. -/
def mapLanes (x : Nat) : List Nat := ((mapEntries x).takeWhile (fun e => bit e 7)).map (fun e => e % 64)

/-- Lane numbers strictly rising. -/
def rising : List Nat → Bool
  | [] => true
  | [_] => true
  | a :: b :: r => decide (a < b) && rising (b :: r)

/-- A lane map keeps the rules of R517. -/
def mapOk (x : Nat) : Bool :=
  (mapEntries x).all (fun e => !(bit e 6)) && ((mapEntries x).drop (mapLanes x).length).all (fun e => !(bit e 7)) && rising (mapLanes x)

/-- An end after training (R517, R519). -/
def LinkEnd.trained (e : LinkEnd) (ok : Bool) (err : Nat) : LinkEnd :=
  let e1 : LinkEnd := { e with laneErr := if e.trainTest then err else e.laneErr, trainTest := false }
  if ok then { e1 with state := 3, width := e.trainWidth, spRx := (mapLanes e.trainRx).length, spTx := (mapLanes e.trainTx).length }
  else { e1 with state := 0 }

/-! ## The registers as they are read and written (R516, R517) -/

/-- A bit as a number. -/
def bitOf (b : Bool) : Nat := if b then 1 else 0

/-- LNK_STAT; WIDTH reads 3 while the module is off. -/
def LinkEnd.statWord (e : LinkEnd) : Nat := e.spRx * 2 ^ 12 + e.spTx * 2 ^ 8 + (if e.state = 4 then 3 else e.width) * 2 ^ 4 + e.state

/-- LNK_CTL; CLR and RETRAIN read 0. -/
def LinkEnd.ctlWord (e : LinkEnd) : Nat :=
  e.thresh * 2 ^ 16 + e.ctlWidth * 2 ^ 4 + bitOf e.off * 8 + bitOf e.test * 4 + bitOf e.pause

/-- Register k of an end: LNK_STAT, LNK_CTL, LNK_RETRYCNT, LNK_REMAP, LNK_LANEERR. -/
def LinkEnd.regWord (e : LinkEnd) (k : Nat) : Nat :=
  match k with
  | 0 => e.statWord
  | 1 => e.ctlWord
  | 2 => e.crcErr * 2 ^ 32 + e.retries
  | 3 => e.rxMap * 2 ^ 32 + e.txMap
  | _ => e.laneErr

/-- The end and the register k that a number names (R516); values 5 to 7 of k name none. -/
def linkRegOf (reg : Nat) : Option ((Nat × Nat × Nat) × Nat) :=
  if reg % 8 < 5 then (endOfReg (reg / 8 * 8)).map (fun e => (e, reg % 8)) else none

/-- A write of LNK_CTL (R517, R519): its fields, then CLR, then RETRAIN. -/
def State.writeLinkCtl (s : State) (link side m x : Nat) : State :=
  let e := (s.linkEnd link side m).control (bit x 0) (bit x 3) (bit x 2) (bits x 5 4)
  let e1 : LinkEnd := { e with thresh := bits x 31 16 }
  let e2 : LinkEnd := if bit x 6 then { e1 with crcErr := 0, retries := 0 } else e1
  let s1 := s.putEnd link side m e2
  if bit x 1 then s1.retrain link side m else s1

/-- A write of register k of an end by the management processor (R516, R517). RO registers ignore it; a bit set in an RSV field of LNK_CTL
leaves the register alone (log 79). -/
def State.writeLinkReg (s : State) (link side m k x : Nat) : State :=
  let e := s.linkEnd link side m
  match k with
  | 1 => if bits x 63 32 = 0 ∧ bits x 15 7 = 0 then s.writeLinkCtl link side m x else s
  | 3 => s.putEnd link side m { e with rxMap := bits x 63 32, txMap := bits x 31 0 }
  | 4 => s.putEnd link side m { e with laneErr := ((BitVec.ofNat 64 e.laneErr) &&& ~~~(BitVec.ofNat 64 x)).toNat }
  | _ => s

/-! ## The service routine -/

/-- Set bits of a failure mask, ascending. -/
def failedLanes (x : Nat) : List Nat := (List.range 64).filter (fun n => bit x n)

/-- Choose (R523): the width, and the masks within it. -/
def chooseWidth (a b : Nat) : Nat × Nat × Nat :=
  let few (x : Nat) : Bool := decide ((failedLanes x).length ≤ 4)
  if few a && few b then (0, a, b)
  else if few (bits a 31 0) && few (bits b 31 0) then (1, bits a 31 0, bits b 31 0)
  else if few (bits a 63 32) && few (bits b 63 32) then (2, bits a 63 32 * 2 ^ 32, bits b 63 32 * 2 ^ 32)
  else (3, a, b)

/-- Map (R523). -/
def laneMap (x : Nat) : Nat := ((failedLanes x).zipIdx).foldl (fun v e => v + (0x80 + e.1) * 2 ^ (8 * e.2)) 0

/-- Both ends' LNK_CTL written. -/
def State.controlBoth (s : State) (link m : Nat) (pause off test : Bool) (width : Nat) : State :=
  let s1 := s.putEnd link 0 m ((s.linkEnd link 0 m).control pause off test width)
  s1.putEnd link 1 m ((s1.linkEnd link 1 m).control pause off test width)

/-- Where the routine stands: it goes on, it waits, or it has ended with a report (R526). -/
inductive ServiceMove where
  | go (s : State) (v : Service)
  | wait
  | ends (s : State) (w remap : Nat)

/-- The Off step (R524). -/
def State.serviceOff (s : State) (v : Service) : ServiceMove := .ends (s.controlBoth v.link v.m false true false 0) 3 v.a

/-- The next piece of the routine of R524. -/
def State.serviceMove (s : State) (v : Service) : ServiceMove :=
  let e := s.linkEnd v.link 0 v.m
  let f := s.linkEnd v.link 1 v.m
  let settled := (e.state == 3 || e.state == 0) && (f.state == 3 || f.state == 0)
  let down := e.state == 0 || f.state == 0
  match v.phase with
  | 0 => .go (s.controlBoth v.link v.m true false false 0) { v with phase := 1 }
  | 1 =>
    if e.state = 3 ∧ f.state = 3 then
      .go ((s.putEnd v.link 0 v.m (e.control true false true 0)).retrain v.link 0 v.m) { v with phase := 2 }
    else .wait
  | 2 =>
    if !settled then .wait
    else if down then s.serviceOff v
    else
      match chooseWidth f.laneErr e.laneErr with
      | (3, _, _) => s.serviceOff v
      | (w, a, b) =>
        let s1 := s.putEnd v.link 0 v.m ({ (e.control true false false w) with rxMap := laneMap b, txMap := laneMap a })
        let s2 := s1.putEnd v.link 1 v.m { f with rxMap := laneMap a, txMap := laneMap b }
        .go (s2.retrain v.link 0 v.m) { v with phase := 3, width := w, a := laneMap b * 2 ^ 32 + laneMap a }
  | 3 =>
    if !settled then .wait
    else if down then s.serviceOff v
    else
      let clear (x : LinkEnd) : LinkEnd := { (x.control false false false v.width) with laneErr := 0, crcErr := 0, retries := 0 }
      .go ((s.putEnd v.link 0 v.m (clear e)).putEnd v.link 1 v.m (clear f)) { v with phase := 4 }
  | _ => if e.state = 2 ∧ f.state = 2 then .ends s v.width v.a else .wait

/-- The link report (R526). -/
def linkReport (w reg remap : Nat) : List Byte :=
  [0x20, BitVec.ofNat 8 w] ++ toBytes reg 2 ++ toBytes 0 4 ++ toBytes remap 8 ++ List.replicate 16 0

/-- A routine ends: its report is written, and the LNKSVC that asked for it completes (R509). -/
def State.endService (s : State) (v : Service) (w remap : Nat) : State :=
  let s1 := ({ s with services := s.services.erase v } : State).postEvent 0 (linkReport w (endReg v.link 0 v.m) remap) none
  match v.job with
  | none => s1
  | some k =>
    match s1.jobs.get? k with
    | some (.lnksvc tag _ _) => s1.endJob k 0 tag 0 0 w
    | _ => s1

/-- The routines of a link run one at a time, as far as they can (R522). -/
def State.serve (link : Nat) : Nat → State → State
  | 0, s => s
  | n + 1, s =>
    match s.services.find? (fun v => v.link == link) with
    | none => s
    | some v =>
      match s.serviceMove v with
      | .wait => s
      | .go s1 v1 => State.serve link n { s1 with services := s1.services.replace v v1 }
      | .ends s1 w remap => State.serve link n (s1.endService v w remap)

/-- Every link's routines run as far as they can. -/
def State.serveLink (s : State) (link : Nat) : State := s.serve link (8 * (s.services.length + 1))

/-- A routine asked for (R522). -/
def State.askService (s : State) (link m : Nat) (job : Option Nat) : State :=
  ({ s with services := s.services ++ [⟨link, m, 0, 0, 0, 0, job⟩] } : State).serveLink link

/-- LINK_SERVICE_WINDOW (R522, R523): a module whose RETRIES rose to THRESH within the window is serviced, and a new window begins; a
rise on a link whose routine runs is left to the next window. -/
def execLinkServiceWindow (s : State) : Result :=
  let exceeds (link side m : Nat) : Bool :=
    let e := s.linkEnd link side m
    decide (e.thresh ≤ e.retries - s.windowStart.getD (endReg link side m) 0)
  let due := ((List.range 8).flatMap (fun l => (List.range 4).map (fun m => (l, m)))).filter (fun x =>
    (exceeds x.1 0 x.2 || exceeds x.1 1 x.2) && !(s.services.any (fun v => v.link == x.1)))
  let s1 : State := { s with windowStart := allEnds.foldl (fun w x =>
    if s.services.any (fun v => v.link == x.1) then w else w.set (endReg x.1 x.2.1 x.2.2) (s.linkEnd x.1 x.2.1 x.2.2).retries) s.windowStart }
  .next (due.foldl (fun s x => s.askService x.1 x.2 none) s1)

/-- LINK_SERVICE_WAIT_TIMEOUT (R524): a wait of the running routine reaches its limit. -/
def execLinkServiceWaitTimeout (link m : Nat) (s : State) : Result :=
  match s.services.find? (fun v => v.link == link) with
  | none => .next s
  | some v =>
    if !(v.m == m) || v.phase == 0 then .next s
    else
      match s.serviceOff v with
      | .ends s1 w remap => .next ((s1.endService v w remap).serveLink link)
      | .go s1 _ => .next s1
      | .wait => .next s

/-- LNKSVC (R509, R524). -/
def execLnksvc (fn : Nat) (cmd : Command) (s : State) : Result :=
  pfCommand fn cmd s
    (match endOfReg cmd.arg0.toNat with
     | none => .next (s.complete fn cmd.tag 0x10 cmd.ctx 0)
     | some (link, _, m) =>
       .next (({ s with jobs := s.jobs.set s.nextId (.lnksvc cmd.tag link m), nextId := s.nextId + 1 } : State).askService link m (some s.nextId)))

/-! ## The link's own events -/

/-- A change of one end, if it exists; a routine of its link may go on. -/
def linkEvent (link side m : Nat) (s : State) (k : State) : Result := if endExists link side m then .next (k.serveLink link) else .next s

/-- LNK_PAUSE (R519). -/
def execLnkPause (link side m : Nat) (s : State) : Result := linkEvent link side m s (s.controlEnd link side m (some true) none)

/-- LNK_UNPAUSE (R519). -/
def execLnkUnpause (link side m : Nat) (s : State) : Result := linkEvent link side m s (s.controlEnd link side m (some false) none)

/-- LNK_RETRAIN (R519). -/
def execLnkRetrain (link side m : Nat) (s : State) : Result := linkEvent link side m s (s.retrain link side m)

/-- LNK_RETRAIN_COMPLETE (R519, R517): a module that trains ends in STATE 3 at both ends, or in STATE 0 where it trains; a broken map fails it, and so does
an end that has been turned off meanwhile. -/
def execLnkRetrainComplete (link m : Nat) (ok : Bool) (errE errF : W64) (s : State) : Result :=
  let e := s.linkEnd link 0 m
  let f := s.linkEnd link 1 m
  if !(endExists link 0 m) || !(e.state == 1 || f.state == 1) then .next s
  else
    let good := ok && e.state == 1 && f.state == 1 && [e.trainRx, e.trainTx, f.trainRx, f.trainTx].all mapOk
    let after (x : LinkEnd) (err : W64) : LinkEnd := if x.state = 1 then x.trained good err.toNat else x
    let s1 := (s.putEnd link 0 m (after e errE)).putEnd link 1 m (after f errF)
    let s2 : State := if good then { s1 with lostLinks := s1.lostLinks.filter (fun l => !(l == link)) } else s1
    .next (s2.serveLink link)

/-- LNK_OFF (R519). -/
def execLnkOff (link side m : Nat) (s : State) : Result := linkEvent link side m s (s.controlEnd link side m none (some true))

/-- LNK_ON (R519): STATE 0; a retrain is then needed. -/
def execLnkOn (link side m : Nat) (s : State) : Result := linkEvent link side m s (s.controlEnd link side m none (some false))

/-- LNK_RETRYCNT_CLR (R517). -/
def execLnkRetrycntClr (link side m : Nat) (s : State) : Result :=
  linkEvent link side m s (s.putEnd link side m { (s.linkEnd link side m) with crcErr := 0, retries := 0 })

/-- The partitions with a quad on a die. -/
def State.partitionsOn (s : State) (dies : List Nat) : List Nat :=
  (List.range 17).filter (fun fn => decide (1 ≤ fn) && s.quadOwner.any (fun e => e.2 == fn && dies.contains (e.1 / 12)))

/-- LINK_LOST (R520, R464): no module of the link is active or paused; cause 0x0E at the partition rung for each partition on the dies of
a ring link, at the device rung for a link to Protrum. -/
def execLinkLost (link : Nat) (s : State) : Result :=
  let alive (m : Nat) : Bool := [0, 1].all (fun side => (s.linkEnd link side m).state == 2 || (s.linkEnd link side m).state == 3)
  if !(endExists link 0 0) || (List.range 4).any alive || s.lostLinks.contains link then .next s
  else
    let s1 : State := { s with lostLinks := link :: s.lostLinks }
    if link < 4 then .next ((s1.partitionsOn [link, (link + 1) % 4]).foldl (fun s fn => s.raiseUpper 3 0x0E 0 fn 0 0 0 0) s1)
    else .next (s1.raiseUpper 4 0x0E 0 0 0 0 0 0)

end Sys2Proof.Machine
end

