-- ==== Sys2Proof/Machine/Boot.lean ====
section
/-! DEFINITION. Boot, bring-up and function-level resets (R506, R538 to R544). -/

namespace Sys2Proof.Machine

/-! ## The firmware image -/

/-- A boot begins (R478, R528, R541): the stored image is being verified; the power profile is read from its ball. -/
def Boot.begin (b : Boot) : Boot := ⟨true, 0, 0, 0, false, b.count + 1, Config.prof700 (b.count + 1), b.image⟩

/-- BOOT_START (R541): at power-on the boot ROM begins to verify the stored image. -/
def execBootStart (s : State) : Result := if s.boot.started then .next s else .next { s with boot := s.boot.begin }

/-- The image that the boot ROM verifies (R541): the stored one; in STATE 3 the host's, read at BASE with the length that its first 4 KiB give. -/
def State.bootImage (s : State) : IoRead :=
  if s.boot.state = 3 then
    match s.ioRead 0 s.boot.base 4096 with
    | .ok s1 b => s1.ioRead 0 s.boot.base (Config.imageLength b).val
    | .fail s1 => .fail s1
    | .wait => .wait
  else .ok s s.boot.image

/-- The boot ROM's check of an image has ended (R539, R541): the firmware runs, and a host image is written over the stored one; or the module waits for a
host image with ERR set. ERR is 0 again after a success (log 92). -/
def Boot.verified (b : Boot) (img : List Byte) : Boot :=
  let c := (Config.firmwareCheck img).val
  if c = 0 then { b with state := 1, err := 0, hostImage := decide (b.state = 3), image := img } else { b with state := 2, err := c }

/-- BOOT_VERIFY_COMPLETE (R538, R539, R541), with the outcome that the boot ROM's check of the image has; ERR 4 is a refused read of a host image. -/
def execBootVerifyComplete (ok : Bool) (err : Nat) (s : State) : Result :=
  if !s.boot.started || !(s.boot.state == 0 || s.boot.state == 3) then .next s
  else
    match s.bootImage with
    | .wait => .next s
    | .fail s1 => .next { s1 with boot := { s1.boot with state := 2, err := 4 } }
    | .ok s1 img =>
      let c := (Config.firmwareCheck img).val
      if ok = decide (c = 0) ∧ (c = 0 ∨ err = c) then .next { s1 with boot := s1.boot.verified img } else .next s

/-- BOOT_IMG_GO (R462, R540, R541). -/
def execBootImgGo (s : State) : Result :=
  if s.boot.started && s.boot.state == 2 && !s.dead then .next { s with boot := { s.boot with state := 3 } } else .next s

/-! ## Functions -/

/-- The function exists (R1, R16 to R19, R50). -/
def unitExists (u : BringUp) : Bool :=
  match u with
  | .linkModule die link m => decide (die < 4) && decide (link < 3) && decide (m < 4)
  | .dram die dev => decide (die < 4) && decide (dev < 16)
  | .slice die k => decide (die < 4) && decide (k < 24)
  | .quad die q => decide (die < 4) && decide (q < 12)
  | .flash => true
  | .mgmt => true

/-- What must be ready before a function starts (R542): a Protrum link module for a die's functions, both slices for a quad. -/
def State.unitMayStart (s : State) (u : BringUp) : Bool :=
  let linked (die : Nat) : Bool := (List.range 4).any (fun m => s.ready.contains (.linkModule die 2 m))
  match u with
  | .linkModule die link _ => link == 2 || linked die
  | .dram die _ => linked die
  | .slice die _ => linked die
  | .quad die q =>
    let known (k : Nat) : Bool := s.ready.contains (.slice die k) || s.failed.contains (.slice die k)
    linked die && known (2 * q) && known (2 * q + 1)
  | .flash => true
  | .mgmt => true

/-- A quad fails with a slice of it (R544). -/
def State.unitFails (s : State) (u : BringUp) : Bool :=
  match u with
  | .quad die q => s.failed.contains (.slice die (2 * q)) || s.failed.contains (.slice die (2 * q + 1))
  | .linkModule _ _ _ => false
  | .dram _ _ => false
  | .slice _ _ => false
  | .flash => false
  | .mgmt => false

/-- The end of a link that a die's module is (R516). -/
def endOfUnit (die link : Nat) : Nat × Nat := if link = 0 then (die, 0) else if link = 1 then ((die + 3) % 4, 1) else (4 + die, 0)

/-- The work that a function does before its flag rises, and the Reset values of the registers that it owns (R10, R397, R517, R527, R542); a
Protrum link's module owns both its ends, and the flash controller and the management processor own no register with a Reset column. -/
def State.unitReady (s : State) (u : BringUp) : State :=
  match u with
  | .dram die dev =>
    { s with
      dram := s.dram.filter (fun c => !(deviceOfDpa c.1 == .dram die dev))
      dramBad := s.dramBad.filter (fun k => !(deviceOfDpa (32 * k) == .dram die dev)) }
  | .slice die k => { (s.dropMib die k 0 16) with waypart := s.waypart.erase (die * 24 + k) }
  | .quad die q =>
    { s with
      power := s.power.erase (12 * die + q)
      cycles := s.cycles.filter (fun e => !([0, 1, 2, 3].any (fun k => e.1 == coreKey die (4 * q + k)))) }
  | .linkModule die link m =>
    let (l, side) := endOfUnit die link
    let s1 := s.putEnd l side m LinkEnd.reset
    if link = 2 then s1.putEnd l 1 m LinkEnd.reset else s1
  | .flash => s
  | .mgmt => s

/-- A failed function (R544): a link module goes to STATE 4. -/
def State.unitFailed (s : State) (u : BringUp) : State :=
  match u with
  | .linkModule die link m =>
    let (l, side) := endOfUnit die link
    s.controlEnd l side m none (some true)
  | .dram _ _ => s
  | .slice _ _ => s
  | .quad _ _ => s
  | .flash => s
  | .mgmt => s

/-- FUNCTION_READY (R542 to R544): a function's ready flag or its fail flag rises, once. -/
def execFunctionReady (unit : BringUp) (ok : Bool) (s : State) : Result :=
  if !s.serving || !(unitExists unit) || s.ready.contains unit || s.failed.contains unit || !(s.unitMayStart unit) then .next s
  else if ok && !(s.unitFails unit) then .next { (s.unitReady unit) with ready := s.ready ++ [unit] }
  else .next { (s.unitFailed unit) with failed := s.failed ++ [unit] }

/-! ## Resets -/

/-- VF_FLR (R506): the function's running contexts are switched out, all of its contexts are lost and its playbills dropped, its quads stay in
its partition; its own registers take their reset values (log 37). -/
def execVfFlr (vf : Nat) (s : State) : Result :=
  if vf = 0 ∨ 16 < vf ∨ s.dead = true then .next s
  else
    let s0 := s.switchOutAll ((s.ctxs.filter (fun e => e.2.fn == vf && e.2.state == .running)).map (fun e => e.1))
    let s1 := s0.loseAll (fun c => c.fn == vf)
    .next { s1 with hq := s1.hq.erase vf, bias := s1.bias.erase vf }

/-- PF_FLR (R506, R462): every function is reset and bring-up runs again. Host memory and the flash array keep their contents, the stored image among
them; graphics DRAM and the stacked layer are zeroed as their functions become ready (R542). -/
def execPfFlr (s : State) : Result :=
  .next { State.reset with
    agenda := s.agenda, tick := s.tick, nextId := s.nextId
    host := s.host, hostBad := s.hostBad, flash := s.flash, flashBad := s.flashBad
    dram := s.dram, dramBad := s.dramBad, layer := s.layer, layerBad := s.layerBad
    ioMap := s.ioMap, msix := s.msix, spdm := s.spdm, hostReply := s.hostReply
    boot := s.boot.begin }

end Sys2Proof.Machine
end

