-- ==== Sys2Proof/Machine/Attest.lean ====
section
/-! DEFINITION. Attestation (R545): the answers to the SPDM requests that the device supports. The places of their fields are those of DMTF SPDM 1.2, which
the spec names and does not give (log 10). -/

namespace Sys2Proof.Machine

/-- The SM3 digest of some bytes, as bytes. -/
def digestOf (b : List Byte) : List Byte := toBytes (Config.sm3 b).toNat 32

/-- The first n bytes, with zeros for those that are missing. -/
def padTo (n : Nat) (b : List Byte) : List Byte := (b ++ List.replicate n 0).take n

/-- The measurements of R545, each with its index and the kind of value that SPDM gives it. -/
def State.measurements (s : State) : List (Nat × Nat × List Byte) :=
  [(1, 0x00, digestOf Config.bootRom),
   (2, 0x01, digestOf s.boot.image),
   (3, 0x82, Config.fuses ++ [if s.boot.prof700 then 1 else 0]),
   (4, 0x83, [if s.boot.hostImage then 1 else 0])]

/-- A measurement block. -/
def measureBlock (m : Nat × Nat × List Byte) : List Byte :=
  toBytes m.1 1 ++ [1] ++ toBytes (m.2.2.length + 3) 2 ++ toBytes m.2.1 1 ++ toBytes m.2.2.length 2 ++ m.2.2

/-- The certificate chain. -/
def State.chain (s : State) : List Byte := Config.certChain s.boot.image

/-- An answer signed with the device key. -/
def State.signed (s : State) (b : List Byte) : List Byte := b ++ padTo 64 (Config.spdmSign s.tick b)

/-- Byte k of a request; one that is missing is 0. -/
def reqByte (req : List Byte) (k : Nat) : Byte := req.getD k 0

/-- VERSION: SPDM 1.2 alone. -/
def versionAnswer : List Byte := [0x10, 0x04, 0, 0, 0, 1, 0x00, 0x12]

/-- CAPABILITIES: certificates, challenges, and measurements with signatures. -/
def capabilitiesAnswer : List Byte :=
  [0x12, 0x61, 0, 0, 0] ++ toBytes Config.spdmSizes.1 1 ++ [0, 0] ++ toBytes 0x16 4 ++ toBytes Config.spdmSizes.2.1 4 ++
    toBytes Config.spdmSizes.2.2 4

/-- ALGORITHMS: of what is asked for, SM2_P256 signatures and SM3_256 hashes only. -/
def algorithmsAnswer (req : List Byte) : List Byte :=
  [0x12, 0x63, 0, 0] ++ toBytes 36 2 ++ [reqByte req 6 &&& 1, 0] ++ toBytes 0x80 4 ++ [0, reqByte req 9 &&& 2, 0, 0] ++
    [reqByte req 12 &&& 0x40, 0, 0, 0] ++ List.replicate 16 0

/-- DIGESTS: of the one certificate chain. -/
def State.digestsAnswer (s : State) : List Byte := [0x12, 0x01, 0, 1] ++ digestOf s.chain

/-- CERTIFICATE: the portion of the chain that is asked for. -/
def State.certificateAnswer (s : State) (req : List Byte) : List Byte :=
  let off := leField req 4 2
  let part := (s.chain.drop off).take (leField req 6 2)
  [0x12, 0x02, reqByte req 2, 0] ++ toBytes part.length 2 ++ toBytes (s.chain.length - off - part.length) 2 ++ part

/-- CHALLENGE_AUTH. -/
def State.challengeAnswer (s : State) (req : List Byte) : List Byte :=
  s.signed ([0x12, 0x03, reqByte req 2, 1] ++ digestOf s.chain ++ padTo 32 (Config.spdmNonce s.tick) ++
    (if reqByte req 3 = 0 then [] else digestOf (s.measurements.flatMap measureBlock)) ++ [0, 0])

/-- MEASUREMENTS: their number, one of them, or all, signed if that is asked for. -/
def State.measurementsAnswer (s : State) (req : List Byte) : List Byte :=
  let op := (reqByte req 3).toNat
  let l := if op = 0xFF then s.measurements else s.measurements.filter (fun m => m.1 == op)
  let body := [0x12, 0x60, if op = 0 then 4 else 0, 0] ++ toBytes l.length 1 ++ toBytes (l.flatMap measureBlock).length 3 ++ l.flatMap measureBlock ++
    padTo 32 (Config.spdmNonce s.tick) ++ [0, 0]
  if (reqByte req 2).getLsbD 0 then s.signed body else body

/-- An answer given: the firmware gives them (R17, R538). -/
def State.answerSpdm (s : State) (b : List Byte) : State := if s.serving then { s with spdm := b } else s

/-- SPDM_GET_VERSION (R545). -/
def execSpdmGetVersion (_req : List Byte) (s : State) : Result := .next (s.answerSpdm versionAnswer)

/-- SPDM_GET_CAPABILITIES (R545). -/
def execSpdmGetCapabilities (_req : List Byte) (s : State) : Result := .next (s.answerSpdm capabilitiesAnswer)

/-- SPDM_NEGOTIATE_ALGORITHMS (R545). -/
def execSpdmNegotiateAlgorithms (req : List Byte) (s : State) : Result := .next (s.answerSpdm (algorithmsAnswer req))

/-- SPDM_GET_DIGESTS (R545). -/
def execSpdmGetDigests (_req : List Byte) (s : State) : Result := .next (s.answerSpdm s.digestsAnswer)

/-- SPDM_GET_CERTIFICATE (R545). -/
def execSpdmGetCertificate (req : List Byte) (s : State) : Result := .next (s.answerSpdm (s.certificateAnswer req))

/-- SPDM_CHALLENGE (R545). -/
def execSpdmChallenge (req : List Byte) (s : State) : Result := .next (s.answerSpdm (s.challengeAnswer req))

/-- SPDM_GET_MEASUREMENTS (R545). -/
def execSpdmGetMeasurements (req : List Byte) (s : State) : Result := .next (s.answerSpdm (s.measurementsAnswer req))

end Sys2Proof.Machine
end

