-- ==== Sys2Proof/Machine/Commands.lean ====
section
/-! DEFINITION. The other host commands, the doorbells and the command intake (R26, R44, R58, R90, R458, R502, R507 to R512). -/

namespace Sys2Proof.Machine

/-! ## Quads -/

/-- The quads of a mask (R509). -/
def quadsOf (mask : Nat) : List Nat := (List.range 48).filter (fun q => bit mask q)

/-- A virtual function names only quads of its own partition (R509). -/
def State.ownsQuads (s : State) (fn : Nat) (qs : List Nat) : Bool := fn == 0 || qs.all (fun q => s.ownerOf q == fn)

/-- A slice of the quad holds mapped scratchpad (R502). -/
def State.quadMapped (s : State) (q : Nat) : Bool :=
  [0, 1].any (fun k => decide (0 < (s.wayp (q / 12) (2 * (q % 12) + k)).scrWays))

/-- The cores of some quads, by their numbers on the module. -/
def coresOf (qs : List Nat) : List Nat := qs.flatMap (fun q => (List.range 4).map (fun k => coreNumber (q / 12) (4 * (q % 12) + k)))

/-- The mask of a list of quads. -/
def quadMask (qs : List Nat) : Nat := qs.foldl (fun m q => m + 2 ^ q) 0

/-- VACATE (R458 step 1, R502): the quads take no more placements, and their dies are told (R515). -/
def execVacate (fn : Nat) (cmd : Command) (s : State) : Result :=
  let qs := quadsOf cmd.arg0.toNat
  let held := qs.filter s.quadMapped
  if !s.serving then .next s
  else if !(s.ownsQuads fn qs) then .next (s.complete fn cmd.tag 0x11 cmd.ctx 0)
  else if !(held == []) then .next (s.complete fn cmd.tag 0x14 cmd.ctx (quadMask held))
  else
    let part := qs.filter (fun q => !(s.ownerOf q == 0) && !(s.vacated.contains q))
    let dies := (part.map (fun q => q / 12)).eraseDups
    let s1 : State := { s with
      vacating := s.vacating ++ part.filter (fun q => !(s.vacating.contains q)), jobs := s.jobs.set s.nextId (.vacate fn cmd.tag cmd.arg0.toNat dies), nextId := s.nextId + 1 }
    .next ((s1.push (.vacateComplete s.nextId)).sendControl s.nextId dies)

/-- The team stands on one of some quads. -/
def Team.onQuads (t : Team) (qs : List Nat) : Bool := t.cores.any (fun c => qs.contains (12 * t.die + c / 4))

/-- VACATE_COMPLETE (R458 steps 2 to 5): once the dies are told, their answers can come back and every team there may be saved, the teams on the named
quads are saved and queued again, and the quads leave the partition until RETURN. -/
def execVacateComplete (job : Nat) (s : State) : Result :=
  match s.jobs.get? job with
  | some (.vacate fn tag mask dies) =>
    let qs := (quadsOf mask).filter (fun q => s.vacating.contains q)
    if !(dies == []) || !(qs.all (fun q => s.reach protrum (q / 12))) || !(s.allSavable (fun _ t => t.onQuads qs)) then
      .next (s.push (.vacateComplete job))
    else
      let s1 := (s.saveTeams (fun t => t.onQuads qs)).spillDeques (coresOf qs) (fun _ => true)
      let s2 : State := { s1 with vacating := s1.vacating.filter (fun q => !(qs.contains q)), vacated := s1.vacated ++ qs }
      .next (s2.endJob job fn tag 0 0 0)
  | _ => .next s

/-- RETURN (R509): vacated quads rejoin their partition. -/
def execHostReturn (fn : Nat) (cmd : Command) (s : State) : Result :=
  let qs := quadsOf cmd.arg0.toNat
  if !s.serving then .next s
  else if !(s.ownsQuads fn qs) then .next (s.complete fn cmd.tag 0x11 cmd.ctx 0)
  else if !(qs.all (fun q => s.vacated.contains q)) then .next (s.complete fn cmd.tag 0x15 cmd.ctx 0)
  else
    .next ((({ s with vacated := s.vacated.filter (fun q => !(qs.contains q)) } : State).rouse).complete fn cmd.tag 0 cmd.ctx 0)

/-- A quad that PARTSET may assign (R509, R544): owned by nobody, ready, not being zero-filled for another. -/
def State.quadFree (s : State) (q : Nat) : Bool :=
  s.ownerOf q == 0 && !(s.zeroing.contains q) && s.ready.contains (.quad (q / 12) (q % 12)) && !(s.failed.contains (.quad (q / 12) (q % 12)))

/-- PARTSET (R509, R544, R552, R90): the quads join the partition once their scratchpad is zero-filled. -/
def execPartset (fn : Nat) (cmd : Command) (s : State) : Result :=
  let vf := cmd.arg0.toNat
  let qs := quadsOf cmd.arg1.toNat
  pfCommand fn cmd s
    (if vf = 0 ∨ 16 < vf then .next (s.complete fn cmd.tag 0x10 cmd.ctx 0)
     else if !(qs.all s.quadFree) then .next (s.complete fn cmd.tag 0x15 cmd.ctx 0)
     else
       let need := saveNeed (s.quadCount vf + qs.length)
       if s.ctxs.any (fun e => e.2.fn == vf && decide (e.2.saveSize < need)) then .next (s.complete fn cmd.tag 0x13 cmd.ctx need)
       else
         .next (({ s with
           zeroing := s.zeroing ++ qs
           jobs := s.jobs.set s.nextId (.partset cmd.tag vf (quadMask qs)), nextId := s.nextId + 1 } : State).push (.partsetFill s.nextId)))

/-- PARTSET_ZERO_FILL_COMPLETE (R90, R509). -/
def execPartsetZeroFillComplete (job : Nat) (s : State) : Result :=
  match s.jobs.get? job with
  | some (.partset tag vf mask) =>
    let qs := quadsOf mask
    let s1 := qs.foldl (fun s q => (s.dropMib (q / 12) (2 * (q % 12)) 0 16).dropMib (q / 12) (2 * (q % 12) + 1) 0 16) s
    let s2 : State := { s1 with
      zeroing := s1.zeroing.filter (fun q => !(qs.contains q))
      quadOwner := qs.foldl (fun m q => m.set q vf) s1.quadOwner }
    .next ((s2.rouse).endJob job 0 tag 0 0 0)
  | _ => .next s

/-! ## Vectors and granules -/

/-- VECSET (R509). -/
def execVecset (fn : Nat) (cmd : Command) (s : State) : Result :=
  let a := cmd.arg0.toNat
  let b := cmd.arg1.toNat
  pfCommand fn cmd s (.next (({ s with vectors := ⟨bits a 15 0, bits a 31 16, bits b 31 0, bits b 63 32⟩ } : State).complete fn cmd.tag 0 cmd.ctx 0))

/-- The flips in progress, as function and page, in granules of a range (R44): each has begun under the owner that they had before. -/
def State.flipsIn (s : State) (first count : Nat) : List (Nat × Nat) :=
  s.bias.filterMap (fun e => match e.2.flip with
    | some f =>
      let g := f.page / 16384
      if first ≤ g ∧ g < first + count then some (e.1, f.page) else none
    | none => none)

/-- PARTMEM (R44, R509): the owners change at once; the command completes when no flip begun under an old owner goes on. -/
def execPartmem (fn : Nat) (cmd : Command) (s : State) : Result :=
  let owner := cmd.arg0.toNat
  let first := cmd.arg1.toNat
  let count := cmd.arg2.toNat
  pfCommand fn cmd s
    (if 16 < owner ∨ count = 0 ∨ 512 < first + count then .next (s.complete fn cmd.tag 0x10 cmd.ctx 0)
     else
       let s1 : State := { s with granules := (List.range count).foldl (fun m k =>
         if owner = 0 then m.erase (first + k) else m.set (first + k) owner) s.granules }
       .next (s1.addJob (.partmem cmd.tag (s.flipsIn first count))))

/-- A PARTMEM goes on. -/
def runPartmem (k tag : Nat) (flips : List (Nat × Nat)) (s : State) : Result :=
  match flips.filter (fun x => (s.bias.get? x.1).any (fun b => b.flip.any (fun f => f.page == x.2))) with
  | [] => .next (s.endJob k 0 tag 0 0 0)
  | l => .next (({ s with jobs := s.jobs.set k (.partmem tag l) } : State).push (.job k))

/-! ## The weight store -/

/-- The operands of WSWRITE and WSTRIM (R509). -/
def storeRangeOk (off n : Nat) : Bool := off % 4096 == 0 && n % 4096 == 0 && decide (4096 ≤ n) && decide (n ≤ 2 ^ 20)

/-- Units staged to fresh blocks (R58); each is committed by a switch of its own. -/
def State.stageUnits (s : State) (tag : Nat) (l : List (Nat × List Byte)) : State :=
  let s1 : State := { s with
    staged := l.foldl (fun m u => m.set u.1 u.2) s.staged
    jobs := s.jobs.set s.nextId (.wswrite tag (l.map (fun u => u.1))), nextId := s.nextId + 1 }
  l.foldl (fun s u => s.push (.stagedUnitCommit u.1)) s1

/-- The units of a buffer at IO virtual addresses read one after another, each with its number (R58, R509): none while one of them waits; a read that fails
gives no units. -/
def State.readUnits (s : State) (fn unit a : Nat) : Nat → Option (State × Option (List (Nat × List Byte)))
  | 0 => some (s, some [])
  | n + 1 =>
    match s.ioRead fn a 4096 with
    | .wait => none
    | .fail s1 => some (s1, none)
    | .ok s1 b => (State.readUnits s1 fn (unit + 1) (a + 4096) n).map (fun r => (r.1, r.2.map (fun l => (unit, b) :: l)))

/-- WSWRITE (R58, R509): a buffer with an uncorrectable unit writes nothing (log 36); it waits while its buffer cannot be read yet. -/
def execWswrite (fn : Nat) (cmd : Command) (s : State) : Result :=
  let off := cmd.arg0.toNat
  let n := cmd.arg2.toNat
  pfCommand fn cmd s
    (if !(storeRangeOk off n) || !(cmd.arg1.toNat % 4096 == 0) then .next (s.complete fn cmd.tag 0x10 cmd.ctx 0)
     else if storeBytes < off + n then .next (s.complete fn cmd.tag 0x17 cmd.ctx 0)
     else
       match s.readUnits fn (off / 4096) cmd.arg1.toNat (n / 4096) with
       | none => .next s
       | some (s1, none) => .next (s1.complete fn cmd.tag 0x17 cmd.ctx 0)
       | some (s1, some units) => .next (s1.stageUnits cmd.tag units))

/-- WSTRIM (R57, R509): trimmed units read as zero. -/
def execWstrim (fn : Nat) (cmd : Command) (s : State) : Result :=
  let off := cmd.arg0.toNat
  let n := cmd.arg2.toNat
  pfCommand fn cmd s
    (if !(storeRangeOk off n) then .next (s.complete fn cmd.tag 0x10 cmd.ctx 0)
     else if storeBytes < off + n then .next (s.complete fn cmd.tag 0x17 cmd.ctx 0)
     else .next (s.stageUnits cmd.tag ((List.range (n / 4096)).map (fun k => (off / 4096 + k, ([] : List Byte))))))

/-- Completed writes of a unit leave their command; the last one completes it (R509). -/
def State.unitWritten (s : State) (unit : Nat) : State :=
  s.jobs.foldl (fun s j => match j.2 with
    | .wswrite tag units =>
      if !(units.contains unit) then s
      else
        let rest := units.filter (fun u => !(u == unit))
        if rest = [] then s.endJob j.1 0 tag 0 0 0 else { s with jobs := s.jobs.set j.1 (.wswrite tag rest) }
    | _ => s) s

/-- STAGED_UNIT_COMMIT (R58): one switch of the map for a unit; it waits for the flash controller. -/
def execStagedUnitCommit (unit : Nat) (s : State) : Result :=
  match s.staged.get? unit with
  | none => .next s
  | some b =>
    if !(s.access protrum (.flash (unit * 4096)) == .served) then .next (s.push (.stagedUnitCommit unit))
    else
      let s1 : State := { s with
        flash := (s.flash.clear (unit * 4096) 4096).write (unit * 4096) b
        flashBad := s.flashBad.filter (fun k => !(k == unit)), staged := s.staged.erase unit }
      .next (s1.unitWritten unit)

/-! ## The command queue -/

/-- HQ_CMDTAIL_DOORBELL (R507, R512, R538). -/
def execHqCmdtailDoorbell (fn index : Nat) (s : State) : Result :=
  if !s.serving then .next s
  else if 2 ^ 16 ≤ index then .next (s.rsvWrite fn)
  else .next ((s.setQueue fn { (s.queueOf fn) with cmdTail := index }).push (.commandIntake fn))

/-- HQ_EVTHEAD_WRITE (R507, R513): room in the event queue. -/
def execHqEvtheadWrite (fn index : Nat) (s : State) : Result :=
  if !s.serving then .next s
  else if 2 ^ 16 ≤ index then .next (s.rsvWrite fn)
  else .next ((s.setQueue fn { (s.queueOf fn) with evtHead := index }).push (.eventRecordWrite fn))

/-- The operands of a command (R508). -/
def commandOf (b : List Byte) : Command :=
  ⟨leField b 0x02 2, leField b 0x04 4, BitVec.ofNat 64 (leField b 0x08 8), BitVec.ofNat 64 (leField b 0x10 8), BitVec.ofNat 64 (leField b 0x18 8)⟩

/-- A command's opcode (R509); one that is not listed is malformed. -/
def runCommand (fn op : Nat) (cmd : Command) (s : State) : Result :=
  match op with
  | 0x01 => execCtxnew fn cmd s
  | 0x02 => execCtxend fn cmd s
  | 0x03 => execLaunch fn cmd s
  | 0x04 => execAnswer fn cmd s
  | 0x05 => execSwout fn cmd s
  | 0x06 => execSwin fn cmd s
  | 0x07 => execVacate fn cmd s
  | 0x08 => execHostReturn fn cmd s
  | 0x10 => execPartset fn cmd s
  | 0x11 => execWswrite fn cmd s
  | 0x12 => execWstrim fn cmd s
  | 0x13 => execVecset fn cmd s
  | 0x14 => execLnksvc fn cmd s
  | 0x15 => execPartmem fn cmd s
  | _ => .next (s.complete fn cmd.tag 0x10 cmd.ctx 0)

/-- The context that a command names is being switched in or out (R512): by SWIN, SWOUT or CTXEND, by the LAUNCH that switches a new one in, or by a
RESUME. -/
def State.switching (s : State) (ctx : Nat) : Bool :=
  s.jobs.any (fun j => match j.2 with
    | .swin _ _ c => c == ctx
    | .swout _ _ c _ => c == ctx
    | .ctxend _ _ c _ => c == ctx
    | .launch _ _ c _ => c == ctx && (s.ctxs.get? ctx).any (fun x => x.state == .fresh)
    | .answer _ _ _ l => l.contains ctx
    | _ => false)

/-- What a command reads from the host cannot be read yet (R45, R46, R519, R544), so that it does not start. -/
def State.commandWaits (s : State) (fn op : Nat) (cmd : Command) : Bool :=
  match op with
  | 0x01 => (match s.ioRead fn cmd.arg0.toNat 64 with
    | .wait => true
    | _ => false)
  | 0x11 => fn == 0 && storeRangeOk cmd.arg0.toNat cmd.arg2.toNat && (s.readUnits fn 0 cmd.arg1.toNat (cmd.arg2.toNat / 4096)).isNone
  | _ => false

/-- A command of 64 bytes starts (R508, R512), CMDHEAD moving on, unless its context is being switched or what it reads cannot be read yet. -/
def startCommand (fn : Nat) (b : List Byte) (s : State) : Result :=
  let q := s.queueOf fn
  let cmd := commandOf b
  let bad := !(leField b 1 1 == 0) || !(leField b 0x20 32 == 0)
  if (s.switching cmd.ctx && !(cmd.ctx == 0)) || (!bad && s.commandWaits fn (leField b 0 1) cmd) then .next (s.push (.commandIntake fn))
  else
    let s1 := (s.setQueue fn { q with cmdHead := (q.cmdHead + 1) % 2 ^ q.cmdLog2 }).push (.commandIntake fn)
    if bad then .next (s1.complete fn cmd.tag 0x10 cmd.ctx 0) else runCommand fn (leField b 0 1) cmd s1

/-- A command taken from the ring (R507, R508, R512), in ring order. An entry that cannot be read is a malformed command (log 11). -/
def runIntake (fn : Nat) (s : State) : Result :=
  let q := s.queueOf fn
  let n := 2 ^ q.cmdLog2
  if !s.serving || !q.en || q.cmdHead % n == q.cmdTail % n then .next s
  else
    match s.ioRead fn (q.cmdBase + 64 * (q.cmdHead % n)) 64 with
    | .wait => .next (s.push (.commandIntake fn))
    | .fail s1 => startCommand fn (List.replicate 64 0xFF) s1
    | .ok s1 b => startCommand fn b s1

/-- A command goes on (R509, R512). -/
def runJob (k : Nat) (s : State) : Result :=
  match s.jobs.get? k with
  | some (.launch fn tag ctx addr) => runLaunch k fn tag ctx addr s
  | some (.swin fn tag ctx) => runSwin k fn tag ctx s
  | some (.partmem tag flips) => runPartmem k tag flips s
  | some (.answer fn tag ctx l) => runAnswer k fn tag ctx l s
  | some (.swout fn tag ctx l) => runSwout k fn tag ctx l s
  | some (.ctxend fn tag ctx l) => runCtxend k fn tag ctx l s
  | _ => .next s

end Sys2Proof.Machine
end

