-- ==== Sys2Proof/Machine/Transl.lean ====
section
/-! DEFINITION. What the host's translation agent does to the module: completions, page request responses, invalidations, flushes
(R66 to R74). -/

namespace Sys2Proof.Machine

/-- ATS_TRANSLATION_COMPLETION (R67, R68, R73): it comes over the die's link to Protrum (R515). -/
def execAtsTranslationCompletion (die fn pasid page : Nat) (nw : Bool) (r : AtsReply) (s : State) : Result :=
  .next (if s.reach die protrum then s.atsComplete die fn pasid page nw r else s)

/-- PAGE_REQUEST_RESPONSE (R69, R70): it names the request by its PASID and its page request group index, and goes to the die that sent it. -/
def execPageRequestResponse (fn pasid group : Nat) (r : PriReply) (s : State) : Result :=
  match s.pri.find? (fun p => p.fn == fn && p.pasid == pasid && p.group == group && p.sent) with
  | none => .next s
  | some p => .next (if s.reach p.die protrum then s.pageResponse fn group r else s)

/-- PRI_ENABLE_SET (R69, R70): the function may send page requests again, up to the host's allocation. A lost module takes none (R462). -/
def execPriEnableSet (fn alloc : Nat) (s : State) : Result :=
  if s.dead then .next s
  else .next ({ s with priOff := s.priOff.filter (fun k => !(k == fn)), priAlloc := s.priAlloc.set fn alloc } : State).pump

/-- A line and a range of virtual addresses have a byte in common. -/
def lineInRange (line base len : Nat) : Bool := decide (va57 line < base + len) && decide (base < va57 line + 256)

/-- A store-buffer entry made before an invalidation that used a translation which it removed (R72): its line lies in the range, or in the
page of a removed entry. -/
def SbEntry.stranded (e : SbEntry) (v : Invalidation) : Bool :=
  e.space == .glob && e.phys.isSome && decide (e.id < v.upTo) && ((v.base, v.len) :: v.gone).any (fun r => lineInRange e.line r.1 r.2)

/-- The groups of a function's contexts with the store-buffer entries that an invalidation must see drained. -/
def State.strandedBy (s : State) (v : Invalidation) : List (Nat × List SbEntry) :=
  s.groups.filterMap (fun e =>
    if s.fnOf e.2 = v.fn ∧ (v.glob = true ∨ s.pasidOf e.2 = v.pasid) then
      (match e.2.sbuf.filter (fun b => b.stranded v) with
       | [] => none
       | l => some (e.1, l))
    else none)

/-- Stranded entries are drained (R72): each is performed, and nothing is published. -/
def State.drainStranded (s : State) (v : Invalidation) : State :=
  (s.strandedBy v).foldl (fun s e => ((s.drainList e.1 e.2).settle e.1).1) s

/-- A die has something of a function that an invalidation concerns: entries, requests, or groups that access memory. -/
def State.translates (s : State) (die fn : Nat) : Bool :=
  s.l1.any (fun c => c.1 / 4096 == die && c.2.any (fun e => e.fn == fn)) ||
    s.dieTlb.any (fun c => c.1 / 1024 == die && c.2.ways.any (fun w => w.2.fn == fn)) ||
    s.ats.any (fun a => a.die == die && a.fn == fn) || s.groups.any (fun g => g.2.placed && g.2.die == die && s.fnOf g.2 == fn)

/-- The links carry an invalidation to every die that it concerns, and its completion back (R17, R515, R519). -/
def State.invalidationReaches (s : State) (fn : Nat) : Bool :=
  (List.range 4).all (fun d => s.reach protrum d || !(s.translates d fn))

/-- An invalidation begun (R71, R72): entries go, overtaken requests are marked, stranded writes are drained first. -/
def State.beginInvalidation (s : State) (fn tag pasid : Nat) (glob : Bool) (base len : Nat) : State :=
  let went := (s.translations.filter (fun e => e.goes fn pasid glob base len)).map (fun e => (e.va, 2 ^ e.size))
  let v : Invalidation := ⟨fn, tag, pasid, glob, base, len, went.eraseDups, s.nextId⟩
  let s1 := s.drainStranded v
  (({ (s1.invalidate fn pasid glob base len) with invs := s1.invs ++ [v] } : State).push (.invalidateCompletion fn tag)).pump

/-- ATS_INVALIDATE_REQUEST (R71): at most 32 are in progress for a function; a further one is not taken yet. It waits for the links (R519), and
a lost module takes none (R462). -/
def execAtsInvalidateRequest (fn pasid : Nat) (glob : Bool) (base len tag : Nat) (s : State) : Result :=
  if s.dead || !(s.invalidationReaches fn) || decide (capabilities.invalidateQueueDepth ≤
      (s.invs.filter (fun v => v.fn == fn && decide (v.tag < capabilities.invalidateQueueDepth))).length) ||
      s.invs.any (fun v => v.fn == fn && v.tag == tag) then .next s
  else .next (s.beginInvalidation fn (tag % 32) pasid glob base len)

/-- INVALIDATE_COMPLETION (R72, R74): sent once no access that used a removed translation is outstanding and the links carry it; tag 32 is a
flush, whose BUSY clears. -/
def execInvalidateCompletion (fn tag : Nat) (s : State) : Result :=
  match s.invs.find? (fun v => v.fn == fn && v.tag == tag) with
  | none => .next s
  | some v =>
    let s1 := s.drainStranded v
    if !(s1.strandedBy v == []) || s1.heldMidway v.fn v.pasid v.glob v.base v.len || !(s1.invalidationReaches fn) then
      .next (s1.push (.invalidateCompletion fn tag))
    else
      .next { s1 with
        invs := s1.invs.filter (fun x => !(x == v))
        flushing := if tag = 32 then s1.flushing.filter (fun k => !(k == fn)) else s1.flushing }

/-- A write of FLUSH = 1 (R74): every translation of the function goes, as an invalidation of every PASID and address; no effect while BUSY. -/
def State.flushTranslations (s : State) (fn : Nat) : State :=
  if s.flushing.contains fn then s
  else ({ s with flushing := fn :: s.flushing } : State).beginInvalidation fn 32 0 true 0 (2 ^ 57)

/-- TRN_FLUSH (R74). It waits for the links (R519), and a lost module takes none (R462). -/
def execTrnFlush (fn : Nat) (s : State) : Result :=
  if s.dead || !(s.invalidationReaches fn) then .next s else .next (s.flushTranslations fn)

end Sys2Proof.Machine
end

