-- ==== Sys2Proof/Machine/HostMem.lean ====
section
/-! DEFINITION. The host's accesses to the module's memory and registers, the bias flips, the scrub, and the flash array (chapter 02,
R42, R507). -/

namespace Sys2Proof.Machine

/-! ## CXL.mem and the weight-store window -/

/-- HDM_DECODER_COMMIT (R37): a base that is not aligned to 512 GiB commits nothing. -/
def execHdmDecoderCommit (base : Nat) (s : State) : Result :=
  .next (if base % dramBytes = 0 ∧ s.dead = false then { s with hdm := some base } else s)

/-- The device physical address of a host address in the HDM range (R37). -/
def State.hdmDpa (s : State) (hpa : Nat) : Option Nat :=
  match s.hdm with
  | some base => if base ≤ hpa ∧ hpa < base + dramBytes then some (hpa - base) else none
  | none => none

/-- A page is being flipped to a bias. -/
def State.flippingTo (s : State) (page : Nat) (device : Bool) : Bool :=
  s.bias.any (fun e => match e.2.flip with
    | some f => f.page == page && f.toDevice == device
    | none => false)

/-- The host is answered. none: poison, or an abort. -/
def State.answerHost (s : State) (b : Option (List Byte)) : State := { s with hostReply := b }

/-- A read of n bytes within one line of the module's memory for the host, through Protrum (R17, R39, R52, R56, R544); none while it waits. -/
def State.hostRead (s : State) (l : Loc) (n : Nat) : Option State :=
  match s.access protrum l with
  | .wait => none
  | .broken => some (s.answerHost none)
  | .served => some (if s.poisoned l n then (s.countBad l n).answerHost none else s.answerHost (some (s.bytesAt l n)))

/-- HOST_CXL_MEM_READ (R37, R39, R45, R46, R52, R462, R544): held while the page is flipped or its device is not ready; aborted outside the
HDM range. n bytes of one 64-byte line. -/
def execHostCxlMemRead (hpa n : Nat) (s : State) : Result :=
  if 64 < hpa % 64 + n ∨ s.dead = true then .next s
  else
    match s.hdmDpa hpa with
    | none => .next (s.answerHost none)
    | some dpa => .next ((s.hostRead (.dram dpa) n).getD s)

/-- The device has no copy of a line as a CXL.cache line. -/
def State.dropCxl (s : State) (line : Nat) : State := { s with cxlLines := s.cxlLines.filter (fun l => !(l == line)) }

/-- The host writes bytes of one line: it holds the line, so the device gives up its copy; a changed copy of the host's own goes first, and a
write of the whole line clears the host's poison (R39, R52, R548). -/
def State.hostWrite (s : State) (dpa : Nat) (data : List Byte) : State :=
  let line := dpa / 64
  let s1 := (s.writeBack line).dropCxl line
  { s1 with
    dram := s1.dram.write dpa data
    dramBad := clearBad s1.dramBad 32 dpa data.length
    hostLineBad := if data.length = 64 then s1.hostLineBad.filter (fun l => !(l == line)) else s1.hostLineBad }

/-- HOST_CXL_MEM_WRITE (R37, R39, R45, R46, R462, R544): accepted at once also while the page is flipped to device bias. -/
def execHostCxlMemWrite (hpa : Nat) (data : List Byte) (s : State) : Result :=
  if 64 < hpa % 64 + data.length ∨ s.dead = true then .next s
  else
    match s.hdmDpa hpa with
    | none => .next s
    | some dpa =>
      if deviceOfDpa dpa ∈ s.failed then .next s
      else if !(s.ready.contains (deviceOfDpa dpa)) || s.flippingTo (dpa / 65536) false || !(s.reach protrum (dieOfDpa dpa)) then .next s
      else .next (s.hostWrite dpa data)

/-- HOST_SNOOP (R39): the device gives up its CXL.cache copy of the line. What it wrote is in graphics DRAM already (R103, log 6). It waits for
the link to the line's die (R519), and a lost module answers none (R462). -/
def execHostSnoop (hpa : Nat) (s : State) : Result :=
  match s.hdmDpa hpa with
  | some dpa => .next (if s.dead || !(s.reach protrum (dieOfDpa dpa)) then s else s.dropCxl (dpa / 64))
  | none => .next s

/-- WEIGHT_WINDOW_HOST_WRITE (R56): completed as unsupported, with no effect. -/
def execWeightWindowHostWrite (_hpa : Nat) (_data : List Byte) (s : State) : Result := .next s

/-- WEIGHT_WINDOW_HOST_READ (R56, R57, R544): as a device read. -/
def execWeightWindowHostRead (hpa n : Nat) (s : State) : Result :=
  if 64 < hpa % 64 + n ∨ s.dead = true then .next s
  else
    match s.route hpa with
    | some (.flash a) => .next ((s.hostRead (.flash a) n).getD s)
    | some _ => .next s
    | none => .next (s.answerHost none)

/-! ## Bias -/

def State.biasOf (s : State) (fn : Nat) : BiasRegs := s.bias.getD fn BiasRegs.reset
def State.setBias (s : State) (fn : Nat) (b : BiasRegs) : State := { s with bias := s.bias.set fn b }

/-- CUR of a page (R38, R42): true for device bias. -/
def State.deviceBias (s : State) (page : Nat) : Bool := !(s.hostBias.contains page)

/-- The function may flip the page (R44). -/
def State.mayFlip (s : State) (fn page : Nat) : Bool := fn == 0 || s.granules.getD (page / 16384) 0 == fn

/-- A write of GO = 1 with a TARGET (R43, R45, R46): true for device. -/
def State.biasGo (s : State) (fn : Nat) (device : Bool) : State :=
  let b := s.biasOf fn
  if b.flip.isSome then s.setBias fn { b with err := 1 }
  else if !(s.mayFlip fn b.page) then s.setBias fn { b with target := device, err := 2, done := true }
  else if s.deviceBias b.page == device then s.setBias fn { b with target := device, err := 0, done := true }
  else
    let s1 := s.setBias fn { b with
      target := device, err := 0, flip := some ⟨b.page, device, if device then List.range 1024 else []⟩ }
    if device then s1 else s1.push (.biasHostFlip fn)

/-- BIAS_FLIP_TO_DEVICE (R43, R45): a write of 3 to MEM_BIASCTL. -/
def execBiasFlipToDevice (fn : Nat) (s : State) : Result := if s.serving then .next (s.biasGo fn true) else .next s

/-- BIAS_FLIP_TO_HOST (R43, R46): a write of 1 to MEM_BIASCTL. -/
def execBiasFlipToHost (fn : Nat) (s : State) : Result := if s.serving then .next (s.biasGo fn false) else .next s

/-- The host gives a line up (R45, R548): its changed copy, or the data it sends with its answer, is written back; a line that it holds poisoned
leaves both its codewords uncorrectable. -/
def State.giveUp (s : State) (line : Nat) (dirty : Option (List Byte)) : State :=
  let s1 : State := match dirty with
    | some d => if d.length = 64 then s.hostWrite (64 * line) d else s.writeBack line
    | none => s.writeBack line
  if !(s.hostLineBad.contains line) then s1
  else
    { s1 with
      dramBad := 2 * line :: (2 * line + 1) :: s1.dramBad.filter (fun k => !(k / 2 == line))
      hostLineBad := s1.hostLineBad.filter (fun l => !(l == line)) }

/-- A page in device bias: nothing of it is a CXL.cache line any more (R39, R45). -/
def State.toDevice (s : State) (page : Nat) : State :=
  { s with hostBias := s.hostBias.filter (fun p => !(p == page)), cxlLines := s.cxlLines.filter (fun l => !(l / 1024 == page)) }

/-- BIAS_OWNERSHIP_RESPONSE (R45): one of the at most 64 outstanding requests is answered, with the dirty line that the host wrote back,
if any; the last answer sets the bias to device. It waits for the link to the page's die (R17, R519). -/
def execBiasOwnershipResponse (fn line : Nat) (dirty : Option (List Byte)) (s : State) : Result :=
  let b := s.biasOf fn
  match b.flip with
  | none => .next s
  | some f =>
    if !f.toDevice || !((f.lines.take 64).contains line) || !(s.reach protrum (dieOfDpa (f.page * 65536))) then .next s
    else
      let s1 := s.giveUp (f.page * 1024 + line) dirty
      let rest := f.lines.filter (fun l => !(l == line))
      if rest = [] then .next ((s1.toDevice f.page).setBias fn { b with flip := none, done := true })
      else .next (s1.setBias fn { b with flip := some { f with lines := rest } })

/-- BIAS_HOST_FLIP_COMPLETE (R46): every access that was past the L1 has completed (accesses are performed whole here), and the page is in
host bias. -/
def execBiasHostFlipComplete (fn : Nat) (s : State) : Result :=
  let b := s.biasOf fn
  match b.flip with
  | none => .next s
  | some f =>
    if f.toDevice then .next s
    else .next (({ s with hostBias := f.page :: s.hostBias } : State).setBias fn { b with flip := none, done := true })

/-- BIAS_FLIP_TIMEOUT (R48): a request of a flip to device bias has gone unanswered; the bias bit keeps its value. -/
def execBiasFlipTimeout (fn : Nat) (s : State) : Result :=
  let b := s.biasOf fn
  match b.flip with
  | none => .next s
  | some f => if f.toDevice then .next (s.setBias fn { b with flip := none, err := 3, done := true }) else .next s

/-! ## Host register writes -/

/-- Bits that a register has no field for, in a value of its width. -/
def rsvSet (val : Nat) (l : List (Nat × Nat)) : Bool := l.any (fun r => !(bits val r.1 r.2 == 0))

/-- Field writes of a host register (R40 to R42, R55, R74, R507): none for an offset that names no such register or a register that the
function may not write. RSV fields are listed beside the new state; a register whose fields are read-only keeps them. -/
def State.hostField (s : State) (fn off val : Nat) : Option (List (Nat × Nat) × State) :=
  let q := s.queueOf fn
  let b := s.biasOf fn
  if off = 0x00 then some ([(11, 0)], if q.en then s else s.setQueue fn { q with cmdBase := val })
  else if off = 0x08 then some ([(11, 0)], if q.en then s else s.setQueue fn { q with evtBase := val })
  else if off = 0x10 then
    let size (x old : Nat) : Nat := if q.en ∨ x < 4 then old else x
    some ([(63, 22), (7, 1)],
      ((s.setQueue fn { q with
        evtVec := bits val 21 16, evtLog2 := size (bits val 15 12) q.evtLog2, cmdLog2 := size (bits val 11 8) q.cmdLog2, en := bit val 0 }).push
          (.commandIntake fn)).push (.eventRecordWrite fn))
  else if off = 0x20 then some ([(63, 16)], s)
  else if off = 0x28 then some ([(63, 16)], s)
  else if off = 0x00110000 then some ([(31, 2)], if bit val 0 && s.invalidationReaches fn then s.flushTranslations fn else s)
  else if off = 0x00100000 then some ([(63, 23)], s.setBias fn { b with page := bits val 22 0 })
  else if off = 0x00100008 then some ([(31, 2)], if bit val 0 then s.biasGo fn (bit val 1) else s.setBias fn { b with target := bit val 1 })
  else if off = 0x00100010 then some ([(31, 8), (2, 2)], s.setBias fn { b with done := b.done && !(bit val 1) })
  else if off = 0x00100200 ∧ fn = 0 then some ([(42, 1)], { s with wsBase := bits val 63 43, wsEn := bit val 0 })
  else none

/-- BOOT_STAT, which is read-only (R539), and BOOT_IMG (R540, R541): BASE, and GO, which starts the reading of the image in STATE 2. -/
def State.bootField (s : State) (fn off val : Nat) : Option (List (Nat × Nat) × State) :=
  if off = 0x00140008 ∧ fn = 0 then
    some ([(11, 1)], { s with boot := { s.boot with
      base := val / 4096 * 4096, state := if bit val 0 && s.boot.started && s.boot.state == 2 then 3 else s.boot.state } })
  else if off = 0x00140000 ∧ fn = 0 then some ([(63, 16), (7, 3)], s)
  else none

/-- HOST_REGISTER_WRITE (R42, R462, R507, R538, R540): a value with a bit set in an RSV field is ignored whole and sets ERR of MEM_BIASSTAT to 0;
until the firmware runs only the boot registers work, and a lost module takes none. -/
def execHostRegisterWrite (fn off : Nat) (val : W64) (s : State) : Result :=
  let field := if s.dead then none else match s.bootField fn off val.toNat with
    | some x => some x
    | none => if s.serving then s.hostField fn off val.toNat else none
  match field with
  | none => .next s
  | some (rsv, s1) => if rsvSet val.toNat rsv then .next (s.rsvWrite fn) else .next s1

/-! ## Scrub and flash -/

/-- PATROL_SCRUB (R53, R54): the die's memory controller reads one of its 256-byte lines, at any time, a bias flip included; corrected errors
are rewritten and counted, among the codewords that are not uncorrectable, and each uncorrectable one is counted; no value changes. -/
def execPatrolScrub (die line corrected : Nat) (s : State) : Result :=
  let dpa := die * 2 ^ 37 + line * 256
  if !(decide (die < 4)) || !(decide (line < 2 ^ 29)) || !(s.ready.contains (deviceOfDpa dpa)) || s.failed.contains (deviceOfDpa dpa) then .next s
  else
    let bad := ((List.range 8).filter (fun k => s.dramBad.contains (dpa / 32 + k))).length
    let ecc1 := (List.range (min corrected (8 - bad))).foldl (fun m _ => bumpCorr m die) s.ecc
    .next { s with ecc := (List.range bad).foldl (fun m _ => bumpUncorr m die) ecc1 }

/-- A weight-store unit marked uncorrectable or not. -/
def State.markUnit (s : State) (unit : Nat) (bad : Bool) : State :=
  let l := s.flashBad.filter (fun k => !(k == unit))
  { s with flashBad := if bad then unit :: l else l }

/-- FLASH_UNIT_READ (R57): a unit that is not corrected after 8 read-retry settings is uncorrectable. -/
def execFlashUnitRead (unit retries : Nat) (corrected : Bool) (s : State) : Result :=
  if storeBytes / 4096 ≤ unit || 8 < retries || !(s.access protrum (.flash (unit * 4096)) == .served) then .next s
  else if corrected then .next (s.markUnit unit false)
  else if retries = 8 then .next (s.markUnit unit true)
  else .next s

/-- FTL_RELOCATION (R59): the unit's map is switched to its new copy, or its old copy proves uncorrectable before a new one is written;
the bytes never change. -/
def execFtlRelocation (unit : Nat) (oldBad newReady : Bool) (s : State) : Result :=
  if storeBytes / 4096 ≤ unit || !(s.access protrum (.flash (unit * 4096)) == .served) then .next s
  else .next (s.markUnit unit (oldBad && !newReady))

end Sys2Proof.Machine
end

