-- ==== Sys2Proof/Machine/Power.lean ====
section
/-! DEFINITION. The controllers of a slice and of a quad: the scratchpad's ways (R93 to R95), power transitions (R527 to R537), drowsy
banks (R130, R536). -/

namespace Sys2Proof.Machine

/-! ## Ways of a slice -/

/-- The slice exists. -/
def sliceExists (die slice : Nat) : Bool := decide (die < 4) && decide (slice < 24)

/-- LYR_WAYPART_GROW (R93, R94): a write of a larger SCRWAYS. -/
def execLyrWaypartGrow (die slice ways : Nat) (s : State) : Result :=
  if sliceExists die slice && decide (ways ≤ 16) && decide ((s.wayp die slice).scrWays < ways) then .next (s.waypartWrite die slice ways)
  else .next s

/-- LYR_WAYPART_SHRINK (R93, R95): a write of a smaller SCRWAYS. -/
def execLyrWaypartShrink (die slice ways : Nat) (s : State) : Result :=
  if sliceExists die slice && decide (ways < (s.wayp die slice).scrWays) then .next (s.waypartWrite die slice ways) else .next s

/-- LAYER_GROW_COMPLETE (R94): the surrendered ways are zero-filled, and their mebibytes are mapped as BUSY clears. -/
def execLayerGrowComplete (die slice : Nat) (s : State) : Result :=
  let w := s.wayp die slice
  if w.busy && decide (w.mapped < w.scrWays) then
    let s1 := s.dropMib die slice w.mapped w.scrWays
    .next { s1 with waypart := s1.waypart.set (die * 24 + slice) { w with busy := false, mapped := w.scrWays } }
  else .next s

/-- LAYER_SHRINK_BUSY_END (R95). -/
def execLayerShrinkBusyEnd (die slice : Nat) (s : State) : Result :=
  let w := s.wayp die slice
  if w.busy && w.mapped == w.scrWays then .next { s with waypart := s.waypart.set (die * 24 + slice) { w with busy := false } } else .next s

/-! ## Power transitions -/

/-- LS1 is missing for the target PASS, or LS2 is (R527). -/
def Power.wakeNeeded (p : Power) : Bool := (decide (p.targetPass ≤ 2) && !p.ls1) || (p.targetPass == 1 && !p.ls2)

/-- An island is awake that the target PASS does not need (R527). -/
def Power.gateNeeded (p : Power) : Bool := (p.targetPass == 4 && p.ls1) || (decide (2 ≤ p.targetPass) && p.ls2)

/-- The next step of R534 that has something to do; 0 for none. A lower OPP number is a higher clock and supply (R528). -/
def Power.nextStep (p : Power) : Nat :=
  if p.targetOpp < p.supply then 1
  else if !(p.opp == p.targetOpp) then 2
  else if p.supply < p.targetOpp then 3
  else if p.wakeNeeded then 4
  else if !(p.pass == p.targetPass) then 5
  else if p.gateNeeded then 6
  else 0

/-- The transition still runs a step that needs the rise permit (R535). -/
def Power.rises (p : Power) : Bool := decide (p.targetOpp < p.supply) || p.wakeNeeded

/-- What a step leads to when it begins: an operating point, an island, a pass count. -/
def Power.aimOf (p : Power) (step : Nat) : Nat :=
  if step ≤ 3 then p.targetOpp
  else if step = 4 then (if decide (p.targetPass ≤ 2) && !p.ls1 then 1 else 2)
  else p.targetPass

/-- A step done (R534). -/
def Power.stepDone (p : Power) : Power :=
  let q : Power := { p with step := 0, aim := 0 }
  match p.step with
  | 1 => { q with supply := p.aim }
  | 2 => { q with opp := p.aim }
  | 3 => { q with supply := p.aim }
  | 4 => if p.aim = 1 then { q with ls1 := true } else { q with ls2 := true }
  | 5 => { q with pass := p.aim }
  | 6 => { q with ls1 := p.ls1 && !(p.aim == 4), ls2 := p.ls2 && !(decide (2 ≤ p.aim)) }
  | _ => q

def State.powerOf (s : State) (quad : Nat) : Power := s.power.getD quad Power.reset
def State.setPower (s : State) (quad : Nat) (p : Power) : State := { s with power := s.power.set quad p }
def State.permitOf (s : State) (die : Nat) : RisePermit := s.rise.getD die ⟨none, []⟩
def State.setPermit (s : State) (die : Nat) (r : RisePermit) : State := { s with rise := s.rise.set die r }

/-- The quad's next step begins, if it may: steps 1 and 4 need the die's rise permit (R535). Without a step left BUSY clears. -/
def State.beginStep (s : State) (quad : Nat) : State :=
  let p := s.powerOf quad
  let die := quad / 12
  let r := s.permitOf die
  let n := p.nextStep
  if !(p.step == 0) then s
  else if n = 0 then (s.setPower quad { p with busy := false }).setPermit die { r with waiters := r.waiters.filter (fun k => !(k == quad)) }
  else if n = 1 ∨ n = 4 then
    if r.holder.isNone || r.holder == some quad then
      (s.setPower quad { p with step := n, aim := p.aimOf n }).setPermit die { r with holder := some quad }
    else s
  else s.setPower quad { p with step := n, aim := p.aimOf n }

/-- The permit is released once its holder runs no further step that needs it; the next quad in order of writes takes it (R535). -/
def State.passPermit (s : State) (die : Nat) : State :=
  let r := s.permitOf die
  match r.holder with
  | none => s
  | some q =>
    let p := s.powerOf q
    if p.step = 1 ∨ p.step = 4 ∨ p.rises = true then s
    else
      let s1 := s.setPermit die { r with holder := none }
      match r.waiters.find? (fun k => (s.powerOf k).step == 0 && (s.powerOf k).busy && ((s.powerOf k).nextStep == 1 || (s.powerOf k).nextStep == 4)) with
      | none => s1
      | some k => s1.beginStep k

/-- PWR_QCTL_WRITE (R531, R533). A waiting quad that is written again waits behind the others (R535, log 93). -/
def execPwrQctlWrite (quad : Nat) (val : W64) (s : State) : Result :=
  let x := val.toNat
  let p := s.powerOf quad
  let rsv := !(bits x 63 32 == 0) || !(bits x 23 17 == 0) || !(bits x 15 12 == 0) || !(bits x 7 3 == 0)
  let pass := bits x 2 0
  if 48 ≤ quad then .next s
  else if rsv || decide (4 < bits x 11 8) || !([1, 2, 4].contains pass) then .next (s.setPower quad { p with err := 1 })
  else
    let p1 : Power := { p with drWait := bits x 31 24, bankOff := bit x 16, targetOpp := bits x 11 8, targetPass := pass, err := 0 }
    let s1 := s.setPower quad p1
    if p1.step = 0 ∧ p1.nextStep = 0 then .next (s1.setPower quad { p1 with busy := false })
    else
      let die := quad / 12
      let r := s1.permitOf die
      let s2 := (s1.setPower quad { p1 with busy := true }).setPermit die { r with waiters := r.waiters.filter (fun k => !(k == quad)) ++ [quad] }
      .next (((s2.beginStep quad).passPermit die).push (.pwrStep quad))

/-- PWR_TRANSITION_STEP (R534, R535): the running step of a transition completes, and the next one begins toward the newest target. -/
def execPwrTransitionStep (quad : Nat) (s : State) : Result :=
  let p := s.powerOf quad
  if !p.busy then .next s
  else
    let s1 := if p.step = 0 then s else s.setPower quad p.stepDone
    let s2 := ((s1.passPermit (quad / 12)).beginStep quad).passPermit (quad / 12)
    .next (if (s2.powerOf quad).busy then s2.push (.pwrStep quad) else s2)

/-- A bank of a quad is powered off (R130, R536): BANKOFF is set, and no group holds a row of it. Its rows read 0 when they are next allocated
(R111). -/
def State.bankIsOff (s : State) (quad bank : Nat) : Bool :=
  (s.powerOf quad).bankOff && s.groups.all (fun e => !(e.2.placed && e.2.banks.contains bank))

/-- BANK_DROWSY_ENTRY (R130, R536): with DRWAIT above 0, a bank that is not powered off goes drowsy when no group on the stage holds a row of
it. -/
def execBankDrowsyEntry (die core sub bank : Nat) (s : State) : Result :=
  let k := bankKey die core sub bank
  let quad := 12 * die + core / 4
  if s.groups.any (fun e => e.2.placed && e.2.stage.isSome && e.2.banks.contains k) || (s.powerOf quad).drWait == 0 || s.bankIsOff quad k ||
      s.drowsy.contains k || !(decide (die < 4) && decide (core < 48) && decide (sub < 8) && decide (bank < 48)) then .next s
  else .next { s with drowsy := k :: s.drowsy }

end Sys2Proof.Machine
end

