-- ==== Sys2Proof/Machine/Dispatch.lean ====
section
/-! DEFINITION. Dispatch: each instruction to its meaning. -/

namespace Sys2Proof.Machine

/-- The meaning of every instruction. -/
def exec (i : Instr) (s : State) : Host.Outcome State Fault Refusal :=
  match i with
  | .faddF32 d a b => Sys2Proof.Machine.execFaddF32 d a b s
  | .fsubF32 d a b => Sys2Proof.Machine.execFsubF32 d a b s
  | .fmulF32 d a b => Sys2Proof.Machine.execFmulF32 d a b s
  | .fminF32 d a b => Sys2Proof.Machine.execFminF32 d a b s
  | .fmaxF32 d a b => Sys2Proof.Machine.execFmaxF32 d a b s
  | .fdivF32 d a b => Sys2Proof.Machine.execFdivF32 d a b s
  | .fsqrtF32 d b => Sys2Proof.Machine.execFsqrtF32 d b s
  | .daddF64 d a b => Sys2Proof.Machine.execDaddF64 d a b s
  | .dsubF64 d a b => Sys2Proof.Machine.execDsubF64 d a b s
  | .dmulF64 d a b => Sys2Proof.Machine.execDmulF64 d a b s
  | .dminF64 d a b => Sys2Proof.Machine.execDminF64 d a b s
  | .dmaxF64 d a b => Sys2Proof.Machine.execDmaxF64 d a b s
  | .ddivF64 d a b => Sys2Proof.Machine.execDdivF64 d a b s
  | .dsqrtF64 d b => Sys2Proof.Machine.execDsqrtF64 d b s
  | .hadd2F16 d a b => Sys2Proof.Machine.execHadd2F16 d a b s
  | .hmul2F16 d a b => Sys2Proof.Machine.execHmul2F16 d a b s
  | .hmin2F16 d a b => Sys2Proof.Machine.execHmin2F16 d a b s
  | .hmax2F16 d a b => Sys2Proof.Machine.execHmax2F16 d a b s
  | .hadd2Bf16 d a b => Sys2Proof.Machine.execHadd2Bf16 d a b s
  | .hmul2Bf16 d a b => Sys2Proof.Machine.execHmul2Bf16 d a b s
  | .hmin2Bf16 d a b => Sys2Proof.Machine.execHmin2Bf16 d a b s
  | .hmax2Bf16 d a b => Sys2Proof.Machine.execHmax2Bf16 d a b s
  | .iaddS32 d a b => Sys2Proof.Machine.execIaddS32 d a b s
  | .isubS32 d a b => Sys2Proof.Machine.execIsubS32 d a b s
  | .imulS32 d a b => Sys2Proof.Machine.execImulS32 d a b s
  | .imulhiS32 d a b => Sys2Proof.Machine.execImulhiS32 d a b s
  | .imulhiN32 d a b => Sys2Proof.Machine.execImulhiN32 d a b s
  | .iminS32 d a b => Sys2Proof.Machine.execIminS32 d a b s
  | .iminN32 d a b => Sys2Proof.Machine.execIminN32 d a b s
  | .imaxS32 d a b => Sys2Proof.Machine.execImaxS32 d a b s
  | .imaxN32 d a b => Sys2Proof.Machine.execImaxN32 d a b s
  | .iaddS64 d a b => Sys2Proof.Machine.execIaddS64 d a b s
  | .isubS64 d a b => Sys2Proof.Machine.execIsubS64 d a b s
  | .qaddS32 d a b => Sys2Proof.Machine.execQaddS32 d a b s
  | .qsubS32 d a b => Sys2Proof.Machine.execQsubS32 d a b s
  | .iabsS32 d b => Sys2Proof.Machine.execIabsS32 d b s
  | .inegS32 d b => Sys2Proof.Machine.execInegS32 d b s
  | .andB32 d a b => Sys2Proof.Machine.execAndB32 d a b s
  | .orB32 d a b => Sys2Proof.Machine.execOrB32 d a b s
  | .xorB32 d a b => Sys2Proof.Machine.execXorB32 d a b s
  | .notB32 d b => Sys2Proof.Machine.execNotB32 d b s
  | .shlB32 d a b => Sys2Proof.Machine.execShlB32 d a b s
  | .shrN32 d a b => Sys2Proof.Machine.execShrN32 d a b s
  | .shrS32 d a b => Sys2Proof.Machine.execShrS32 d a b s
  | .rotB32 d a b => Sys2Proof.Machine.execRotB32 d a b s
  | .popcB32 d b => Sys2Proof.Machine.execPopcB32 d b s
  | .clzB32 d b => Sys2Proof.Machine.execClzB32 d b s
  | .brevB32 d b => Sys2Proof.Machine.execBrevB32 d b s
  | .movB32 d b => Sys2Proof.Machine.execMovB32 d b s
  | .movB64 d b => Sys2Proof.Machine.execMovB64 d b s
  | .lidB32 d => Sys2Proof.Machine.execLidB32 d s
  | .xset x b => Sys2Proof.Machine.execXset x b s
  | .xget d x => Sys2Proof.Machine.execXget d x s
  | .frcpF32 d b => Sys2Proof.Machine.execFrcpF32 d b s
  | .frsqF32 d b => Sys2Proof.Machine.execFrsqF32 d b s
  | .fex2F32 d b => Sys2Proof.Machine.execFex2F32 d b s
  | .flg2F32 d b => Sys2Proof.Machine.execFlg2F32 d b s
  | .fsinF32 d b => Sys2Proof.Machine.execFsinF32 d b s
  | .fcosF32 d b => Sys2Proof.Machine.execFcosF32 d b s
  | .lnrdB32 d a b => Sys2Proof.Machine.execLnrdB32 d a b s
  | .lnrdxB32 d a b => Sys2Proof.Machine.execLnrdxB32 d a b s
  | .fmaF32 f => Sys2Proof.Machine.execFmaF32 f s
  | .fmaF64 f => Sys2Proof.Machine.execFmaF64 f s
  | .hfma2F16 f => Sys2Proof.Machine.execHfma2F16 f s
  | .hfma2Bf16 f => Sys2Proof.Machine.execHfma2Bf16 f s
  | .imadS32 f => Sys2Proof.Machine.execImadS32 f s
  | .imadS64 f => Sys2Proof.Machine.execImadS64 f s
  | .selB32 f => Sys2Proof.Machine.execSelB32 f s
  | .bool3B32 f => Sys2Proof.Machine.execBool3B32 f s
  | .fcmpF32 f => Sys2Proof.Machine.execFcmpF32 f s
  | .dcmpF64 f => Sys2Proof.Machine.execDcmpF64 f s
  | .fclassF32 f => Sys2Proof.Machine.execFclassF32 f s
  | .mrd d a acc g => Sys2Proof.Machine.execMrd d a acc g s
  | .icmpS32 f => Sys2Proof.Machine.execIcmpS32 f s
  | .icmpN32 f => Sys2Proof.Machine.execIcmpN32 f s
  | .icmpS64 f => Sys2Proof.Machine.execIcmpS64 f s
  | .icmpN64 f => Sys2Proof.Machine.execIcmpN64 f s
  | .cvt f => Sys2Proof.Machine.execCvt f s
  | .cvtpk f => Sys2Proof.Machine.execCvtpk f s
  | .frndF32 f => Sys2Proof.Machine.execFrndF32 f s
  | .bselB32 f => Sys2Proof.Machine.execBselB32 f s
  | .bfeB32 f => Sys2Proof.Machine.execBfeB32 f s
  | .bfiB32 f => Sys2Proof.Machine.execBfiB32 f s
  | .dot4S8 f => Sys2Proof.Machine.execDot4S8 f s
  | .movi d imm g => Sys2Proof.Machine.execMovi d imm g s
  | .agree pd pa neg kind g => Sys2Proof.Machine.execAgree pd pa neg kind g s
  | .lmask d pa neg g => Sys2Proof.Machine.execLmask d pa neg g s
  | .rsumF32 f => Sys2Proof.Machine.execRsumF32 f s
  | .rminF32 f => Sys2Proof.Machine.execRminF32 f s
  | .rmaxF32 f => Sys2Proof.Machine.execRmaxF32 f s
  | .rsumS32 f => Sys2Proof.Machine.execRsumS32 f s
  | .rminS32 f => Sys2Proof.Machine.execRminS32 f s
  | .rmaxS32 f => Sys2Proof.Machine.execRmaxS32 f s
  | .ldB8 f => Sys2Proof.Machine.execLdB8 f s
  | .ldS8 f => Sys2Proof.Machine.execLdS8 f s
  | .ldB16 f => Sys2Proof.Machine.execLdB16 f s
  | .ldS16 f => Sys2Proof.Machine.execLdS16 f s
  | .ldB32 f => Sys2Proof.Machine.execLdB32 f s
  | .ldB64 f => Sys2Proof.Machine.execLdB64 f s
  | .ldB128 f => Sys2Proof.Machine.execLdB128 f s
  | .stB8 f => Sys2Proof.Machine.execStB8 f s
  | .stB16 f => Sys2Proof.Machine.execStB16 f s
  | .stB32 f => Sys2Proof.Machine.execStB32 f s
  | .stB64 f => Sys2Proof.Machine.execStB64 f s
  | .stB128 f => Sys2Proof.Machine.execStB128 f s
  | .atom op f => Sys2Proof.Machine.execAtom op f s
  | .cas c f => Sys2Proof.Machine.execCas c f s
  | .xadd f => Sys2Proof.Machine.execXadd f s
  | .xrd f f64 rm => Sys2Proof.Machine.execXrd f f64 rm s
  | .tex d a b bu c hint g => Sys2Proof.Machine.execTex d a b bu c hint g s
  | .trace d a root rmask flags hint g => Sys2Proof.Machine.execTrace d a root rmask flags hint g s
  | .trnext d g => Sys2Proof.Machine.execTrnext d g s
  | .traccept d g => Sys2Proof.Machine.execTraccept d g s
  | .trhit d g => Sys2Proof.Machine.execTrhit d g s
  | .camray d tile desc jit hint g => Sys2Proof.Machine.execCamray d tile desc jit hint g s
  | .resup w a b c g => Sys2Proof.Machine.execResup w a b c g s
  | .resmg wd wa c g => Sys2Proof.Machine.execResmg wd wa c g s
  | .resfin d w cap g => Sys2Proof.Machine.execResfin d w cap g s
  | .resld w f => Sys2Proof.Machine.execResld w f s
  | .resst w f => Sys2Proof.Machine.execResst w f s
  | .resget d w field g => Sys2Proof.Machine.execResget d w field g s
  | .resset w a field g => Sys2Proof.Machine.execResset w a field g s
  | .resclr w g => Sys2Proof.Machine.execResclr w g s
  | .drawB32 d g => Sys2Proof.Machine.execDrawB32 d g s
  | .laneXf op f => Sys2Proof.Machine.execLaneXf op f s
  | .nop => Sys2Proof.Machine.execNop s
  | .saddB64 d a b => Sys2Proof.Machine.execSaddB64 d a b s
  | .ssubB64 d a b => Sys2Proof.Machine.execSsubB64 d a b s
  | .smulB64 d a b => Sys2Proof.Machine.execSmulB64 d a b s
  | .smulhiS64 d a b => Sys2Proof.Machine.execSmulhiS64 d a b s
  | .smulhiN64 d a b => Sys2Proof.Machine.execSmulhiN64 d a b s
  | .sminS64 d a b => Sys2Proof.Machine.execSminS64 d a b s
  | .sminN64 d a b => Sys2Proof.Machine.execSminN64 d a b s
  | .smaxS64 d a b => Sys2Proof.Machine.execSmaxS64 d a b s
  | .smaxN64 d a b => Sys2Proof.Machine.execSmaxN64 d a b s
  | .sandB64 d a b => Sys2Proof.Machine.execSandB64 d a b s
  | .sorB64 d a b => Sys2Proof.Machine.execSorB64 d a b s
  | .sxorB64 d a b => Sys2Proof.Machine.execSxorB64 d a b s
  | .snotB64 d b => Sys2Proof.Machine.execSnotB64 d b s
  | .sshlB64 d a b => Sys2Proof.Machine.execSshlB64 d a b s
  | .sshrN64 d a b => Sys2Proof.Machine.execSshrN64 d a b s
  | .sshrS64 d a b => Sys2Proof.Machine.execSshrS64 d a b s
  | .smovB64 d b => Sys2Proof.Machine.execSmovB64 d b s
  | .spopcB64 d b => Sys2Proof.Machine.execSpopcB64 d b s
  | .sclzB64 d b => Sys2Proof.Machine.execSclzB64 d b s
  | .bra off => Sys2Proof.Machine.execBra off s
  | .call off => Sys2Proof.Machine.execCall off s
  | .ret => Sys2Proof.Machine.execRet s
  | .exit => Sys2Proof.Machine.execExit s
  | .exitHelp g pkind => Sys2Proof.Machine.execExitHelp g pkind s
  | .yield => Sys2Proof.Machine.execYield s
  | .brx a => Sys2Proof.Machine.execBrx a s
  | .wait l x_s c t => Sys2Proof.Machine.execWait l x_s c t s
  | .mparr d m => Sys2Proof.Machine.execMparr d m s
  | .mpwait m b => Sys2Proof.Machine.execMpwait m b s
  | .mpinit m b => Sys2Proof.Machine.execMpinit m b s
  | .trap code => Sys2Proof.Machine.execTrap code s
  | .tret => Sys2Proof.Machine.execTret s
  | .sysrd d reg => Sys2Proof.Machine.execSysrd d reg s
  | .syswr reg d => Sys2Proof.Machine.execSyswr reg d s
  | .repack d => Sys2Proof.Machine.execRepack d s
  | .repackKey d v => Sys2Proof.Machine.execRepackKey d v s
  | .ilock d a b => Sys2Proof.Machine.execIlock d a b s
  | .iunlock a b => Sys2Proof.Machine.execIunlock a b s
  | .genkeyKey a => Sys2Proof.Machine.execGenkeyKey a s
  | .genkeyCtr a => Sys2Proof.Machine.execGenkeyCtr a s
  | .genkeyStrm a => Sys2Proof.Machine.execGenkeyStrm a s
  | .genkeyRdkey d => Sys2Proof.Machine.execGenkeyRdkey d s
  | .genkeyRd d => Sys2Proof.Machine.execGenkeyRd d s
  | .pwrhint kind => Sys2Proof.Machine.execPwrhint kind s
  | .fence scope => Sys2Proof.Machine.execFence scope s
  | .acq scope layer a => Sys2Proof.Machine.execAcq scope layer a s
  | .rel scope layer a => Sys2Proof.Machine.execRel scope layer a s
  | .spawn d a team => Sys2Proof.Machine.execSpawn d a team s
  | .twait a => Sys2Proof.Machine.execTwait a s
  | .steal d a => Sys2Proof.Machine.execSteal d a s
  | .tileret => Sys2Proof.Machine.execTileret s
  | .tilecur d => Sys2Proof.Machine.execTilecur d s
  | .tinfo d => Sys2Proof.Machine.execTinfo d s
  | .mfree => Sys2Proof.Machine.execMfree s
  | .mzero acc len => Sys2Proof.Machine.execMzero acc len s
  | .smovi d imm kind g => Sys2Proof.Machine.execSmovi d imm kind g s
  | .scmpS64 bd a b use neg bc cond g => Sys2Proof.Machine.execScmpS64 bd a b use neg bc cond g s
  | .scmpN64 bd a b use neg bc cond g => Sys2Proof.Machine.execScmpN64 bd a b use neg bc cond g s
  | .ssel d a b bc neg g => Sys2Proof.Machine.execSsel d a b bc neg g s
  | .sbfe d a b signed g => Sys2Proof.Machine.execSbfe d a b signed g s
  | .stmap t gl len rw win g => Sys2Proof.Machine.execStmap t gl len rw win g s
  | .stunmap win g => Sys2Proof.Machine.execStunmap win g s
  | .sldB32 f => Sys2Proof.Machine.execSldB32 f s
  | .sldB64 f => Sys2Proof.Machine.execSldB64 f s
  | .sstB32 f => Sys2Proof.Machine.execSstB32 f s
  | .sstB64 f => Sys2Proof.Machine.execSstB64 f s
  | .copy d a b c dsp ssp g => Sys2Proof.Machine.execCopy d a b c dsp ssp g s
  | .lload d a b c cr pitch g => Sys2Proof.Machine.execLload d a b c cr pitch g s
  | .lstore d a b c cr pitch g => Sys2Proof.Machine.execLstore d a b c cr pitch g s
  | .mclaim slots acc g => Sys2Proof.Machine.execMclaim slots acc g s
  | .mld slot a b hint kindB sp dn g => Sys2Proof.Machine.execMld slot a b hint kindB sp dn g s
  | .mma acc sa sb ty zero dn t g => Sys2Proof.Machine.execMma acc sa sb ty zero dn t g s
  | .mloop d a acc ty zero dn slot asp bsp g => Sys2Proof.Machine.execMloop d a acc ty zero dn slot asp bsp g s
  | .mst d a acc fmt rm sp dn g => Sys2Proof.Machine.execMst d a acc fmt rm sp dn g s
  | .mdesc n a b g => Sys2Proof.Machine.execMdesc n a b g s
  | .mscale d a b hint sp g => Sys2Proof.Machine.execMscale d a b hint sp g s
  | .mlease steps g => Sys2Proof.Machine.execMlease steps g s
  | .sqtab tab a hint sp g => Sys2Proof.Machine.execSqtab tab a hint sp g s
  | .sqfact tab a hint sp g => Sys2Proof.Machine.execSqfact tab a hint sp g s
  | .sqstart d a b tab g => Sys2Proof.Machine.execSqstart d a b tab g s
  | .sqstage d b wait g => Sys2Proof.Machine.execSqstage d b wait g s
  | .sqret a g => Sys2Proof.Machine.execSqret a g s
  | .sqstat d a g => Sys2Proof.Machine.execSqstat d a g s
  | .sqdrain d g => Sys2Proof.Machine.execSqdrain d g s
  | .pbind d a g => Sys2Proof.Machine.execPbind d a g s
  | .prun d a b g => Sys2Proof.Machine.execPrun d a b g s
  | .pwait d a g => Sys2Proof.Machine.execPwait d a g s
  | .pdrop a g => Sys2Proof.Machine.execPdrop a g s
  | .taddr d a mode entry g => Sys2Proof.Machine.execTaddr d a mode entry g s
  | .gquery d a kind g => Sys2Proof.Machine.execGquery d a kind g s
  | .uniformXf op d a b g mod imm => Sys2Proof.Machine.execUniformXf op d a b g mod imm s
  | .loadLanding gid id => Sys2Proof.Machine.execLoadLanding gid id s
  | .storeBufferDrain gid k => Sys2Proof.Machine.execStoreBufferDrain gid k s
  | .atomicPerform gid id lane => Sys2Proof.Machine.execAtomicPerform gid id lane s
  | .xaccCellAdd gid id lane => Sys2Proof.Machine.execXaccCellAdd gid id lane s
  | .engineUnitLand gid id => Sys2Proof.Machine.execEngineUnitLand gid id s
  | .matrixTransferLand team id => Sys2Proof.Machine.execMatrixTransferLand team id s
  | .matrixStep team id => Sys2Proof.Machine.execMatrixStep team id s
  | .traversalComplete gid id => Sys2Proof.Machine.execTraversalComplete gid id s
  | .camrayDescriptorArrival gid id => Sys2Proof.Machine.execCamrayDescriptorArrival gid id s
  | .atsTranslationCompletion die fn pasid page nw r => Sys2Proof.Machine.execAtsTranslationCompletion die fn pasid page nw r s
  | .pageRequestResponse fn pasid group r => Sys2Proof.Machine.execPageRequestResponse fn pasid group r s
  | .atsInvalidateRequest fn pasid glb base len tag => Sys2Proof.Machine.execAtsInvalidateRequest fn pasid glb base len tag s
  | .invalidateCompletion fn tag => Sys2Proof.Machine.execInvalidateCompletion fn tag s
  | .priEnableSet fn alloc => Sys2Proof.Machine.execPriEnableSet fn alloc s
  | .hdmDecoderCommit base => Sys2Proof.Machine.execHdmDecoderCommit base s
  | .hostCxlMemRead hpa n => Sys2Proof.Machine.execHostCxlMemRead hpa n s
  | .hostCxlMemWrite hpa data => Sys2Proof.Machine.execHostCxlMemWrite hpa data s
  | .hostSnoop hpa => Sys2Proof.Machine.execHostSnoop hpa s
  | .weightWindowHostWrite hpa data => Sys2Proof.Machine.execWeightWindowHostWrite hpa data s
  | .weightWindowHostRead hpa n => Sys2Proof.Machine.execWeightWindowHostRead hpa n s
  | .biasFlipToDevice fn => Sys2Proof.Machine.execBiasFlipToDevice fn s
  | .biasFlipToHost fn => Sys2Proof.Machine.execBiasFlipToHost fn s
  | .biasOwnershipResponse fn line dirty => Sys2Proof.Machine.execBiasOwnershipResponse fn line dirty s
  | .biasHostFlipComplete fn => Sys2Proof.Machine.execBiasHostFlipComplete fn s
  | .biasFlipTimeout fn => Sys2Proof.Machine.execBiasFlipTimeout fn s
  | .trnFlush fn => Sys2Proof.Machine.execTrnFlush fn s
  | .hostRegisterWrite fn off val => Sys2Proof.Machine.execHostRegisterWrite fn off val s
  | .lyrWaypartGrow die slice ways => Sys2Proof.Machine.execLyrWaypartGrow die slice ways s
  | .lyrWaypartShrink die slice ways => Sys2Proof.Machine.execLyrWaypartShrink die slice ways s
  | .layerGrowComplete die slice => Sys2Proof.Machine.execLayerGrowComplete die slice s
  | .layerShrinkBusyEnd die slice => Sys2Proof.Machine.execLayerShrinkBusyEnd die slice s
  | .patrolScrub die line corrected => Sys2Proof.Machine.execPatrolScrub die line corrected s
  | .flashUnitRead unit retries corrected => Sys2Proof.Machine.execFlashUnitRead unit retries corrected s
  | .ftlRelocation unit oldBad newReady => Sys2Proof.Machine.execFtlRelocation unit oldBad newReady s
  | .gangStart die => Sys2Proof.Machine.execGangStart die s
  | .teamParkOut team => Sys2Proof.Machine.execTeamParkOut team s
  | .stageLeave gid => Sys2Proof.Machine.execStageLeave gid s
  | .stageIdleTimeout gid => Sys2Proof.Machine.execStageIdleTimeout gid s
  | .stageTimeslice gid => Sys2Proof.Machine.execStageTimeslice gid s
  | .stageEnter gid => Sys2Proof.Machine.execStageEnter gid s
  | .bankDrowsyEntry die core sub bank => Sys2Proof.Machine.execBankDrowsyEntry die core sub bank s
  | .groupExitComplete gid => Sys2Proof.Machine.execGroupExitComplete gid s
  | .repackArrive gid => Sys2Proof.Machine.execRepackArrive gid s
  | .mpwaitWake gid => Sys2Proof.Machine.execMpwaitWake gid s
  | .twaitWake gid => Sys2Proof.Machine.execTwaitWake gid s
  | .sqstageWake gid => Sys2Proof.Machine.execSqstageWake gid s
  | .sqdrainWake gid => Sys2Proof.Machine.execSqdrainWake gid s
  | .prunStart gid => Sys2Proof.Machine.execPrunStart gid s
  | .pwaitWake gid => Sys2Proof.Machine.execPwaitWake gid s
  | .pdropUnbind gid => Sys2Proof.Machine.execPdropUnbind gid s
  | .waitRelease gid => Sys2Proof.Machine.execWaitRelease gid s
  | .channelOperationResume gid => Sys2Proof.Machine.execChannelOperationResume gid s
  | .trapEntry gid => Sys2Proof.Machine.execTrapEntry gid s
  | .groupRungTimeout gid => Sys2Proof.Machine.execGroupRungTimeout gid s
  | .upperRungTimeout stop => Sys2Proof.Machine.execUpperRungTimeout stop s
  | .upperRungStop stop => Sys2Proof.Machine.execUpperRungStop stop s
  | .eventRecordWrite fn => Sys2Proof.Machine.execEventRecordWrite fn s
  | .codePageFill die core fn pasid page => Sys2Proof.Machine.execCodePageFill die core fn pasid page s
  | .tileRetire team => Sys2Proof.Machine.execTileRetire team s
  | .ringSlotGrant team => Sys2Proof.Machine.execRingSlotGrant team s
  | .overflowCopy book res die tile => Sys2Proof.Machine.execOverflowCopy book res die tile s
  | .cueMessageReceive die book pass tile => Sys2Proof.Machine.execCueMessageReceive die book pass tile s
  | .taskLaunch die core => Sys2Proof.Machine.execTaskLaunch die core s
  | .taskRetire team => Sys2Proof.Machine.execTaskRetire team s
  | .seqStageInput team sample => Sys2Proof.Machine.execSeqStageInput team sample s
  | .seqStepEnd team sample => Sys2Proof.Machine.execSeqStepEnd team sample s
  | .ctxnew fn cmd => Sys2Proof.Machine.execCtxnew fn cmd s
  | .ctxend fn cmd => Sys2Proof.Machine.execCtxend fn cmd s
  | .launch fn cmd => Sys2Proof.Machine.execLaunch fn cmd s
  | .gridEnd grid => Sys2Proof.Machine.execGridEnd grid s
  | .answer fn cmd => Sys2Proof.Machine.execAnswer fn cmd s
  | .swout fn cmd => Sys2Proof.Machine.execSwout fn cmd s
  | .swin fn cmd => Sys2Proof.Machine.execSwin fn cmd s
  | .vacate fn cmd => Sys2Proof.Machine.execVacate fn cmd s
  | .vacateComplete job => Sys2Proof.Machine.execVacateComplete job s
  | .hostReturn fn cmd => Sys2Proof.Machine.execHostReturn fn cmd s
  | .partset fn cmd => Sys2Proof.Machine.execPartset fn cmd s
  | .wswrite fn cmd => Sys2Proof.Machine.execWswrite fn cmd s
  | .wstrim fn cmd => Sys2Proof.Machine.execWstrim fn cmd s
  | .vecset fn cmd => Sys2Proof.Machine.execVecset fn cmd s
  | .lnksvc fn cmd => Sys2Proof.Machine.execLnksvc fn cmd s
  | .partmem fn cmd => Sys2Proof.Machine.execPartmem fn cmd s
  | .hqCmdtailDoorbell fn index => Sys2Proof.Machine.execHqCmdtailDoorbell fn index s
  | .hqEvtheadWrite fn index => Sys2Proof.Machine.execHqEvtheadWrite fn index s
  | .linkFlitReceive link dir crcOk => Sys2Proof.Machine.execLinkFlitReceive link dir crcOk s
  | .linkLost link => Sys2Proof.Machine.execLinkLost link s
  | .linkServiceWindow => Sys2Proof.Machine.execLinkServiceWindow s
  | .linkServiceWaitTimeout link m => Sys2Proof.Machine.execLinkServiceWaitTimeout link m s
  | .lnkPause link side m => Sys2Proof.Machine.execLnkPause link side m s
  | .lnkUnpause link side m => Sys2Proof.Machine.execLnkUnpause link side m s
  | .lnkRetrain link side m => Sys2Proof.Machine.execLnkRetrain link side m s
  | .lnkRetrainComplete link m ok errE errF => Sys2Proof.Machine.execLnkRetrainComplete link m ok errE errF s
  | .lnkOff link side m => Sys2Proof.Machine.execLnkOff link side m s
  | .lnkOn link side m => Sys2Proof.Machine.execLnkOn link side m s
  | .lnkRetrycntClr link side m => Sys2Proof.Machine.execLnkRetrycntClr link side m s
  | .pwrQctlWrite quad val => Sys2Proof.Machine.execPwrQctlWrite quad val s
  | .pwrTransitionStep quad => Sys2Proof.Machine.execPwrTransitionStep quad s
  | .bootStart => Sys2Proof.Machine.execBootStart s
  | .bootVerifyComplete ok err => Sys2Proof.Machine.execBootVerifyComplete ok err s
  | .bootImgGo => Sys2Proof.Machine.execBootImgGo s
  | .functionReady unit ok => Sys2Proof.Machine.execFunctionReady unit ok s
  | .vfFlr vf => Sys2Proof.Machine.execVfFlr vf s
  | .pfFlr => Sys2Proof.Machine.execPfFlr s
  | .spdmGetVersion req => Sys2Proof.Machine.execSpdmGetVersion req s
  | .spdmGetCapabilities req => Sys2Proof.Machine.execSpdmGetCapabilities req s
  | .spdmNegotiateAlgorithms req => Sys2Proof.Machine.execSpdmNegotiateAlgorithms req s
  | .spdmGetDigests req => Sys2Proof.Machine.execSpdmGetDigests req s
  | .spdmGetCertificate req => Sys2Proof.Machine.execSpdmGetCertificate req s
  | .spdmChallenge req => Sys2Proof.Machine.execSpdmChallenge req s
  | .spdmGetMeasurements req => Sys2Proof.Machine.execSpdmGetMeasurements req s
  | .illegalInstruction w => Sys2Proof.Machine.execIllegalInstruction w s
  | .partsetZeroFillComplete job => Sys2Proof.Machine.execPartsetZeroFillComplete job s
  | .stagedUnitCommit unit => Sys2Proof.Machine.execStagedUnitCommit unit s

end Sys2Proof.Machine
end

