-- ==== Sys2Proof/Machine/Acts.lean ====
section
/-! DEFINITION. Pending work: each piece runs the meaning of its own row of the opcode table. -/

namespace Sys2Proof.Machine

/-! ## A lane instruction that a handler injected (R470, R471) -/

/-- The registers that hold the operand log's values: A at v0, B at v8, C at v12; v4 and v5 hold bits [191:128] of A. -/
def Entry.seated (e : Entry) : Map W32 :=
  (lanesOf e.mask).flatMap (fun l =>
    let put (n : Nat) (x : Nat) (w : Nat) : List (Nat × W32) :=
      (List.range w).map (fun k => (l * 256 + n + k, BitVec.ofNat 32 (x / 2 ^ (32 * k))))
    put 0 (e.opa.getD l 0).toNat 4 ++ put 4 (e.high.getD l 0).toNat 2 ++ put 8 (e.opb.getD l 0).toNat 4 ++ put 12 (e.opc.getD l 0).toNat 4)

/-- The group while it performs one entry: the operand log in its registers, the entry's uniform operands, one run. -/
def Group.seatEntry (g : Group) (e : Entry) : Group :=
  { g with
    v := e.seated, s := (List.range e.uops.length).map (fun k => (k, uop e.uops k))
    badV := [], badS := [], table := [(e.pc, e.mask)], table1 := [], lbud := 256, entries := [], pend := none, wait := .none, hnd := false }

/-- The group after it: its own registers, with the destination that each lane's DREG byte names. -/
def Group.unseatEntry (g after : Group) (e : Entry) (f : LaneForm) : Group :=
  let dw := if dstIsChan f.d then 0 else f.dw
  let g1 : Group := { after with
    v := g.v, s := g.s, badV := g.badV, badS := g.badS, table := g.table, table1 := g.table1, lbud := g.lbud
    entries := g.entries, pend := g.pend, wait := g.wait, waitPc := g.waitPc, waitRun := g.waitRun, hnd := g.hnd }
  ((lanesOf e.mask).foldl (fun g l => g.writeWide l (e.dreg.getD l 0) dw (after.readWide l 16 dw)) g1).retire e

/-- The state in which the entry's instruction is run: its group in the focus, and no handler to enter. -/
def State.seatEntry (s : State) (gid : Nat) (g : Group) (e : Entry) (c : Ctx) : State :=
  ({ s with focus := gid, stalled := false, ctxs := s.ctxs.set g.ctx { c with traps := { c.traps with gvec := 1, pbn := 0 } } } : State).setGroup gid
    (g.seatEntry e)

/-- An injected lane instruction is performed: its own meaning over the operand log. A failure is a new group-rung trap. -/
def State.performInjected (s : State) (gid : Nat) (g : Group) (e : Entry) (twin : Instr) (f : LaneForm) : State :=
  match s.ctxs.get? g.ctx with
  | none => s
  | some c =>
    match exec twin (s.seatEntry gid g e c) with
    | .next s1 =>
      (match s1.groups.get? gid with
       | none => s
       | some g1 =>
         match g1.pend with
         | some p => s.failEntry gid e p.cause false p.irec
         | none =>
           if s1.stalled || !(g1.wait == .none) then s.push (.replay gid e.id)
           else
             ({ s1 with focus := s.focus, stalled := s.stalled, ctxs := s1.ctxs.modify g.ctx (fun y => { y with traps := c.traps }) } : State).setGroup gid
               (g.unseatEntry g1 e f))
    | .fault _ => s
    | .refused _ => s

/-- An entry of the replay queue goes on (R76, R471). -/
def runInjected (gid id : Nat) (s : State) : Result :=
  withEntry gid id (.replay gid id) s fun g e =>
    match laneTwin (g.width == 64) e.instr with
    | none => runReplay gid id s
    | some (twin, f) => .next (s.performInjected gid g e twin f)

/-! ## Each piece of work -/

/-- A piece of pending work is performed by the row that it names; what has no row of its own is a part of one (log 1). -/
def runAct (a : Act) (s : State) : Result :=
  match a with
  | .loadLanding gid id => execLoadLanding gid id s
  | .replay gid id => runInjected gid id s
  | .storeBufferDrain gid k => execStoreBufferDrain gid k s
  | .atomicPerform gid id lane => execAtomicPerform gid id lane s
  | .xaccCellAdd gid id lane => execXaccCellAdd gid id lane s
  | .engineUnitLand gid id => execEngineUnitLand gid id s
  | .matrixTransferLand team id => execMatrixTransferLand team id s
  | .matrixStep team id => execMatrixStep team id s
  | .traversalComplete gid id => execTraversalComplete gid id s
  | .camrayArrival gid id => execCamrayDescriptorArrival gid id s
  | .groupExit gid => execGroupExitComplete gid s
  | .repackArrive gid => execRepackArrive gid s
  | .mpwaitWake gid => execMpwaitWake gid s
  | .twaitWake gid => execTwaitWake gid s
  | .sqstageWake gid => execSqstageWake gid s
  | .sqdrainWake gid => execSqdrainWake gid s
  | .prunStart gid => execPrunStart gid s
  | .pwaitWake gid => execPwaitWake gid s
  | .pdropUnbind gid => execPdropUnbind gid s
  | .waitRelease gid => execWaitRelease gid s
  | .channelResume gid => execChannelOperationResume gid s
  | .trapEntry gid => execTrapEntry gid s
  | .upperRungStop stop => execUpperRungStop stop s
  | .eventRecordWrite fn => execEventRecordWrite fn s
  | .codePageFill die core fn pasid page => execCodePageFill die core fn pasid page s
  | .tileRetire team => execTileRetire team s
  | .ringSlotGrant team => execRingSlotGrant team s
  | .overflowCopy book res die tile => execOverflowCopy book res die tile s
  | .cueMessage die book pass tile => execCueMessageReceive die book pass tile s
  | .linkFlit link dir => runLinkFlit link dir s
  | .taskLaunch die core => execTaskLaunch die core s
  | .taskRetire team => execTaskRetire team s
  | .seqStageInput team sample => execSeqStageInput team sample s
  | .seqStepEnd team sample => execSeqStepEnd team sample s
  | .commandIntake fn => runIntake fn s
  | .gridEnd grid => execGridEnd grid s
  | .vacateComplete job => execVacateComplete job s
  | .partsetFill job => execPartsetZeroFillComplete job s
  | .stagedUnitCommit unit => execStagedUnitCommit unit s
  | .biasHostFlip fn => execBiasHostFlipComplete fn s
  | .layerGrow die slice => execLayerGrowComplete die slice s
  | .layerShrink die slice => execLayerShrinkBusyEnd die slice s
  | .gangStart die => execGangStart die s
  | .parkOut team => execTeamParkOut team s
  | .stageEnter gid => execStageEnter gid s
  | .pwrStep quad => execPwrTransitionStep quad s
  | .invalidateCompletion fn tag => execInvalidateCompletion fn tag s
  | .job k => runJob k s
  | .resume gid => runResume gid s
  | .lose ctx => runLose ctx s
  | .eventArrive fn stop b => runEventArrive fn stop b s
  | .control k die => runControl k die s
  | .forcePublish die num obj => runForcePublish die num obj s
  | .publishing die num obj => runPublishing die num obj s
  | .published die num obj => runPublished die num obj s

end Sys2Proof.Machine
end

