-- ==== Sys2Proof/Machine/Registers.lean ====
section
/-! DEFINITION. The host's reads of BAR0 (R8, R40 to R42, R54, R55, R74, R484, R506, R507, R518, R539, R540), the management processor's
registers (R392, R516, R530, R543), soft errors, and what the host does with the lines and the pages that it holds (R39, R507, R548). -/

namespace Sys2Proof.Machine

/-! ## Values of registers -/

/-- A register of a function's queues (R507). -/
def HostQueue.word (q : HostQueue) (off : Nat) : Option Nat :=
  match off with
  | 0x00 => some q.cmdBase
  | 0x08 => some q.evtBase
  | 0x10 => some (q.evtVec * 2 ^ 16 + q.evtLog2 * 2 ^ 12 + q.cmdLog2 * 2 ^ 8 + bitOf q.en)
  | 0x18 => some q.cmdTail
  | 0x20 => some q.cmdHead
  | 0x28 => some q.evtTail
  | 0x30 => some q.evtHead
  | _ => none

/-- MEM_BIASPAGE, MEM_BIASCTL and MEM_BIASSTAT of a function (R40 to R42). GO reads 0. -/
def State.biasWord (s : State) (fn off : Nat) : Option Nat :=
  let b := s.biasOf fn
  match off with
  | 0x00100000 => some b.page
  | 0x00100008 => some (bitOf b.target * 2)
  | 0x00100010 => some (b.err * 2 ^ 4 + bitOf (s.deviceBias b.page) * 2 ^ 3 + bitOf b.done * 2 + bitOf b.flip.isSome)
  | _ => none

/-- A pair of counts (R54, R484). -/
def ErrCount.word (c : ErrCount) : Nat := c.uncorr * 2 ^ 32 + c.corr

/-- PWR_QCTL (R531). -/
def Power.ctlWord (p : Power) : Nat := p.drWait * 2 ^ 24 + bitOf p.bankOff * 2 ^ 16 + p.targetOpp * 2 ^ 8 + p.targetPass

/-- PWR_QSTAT (R532). -/
def Power.statWord (p : Power) : Nat := p.hint * 2 ^ 16 + bitOf p.busy * 2 ^ 12 + p.opp * 2 ^ 8 + p.err * 2 ^ 4 + p.pass

/-- The mask of the functions in a list of flags: bit k for function u k. -/
def flagMask (l : List BringUp) (n : Nat) (u : Nat → BringUp) : Nat :=
  (List.range n).foldl (fun x k => if l.contains (u k) then x + 2 ^ k else x) 0

/-- BUP_READYd or BUP_FAILd of a die (R543). -/
def dieFlags (l : List BringUp) (die : Nat) : Nat :=
  flagMask l 4 (.linkModule die 1) * 2 ^ 60 + flagMask l 4 (.linkModule die 0) * 2 ^ 56 + flagMask l 4 (.linkModule die 2) * 2 ^ 52 +
    flagMask l 16 (.dram die) * 2 ^ 36 + flagMask l 24 (.slice die) * 2 ^ 12 + flagMask l 12 (.quad die)

/-- BUP_READYP or BUP_FAILP (R543). -/
def protrumFlags (l : List BringUp) : Nat := bitOf (l.contains .flash) * 2 + bitOf (l.contains .mgmt)

/-- The flag registers of bring-up by number (R543). -/
def State.bupWord (s : State) (reg : Nat) : Option Nat :=
  if reg < 0x0F00 then none
  else if reg < 0x0F04 then some (dieFlags s.ready (reg - 0x0F00))
  else if reg = 0x0F04 then some (protrumFlags s.ready)
  else if reg < 0x0F08 then none
  else if reg < 0x0F0C then some (dieFlags s.failed (reg - 0x0F08))
  else if reg = 0x0F0C then some (protrumFlags s.failed)
  else none

/-- PWR_QCTL and PWR_QSTAT by number (R530). -/
def State.powerWord (s : State) (reg : Nat) : Option Nat :=
  let quad := (reg - 0x0C00) / 16
  if reg < 0x0C00 ∨ 48 ≤ quad then none
  else
    match reg % 16 with
    | 0 => some (s.powerOf quad).ctlWord
    | 1 => some (s.powerOf quad).statWord
    | _ => none

/-- A register of the management range by its number (R392, R516, R530, R543); none for a number that names no register. -/
def State.mgmtWord (s : State) (reg : Nat) : Option Nat :=
  match linkRegOf reg with
  | some ((link, side, m), k) => some ((s.linkEnd link side m).regWord k)
  | none =>
    match s.powerWord reg with
    | some x => some x
    | none => s.bupWord reg

/-! ## The management processor -/

/-- The management processor reads a register. -/
def State.mgmtRead (s : State) (reg : Nat) : State :=
  match s.mgmtWord reg with
  | some x => if s.serving then { s with mgmtReply := x } else s
  | none => s

/-- The management processor writes a register: a link's (R516), after which a service routine may go on, or PWR_QCTL (R533). The others are
read-only. -/
def State.mgmtWrite (s : State) (reg : Nat) (val : W64) : Result :=
  if !s.serving then .next s
  else
    match linkRegOf reg with
    | some ((link, side, m), k) => .next ((s.writeLinkReg link side m k val.toNat).serveLink link)
    | none =>
      if 0x0C00 ≤ reg ∧ reg < 0x0F00 ∧ reg % 16 = 0 then execPwrQctlWrite ((reg - 0x0C00) / 16) val s else .next s

/-! ## BAR0 reads -/

/-- What a read that only the physical function may make returns: a virtual function reads 0 (R54, R484, R506, R539). -/
def pfOnly (fn : Nat) (x : Option Nat) : Option Nat := if fn = 0 then x else x.map (fun _ => 0)

/-- A register of the counters (R54, R484). -/
def State.countWord (s : State) (off : Nat) : Option Nat :=
  if off % 8 ≠ 0 then none
  else if 0x00100100 ≤ off ∧ off < 0x00100120 then some (s.ecc.getD ((off - 0x00100100) / 8) ErrCount.zero).word
  else if 0x00120000 ≤ off ∧ off < 0x00120028 then some (s.mck.getD ((off - 0x00120000) / 8) ErrCount.zero).word
  else none

/-- The boot registers (R539, R540). GO reads 0. -/
def State.bootWord (s : State) (off : Nat) : Option Nat :=
  match off with
  | 0x00140000 => some (s.boot.err * 2 ^ 8 + s.boot.state)
  | 0x00140008 => some s.boot.base
  | _ => none

/-- TRN_CTL (R74). -/
def State.trnWord (s : State) (fn off : Nat) : Option Nat := if off = 0x00110000 then some (bitOf (s.flushing.contains fn) * 2) else none

/-- MEM_WSBASE (R55), which the physical function alone has. -/
def State.storeWord (s : State) (off : Nat) : Option Nat := if off = 0x00100200 then some (s.wsBase * 2 ^ 43 + bitOf s.wsEn) else none

/-- The window on the management range (R518). -/
def State.windowWord (s : State) (off : Nat) : Option Nat :=
  if off < 0x00130000 ∨ off % 8 ≠ 0 ∨ 0x00134000 ≤ off then none else s.mgmtWord (0x0800 + (off - 0x00130000) / 8)

/-- The registers that work only while the firmware runs (R538). -/
def State.servedWord (s : State) (fn off : Nat) : Option Nat :=
  (s.queueOf fn).word off <|> s.biasWord fn off <|> s.trnWord fn off <|> pfOnly fn (s.countWord off <|> s.storeWord off <|> s.windowWord off)

/-- The value of a BAR0 register of a function (R506); none for an offset that names no register. Before the firmware runs only the boot
registers work, and the others read 0 (R538). -/
def State.barWord (s : State) (fn off : Nat) : Option Nat :=
  match pfOnly fn (s.bootWord off) with
  | some x => some x
  | none => if s.serving then s.servedWord fn off else (s.servedWord fn off).map (fun _ => 0)

/-- The width of a BAR0 register in bytes: MEM_BIASCTL, MEM_BIASSTAT and TRN_CTL have 32 bits (R41, R42, R74). -/
def barBytes (off : Nat) : Nat := if off = 0x00100008 ∨ off = 0x00100010 ∨ off = 0x00110000 then 4 else 8

/-- The host reads a BAR0 register (R8, R506). A lost module answers nothing (R462); an offset that names no register is answered with none
(log 90). -/
def State.hostRegRead (s : State) (fn off : Nat) : State :=
  if s.dead then s else s.answerHost ((s.barWord fn off).map (fun x => toBytes x (barBytes off)))

/-! ## Soft errors (R52, R57, R131, R253, R324, R483, R548) -/

/-- A unit added to a list of marks. -/
def mark (l : List Nat) (k : Nat) : List Nat := if l.contains k then l else k :: l

/-- A unit of protection at a place is uncorrectable. -/
def State.markPlace (s : State) (l : Loc) : State :=
  match l with
  | .host a => { s with hostBad := mark s.hostBad (a / 64) }
  | .dram a => { s with dramBad := mark s.dramBad (a / 32) }
  | .flash a => { s with flashBad := mark s.flashBad (a / 4096) }
  | .layer d a => { s with layerBad := mark s.layerBad (layerKey d a / 8) }
  | .team t a => { s with teams := s.teams.modify t (fun tm => { tm with bad := mark tm.bad (a / 4) }) }

/-- A group changed. -/
def State.mapGroup (s : State) (gid : Nat) (f : Group → Group) : State := { s with groups := s.groups.modify gid f }

/-- An error that cannot be corrected strikes what it names. -/
def State.upset (s : State) (u : Upset) : State :=
  match u with
  | .place l => s.markPlace l
  | .vreg gid k => s.mapGroup gid (fun g => { g with badV := mark g.badV k })
  | .xreg gid k => s.mapGroup gid (fun g => { g with badX := mark g.badX k })
  | .wreg gid k => s.mapGroup gid (fun g => { g with badW := mark g.badW k })
  | .sreg gid k => s.mapGroup gid (fun g => { g with badS := mark g.badS k })
  | .creg gid k => s.mapGroup gid (fun g => { g with badC := mark g.badC k })
  | .generator gid k => s.mapGroup gid (fun g => { g with badGen := mark g.badGen k })
  | .matrix team kind word =>
    { s with teams := s.teams.modify team (fun t =>
        { t with mat := { t.mat with bad := if t.mat.bad.contains (kind, word) then t.mat.bad else (kind, word) :: t.mat.bad } }) }
  | .stored gid id => s.mapGroup gid (fun g => { g with sbuf := g.sbuf.map (fun e => if e.id = id then { e with bad := true } else e) })
  | .queued gid id => s.mapGroup gid (fun g => { g with entries := g.entries.map (fun e => if e.id = id then { e with bad := true } else e) })
  | .synced k => { s with syncRecs := s.syncRecs.zipIdx.map (fun r => if r.2 = k then { r.1 with bad := true } else r.1) }
  | .cue book die pass tile far =>
    { s with books := s.books.modify book (fun b => { b with cues := b.cues.map (fun c =>
        if c.die = die ∧ c.pass = pass ∧ c.tile = tile ∧ c.far = far then { c with bad := true } else c) }) }
  | .sample team k =>
    { s with teams := s.teams.modify team (fun t => { t with sol := { t.sol with samples := t.sol.samples.modify k (fun x => { x with bad := true }) } }) }

/-- A soft error that was corrected is counted: at the graphics DRAM of a die (R52, R54), or on a die or Protrum (R484). -/
def State.corrected (s : State) (onDie : Bool) (part : Nat) : State :=
  if onDie then (if part < 5 then { s with mck := bumpCorr s.mck part } else s)
  else if part < 4 then { s with ecc := bumpCorr s.ecc part }
  else s

/-- A transfer of a DRAM codeword fails its CRC some times over (R52): up to 4 retries mend it; after that the next read of the codeword meets
uncorrectable data. -/
def State.crcFailure (s : State) (codeword times : Nat) : State :=
  if 4 < times ∧ codeword < dramBytes / 32 then { s with crcBad := mark s.crcBad codeword } else s

/-! ## The host's own part -/

/-- The host's cache changes a line of a host-bias page, or holds it poisoned (R39, R548): the host has it alone, so the device holds no copy, and
no flip of its page is under way. -/
def State.hostLine (s : State) (line : Nat) (data : List Byte) (poison : Bool) : State :=
  if s.deviceBias (line / 1024) || s.flipping (line / 1024) || s.cxlLines.contains line || !(data.length == 64) then s
  else
    { s with
      hostLines := s.hostLines.set line data
      hostLineBad := if poison then mark s.hostLineBad line else s.hostLineBad.filter (fun l => !(l == line)) }

/-- The host maps a page of a function's IO virtual addresses, or refuses it (R507). -/
def State.hostMap (s : State) (fn page : Nat) (at_ : Option Nat) : State := { s with ioMap := s.ioMap.set (fn * 2 ^ 52 + page) at_ }

end Sys2Proof.Machine
end

