-- ==== Sys2Proof/Machine/Step.lean ====
section
/-! DEFINITION. One step of the module: what the agenda says next, else the focus group's next instruction, else pending work. -/

namespace Sys2Proof.Machine

/-- A decoded instruction runs; a word that the decode checks refuse raises its cause (R172). -/
def State.runWords (s : State) (gid : Nat) (pc : W64) (run : BitVec 64) (w1 w2 : W32) : Result :=
  match decode w1 w2 with
  | .illegal => exec (.illegalInstruction w1) { s with focus := gid }
  | .reserved => .next (s.raise gid ⟨0x02, 0, pc, true, run, w1, w2, [], 0⟩)
  | .instr i _ => exec i { s with focus := gid }

/-- A group on the stage issues the instruction at its first lane-PC entry (R372, R451). -/
def State.issue (s : State) (gid : Nat) : Result :=
  if !s.mayIssue gid then .next s
  else
    match s.groups.get? gid with
    | none => .next s
    | some g =>
      match g.run with
      | none => .next s
      | some (pc, run) =>
        match s.fetch gid g pc with
        | .outside => .next (s.raise gid ⟨0x04, 0, pc, true, run, 0, 0, [], pc⟩)
        | .missing page => .next (s.fetchMiss gid g page)
        | .words w1 w2 => fetched gid (s.runWords gid pc run w1 w2)

/-- The instruction that a group is to issue next is tried: if it is held, what it does while it waits is done and the group is marked (R451). A fetch that
is missing holds nothing: the group makes it from the stage. -/
def State.tryHeld (s : State) (gid : Nat) : State :=
  match s.groups.get? gid with
  | none => s
  | some g =>
    let mark (s : State) (b : Bool) : State := { s with groups := s.groups.modify gid (fun x => { x with held := b }) }
    match g.run with
    | none => mark s false
    | some (pc, run) =>
      match s.groupReady gid, s.fetch gid g pc with
      | true, .words w1 w2 =>
        (match s.runWords gid pc run w1 w2 with
         | .next t => if t.stalled then mark { t with stalled := false, focus := s.focus } true else mark s false
         | .fault _ => mark s false
         | .refused _ => mark s false)
      | _, _ => mark s false

/-- Ready groups come up from the wings (R451), by the readiness of the groups as it is now. Where no group stands in the wings none has to leave the stage,
and no instruction is tried. -/
def State.stageWork (s : State) : State :=
  if s.inWings = [] then s.look else ((s.groups.foldl (fun s e => s.tryHeld e.1) s).look).stagePass

/-- What the agenda names happens (log 1). -/
def State.doMove (s : State) : Move → Result
  | .issue gid => s.issue gid
  | .event i => exec i s
  | .act a => runAct a s
  | .hostRead fn off => .next (s.hostRegRead fn off)
  | .mgmtRead reg => .next (s.mgmtRead reg)
  | .mgmtWrite reg val => s.mgmtWrite reg val
  | .corrected onDie part => .next (s.corrected onDie part)
  | .upset u => .next (s.upset u)
  | .crcFailure codeword times => .next (s.crcFailure codeword times)
  | .hostLine line data poison => .next (s.hostLine line data poison)
  | .hostMap fn page at_ => .next (s.hostMap fn page at_)

/-- Ready groups come up from the wings (R451), another ready group comes to the focus, and the oldest pending work is performed (log 1). -/
def State.doWork (s : State) : Result :=
  let s0 := ({ s with stalled := false } : State).stageWork
  let s1 : State := { s0 with stalled := false, focus := s0.nextFocus }
  match s1.work with
  | [] => .next s1
  | a :: r => runAct a { s1 with work := r }

/-- The focus group issues in this step: it may, and this step is its turn. Every other step performs a piece of pending work and moves the
focus on, so that a group that never waits keeps nothing from going on (log 1). -/
def State.issuesNow (s : State) : Bool := s.tick % 2 == 1 && !s.stalled && s.mayIssue s.focus

/-- One step (log 1). -/
def step (s : State) : Host.Outcome State Fault Refusal :=
  let s1 : State := { s with tick := s.tick + 1 }
  match s1.agenda with
  | m :: r => State.doMove { s1 with agenda := r } m
  | [] => if s1.issuesNow then s1.issue s1.focus else s1.doWork

/-- s with an instruction of the opcode table placed where step fetches next (log 14): bits 31..0 of w are its first word,
bits 63..32 its second; the bits above nbits are 0. -/
def State.withFetchWord (s : State) (nbits w : Nat) : State := s.load (toBytes (w % 2 ^ nbits) 8)

end Sys2Proof.Machine
end

