-- ==== Sys2Proof/Safety.lean ====
section
/-! DEFINITION. What a safe run is, and the terms that statements are written in. -/

namespace Sys2Proof.Machine

/-- The module's memories are in their canonical form, and the HDM range starts at a multiple of its size (R37). -/
def State.MemoriesOk (s : State) : Prop :=
  s.host.wf = true ∧ s.dram.wf = true ∧ s.flash.wf = true ∧ s.layer.wf = true ∧ ∀ base, s.hdm = some base → base % 2 ^ 39 = 0

/-- The focus group g, of team t, stands at pc with the lanes of run (R11, R372). -/
abbrev State.Issues (s : State) (g : Group) (t : Team) (pc : W64) (run : BitVec 64) : Prop :=
  s.groups.get? s.focus = some g ∧ g.run = some (pc, run) ∧ s.teams.get? g.team = some t

/-- The first register that a destination names in a lane (R112, R117). -/
def Group.dstReg (g : Group) (lane : Nat) (d : LDst) : Nat :=
  match d with
  | .reg n => n.toNat
  | .idx x off => g.indexOf lane x.toNat off.toNat
  | .chan _ _ => 0

/-! ## Lane instructions -/

/-- No operand of the form is a channel. -/
def LaneForm.noChan (f : LaneForm) : Bool :=
  !dstIsChan f.d && (srcChan f.a.src).isNone && (srcChan f.b.src).isNone && (srcChan f.c.src).isNone

/-- The active lanes: the run's lanes under the guard (R168). -/
def Group.active (g : Group) (run : BitVec 64) (gd : Guard) : BitVec 64 := run &&& g.guardMask gd

/-- The instruction executes at once: its registers lie within the budgets (R115), its indexed operands in bound in every active
lane (R117), no source word is uncorrectable (R131), and no outstanding instruction writes one of its registers (R129). -/
abbrev Group.LaneReady (g : Group) (f : LaneForm) (on : BitVec 64) : Prop :=
  g.srcBudget f.a = true ∧ g.srcBudget f.b = true ∧ g.srcBudget f.c = true ∧ g.dstBudget f.d f.dw = true ∧
  g.srcBad on f.a = [] ∧ g.srcBad on f.b = [] ∧ g.srcBad on f.c = [] ∧ g.dstBad on f.d f.dw = [] ∧
  g.badWords on ([f.a, f.b, f.c].flatMap (g.srcKeys on) ++ dstIndex f.d f.dw ++ (if f.draws = 0 then [] else [drawKey]) ++ f.extra) = false ∧
  g.blocked ([f.a, f.b, f.c].flatMap (g.srcKeys on) ++ g.dstKeys on f.d f.dw ++ (if f.draws = 0 then [] else [drawKey])) = false

/-- The operand values of a lane, none of them from a channel, and the draws that it takes. -/
def Group.laneIn (g : Group) (f : LaneForm) (l : Nat) : LaneIn :=
  ⟨l, g.srcValue 0 l f.a .s32 [], g.srcValue 0 l f.b f.ty [], g.srcValue 0 l f.c .s32 [], (g.drawN l f.draws).1⟩

/-- What a lane instruction does that writes D in every active lane (R217): it completes, moves its run on, and D holds out; its
flags become sticky (R150), each active lane's COUNTER advances by the draws taken (R133), and a word it writes is bad no longer (R483). Every other register, predicate,
flag and counter of the group, and everything outside the group, is as before. -/
def WritesLanes (i : Instr) (len : Nat) (f : LaneForm) (out : Group → BitVec 64 → Nat → LaneOut) : Prop :=
  ∀ (s : State) (g : Group) (t : Team) (pc : W64) (run : BitVec 64), s.Issues g t pc run → f.noChan = true →
    g.LaneReady f (g.active run f.guard) →
    ∃ g' : Group,
      exec i s = .next (s.setGroup s.focus (g'.place run [(pc + BitVec.ofNat 64 len, run)])) ∧
      (∀ l ∈ lanesOf (g.active run f.guard),
        g'.readWide l (g.dstReg l f.d) f.dw = (out g (g.active run f.guard) l).val % 2 ^ (32 * f.dw)) ∧
      (∀ l n, n < 256 → ¬(l ∈ lanesOf (g.active run f.guard) ∧ g.dstReg l f.d ≤ n ∧ n < g.dstReg l f.d + f.dw) →
        g'.readV l n = g.readV l n) ∧
      (∀ l n, n < 256 → (l * 256 + n ∈ g'.badV ↔ l * 256 + n ∈ g.badV ∧
        ¬(l ∈ lanesOf (g.active run f.guard) ∧ g.dstReg l f.d ≤ n ∧ n < g.dstReg l f.d + f.dw))) ∧
      g'.flags = ((lanesOf (g.active run f.guard)).map (fun l => (out g (g.active run f.guard) l).flags)).foldl (fun a b => a ||| b) g.flags ∧
      (∀ l, g'.counter.getD l 0 =
        g.counter.getD l 0 + (if l ∈ lanesOf (g.active run f.guard) then BitVec.ofNat 64 f.draws else 0)) ∧
      { g' with v := g.v, badV := g.badV, flags := g.flags, counter := g.counter } = g

/-- The operands of a short form of two sources of w registers each, and of one source (R170, R219). -/
def form2 (d a b : Operand) (dw w : Nat) (ty : ImmTy) : LaneForm := ⟨asDst d, dw, ⟨asSrc a, w⟩, ⟨asSrc b, w⟩, noSrc, ty, Guard.none, 0, []⟩
def form1 (d b : Operand) (dw w : Nat) (ty : ImmTy) : LaneForm := ⟨asDst d, dw, noSrc, ⟨asSrc b, w⟩, noSrc, ty, Guard.none, 0, []⟩

/-- An operand value as a 32-bit or a 64-bit word. -/
def w32 (x : Nat) : BitVec 32 := BitVec.ofNat 32 x
def w64 (x : Nat) : BitVec 64 := BitVec.ofNat 64 x

/-- A result that raises no flag. -/
def result {n : Nat} (x : BitVec n) : LaneOut := ⟨x.toNat, 0⟩

/-- Sat(z, -2^31, 2^31 - 1), with SAT if it was clamped (R150, R227). -/
def saturated32 (z : Int) : LaneOut :=
  if z < -2 ^ 31 then ⟨0x80000000, flagSat⟩ else if 2 ^ 31 - 1 < z then ⟨0x7FFFFFFF, flagSat⟩ else ⟨(BitVec.ofInt 32 z).toNat, 0⟩

/-- n of R231: the width of the field that a control word names. -/
def fieldBits (b : BitVec 32) : Nat :=
  let pos := (b.extractLsb' 0 8).toNat
  let len := (b.extractLsb' 8 8).toNat
  if 32 ≤ pos ∨ len = 0 then 0 else min len (32 - pos)

/-- A word whose n low bits are set. -/
def lowOnes (n : Nat) : BitVec 32 := BitVec.ofNat 32 (2 ^ n - 1)

/-- The number whose bits are listed, the lowest first. -/
def ofBits : List Bool → Nat
  | [] => 0
  | b :: r => b.toNat + 2 * ofBits r

/-- The same value in every lane, computed from that lane's operands. -/
def perLane (f : LaneForm) (fn : LaneIn → LaneOut) : Group → BitVec 64 → Nat → LaneOut := fun g _ l => fn (g.laneIn f l)

/-- What a lane instruction does that writes a predicate in its active lanes (R111, R236): it completes and moves its run on; the
predicate holds val in the active lanes and what it held in the others, or nothing is written if it is p0; all else is as before. -/
def WritesPred (i : Instr) (len : Nat) (f : LaneForm) (pd : Nat) (val : Group → BitVec 64 → Nat → Bool) : Prop :=
  ∀ (s : State) (g : Group) (t : Team) (pc : W64) (run : BitVec 64), s.Issues g t pc run → f.noChan = true →
    g.LaneReady f (g.active run f.guard) →
    ∃ g' : Group,
      exec i s = .next (s.setGroup s.focus (g'.place run [(pc + BitVec.ofNat 64 len, run)])) ∧
      (∀ l, l < 64 → (g'.predMask pd).getLsbD l =
        if pd ≠ 0 ∧ l ∈ lanesOf (g.active run f.guard) then val g (g.active run f.guard) l else (g.predMask pd).getLsbD l) ∧
      (∀ n, n ≠ pd → g'.predMask n = g.predMask n) ∧
      { g' with p := g.p } = g

/-- The extended forms: operands of a shape, draws for n elements under the rounding mode of MOD (R147, R166). -/
def formX (x : LX) (dw aw bw cw : Nat) (ty : ImmTy) (n : Nat) : LaneForm :=
  lxForm x ⟨dw, aw, bw, cw, ty, true⟩ (srDraws (modeOf x.mod.toNat) n)

/-- A pair of packed 16-bit results, with the flags of both (R223). -/
def pairOf (lo hi : Nat × Flags) : LaneOut := ⟨lo.1 + 2 ^ 16 * hi.1, lo.2 ||| hi.2⟩

/-- The low and high 16-bit elements of a register. -/
def lo16 (x : Nat) : Nat := elem16 x 0
def hi16 (x : Nat) : Nat := elem16 x 1

/-- A result that raises no flag, as a number. -/
def value (x : Nat) : LaneOut := ⟨x, 0⟩

/-- The lane named j of the group or half that a lane exchanges in (R241). -/
def Group.partner (g : Group) (l j : Nat) : Nat := (g.exchange l).2 + j

/-- a(j) if lane j of the group or half is active, else the lane's own a (R242). -/
def Group.exchanged (g : Group) (f : LaneForm) (on : BitVec 64) (l j : Nat) : LaneOut :=
  value (if g.partner l j ∈ lanesOf on then (g.laneIn f (g.partner l j)).a else (g.laneIn f l).a)

/-- The root of the reduction tree over the active lanes of a lane's group or half (R156, R245). -/
def Group.reduced (g : Group) (f : LaneForm) (op : Nat → Nat → Nat × Flags) (on : BitVec 64) (l : Nat) : LaneOut :=
  let r := treeRoot op (g.exchange l).1.log2 ((List.range (g.exchange l).1).map fun j =>
    if g.partner l j ∈ lanesOf on then some (g.laneIn f (g.partner l j)).a else none)
  ⟨r.1.getD 0, r.2⟩

/-- The operands of an instruction that reads one register in A, of a compare of two, of xset and of sel (R235, R236, R238, R245). -/
def formA (x : LX) : LaneForm := ⟨x.d, 1, ⟨x.a, 1⟩, noSrc, noSrc, .s32, x.guard, 0, []⟩
def formAB (x : LX) (w : Nat) (ty : ImmTy) : LaneForm := ⟨.reg 0, 0, ⟨x.a, w⟩, ⟨x.b, w⟩, noSrc, ty, x.guard, 0, []⟩
def formB (b : Operand) : LaneForm := ⟨.reg 0, 0, noSrc, ⟨asSrc b, 1⟩, noSrc, .s32, Guard.none, 0, []⟩
def formSel (x : LX) : LaneForm := ⟨x.d, 1, ⟨x.a, 1⟩, ⟨x.b, 1⟩, noSrc, .s32, x.guard, 0, []⟩

/-- The operands of an instruction that reads no register. -/
def formNone (d : LDst) (dw : Nat) (gd : Guard) (draws : Nat) : LaneForm := ⟨d, dw, noSrc, noSrc, noSrc, .s32, gd, draws, []⟩

/-- The predicate operand of a compare or sel in a lane: register C mod 8, negated if C names 8 or more (R236, R238). -/
def Group.combined (g : Group) (c : LSrc) (l : Nat) : Bool := (g.predMask (smallSrc c % 8)).getLsbD l != decide (8 ≤ smallSrc c)

/-- The instruction is a lane instruction of a form: it acts by the frame that the lane set shares (R217). -/
def LaneInstr (i : Instr) (len : Nat) (f : LaneForm) (chk : List LaneIn → Option (Nat × Map W64))
    (act : Issue → BitVec 64 → List LaneIn → Group → Group × List (Nat × Nat)) : Prop :=
  usesB0 i = false ∧ ∀ s, exec i s = laneFrame i len f s chk act

/-- The channels that the sources of a form name, with their pop bits, in field order (R124). -/
def LaneForm.chans (f : LaneForm) : List (Option (Bool × Nat)) := [srcChan f.a.src, srcChan f.b.src, srcChan f.c.src]

/-- The operands of the twin of a short form (R171). -/
def twinForm (op : LaneOp) (x : LX) : LaneForm :=
  ⟨x.d, op.shape.dw, ⟨x.a, op.shape.aw⟩, ⟨x.b, op.shape.bw⟩, noSrc, op.shape.ty, x.guard, laneDraws op (modeOf x.mod.toNat), []⟩

/-- The group raises a cause at its own rung for the instruction at pc (R466): nothing of the instruction takes effect. -/
def State.traps (s : State) (i : Instr) (len : Nat) (g : Group) (pc : W64) (run : BitVec 64) (cause : Nat) (recs : Map W64) : Result :=
  .next (s.raise s.focus ((Issue.mk i s.focus g pc run len).pend cause recs))

/-! ## Uniform instructions -/

/-- The registers s read and written lie within the budget (R115), no source is uncorrectable (R131), and no outstanding instruction
writes one of them (R129) or predicate b0 (R326). -/
abbrev Group.UniReady (g : Group) (reads writes : List Nat) : Prop :=
  (∀ n ∈ reads ++ writes, n < g.ubud) ∧ (∀ k ∈ g.badS, k / 2 ∉ reads) ∧ g.blocked ((reads ++ writes).map sKey) = false ∧ g.blocked [b0Key] = false

/-- The next state of an instruction that leaves its group as g' says and moves its run to the next instruction (R372). -/
def State.moves (s : State) (g' : Group) (pc : W64) (len : Nat) (run : BitVec 64) : Result :=
  .next (s.setGroup s.focus (g'.place run [(pc + BitVec.ofNat 64 len, run)]))

/-- What a uniform instruction does (R364): once its checks pass and its guard holds, the group is as out says, its run moves on, and
nothing else changes; under a false guard its run moves on and nothing else changes. -/
def UniDoes (i : Instr) (len : Nat) (reads writes : List Nat) (gd : Guard) (out : Group → Group) : Prop :=
  ∀ (s : State) (g : Group) (t : Team) (pc : W64) (run : BitVec 64), s.Issues g t pc run → g.UniReady reads writes →
    exec i s = s.moves (if g.guardTrue gd then out g else g) pc len run

/-- The registers that a source B of a uniform instruction reads. -/
def srcRegs : USrc → List Nat
  | .reg n => [n.toNat]
  | .chan _ _ => []
  | .imm _ => []

/-- A uniform instruction of two s registers and one. -/
def Uni2 (i : Operand → Operand → Operand → Instr) (fn : W64 → W64 → W64) : Prop :=
  ∀ d a b : BitVec 7, UniDoes (i (.reg d) (.reg a) (.reg b)) 4 [a.toNat, b.toNat] [d.toNat] Guard.none fun g =>
    g.writeS d.toNat (fn (g.readS a.toNat) (g.readS b.toNat))
def Uni1 (i : Operand → Operand → Instr) (fn : W64 → W64) : Prop :=
  ∀ d b : BitVec 7, UniDoes (i (.reg d) (.reg b)) 4 [b.toNat] [d.toNat] Guard.none fun g => g.writeS d.toNat (fn (g.readS b.toNat))

/-- The field of R369: n bits of a from bit pos, widened. -/
def uniField (signed : Bool) (a b : W64) : W64 :=
  let pos := (b.extractLsb' 0 8).toNat
  let len := (b.extractLsb' 8 8).toNat
  let n := if 64 ≤ pos ∨ len = 0 then 0 else min len (64 - pos)
  if n = 0 then 0 else if signed then (a.extractLsb' pos n).signExtend 64 else (a.extractLsb' pos n).setWidth 64

/-- The instruction is a uniform instruction over operands (R364): it acts by the frame that those share. -/
def UniInstr (i : Instr) (len : Nat) (d : Option Operand) (a b : Option USrc) (gd : Guard) (act : W64 → W64 → Group → Group × W64) : Prop :=
  ∀ s, exec i s = uniFrame i len d a b gd s act

/-- A register number that no register of R391 to R398 has, nor the management range (R392). -/
abbrev unlistedReg (reg : Nat) : Prop :=
  (8 ≤ reg ∧ reg < 0x0100) ∨ (0x0118 ≤ reg ∧ reg < 0x0200) ∨ (0x0240 ≤ reg ∧ reg < 0x0300) ∨ (0x0301 ≤ reg ∧ reg < 0x0308) ∨
    (0x0310 ≤ reg ∧ reg < 0x0400) ∨ (0x0401 ≤ reg ∧ reg < 0x0800) ∨ 0x1000 ≤ reg

/-- The lanes of a run that take a branch, call, return or exit (R179, R374): every lane or none by a guard of the b predicates, or
those that a lane predicate selects. -/
def Group.taking (g : Group) (run : BitVec 64) (gd : Guard) (pkind : Bool) : BitVec 64 :=
  if pkind then run &&& g.guardMask gd else if g.guardTrue gd then run else 0

/-- A control instruction in its short form, or its extended twin with a guard: its length, and the lanes of the run that take it (R171, R374). -/
def ControlForm (g : Group) (run : BitVec 64) (short : Instr) (op : UniOp) (d a b : BitVec 8) (i : Instr) (len : Nat) (take : BitVec 64) : Prop :=
  (i = short ∧ len = 4 ∧ take = run) ∨ ∃ gd mod, i = .uniformXf op d a b gd mod none ∧ len = 8 ∧ take = g.taking run gd (mod.getLsbD 0)

/-- The target of an OFF24 field (R179). -/
def branchTarget (pc : W64) (off : BitVec 24) : W64 := pc + 4 * off.signExtend 64

/-- A lane-PC table as R371 has it: addresses rise, no mask is empty, and no lane stands in two entries. -/
abbrev tableOk (t : List (W64 × BitVec 64)) : Prop :=
  t.Pairwise (fun a b => a.1 < b.1 ∧ a.2 &&& b.2 = 0) ∧ ∀ e ∈ t, e.2 ≠ 0

/-- The program counter at which a lane stands. -/
def tablePc (t : List (W64 × BitVec 64)) (l : Nat) : Option W64 := (t.find? fun e => e.2.getLsbD l).map fun e => e.1

/-- The uniform checks pass and the guard holds, or there is none. -/
abbrev State.UniIssues (s : State) (g : Group) (t : Team) (pc : W64) (run : BitVec 64) (reads writes : List Nat) : Prop :=
  s.Issues g t pc run ∧ g.UniReady reads writes

/-- Nothing of the module waits to be made visible: the group has no outstanding memory instruction and no store in its buffer, the
sync directory is empty, and the team has no stash window. -/
abbrev State.Quiet (s : State) (g : Group) (t : Team) : Prop := g.entries = [] ∧ g.sbuf = [] ∧ s.syncRecs = [] ∧ t.wins = [] ∧ g.pend = none ∧ s.acks = []

/-- The state once a release of the focus group on an object at a scope is recorded: below quad scope the sync directory, empty before, holds it (R344). -/
def State.recorded (s : State) (scope : BitVec 3) (obj : Option Nat) : State :=
  if scope.toNat < 2 then { s with syncRecs := [⟨s.focus, obj, [], false, s.nextId⟩], nextId := s.nextId + 1 } else s

/-- The granules of R386: those of the range, lowest first, that the set does not hold yet join it while it holds fewer than 128. -/
def lockRange (set : List Nat) (first : Nat) : Nat → List Nat
  | 0 => set
  | n + 1 =>
    let set' := if first ∈ set ∨ 128 ≤ set.length then set else set ++ [first]
    lockRange set' (first + 1) n

/-! ## Memory instructions -/

/-- The lanes that a form performs, and the helper lanes that it suppresses (R191). -/
def MemOp.performs (op : MemOp) (g : Group) (act : BitVec 64) : BitVec 64 := if op.kind.isLoad then act else act &&& ~~~g.help
def MemOp.suppresses (op : MemOp) (g : Group) (act : BitVec 64) : BitVec 64 := if op.kind.isLoad then 0 else act &&& g.help

/-- The entry that a memory instruction makes, with the operands that it captures at issue (R468, R469). -/
def State.memEntry (s : State) (i : Instr) (op : MemOp) (g : Group) (pc : W64) (run : BitVec 64) : Entry :=
  (Issue.mk i s.focus g pc run 8).memEntry op (op.performs g (g.active run op.guard)) (op.suppresses g (g.active run op.guard)) s.nextId

/-- The lanes that fail check 2 of R189, with their register numbers; a suppressed helper lane is not checked (R191). -/
def MemOp.bounds (op : MemOp) (g : Group) (run : BitVec 64) : List (Nat × Nat) := op.boundFails g (op.performs g (g.active run op.guard))

/-- The registers that a form reads, by key: data registers only of the lanes in bound. -/
def MemOp.reads (op : MemOp) (g : Group) (run : BitVec 64) : List Nat :=
  op.readKeys g (g.active run op.guard &&& ~~~(maskOf ((op.bounds g run).map fun b => b.1)))

/-- The registers of an entry and its draws, that no outstanding instruction may write (R129). -/
def Entry.written (e : Entry) : List Nat := e.dsts ++ (if e.draws = [] then [] else [drawKey])

/-- Checks 1 and 2 of R189 pass, no source is uncorrectable (R131), nothing writes the form's registers (R129), and a uniform form's
guard holds. -/
abbrev MemOp.Ready (op : MemOp) (i : Instr) (g : Group) (run : BitVec 64) (e : Entry) : Prop :=
  op.budgetOk i g = true ∧ (op.uni = true ∨ op.bounds g run = []) ∧
  g.badWords (if op.uni then run else g.active run op.guard) (op.reads g run ++ (if e.draws = [] then [] else [drawKey])) = false ∧
  g.blocked (op.reads g run ++ e.written) = false ∧ (op.uni = true → g.guardTrue op.guard = true)

/-- The instruction goes into the group's memory pipeline at once: it is ready, checks 3 to 5 of R189 pass in every lane, it accesses
something, its counter has room (R196), no outstanding instruction of the group accesses a common byte (R76, R192), and no atomic of the
group has still to acquire (R348). -/
abbrev State.MemIssues (s : State) (i : Instr) (op : MemOp) (g : Group) (t : Team) (pc : W64) (run : BitVec 64) (e : Entry) : Prop :=
  s.Issues g t pc run ∧ memOp i = some op ∧ e = s.memEntry i op g pc run ∧ op.Ready i g run e ∧ s.reqFails g t op (op.reqs e) = [] ∧
  op.reqs e ≠ [] ∧ g.count op.kind.counter < 255 ∧ g.acquiring = false ∧
  g.overlaps ((op.reqs e).map t.rangeOf) = false ∧ g.pend = none ∧
  (∀ x ∈ g.entries, x.id ≠ s.nextId)

/-- Two states that differ only in what has been asked of the host's translation (R68, R69), and in which entries of the translation caches
were used last (R64). -/
abbrev State.sameBut (s s' : State) : Prop := { s' with waits := s.waits, ats := s.ats, pri := s.pri, l1 := s.l1, dieTlb := s.dieTlb } = s

/-- A byte of a store: its lane's request covers the address. -/
abbrev coversByte (w : Req × List Byte) (sp : Space) (a : Nat) : Prop := w.1.sp = sp ∧ w.1.a ≤ a ∧ a < w.1.a + w.2.length

/-- An entry of a group's memory pipeline that its event may perform now. -/
abbrev State.Performs (s : State) (gid id : Nat) (g : Group) (e : Entry) (op : MemOp) : Prop :=
  s.groups.get? gid = some g ∧ s.awake g = true ∧ g.entries.find? (fun e => e.id == id) = some e ∧ e.book = false ∧ e.state ≠ .faulted ∧ e.bad = false ∧
  memOp e.instr = some op ∧ (∀ w ∈ s.waits, w.owner ≠ .entry gid id) ∧ e.id = id

/-- The entry accesses team memory, none of it in a stash window, uncorrectable, or in the group's own buffered stores. -/
abbrev State.InTeam (s : State) (g : Group) (t : Team) (e : Entry) (op : MemOp) : Prop :=
  op.space = .team ∧ s.teams.get? g.team = some t ∧ t.wins = [] ∧ (∀ x ∈ g.sbuf, x.space ≠ .team) ∧
  ∀ q ∈ op.reqs e, badIn t.bad 4 q.a q.n = false

/-- The entry accesses mapped layer memory, none of it uncorrectable or in the group's own buffered stores. -/
abbrev State.InLayer (s : State) (g : Group) (t : Team) (e : Entry) (op : MemOp) : Prop :=
  op.space = .layer ∧ s.teams.get? g.team = some t ∧ t.wins = [] ∧ (∀ x ∈ g.sbuf, x.space ≠ .layer) ∧
  ∀ q ∈ op.reqs e, s.layerCheck (s.fnOf g) g.die q.a 1 = none ∧ badIn s.layerBad 8 (layerKey g.die q.a) q.n = false

/-- The guard and the uniform operands of an async operation (R201, R202). -/
def engineForm : Instr → Option (Guard × List (BitVec 7))
  | .copy d a b _ _ _ gd => some (gd, [d, a, b])
  | .lload d a b c _ _ gd => some (gd, [d, a, b, c])
  | .lstore d a b c _ _ gd => some (gd, [d, a, b, c])
  | _ => none

/-! ## Matrix instructions -/

/-- The guard, the length, the s registers read and the operands captured by a matrix instruction that counts in TLS (R264). -/
def matForm : Instr → Option (Guard × Nat × List Nat × (Group → List W64))
  | .mld _ a b _ _ _ _ gd => some (gd, 8, [a.toNat, b.toNat], fun g => [0, g.readS a.toNat, g.readS b.toNat, 0])
  | .mma _ _ _ _ _ _ _ gd => some (gd, 8, [], fun _ => [0, 0, 0, 0])
  | .mloop d a _ _ _ _ _ _ _ gd => some (gd, 8, [d.toNat, a.toNat, a.toNat + 1, a.toNat + 2, a.toNat + 3], fun g =>
      [g.readS d.toNat, g.readS a.toNat, 0, 0, g.readS (a.toNat + 1), g.readS (a.toNat + 2), g.readS (a.toNat + 3)])
  | .mst d a _ _ _ _ _ gd => some (gd, 8, [d.toNat, a.toNat], fun g => [g.readS d.toNat, g.readS a.toNat, 0, 0])
  | .mscale d a b _ _ gd => some (gd, 8, [d.toNat, a.toNat, b.toNat], fun g => [g.readS d.toNat, g.readS a.toNat, g.readS b.toNat, 0])
  | .mzero _ _ => some (Guard.none, 4, [], fun _ => [0, 0, 0, 0])
  | _ => none

/-- The head of a team's matrix queue, whose group can act now. -/
abbrev State.MatHead (s : State) (team : Nat) (t : Team) (x : MatItem) (g : Group) : Prop :=
  s.teams.get? team = some t ∧ t.mat.queue.head? = some x ∧ x.stopped = false ∧ s.groups.get? x.gid = some g ∧ s.awake g = true

/-- The item has completed (R260, R264): it has left its team's queue, TLS of its group is one less, and the next item's event is pending. -/
abbrev State.MatCompletes (s : State) (team : Nat) (t : Team) (x : MatItem) (g : Group) (mat : Matrix) (s' : State) : Prop :=
  let t' := { t with mat := { mat with queue := t.mat.queue.filter fun y => !(y.id == x.id) } }
  s' = ((s.setTeam team t').setGroup x.gid { g with tls := g.tls - 1 }).pushMatrix team

/-! ## Rays and reservoirs -/

/-- A reservoir instruction executes at once: its registers lie within the budgets (R115), no source word is uncorrectable (R131), and no
outstanding instruction writes one of them (R129, R133). vr, vw: runs of v registers read and written; wr: the w registers read, each with the words
of it that are read; ww: the w registers written. -/
abbrev Group.ResReady (g : Group) (on : BitVec 64) (vr vw : List (Nat × Nat)) (wr : List (Nat × List Nat)) (ww : List Nat) (draws : Bool) : Prop :=
  (∀ e ∈ vr ++ vw, e.1 + e.2 ≤ g.lbud) ∧ (∀ n ∈ wr.map (fun e => e.1) ++ ww, n < g.wbud) ∧
  g.badWords on (vr.flatMap (fun e => vKeys e.1 e.2) ++ wr.flatMap (fun e => e.2.map (wWord e.1)) ++ (if draws then [drawKey] else [])) = false ∧
  g.blocked ((vr ++ vw).flatMap (fun e => vKeys e.1 e.2) ++ (wr.map (fun e => e.1) ++ ww).map wKey ++ (if draws then [drawKey] else [])) = false

/-- What a reservoir instruction does that writes register w in every active lane (R301): it completes and moves its run on, w holds out, its
flags become sticky, COUNTER advances by one if it draws, the marks of the words that it writes are cleared (R483), and nothing else changes. out
takes the lane and its draw; words gives the words written, by number from COUNT up. -/
def WritesRes (i : Instr) (gd : Guard) (vr : List (Nat × Nat)) (wr : List (Nat × List Nat)) (draws : Bool) (w : Nat)
    (out : Group → Nat → Nat → BitVec 192 × Flags) (words : Group → Nat → Nat → List Nat) : Prop :=
  ∀ (s : State) (g : Group) (t : Team) (pc : W64) (run : BitVec 64), s.Issues g t pc run → g.ResReady (g.active run gd) vr [] wr [w] draws →
    let on := lanesOf (g.active run gd)
    let draw := fun l => (drawValue g.key (g.stream.getD l 0) (g.counter.getD l 0)).toNat
    let value := fun l => out g l (draw l)
    ∃ g' : Group, exec i s = .next (s.setGroup s.focus (g'.place run [(pc + 8, run)])) ∧
      (∀ l n, n < 8 → g'.readW l n = if l ∈ on ∧ n = w then (value l).1 else g.readW l n) ∧
      g'.flags = (on.map fun l => (value l).2).foldl (fun a b => a ||| b) g.flags ∧
      (∀ l, g'.counter.getD l 0 = g.counter.getD l 0 + (if l ∈ on ∧ draws = true then 1 else 0)) ∧
      (∀ k, k ∈ g'.badW ↔ k ∈ g.badW ∧ ¬(k / 48 ∈ on ∧ k / 6 % 8 = w ∧ k % 6 ∈ words g (k / 48) (draw (k / 48)))) ∧
      { g' with w := g.w, badW := g.badW, flags := g.flags, counter := g.counter } = g

/-! ## The solver -/

/-- The image of a sample's tableau (R308). -/
def Team.coefOf (t : Team) (sm : Sample) : List Byte := (t.sol.tabs.getD sm.tab ⟨none, none⟩).coef.getD []

/-- A team with one sample's record changed. -/
def Team.withSample (t : Team) (n : Nat) (sm : Sample) : Team := { t with sol := { t.sol with samples := t.sol.samples.set n sm } }

/-- A sample that the sequencer may work on now. -/
abbrev State.Works (s : State) (team n : Nat) (k : SeqWork) : Prop :=
  s.seqWork team n = some k ∧ s.seqAwake team k.t = true ∧ k.sm.bad = false

/-! ## Exceptions -/

/-- The group's pending cause can be taken at the handler now (R461, R465): nothing of the group must complete first, book k is its context's
lowest free one, its pages are translated and may be written at these places, and no store that the group buffered lies in them. u: the state
with the book's translations asked for. -/
def State.EntersHandler (s u : State) (gid : Nat) (g : Group) (p : Pend) (c : Ctx) (k : Nat) (places : List Loc) : Prop :=
  let addr := c.traps.bookAddr k
  s.groups.get? gid = some g ∧ g.placed = true ∧ g.pend = some p ∧ s.ctxs.get? g.ctx = some c ∧ g.hnd = false ∧ c.traps.gvec ≠ 0 ∧
  g.settling = false ∧ freeBook c.books c.traps.pbn = some k ∧
  u = s.needPages (.book gid) g.die g.core c.fn c.pasid .write ((List.range 17).map fun i => addr / 4096 + i) ∧ u.standing (.book gid) = .ready ∧
  u.bookCause gid g addr = none ∧ u.bookPlaces gid g addr (List.range 17) = some places ∧
  ∀ e ∈ g.sbuf, ¬(e.space = .glob ∧ addr ≤ e.line ∧ e.line < addr + 0x11000)

/-- The state in which the group stands at its handler (R465 steps 3 to 5): the book written, its registers changed, the book in use. -/
def State.entered (s : State) (gid : Nat) (g : Group) (p : Pend) (c : Ctx) (k : Nat) (places : List Loc) : State :=
  (((s.writePages places (g.bookPages p k)).dropWaits (.book gid)).setGroup gid
    (g.atHandler k (BitVec.ofNat 64 (c.traps.bookAddr k)) (BitVec.ofNat 64 c.traps.gvec))).setCtx g.ctx { c with books := k :: c.books }

/-- No stop of a rung holds a party yet (R463). -/
abbrev State.unstopped (s : State) (rung fn ctx team : Nat) : Prop := ∀ e ∈ s.stops, ¬(e.2.rung = rung ∧ e.2.holds fn ctx team = true)

/-- The state with a stop raised (R460). -/
def State.stopped (s : State) (st : Stop) : State :=
  { s with stops := s.stops.set s.nextId st, work := s.work ++ [.upperRungStop s.nextId], nextId := s.nextId + 1 }

/-! ## Host commands -/

/-- The function may give the command for the context that it names (R509). -/
abbrev State.Commands (s : State) (fn : Nat) (cmd : Command) (c : Ctx) : Prop :=
  s.serving = true ∧ s.ctxs.get? cmd.ctx = some c ∧ (fn = 0 ∨ c.fn = fn)

/-- The opcode of a command and its row (R509). -/
def CommandRow (fn op : Nat) (cmd : Command) (i : Instr) : Prop :=
  (op = 0x01 ∧ i = .ctxnew fn cmd) ∨ (op = 0x02 ∧ i = .ctxend fn cmd) ∨ (op = 0x03 ∧ i = .launch fn cmd) ∨
  (op = 0x04 ∧ i = .answer fn cmd) ∨ (op = 0x05 ∧ i = .swout fn cmd) ∨ (op = 0x06 ∧ i = .swin fn cmd) ∨
  (op = 0x07 ∧ i = .vacate fn cmd) ∨ (op = 0x08 ∧ i = .hostReturn fn cmd) ∨ (op = 0x10 ∧ i = .partset fn cmd) ∨
  (op = 0x11 ∧ i = .wswrite fn cmd) ∨ (op = 0x12 ∧ i = .wstrim fn cmd) ∨ (op = 0x13 ∧ i = .vecset fn cmd) ∨
  (op = 0x14 ∧ i = .lnksvc fn cmd) ∨ (op = 0x15 ∧ i = .partmem fn cmd)

/-- The teams that a predicate selects have nothing in flight, and no deque holds a record (R475). -/
def State.SavesCleanly (s : State) (f : Team → Prop) : Prop :=
  Map.sorted s.teams = true ∧ (∀ n, s.dequeAt n = []) ∧
  ∀ k t, s.teams.get? k = some t → t.state = .running → f t → ∀ n ∈ s.groupsOf k, ∀ g, s.groups.get? n = some g → g.entries = []

/-- A team as a save leaves it (R458, R475). -/
def Team.put (t : Team) : Team := { t with state := .queued, saved := true, cores := [] }

/-- A team stands on one of these quads. -/
abbrev Team.standsOn (t : Team) (qs : List Nat) : Prop := ∃ c ∈ t.cores, 12 * t.die + c / 4 ∈ qs

/-- The memories of two states are the same, save areas aside (R475, R477). -/
abbrev State.savedOnly (s s' : State) : Prop :=
  s'.host = s.host ∧ s'.flash = s.flash ∧ ∀ a, (∀ e ∈ s.ctxs, a < e.2.saveArea ∨ e.2.saveArea + e.2.saveBytes ≤ a) → s'.dram.get a = s.dram.get a

/-- Nothing of a context is left, the other contexts stand as they did, and memory outside the save areas is kept (R424, R509). -/
def State.Freed (s s' : State) (ctx : Nat) : Prop :=
  (Map.sorted s.ctxs = true → s'.ctxs.get? ctx = none) ∧ (∀ k, k ≠ ctx → s'.ctxs.get? k = s.ctxs.get? k) ∧
  (∀ e ∈ s'.groups, e.2.ctx ≠ ctx) ∧ (∀ e ∈ s'.teams, e.2.ctx ≠ ctx) ∧ (∀ e ∈ s'.grids, e.2.ctx ≠ ctx) ∧ (∀ e ∈ s'.books, e.2.ctx ≠ ctx) ∧
  (∀ e ∈ s'.stops, ¬(e.2.rung ≤ 2 ∧ e.2.ctx = ctx)) ∧ s'.host = s.host ∧ s'.flash = s.flash ∧
  ((∀ e ∈ s.books, e.2.ctx ≠ ctx) → s'.layer = s.layer)

/-- The memories of two states are the same. -/
abbrev State.sameMemory (s s' : State) : Prop := s'.host = s.host ∧ s'.dram = s.dram ∧ s'.flash = s.flash ∧ s'.layer = s.layer

/-! ## The host's memory accesses and translation -/

/-- n host bytes at hpa lie in one line and in the HDM range, at this device physical address (R37, R39). -/
def State.HdmAt (s : State) (hpa n dpa : Nat) : Prop :=
  hpa % 64 + n ≤ 64 ∧ ∃ base, s.hdm = some base ∧ base ≤ hpa ∧ hpa < base + 2 ^ 39 ∧ dpa = hpa - base

/-- A saturating count raised k times (R54, R484). -/
def raised (n k : Nat) : Nat := if k = 0 then n else min (n + k) 0xFFFFFFFF

/-- Bits that no field of a register covers are 0 (R507). -/
abbrev Clean (val : W64) (fields : List (Nat × Nat)) : Prop := ∀ r ∈ fields, bits val.toNat r.1 r.2 = 0

/-- The waiting accesses that an ATS request serves (R68). -/
def AtsReq.serves (a : AtsReq) (v : PageWait) : Bool :=
  v.die == a.die && v.fn == a.fn && v.pasid == a.pasid && v.page == a.page && v.need.nw == a.nw && v.phase == .atsSent

/-- The waiting accesses that a page request serves (R69). -/
def PriReq.serves (p : PriReq) (v : PageWait) : Bool :=
  v.die == p.die && v.fn == p.fn && v.pasid == p.pasid && v.page == p.page && v.phase == .priSent

/-- An ATS request that is outstanding and that no invalidation overtook (R68, R73). -/
abbrev State.Asked (s : State) (a : AtsReq) : Prop :=
  a.overtaken = [] ∧ s.ats.find? (fun x => x.die == a.die && x.fn == a.fn && x.pasid == a.pasid && x.page == a.page && x.nw == a.nw) = some a

/-- An invalidation as it begins: the entries that it removes, and the store-buffer entries made so far (R71, R72). -/
def State.invalidation (s : State) (fn tag pasid : Nat) (glob : Bool) (base len : Nat) : Invalidation :=
  ⟨fn, tag, pasid, glob, base, len, ((s.translations.filter fun e => e.goes fn pasid glob base len).map fun e => (e.va, 2 ^ e.size)).eraseDups, s.nextId⟩

/-- A cached translation of a function and range (R71). -/
abbrev TlbEntry.within (e : TlbEntry) (fn pasid : Nat) (glob : Bool) (base len : Nat) : Prop :=
  e.fn = fn ∧ (glob = true ∨ e.pasid = pasid) ∧ e.va < base + len ∧ base < e.va + 2 ^ e.size

/-- No cached translation of a function and range is left (R71, R74). -/
def State.Flushed (s : State) (fn pasid : Nat) (glob : Bool) (base len : Nat) : Prop :=
  (∀ c ∈ s.l1, ∀ e ∈ c.2, ¬e.within fn pasid glob base len) ∧
  (∀ c ∈ s.dieTlb, ∀ w ∈ c.2.ways, ¬w.2.within fn pasid glob base len) ∧
  ∀ c ∈ s.codePages, ¬(c.fn = fn ∧ (glob = true ∨ c.pasid = pasid) ∧ c.page * 4096 < base + len ∧ base < c.page * 4096 + 4096)

/-! ## Links, power and boot -/

/-- A module end and a link that exist (R515, R516), with no service routine on the link. -/
abbrev State.IdleEnd (s : State) (link side m : Nat) : Prop := link < 8 ∧ side < 2 ∧ m < 4 ∧ ∀ v ∈ s.services, v.link ≠ link

/-- The flit that a direction of a link delivers next, its waiting messages packed and dealt over the active modules (R515, R519). -/
abbrev State.HeadFlit (s : State) (link dir : Nat) (f : Flit) (rest : List Flit) : Prop :=
  let ups := s.modulesUp link
  link < 8 ∧ dir < 2 ∧ ups ≠ [] ∧ ((s.linkDir link dir).loaded ups).flits = f :: rest

/-- A value that PWR_QCTL takes (R531): reserved fields 0, OPP at most 4, PASS 1, 2 or 4. -/
abbrev QctlOk (val : W64) : Prop :=
  Clean val [(63, 32), (23, 17), (15, 12), (7, 3)] ∧ bits val.toNat 11 8 ≤ 4 ∧ bits val.toNat 2 0 ∈ [1, 2, 4]

/-! ## Steps -/

/-- The focus group issues in the next step and fetches these words (R372, log 1). -/
abbrev State.Fetches (s : State) (g : Group) (pc : W64) (run : BitVec 64) (w1 w2 : W32) : Prop :=
  s.agenda = [] ∧ s.tick % 2 = 0 ∧ s.stalled = false ∧ s.groups.get? s.focus = some g ∧ s.mayIssue s.focus = true ∧ g.run = some (pc, run) ∧
  State.fetch { s with tick := s.tick + 1 } s.focus g pc = .words w1 w2

end Sys2Proof.Machine
end

