-- ==== Sys2Proof/Certificates/Slice0/Obligations.lean ====
section
/-! DEFINITION. The statements for the provers. Where one speaks of the agenda, the pending work, the focus, stalled, the step counter or the
record numbers, it rests on the model's own arrangement of what happens next (logs 1, 2 and 68), which the spec leaves to timing. -/

open Sys2Proof Sys2Proof.Machine

/-! ## The lane set -/

/-- R227: what every integer arithmetic instruction writes in each active lane, and that it does nothing else. -/
def Obligations.IntegerArithmetic : Prop :=
  (∀ d a b, WritesLanes (.iaddS32 d a b) 4 (form2 d a b 1 1 .s32) (perLane (form2 d a b 1 1 .s32) fun x => result (w32 x.a + w32 x.b))) ∧
  (∀ d a b, WritesLanes (.isubS32 d a b) 4 (form2 d a b 1 1 .s32) (perLane (form2 d a b 1 1 .s32) fun x => result (w32 x.a - w32 x.b))) ∧
  (∀ d a b, WritesLanes (.imulS32 d a b) 4 (form2 d a b 1 1 .s32) (perLane (form2 d a b 1 1 .s32) fun x => result (w32 x.a * w32 x.b))) ∧
  (∀ d a b, WritesLanes (.imulhiS32 d a b) 4 (form2 d a b 1 1 .s32) (perLane (form2 d a b 1 1 .s32) fun x =>
    result (((w32 x.a).signExtend 64 * (w32 x.b).signExtend 64).extractLsb' 32 32))) ∧
  (∀ d a b, WritesLanes (.imulhiN32 d a b) 4 (form2 d a b 1 1 .n32) (perLane (form2 d a b 1 1 .n32) fun x =>
    result (((w32 x.a).setWidth 64 * (w32 x.b).setWidth 64).extractLsb' 32 32))) ∧
  (∀ d a b, WritesLanes (.iminS32 d a b) 4 (form2 d a b 1 1 .s32) (perLane (form2 d a b 1 1 .s32) fun x =>
    result (if (w32 x.a).slt (w32 x.b) then w32 x.a else w32 x.b))) ∧
  (∀ d a b, WritesLanes (.imaxS32 d a b) 4 (form2 d a b 1 1 .s32) (perLane (form2 d a b 1 1 .s32) fun x =>
    result (if (w32 x.a).slt (w32 x.b) then w32 x.b else w32 x.a))) ∧
  (∀ d a b, WritesLanes (.iminN32 d a b) 4 (form2 d a b 1 1 .n32) (perLane (form2 d a b 1 1 .n32) fun x =>
    result (if w32 x.a < w32 x.b then w32 x.a else w32 x.b))) ∧
  (∀ d a b, WritesLanes (.imaxN32 d a b) 4 (form2 d a b 1 1 .n32) (perLane (form2 d a b 1 1 .n32) fun x =>
    result (if w32 x.a < w32 x.b then w32 x.b else w32 x.a))) ∧
  (∀ d a b, WritesLanes (.iaddS64 d a b) 4 (form2 d a b 2 2 .s64) (perLane (form2 d a b 2 2 .s64) fun x => result (w64 x.a + w64 x.b))) ∧
  (∀ d a b, WritesLanes (.isubS64 d a b) 4 (form2 d a b 2 2 .s64) (perLane (form2 d a b 2 2 .s64) fun x => result (w64 x.a - w64 x.b))) ∧
  (∀ d a b, WritesLanes (.qaddS32 d a b) 4 (form2 d a b 1 1 .s32) (perLane (form2 d a b 1 1 .s32) fun x =>
    saturated32 ((w32 x.a).toInt + (w32 x.b).toInt))) ∧
  (∀ d a b, WritesLanes (.qsubS32 d a b) 4 (form2 d a b 1 1 .s32) (perLane (form2 d a b 1 1 .s32) fun x =>
    saturated32 ((w32 x.a).toInt - (w32 x.b).toInt))) ∧
  (∀ d b, WritesLanes (.iabsS32 d b) 4 (form1 d b 1 1 .s32) (perLane (form1 d b 1 1 .s32) fun x => result (BitVec.ofNat 32 (w32 x.b).toInt.natAbs))) ∧
  (∀ d b, WritesLanes (.inegS32 d b) 4 (form1 d b 1 1 .s32) (perLane (form1 d b 1 1 .s32) fun x => result (-(w32 x.b)))) ∧
  (∀ x : LX, WritesLanes (.imadS32 x) 8 (lxForm x ⟨1, 1, 1, 1, .s32, false⟩ 0) (perLane (lxForm x ⟨1, 1, 1, 1, .s32, false⟩ 0) fun y =>
    result (w32 y.a * w32 y.b + w32 y.c))) ∧
  (∀ x : LX, WritesLanes (.imadS64 x) 8 (lxForm x ⟨2, 1, 1, 2, .s32, false⟩ 0) (perLane (lxForm x ⟨2, 1, 1, 2, .s32, false⟩ 0) fun y =>
    result ((w32 y.a).signExtend 64 * (w32 y.b).signExtend 64 + w64 y.c))) ∧
  (∀ x : LX, WritesLanes (.dot4S8 x) 8 (lxForm x ⟨1, 1, 1, 1, .s8, false⟩ 0) (perLane (lxForm x ⟨1, 1, 1, 1, .s8, false⟩ 0) fun y =>
    result (w32 y.c +
      ((w32 y.a).extractLsb' 0 8).signExtend 32 * ((w32 y.b).extractLsb' 0 8).signExtend 32 +
      ((w32 y.a).extractLsb' 8 8).signExtend 32 * ((w32 y.b).extractLsb' 8 8).signExtend 32 +
      ((w32 y.a).extractLsb' 16 8).signExtend 32 * ((w32 y.b).extractLsb' 16 8).signExtend 32 +
      ((w32 y.a).extractLsb' 24 8).signExtend 32 * ((w32 y.b).extractLsb' 24 8).signExtend 32)))

/-- R228, R229, R231: what every bit instruction writes in each active lane, and that it does nothing else; the form of bool3 and that of bfe which are reserved. -/
def Obligations.BitInstructions : Prop :=
  (∀ d a b, WritesLanes (.andB32 d a b) 4 (form2 d a b 1 1 .s32) (perLane (form2 d a b 1 1 .s32) fun x => result (w32 x.a &&& w32 x.b))) ∧
  (∀ d a b, WritesLanes (.orB32 d a b) 4 (form2 d a b 1 1 .s32) (perLane (form2 d a b 1 1 .s32) fun x => result (w32 x.a ||| w32 x.b))) ∧
  (∀ d a b, WritesLanes (.xorB32 d a b) 4 (form2 d a b 1 1 .s32) (perLane (form2 d a b 1 1 .s32) fun x => result (w32 x.a ^^^ w32 x.b))) ∧
  (∀ d b, WritesLanes (.notB32 d b) 4 (form1 d b 1 1 .s32) (perLane (form1 d b 1 1 .s32) fun x => result (~~~(w32 x.b)))) ∧
  (∀ d a b, WritesLanes (.shlB32 d a b) 4 (form2 d a b 1 1 .n32) (perLane (form2 d a b 1 1 .n32) fun x =>
    result (if 32 ≤ (w32 x.b).toNat then 0 else w32 x.a <<< (w32 x.b).toNat))) ∧
  (∀ d a b, WritesLanes (.shrN32 d a b) 4 (form2 d a b 1 1 .n32) (perLane (form2 d a b 1 1 .n32) fun x =>
    result (if 32 ≤ (w32 x.b).toNat then 0 else w32 x.a >>> (w32 x.b).toNat))) ∧
  (∀ d a b, WritesLanes (.shrS32 d a b) 4 (form2 d a b 1 1 .n32) (perLane (form2 d a b 1 1 .n32) fun x =>
    result (if 32 ≤ (w32 x.b).toNat then (if (w32 x.a).msb then BitVec.allOnes 32 else 0) else (w32 x.a).sshiftRight (w32 x.b).toNat))) ∧
  (∀ d a b, WritesLanes (.rotB32 d a b) 4 (form2 d a b 1 1 .n32) (perLane (form2 d a b 1 1 .n32) fun x =>
    result ((w32 x.a).rotateLeft ((w32 x.b).toNat % 32)))) ∧
  (∀ d b, WritesLanes (.popcB32 d b) 4 (form1 d b 1 1 .s32) (perLane (form1 d b 1 1 .s32) fun x =>
    result (BitVec.ofNat 32 ((List.range 32).countP fun k => (w32 x.b).getLsbD k)))) ∧
  (∀ d b, WritesLanes (.clzB32 d b) 4 (form1 d b 1 1 .s32) (perLane (form1 d b 1 1 .s32) fun x => result (w32 x.b).clz)) ∧
  (∀ d b, WritesLanes (.brevB32 d b) 4 (form1 d b 1 1 .s32) (perLane (form1 d b 1 1 .s32) fun x => result (w32 x.b).reverse)) ∧
  (∀ x : LX, WritesLanes (.bool3B32 x) 8 (lxForm x ⟨1, 1, 1, 1, .s32, false⟩ 0) (perLane (lxForm x ⟨1, 1, 1, 1, .s32, false⟩ 0) fun y =>
    result (BitVec.ofNat 32 (ofBits ((List.range 32).map fun k =>
      x.tab.getLsbD (4 * ((w32 y.c).getLsbD k).toNat + 2 * ((w32 y.b).getLsbD k).toNat + ((w32 y.a).getLsbD k).toNat)))))) ∧
  (∀ x : LX, WritesLanes (.bfeB32 x) 8 (lxForm x ⟨1, 1, 1, 0, .s32, false⟩ 0) (perLane (lxForm x ⟨1, 1, 1, 0, .s32, false⟩ 0) fun y =>
    result ((w32 y.a >>> ((w32 y.b).extractLsb' 0 8).toNat) &&& lowOnes (fieldBits (w32 y.b))))) ∧
  (∀ x : LX, WritesLanes (.bfiB32 x) 8 (lxForm x ⟨1, 1, 1, 1, .s32, false⟩ 0) (perLane (lxForm x ⟨1, 1, 1, 1, .s32, false⟩ 0) fun y =>
    result ((w32 y.c &&& ~~~(lowOnes (fieldBits (w32 y.b)) <<< ((w32 y.b).extractLsb' 0 8).toNat)) |||
      ((w32 y.a &&& lowOnes (fieldBits (w32 y.b))) <<< ((w32 y.b).extractLsb' 0 8).toNat)))) ∧
  (∀ (x : LX) (v : BitVec 16), x.b = .imm v → ¬(Instr.bool3B32 x).WellFormed) ∧
  (∀ x : LX, x.c ≠ .reg 0 → ¬(Instr.bfeB32 x).WellFormed)

/-- R220, R222, R223, R224, R225, R226, R232: what the floating-point and move instructions of the short form write in each
active lane, rounded to nearest even (R170), and that they do nothing else.
Where the rules leave a rounding or a flag open, the model's reading is log 83. -/
def Obligations.FloatShortForms : Prop :=
  (∀ d a b, WritesLanes (.faddF32 d a b) 4 (form2 d a b 1 1 .f32) (perLane (form2 d a b 1 1 .f32) fun x => LaneOut.of (f32.add .rne 0 x.a x.b))) ∧
  (∀ d a b, WritesLanes (.fsubF32 d a b) 4 (form2 d a b 1 1 .f32) (perLane (form2 d a b 1 1 .f32) fun x => LaneOut.of (f32.sub .rne 0 x.a x.b))) ∧
  (∀ d a b, WritesLanes (.fmulF32 d a b) 4 (form2 d a b 1 1 .f32) (perLane (form2 d a b 1 1 .f32) fun x => LaneOut.of (f32.mul .rne 0 x.a x.b))) ∧
  (∀ d a b, WritesLanes (.fdivF32 d a b) 4 (form2 d a b 1 1 .f32) (perLane (form2 d a b 1 1 .f32) fun x => LaneOut.of (f32.div .rne 0 x.a x.b))) ∧
  (∀ d b, WritesLanes (.fsqrtF32 d b) 4 (form1 d b 1 1 .f32) (perLane (form1 d b 1 1 .f32) fun x => LaneOut.of (f32.sqrt .rne 0 x.b))) ∧
  (∀ d a b, WritesLanes (.fminF32 d a b) 4 (form2 d a b 1 1 .f32) (perLane (form2 d a b 1 1 .f32) fun x => value (f32.minmax false x.a x.b))) ∧
  (∀ d a b, WritesLanes (.fmaxF32 d a b) 4 (form2 d a b 1 1 .f32) (perLane (form2 d a b 1 1 .f32) fun x => value (f32.minmax true x.a x.b))) ∧
  (∀ d a b, WritesLanes (.daddF64 d a b) 4 (form2 d a b 2 2 .f64) (perLane (form2 d a b 2 2 .f64) fun x => LaneOut.of (f64.add .rne 0 x.a x.b))) ∧
  (∀ d a b, WritesLanes (.dsubF64 d a b) 4 (form2 d a b 2 2 .f64) (perLane (form2 d a b 2 2 .f64) fun x => LaneOut.of (f64.sub .rne 0 x.a x.b))) ∧
  (∀ d a b, WritesLanes (.dmulF64 d a b) 4 (form2 d a b 2 2 .f64) (perLane (form2 d a b 2 2 .f64) fun x => LaneOut.of (f64.mul .rne 0 x.a x.b))) ∧
  (∀ d a b, WritesLanes (.ddivF64 d a b) 4 (form2 d a b 2 2 .f64) (perLane (form2 d a b 2 2 .f64) fun x => LaneOut.of (f64.div .rne 0 x.a x.b))) ∧
  (∀ d b, WritesLanes (.dsqrtF64 d b) 4 (form1 d b 2 2 .f64) (perLane (form1 d b 2 2 .f64) fun x => LaneOut.of (f64.sqrt .rne 0 x.b))) ∧
  (∀ d a b, WritesLanes (.dminF64 d a b) 4 (form2 d a b 2 2 .f64) (perLane (form2 d a b 2 2 .f64) fun x => value (f64.minmax false x.a x.b))) ∧
  (∀ d a b, WritesLanes (.dmaxF64 d a b) 4 (form2 d a b 2 2 .f64) (perLane (form2 d a b 2 2 .f64) fun x => value (f64.minmax true x.a x.b))) ∧
  (∀ d a b, WritesLanes (.hadd2F16 d a b) 4 (form2 d a b 1 1 .h16) (perLane (form2 d a b 1 1 .h16) fun x =>
    pairOf (f16.add .rne 0 (lo16 x.a) (lo16 x.b)) (f16.add .rne 0 (hi16 x.a) (hi16 x.b)))) ∧
  (∀ d a b, WritesLanes (.hmul2F16 d a b) 4 (form2 d a b 1 1 .h16) (perLane (form2 d a b 1 1 .h16) fun x =>
    pairOf (f16.mul .rne 0 (lo16 x.a) (lo16 x.b)) (f16.mul .rne 0 (hi16 x.a) (hi16 x.b)))) ∧
  (∀ d a b, WritesLanes (.hmin2F16 d a b) 4 (form2 d a b 1 1 .h16) (perLane (form2 d a b 1 1 .h16) fun x =>
    pairOf (f16.minmax false (lo16 x.a) (lo16 x.b), 0) (f16.minmax false (hi16 x.a) (hi16 x.b), 0))) ∧
  (∀ d a b, WritesLanes (.hmax2F16 d a b) 4 (form2 d a b 1 1 .h16) (perLane (form2 d a b 1 1 .h16) fun x =>
    pairOf (f16.minmax true (lo16 x.a) (lo16 x.b), 0) (f16.minmax true (hi16 x.a) (hi16 x.b), 0))) ∧
  (∀ d a b, WritesLanes (.hadd2Bf16 d a b) 4 (form2 d a b 1 1 .h16) (perLane (form2 d a b 1 1 .h16) fun x =>
    pairOf (bf16.add .rne 0 (lo16 x.a) (lo16 x.b)) (bf16.add .rne 0 (hi16 x.a) (hi16 x.b)))) ∧
  (∀ d a b, WritesLanes (.hmul2Bf16 d a b) 4 (form2 d a b 1 1 .h16) (perLane (form2 d a b 1 1 .h16) fun x =>
    pairOf (bf16.mul .rne 0 (lo16 x.a) (lo16 x.b)) (bf16.mul .rne 0 (hi16 x.a) (hi16 x.b)))) ∧
  (∀ d a b, WritesLanes (.hmin2Bf16 d a b) 4 (form2 d a b 1 1 .h16) (perLane (form2 d a b 1 1 .h16) fun x =>
    pairOf (bf16.minmax false (lo16 x.a) (lo16 x.b), 0) (bf16.minmax false (hi16 x.a) (hi16 x.b), 0))) ∧
  (∀ d a b, WritesLanes (.hmax2Bf16 d a b) 4 (form2 d a b 1 1 .h16) (perLane (form2 d a b 1 1 .h16) fun x =>
    pairOf (bf16.minmax true (lo16 x.a) (lo16 x.b), 0) (bf16.minmax true (hi16 x.a) (hi16 x.b), 0))) ∧
  (∀ d b, WritesLanes (.frcpF32 d b) 4 (form1 d b 1 1 .f32) (perLane (form1 d b 1 1 .f32) fun x => LaneOut.of (special .rcp .rne 0 x.b))) ∧
  (∀ d b, WritesLanes (.frsqF32 d b) 4 (form1 d b 1 1 .f32) (perLane (form1 d b 1 1 .f32) fun x => LaneOut.of (special .rsq .rne 0 x.b))) ∧
  (∀ d b, WritesLanes (.fex2F32 d b) 4 (form1 d b 1 1 .f32) (perLane (form1 d b 1 1 .f32) fun x => LaneOut.of (special .ex2 .rne 0 x.b))) ∧
  (∀ d b, WritesLanes (.flg2F32 d b) 4 (form1 d b 1 1 .f32) (perLane (form1 d b 1 1 .f32) fun x => LaneOut.of (special .lg2 .rne 0 x.b))) ∧
  (∀ d b, WritesLanes (.fsinF32 d b) 4 (form1 d b 1 1 .f32) (perLane (form1 d b 1 1 .f32) fun x => LaneOut.of (special .sin .rne 0 x.b))) ∧
  (∀ d b, WritesLanes (.fcosF32 d b) 4 (form1 d b 1 1 .f32) (perLane (form1 d b 1 1 .f32) fun x => LaneOut.of (special .cos .rne 0 x.b))) ∧
  (∀ d b, WritesLanes (.movB32 d b) 4 (form1 d b 1 1 .s32) (perLane (form1 d b 1 1 .s32) fun x => value x.b)) ∧
  (∀ d b, WritesLanes (.movB64 d b) 4 (form1 d b 2 2 .s64) (perLane (form1 d b 2 2 .s64) fun x => value x.b))

/-- R220, R223, R225, R226, R230, R233, R239, R240, R300: what the extended lane forms write in each active lane under the
rounding mode of MOD, one draw for each element that rounds stochastically (R147), and that they do nothing else.
Where the rules leave a rounding or a flag open, the model's reading is log 83. -/
def Obligations.LaneExtendedForms : Prop :=
  (∀ x : LX, WritesLanes (.fmaF32 x) 8 (formX x 1 1 1 1 .f32 1) (perLane (formX x 1 1 1 1 .f32 1) fun y =>
    LaneOut.of (f32.fma (modeOf x.mod.toNat) (y.drawAt 0) y.a y.b y.c))) ∧
  (∀ x : LX, WritesLanes (.fmaF64 x) 8 (formX x 2 2 2 2 .f64 1) (perLane (formX x 2 2 2 2 .f64 1) fun y =>
    LaneOut.of (f64.fma (modeOf x.mod.toNat) (y.drawAt 0) y.a y.b y.c))) ∧
  (∀ x : LX, WritesLanes (.hfma2F16 x) 8 (formX x 1 1 1 1 .h16 2) (perLane (formX x 1 1 1 1 .h16 2) fun y =>
    pairOf (f16.fma (modeOf x.mod.toNat) (y.drawAt 0) (lo16 y.a) (lo16 y.b) (lo16 y.c))
      (f16.fma (modeOf x.mod.toNat) (y.drawAt 1) (hi16 y.a) (hi16 y.b) (hi16 y.c)))) ∧
  (∀ x : LX, WritesLanes (.hfma2Bf16 x) 8 (formX x 1 1 1 1 .h16 2) (perLane (formX x 1 1 1 1 .h16 2) fun y =>
    pairOf (bf16.fma (modeOf x.mod.toNat) (y.drawAt 0) (lo16 y.a) (lo16 y.b) (lo16 y.c))
      (bf16.fma (modeOf x.mod.toNat) (y.drawAt 1) (hi16 y.a) (hi16 y.b) (hi16 y.c)))) ∧
  (∀ x : LX, WritesLanes (.frndF32 x) 8 (formX x 1 0 1 0 .f32 1) (perLane (formX x 1 0 1 0 .f32 1) fun y =>
    LaneOut.of (frnd (modeOf x.mod.toNat) (y.drawAt 0) y.b))) ∧
  (∀ x : LX, WritesLanes (.fclassF32 x) 8 (lxForm x ⟨1, 0, 1, 0, .f32, false⟩ 0) (perLane (lxForm x ⟨1, 0, 1, 0, .f32, false⟩ 0) fun y =>
    value (fclass y.b))) ∧
  (∀ x : LX, WritesLanes (.bselB32 x) 8 (lxForm x ⟨1, 1, 1, 1, .s32, false⟩ 0) (perLane (lxForm x ⟨1, 1, 1, 1, .s32, false⟩ 0) fun y =>
    value (bselByte y.a y.b y.c 0 + 2 ^ 8 * bselByte y.a y.b y.c 1 + 2 ^ 16 * bselByte y.a y.b y.c 2 + 2 ^ 24 * bselByte y.a y.b y.c 3))) ∧
  (∀ f : LC, WritesLanes (.cvt f) 8 ⟨vDst f.d, fmtRegs f.dst, ⟨vSrc f.a, fmtRegs f.src⟩, noSrc, noSrc, .s32, f.guard, srDraws (modeOf f.mod.toNat) 1, []⟩
    (perLane ⟨vDst f.d, fmtRegs f.dst, ⟨vSrc f.a, fmtRegs f.src⟩, noSrc, noSrc, .s32, f.guard, srDraws (modeOf f.mod.toNat) 1, []⟩ fun y =>
      LaneOut.of ((Fmt.ofCode f.dst).convert (modeOf f.mod.toNat) (y.drawAt 0) ((Fmt.ofCode f.src).decode (y.a % 2 ^ fmtWidth f.src))))) ∧
  (∀ f : LC, f.okCvtpk = true → WritesLanes (.cvtpk f) 8
    ⟨vDst f.d, (cvtpkGroup f.src f.dst).2.2, ⟨vSrc f.a, (cvtpkGroup f.src f.dst).2.1⟩, noSrc, noSrc, .s32, f.guard,
      srDraws (modeOf f.mod.toNat) (cvtpkGroup f.src f.dst).1, []⟩
    (perLane ⟨vDst f.d, (cvtpkGroup f.src f.dst).2.2, ⟨vSrc f.a, (cvtpkGroup f.src f.dst).2.1⟩, noSrc, noSrc, .s32, f.guard,
      srDraws (modeOf f.mod.toNat) (cvtpkGroup f.src f.dst).1, []⟩ fun y => convertMany f.src f.dst (modeOf f.mod.toNat) y 0 (cvtpkGroup f.src f.dst).1)) ∧
  (∀ d imm gd, WritesLanes (.movi d imm gd) 8 (formNone (.reg d) 1 gd 0) fun _ _ _ => value imm.toNat) ∧
  (∀ d gd, WritesLanes (.drawB32 d gd) 8 (formNone (.reg d) 1 gd 1) fun g _ l =>
    value (drawValue g.key (g.stream.getD l 0) (g.counter.getD l 0)).toNat)

/-- R234, R235, R238, R242, R244, R245: what the instructions that read lane numbers, index registers, predicates or other lanes
write in each active lane, and that they do nothing else. -/
def Obligations.LaneExchange : Prop :=
  (∀ d, WritesLanes (.lidB32 d) 4 (formNone (asDst d) 1 Guard.none 0) fun g _ l => value (if g.gang then l % 16 else l)) ∧
  (∀ d x, WritesLanes (.xget d x) 4 { formNone (asDst d) 1 Guard.none 0 with extra := [xKey x.toNat] } fun g _ l =>
    value ((g.readX l x.toNat).toNat &&& 0x01FF00FF)) ∧
  (∀ d a b, WritesLanes (.lnrdB32 d a b) 4 (form2 d a b 1 1 .n32) fun g on l =>
    g.exchanged (form2 d a b 1 1 .n32) on l ((g.laneIn (form2 d a b 1 1 .n32) l).b % (g.exchange l).1)) ∧
  (∀ d a b, WritesLanes (.lnrdxB32 d a b) 4 (form2 d a b 1 1 .n32) fun g on l =>
    g.exchanged (form2 d a b 1 1 .n32) on l ((l - (g.exchange l).2) ^^^ ((g.laneIn (form2 d a b 1 1 .n32) l).b % (g.exchange l).1))) ∧
  (∀ x : LX, WritesLanes (.selB32 x) 8 (formSel x) fun g _ l =>
    value (if g.combined x.c l
      then (g.laneIn (formSel x) l).a
      else (g.laneIn (formSel x) l).b)) ∧
  (∀ x : LX, WritesLanes (.rsumF32 x) 8 (formA x) fun g on l =>
    g.reduced (formA x) (f32.add (modeOf x.mod.toNat) 0) on l) ∧
  (∀ x : LX, WritesLanes (.rminF32 x) 8 (formA x) fun g on l =>
    g.reduced (formA x) (fun a b => (f32.minmax false a b, 0)) on l) ∧
  (∀ x : LX, WritesLanes (.rmaxF32 x) 8 (formA x) fun g on l =>
    g.reduced (formA x) (fun a b => (f32.minmax true a b, 0)) on l) ∧
  (∀ x : LX, WritesLanes (.rsumS32 x) 8 (formA x) fun g on l =>
    g.reduced (formA x) (fun a b => ((w32 a + w32 b).toNat, 0)) on l) ∧
  (∀ x : LX, WritesLanes (.rminS32 x) 8 (formA x) fun g on l =>
    g.reduced (formA x) (fun a b => (if (w32 a).slt (w32 b) then a else b, 0)) on l) ∧
  (∀ x : LX, WritesLanes (.rmaxS32 x) 8 (formA x) fun g on l =>
    g.reduced (formA x) (fun a b => (if (w32 a).slt (w32 b) then b else a, 0)) on l) ∧
  (∀ d pa neg gd (s : State) (g : Group) (t : Team) (pc : W64) (run : BitVec 64), s.Issues g t pc run →
    ¬(g.width = 64 ∧ d.toNat % 2 = 1) →
    g.LaneReady (formNone (.reg d) (if g.width = 64 then 2 else 1) gd 0) (g.active run gd) →
    ∃ g' : Group, exec (.lmask d pa neg gd) s = .next (s.setGroup s.focus (g'.place run [(pc + 8, run)])) ∧
      (∀ l ∈ lanesOf (g.active run gd), g'.readWide l d.toNat (if g.width = 64 then 2 else 1) =
        (((if neg then ~~~(g.predMask pa.toNat) else g.predMask pa.toNat) &&& g.active run gd &&&
            (if g.gang then (if l < 16 then 0xFFFF#64 else 0xFFFF0000#64) else BitVec.allOnes 64)).toNat >>> (if g.gang ∧ 16 ≤ l then 16 else 0)) %
          2 ^ (if g.width = 64 then 64 else 32)) ∧
      (∀ l n, n < 256 → ¬(l ∈ lanesOf (g.active run gd) ∧ d.toNat ≤ n ∧ n < d.toNat + (if g.width = 64 then 2 else 1)) →
        g'.readV l n = g.readV l n ∧ (l * 256 + n ∈ g'.badV ↔ l * 256 + n ∈ g.badV)) ∧
      { g' with v := g.v, badV := g.badV } = g)

/-- R236, R243: what a compare or agree writes in its destination predicate, and that it does nothing else. -/
def Obligations.Predicates : Prop :=
  (∀ x : LX, WritesPred (.fcmpF32 x) 8 (formAB x 1 .f32) (smallDst x.d) fun g _ l =>
    condFloat x.mod.toNat (f32.decode (g.laneIn (formAB x 1 .f32) l).a)
      (f32.decode (g.laneIn (formAB x 1 .f32) l).b) && g.combined x.c l) ∧
  (∀ x : LX, WritesPred (.dcmpF64 x) 8 (formAB x 2 .f64) (smallDst x.d) fun g _ l =>
    condFloat x.mod.toNat (f64.decode (g.laneIn (formAB x 2 .f64) l).a)
      (f64.decode (g.laneIn (formAB x 2 .f64) l).b) && g.combined x.c l) ∧
  (∀ x : LX, WritesPred (.icmpS32 x) 8 (formAB x 1 .s32) (smallDst x.d) fun g _ l =>
    condInt x.mod.toNat (w32 (g.laneIn (formAB x 1 .s32) l).a).toInt
      (w32 (g.laneIn (formAB x 1 .s32) l).b).toInt && g.combined x.c l) ∧
  (∀ x : LX, WritesPred (.icmpN32 x) 8 (formAB x 1 .n32) (smallDst x.d) fun g _ l =>
    condInt x.mod.toNat (g.laneIn (formAB x 1 .n32) l).a
      (g.laneIn (formAB x 1 .n32) l).b && g.combined x.c l) ∧
  (∀ x : LX, WritesPred (.icmpS64 x) 8 (formAB x 2 .s64) (smallDst x.d) fun g _ l =>
    condInt x.mod.toNat (w64 (g.laneIn (formAB x 2 .s64) l).a).toInt
      (w64 (g.laneIn (formAB x 2 .s64) l).b).toInt && g.combined x.c l) ∧
  (∀ x : LX, WritesPred (.icmpN64 x) 8 (formAB x 2 .n64) (smallDst x.d) fun g _ l =>
    condInt x.mod.toNat (g.laneIn (formAB x 2 .n64) l).a
      (g.laneIn (formAB x 2 .n64) l).b && g.combined x.c l) ∧
  (∀ pd pa neg (kind : BitVec 2) gd, WritesPred (.agree pd pa neg kind gd) 8 (formNone (.reg 0) 0 gd 0) pd.toNat fun g on l =>
    let peers := (lanesOf on).filter fun k => !g.gang || (decide (k < 16) == decide (l < 16))
    let q := fun k => (g.predMask pa.toNat).getLsbD k != neg
    if kind = 0 then peers.all q else if kind = 1 then peers.any q else peers.all q || !peers.any q)

/-- R171: what the extended twin of a short lane form does: the short form's operation on the twin's operands, under its guard and
the rounding mode of MOD; xget, lid and the two lane reads are their short forms' operations too. R116, R235: xset writes B to the index register
of each active lane, or raises cause 0x02 and writes nothing if a lane's value has a reserved bit.
Where the rules leave a rounding or a flag open, the model's reading is log 83. -/
def Obligations.LaneTwinsAndXset : Prop :=
  (∀ (op : LaneOp) (x : LX), op ≠ .lidB32 → op ≠ .lnrdB32 → op ≠ .lnrdxB32 → op ≠ .xget → op ≠ .xset →
    WritesLanes (.laneXf op x) 8 (twinForm op x) (perLane (twinForm op x) (laneValue op (modeOf x.mod.toNat)))) ∧
  (∀ x : LX, WritesLanes (.laneXf .lidB32 x) 8 (twinForm .lidB32 x) fun g _ l => value (if g.gang then l % 16 else l)) ∧
  (∀ x : LX, WritesLanes (.laneXf .xget x) 8 { twinForm .xget x with b := noSrc, extra := [xKey (smallSrc x.b)] } fun g _ l =>
    value ((g.readX l (smallSrc x.b)).toNat &&& 0x01FF00FF)) ∧
  (∀ x : LX, WritesLanes (.laneXf .lnrdB32 x) 8 (twinForm .lnrdB32 x) fun g on l =>
    g.exchanged (twinForm .lnrdB32 x) on l ((g.laneIn (twinForm .lnrdB32 x) l).b % (g.exchange l).1)) ∧
  (∀ x : LX, WritesLanes (.laneXf .lnrdxB32 x) 8 (twinForm .lnrdxB32 x) fun g on l =>
    g.exchanged (twinForm .lnrdxB32 x) on l ((l - (g.exchange l).2) ^^^ ((g.laneIn (twinForm .lnrdxB32 x) l).b % (g.exchange l).1))) ∧
  (∀ (s : State) (g : Group) (t : Team) (pc : W64) (run : BitVec 64) (x : BitVec 2) (n : BitVec 7),
    s.Issues g t pc run → g.LaneReady (formB (.reg n)) (g.active run Guard.none) →
    ((∃ l ∈ lanesOf run, g.readV l n.toNat &&& 0xFE00FF00#32 ≠ 0) →
      exec (.xset x (.reg n)) s = s.traps (.xset x (.reg n)) 4 g pc run 0x02
        (((lanesOf run).filter fun l => g.readV l n.toNat &&& 0xFE00FF00#32 != 0).map fun l => (l, laneRec 0x02 0))) ∧
    ((∀ l ∈ lanesOf run, g.readV l n.toNat &&& 0xFE00FF00#32 = 0) →
      ∃ g' : Group, exec (.xset x (.reg n)) s = .next (s.setGroup s.focus (g'.place run [(pc + 4, run)])) ∧
        (∀ l k, k < 4 → g'.readX l k = if l ∈ lanesOf run ∧ k = x.toNat then g.readV l n.toNat else g.readX l k) ∧
        (∀ l k, k < 4 → ¬(l ∈ lanesOf run ∧ k = x.toNat) → (l * 4 + k ∈ g'.badX ↔ l * 4 + k ∈ g.badX)) ∧
        { g' with x := g.x, badX := g.badX } = g))

/-- R172, R115, R117, R123, R131: the checks that a lane instruction makes at issue, in their order, and the cause that each raises;
an outstanding write of one of its registers makes it wait (R129). -/
def Obligations.LaneIssueChecks : Prop :=
  ∀ (i : Instr) (len : Nat) (f : LaneForm) (chk : List LaneIn → Option (Nat × Map W64))
    (act : Issue → BitVec 64 → List LaneIn → Group → Group × List (Nat × Nat)) (s : State) (g : Group) (t : Team) (pc : W64) (run : BitVec 64),
    LaneInstr i len f chk act → s.Issues g t pc run →
    let on := g.active run f.guard
    let budget := g.srcBudget f.a && g.srcBudget f.b && g.srcBudget f.c && g.dstBudget f.d f.dw
    let kinds := t.srcKind .lane f.a.src && t.srcKind .lane f.b.src && t.srcKind .lane f.c.src && t.dstKind .lane f.d
    let out := g.dstBad on f.d f.dw ++ (g.srcBad on f.a ++ (g.srcBad on f.b ++ g.srcBad on f.c))
    let reads := g.srcKeys on f.a ++ (g.srcKeys on f.b ++ g.srcKeys on f.c)
    let draws := if f.draws = 0 then [] else [drawKey]
    let words := reads ++ dstIndex f.d f.dw ++ draws ++ f.extra
    (budget = false → exec i s = s.traps i len g pc run 0x05 []) ∧
    (budget = true → kinds = false → exec i s = s.traps i len g pc run 0x04 []) ∧
    (budget = true → kinds = true → out ≠ [] → exec i s = s.traps i len g pc run 0x05 (boundRecs out)) ∧
    (budget = true → kinds = true → out = [] → g.blocked (reads ++ g.dstKeys on f.d f.dw ++ draws) = true →
      exec i s = .next { s with stalled := true }) ∧
    (budget = true → kinds = true → out = [] → g.blocked (reads ++ g.dstKeys on f.d f.dw ++ draws) = false → g.badWords on words = true →
      exec i s = (s.countUncorr g.die).traps i len g pc run 0x0B [])

/-- R124, R125, R337, R483: a lane instruction with channel operands. It waits if a channel that it takes from is empty or the one it
pushes to is full once the pops are counted; else a poisoned word of a head raises cause 0x0B; else, the order of its pushes and pops being settled,
it takes the heads, acts, and pushes one entry of the results.
The half of a 64-bit value that no entry carries is free (log 13), and which place of its storage an entry has is the model's (log 96). -/
def Obligations.LaneChannels : Prop :=
  ∀ (i : Instr) (len : Nat) (f : LaneForm) (chk : List LaneIn → Option (Nat × Map W64))
    (act : Issue → BitVec 64 → List LaneIn → Group → Group × List (Nat × Nat)) (s : State) (g : Group) (t : Team) (pc : W64) (run : BitVec 64),
    LaneInstr i len f chk act → s.Issues g t pc run → f.noChan = false →
    (Issue.mk i s.focus g pc run len).laneChecks t f (g.active run f.guard) = none →
    g.blocked ((Issue.mk i s.focus g pc run len).laneKeys f (g.active run f.guard) ++ (if f.draws = 0 then [] else [drawKey])) = false →
    g.badWords (g.active run f.guard) ((Issue.mk i s.focus g pc run len).laneReads f (g.active run f.guard)) = false →
    ((∀ ch vals, takeLanes t.chans f.chans = some (ch, vals) → roomFor ch f.d = false) →
      exec i s = .next ((s.setGroup s.focus { g with wait := .channel, waitPc := pc + BitVec.ofNat 64 len, waitRun := run }).push
        (.channelResume s.focus))) ∧
    (∀ ch vals, takeLanes t.chans f.chans = some (ch, vals) → roomFor ch f.d = true → t.takesBad (g.active run f.guard) t.chans f.chans = true →
      exec i s = (s.countUncorr g.die).traps i len g pc run 0x0B []) ∧
    (∀ ch vals s1 g1 t1, takeLanes t.chans f.chans = some (ch, vals) → roomFor ch f.d = true →
      t.takesBad (g.active run f.guard) t.chans f.chans = false →
      chk (g.inputs s.tick f (g.active run f.guard) vals) = none → s.chanOrder s.focus (f.chans.any Option.isSome) (dstIsChan f.d) = (s1, true) →
      (Issue.mk i s.focus g pc run len).still s1 = some g1 → s1.teams.get? g.team = some t1 →
      exec i s = .next ((s1.setTeam g.team { t1 with
        chans := (match f.d with
           | .chan _ n => pushLanes ch n.toNat (laneEntry s.tick f.dw (act ⟨i, s.focus, g, pc, run, len⟩ (g.active run f.guard)
              (g.inputs s.tick f (g.active run f.guard) vals) g1).2)
           | .reg _ => ch
           | .idx _ _ => ch)
        bad := (match f.d with
           | .chan _ n => t1.badAfterPush ch n.toNat
           | .reg _ => t1.bad
           | .idx _ _ => t1.bad) }).setGroup s.focus
        (((act ⟨i, s.focus, g, pc, run, len⟩ (g.active run f.guard) (g.inputs s.tick f (g.active run f.guard) vals) g1).1.afterDraws f.draws
          (lanesOf (g.active run f.guard))).place run [(pc + BitVec.ofNat 64 len, run)])))

/-! ## The uniform set -/

/-- R365: what every uniform arithmetic instruction writes to s[D], and that it does nothing else. -/
def Obligations.UniformArithmetic : Prop :=
  Uni2 .saddB64 (fun a b => a + b) ∧ Uni2 .ssubB64 (fun a b => a - b) ∧ Uni2 .smulB64 (fun a b => a * b) ∧
  Uni2 .smulhiS64 (fun a b => (a.signExtend 128 * b.signExtend 128).extractLsb' 64 64) ∧
  Uni2 .smulhiN64 (fun a b => (a.setWidth 128 * b.setWidth 128).extractLsb' 64 64) ∧
  Uni2 .sminS64 (fun a b => if a.slt b then a else b) ∧ Uni2 .sminN64 (fun a b => if a < b then a else b) ∧
  Uni2 .smaxS64 (fun a b => if a.slt b then b else a) ∧ Uni2 .smaxN64 (fun a b => if a < b then b else a) ∧
  Uni2 .sandB64 (fun a b => a &&& b) ∧ Uni2 .sorB64 (fun a b => a ||| b) ∧ Uni2 .sxorB64 (fun a b => a ^^^ b) ∧
  Uni1 .snotB64 (fun b => ~~~b) ∧
  Uni2 .sshlB64 (fun a b => if 64 ≤ b.toNat then 0 else a <<< b.toNat) ∧
  Uni2 .sshrN64 (fun a b => if 64 ≤ b.toNat then 0 else a >>> b.toNat) ∧
  Uni2 .sshrS64 (fun a b => if 64 ≤ b.toNat then (if a.msb then BitVec.allOnes 64 else 0) else a.sshiftRight b.toNat) ∧
  Uni1 .smovB64 (fun b => b) ∧
  Uni1 .spopcB64 (fun b => BitVec.ofNat 64 ((List.range 64).countP fun k => b.getLsbD k)) ∧
  Uni1 .sclzB64 (fun b => b.clz)

/-- R171, R364 to R369: the guarded uniform forms: the twins of the arithmetic, smovi, the compares, ssel and sbfe. -/
def Obligations.UniformExtended : Prop :=
  (∀ (op : UniOp) (d a b : BitVec 7) (gd : Guard) (mod : BitVec 4), arithOp op = true → oneSource op = false →
    UniDoes (.uniformXf op (0#1 ++ d) (0#1 ++ a) (0#1 ++ b) gd mod none) 8 [a.toNat, b.toNat] [d.toNat] gd fun g =>
      g.writeS d.toNat (uniValue op (g.readS a.toNat) (g.readS b.toNat))) ∧
  (∀ (op : UniOp) (d a : BitVec 7) (b : BitVec 8) (v : BitVec 15) (gd : Guard) (mod : BitVec 4), arithOp op = true → oneSource op = false →
    UniDoes (.uniformXf op (0#1 ++ d) (0#1 ++ a) b gd mod (some v)) 8 [a.toNat] [d.toNat] gd fun g =>
      g.writeS d.toNat (uniValue op (g.readS a.toNat) (v.signExtend 64))) ∧
  (∀ (op : UniOp) (d b : BitVec 7) (a : BitVec 8) (gd : Guard) (mod : BitVec 4), oneSource op = true →
    UniDoes (.uniformXf op (0#1 ++ d) a (0#1 ++ b) gd mod none) 8 [b.toNat] [d.toNat] gd fun g =>
      g.writeS d.toNat (uniValue op 0 (g.readS b.toNat))) ∧
  (∀ d imm kind gd, UniDoes (.smovi d imm kind gd) 8 (if kind = 2 then [d.toNat] else []) [d.toNat] gd fun g => g.writeS d.toNat
    (if kind = 0 then imm.signExtend 64 else if kind = 1 then imm.setWidth 64 else imm ++ (g.readS d.toNat).extractLsb' 0 32)) ∧
  (∀ bd (a : BitVec 7) b use neg bc cond gd, uChan b = none →
    UniDoes (.scmpS64 bd (.reg a) b use neg bc cond gd) 8 (a.toNat :: srcRegs b) [] gd fun g => g.writeB bd.toNat
      (condInt cond.toNat (g.readS a.toNat).toInt (g.uValue b 0).toInt && (!use || (g.readB bc.toNat != neg)))) ∧
  (∀ bd (a : BitVec 7) b use neg bc cond gd, uChan b = none →
    UniDoes (.scmpN64 bd (.reg a) b use neg bc cond gd) 8 (a.toNat :: srcRegs b) [] gd fun g => g.writeB bd.toNat
      (condInt cond.toNat (g.readS a.toNat).toNat (g.uValue b 0).toNat && (!use || (g.readB bc.toNat != neg)))) ∧
  (∀ (d a : BitVec 7) b bc neg gd, uChan b = none →
    UniDoes (.ssel (.reg d) (.reg a) b bc neg gd) 8 (a.toNat :: srcRegs b) [d.toNat] gd fun g => g.writeS d.toNat
      (if g.readB bc.toNat != neg then g.readS a.toNat else g.uValue b 0)) ∧
  (∀ (d a : BitVec 7) b signed gd, uChan b = none →
    UniDoes (.sbfe (.reg d) (.reg a) b signed gd) 8 (a.toNat :: srcRegs b) [d.toNat] gd fun g => g.writeS d.toNat
      (uniField signed (g.readS a.toNat) (g.uValue b 0)))

/-- R115, R123, R129, R131, R172, R364: the checks that a uniform instruction over operands makes at issue, in their order. -/
def Obligations.UniformIssueChecks : Prop :=
  ∀ (i : Instr) (len : Nat) (d : Option Operand) (a b : Option USrc) (gd : Guard) (act : W64 → W64 → Group → Group × W64)
    (s : State) (g : Group) (t : Team) (pc : W64) (run : BitVec 64), UniInstr i len d a b gd act → s.Issues g t pc run → g.blocked [b0Key] = false →
    let srcs := a.toList ++ b.toList
    let dsts := (d.map asUSrc).toList
    let budget := (srcs ++ dsts).all g.uBudget
    let kinds := (srcs.all fun o => match uChan o with
        | some (_, n) => (t.chan n).kind == ChanKind.uniform
        | none => true) &&
      (match d with
       | some (.chan n6 n) => !n6 && (t.chan n.toNat).kind == ChanKind.uniform
       | some (.reg _) => true
       | none => true)
    (budget = false → exec i s = s.traps i len g pc run 0x05 []) ∧
    (budget = true → kinds = false → exec i s = s.traps i len g pc run 0x04 []) ∧
    (budget = true → kinds = true → g.blocked ((srcs ++ dsts).flatMap uKeys) = true → exec i s = .next { s with stalled := true }) ∧
    (budget = true → kinds = true → g.blocked ((srcs ++ dsts).flatMap uKeys) = false → g.badWords run (srcs.flatMap uKeys) = true →
      exec i s = (s.countUncorr g.die).traps i len g pc run 0x0B [])

/-- R124, R125, R337, R364, R483: a uniform instruction with channel operands. It waits for an entry to take and for room to push; a poisoned word
of a head then raises cause 0x0B; else it takes the heads, acts, and pushes its result, or 0 under a false guard.
Which place of its storage an entry has is the model's (log 96). -/
def Obligations.UniformChannels : Prop :=
  ∀ (i : Instr) (len : Nat) (d : Option Operand) (a b : Option USrc) (gd : Guard) (act : W64 → W64 → Group → Group × W64)
    (s : State) (g : Group) (t : Team) (pc : W64) (run : BitVec 64), UniInstr i len d a b gd act → s.Issues g t pc run → g.blocked [b0Key] = false →
    ((a.toList ++ b.toList) ++ (d.map asUSrc).toList).all g.uBudget = true →
    ((a.toList ++ b.toList).all fun o => match uChan o with
      | some (_, n) => (t.chan n).kind == ChanKind.uniform
      | none => true) = true →
    g.badWords run ((a.toList ++ b.toList).flatMap uKeys) = false →
    g.blocked (((a.toList ++ b.toList) ++ (d.map asUSrc).toList).flatMap uKeys) = false →
    let uses := [a.bind uChan, b.bind uChan]
    (∀ n : BitVec 6, d = some (.chan false n) → (t.chan n.toNat).kind = .uniform →
      (∀ ch vals, takeWords t.chans uses = some (ch, vals) →
        (ch.getD n.toNat Chan.off).depth ≤ (ch.getD n.toNat Chan.off).count →
        exec i s = .next ((s.setGroup s.focus { g with wait := .channel, waitPc := pc + BitVec.ofNat 64 len, waitRun := run }).push
          (.channelResume s.focus))) ∧
      (∀ ch vals, takeWords t.chans uses = some (ch, vals) → (ch.getD n.toNat Chan.off).count < (ch.getD n.toNat Chan.off).depth →
        t.takesBad 0 t.chans uses = true → exec i s = (s.countUncorr g.die).traps i len g pc run 0x0B []) ∧
      (∀ ch vals s1 g1 t1, takeWords t.chans uses = some (ch, vals) →
        (ch.getD n.toNat Chan.off).count < (ch.getD n.toNat Chan.off).depth → t.takesBad 0 t.chans uses = false →
        s.chanOrder s.focus (uses.any Option.isSome) true = (s1, true) → (Issue.mk i s.focus g pc run len).still s1 = some g1 →
        s1.teams.get? g.team = some t1 →
        exec i s =
          let r := if g.guardTrue gd then act (match a with
              | some x => g.uValue x (vals.getD 0 0)
              | none => 0) (match b with
              | some x => g.uValue x (vals.getD 1 0)
              | none => 0) g1 else (g1, 0)
          .next ((s1.setTeam g.team { t1 with chans := pushWord ch n.toNat r.2, bad := t1.badAfterPush ch n.toNat }).setGroup s.focus
            (r.1.place run [(pc + BitVec.ofNat 64 len, run)])))) ∧
    (∀ n : BitVec 7, d = some (.reg n) → uses.any Option.isSome = true →
      (takeWords t.chans uses = none →
        exec i s = .next ((s.setGroup s.focus { g with wait := .channel, waitPc := pc + BitVec.ofNat 64 len, waitRun := run }).push
          (.channelResume s.focus))) ∧
      (∀ ch vals, takeWords t.chans uses = some (ch, vals) → t.takesBad 0 t.chans uses = true →
        exec i s = (s.countUncorr g.die).traps i len g pc run 0x0B []) ∧
      (∀ ch vals s1 g1 t1, takeWords t.chans uses = some (ch, vals) → t.takesBad 0 t.chans uses = false → s.chanOrder s.focus true false = (s1, true) →
        (Issue.mk i s.focus g pc run len).still s1 = some g1 → s1.teams.get? g.team = some t1 → g.guardTrue gd = true →
        exec i s =
          let r := act (match a with
              | some x => g.uValue x (vals.getD 0 0)
              | none => 0) (match b with
              | some x => g.uValue x (vals.getD 1 0)
              | none => 0) g1
          .next ((s1.setTeam g.team { t1 with chans := ch }).setGroup s.focus
            ((r.1.writeS n.toNat r.2).place run [(pc + BitVec.ofNat 64 len, run)]))))

/-- R374 to R377, R179: where the taking and the other lanes of a run go by each branch, call and return, in the short form and in the twin, and
what else it writes. That a brx which no lane takes raises nothing is the model's reading (log 84). -/
def Obligations.BranchesAndCalls : Prop :=
  (∀ (s : State) (g : Group) (t : Team) (pc : W64) (run : BitVec 64) (off : BitVec 24) (i : Instr) (len : Nat) (take : BitVec 64),
    s.Issues g t pc run →
    ControlForm g run (.bra off) .bra (off.extractLsb' 16 8) (off.extractLsb' 8 8) (off.extractLsb' 0 8) i len take →
    exec i s = .next (s.setGroup s.focus (g.place run [(branchTarget pc off, take), (pc + BitVec.ofNat 64 len, run &&& ~~~take)]))) ∧
  (∀ (s : State) (g : Group) (t : Team) (pc : W64) (run : BitVec 64) (a : BitVec 7) (i : Instr) (len : Nat) (take : BitVec 64),
    s.Issues g t pc run → ControlForm g run (.brx a) .brx 0 (0#1 ++ a) 0 i len take → a.toNat < g.ubud →
    (∀ k ∈ g.badS, k / 2 ≠ a.toNat) → g.blocked [sKey a.toNat] = false →
    (take = 0 ∨ (g.readS a.toNat).toNat % 4 = 0 →
      exec i s = .next (s.setGroup s.focus (g.place run [(g.readS a.toNat, take), (pc + BitVec.ofNat 64 len, run &&& ~~~take)]))) ∧
    (take ≠ 0 → (g.readS a.toNat).toNat % 4 ≠ 0 → exec i s = s.traps i len g pc run 0x03 [])) ∧
  (∀ (s : State) (g : Group) (t : Team) (pc : W64) (run : BitVec 64) (off : BitVec 24) (i : Instr) (len : Nat) (take : BitVec 64),
    s.Issues g t pc run →
    ControlForm g run (.call off) .call (off.extractLsb' 16 8) (off.extractLsb' 8 8) (off.extractLsb' 0 8) i len take →
    2 ≤ g.lbud → g.lbud ≤ 256 → g.blocked (vKeys (g.lbud - 2) 2) = false →
    ∃ g' : Group, exec i s = .next (s.setGroup s.focus
        (g'.place run [(branchTarget pc off, take), (pc + BitVec.ofNat 64 len, run &&& ~~~take)])) ∧
      (∀ l ∈ lanesOf take, g'.linkOf l = pc + BitVec.ofNat 64 len) ∧
      (∀ l n, n < 256 → ¬(l ∈ lanesOf take ∧ g.lbud - 2 ≤ n ∧ n < g.lbud) → g'.readV l n = g.readV l n ∧
        (l * 256 + n ∈ g'.badV ↔ l * 256 + n ∈ g.badV)) ∧ { g' with v := g.v, badV := g.badV } = g) ∧
  (∀ (s : State) (g : Group) (t : Team) (pc : W64) (run : BitVec 64) (i : Instr) (len : Nat) (take : BitVec 64),
    s.Issues g t pc run → ControlForm g run .ret .ret 0 0 0 i len take →
    g.badWords take (vKeys (g.lbud - 2) 2) = false → g.blocked (vKeys (g.lbud - 2) 2) = false →
    ((∀ l ∈ lanesOf take, (g.linkOf l).toNat % 4 = 0) →
      exec i s = .next (s.setGroup s.focus
        (g.place run ((lanesOf take).map (fun l => (g.linkOf l, laneBit l)) ++ [(pc + BitVec.ofNat 64 len, run &&& ~~~take)])))) ∧
    ((∃ l ∈ lanesOf take, (g.linkOf l).toNat % 4 ≠ 0) →
      exec i s = s.traps i len g pc run 0x03
        (((lanesOf take).filter fun l => decide ((g.linkOf l).toNat % 4 ≠ 0)).map fun l => (l, laneRec 0x03 (g.linkOf l).toNat))))

/-- R371, R372: moving the lanes of a run keeps the lane-PC table a table: its addresses rise, its masks are disjoint and not empty; each lane
of the run stands at its target, or nowhere if it has none, and every other lane where it stood. -/
def Obligations.LanePcTable : Prop :=
  ∀ (t : List (W64 × BitVec 64)) (run : BitVec 64) (targets : List (W64 × BitVec 64)), tableOk t →
    (targets.map (fun e => e.2)).Pairwise (fun a b => a &&& b = 0) → (∀ e ∈ targets, e.2 &&& ~~~run = 0) →
    tableOk (tableMove t run targets) ∧
    ∀ l, l < 64 → tablePc (tableMove t run targets) l =
      if run.getLsbD l then ((targets.find? fun e => e.2.getLsbD l).map fun e => e.1) else tablePc t l

/-- R381: nop moves the run to the next instruction and does nothing else; its word is 0x8000_0000. -/
def Obligations.NopAdvances : Prop :=
  (∀ (s : State) (g : Group) (t : Team) (pc : W64) (run : BitVec 64), s.Issues g t pc run → exec .nop s = s.moves g pc 4 run) ∧
  decode 0x80000000#32 0#32 = .instr .nop false

/-- R379, R380, R390, R197, R399: yield, which gives up the place on the stage while a ready group waits in the wings, helper lanes, hints, a WAIT,
and trap; R172: an undefined opcode. -/
def Obligations.YieldHelpWaitTrap : Prop :=
  ∀ (s : State) (g : Group) (t : Team) (pc : W64) (run : BitVec 64), s.Issues g t pc run →
    (s.wingsReady g = none → exec .yield s = s.moves g pc 4 run) ∧
    (∀ k, s.wingsReady g = some k → exec .yield s = (s.enterStage k g.stage).moves { g with stage := none } pc 4 run) ∧
    (∀ gd pkind, exec (.exitHelp gd pkind) s = s.moves { g with help := g.help ||| g.taking run gd pkind } pc 8 run) ∧
    (∀ kind : BitVec 8, exec (.pwrhint kind) s = State.moves
      { s with power := s.power.set (12 * g.die + g.core / 4) { (s.power.getD (12 * g.die + g.core / 4) Power.reset) with hint := kind.toNat } }
      g pc 4 run) ∧
    (∀ l st c tl : BitVec 6,
      exec (.wait l st c tl) s =
        if g.lds ≤ l.toNat ∧ g.sts ≤ st.toNat ∧ g.cps ≤ c.toNat ∧ g.tls ≤ tl.toNat then s.moves g pc 4 run
        else .next ((s.setGroup s.focus { g with
          wait := .counters l.toNat st.toNat c.toNat tl.toNat none, waitPc := pc + 4, waitRun := run }).push (.waitRelease s.focus))) ∧
    (∀ code : BitVec 8, exec (.trap code) s =
      .next ((s.setGroup s.focus (g.place run [(pc + 4, run)])).raise s.focus ⟨0x10, code.toNat, pc, false, 0, 0, 0, [], 0⟩)) ∧
    (∀ w : BitVec 32, extended (fOp w) = false →
      exec (.illegalInstruction w) s = .next (s.raise s.focus ⟨0x01, 0, pc, true, run, w, 0, [], 0⟩))

/-- R389: the five kinds of genkey. -/
def Obligations.DrawKeys : Prop :=
  (∀ (s : State) (g : Group) (t : Team) (pc : W64) (run : BitVec 64) (a : BitVec 7), s.UniIssues g t pc run [a.toNat, a.toNat + 1] [] →
    g.blocked [drawKey] = false →
    exec (.genkeyKey a) s = s.moves { g with key := g.readS (a.toNat + 1) ++ g.readS a.toNat, badGen := g.badGen.filter fun k => decide (k < 256 ∨ 260 ≤ k) } pc 4 run) ∧
  (∀ (s : State) (g : Group) (t : Team) (pc : W64) (run : BitVec 64) (a : BitVec 7), s.UniIssues g t pc run [a.toNat] [] →
    g.blocked [drawKey] = false →
    ∃ g' : Group, exec (.genkeyCtr a) s = s.moves g' pc 4 run ∧
      (∀ l, g'.counter.getD l 0 = if l ∈ lanesOf run then g.readS a.toNat else g.counter.getD l 0) ∧
      (∀ k, k ∈ g'.badGen ↔ k ∈ g.badGen ∧ ¬∃ l ∈ lanesOf run, k = 4 * l + 2 ∨ k = 4 * l + 3) ∧ { g' with counter := g.counter, badGen := g.badGen } = g) ∧
  (∀ (s : State) (g : Group) (t : Team) (pc : W64) (run : BitVec 64) (a : BitVec 7), s.UniIssues g t pc run [a.toNat] [] →
    g.blocked [drawKey] = false →
    ∃ g' : Group, exec (.genkeyStrm a) s = s.moves g' pc 4 run ∧
      (∀ l, g'.stream.getD l 0 = if l ∈ lanesOf run then g.readS a.toNat + BitVec.ofNat 64 (if g.gang then l % 16 else l) else g.stream.getD l 0) ∧
      (∀ k, k ∈ g'.badGen ↔ k ∈ g.badGen ∧ ¬∃ l ∈ lanesOf run, k = 4 * l ∨ k = 4 * l + 1) ∧ { g' with stream := g.stream, badGen := g.badGen } = g) ∧
  (∀ (s : State) (g : Group) (t : Team) (pc : W64) (run : BitVec 64) (d : BitVec 7), s.UniIssues g t pc run [] [d.toNat, d.toNat + 1] →
    ((∃ k ∈ g.badGen, 256 ≤ k) → exec (.genkeyRdkey d) s = (s.countUncorr g.die).traps (.genkeyRdkey d) 4 g pc run 0x0B []) ∧
    ((∀ k ∈ g.badGen, k < 256) → exec (.genkeyRdkey d) s =
      s.moves ((g.writeS d.toNat (g.key.extractLsb' 0 64)).writeS (d.toNat + 1) (g.key.extractLsb' 64 64)) pc 4 run)) ∧
  (∀ (s : State) (g : Group) (t : Team) (pc : W64) (run : BitVec 64) (d : BitVec 7) (l : Nat), s.UniIssues g t pc run [] [d.toNat, d.toNat + 1] →
    g.blocked [drawKey] = false → l ∈ lanesOf run → (∀ k ∈ lanesOf run, l ≤ k) →
    ((∃ k ∈ g.badGen, k / 4 = l) → exec (.genkeyRd d) s = (s.countUncorr g.die).traps (.genkeyRd d) 4 g pc run 0x0B []) ∧
    ((∀ k ∈ g.badGen, k / 4 ≠ l) →
      exec (.genkeyRd d) s = s.moves ((g.writeS d.toNat (g.counter.getD l 0)).writeS (d.toNat + 1) (g.stream.getD l 0)) pc 4 run))

/-- R386, R387: ilock locks code granules of the context in ascending order while fewer than 128 are locked, and iunlock unlocks those of a range. -/
def Obligations.LockedCode : Prop :=
  (∀ (s : State) (g : Group) (t : Team) (x : Ctx) (pc : W64) (run : BitVec 64) (d a b : BitVec 7),
    s.UniIssues g t pc run [a.toNat, b.toNat] [d.toNat] → s.ctxs.get? g.ctx = some x →
    let base := (g.readS a.toNat).toNat
    let n := (g.readS b.toNat).toNat
    (n = 0 → exec (.ilock d a b) s = s.moves ((g.writeS d.toNat 0).writeB 0 true) pc 4 run) ∧
    (n ≠ 0 → canonical base = false ∨ 2 ^ 64 ≤ base + n - 1 → exec (.ilock d a b) s = s.moves ((g.writeS d.toNat 0).writeB 0 false) pc 4 run) ∧
    (n ≠ 0 → canonical base = true → base + n - 1 < 2 ^ 64 → x.locked.length ≤ 128 →
      let first := base / 256
      let count := (base + n - 1) / 256 + 1 - first
      let set := lockRange x.locked first count
      let have_ := (set.filter fun k => decide (first ≤ k ∧ k < first + count)).length
      exec (.ilock d a b) s = (s.setCtx g.ctx { x with locked := set }).moves
        ((g.writeS d.toNat (BitVec.ofNat 64 (256 * have_))).writeB 0 (decide (have_ = count))) pc 4 run)) ∧
  (∀ (s : State) (g : Group) (t : Team) (x : Ctx) (pc : W64) (run : BitVec 64) (a b : BitVec 7),
    s.UniIssues g t pc run [a.toNat, b.toNat] [] → s.ctxs.get? g.ctx = some x →
    let base := (g.readS a.toNat).toNat
    let n := (g.readS b.toNat).toNat
    (n = 0 ∨ canonical base = false ∨ 2 ^ 64 ≤ base + n - 1 → exec (.iunlock a b) s = s.moves g pc 4 run) ∧
    (n ≠ 0 → canonical base = true → base + n - 1 < 2 ^ 64 →
      exec (.iunlock a b) s = (s.setCtx g.ctx { x with
        locked := x.locked.filter fun k => decide (k < base / 256 ∨ (base + n - 1) / 256 < k) }).moves g pc 4 run))

/-- R391 to R398, R21, R121, R150, R253: what sysrd reads from each register, and the causes of the numbers that name none. That CLK_LOCAL (0x0005)
has counted on by an amount that nothing is known of is the model's choice (log 2). -/
def Obligations.SystemReads : Prop :=
  ∀ (s : State) (g : Group) (t : Team) (pc : W64) (run : BitVec 64) (d : BitVec 7), s.UniIssues g t pc run [] [d.toNat] →
    let reads := fun (reg : BitVec 15) (x : Nat) => exec (.sysrd d reg) s = s.moves (g.writeS d.toNat (BitVec.ofNat 64 x)) pc 4 run
    reads 0x0000 (2 ^ 22 * g.die + 2 ^ 18 * (g.core / 4) + 2 ^ 16 * (g.core % 4) + 2 ^ 13 * g.sub) ∧
    (g.entries = [] → g.sbuf = [] → (∀ q ∈ t.mat.queue, q.gid ≠ s.focus) → reads 0x0001 g.flags.toNat) ∧
    reads 0x0002 run.toNat ∧ reads 0x0003 g.live.toNat ∧
    reads 0x0004 (g.hnd.toNat + (if g.width = 64 then 2 ^ 6 else 0) + 2 ^ 7 * g.gang.toNat + 2 ^ 32 * (g.table.length + g.table1.length)) ∧
    (let now := (s.cycles.getD (coreKey g.die g.core) 0 + Config.clockAdvance (coreKey g.die g.core) s.tick) % 2 ^ 64;
      exec (.sysrd d 0x0005) s = State.moves { s with cycles := s.cycles.set (coreKey g.die g.core) now } (g.writeS d.toNat (BitVec.ofNat 64 now))
        pc 4 run) ∧
    (∀ x, s.ctxs.get? g.ctx = some x → reads 0x0006 x.locked.length) ∧
    reads 0x0007 (g.help &&& g.live).toNat ∧
    (∀ k, k < 24 → s.inPartition (s.fnOf g) (quadOfSlice g.die k) = true →
      reads (BitVec.ofNat 15 (0x0100 + k)) (2 ^ 16 * (s.wayp g.die k).ringFloor + 2 ^ 12 * (s.wayp g.die k).err +
        2 ^ 11 * (s.wayp g.die k).busy.toNat + (s.wayp g.die k).scrWays)) ∧
    (∀ k, k < 24 → s.inPartition (s.fnOf g) (quadOfSlice g.die k) = false →
      exec (.sysrd d (BitVec.ofNat 15 (0x0100 + k))) s = s.traps (.sysrd d (BitVec.ofNat 15 (0x0100 + k))) 4 g pc run 0x07 []) ∧
    (∀ n, n < 64 → reads (BitVec.ofNat 15 (0x0200 + n))
      (2 ^ 13 * (t.chan n).base + 2 ^ 8 * (t.chan n).count + 2 ^ 6 * (t.chan n).kind.code + (t.chan n).depth)) ∧
    reads 0x0300 (2 ^ 32 * g.pos + 2 ^ 24 * t.mat.accKib + 2 ^ 16 * t.mat.slots + t.mat.lease) ∧
    (∀ n, n < 8 → reads (BitVec.ofNat 15 (0x0308 + n)) (((t.mat.descs.getD (n / 2) 0).extractLsb' (64 * (n % 2)) 64).toNat)) ∧
    reads 0x0400 (2 ^ 8 * (s.power.getD (12 * g.die + g.core / 4) Power.reset).opp + (s.power.getD (12 * g.die + g.core / 4) Power.reset).pass) ∧
    (∀ reg : BitVec 15, 0x0800 ≤ reg.toNat → reg.toNat ≤ 0x0FFF → exec (.sysrd d reg) s = s.traps (.sysrd d reg) 4 g pc run 0x07 []) ∧
    (∀ reg : BitVec 15, unlistedReg reg.toNat → exec (.sysrd d reg) s = s.traps (.sysrd d reg) 4 g pc run 0x02 [])

/-- R8, R9, R91 to R95, R150, R391: what syswr does to the two registers that programs write, and the causes of every other write. -/
def Obligations.SystemWrites : Prop :=
  ∀ (s : State) (g : Group) (t : Team) (pc : W64) (run : BitVec 64) (d : BitVec 7), s.UniIssues g t pc run [d.toNat] [] →
    let x := (g.readS d.toNat).toNat
    (s.flagsAhead s.focus g = false → x < 64 → exec (.syswr 0x0001 d) s = s.moves { g with flags := g.flags &&& ~~~(BitVec.ofNat 6 x) } pc 4 run) ∧
    (s.flagsAhead s.focus g = false → 64 ≤ x → exec (.syswr 0x0001 d) s = s.traps (.syswr 0x0001 d) 4 g pc run 0x02 []) ∧
    (s.flagsAhead s.focus g = true → exec (.syswr 0x0001 d) s = .next { s with stalled := true }) ∧
    (∀ k, k < 24 → s.inPartition (s.fnOf g) (quadOfSlice g.die k) = false →
      exec (.syswr (BitVec.ofNat 15 (0x0100 + k)) d) s = s.traps (.syswr (BitVec.ofNat 15 (0x0100 + k)) d) 4 g pc run 0x07 []) ∧
    (∀ k, k < 24 → s.inPartition (s.fnOf g) (quadOfSlice g.die k) = true → s.layerPending s.focus g = false →
      bits x 63 24 ≠ 0 ∨ bits x 10 5 ≠ 0 ∨ 16 < bits x 4 0 →
      exec (.syswr (BitVec.ofNat 15 (0x0100 + k)) d) s = s.traps (.syswr (BitVec.ofNat 15 (0x0100 + k)) d) 4 g pc run 0x02 []) ∧
    (∀ k, k < 24 → s.inPartition (s.fnOf g) (quadOfSlice g.die k) = true → s.layerPending s.focus g = false → bits x 63 24 = 0 → bits x 10 5 = 0 →
      bits x 4 0 ≤ 16 →
      let w := s.wayp g.die k
      let put := fun (s : State) (v : Waypart) => { s with waypart := s.waypart.set (g.die * 24 + k) v }
      let m := bits x 4 0
      let i := Instr.syswr (BitVec.ofNat 15 (0x0100 + k)) d
      (w.busy = true → exec i s = (put s { w with err := 1 }).moves g pc 4 run) ∧
      (w.busy = false → m < w.ringFloor → exec i s = (put s { w with err := 2 }).moves g pc 4 run) ∧
      (w.busy = false → w.ringFloor ≤ m → m = w.scrWays → exec i s = (put s { w with err := 0 }).moves g pc 4 run) ∧
      (w.busy = false → w.ringFloor ≤ m → w.scrWays < m →
        exec i s = ((put s { w with err := 0, busy := true, scrWays := m }).push (.layerGrow g.die k)).moves g pc 4 run) ∧
      (w.busy = false → w.ringFloor ≤ m → m < w.scrWays →
        exec i s = ((put (s.dropMib g.die k m w.scrWays) { w with err := 0, busy := true, scrWays := m, mapped := m }).push
          (.layerShrink g.die k)).moves g pc 4 run)) ∧
    (∀ reg : BitVec 15, readOnlyReg reg.toNat = true → exec (.syswr reg d) s = s.traps (.syswr reg d) 4 g pc run 0x07 []) ∧
    (∀ reg : BitVec 15, unlistedReg reg.toNat → exec (.syswr reg d) s = s.traps (.syswr reg d) 4 g pc run 0x02 [])

/-- R378, R322: exit ends its taking lanes; the last lane of a group begins its exit, and an exit that would end the last group of a team
with a live solver sample raises cause 0x0F. R382, R383: repack parks the lanes of the run. -/
def Obligations.ExitAndRepack : Prop :=
  (∀ (s : State) (g : Group) (t : Team) (pc : W64) (run : BitVec 64), s.Issues g t pc run → run ≠ 0 → g.gang = false →
    let left := { (g.place run [(pc + 4, 0)]) with
      live := g.live &&& ~~~run, help := g.help &&& ~~~run
      queries := g.queries.filter fun q => !(run.getLsbD q.1) || q.2.state == .active }
    (g.live &&& ~~~run ≠ 0 → left.table ≠ [] → exec .exit s = .next (s.setGroup s.focus left)) ∧
    (g.live &&& ~~~run = 0 → (t.liveSamples && !(s.otherGroups g.team s.focus)) = false →
      exec .exit s = .next ((s.setGroup s.focus { left with wait := .exit, waitRun := run }).push (.groupExit s.focus))) ∧
    (g.live &&& ~~~run = 0 → t.liveSamples = true → s.otherGroups g.team s.focus = false → exec .exit s = s.traps .exit 4 g pc run 0x0F [])) ∧
  (∀ (s : State) (g : Group) (t : Team) (pc : W64) (run : BitVec 64) (d v : BitVec 7), s.Issues g t pc run → g.gang = false → d.toNat < g.ubud →
    g.blocked [sKey d.toNat] = false →
    let parks := fun (key : Option (Nat → Nat)) (w : BitVec 32) => { (g.place run []) with
      parked := g.parked ++ (lanesOf run).map fun l => (⟨l, pc, false, d.toNat, key.map fun k => k l, w, 0⟩ : Parked) }
    ((parks none (0xA2#8 ++ (0#1 ++ d) ++ 0#16)).table ≠ [] →
      exec (.repack d) s = .next (s.setGroup s.focus (parks none (0xA2#8 ++ (0#1 ++ d) ++ 0#16)))) ∧
    ((parks none (0xA2#8 ++ (0#1 ++ d) ++ 0#16)).table = [] →
      exec (.repack d) s = .next ((s.setGroup s.focus { (parks none (0xA2#8 ++ (0#1 ++ d) ++ 0#16)) with wait := .repack }).push
        (.repackArrive s.focus))) ∧
    (v.toNat < g.lbud → g.badWords run [v.toNat] = false → g.blocked [v.toNat] = false →
      let p := parks (some fun l => (g.readV l v.toNat).toNat % 2 ^ 16) (0xA2#8 ++ (0#1 ++ d) ++ 0#8 ++ (1#1 ++ v))
      (p.table ≠ [] → exec (.repackKey d v) s = .next (s.setGroup s.focus p)) ∧
      (p.table = [] → exec (.repackKey d v) s = .next ((s.setGroup s.focus { p with wait := .repack }).push (.repackArrive s.focus))))) ∧
  (∀ (s : State) (g : Group) (t : Team) (pc : W64) (run : BitVec 64) (d v : BitVec 7), s.Issues g t pc run → g.gang = true →
    exec (.repack d) s = s.traps (.repack d) 4 g pc run 0x01 [] ∧ exec (.repackKey d v) s = s.traps (.repackKey d v) 4 g pc run 0x01 [])

/-- R354 to R360: fence, acq, rel and the meeting points where nothing waits to be made visible. -/
def Obligations.Synchronisation : Prop :=
  (∀ (s : State) (g : Group) (t : Team) (pc : W64) (run : BitVec 64) (k : BitVec 3), s.Issues g t pc run → s.Quiet g t →
    exec (.fence k) s = (s.recorded k none).moves g pc 4 run) ∧
  (∀ (s : State) (g : Group) (t : Team) (pc : W64) (run : BitVec 64) (k : BitVec 3) (layer : Bool) (a : BitVec 7),
    s.UniIssues g t pc run [a.toNat] [] → s.Quiet g t →
    let addr := (g.readS a.toNat).toNat
    let object := some (s.objectOf g.ctx layer addr)
    (syncAddrOk layer addr = false → exec (.acq k layer a) s = s.traps (.acq k layer a) 4 g pc run 0x04 [] ∧
      exec (.rel k layer a) s = s.traps (.rel k layer a) 4 g pc run 0x04 []) ∧
    (syncAddrOk layer addr = true → exec (.acq k layer a) s = s.moves g pc 4 run ∧
      exec (.rel k layer a) s = (s.recorded k object).moves g pc 4 run)) ∧
  (∀ (s : State) (g : Group) (t : Team) (p : Meet) (pc : W64) (run : BitVec 64) (d m : BitVec 7), s.UniIssues g t pc run [] [d.toNat] → s.Quiet g t →
    t.mps.get? m.toNat = some p →
    let n := if g.gang then (if run &&& 0xFFFF#64 = 0 then 0 else 1) + (if run &&& 0xFFFF0000#64 = 0 then 0 else 1) else 1
    let q : Meet := if p.expect ≤ p.arrived + n ∧ 0 < p.arrived + n then { p with arrived := 0, phase := (p.phase + 1) % 2 ^ 32 }
      else { p with arrived := p.arrived + n }
    exec (.mparr d m) s = State.moves ((s.recorded 1 none).setMeet g.team m.toNat q)
      (g.writeS d.toNat (BitVec.ofNat 64 p.phase)) pc 4 run) ∧
  (∀ (s : State) (g : Group) (t : Team) (p : Meet) (pc : W64) (run : BitVec 64) (m b : BitVec 7), s.UniIssues g t pc run [b.toNat] [] → s.Quiet g t →
    t.mps.get? m.toNat = some p → (g.readS b.toNat).toNat < 2 ^ 32 →
    exec (.mpwait m b) s = if p.phase = (g.readS b.toNat).toNat
      then .next ((s.setGroup s.focus { g with
        wait := .mpwait m.toNat (g.readS b.toNat).toNat, waitPc := pc + 4, waitRun := run }).push (.mpwaitWake s.focus))
      else s.moves g pc 4 run) ∧
  (∀ (s : State) (g : Group) (t : Team) (p : Meet) (pc : W64) (run : BitVec 64) (m b : BitVec 7), s.UniIssues g t pc run [b.toNat] [] →
    t.mps.get? m.toNat = some p →
    let n := (g.readS b.toNat).toNat
    (n = 0 ∨ 65535 < n → exec (.mpinit m b) s = s.traps (.mpinit m b) 4 g pc run 0x04 []) ∧
    (1 ≤ n → n ≤ 65535 → exec (.mpinit m b) s = (s.setMeet g.team m.toNat
      (if n ≤ p.arrived then { p with expect := n, auto := false, arrived := 0, phase := (p.phase + 1) % 2 ^ 32 }
        else { p with expect := n, auto := false })).moves g pc 4 run))

/-- R336, R342, R347: once a release at team scope or wider on all objects has completed, the group's store buffer is empty. -/
def Obligations.ReleaseDrains : Prop :=
  ∀ (s s1 : State) (gid scope : Nat) (g1 : Group), 1 ≤ scope → s.release gid none scope = (s1, true) → s1.groups.get? gid = some g1 →
    g1.sbuf = []

/-! ## Memory -/

/-- R189, R190, R191, R131, R129, R195, R115, R117: the checks of every memory instruction in their order, and the causes of those that fail: the
lowest-numbered check that fails in any lane gives the cause, and each failing lane's record names its own. -/
def Obligations.MemoryIssueChecks : Prop :=
  (∀ (s : State) (i : Instr) (op : MemOp) (g : Group) (t : Team) (pc : W64) (run : BitVec 64) (e : Entry),
    s.Issues g t pc run → memOp i = some op → e = s.memEntry i op g pc run →
    let words := g.badWords (if op.uni then run else g.active run op.guard) (op.reads g run ++ (if e.draws = [] then [] else [drawKey]))
    let waits := g.blocked (op.reads g run ++ e.written)
    (op.budgetOk i g = false → exec i s = s.traps i 8 g pc run 0x05 []) ∧
    (op.budgetOk i g = true → waits = true → exec i s = .next { s with stalled := true }) ∧
    (op.budgetOk i g = true → waits = false → words = true → exec i s = (s.countUncorr g.die).traps i 8 g pc run 0x0B []) ∧
    (op.budgetOk i g = true → words = false → waits = false → op.uni = true → g.guardTrue op.guard = false → exec i s = s.moves g pc 8 run) ∧
    (op.budgetOk i g = true → words = false → waits = false → (op.uni = true → g.guardTrue op.guard = true) →
      let fails := (if op.uni then [] else (op.bounds g run).map fun b => (⟨b.1, 2, 0x05, b.2⟩ : LaneFail)) ++ s.reqFails g t op (op.reqs e)
      fails ≠ [] → ∃ cause recs, exec i s = s.traps i 8 g pc run cause recs ∧
        (∃ f ∈ fails, f.cause = cause ∧ ∀ x ∈ fails, f.check ≤ x.check) ∧
        ∀ before f after, fails = before ++ f :: after → (∀ x ∈ before, x.lane = f.lane → f.check < x.check) →
          (∀ x ∈ after, x.lane = f.lane → f.check ≤ x.check) → recs.get? f.lane = some (laneRec f.cause f.addr))) ∧
  (∀ (s : State) (g : Group) (t : Team) (op : MemOp) (q : Req),
    (q.a % op.align ≠ 0 → s.reqCheck g t op q = some (3, 0x03)) ∧
    (q.a % op.align = 0 → q.sp = .glob → canonical q.a = false ∨ canonical ((q.a + (q.n - 1)) % 2 ^ 64) = false →
      s.reqCheck g t op q = some (4, 0x04)) ∧
    (q.a % op.align = 0 → q.sp = .team → t.size < q.a + q.n → s.reqCheck g t op q = some (4, 0x04)) ∧
    (∀ c, q.a % op.align = 0 → q.sp = .layer → s.layerCheck (s.fnOf g) g.die q.a q.n = some c → s.reqCheck g t op q = some (4, c)) ∧
    (q.a % op.align = 0 → q.sp = .team → q.a + q.n ≤ t.size → t.inChannel q.a q.n = true → s.reqCheck g t op q = some (5, 0x07)))

/-- R194, R195, R196, R76, R212, R306: a load, an sld, an xrd or a resld enters the group's memory pipeline with its operands; its landing becomes
pending, LDS rises, the run moves on, and no memory changes.
What an entry of a uniform load records as its lane is the model's (log 22). -/
def Obligations.LoadIssue : Prop :=
  ∀ (s : State) (i : Instr) (op : MemOp) (g : Group) (t : Team) (pc : W64) (run : BitVec 64) (e : Entry),
    s.MemIssues i op g t pc run e → op.kind.isLoad = true → .loadLanding s.focus s.nextId ∉ s.work →
    ∃ (s' : State) (st : EntryState), exec i s = .next s' ∧ (st = .inFlight ∨ st = .waiting) ∧
      (({ s with nextId := s.nextId + 1, work := s.work ++ [.loadLanding s.focus s.nextId] } : State).setGroup s.focus
        { ((g.afterDraws (if e.draws = [] then 0 else 1) (lanesOf e.mask)).place run [(pc + 8, run)]) with
          entries := g.entries ++ [{ e with state := st, ranges := (op.reqs e).map t.rangeOf }], lds := g.lds + 1 }).sameBut s'

/-- R206, R208, R209, R211: an atom, a cas or an xadd, after its release if it makes one, enters the group's memory pipeline; one step of each
lane becomes pending, its counter rises, the run moves on, and no memory changes.
What an entry of a uniform atomic records as its lane is the model's (log 22). -/
def Obligations.AtomicIssue : Prop :=
  ∀ (s s1 : State) (i : Instr) (op : MemOp) (g : Group) (t : Team) (pc : W64) (run : BitVec 64) (e : Entry),
    s.MemIssues i op g t pc run e → op.kind.isAtomic = true →
    (match op.kind.releases with
      | none => s1 = s ∧ (op.kind.acquires = true → g.unsettled = false)
      | some scope => g.unsettled = false ∧ s.releaseAll s.focus scope (s.objectsOf g (op.reqs e)) = (s1, true)) →
    s1.groups.get? s.focus = some g → (∀ x ∈ g.entries, x.id ≠ s1.nextId) →
    (∀ l, .atomicPerform s.focus s1.nextId l ∉ s1.work ∧ .xaccCellAdd s.focus s1.nextId l ∉ s1.work) →
    ∃ (s' : State) (st : EntryState), exec i s = .next s' ∧ (st = .inFlight ∨ st = .waiting) ∧
      (({ s1 with
          nextId := s1.nextId + 1
          work := s1.work ++ (lanesOf e.mask).map fun l =>
            if op.kind.counter = .sts then .xaccCellAdd s.focus s1.nextId l else .atomicPerform s.focus s1.nextId l } : State).setGroup s.focus
        (({ (g.place run [(pc + 8, run)]) with
          entries := g.entries ++ [{ e with id := s1.nextId, seq := s1.nextId, state := st, ranges := (op.reqs e).map t.rangeOf }] } : Group).countUp op.kind.counter)).sameBut s'

/-- R194, R195, R347, R349, R306: a store, an sst or a resst whose pages are there is performed whole: in team memory it writes its bytes, and elsewhere
it puts one entry for each line that it touches into the group's store buffer and leaves every memory as it is.
What an entry of a uniform store records as its lane is the model's (log 22). -/
def Obligations.StoreIssue : Prop :=
  ∀ (s : State) (i : Instr) (op : MemOp) (g : Group) (t : Team) (pc : W64) (run : BitVec 64) (e : Entry),
    s.MemIssues i op g t pc run e → op.kind.writes = true → op.kind.isAtomic = false → t.wins = [] →
    g.sbuf.length + t.linesNeeded (op.writesOf e) ≤ 64 →
    let o := Owner.entry s.focus s.nextId
    (s.ask o g .write (op.reqs e)).standing o = .ready → (s.ask o g .write (op.reqs e)).writeRefused g t o .write (op.reqs e) = [] →
    (op.space = .team → ∃ s', exec i s = .next s' ∧
      ((((op.writesOf e).foldl (fun (s : State) x => s.writeAt (.team g.team x.1.a) x.2) { s with nextId := s.nextId + 1 }).setGroup s.focus
        (g.place run [(pc + 8, run)]))).sameBut s') ∧
    (op.space ≠ .team → (∀ k, .storeBufferDrain s.focus k ∉ s.work) →
      ∃ (s' : State) (es : List SbEntry), exec i s = .next s' ∧
        es.map (fun x => Line.mk x.space x.line x.mask x.data) = linesOf (op.writesOf e) ∧
        es.map (fun x => x.id) = (List.range es.length).map (fun k => s.nextId + 1 + k) ∧
        (∀ x ∈ es, x.op = s.nextId ∧ x.seq = s.nextId ∧ x.pc = pc ∧ x.bad = false) ∧
        (({ s with
            nextId := s.nextId + 1 + es.length, work := s.work ++ es.map (fun x => .storeBufferDrain s.focus x.id) } : State).setGroup s.focus
          { (g.place run [(pc + 8, run)]) with sbuf := g.sbuf ++ es, sts := g.sts + 1 }).sameBut s')

/-- R105, R194: the lines of a store are aligned to 256 bytes, no two of them are the same line, their masks name the stored bytes and no
others, and each stored byte is that of the last lane that stores to it. -/
def Obligations.StoreLines : Prop :=
  ∀ ws : List (Req × List Byte),
    (linesOf ws).Pairwise (fun a b => ¬(a.sp = b.sp ∧ a.line = b.line)) ∧
    (∀ l ∈ linesOf ws, l.line % 256 = 0 ∧ l.mask < 2 ^ 256) ∧
    (∀ sp a, (∃ l ∈ linesOf ws, l.sp = sp ∧ l.line ≤ a ∧ a < l.line + 256 ∧ bit l.mask (a - l.line) = true) ↔ ∃ w ∈ ws, coversByte w sp a) ∧
    (∀ before w after sp a, ws = before ++ w :: after → coversByte w sp a → (∀ x ∈ after, ¬coversByte x sp a) →
      ∃ l ∈ linesOf ws, l.sp = sp ∧ l.line = a / 256 * 256 ∧ Map.getD l.data (a % 256) 0 = w.2.getD (a - w.1.a) 0)

/-- R191, R193, R194, R195, R306, R207, R208, R211, R158, R347, R78: what performing a load, one lane of an atomic, one cell addition and one
store-buffer entry does. That a store passes an earlier read of its group which keeps the bytes it replaces is the model's arrangement (log 91). -/
def Obligations.MemoryEvents : Prop :=
  (∀ (s s1 : State) (gid id : Nat) (g : Group) (e : Entry) (op : MemOp) (l : List (Req × List Byte)), s.Performs gid id g e op → op.kind.isLoad = true →
    op.kind.isXacc = false → s.readAll g (.entry gid id) .read (op.reqs e) = .ok s1 l → s1.groups.get? gid = some g →
    exec (.loadLanding gid id) s = .next (s1.setGroup gid ((g.land e op (joinLanes l)).retire e))) ∧
  (∀ (s : State) (gid id : Nat) (g : Group) (t : Team) (e : Entry) (op : MemOp), s.Performs gid id g e op → s.InTeam g t e op →
    ∃ s1, s.readAll g (.entry gid id) .read (op.reqs e) = .ok s1 ((op.reqs e).map fun q => (q, t.mem.bytes q.a q.n)) ∧ s.sameBut s1) ∧
  (∀ (s : State) (gid id : Nat) (g : Group) (t : Team) (e : Entry) (op : MemOp), s.Performs gid id g e op → s.InLayer g t e op →
    ∃ s1, s.readAll g (.entry gid id) .read (op.reqs e) = .ok s1 ((op.reqs e).map fun q => (q, s.layer.bytes (layerKey g.die q.a) q.n)) ∧ s.sameBut s1) ∧
  (∀ (s : State) (gid id : Nat) (g : Group) (t : Team) (e : Entry) (op : MemOp) (signed : Bool),
    s.Performs gid id g e op → s.InTeam g t e op → op.kind = .load signed → op.uni = false → (∀ l, e.dreg.getD l 0 + op.dw ≤ 256) →
    ∃ (s' : State) (g' : Group), exec (.loadLanding gid id) s = .next s' ∧ (s.setGroup gid g').sameBut s' ∧
      (∀ l ∈ lanesOf e.mask, g.live.getLsbD l = true →
        g'.readWide l (e.dreg.getD l 0) op.dw = loadValue signed (t.mem.bytes (op.addr e l) op.size) % 2 ^ (32 * op.dw)) ∧
      (∀ l n, n < 256 → ¬(l ∈ lanesOf e.mask ∧ g.live.getLsbD l = true ∧ e.dreg.getD l 0 ≤ n ∧ n < e.dreg.getD l 0 + op.dw) →
        g'.readV l n = g.readV l n ∧ (l * 256 + n ∈ g'.badV ↔ l * 256 + n ∈ g.badV)) ∧
      { g' with v := g.v, badV := g.badV } = g.retire e) ∧
  (∀ (g : Group) (e : Entry) (op : MemOp) (signed : Bool) (d : Nat) (x : Req × List Byte) (r : List (Req × List Byte)),
    op.kind = .load signed → op.uni = true → sldDst e.instr = some d → g.land e op (x :: r) = g.writeS d (BitVec.ofNat 64 (ofBytes x.2))) ∧
  (∀ (g : Group) (e : Entry) (op : MemOp) (w : Nat) (x : Req × List Byte), op.kind = .resld w → op.uni = false →
    g.land e op [x] = if g.live.getLsbD x.1.lane then g.writeW x.1.lane w (BitVec.ofNat 192 (ofBytes x.2)) else g) ∧
  (∀ (b : List Byte), b.length = 1 ∨ b.length = 2 → w32 (loadValue true b) = (BitVec.ofNat (8 * b.length) (ofBytes b)).signExtend 32) ∧
  (∀ b : List Byte, loadValue false b = ofBytes b) ∧
  (∀ (s : State) (gid id lane : Nat) (g : Group) (t : Team) (e : Entry) (op : MemOp),
    s.Performs gid id g e op → s.InTeam g t e op → op.kind.isAtomic = true → e.lrec = [] → (e.mask &&& ~~~e.done).getLsbD lane = true →
    (∀ l ∈ lanesOf (e.mask &&& ~~~e.done), l < lane → op.addr e l / op.size ≠ op.addr e lane / op.size) →
    let old := t.mem.bytes (op.addr e lane) op.size
    let s1 := match op.newValue e lane (ofBytes old) with
      | some x => s.writeAt (.team g.team (op.addr e lane)) (toBytes x op.size)
      | none => s
    let e1 : Entry := { e with state := .inFlight, done := e.done ||| laneBit lane, res := e.res.set lane (BitVec.ofNat 128 (ofBytes old)) }
    ∀ i, i = .atomicPerform gid id lane ∨ i = .xaccCellAdd gid id lane →
    ((e.mask &&& ~~~e1.done ≠ 0) → ∃ s', exec i s = .next s' ∧ (s1.setGroup gid (g.setEntry e1)).sameBut s') ∧
    ((e.mask &&& ~~~e1.done = 0) → op.kind.acquires = false ∨ s.syncRecs = [] →
      ∃ s', exec i s = .next s' ∧ (s1.setGroup gid ((((g.setEntry e1).landAtomic e1 op).landHelpers e1 op).retire e1)).sameBut s')) ∧
  (∀ (g : Group) (e : Entry) (op : MemOp) (l n : Nat), n < 256 → (∀ k, e.dreg.getD k 0 + op.dw ≤ 256) → (g.landHelpers e op).readV l n =
    if l ∈ lanesOf (e.helpers &&& g.live) ∧ e.dreg.getD l 0 ≤ n ∧ n < e.dreg.getD l 0 + op.dw then 0 else g.readV l n) ∧
  (∀ (s s1 s2 s3 : State) (gid id lane : Nat) (g g2 : Group) (e : Entry) (op : MemOp) (b : List Byte) (i : Instr) (a : Act),
    (i = .atomicPerform gid id lane ∧ a = .atomicPerform gid id lane) ∨ (i = .xaccCellAdd gid id lane ∧ a = .xaccCellAdd gid id lane) →
    s.Performs gid id g e op → op.kind.isAtomic = true → e.lrec = [] → (e.mask &&& ~~~e.done).getLsbD lane = true →
    (∀ l ∈ lanesOf (e.mask &&& ~~~e.done), l < lane → op.addr e l / op.size ≠ op.addr e lane / op.size) →
    s.atomReady gid g e op a = (s1, true) →
    let hpa := s1.ownHpa g (.entry gid id) .both op.space (op.addr e lane)
    ¬(op.space = .glob ∧ s1.writeAhead gid g (some e.seq) (op.addr e lane) op.size hpa = true) →
    s1.clearOwn gid (some e.seq) op.space (op.addr e lane) op.size hpa = (s2, true) → s2.groups.get? gid = some g2 →
    s2.atomLane gid g2 (.entry gid id) op e ⟨lane, op.space, op.addr e lane, op.size⟩ = (s3, .bytes b) →
    let e1 : Entry := { e with state := .inFlight, done := e.done ||| laneBit lane, res := e.res.set lane (BitVec.ofNat 128 (ofBytes b)) }
    e.mask &&& ~~~e1.done ≠ 0 → exec i s = .next (s3.setEntry gid e1)) ∧
  (∀ x y : BitVec 32, let f := fun op => BitVec.ofNat 32 (atomValue op 4 x.toNat y.toNat)
    f 0 = x + y ∧ f 1 = x &&& y ∧ f 2 = x ||| y ∧ f 3 = x ^^^ y ∧ f 4 = (if y.slt x then y else x) ∧ f 5 = (if y < x then y else x) ∧
    f 6 = (if x.slt y then y else x) ∧ f 7 = (if x < y then y else x) ∧ f 8 = y ∧ f 9 = (if y ≤ x then 0 else x + 1) ∧
    f 10 = (if x = 0 ∨ y < x then y else x - 1)) ∧
  (∀ (s : State) (gid k : Nat) (g : Group) (e : SbEntry), s.groups.get? gid = some g → s.awake g = true →
    g.sbuf.find? (fun e => e.id == k) = some e → e.id = k → s.storeHeld gid g e = false →
    (∀ s1 l, s.drainPlace gid g e = .place s1 l → s1.access g.die l = .served →
      exec (.storeBufferDrain gid k) s = .next ((s1.writeEntry gid e l).dropSb gid e)) ∧
    (e.bad = false → Map.sorted e.data = true →
      let left := g.sbuf.filter fun x => !(x.id == e.id)
      let g' : Group := if left.any (fun x => x.op == e.op) then { g with sbuf := left } else { g with sbuf := left, sts := g.sts - 1 }
      (s.layer.wf = true → e.space = .layer → s.layerCheck (s.fnOf g) g.die e.line 256 = none →
        ∃ s', exec (.storeBufferDrain gid k) s = .next s' ∧ s'.groups = s.groups.set gid g' ∧ s'.dram = s.dram ∧ s'.host = s.host ∧
          s'.teams = s.teams ∧
          ∀ a, s'.layer.get a = match (if layerKey g.die e.line ≤ a then Map.get? e.data (a - layerKey g.die e.line) else none) with
            | some b => b
            | none => s.layer.get a) ∧
      (∀ d p, s.dram.wf = true → e.space = .glob → e.phys = some p → s.route p = some (.dram d) → s.access g.die (.dram d) = .served →
        (∀ x ∈ e.data, (d + x.1) / 65536 ∉ s.hostBias) →
        ∃ (s' : State) (es : List Entry), exec (.storeBufferDrain gid k) s = .next s' ∧ s'.groups = s.groups.set gid { g' with entries := es } ∧
          es.map (fun x => { x with seen := [] }) = g.entries.map (fun x => { x with seen := [] }) ∧ s'.layer = s.layer ∧ s'.host = s.host ∧
          s'.teams = s.teams ∧
          ∀ a, s'.dram.get a = match (if d ≤ a then Map.get? e.data (a - d) else none) with
            | some b => b
            | none => s.dram.get a)))

/-- R215, R191: tex, once it may be accepted, captures its operands and its header, or the header's address while its page is not there, raises
LDS and moves on; R216: what a header means.
The sign of an exact zero sum is the model's reading (log 19), and so is what is reserved in a header (log 85). -/
def Obligations.Texture : Prop :=
  (∀ (s : State) (g : Group) (t : Team) (pc : W64) (run : BitVec 64) (d a b : BitVec 7) (bu : Bool) (c : BitVec 7) (hint : BitVec 2) (gd : Guard),
    s.Issues g t pc run →
    let i := Instr.tex d a b bu c hint gd
    let act := g.active run gd
    let reads := vKeys a.toNat 2 ++ (if bu then [sLow b.toNat] else [b.toNat]) ++ [sKey c.toNat]
    let hdr := (g.readS c.toNat).toNat
    d.toNat + 4 ≤ g.lbud → a.toNat + 2 ≤ g.lbud → (if bu then b.toNat < g.ubud else b.toNat < g.lbud) → c.toNat < g.ubud →
    g.badWords act reads = false → g.blocked (reads ++ vKeys d.toNat 4) = false →
    (act = 0 → exec i s = s.moves g pc 8 run) ∧
    (act ≠ 0 → hdr % 32 ≠ 0 → exec i s = s.traps i 8 g pc run 0x03 []) ∧
    (act ≠ 0 → hdr % 32 = 0 → canonical hdr = false → exec i s = s.traps i 8 g pc run 0x04 []) ∧
    (act ≠ 0 → hdr % 32 = 0 → canonical hdr = true → g.lds < 255 → g.acquiring = false → g.overlaps [(.glob, hdr, 32)] = false →
      ∃ e : Entry, e.id = s.nextId ∧ e.instr = i ∧ e.pc = pc ∧ e.mask = act ∧ e.counter = .lds ∧ e.dsts = vKeys d.toNat 4 ∧ e.texAddr = hdr ∧
        e.texHead = none ∧ e.ranges = [(.glob, 0, 2 ^ 64)] ∧
        (∀ l ∈ lanesOf act, e.texOperands l = (f32.decode (g.readV l a.toNat).toNat, f32.decode (g.readV l (a.toNat + 1)).toNat,
          f32.decode (if bu then (g.readS b.toNat).toNat % 2 ^ 32 else (g.readV l b.toNat).toNat))) ∧
        let entered := fun (u : State) (e : Entry) => Host.Outcome.next ((({ u with nextId := u.nextId + 1 } : State).setGroup s.focus
          { (g.place run [(pc + 8, run)]) with entries := g.entries ++ [e], lds := g.lds + 1 }).push (.loadLanding s.focus e.id))
        match s.readHead s.focus g e with
        | .ok s1 l =>
          (texHeader (headOf l) = none → exec i s = .next (s1.raise s.focus ((Issue.mk i s.focus g pc run 8).pend 0x02 []))) ∧
          (∀ h, texHeader (headOf l) = some h → e.texOutside h ≠ [] →
            exec i s = .next (s1.raise s.focus ((Issue.mk i s.focus g pc run 8).pend 0x04 (recsOf ((e.texOutside h).map fun q => (q, 0x04)))))) ∧
          (∀ h, texHeader (headOf l) = some h → e.texOutside h = [] → g.overlaps (e.captureHead (headOf l)).ranges = false →
            exec i s = entered s1 (e.captureHead (headOf l)))
        | .wait _ => exec i s = entered s e
        | .fail _ _ _ _ => exec i s = entered s e)) ∧
  (∀ x : Nat, 4 < bits x 103 96 ∨ bits x 63 0 % 256 ≠ 0 ∨ bits x 255 114 ≠ 0 → texHeader x = none) ∧
  (∀ (t : TexHdr) (l : Nat), t.row l % 256 = 0 ∧ t.wAt l * t.texel ≤ t.row l ∧ t.row l < t.wAt l * t.texel + 256 ∧
    t.levelOff (l + 1) = t.levelOff l + t.row l * t.hAt l) ∧
  (∀ (i : Int) (n : Nat), 0 < n →
    texWrap 0 i n = some (i % n).toNat ∧
    texWrap 1 i n = some (if i < 0 then 0 else if (n : Int) ≤ i then n - 1 else i.toNat) ∧
    (∃ k, texWrap 2 i n = some k ∧ k < n ∧ ((i - k) % (2 * n) = 0 ∨ (i + k + 1) % (2 * n) = 0)) ∧
    texWrap 3 i n = (if 0 ≤ i ∧ i < n then some i.toNat else none))

/-- R118, R119, R198 to R203: copy, lload and lstore at issue, and the landing of a unit of a copy within team memory.
That layer and team addresses are not reduced is the model's reading (log 21). -/
def Obligations.AsyncEngines : Prop :=
  (∀ (s : State) (i : Instr) (g : Group) (t : Team) (pc : W64) (run : BitVec 64) (gd : Guard) (ops : List (BitVec 7)),
    engineForm i = some (gd, ops) → s.UniIssues g t pc run (ops.map fun n => n.toNat) [] →
    let uops := ops.map (fun n => g.readS n.toNat) ++ List.replicate (4 - ops.length) 0
    (g.guardTrue gd = false → exec i s = s.moves g pc 8 run) ∧
    (∀ c, g.guardTrue gd = true → s.enginePlan g t i uops = .error c → exec i s = s.traps i 8 g pc run c []) ∧
    (∀ r, g.guardTrue gd = true → s.enginePlan g t i uops = .ok r → r.left = 0 → exec i s = s.moves g pc 8 run) ∧
    (∀ r, g.guardTrue gd = true → s.enginePlan g t i uops = .ok r → r.left ≠ 0 → g.badWords run [cKey (cregOf i)] = true →
      exec i s = (s.countUncorr g.die).traps i 8 g pc run 0x0B []) ∧
    (∀ r, g.guardTrue gd = true → s.enginePlan g t i uops = .ok r → r.left ≠ 0 → g.badWords run [cKey (cregOf i)] = false → g.acquiring = false →
      g.overlaps ((engineBytes i r).flatMap t.spread) = false →
      g.cps < 255 → g.readC (cregOf i) + r.left ≤ 0xFFFFFFFF →
      s.engineLoad g.die g.core (engineOf i) < 16 → .engineUnitLand s.focus s.nextId ∉ s.work →
      ∃ e : Entry, exec i s = .next (({ s with nextId := s.nextId + 1, work := s.work ++ [.engineUnitLand s.focus s.nextId] } : State).setGroup s.focus
          { ((g.writeC (cregOf i) (g.readC (cregOf i) + r.left)).place run [(pc + 8, run)]) with entries := g.entries ++ [e], cps := g.cps + 1 }) ∧
        e.id = s.nextId ∧ e.instr = i ∧ e.pc = pc ∧ e.counter = .cps ∧ e.uops = uops ∧ e.remain = some r)) ∧
  (∀ (s : State) (g : Group) (t : Team) (d a b : BitVec 7) (c : BitVec 3) (dsp ssp : Space) (gd : Guard) (dst src n : W64),
    let plan := s.enginePlan g t (.copy d a b c dsp ssp gd) [dst, src, n, 0]
    ((dst ||| src ||| n).toNat % 16 ≠ 0 → plan = .error 0x03) ∧
    ((dst ||| src ||| n).toNat % 16 = 0 → 2 ^ 24 < n.toNat → plan = .error 0x04) ∧
    ((dst ||| src ||| n).toNat % 16 = 0 → n.toNat ≤ 2 ^ 24 → s.engineRange g t dsp dst.toNat n.toNat true = (none, none) →
      s.engineRange g t ssp src.toNat n.toNat false = (none, none) →
      plan = .ok ⟨dst.toNat, src.toNat, n.toNat, 1, 0, 0, 0, 0, n.toNat, movesBack dsp ssp dst.toNat src.toNat n.toNat⟩)) ∧
  (∀ r : Remain, r.row = 0 → r.done < r.rowBytes →
    let u := r.unit
    0 < u.2.2 ∧ u.2.2 ≤ 256 ∧ u.2.2 ≤ r.rowBytes - r.done ∧ 0 ≤ u.1 ∧ u.1.toNat / 256 = (u.1.toNat + u.2.2 - 1) / 256 ∧
      u.1 - r.dst = u.2.1 - r.src) ∧
  (∀ (s : State) (gid id : Nat) (g : Group) (t : Team) (e : Entry) (r : Remain) (c : BitVec 3) (d a b : BitVec 7) (gd : Guard),
    s.groups.get? gid = some g → s.awake g = true → s.teams.get? g.team = some t → g.entries.find? (fun e => e.id == id) = some e →
    e.instr = .copy d a b c .team .team gd → e.book = false → e.state ≠ .faulted → e.bad = false → e.remain = some r → r.rows = 1 → r.row = 0 → r.done < r.rowBytes →
    r.dst % 16 = 0 → r.src % 16 = 0 → r.done % 16 = 0 → r.rowBytes % 16 = 0 → g.sbuf = [] → t.wins = [] → t.mem.wf = true →
    badIn t.bad 4 r.src r.rowBytes = false → (∀ w ∈ s.waits, w.owner ≠ .entry gid id ∧ w.owner ≠ .out gid id) → .engineUnitLand gid id ∉ s.work →
    let u := r.unit
    let r1 := r.after u.2.2
    ∃ (s' : State) (t' : Team), exec (.engineUnitLand gid id) s = .next s' ∧
      ((({ s with work := if r1.left = 0 then s.work else s.work ++ [.engineUnitLand gid id] } : State).setTeam g.team t').setGroup gid
        (g.unitLanded e r1 u.2.2)).sameBut s' ∧
      { t' with mem := t.mem, bad := t.bad } = t ∧
      ∀ x, t'.mem.get x = if u.1.toNat ≤ x ∧ x < u.1.toNat + u.2.2 then t.mem.get (u.2.1.toNat + (x - u.1.toNat)) else t.mem.get x)

/-- R204, R205: stash windows are mapped and unmapped. -/
def Obligations.StashWindows : Prop :=
  (∀ (s : State) (g : Group) (t : Team) (pc : W64) (run : BitVec 64) (a gl len : BitVec 7) (rw : Bool) (win : BitVec 3) (gd : Guard),
    s.UniIssues g t pc run [a.toNat, gl.toNat, len.toNat] [] →
    let i := Instr.stmap a gl len rw win gd
    let tb := (g.readS a.toNat).toNat
    let gb := (g.readS gl.toNat).toNat
    let n := (g.readS len.toNat).toNat
    (g.guardTrue gd = false → exec i s = s.moves g pc 8 run) ∧
    (g.guardTrue gd = true → ¬(tb % 256 = 0 ∧ gb % 256 = 0 ∧ n % 256 = 0) → exec i s = s.traps i 8 g pc run 0x03 []) ∧
    (g.guardTrue gd = true → tb % 256 = 0 → gb % 256 = 0 → n % 256 = 0 →
      n = 0 ∨ 2 ^ 18 < n ∨ canonical gb = false ∨ t.size < tb + n ∨ (t.wins.get? win.toNat).isSome = true → exec i s = s.traps i 8 g pc run 0x04 []) ∧
    (g.guardTrue gd = true → stmapCheck t win.toNat tb gb n = none → g.acquiring = false →
      g.overlaps [(.glob, gb, n), (.team, tb, n)] = false → g.mayAlias none .glob gb = false → g.ownStores none .glob gb n none = [] → g.pend = none →
      (∀ e ∈ g.entries, anyGlobal ∉ e.ranges) →
      exec i s = (s.setTeam g.team { t with wins := t.wins.set win.toNat ⟨tb, gb, n, rw, [], [], [], []⟩ }).moves g pc 8 run)) ∧
  (∀ (s : State) (g : Group) (t : Team) (pc : W64) (run : BitVec 64) (win : BitVec 3) (gd : Guard) (w : Window), s.UniIssues g t pc run [] [] →
    g.guardTrue gd = true → g.unsettled = false → t.wins.get? win.toNat = some w → w.dirty = [] → Map.sorted t.wins = true → t.mem.wf = true →
    (∀ x ∈ s.waits, x.owner ≠ .stash g.team win.toNat) → g.pend = none →
    ∃ (s' : State) (t' : Team), exec (.stunmap win gd) s = .next s' ∧
      ((s.setTeam g.team t').setGroup s.focus (g.place run [(pc + 8, run)])).sameBut s' ∧
      (∀ k, t'.wins.get? k = if k = win.toNat then none else t.wins.get? k) ∧ { t' with mem := t.mem, bad := t.bad, wins := t.wins } = t ∧
      (∀ k, k ∈ t'.bad ↔ k ∈ t.bad ∧ ¬∃ sec ∈ w.valid, w.tbase + 64 * sec ≤ 4 * k ∧ 4 * k + 4 ≤ w.tbase + 64 * sec + 64) ∧
      ∀ x, t'.mem.get x = if w.tbase ≤ x ∧ (x - w.tbase) / 64 ∈ w.valid then w.data.get (x - w.tbase) else t.mem.get x)

/-! ## The matrix engine -/

/-- R249, R255, R264 to R267, R272, R275, R276, R550: the matrix instructions at issue. R274: mrd reads the accumulator word that each active
lane's offset names, once no earlier matrix instruction of the team is still to write one of them, or raises cause 0x04 for the lanes whose word
lies outside the claim.
That an uncorrectable word fails an mrd at its issue where the mrd reads it then is the model's reading (log 101). -/
def Obligations.MatrixInstructions : Prop :=
  (∀ (s : State) (g : Group) (t : Team) (pc : W64) (run : BitVec 64) (slots acc : BitVec 8) (gd : Guard), s.UniIssues g t pc run [] [] →
    g.guardTrue gd = true →
    ((t.mat.claimed = false ∧ ∀ q ∈ t.cores, (s.claimedOn t.die q).1 + slots.toNat ≤ 16 ∧ (s.claimedOn t.die q).2 + 16 * acc.toNat ≤ 192) →
      exec (.mclaim slots acc gd) s = (s.setTeam g.team { t with mat :=
        { t.mat with claimed := true, slots := slots.toNat, accKib := 16 * acc.toNat, slotMem := [], accMem := [], scaleMem := [], bad := [] } }).moves
        (g.writeB 0 true) pc 8 run) ∧
    (¬(t.mat.claimed = false ∧ ∀ q ∈ t.cores, (s.claimedOn t.die q).1 + slots.toNat ≤ 16 ∧ (s.claimedOn t.die q).2 + 16 * acc.toNat ≤ 192) →
      exec (.mclaim slots acc gd) s = s.moves (g.writeB 0 false) pc 8 run)) ∧
  (∀ (s : State) (g : Group) (t : Team) (pc : W64) (run : BitVec 64), s.UniIssues g t pc run [] [] →
    (t.mat.queue = [] → s.mrdPending g.team = false → exec .mfree s = (s.setTeam g.team { t with mat :=
      { t.mat with claimed := false, slots := 0, accKib := 0, slotMem := [], accMem := [], scaleMem := [], bad := [] } }).moves g pc 4 run) ∧
    (t.mat.queue ≠ [] ∨ s.mrdPending g.team = true → exec .mfree s = .next { s with stalled := true })) ∧
  (∀ (s : State) (g : Group) (t : Team) (pc : W64) (run : BitVec 64) (n : BitVec 2) (a b : BitVec 7) (gd : Guard),
    s.UniIssues g t pc run [a.toNat, b.toNat] [] → g.guardTrue gd = true →
    let x := (g.readS b.toNat ++ g.readS a.toNat : BitVec 128)
    (descOk x.toNat t.ncores = true →
      exec (.mdesc n a b gd) s = (s.setTeam g.team { t with mat := { t.mat with descs := t.mat.descs.set n.toNat x } }).moves g pc 8 run) ∧
    (descOk x.toNat t.ncores = false → exec (.mdesc n a b gd) s = s.traps (.mdesc n a b gd) 8 g pc run 0x02 [])) ∧
  (∀ (s : State) (g : Group) (t : Team) (pc : W64) (run : BitVec 64) (steps : BitVec 9) (gd : Guard), s.UniIssues g t pc run [] [] →
    g.guardTrue gd = true → exec (.mlease steps gd) s =
      (s.setTeam g.team { t with mat := { t.mat with lease := if steps = 0 then 16 else steps.toNat } }).moves g pc 8 run) ∧
  (∀ (s : State) (i : Instr) (g : Group) (t : Team) (pc : W64) (run : BitVec 64) (gd : Guard) (len : Nat) (reads : List Nat) (uops : Group → List W64),
    matForm i = some (gd, len, reads, uops) → s.UniIssues g t pc run reads [] →
    (g.guardTrue gd = false → exec i s = s.moves g pc len run) ∧
    (∀ c, g.guardTrue gd = true → matDesc i t.mat = .error c → exec i s = s.traps i len g pc run c []) ∧
    (∀ d c, g.guardTrue gd = true → matDesc i t.mat = .ok d → s.matCheck g t i (uops g) d = some c → exec i s = s.traps i len g pc run c []) ∧
    (∀ d o, g.guardTrue gd = true → matDesc i t.mat = .ok d → s.matCheck g t i (uops g) d = none → matOp i (uops g) d = some o →
      g.tls < 255 → g.acquiring = false → g.overlaps (o.bytes.flatMap t.spread) = false →
      ∃ x : MatItem, x.id = s.nextId ∧ x.gid = s.focus ∧ x.instr = i ∧ x.op = o ∧ x.pc = pc ∧ x.run = run ∧ x.uops = uops g ∧ x.landed = 0 ∧
        x.stopped = false ∧
        exec i s = .next (((({ s with nextId := s.nextId + 1 } : State).setGroup s.focus { (g.place run [(pc + BitVec.ofNat 64 len, run)]) with
          tls := g.tls + 1 }).setTeam g.team { t with mat := { t.mat with queue := t.mat.queue ++ [x] } }).pushMatrix g.team))) ∧
  (∀ x n : Nat, bits x 63 33 ≠ 0 ∨ bits x 79 77 ≠ 0 ∨ bits x 95 93 ≠ 0 ∨ 23 < bits x 24 20 → descOk x n = false) ∧
  (∀ (s : State) (g : Group) (t : Team) (pc : W64) (run : BitVec 64) (d a : BitVec 7) (acc : BitVec 8) (gd : Guard),
    s.Issues g t pc run → d.toNat < g.lbud → a.toNat < g.lbud → g.badWords (g.active run gd) [a.toNat] = false →
    g.blocked [a.toNat, d.toNat] = false →
    let word := fun l => 1024 * acc.toNat + 4 * (g.readV l a.toNat).toNat
    ((∃ l ∈ lanesOf (g.active run gd), 1024 * t.mat.accKib < word l + 4) →
      exec (.mrd d a acc gd) s = s.traps (.mrd d a acc gd) 8 g pc run 0x04
        (((lanesOf (g.active run gd)).filter fun l => decide (1024 * t.mat.accKib < word l + 4)).map fun l => (l, laneRec 0x04 (word l)))) ∧
    ((∀ l ∈ lanesOf (g.active run gd), word l + 4 ≤ 1024 * t.mat.accKib) → g.lds < 255 →
      let earlier := ∃ x ∈ t.mat.queue, x.id < s.nextId ∧ ∃ l ∈ lanesOf (g.active run gd),
        (x.op.accWrites t.ncores).1 < word l + 4 ∧ word l < (x.op.accWrites t.ncores).1 + (x.op.accWrites t.ncores).2
      let broken := ∃ l ∈ lanesOf (g.active run gd), t.mat.isBad 1 (accKey g.pos (word l)) 4 = true
      (earlier → ∃ e : Entry, exec (.mrd d a acc gd) s = .next ((({ s with nextId := s.nextId + 1 } : State).setGroup s.focus
          { (g.place run [(pc + 8, run)]) with entries := g.entries ++ [e], lds := g.lds + 1 }).push (.loadLanding s.focus e.id)) ∧
        e.id = s.nextId ∧ e.instr = .mrd d a acc gd ∧ e.mask = g.active run gd ∧ e.counter = .lds ∧ e.dsts = [d.toNat] ∧
        e.mrdOffs = (lanesOf (g.active run gd)).map fun l => (l, word l)) ∧
      (¬earlier → broken → exec (.mrd d a acc gd) s = (s.countUncorr g.die).traps (.mrd d a acc gd) 8 g pc run 0x0B []) ∧
      (¬earlier → ¬broken →
        ∃ g' : Group, exec (.mrd d a acc gd) s = .next (s.setGroup s.focus (g'.place run [(pc + 8, run)])) ∧
          (∀ l n, n < 256 → g'.readV l n = if l ∈ lanesOf (g.active run gd) ∧ g.live.getLsbD l = true ∧ n = d.toNat
            then BitVec.ofNat 32 (t.mat.accMem.read (accKey g.pos (word l)) 4) else g.readV l n) ∧
          (∀ l n, n < 256 → ¬(l ∈ lanesOf (g.active run gd) ∧ n = d.toNat) → (l * 256 + n ∈ g'.badV ↔ l * 256 + n ∈ g.badV)) ∧
          { g' with v := g.v, badV := g.badV } = g)))

/-- R246, R247, R251, R260, R268 to R271, R273, R276: what steps and transfers of the matrix engine do.
That layer and team addresses are not reduced is the model's reading (log 21), and so is what an mscale leaves
uncorrectable (log 100). -/
def Obligations.MatrixEvents : Prop :=
  (∀ (s : State) (team : Nat) (t : Team) (x : MatItem) (g : Group) (acc len : Nat), s.MatHead team t x g → x.op = .mzero acc len →
    s.readFirst team t.ncores x = false → t.mat.accMem.wf = true → 1024 * (acc + len) ≤ 2 ^ 18 →
    ∃ (s' : State) (mat : Matrix), exec (.matrixStep team x.id) s = .next s' ∧ s.MatCompletes team t x g mat s' ∧
      { mat with accMem := t.mat.accMem, bad := t.mat.bad } = t.mat ∧
      ∀ q k, k < 2 ^ 18 → mat.accMem.get (accKey q k) =
        if q < t.ncores ∧ 1024 * acc ≤ k ∧ k < 1024 * (acc + len) then 0 else t.mat.accMem.get (accKey q k)) ∧
  (∀ (s : State) (team : Nat) (t : Team) (x : MatItem) (g : Group) (acc sa sb k : Nat) (d : Desc), s.MatHead team t x g →
    x.op = .mma acc sa sb false d k → s.readFirst team t.ncores x = false → t.mat.accMem.wf = true → t.mat.stepBad d t.ncores acc sa sb k false = false →
    1024 * acc + 4 * (d.mc t.ncores * d.nc t.ncores) ≤ 2 ^ 18 →
    ∃ (s' : State) (mat : Matrix) (f : Flags), exec (.matrixStep team x.id) s = .next s' ∧
      s.MatCompletes team t x { g with flags := g.flags ||| f } mat s' ∧ { mat with accMem := t.mat.accMem } = t.mat ∧
      ∀ q i j, q < t.ncores → i < d.mc t.ncores → j < d.nc t.ncores →
        let key := accKey q (1024 * acc + 4 * (i * d.nc t.ncores + j))
        mat.accMem.read key 4 = (t.mat.element d q sa sb k (d.origin t.ncores q).1 (d.origin t.ncores q).2 i j (t.mat.accMem.read key 4)).1 % 2 ^ 32) ∧
  (∀ (m : Matrix) (d : Desc) (q sa sb k m0 n0 i j c : Nat), Fmt.ofCode d.afmt = .int 8 false → Fmt.ofCode d.bfmt = .int 8 false →
    (m.element d q sa sb k m0 n0 i j c).1 = wrapInt (((List.range 64).map fun e =>
      ((m.slotMem.get (slotKey q sa (64 * i) + e)).toInt * (m.slotMem.get (slotKey q sb (64 * j) + e)).toInt)).foldl (fun a b => a + b) (c : Int)) 32) ∧
  (∀ (s s1 : State) (team total n : Nat) (t : Team) (x : MatItem) (g : Group), s.MatHead team t x g →
    let lands := fun f => runUnits f (total - x.landed) x.landed s = (.moved s1, n)
    (∀ slot a st isB sp d, x.op = .mld slot a st isB sp d → total = t.ncores * (if isB then d.nc t.ncores else d.mc t.ncores) →
      lands (fun s k => s.loadRow team t x slot a st isB sp d k) → exec (.matrixTransferLand team x.id) s = .next (s1.matDone team x)) ∧
    (∀ a st acc fmt mode sp d, x.op = .mst a st acc fmt mode sp d → total = d.m * (if t.ncores = 4 then 2 else 1) →
      lands (fun s k => s.storeRow t x a st acc fmt mode sp d k) → exec (.matrixTransferLand team x.id) s = .next (s1.matDone team x)) ∧
    (∀ first a sp, x.op = .mscale first a total sp → lands (fun s k => s.loadScale team t x first a sp k) →
      exec (.matrixTransferLand team x.id) s = .next (s1.matDone team x))) ∧
  (∀ (s : State) (team : Nat) (t : Team) (x : MatItem) (g : Group) (slot base stride k : Nat) (isB : Bool) (d : Desc), s.teams.get? team = some t →
    s.groups.get? x.gid = some g → g.team = team → g.sbuf = [] → t.wins = [] → t.mat.slotMem.wf = true → (∀ w ∈ s.waits, w.owner ≠ .matrix team x.id) →
    0 < d.mc t.ncores → 0 < d.nc t.ncores →
    let per := if isB then d.nc t.ncores else d.mc t.ncores
    let from_ := base + ((if isB then (d.origin t.ncores (k / per)).2 else (d.origin t.ncores (k / per)).1) + k % per) * stride
    let key := slotKey (k / per) slot (64 * (k % per))
    badIn t.bad 4 from_ 64 = false →
    ∃ (s' : State) (mat : Matrix), s.loadRow team t x slot base stride isB .team d k = .moved s' ∧
      (s.setTeam team { t with mat := mat }).sameBut s' ∧ { mat with slotMem := t.mat.slotMem, bad := t.mat.bad } = t.mat ∧
      ∀ a, mat.slotMem.get a = if key ≤ a ∧ a < key + 64 then t.mem.get (from_ + (a - key)) else t.mat.slotMem.get a)

/-! ## Rays and reservoirs -/

/-- R288, R291, R292, R294: the traversal instructions at issue, the completion that writes the blocks, and what each makes of a query.
That a walk goes on when its lane exits is the model's reading (log 74). -/
def Obligations.TraversalQueries : Prop :=
  (∀ (s : State) (g : Group) (t : Team) (pc : W64) (run : BitVec 64) (d a root : BitVec 7) (rmask : BitVec 8) (flags : BitVec 5) (hint : BitVec 2)
      (gd : Guard), s.Issues g t pc run → d.toNat + 8 ≤ g.lbud → a.toNat + 8 ≤ g.lbud → root.toNat < g.ubud →
    let i := Instr.trace d a root rmask flags hint gd
    let act := g.active run gd
    let top := (g.readS root.toNat).toNat
    g.badWords act (vKeys a.toNat 8 ++ [sKey root.toNat]) = false → g.blocked (vKeys a.toNat 8 ++ [sKey root.toNat] ++ vKeys d.toNat 8) = false →
    (top % 128 ≠ 0 → exec i s = s.traps i 8 g pc run 0x03 []) ∧
    (top % 128 = 0 → canonical top = false → exec i s = s.traps i 8 g pc run 0x04 []) ∧
    (top % 128 = 0 → canonical top = true → act = 0 → exec i s = s.moves g pc 8 run) ∧
    (act ≠ 0 → top % 128 = 0 → canonical top = true → g.lds < 255 → g.acquiring = false → g.walksIn act = false →
      .traversalComplete s.focus s.nextId ∉ s.work →
      ∃ (g' : Group) (e : Entry), exec i s = .next (({ s with nextId := s.nextId + 1, work := s.work ++ [.traversalComplete s.focus s.nextId] } : State).setGroup
          s.focus { (g'.place run [(pc + 8, run)]) with entries := g.entries ++ [e], lds := g.lds + 1 }) ∧
        e.id = s.nextId ∧ e.instr = i ∧ e.mask = act ∧ e.counter = .lds ∧ { g' with queries := g.queries } = g ∧
        ∀ l, g'.query l = if l ∈ lanesOf act
          then Query.start ((List.range 8).map fun k => (g.readV l (a.toNat + k)).toNat) flags.toNat rmask.toNat top (g.help.getLsbD l) else g.query l)) ∧
  (∀ (s : State) (i : Instr) (g : Group) (t : Team) (pc : W64) (run : BitVec 64) (d : BitVec 7) (gd : Guard) (k : TravKind),
    (i = .trnext d gd ∧ k = .next) ∨ (i = .traccept d gd ∧ k = .accept) ∨ (i = .trhit d gd ∧ k = .hit) → s.Issues g t pc run →
    d.toNat + 8 ≤ g.lbud → g.blocked (vKeys d.toNat 8) = false →
    let act := g.active run gd
    (act = 0 → exec i s = s.moves g pc 8 run) ∧
    (act ≠ 0 → g.walksIn act = true → exec i s = .next { s with stalled := true }) ∧
    (act ≠ 0 → g.lds < 255 → g.walksIn act = false → k = .hit ∨ g.acquiring = false →
      .traversalComplete s.focus s.nextId ∉ s.work →
      ∃ (g' : Group) (e : Entry), exec i s = .next (({ s with nextId := s.nextId + 1, work := s.work ++ [.traversalComplete s.focus s.nextId] } : State).setGroup
          s.focus { (g'.place run [(pc + 8, run)]) with entries := g.entries ++ [e], lds := g.lds + 1 }) ∧
        e.id = s.nextId ∧ e.instr = i ∧ e.mask = act ∧ e.counter = .lds ∧ { g' with queries := g.queries } = g ∧
        ∀ l, g'.query l = if l ∈ lanesOf act then (g.query l).go k (g.help.getLsbD l) else g.query l)) ∧
  (∀ (s : State) (gid id : Nat) (g : Group) (e : Entry), s.groups.get? gid = some g → s.awake g = true → g.entries.find? (fun e => e.id == id) = some e →
    e.book = false → e.state ≠ .faulted → e.bad = false → (travKind e.instr).isSome = true → (∀ l ∈ lanesOf e.mask, (g.query l).state ≠ .active) →
    (∀ l, e.dreg.getD l 0 + 8 ≤ 256) →
    ∃ g' : Group, exec (.traversalComplete gid id) s = .next (s.setGroup gid g') ∧
      (∀ l k, l ∈ lanesOf (e.mask &&& g.live) → k < 8 → g'.readV l (e.dreg.getD l 0 + k) = BitVec.ofNat 32 ((g.query l).block.getD k 0)) ∧
      (∀ l n, n < 256 → ¬(l ∈ lanesOf (e.mask &&& g.live) ∧ e.dreg.getD l 0 ≤ n ∧ n < e.dreg.getD l 0 + 8) → g'.readV l n = g.readV l n) ∧
      (∀ l n, n < 256 → (l * 256 + n ∈ g'.badV ↔
        l * 256 + n ∈ g.badV ∧ ¬(l ∈ lanesOf (e.mask &&& g.live) ∧ e.dreg.getD l 0 ≤ n ∧ n < e.dreg.getD l 0 + 8))) ∧
      { g' with v := g.v, badV := g.badV } = g.retire e) ∧
  (∀ (ray : List Nat) (flags mask root : Nat),
    (Query.start ray flags mask root true).block = emptyBlock 0 ∧
    (rayVoid ray = true → (Query.start ray flags mask root false).state = .done 0) ∧
    (rayVoid ray = false → (Query.start ray flags mask root false).stack = [.node root 1 none])) ∧
  (∀ (q : Query) (k : TravKind), k ≠ .trace →
    (q.go k true).state = .done 0 ∧ (q.go k true).block = emptyBlock 0 ∧
    (∀ st, q.state = .done st → (q.go k false).block = q.block) ∧
    (∀ h, q.state = .cand → q.cand = some h → q.block = h.block 2 ∧
      (k = .accept → (q.go k false).best = some h ∧ (bit q.flags 4 = true → (q.go k false).block = h.block 1)) ∧
      (k = .next → (q.go k false).best = q.best ∧ (q.go k false).stack = q.stack) ∧
      (k = .hit → (q.go k false).block = match q.best with
        | some b => b.block 1
        | none => emptyBlock 0)))

/-- R298: camray at issue, and the ray blocks that it writes once its descriptor has arrived.
The sign of an exact zero sum is the model's reading (log 19). -/
def Obligations.CameraRays : Prop :=
  (∀ (s : State) (g : Group) (t : Team) (pc : W64) (run : BitVec 64) (d tile desc : BitVec 7) (jit : Bool) (hint : BitVec 2) (gd : Guard),
    s.Issues g t pc run → d.toNat + 8 ≤ g.lbud → tile.toNat < g.ubud → desc.toNat < g.ubud →
    let i := Instr.camray d tile desc jit hint gd
    let act := g.active run gd
    let reads := [sKey tile.toNat, sKey desc.toNat]
    let a := (g.readS desc.toNat).toNat
    g.badWords act (reads ++ (if jit then [drawKey] else [])) = false → g.blocked (reads ++ vKeys d.toNat 8 ++ (if jit then [drawKey] else [])) = false →
    (a % 64 ≠ 0 → exec i s = s.traps i 8 g pc run 0x03 []) ∧
    (a % 64 = 0 → canonical a = false → exec i s = s.traps i 8 g pc run 0x04 []) ∧
    (a % 64 = 0 → canonical a = true → act = 0 → exec i s = s.moves g pc 8 run) ∧
    (act ≠ 0 → a % 64 = 0 → canonical a = true → g.lds < 255 → g.acquiring = false → g.overlaps [(.glob, a, 64)] = false →
      .camrayArrival s.focus s.nextId ∉ s.work →
      ∃ e : Entry, exec i s = .next (({ s with nextId := s.nextId + 1, work := s.work ++ [.camrayArrival s.focus s.nextId] } : State).setGroup s.focus
          { (g.place run [(pc + 8, run)]) with entries := g.entries ++ [e], lds := g.lds + 1 }) ∧
        e.id = s.nextId ∧ e.instr = i ∧ e.mask = act ∧ e.counter = .lds ∧ (drawKey ∈ e.dsts ↔ jit = true))) ∧
  (∀ (s s1 : State) (gid id : Nat) (g : Group) (e : Entry) (d tile desc : BitVec 7) (hint : BitVec 2) (gd : Guard) (l : List (Req × List Byte)),
    s.groups.get? gid = some g → s.awake g = true → g.entries.find? (fun e => e.id == id) = some e → e.book = false → e.state ≠ .faulted →
    e.bad = false → e.instr = .camray d tile desc false hint gd → (∀ l, e.dreg.getD l 0 + 8 ≤ 256) →
    s.readAll g (.entry gid e.id) .read (piecesOf ((lanesOf e.mask).headD 0) (e.uops.getD 2 0).toNat 64) = .ok s1 l → s1.groups.get? gid = some g →
    let x := ofBytes (l.flatMap fun r => r.2)
    fieldAt x 0x3C 4 = 0 →
    let word := (e.uops.getD 1 0).toNat
    ∃ g' : Group, exec (.camrayDescriptorArrival gid id) s = .next (s1.setGroup gid g') ∧
      (∀ l k, l ∈ lanesOf (e.mask &&& g.live) → k < 8 → g'.readV l (e.dreg.getD l 0 + k) = BitVec.ofNat 32
        ((camBlock x (bits word 15 0 + g.laneNumber l % 8) (bits word 31 16 + g.laneNumber l / 8) (2 ^ 31) (2 ^ 31)).1.getD k 0)) ∧
      (∀ l n, n < 256 → ¬(l ∈ lanesOf (e.mask &&& g.live) ∧ e.dreg.getD l 0 ≤ n ∧ n < e.dreg.getD l 0 + 8) → g'.readV l n = g.readV l n) ∧
      (∀ l n, n < 256 → (l * 256 + n ∈ g'.badV ↔
        l * 256 + n ∈ g.badV ∧ ¬(l ∈ lanesOf (e.mask &&& g.live) ∧ e.dreg.getD l 0 ≤ n ∧ n < e.dreg.getD l 0 + 8))) ∧
      { g' with v := g.v, badV := g.badV, flags := g.flags } = g.retire e)

/-- R301 to R305: what the reservoir instructions write, and that they do nothing else.
That a weight of +0 or -0 is not accepted whatever the sum's sign is the model's reading (log 86), and
so are the flag of a clamped COUNT (log 97) and a draw of 0 against an infinity (log 102). -/
def Obligations.Reservoirs : Prop :=
  (∀ (w : BitVec 3) (a b c : BitVec 7) (gd : Guard), WritesRes (.resup w a b c gd) gd [(a.toNat, 3), (b.toNat, 1), (c.toNat, 1)] [(w.toNat, [0, 1])] true
    w.toNat (fun g l d =>
      let r := (Res.of (g.readW l w.toNat)).update d (g.readV l b.toNat).toNat (g.readWide l a.toNat 3) (g.readV l c.toNat).toNat
      (r.1.word, r.2))
    fun g l d => if unusable (f32.decode (g.readV l b.toNat).toNat) then [] else (Res.of (g.readW l w.toNat)).writes d (g.readV l b.toNat).toNat) ∧
  (∀ (wd wa : BitVec 3) (c : BitVec 7) (gd : Guard), WritesRes (.resmg wd wa c gd) gd [(c.toNat, 1)]
    [(wa.toNat, [0, 1, 2, 3, 4, 5]), (wd.toNat, [0, 1])] true wd.toNat (fun g l d =>
      let r := (Res.of (g.readW l wd.toNat)).merge (Res.of (g.readW l wa.toNat)) d (g.readV l c.toNat).toNat
      (r.1.word, r.2))
    fun g l d => if unusable (f32.decode (g.readV l c.toNat).toNat) then []
      else (Res.of (g.readW l wd.toNat)).writes d (mergeWeight (Res.of (g.readW l wa.toNat)) (g.readV l c.toNat).toNat).1) ∧
  (∀ (w : BitVec 3) (a : BitVec 7) (field : BitVec 3) (gd : Guard), WritesRes (.resset w a field gd) gd [(a.toNat, (resField field).1)] [] false w.toNat
    (fun g l _ =>
      let m : BitVec 192 := BitVec.ofNat 192 (2 ^ (32 * (resField field).1) - 1) <<< (resField field).2
      ((g.readW l w.toNat &&& ~~~m) ||| (BitVec.ofNat 192 (g.readWide l a.toNat (resField field).1) <<< (resField field).2), 0))
    fun _ _ _ => fieldWords field) ∧
  (∀ (w : BitVec 3) (gd : Guard), WritesRes (.resclr w gd) gd [] [] false w.toNat (fun _ _ _ => (0, 0)) fun _ _ _ => List.range 6) ∧
  (∀ (s : State) (g : Group) (t : Team) (pc : W64) (run : BitVec 64) (d : BitVec 7) (w : BitVec 3) (cap : BitVec 16) (gd : Guard), s.Issues g t pc run →
    g.ResReady (g.active run gd) [] [(d.toNat, 1)] [(w.toNat, [0, 1, 2])] [w.toNat] false →
    let on := lanesOf (g.active run gd)
    let r := fun l => (Res.of (g.readW l w.toNat)).capped cap.toNat
    ∃ g' : Group, exec (.resfin d w cap gd) s = .next (s.setGroup s.focus (g'.place run [(pc + 8, run)])) ∧
      (∀ l n, n < 8 → g'.readW l n = if l ∈ on ∧ n = w.toNat then (r l).1.word else g.readW l n) ∧
      (∀ l n, n < 256 → g'.readV l n = if l ∈ on ∧ n = d.toNat then w32 (r l).1.final.1 else g.readV l n) ∧
      g'.flags = (on.map fun l => (r l).2 ||| (r l).1.final.2).foldl (fun a b => a ||| b) g.flags ∧
      (∀ k, k ∈ g'.badW ↔ k ∈ g.badW ∧ ¬(k / 48 ∈ on ∧ k / 6 % 8 = w.toNat ∧ k % 6 < 2 ∧ cap.toNat ≠ 0 ∧
        cap.toNat < (Res.of (g.readW (k / 48) w.toNat)).count)) ∧
      (∀ l n, n < 256 → (l * 256 + n ∈ g'.badV ↔ l * 256 + n ∈ g.badV ∧ ¬(l ∈ on ∧ n = d.toNat))) ∧
      { g' with w := g.w, v := g.v, badW := g.badW, badV := g.badV, flags := g.flags } = g) ∧
  (∀ (s : State) (g : Group) (t : Team) (pc : W64) (run : BitVec 64) (d : BitVec 7) (w field : BitVec 3) (gd : Guard), s.Issues g t pc run →
    g.ResReady (g.active run gd) [] [(d.toNat, (resField field).1)] [(w.toNat, fieldWords field)] [] false → d.toNat + (resField field).1 ≤ 256 →
    ∃ g' : Group, exec (.resget d w field gd) s = .next (s.setGroup s.focus (g'.place run [(pc + 8, run)])) ∧
      (∀ l k, l ∈ lanesOf (g.active run gd) → k < (resField field).1 →
        g'.readV l (d.toNat + k) = (g.readW l w.toNat).extractLsb' ((resField field).2 + 32 * k) 32) ∧
      (∀ l n, n < 256 → ¬(l ∈ lanesOf (g.active run gd) ∧ d.toNat ≤ n ∧ n < d.toNat + (resField field).1) → g'.readV l n = g.readV l n) ∧
      (∀ l n, n < 256 → (l * 256 + n ∈ g'.badV ↔
        l * 256 + n ∈ g.badV ∧ ¬(l ∈ lanesOf (g.active run gd) ∧ d.toNat ≤ n ∧ n < d.toNat + (resField field).1))) ∧
      { g' with v := g.v, badV := g.badV } = g) ∧
  (∀ (r src : Res) (draw w target sample : Nat), unusable (f32.decode w) = true →
    r.update draw w sample target = (r, flagInv) ∧ r.merge src draw w = (r, flagInv)) ∧
  (∀ (r : Res) (draw w target sample : Nat), unusable (f32.decode w) = false →
    (r.update draw w sample target).1.count = min (r.count + 1) 0xFFFFFFFF ∧
    (accepts draw (r.update draw w sample target).1.wsum w = true →
      (r.update draw w sample target).1.sample = sample ∧ (r.update draw w sample target).1.target = target) ∧
    (accepts draw (r.update draw w sample target).1.wsum w = false →
      (r.update draw w sample target).1.sample = r.sample ∧ (r.update draw w sample target).1.target = r.target))

/-! ## The solver sequencer -/

/-- R307, R311, R318, R326 to R331: the solver instructions. Which cause sqstart gives where both ranges fail is the model's
reading (log 103). -/
def Obligations.SolverInstructions : Prop :=
  (∀ (s : State) (g : Group) (t : Team) (pc : W64) (run : BitVec 64) (i : Instr) (tab : BitVec 3) (a : BitVec 7) (hint : BitVec 2) (sp : Space) (gd : Guard),
    (i = .sqtab tab a hint sp gd ∧ s.tabLoading g.team = false) ∨ i = .sqfact tab a hint sp gd → s.UniIssues g t pc run [a.toNat] [] →
    g.guardTrue gd = true →
    let addr := (g.readS a.toNat).toNat % (if sp = .glob then 2 ^ 64 else 2 ^ 32)
    let q : Req := ⟨0, sp, addr, 256⟩
    (addr % 256 ≠ 0 → exec i s = s.traps i 8 g pc run 0x03 [(0, laneRec 0x03 addr)]) ∧
    (∀ c, addr % 256 = 0 → s.rangeCheck g t q = some c → exec i s = s.traps i 8 g pc run c [(0, laneRec c addr)]) ∧
    (addr % 256 = 0 → s.rangeCheck g t q = none → t.placeCheck q false false = false → g.lds < 255 → g.acquiring = false →
      g.overlaps [t.rangeOf q] = false → .loadLanding s.focus s.nextId ∉ s.work →
      ∃ e : Entry, exec i s = .next (({ s with nextId := s.nextId + 1, work := s.work ++ [.loadLanding s.focus s.nextId] } : State).setGroup s.focus
          { (g.place run [(pc + 8, run)]) with entries := g.entries ++ [e], lds := g.lds + 1 }) ∧
        e.id = s.nextId ∧ e.instr = i ∧ e.counter = .lds ∧ e.dsts = [b0Key])) ∧
  (∀ (s : State) (gid tab : Nat) (g : Group) (t : Team) (e : Entry) (coef : Bool) (img : List Byte), s.teams.get? g.team = some t →
    ((t.sol.tabs.get? tab).isSome = false → 8 ≤ s.tabsOnQuad t.quad →
      s.landTable gid g t e tab coef img = s.setGroup gid ((g.writeB 0 false).retire e)) ∧
    ((t.sol.tabs.get? tab).isSome = true ∨ s.tabsOnQuad t.quad < 8 → (if coef then coefOk img else factorsOk img) = true →
      (∀ x ∈ t.sol.samples, x.2.tab ≠ tab) →
      let old := t.sol.tabs.getD tab ⟨none, none⟩
      let new : Tableau := if coef then { old with coef := some img } else { old with factors := some img }
      s.landTable gid g t e tab coef img =
        (s.setTeam g.team { t with sol := { t.sol with tabs := t.sol.tabs.set tab new } }).setGroup gid ((g.writeB 0 true).retire e))) ∧
  (∀ (s : State) (g : Group) (t : Team) (pc : W64) (run : BitVec 64) (d a : BitVec 7) (b : BitVec 2) (tab : BitVec 3) (gd : Guard),
    s.UniIssues g t pc run (d.toNat :: (List.range 6).map fun k => a.toNat + k) [] → g.guardTrue gd = true → s.tabLoading g.team = false →
    let p := fun k => (g.readS (a.toNat + k)).toNat
    let n := (g.readS d.toNat).toNat
    let sm := sampleOf p tab.toNat t.forTile
    let checks := s.sampleChecks (s.fnOf g) t n sm (!(p 1 / 2 ^ 32 == 0) || !(p 5 / 2 ^ 32 == 0))
    let i := Instr.sqstart d a b tab gd
    (∀ c, checks = some c → exec i s = s.traps i 8 g pc run c []) ∧
    (4096 ≤ n ∨ (t.sol.samples.get? n).isSome = true → checks = some 0x04) ∧
    (checks = none → 4096 ≤ s.samplesOnQuad t.quad → exec i s = s.moves (g.writeB b.toNat false) pc 8 run) ∧
    (checks = none → s.samplesOnQuad t.quad < 4096 → numEq (f32.decode sm.t) (f32.decode sm.tend) = true →
      exec i s = ((s.setTeam g.team (t.withSample n sm)).endSample (s.fnOf g) g.team t n sm 4 0).moves (g.writeB b.toNat true) pc 8 run) ∧
    (checks = none → s.samplesOnQuad t.quad < 4096 → numEq (f32.decode sm.t) (f32.decode sm.tend) = false → .seqStageInput g.team n ∉ s.work →
      exec i s = State.moves { (s.setTeam g.team (t.withSample n sm.begin)) with work := s.work ++ [.seqStageInput g.team n] }
        (g.writeB b.toNat true) pc 8 run)) ∧
  (∀ (s : State) (g : Group) (t : Team) (pc : W64) (run : BitVec 64) (d : BitVec 7) (b : BitVec 2) (w : Bool) (gd : Guard),
    s.UniIssues g t pc run [] [d.toNat, d.toNat + 1] → g.guardTrue gd = true →
    let i := Instr.sqstage d b w gd
    (s.tabAhead s.focus g.team = true → exec i s = .next { s with stalled := true }) ∧ (s.tabAhead s.focus g.team = false →
    (∀ n sm, t.readySample = some (n, sm) → t.sol.samples.get? n = some sm → sm.bad = false → s.Quiet g t →
      exec i s = (s.setTeam g.team (t.withSample n { sm with state := .out s.focus })).moves
        (((g.writeS d.toNat (BitVec.ofNat 64 (n + 2 ^ 12 * sm.stage + 2 ^ 32 * sm.time (t.coefOf sm) sm.stage))).writeS (d.toNat + 1)
          (BitVec.ofNat 64 ((if sm.stage = 0 then sm.yaddr else sm.hist) + 2 ^ 32 * (sm.hist + 4 * sm.ne * (1 + sm.stage))))).writeB b.toNat true) pc 8 run) ∧
    (t.readySample = none → w = false ∨ t.sol.samples = [] → exec i s = s.moves (g.writeB b.toNat false) pc 8 run) ∧
    (t.readySample = none → w = true → t.sol.samples ≠ [] → exec i s = .next ((s.setGroup s.focus { g with
      wait := .sqstage d.toNat b.toNat, waitPc := pc + 8, waitRun := run }).push (.sqstageWake s.focus))))) ∧
  (∀ (s : State) (g : Group) (t : Team) (pc : W64) (run : BitVec 64) (a : BitVec 7) (gd : Guard), s.UniIssues g t pc run [a.toNat] [] →
    g.guardTrue gd = true →
    let n := bits (g.readS a.toNat).toNat 11 0
    let i := Instr.sqret a gd
    (s.tabAhead s.focus g.team = true → exec i s = .next { s with stalled := true }) ∧ (s.tabAhead s.focus g.team = false →
    (t.sol.samples.get? n = none → exec i s = s.traps i 8 g pc run 0x0F []) ∧
    (∀ k, s.seqWork g.team n = some k → k.sm.bad = false → k.sm.outAt (bits (g.readS a.toNat).toNat 14 12) = false → exec i s = s.traps i 8 g pc run 0x0F []) ∧
    (∀ k, s.seqWork g.team n = some k → k.sm.bad = false → k.sm.outAt (bits (g.readS a.toNat).toNat 14 12) = true → s.Quiet g t →
      (tabStages k.img ≤ k.sm.stage + 1 → .seqStepEnd g.team n ∉ s.work →
        exec i s = State.moves { (s.setTeam g.team (t.withSample n { k.sm with state := .busyStep })) with work := s.work ++ [.seqStepEnd g.team n] } g pc 8 run) ∧
      (k.sm.stage + 1 < tabStages k.img → .seqStageInput g.team n ∉ s.work →
        exec i s = State.moves { (s.setTeam g.team (t.withSample n { k.sm with state := .busyInput, stage := k.sm.stage + 1 })) with
          work := s.work ++ [.seqStageInput g.team n] } g pc 8 run)))) ∧
  (∀ (s : State) (g : Group) (t : Team) (pc : W64) (run : BitVec 64) (d a : BitVec 7) (gd : Guard), s.UniIssues g t pc run [a.toNat] [d.toNat, d.toNat + 1] →
    g.guardTrue gd = true →
    let n := (g.readS a.toNat).toNat
    let i := Instr.sqstat d a gd
    (s.tabAhead s.focus g.team = true → exec i s = .next { s with stalled := true }) ∧ (s.tabAhead s.focus g.team = false →
    (4096 ≤ n → exec i s = s.traps i 8 g pc run 0x04 []) ∧
    (n < 4096 → t.sol.samples.get? n = none → exec i s = s.moves ((g.writeS d.toNat 0).writeS (d.toNat + 1) 0) pc 8 run) ∧
    (∀ sm, n < 4096 → t.sol.samples.get? n = some sm → sm.bad = false →
      exec i s = s.moves ((g.writeS d.toNat (BitVec.ofNat 64 (sm.state.code + 8 * sm.stage + 2 ^ 32 * sm.t))).writeS (d.toNat + 1)
        (BitVec.ofNat 64 (sm.h + 2 ^ 32 * sm.acc))) pc 8 run))) ∧
  (∀ (s : State) (g : Group) (t : Team) (pc : W64) (run : BitVec 64) (d : BitVec 7) (gd : Guard), s.UniIssues g t pc run [] [d.toNat] →
    g.guardTrue gd = true → exec (.sqdrain d gd) s = .next ((s.setGroup s.focus { g with
      wait := .sqdrain d.toNat, waitPc := pc + 8, waitRun := run }).push (.sqdrainWake s.focus)))

/-- R314 to R317, R320, R328, R331: what the sequencer's events and the two wakes do.
Readings of the model: a NaN in the error norm (log 25), the sign of an exact zero (log 19), and a K whose coefficient is 0 (log 104). -/
def Obligations.SolverEvents : Prop :=
  (∀ (s : State) (team n : Nat) (k : SeqWork), s.Works team n k → k.sm.state = .busyInput →
    (k.sm.stage = 0 → exec (.seqStageInput team n) s = .next (s.setTeam team (k.t.withSample n { k.sm with state := .ready }))) ∧
    (∀ s1, k.sm.stage ≠ 0 → s.formInput (s.ctxFn k.t.ctx) k.t.die k.sm k.img = .ok s1 →
      exec (.seqStageInput team n) s = .next (s1.setSample team n { k.sm with state := .ready }))) ∧
  (∀ (s s1 : State) (team n : Nat) (k : SeqWork) (ynew : List Nat) (e : Machine.Num), s.Works team n k → k.sm.state = .busyStep →
    let fn := s.ctxFn k.t.ctx
    s.formSolution fn k.t.die k.sm k.img = .ok (ynew, e) → s.seqWrite fn k.t.die k.sm.hist ynew = .ok s1 →
    (e.isNan = false → numLt false num1 e = false →
      exec (.seqStepEnd team n) s = .next (s1.acceptStep fn team n k ynew (k.sm.nextStep k.factors (factorIndex e)))) ∧
    (e.isNan = true ∨ numLt false num1 e = true → numLt false (f32.decode k.sm.hmin) (f32.decode k.sm.hs) = true →
      exec (.seqStepEnd team n) s = .next (s1.nextSeqStep team n
        { k.sm with rej := satInc k.sm.rej, h := k.sm.nextStep k.factors (max (factorIndex e) 33) } 0)) ∧
    (e.isNan = true ∨ numLt false num1 e = true → numLt false (f32.decode k.sm.hmin) (f32.decode k.sm.hs) = false →
      exec (.seqStepEnd team n) s = .next (s1.endSample fn team k.t n { k.sm with rej := satInc k.sm.rej } 5 1))) ∧
  (∀ (s s1 : State) (fn team n : Nat) (k : SeqWork) (ynew : List Nat) (hn : Nat), s.seqWrite fn k.t.die k.sm.yaddr ynew = .ok s1 →
    tabFsal k.img = false → k.sm.last = true → numEq (f32.decode k.sm.tend) (f32.decode k.sm.t) = false →
    s.acceptStep fn team n k ynew hn = s1.endSample fn team k.t n { k.sm with t := k.sm.tend, acc := satInc k.sm.acc } 4 0) ∧
  (∀ (s : State) (fn team n : Nat) (t : Team) (sm : Sample) (code reason : Nat), s.teams.get? team = some t → Map.sorted t.sol.samples = true →
    s.layerRange fn t.die sm.hist 32 = none →
    ∃ (s' : State) (t' : Team), s.endSample fn team t n sm code reason = s' ∧ s'.teams.get? team = some t' ∧ t'.sol.samples.get? n = none ∧
      t'.sol.done = (if code = 4 then satInc t.sol.done else t.sol.done) ∧ t'.sol.failed = (if code = 4 then t.sol.failed else satInc t.sol.failed) ∧
      s'.layer = s.layer.write (layerKey t.die sm.hist)
        ([code + 256 * reason, sm.acc, sm.rej, sm.t, sm.h, 0, 0, 0].flatMap fun w => toBytes w 4)) ∧
  (∀ (s : State) (gid d b : Nat) (g : Group) (t : Team), s.groups.get? gid = some g → s.awake g = true → s.teams.get? g.team = some t →
    g.wait = .sqstage d b →
    (∀ n sm, t.readySample = some (n, sm) → t.sol.samples.get? n = some sm → sm.bad = false → s.Quiet g t → ∃ w1 w2, sm.stageWords n (t.coefOf sm) = (w1, w2) ∧
      exec (.sqstageWake gid) s = .next ((s.setTeam g.team (t.withSample n { sm with state := .out gid })).setGroup gid
        (((g.writeS d w1).writeS (d + 1) w2).writeB b true).resume)) ∧
    (t.sol.samples = [] → exec (.sqstageWake gid) s = .next (s.setGroup gid (g.writeB b false).resume))) ∧
  (∀ (s : State) (gid d : Nat) (g : Group) (t : Team), s.groups.get? gid = some g → s.awake g = true → s.teams.get? g.team = some t →
    g.wait = .sqdrain d → t.sol.samples = [] → s.Quiet g t →
    exec (.sqdrainWake gid) s = .next ((s.setTeam g.team { t with sol := { t.sol with done := 0, failed := 0 } }).setGroup gid
      (g.writeS d (BitVec.ofNat 64 (t.sol.done + 2 ^ 32 * t.sol.failed))).resume))

/-! ## Graphs and tasks -/

/-- R421 to R428: the graph instructions at issue.
Readings of the model: logs 23, 28, 33, 38, 41, 43. -/
def Obligations.GraphInstructions : Prop :=
  (∀ (s : State) (g : Group) (t : Team) (pc : W64) (run : BitVec 64) (d a : BitVec 7) (gd : Guard), s.UniIssues g t pc run [a.toNat] [d.toNat] →
    g.guardTrue gd = true →
    let i := Instr.pbind d a gd
    let addr := (g.readS a.toNat).toNat
    (addr % 64 ≠ 0 → exec i s = s.traps i 8 g pc run 0x03 []) ∧
    (addr % 64 = 0 → canonical addr = false → exec i s = s.traps i 8 g pc run 0x04 []) ∧
    (addr % 64 = 0 → canonical addr = true → g.unsettled = false → .loadLanding s.focus s.nextId ∉ s.work →
      ∃ e : Entry, exec i s = .next (({ s with nextId := s.nextId + 1, work := s.work ++ [.loadLanding s.focus s.nextId] } : State).setGroup s.focus
          { (g.place run [(pc + 8, run)]) with entries := g.entries ++ [e] }) ∧
        e.id = s.nextId ∧ e.instr = i ∧ e.counter = .none ∧ e.dsts = [sKey d.toNat])) ∧
  (∀ (s : State) (g : Group) (t : Team) (pc : W64) (run : BitVec 64) (d a b : BitVec 7) (gd : Guard), s.UniIssues g t pc run [a.toNat, b.toNat] [d.toNat] →
    g.guardTrue gd = true →
    let i := Instr.prun d a b gd
    let arg := g.readS b.toNat
    (s.bookOf (s.fnOf g) g.ctx (g.readS a.toNat) = none → exec i s = s.traps i 8 g pc run 0x04 []) ∧
    (∀ k pb, s.bookOf (s.fnOf g) g.ctx (g.readS a.toNat) = some (k, pb) → pb.running = false →
      exec i s = (s.startRun k pb arg).moves (g.writeS d.toNat (BitVec.ofNat 64 (pb.runs + 1))) pc 8 run ∧
      ∃ pb', (s.startRun k pb arg).books.get? k = some pb' ∧ pb'.running = true ∧ pb'.runs = pb.runs + 1 ∧ pb'.arg = arg ∧ pb'.retired = 0 ∧ pb'.copies = 0) ∧
    (∀ k pb, s.bookOf (s.fnOf g) g.ctx (g.readS a.toNat) = some (k, pb) → pb.running = true → s.runOver pb = false →
      exec i s = .next ((s.setGroup s.focus { g with wait := .prun d.toNat k arg, waitPc := pc + 8, waitRun := run }).push (.prunStart s.focus)))) ∧
  (∀ (s : State) (g : Group) (t : Team) (pc : W64) (run : BitVec 64) (d a : BitVec 7) (gd : Guard), s.UniIssues g t pc run [a.toNat] [d.toNat] →
    g.guardTrue gd = true →
    let i := Instr.pwait d a gd
    (s.bookOf (s.fnOf g) g.ctx (g.readS a.toNat) = none → exec i s = s.traps i 8 g pc run 0x04 []) ∧
    (∀ k pb, s.bookOf (s.fnOf g) g.ctx (g.readS a.toNat) = some (k, pb) → pb.running = false → s.Quiet g t →
      exec i s = s.moves (g.writeS d.toNat (BitVec.ofNat 64 pb.retired)) pc 8 run) ∧
    (∀ k pb, s.bookOf (s.fnOf g) g.ctx (g.readS a.toNat) = some (k, pb) → pb.running = true → s.runOver pb = false →
      exec i s = .next ((s.setGroup s.focus { g with wait := .pwait d.toNat k, waitPc := pc + 8, waitRun := run }).push (.pwaitWake s.focus)))) ∧
  (∀ (s : State) (g : Group) (t : Team) (pc : W64) (run : BitVec 64) (a : BitVec 7) (gd : Guard), s.UniIssues g t pc run [a.toNat] [] →
    g.guardTrue gd = true →
    let i := Instr.pdrop a gd
    (s.bookOf (s.fnOf g) g.ctx (g.readS a.toNat) = none → exec i s = s.moves g pc 8 run) ∧
    (∀ k pb, s.bookOf (s.fnOf g) g.ctx (g.readS a.toNat) = some (k, pb) → pb.running = false →
      exec i s = (s.unbind k).moves g pc 8 run ∧ (s.unbind k).books = s.books.erase k) ∧
    (∀ k pb, s.bookOf (s.fnOf g) g.ctx (g.readS a.toNat) = some (k, pb) → pb.running = true → s.runOver pb = false →
      exec i s = .next ((s.setGroup s.focus { g with wait := .pdrop k, waitPc := pc + 8, waitRun := run }).push (.pdropUnbind s.focus)))) ∧
  (∀ (s : State) (g : Group) (t : Team) (pc : W64) (run : BitVec 64) (d a : BitVec 7) (mode : Bool) (entry : BitVec 4) (gd : Guard),
    s.UniIssues g t pc run (if mode then [] else [a.toNat]) [d.toNat, d.toNat + 1] → g.guardTrue gd = true →
    let i := Instr.taddr d a mode entry gd
    let found := if mode then s.taddrTask t entry.toNat else s.taddrTile t (g.readS a.toNat).toNat
    (found = none → exec i s = s.traps i 8 g pc run 0x04 []) ∧
    (∀ x sp, found = some (x, sp) →
      exec i s = s.moves ((g.writeS d.toNat (BitVec.ofNat 64 x)).writeS (d.toNat + 1) (BitVec.ofNat 64 sp)) pc 8 run)) ∧
  (∀ (s : State) (g : Group) (t : Team) (pc : W64) (run : BitVec 64) (d a : BitVec 7) (gd : Guard), s.UniIssues g t pc run [a.toNat] [d.toNat] →
    g.guardTrue gd = true →
    let gives := fun (kind : BitVec 4) (x : Nat) => exec (.gquery d a kind gd) s = s.moves (g.writeS d.toNat (BitVec.ofNat 64 x)) pc 8 run
    let bk := s.bookOf (s.fnOf g) g.ctx (g.readS a.toNat)
    gives 0 (65536 - s.cuesUsed g.die) ∧ (bk = none → gives 1 0 ∧ gives 2 0) ∧
    (∀ k pb, bk = some (k, pb) → gives 1 (if pb.running = true ∧ s.runOver pb = false then 2 else 1) ∧ gives 2 pb.copies)) ∧
  (∀ (s : State) (g : Group) (t : Team) (pc : W64) (run : BitVec 64) (d : BitVec 7), s.UniIssues g t pc run [] [d.toNat] →
    (t.origin = .grid → exec (.tilecur d) s = s.moves (g.writeS d.toNat 0) pc 4 run) ∧
    (∀ id, t.origin = .task id → exec (.tilecur d) s = s.moves (g.writeS d.toNat (BitVec.ofNat 64 (2 ^ 63 + id % 2 ^ 63))) pc 4 run) ∧
    (∀ b0 p0 first dup b pb p tiles x, t.origin = .tile b0 p0 first dup → s.tileOf t = some (b, pb, p, tiles) → pb.passes[p]? = some x →
      exec (.tilecur d) s = s.moves (g.writeS d.toNat (BitVec.ofNat 64
        (2 ^ 41 * tiles.length + (if dup then 2 ^ 40 else 0) + 2 ^ 32 * p + 2 ^ 16 * (first / x.gx) + first % x.gx))) pc 4 run) ∧
    (∀ id x, s.taskOf t = some (id, x) → exec (.tinfo d) s = s.moves (g.writeS d.toNat x.arg) pc 4 run) ∧
    (∀ gr b p arg, s.taskOf t = none → s.grids.get? t.grid = some gr → gr.pass = some (b, p, arg) →
      exec (.tinfo d) s = s.moves (g.writeS d.toNat arg) pc 4 run) ∧
    (∀ gr, s.taskOf t = none → s.grids.get? t.grid = some gr → gr.pass = none → exec (.tinfo d) s = s.moves (g.writeS d.toNat 0) pc 4 run)) ∧
  (∀ (s : State) (g : Group) (t : Team) (pc : W64) (run : BitVec 64), s.UniIssues g t pc run [] [] →
    (t.origin = .grid ∨ t.retireAsked = true ∨ t.retired = true → exec .tileret s = s.moves g pc 4 run) ∧
    (∀ a, t.origin.retireAct g.team = some a → t.retireAsked = false → t.retired = false → g.unsettled = false → a ∉ s.work →
      exec .tileret s = State.moves { (s.setTeam g.team { t with retireAsked := true }) with work := s.work ++ [a] } g pc 4 run))

/-- R429 to R432, R436, R437: spawn, twait and steal at issue, and the registration of a task.
Readings of the model: logs 39 to 41, 43. -/
def Obligations.TaskInstructions : Prop :=
  (∀ (s : State) (g : Group) (t : Team) (pc : W64) (run : BitVec 64) (d a : BitVec 7) (team : Bool), s.UniIssues g t pc run [a.toNat] [d.toNat] →
    let i := Instr.spawn d a team
    let addr := spawnAddr team (g.readS a.toNat)
    let qs := spawnReqs team addr
    (addr % 64 ≠ 0 → exec i s = s.traps i 4 g pc run 0x03 []) ∧
    (addr % 64 = 0 → ∀ c, firstOf (s.rangeCheck g t) qs = some c → exec i s = s.traps i 4 g pc run c []) ∧
    (addr % 64 = 0 → firstOf (s.rangeCheck g t) qs = none → (∀ q ∈ qs, t.placeCheck q false false = false) → g.unsettled = false →
      .loadLanding s.focus s.nextId ∉ s.work →
      ∃ e : Entry, exec i s = .next (({ s with nextId := s.nextId + 1, work := s.work ++ [.loadLanding s.focus s.nextId] } : State).setGroup s.focus
          { (g.place run [(pc + 4, run)]) with entries := g.entries ++ [e] }) ∧
        e.id = s.nextId ∧ e.instr = i ∧ e.counter = .none ∧ e.dsts = [sKey d.toNat])) ∧
  (∀ (g : Grid) (r : TaskRec) (place : TaskPlace) (team : Nat), r.writes.Nodup →
    (g.register r place team).2 = g.nextTask + 1 ∧ (g.register r place team).1.nextTask = g.nextTask + 1 ∧
    ∃ x, (g.register r place team).1.tasks.get? (g.nextTask + 1) = some x ∧ x.place = place ∧ x.arg = r.arg ∧ x.image = r.image ∧
      x.reads = r.reads.map (fun t => (t, (g.tileEntry r t).ver)) ∧ x.writes = r.writes.map (fun t => (t, (g.tileEntry r t).ver + 1)) ∧
      ∀ t ∈ r.writes, ∃ e, (g.register r place team).1.tiles.get? t = some e ∧ e.ver = (g.tileEntry r t).ver + 1) ∧
  (∀ (s : State) (g : Group) (t : Team) (gr : Grid) (pc : W64) (run : BitVec 64) (a : BitVec 7), s.UniIssues g t pc run [a.toNat] [] →
    s.grids.get? g.grid = some gr →
    let id := (g.readS a.toNat).toNat
    let ended := if id = 0 then g.spawned.all gr.retiredTask else gr.retiredTask id
    (gr.nextTask < id ∨ t.origin = .task id → exec (.twait a) s = s.traps (.twait a) 4 g pc run 0x04 []) ∧
    (id ≤ gr.nextTask → t.origin ≠ .task id → ended = false →
      exec (.twait a) s = .next ((s.setGroup s.focus { g with
        wait := .twait id, waitPc := pc + 4, waitRun := run, stage := none }).push (.twaitWake s.focus))) ∧
    (id ≤ gr.nextTask → t.origin ≠ .task id → ended = true → s.Quiet g t → exec (.twait a) s = s.moves g pc 4 run)) ∧
  (∀ (s : State) (g : Group) (t : Team) (pc : W64) (run : BitVec 64) (d a : BitVec 7), s.UniIssues g t pc run [a.toNat] [d.toNat] →
    let i := Instr.steal d a
    let v := (g.readS a.toNat).toNat
    let own := g.die * 48 + g.core
    let box := s.mailboxes.getD v []
    (191 < v ∨ v = own → exec i s = s.traps i 4 g pc run 0x04 []) ∧
    (v ≤ 191 → v ≠ own → s.inPartition (s.fnOf g) (v / 4) = false → exec i s = s.traps i 4 g pc run 0x07 []) ∧
    (v ≤ 191 → v ≠ own → s.inPartition (s.fnOf g) (v / 4) = true → s.reach g.die (v / 48) = false →
      exec i s = .next { s with stalled := true }) ∧
    (v ≤ 191 → v ≠ own → s.inPartition (s.fnOf g) (v / 4) = true → s.reach g.die (v / 48) = true → box.length < 4 →
      exec i s = State.moves { s with mailboxes := s.mailboxes.set v (box ++ [own]) } (g.writeS d.toNat 0) pc 4 run) ∧
    (v ≤ 191 → v ≠ own → s.inPartition (s.fnOf g) (v / 4) = true → s.reach g.die (v / 48) = true → 4 ≤ box.length → exec i s = s.moves (g.writeS d.toNat 1) pc 4 run))

/-- R417, R418, R422 to R424, R512: what the cue board's events, the wakes of prun, pwait and pdrop, and the end of a grid do.
Readings of the model: logs 42, 72, 81, 87. -/
def Obligations.GraphEvents : Prop :=
  (∀ (s s1 : State) (team : Nat) (t : Team), s.teams.get? team = some t → t.retired = false → t.retireAsked = true ∨ t.state = .ended →
    (s.tileOf t).isSome = true → s.teamHeld team t = false → s.retireHeld t = false → (s.tileOf t).bind (fun x => s.cueFault x.1 t.die) = none →
    s.releaseTeam team = (s1, true) → s1.teams.get? team = some t → exec (.tileRetire team) s = .next (s1.retireTile team t)) ∧
  (∀ (s : State) (team b p n first : Nat) (t : Team) (pb : Playbill) (dup : Bool) (tiles : List Nat) (b0 : Nat), t.origin = .tile b0 n first dup →
    s.tileOf t = some (b, pb, p, tiles) → t.state ≠ .ended →
    ∃ pb', (s.retireTile team t).books.get? b = some pb' ∧ pb'.retired = pb.retired + (if dup then 0 else tiles.length) ∧
      (s.retireTile team t).teams.get? team = some { t with retired := true }) ∧
  (∀ (s : State) (die book res tile : Nat) (pb : Playbill) (m : Msg) (before later : List Msg), s.books.get? book = some pb →
    s.cueFault book die = none → s.arrived = before ++ m :: later → m.dst = die → m.body = .cueMessage die book res tile →
    (∀ x ∈ before, x.dst = die → x.body ≠ m.body ∧ ¬(x.src = m.src ∧ x.chan = m.chan)) →
    ∃ s' pb', exec (.cueMessageReceive die book res tile) s = .next s' ∧ s'.books = s.books.set book pb' ∧ s'.arrived = before ++ later ∧
      ∀ c ∈ pb'.cues, c.die = die → c.key = (true, res, tile) → c.state = .done ∨ c.state = .free) ∧
  (∀ (s : State) (team b p b0 n first : Nat) (t : Team) (pb : Playbill) (dup : Bool) (tiles : List Nat), s.teams.get? team = some t →
    t.origin = .tile b0 n first dup → s.tileOf t = some (b, pb, p, tiles) →
    (∀ c ∈ pb.cues.filter (isOwnCue t.die p tiles), c.state = .ready ∧ c.granted = false) → s.cueFault b t.die = none →
    pb.rings? p = [] ∨ (∀ c ∈ pb.cues, c.far = false → c.die = t.die → c.pass = p → c.tile < first → c.granted = true) →
    (∀ k ∈ pb.leaving t.die, k ∉ pb.keysOf t.die p first) → (∀ m ∈ pb.rings? p, ∀ j ∈ tiles, pb.occupants t.die p m j = []) →
    exec (.ringSlotGrant team) s = .next ((s.setBook b (pb.mapCues (isOwnCue t.die p tiles) fun c => { c with granted := true })).enqueueTeam t.die team)) ∧
  (∀ (s s1 : State) (book res die tile p off : Nat) (pb : Playbill) (x : Ctx), s.books.get? book = some pb → writerOf pb.passes res = some p →
    pb.slotOf die res tile = some off → s.ctxs.get? pb.ctx = some x → (resAt pb.resources res).overflow = true →
    (∃ j ∈ pb.nextGrant die p, ∃ c ∈ pb.occupants die p res j, c.tile = tile ∧ c.state = .done) → pb.readStarted die p tile = false → s.ctxAwake pb.ctx = true →
    s.poisoned (.layer die off) (resAt pb.resources res).tileBytes = false →
    s.frontWrite (.overflow book res tile) die x.fn x.pasid (((resAt pb.resources res).ovfBase + tile * (resAt pb.resources res).tileBytes) % 2 ^ 64)
      (s.bytesAt (.layer die off) (resAt pb.resources res).tileBytes) = .ok s1 () →
    exec (.overflowCopy book res die tile) s =
      .next (s1.setBook book { pb with moved := (res, die, tile) :: pb.moved, copies := pb.copies + 1 })) ∧
  (∀ (s : State) (gid d k : Nat) (arg : W64) (g : Group) (t : Team) (pb : Playbill), s.groups.get? gid = some g → s.awake g = true →
    s.teams.get? g.team = some t → s.books.get? k = some pb →
    (g.wait = .prun d k arg → pb.running = false →
      exec (.prunStart gid) s = .next ((s.startRun k pb arg).setGroup gid (g.writeS d (BitVec.ofNat 64 (pb.runs + 1))).resume)) ∧
    (g.wait = .pwait d k → pb.running = true → s.runOver pb = true → ∃ s', exec (.pwaitWake gid) s = .next s' ∧ .pwaitWake gid ∈ s'.work ∧
      s'.groups.get? gid = some { g with wait := .pwaited d pb.retired } ∧ s'.books.get? k = some { pb with running := false, grids := [] }) ∧
    (∀ n, g.wait = .pwaited d n → s.Quiet g t → exec (.pwaitWake gid) s = .next (s.setGroup gid (g.writeS d (BitVec.ofNat 64 n)).resume)) ∧
    (g.wait = .pdrop k → pb.running = false → exec (.pdropUnbind gid) s = .next ((s.unbind k).setGroup gid g.resume))) ∧
  (∀ (s : State) (grid : Nat) (gr : Grid), s.grids.get? grid = some gr →
    (∀ x, gr.pass = some x → exec (.gridEnd grid) s = .next (s.closeRun x.1)) ∧
    (gr.pass = none → gr.liveTeams = [] → gr.launch.teams ≤ gr.exited ∨ gr.aborted = true → (∀ e ∈ gr.tasks, e.2.place = .retired) →
      (gr.cmd = none → exec (.gridEnd grid) s = .next { s with grids := s.grids.erase grid }) ∧
      (∀ fn tag, gr.cmd = some (fn, tag) → exec (.gridEnd grid) s = .next (({ s with grids := s.grids.erase grid } : State).complete fn tag
        (if gr.aborted then 0x19 else 0) gr.ctx (if gr.aborted then gr.exited else gr.launch.teams)))))

/-- R434, R435, R437, R442, R450: the launch and the retire of a task, the end of a twait, and parking a team out.
Readings of the model: logs 29 to 31, 40. -/
def Obligations.TaskEvents : Prop :=
  (∀ (s s1 : State) (die core grid task : Nat) (g : Grid) (x : Ctx) (tk : Task) (b : List Byte) (lr : LaunchRec) (cores : List Nat) (l : List (Seat × Nat)),
    s.nextRecord die core = some (grid, task) → s.grids.get? grid = some g → s.ctxs.get? g.ctx = some x → g.tasks.get? task = some tk →
    s.headFits die core = false →
    s.recordTeam (frontRead (.launch grid task) x.fn x.pasid) x g grid task tk = .ok s1 (b, lr) →
    let s2 := s1.dropWaits (.launch grid task)
    let t := newTeam g.ctx grid (task % 2 ^ 40) (.task task) die lr.image
    s2.findCores s2.nextId t lr.mpn ((coreSets t.ncores).filter fun c => c.contains core) = some (cores, l) →
    let s3 := ({ s2 with nextId := s2.nextId + 1 } : State).takeRecord g.ctx grid task
    let s4 : State := { s3 with grids := s3.grids.modify grid fun y => { y with
      liveTeams := y.liveTeams ++ [s2.nextId]
      tasks := y.tasks.modify task fun z => { z with
        team := s2.nextId, record := b, image := leField b 0 8, arg := BitVec.ofNat 64 (leField b 8 8) } } }
    exec (.taskLaunch die core) s =
      .next ((s4.startTeam s2.nextId t { lr with seed := g.launch.seed } cores l).push (.taskLaunch die core))) ∧
  (∀ (s s1 : State) (team id : Nat) (t : Team), s.teams.get? team = some t → t.origin = .task id → t.retired = false →
    t.retireAsked = true ∨ t.state = .ended → s.teamHeld team t = false → s.retireHeld t = false → s.releaseTeam team = (s1, true) →
    s1.teams.get? team = some t → exec (.taskRetire team) s = .next (s1.retireTask team t id)) ∧
  (∀ (s : State) (team id : Nat) (t : Team) (gr : Grid) (x : Task), t.state ≠ .ended → s.grids.get? t.grid = some gr → gr.tasks.get? id = some x →
    ∃ gr' x', (s.retireTask team t id).grids.get? t.grid = some gr' ∧ gr'.tasks.get? id = some x' ∧ x'.place = .retired ∧ x'.writes = x.writes) ∧
  (∀ (s : State) (gid id : Nat) (g : Group) (t : Team), s.groups.get? gid = some g → s.awake g = true → s.teams.get? g.team = some t → g.wait = .twait id →
    s.Quiet g t →
    (s.twaitOver g id = true → exec (.twaitWake gid) s = .next (s.setGroup gid g.resume)) ∧
    (s.twaitOver g id = false → exec (.twaitWake gid) s = .next (s.push (.twaitWake gid)))) ∧
  (∀ (s : State) (team : Nat) (t : Team), s.teams.get? team = some t → s.parkable team t = true → s.parkedReady team = false →
    team ∈ s.blockers t.die (s.headRoom t.die) ∨ (∃ c ∈ t.quadCores, team ∈ s.blockers t.die (s.recordRoom t.die c)) →
    (s.savable team = true →
      exec (.teamParkOut team) s = .next (((s.saveTeam team .parkedOut).push (.gangStart t.die)).offerTasks)) ∧
    (s.savable team = false → exec (.teamParkOut team) s = .next (s.push (.parkOut team)))) ∧
  (∀ (s : State) (die : Nat) (fits : State → Bool), s.blockers die fits ≠ [] →
    fits s = false ∧ (∀ k ∈ s.blockers die fits, s.parkedReady k = false ∧ ∃ t, (k, t) ∈ s.teams ∧ t.die = die ∧ s.parkable k t = true) ∧
    fits (s.without (s.blockers die fits)) = true)

/-! ## Waits and scheduling -/

/-- R124, R197, R359, R378, R383, R384, R512: the ends of waits, the last exit of a team, and a repack.
What a REPACK did not carry is free (log 8); a book left at exit becomes free (log 32). -/
def Obligations.WaitEvents : Prop :=
  (∀ (s : State) (gid : Nat) (g : Group) (t : Team), s.groups.get? gid = some g → s.awake g = true → s.teams.get? g.team = some t →
    (∀ l st c tl cr, g.wait = .counters l st c tl cr →
      (g.lds ≤ l ∧ g.sts ≤ st ∧ g.cps ≤ c ∧ g.tls ≤ tl ∧ (∀ n, cr = some n → g.readC n = 0) → exec (.waitRelease gid) s = .next (s.setGroup gid g.resume)) ∧
      (l < g.lds ∨ st < g.sts ∨ c < g.cps ∨ tl < g.tls → exec (.waitRelease gid) s = .next (s.push (.waitRelease gid)))) ∧
    (g.wait = .channel → exec (.channelOperationResume gid) s = .next (s.setGroup gid { g with wait := .none })) ∧
    (∀ m token p, g.wait = .mpwait m token → t.mps.get? m = some p →
      (p.phase ≠ token → s.Quiet g t → exec (.mpwaitWake gid) s = .next (s.setGroup gid g.resume)) ∧
      (p.phase = token → exec (.mpwaitWake gid) s = .next (s.push (.mpwaitWake gid))))) ∧
  (∀ (s : State) (gid : Nat) (g : Group) (t : Team) (gr : Grid), s.groups.get? gid = some g → s.awake g = true → s.teams.get? g.team = some t →
    s.grids.get? t.grid = some gr → g.wait = .exit → g.lds = 0 → g.sts = 0 → g.cps = 0 → g.tls = 0 → s.Quiet g t → t.origin = .grid →
    Map.sorted s.groups = true → Map.sorted s.teams = true → (∀ e ∈ s.groups, e.1 ≠ gid → e.2.team ≠ g.team) →
    ∃ s' gr', exec (.groupExitComplete gid) s = .next s' ∧ s'.groups.get? gid = none ∧ s'.teams.get? g.team = none ∧
      s'.grids.get? t.grid = some gr' ∧ gr'.exited = gr.exited + 1 ∧ gr'.liveTeams = gr.liveTeams.filter (fun k => !(k == g.team)) ∧
      .gridEnd t.grid ∈ s'.work) ∧
  (∀ (s : State) (gid d : Nat) (g : Group) (t : Team) (pc : W64) (long : Bool), s.groups.get? gid = some g → s.awake g = true →
    Map.sorted s.groups = true → s.teams.get? g.team = some t → g.table = [] → g.arrived = false → g.lds = 0 → s.Quiet g t → g.parked ≠ [] →
    s.groups.filter (fun e => e.2.team == g.team && e.2.role == g.role && e.2.num / 4 == g.num / 4 && !(e.2.wait == .exit)) = [(gid, g)] →
    (∀ p ∈ g.parked, p.pc = pc ∧ p.long = long ∧ p.d = d ∧ p.key = none ∧ p.lane < 64) →
    g.parked.Pairwise (fun a b => a.lane < b.lane) → g.parked.length ≤ g.width → g.lbud ≤ 256 →
    let n := g.parked.length
    ∃ s' g', exec (.repackArrive gid) s = .next s' ∧ s'.groups.get? gid = some g' ∧ g'.live = allLanes n ∧
      g'.table = [(pc + (if long then 8 else 4), allLanes n)] ∧ g'.readS d = BitVec.ofNat 64 n ∧ g'.parked = [] ∧ g'.wait = .none ∧
      ∀ i (h : i < g.parked.length), ∀ k, k < g.lbud → bit g.carryV k = true → g'.readV i k = g.readV (g.parked[i]).lane k)

/-- R448, R451 to R453, R130: gang start, the stage, and drowsy banks.
Readings of the model: that a bank wakes when a group of it comes onto the stage (log 65), that the group which comes in is `State.wingsReady`, whose times
count steps (logs 1, 77), and logs 30, 35 and 81. -/
def Obligations.SchedulingEvents : Prop :=
  (∀ (s : State) (t : Team), (t.saved = true ∨ t.origin = .grid → s.startAcquire t = (s, s.reach t.die protrum)) ∧
    (t.saved = false → t.origin ≠ .grid → s.syncRecs = [] → s.startAcquire t = (s, true))) ∧
  (∀ (s s0 s1 : State) (die tid : Nat) (t : Team), (s.queueAt die).find? s.eligible = some tid → s.teams.get? tid = some t →
    s.saveWaits die t.ctx (fun k => k == tid) = false → s.saveCause die t.ctx (fun k => k == tid) = none → (s.placeNow tid).isSome = true → s.startAcquire t = (s0, true) → s0.placeNow tid = some s1 →
    let rest := (s1.queueAt die).filter fun k => !(k == tid)
    exec (.gangStart die) s = .next (if rest = [] then s1.setQueueAt die rest else (s1.setQueueAt die rest).push (.gangStart die))) ∧
  (∀ (s s1 : State) (tid : Nat), s.placeNow tid = some s1 → ∃ t t', s.teams.get? tid = some t ∧ s1.teams.get? tid = some t' ∧ t'.state = .running ∧
    t'.saved = false ∧ t'.image = t.image ∧ (∃ gr, s1.grids.get? t.grid = some gr ∧ gr.started = true)) ∧
  (∀ (s : State) (gid : Nat) (g : Group), s.groups.get? gid = some g → g.placed = true → g.stage.isSome = true →
    (∀ id, g.wait = .twait id → s.wingsReady g = none → exec (.stageLeave gid) s = .next (s.setGroup gid { g with stage := none })) ∧
    (∀ k h, s.wingsReady g = some k → s.groups.get? k = some h → k ≠ gid →
      ∃ s', s'.groups.get? gid = some { g with stage := none } ∧ s'.groups.get? k = some { h with stage := g.stage, since := s.tick } ∧
        (∀ j, j ≠ gid → j ≠ k → s'.groups.get? j = s.groups.get? j) ∧ { s' with groups := s.groups, drowsy := s.drowsy } = s ∧
        (g.wait.leaves = true ∨ g.replayFull = true → exec (.stageLeave gid) s = .next s') ∧
        (s.issueReady gid = false → exec (.stageIdleTimeout gid) s = .next s') ∧
        exec (.stageTimeslice gid) s = .next s')) ∧
  (∀ (s : State) (gid : Nat) (g : Group), s.groups.get? gid = some g → g.placed = true → g.stage = none → s.issueReady gid = true →
    exec (.stageEnter gid) s = .next ((s.wakeBanks g).setGroup gid { g with stage := s.freeStage g.die g.core g.sub, since := s.tick })) ∧
  (∀ (s : State) (die core sub k : Nat), let f := s.freeStage die core sub
    f = some k → k < 8 ∧ ∀ e ∈ s.groups, e.2.placed = true → e.2.die = die → e.2.core = core → e.2.sub = sub → e.2.stage ≠ some k)

/-! ## Exceptions -/

/-- R463, R465 to R467: taking an exception at the group rung. With HND = 0 and GVEC not 0 the book is written, the table becomes one entry at
GVEC, s[U-1] is the book's address, HND is set, and every other register stays; with HND = 1 or GVEC = 0 the cause goes to the team rung; while
instructions must first complete it stays pending, and the group issues nothing. The header of the book holds what R467 lists. -/
def Obligations.TakingExceptions : Prop :=
  (∀ (s u : State) (gid : Nat) (g : Group) (p : Pend) (c : Ctx) (k : Nat) (places : List Loc), s.EntersHandler u gid g p c k places →
    let s' := u.entered gid g p c k places
    let addr := BitVec.ofNat 64 (c.traps.bookAddr k)
    (s.awake g = true → exec (.trapEntry gid) s = .next s') ∧
    (∀ (s0 : State) (g0 : Group), s0.groups.get? gid = some g0 → g0.wait ≠ .exit → s = s0.setGroup gid { g0 with pend := some p, wait := .none } → s0.raise gid p = s') ∧
    ∃ g', s'.groups.get? gid = some g' ∧ g'.hnd = true ∧ g'.book = k ∧ g'.hcount = 0 ∧ g'.pend = none ∧ g'.readS (g.ubud - 1) = addr ∧
      (∀ n, n ≠ g.ubud - 1 → g'.readS n = g.readS n) ∧ (∀ n, n ∈ g'.badS ↔ n ∈ g.badS ∧ n / 2 ≠ g.ubud - 1) ∧
      (tableOk g.table → g.table ≠ [] → ∃ m, g'.table = [(BitVec.ofNat 64 c.traps.gvec, m)] ∧
        ∀ l, l < 64 → m.getLsbD l = g.table.any fun e => e.2.getLsbD l) ∧
      { g' with hnd := g.hnd, book := g.book, hcount := g.hcount, pend := g.pend, s := g.s, badS := g.badS, table := g.table,
                table1 := g.table1, entries := g.entries } = g) ∧
  (∀ (g : Group) (p : Pend) (k : Nat), (g.table ++ g.table1).length ≤ 64 →
    let m := g.header p k
    m.read 0x00 1 = p.cause % 256 ∧ m.read 0x02 1 = p.code % 256 ∧ m.read 0x04 4 = k % 2 ^ 32 ∧ m.read 0x08 8 = p.pc.toNat ∧
    m.read 0x10 8 = (g.readS (g.ubud - 1)).toNat ∧ m.read 0x18 8 = g.live.toNat ∧ m.read 0x20 8 = (if p.issue then p.run.toNat else 0) ∧
    (∀ n, n < 7 → m.read (0x30 + 8 * n) 8 = (g.predMask (n + 1) &&& allLanes g.width).toNat) ∧ m.read 0x68 1 = g.b.toNat ∧
    ∀ j pc q, (g.table ++ g.table1)[j]? = some (pc, q) → m.read (0x100 + 16 * j) 8 = pc.toNat ∧ m.read (0x108 + 16 * j) 8 = q.toNat) ∧
  (∀ (s : State) (gid : Nat) (g : Group) (p : Pend) (c : Ctx), s.groups.get? gid = some g → g.pend = some p → s.ctxs.get? g.ctx = some c →
    s.groupReady gid = false ∧
    (s.awake g = true → g.hnd = true ∨ c.traps.gvec = 0 → s.unstopped 1 c.fn g.ctx g.team → exec (.trapEntry gid) s =
      .next ((s.setGroup gid { g with pend := none }).stopped ⟨1, p.cause, p.code, c.fn, g.ctx, g.team, p.pc, p.where, false, false, []⟩)) ∧
    (s.awake g = true → g.hnd = false → c.traps.gvec ≠ 0 → g.settling = true → exec (.trapEntry gid) s = .next (s.push (.trapEntry gid))))

/-- R400, R470: tret outside a handler raises 0x07 and with a book that fails the checks 0x02; it waits for the handler's own accesses; with a
book that holds no entry it restores the table, the predicates and s[U-1] from the book, clears HND and frees the book, all else as before.
Readings of the model: logs 45 to 51. -/
def Obligations.TrapReturn : Prop :=
  ∀ (s : State) (g : Group) (t : Team) (c : Ctx) (pc : W64) (run : BitVec 64), s.Issues g t pc run → g.UniReady [] [] →
    s.ctxs.get? g.ctx = some c →
    (g.hnd = false → exec .tret s = s.traps .tret 4 g pc run 0x07 []) ∧
    (g.hnd = true → g.unsettled = true → exec .tret s = .next { s with stalled := true }) ∧
    ∀ (u : State) h l, g.hnd = true → g.unsettled = false → g.pend = none →
      readBook (groupRead (.book s.focus) s.focus) (c.traps.bookAddr g.book) s = .ok u (h, l) → s.sameBut u → (∀ e ∈ g.entries, e.book = false) →
      (g.tableOk (bookTable h) = false ∨ (∃ b ∈ l, b.ok g t none = false) → exec .tret s =
        (u.dropWaits (.book s.focus)).traps .tret 4 g pc run 0x02 []) ∧
      (g.tableOk (bookTable h) = true → (∀ b ∈ l, b.ok g t none = true ∧ b.state = 0) → g.lds ≤ 255 → g.sts ≤ 255 → g.cps ≤ 255 → g.tls ≤ 255 →
        ∃ g', exec .tret s = .next ((({ u.dropWaits (.book s.focus) with nextId := s.nextId + 16 } : State).setGroup s.focus g').setCtx g.ctx
            { c with books := c.books.filter fun k => !(k == g.book) }) ∧
          g'.hnd = false ∧ g'.b = BitVec.ofNat 4 (leField h 0x68 1) ∧
          g'.readS (g.ubud - 1) = BitVec.ofNat 64 (leField h 0x10 8) ∧ (∀ n, n ≠ g.ubud - 1 → g'.readS n = g.readS n) ∧
          (∀ n, n ∈ g'.badS ↔ n ∈ g.badS ∧ n / 2 ≠ g.ubud - 1) ∧
          (∀ n j, n < 7 → j < 64 → (g'.predMask (n + 1)).getLsbD j =
            if (allLanes g.width).getLsbD j then (leField h (0x30 + 8 * n) 8).testBit j else (g.predMask (n + 1)).getLsbD j) ∧
          (g.gang = false → ∀ e ∈ bookTable h, ∀ j, e.2.getLsbD j = true → tablePc g'.table j = some e.1) ∧
          { g' with hnd := g.hnd, book := g.book, hcount := g.hcount, b := g.b, s := g.s, badS := g.badS, p := g.p, table := g.table,
                    table1 := g.table1 } = g)

/-- R460, R462, R473, R513: a handler that takes too long raises 0x0D at the team rung, an unanswered stop 0x0D at the next rung and at the
device rung loses every context; a stop saves its team, takes it from its cores and posts its event record; a record is written whole into the
event queue, its vectors are signalled, and it waits while the queue is full.
Readings of the model: logs 35, 55, 58, 71, 73, 88; the digest is opaque (log 9), and so is what a save writes (log 44). -/
def Obligations.EscalationEvents : Prop :=
  (∀ (s : State) (gid : Nat) (g : Group) (c : Ctx), s.groups.get? gid = some g → s.ctxs.get? g.ctx = some c → g.hnd = true → s.awake g = true →
    c.traps.gtmo ≠ 0 → g.hcount < c.traps.gtmo → s.unstopped 1 c.fn g.ctx g.team → exec (.groupRungTimeout gid) s =
      .next ((s.setGroup gid { g with hcount := c.traps.gtmo }).stopped ⟨1, 0x0D, 0, c.fn, g.ctx, g.team, 0, 0, false, false, []⟩)) ∧
  (∀ (s : State) (k : Nat) (st : Stop), s.stops.get? k = some st → st.delivered = true → s.rungTimeout st ≠ 0 →
    (st.rung < 4 → s.unstopped (st.rung + 1) st.fn st.ctx st.team →
      exec (.upperRungTimeout k) s = .next (s.stopped ⟨st.rung + 1, 0x0D, 0, st.fn, st.ctx, st.team, 0, 0, false, false, []⟩)) ∧
    (4 ≤ st.rung → ∃ s', exec (.upperRungTimeout k) s = .next s' ∧ s'.dead = true ∧ ∀ n c, s'.ctxs.get? n = some c → c.state = .lost)) ∧
  (∀ (s : State) (k : Nat) (st : Stop) (t : Team) (c : Ctx), s.stops.get? k = some st → st.stopped = false → st.rung = 1 →
    s.teams.get? st.team = some t → t.state = .running → s.ctxs.get? st.ctx = some c →
    (s.partiesSavable st = false → exec (.upperRungStop k) s = .next (s.push (.upperRungStop k))) ∧
    (s.partiesSavable st = true → (∀ n ∈ s.groupsOf st.team, ∀ g, s.groups.get? n = some g → g.entries = []) →
      ∃ s' : State, exec (.upperRungStop k) s = .next (s'.sendMsg ⟨t.die, protrum, .mgt, .eventArrive st.fn k (st.record c.pasid t.num)⟩) ∧
        s'.stops.get? k = some { st with stopped := true, held := [] } ∧
        s'.teams.get? st.team = some { t with state := .queued, saved := true, cores := [] } ∧ s'.queueAt t.die = st.team :: s.queueAt t.die ∧
        ∀ n g, s.groups.get? n = some g → ∃ g', s'.groups.get? n = some g' ∧ (g.team ≠ st.team → g' = g) ∧
          (g.team = st.team → g'.placed = false ∧ g'.stage = none))) ∧
  (∀ (s : State) (fn k : Nat) (b : List Byte) (m : Msg) (before later : List Msg), s.arrived = before ++ m :: later → m.body = .eventArrive fn k b →
    (∀ x ∈ before, x.body ≠ m.body ∧ ¬(x.src = m.src ∧ x.dst = m.dst ∧ x.chan = m.chan)) →
    runAct (.eventArrive fn k b) s = .next (({ s with arrived := before ++ later } : State).postEvent fn b (some k))) ∧
  (∀ (s : State) (fn : Nat) (b : List Byte) (stop : Option Nat) (r : List (List Byte × Option Nat)), let q := s.queueOf fn
    q.pending = (b, stop) :: r →
    (q.en = false ∨ q.full = true → exec (.eventRecordWrite fn) s = .next (s.push (.eventRecordWrite fn))) ∧
    (let at_ := q.evtBase + 32 * (q.evtTail % 2 ^ q.evtLog2)
     q.en = true → q.full = false → s.ioWrite fn at_ b = none → exec (.eventRecordWrite fn) s = .next (s.push (.eventRecordWrite fn))) ∧
    (let at_ := q.evtBase + 32 * (q.evtTail % 2 ^ q.evtLog2)
     q.en = true → q.full = false → (s.ioWrite fn at_ b).isSome = true → ∃ s', exec (.eventRecordWrite fn) s = .next s' ∧
      s'.queueOf fn = { q with evtTail := (q.evtTail + 1) % 2 ^ q.evtLog2, pending := r } ∧
      (∀ a, at_ % 4096 + b.length ≤ 4096 → (s.ioAt fn at_).bind s.route = some (.host a) → s'.host = s.host.write a b) ∧
      let one := fun v => if v < 64 then [(fn, v)] else []
      (stop = none → s'.stops = s.stops ∧ s'.msix = s.msix ++ one q.evtVec) ∧
      (∀ k st, stop = some k → s.stops.get? k = some st → s.lostStop st = false →
        s'.stops = s.stops.set k { st with delivered := true } ∧ s'.msix = s.msix ++ one q.evtVec ++ one (s.stopVector st)))) ∧
  (∀ (s s1 : State) (die core fn pasid page gid : Nat) (g : Group) (t : Team) (pc : W64) (run : BitVec 64) (b : List Byte),
    (s.fetchers die core fn pasid page).find? (fun e => s.awake e.2) = some (gid, g) → g.run = some (pc, run) →
    s.readPage (.fetch gid) die core fn pasid page = .ok s1 b → s1.teams.get? g.team = some t →
    (s1.codePage? die core fn pasid page).isNone = true →
    (pageDigest t.image page = some (Config.sm3 b) → ∃ s' direct grants, exec (.codePageFill die core fn pasid page) s = .next s' ∧
      s'.codePages = ⟨die, core, fn, pasid, page, Memory.write [] 0 b, direct, grants⟩ :: s1.codePages ∧
      grants = (if direct then (s.fetchers die core fn pasid page).map (fun e => e.1) else []) ∧
      (direct = true ↔ ∃ w, s.waitFor (.fetch gid) page = some w ∧ w.phase = .untranslated) ∧
      (∀ n x, s1.groups.get? n = some x → s'.groups.get? n = some (if x.wait = .fetch ∧ x.die = die ∧ x.core = core ∧ s1.fnOf x = fn ∧
        s1.pasidOf x = pasid then { x with wait := .none } else x)) ∧
      { s' with codePages := s1.codePages, groups := s1.groups } = s1) ∧
    (pageDigest t.image page ≠ some (Config.sm3 b) → s1.unstopped 2 fn g.ctx g.team → exec (.codePageFill die core fn pasid page) s =
      .next ((s1.stopped ⟨2, 0x08, 0, fn, g.ctx, g.team, pc, BitVec.ofNat 64 (page * 4096), false, false, []⟩).push
        (.codePageFill die core fn pasid page))))

/-! ## Host commands -/

/-- R474 to R476, R509 to R512, R552, R442, R447: CTXNEW makes the lowest free context, CTXEND ends one with everything of it, LAUNCH and SWIN go
on as jobs that switch the context in and queue the grid, SWOUT saves a context, ANSWER resumes or aborts what a stop holds; what is refused
completes with the status that R511 gives it.
Choices and readings of the model: logs 11, 34, 35, 44, 54, 56, 57, 59, 60, 61, 89. -/
def Obligations.ContextCommands : Prop :=
  (∀ (s : State) (fn : Nat) (cmd : Command), s.serving = true →
    (s.ioRead fn cmd.arg0.toNat 64 = .wait → exec (.ctxnew fn cmd) s = .next s) ∧
    (∀ s1, s.ioRead fn cmd.arg0.toNat 64 = .fail s1 → exec (.ctxnew fn cmd) s = .next (s1.complete fn cmd.tag 0x16 cmd.ctx 0)) ∧
    ∀ s1 b, s.ioRead fn cmd.arg0.toNat 64 = .ok s1 b →
      (ctxRecordOf fn b = none → exec (.ctxnew fn cmd) s = .next (s1.complete fn cmd.tag 0x16 cmd.ctx 0)) ∧
      ∀ c, ctxRecordOf fn b = some c →
        (∀ k, 1 ≤ k → k ≤ 1024 → s1.ctxs.get? k = none → (∀ j, 1 ≤ j → j < k → s1.ctxs.get? j ≠ none) → 256 + 4608 * s1.quadCount fn ≤ c.saveSize →
          exec (.ctxnew fn cmd) s = .next ((s1.setCtx k c).complete fn cmd.tag 0 cmd.ctx k)) ∧
        (c.saveSize < 256 + 4608 * s1.quadCount fn ∨ (∀ k, 1 ≤ k → k ≤ 1024 → s1.ctxs.get? k ≠ none) →
          exec (.ctxnew fn cmd) s = .next (s1.complete fn cmd.tag 0x13 cmd.ctx (256 + 4608 * s1.quadCount fn)))) ∧
  (∀ (s : State) (fn : Nat) (cmd : Command) (c : Ctx), s.Commands fn cmd c →
    (c.state ≠ .running → ∃ s1 : State, exec (.ctxend fn cmd) s = .next (s1.complete fn cmd.tag 0 cmd.ctx 0) ∧ s.Freed s1 cmd.ctx ∧ s1.dram = s.dram) ∧
    (c.state = .running →
      exec (.ctxend fn cmd) s = .next ((s.addJob (.ctxend fn cmd.tag cmd.ctx (s.diesOf c.fn))).sendControl s.nextId (s.diesOf c.fn)) ∧
      exec (.swout fn cmd) s = .next ((s.addJob (.swout fn cmd.tag cmd.ctx (s.diesOf c.fn))).sendControl s.nextId (s.diesOf c.fn))) ∧
    (c.state ≠ .lost → exec (.launch fn cmd) s = .next (s.addJob (.launch fn cmd.tag cmd.ctx cmd.arg0.toNat))) ∧
    (c.state = .fresh ∨ c.state = .switchedOut → exec (.swout fn cmd) s = .next (s.complete fn cmd.tag 0 cmd.ctx 0) ∧
      exec (.swin fn cmd) s = .next (s.addJob (.swin fn cmd.tag cmd.ctx))) ∧
    (c.state = .running → exec (.swin fn cmd) s = .next (s.complete fn cmd.tag 0 cmd.ctx 0)) ∧
    (c.state = .lost → ∀ i ∈ [Instr.launch fn cmd, .swout fn cmd, .swin fn cmd], exec i s = .next (s.complete fn cmd.tag 0x12 cmd.ctx 0))) ∧
  (∀ (s : State) (fn : Nat) (cmd : Command), s.serving = true →
    ∀ i ∈ [Instr.ctxend fn cmd, .launch fn cmd, .swout fn cmd, .swin fn cmd],
      (s.ctxs.get? cmd.ctx = none → exec i s = .next (s.complete fn cmd.tag 0x12 cmd.ctx 0)) ∧
      (∀ c, s.ctxs.get? cmd.ctx = some c → fn ≠ 0 → c.fn ≠ fn → exec i s = .next (s.complete fn cmd.tag 0x11 cmd.ctx 0))) ∧
  (∀ (s s1 : State) (k fn tag ctx : Nat) (c : Ctx) (x : List Binding × TrapTable), s.jobs.get? k = some (.swin fn tag ctx) →
    s.ctxs.get? ctx = some c → c.state ≠ .running → s.readTables k c = .ok s1 x → s1.saveWaits protrum ctx (fun _ => true) = false →
    s1.saveCause protrum ctx (fun _ => true) = none →
    ∃ s' : State, runAct (.job k) s = .next s' ∧ s'.ctxs.get? ctx = some { c with state := .running, binds := x.1, traps := x.2 } ∧ .job k ∈ s'.work) ∧
  (∀ (s : State) (k die : Nat) (m : Msg) (before later : List Msg), s.arrived = before ++ m :: later → m.body = .control k die →
    (∀ x ∈ before, x.body ≠ m.body ∧ ¬(x.src = m.src ∧ x.dst = m.dst ∧ x.chan = m.chan)) →
    runAct (.control k die) s = .next { s with arrived := before ++ later, jobs := s.jobs.modify k fun j => j.heard die }) ∧
  (∀ (s : State) (k fn tag ctx : Nat) (dies : List Nat) (c : Ctx) (j : Job), s.jobs.get? k = some j → s.ctxs.get? ctx = some c → c.state = .running →
    (j = .swout fn tag ctx dies ∨ j = .ctxend fn tag ctx dies → s.mayLeave ctx c dies = false → runAct (.job k) s = .next (s.push (.job k))) ∧
    (j = .swout fn tag ctx dies → s.mayLeave ctx c dies = true → s.SavesCleanly (fun t => t.ctx = ctx) →
      ∃ (s1 : State) (c1 : Ctx), runAct (.job k) s = .next (s1.endJob k fn tag 0 ctx 0) ∧
        s1.ctxs.get? ctx = some c1 ∧ c1.state = .switchedOut ∧ s1.layer = s.layer ∧ (s.dram.wf = true → s.savedOnly s1) ∧
        ∀ n t, s.teams.get? n = some t → s1.teams.get? n = some (if t.ctx = ctx ∧ t.state = .running then t.put else t)) ∧
    (j = .ctxend fn tag ctx dies → s.mayLeave ctx c dies = true → s.SavesCleanly (fun t => t.ctx = ctx) →
      ∃ s1 : State, runAct (.job k) s = .next (s1.endJob k fn tag 0 ctx 0) ∧ s.Freed s1 ctx)) ∧
  (∀ (s s1 : State) (k fn tag ctx addr : Nat) (c : Ctx) (lr : LaunchRec), s.jobs.get? k = some (.launch fn tag ctx addr) →
    s.ctxs.get? ctx = some c → s.earlierLaunch k ctx = false → c.state ≠ .fresh →
    readLaunch (frontRead (.front k) c.fn c.pasid) c.traps.keyAddr .host s addr = .ok s1 lr →
    let dies := s1.gridDies c.fn lr.dieMask
    (dies = [] ∨ fn = 0 → ∃ s' : State, runAct (.job k) s = .next s' ∧ (s'.queueOf fn).pending = (s1.queueOf fn).pending ++ [(completion tag 7 ctx 0 0, none)]) ∧
    (dies ≠ [] → fn ≠ 0 → ∃ (s' : State) (gr : Grid), runAct (.job k) s = .next s' ∧ s'.grids.get? s1.nextId = some gr ∧ gr.ctx = ctx ∧ gr.launch = lr ∧ gr.cmd = some (fn, tag) ∧
      gr.exited = 0 ∧ gr.started = false ∧ gr.liveTeams = (List.range lr.teams).map (fun n => s1.nextId + 1 + n) ∧
      ∀ n, n < lr.teams → s'.teams.get? (s1.nextId + 1 + n) = some (newTeam ctx s1.nextId n .grid (dies.getD (n % dies.length) 0) lr.image) ∧
        s1.nextId + 1 + n ∈ s'.queueAt (dies.getD (n % dies.length) 0))) ∧
  (∀ (s : State) (fn : Nat) (cmd : Command), s.serving = true →
    (1 < cmd.arg0.toNat → exec (.answer fn cmd) s = .next (s.complete fn cmd.tag 0x10 cmd.ctx 0)) ∧
    (cmd.arg0.toNat ≤ 1 → 3 ≤ cmd.arg1.toNat → fn ≠ 0 → exec (.answer fn cmd) s = .next (s.complete fn cmd.tag 0x11 cmd.ctx 0)) ∧
    (cmd.arg0.toNat ≤ 1 → (if 3 ≤ cmd.arg1.toNat then fn = 0 else ∃ c, s.Commands fn cmd c ∧ c.state ≠ .lost) →
      (s.stopNamed cmd = none → exec (.answer fn cmd) s = .next (s.complete fn cmd.tag 0x18 cmd.ctx 0)) ∧
      ∀ k st, s.stopNamed cmd = some (k, st) →
        (cmd.arg0 = 0 → ∃ s1 : State, exec (.answer fn cmd) s = .next (s1.addJob (.answer fn cmd.tag cmd.ctx st.held)) ∧ s1.stops = s.stops.erase k ∧
          { s1 with stops := s.stops, work := s.work } = s ∧
          ∀ n g, s.groups.get? n = some g → st.holds (s.fnOf g) g.ctx g.team = true → .resume n ∈ s1.work) ∧
        (cmd.arg0 = 1 → st.rung = 2 → ∃ s1 : State, exec (.answer fn cmd) s = .next (s1.complete fn cmd.tag 0 cmd.ctx 0) ∧
          ∀ x, s1.ctxs.get? st.ctx = some x → x.state = .lost) ∧
        (cmd.arg0 = 1 → st.rung = 1 → ∀ t, s.teams.get? st.team = some t → t.origin = .grid →
          ∃ s1 : State, exec (.answer fn cmd) s = .next (s1.complete fn cmd.tag 0 cmd.ctx 0) ∧ (∀ e ∈ s1.groups, e.2.team ≠ st.team) ∧
            ∀ n, n ≠ st.team → s1.teams.get? n = s.teams.get? n))) ∧
  (∀ (s : State) (k fn tag ctx : Nat), s.jobs.get? k = some (.answer fn tag ctx []) → runAct (.job k) s = .next (s.endJob k fn tag 0 ctx 0)) ∧
  (∀ (s s1 : State) (k fn tag ctx n : Nat) (r : List Nat) (c : Ctx) (x : List Binding × TrapTable), s.jobs.get? k = some (.answer fn tag ctx (n :: r)) →
    s.ctxs.get? n = some c → c.state = .switchedOut → s.readTables k c = .ok s1 x → s1.saveWaits protrum n (fun _ => true) = false →
    s1.saveCause protrum n (fun _ => true) = none →
    ∃ s' : State, runAct (.job k) s = .next s' ∧ s'.ctxs.get? n = some { c with state := .running, binds := x.1, traps := x.2 } ∧
      s'.jobs.get? k = some (.answer fn tag ctx r) ∧ .job k ∈ s'.work)

/-- R26, R44, R57, R58, R90, R458, R502, R507 to R512, R524: a doorbell's command is taken from the ring and runs as the row of its opcode; VACATE,
RETURN, PARTSET, PARTMEM, VECSET, WSWRITE, WSTRIM and LNKSVC, the events that complete them, and the status of each refusal.
Readings of the model: logs 11, 35, 36, 44, 52, 53, 62, 63. -/
def Obligations.ModuleCommands : Prop :=
  (∀ (s : State) (fn op : Nat) (cmd : Command) (i : Instr), CommandRow fn op cmd i → s.serving = false → exec i s = .next s) ∧
  (∀ (s : State) (fn : Nat) (cmd : Command), s.serving = true → fn ≠ 0 →
    ∀ i ∈ [Instr.partset fn cmd, .wswrite fn cmd, .wstrim fn cmd, .vecset fn cmd, .lnksvc fn cmd, .partmem fn cmd],
      exec i s = .next (s.complete fn cmd.tag 0x11 cmd.ctx 0)) ∧
  (∀ (s : State) (fn index : Nat), s.serving = true → index < 2 ^ 16 →
    exec (.hqCmdtailDoorbell fn index) s = .next ((s.setQueue fn { (s.queueOf fn) with cmdTail := index }).push (.commandIntake fn)) ∧
    exec (.hqEvtheadWrite fn index) s = .next ((s.setQueue fn { (s.queueOf fn) with evtHead := index }).push (.eventRecordWrite fn))) ∧
  (∀ (s : State) (fn index : Nat), s.serving = true → 2 ^ 16 ≤ index →
    let ignored : State := { s with bias := s.bias.set fn { (s.bias.getD fn BiasRegs.reset) with err := 0 } }
    exec (.hqCmdtailDoorbell fn index) s = .next ignored ∧ exec (.hqEvtheadWrite fn index) s = .next ignored) ∧
  (∀ (s s0 : State) (fn : Nat) (b : List Byte), let q := s.queueOf fn
    let n := 2 ^ q.cmdLog2
    let cmd := commandOf b
    let q0 := s0.queueOf fn
    let s1 := (s0.setQueue fn { q0 with cmdHead := (q0.cmdHead + 1) % 2 ^ q0.cmdLog2 }).push (.commandIntake fn)
    s.serving = true → q.en = true → q.cmdHead % n ≠ q.cmdTail % n → s.ioRead fn (q.cmdBase + 64 * (q.cmdHead % n)) 64 = .ok s0 b →
    (s0.switching cmd.ctx = true → cmd.ctx ≠ 0 → runAct (.commandIntake fn) s = .next (s0.push (.commandIntake fn))) ∧
    (s0.switching cmd.ctx = false ∨ cmd.ctx = 0 →
     (leField b 1 1 = 0 → leField b 0x20 32 = 0 → ∀ i, CommandRow fn (leField b 0 1) cmd i →
      runAct (.commandIntake fn) s = if s0.commandWaits fn (leField b 0 1) cmd then .next (s0.push (.commandIntake fn)) else exec i s1) ∧
     (leField b 1 1 ≠ 0 ∨ leField b 0x20 32 ≠ 0 ∨ (∀ i, ¬CommandRow fn (leField b 0 1) cmd i) →
      runAct (.commandIntake fn) s = .next (s1.complete fn cmd.tag 0x10 cmd.ctx 0)))) ∧
  (∀ (s : State) (cmd : Command), s.serving = true → exec (.vecset 0 cmd) s = .next (({ s with vectors :=
    ⟨(cmd.arg0.extractLsb' 0 16).toNat, (cmd.arg0.extractLsb' 16 16).toNat, (cmd.arg1.extractLsb' 0 32).toNat,
      (cmd.arg1.extractLsb' 32 32).toNat⟩ } : State).complete 0 cmd.tag 0 cmd.ctx 0)) ∧
  (∀ (s : State) (fn : Nat) (cmd : Command), s.serving = true → let qs := quadsOf cmd.arg0.toNat
    (fn ≠ 0 → (∃ q ∈ qs, s.ownerOf q ≠ fn) → exec (.vacate fn cmd) s = .next (s.complete fn cmd.tag 0x11 cmd.ctx 0) ∧
      exec (.hostReturn fn cmd) s = .next (s.complete fn cmd.tag 0x11 cmd.ctx 0)) ∧
    (fn = 0 ∨ (∀ q ∈ qs, s.ownerOf q = fn) →
      ((∃ q ∈ qs, s.quadMapped q = true) → ∃ r, exec (.vacate fn cmd) s = .next (s.complete fn cmd.tag 0x14 cmd.ctx r) ∧
        ∀ q, bit r q = true ↔ q ∈ qs ∧ s.quadMapped q = true) ∧
      ((∀ q ∈ qs, s.quadMapped q = false) → let part := qs.filter (fun q => !(s.ownerOf q == 0) && !(s.vacated.contains q))
        let dies := (part.map fun q => q / 12).eraseDups
        exec (.vacate fn cmd) s = .next ((({ s with
          vacating := s.vacating ++ part.filter (fun q => !(s.vacating.contains q))
          jobs := s.jobs.set s.nextId (.vacate fn cmd.tag cmd.arg0.toNat dies), nextId := s.nextId + 1 } : State).push
            (.vacateComplete s.nextId)).sendControl s.nextId dies)) ∧
      ((∃ q ∈ qs, q ∉ s.vacated) → exec (.hostReturn fn cmd) s = .next (s.complete fn cmd.tag 0x15 cmd.ctx 0)) ∧
      ((∀ q ∈ qs, q ∈ s.vacated) → ∃ s1 : State, exec (.hostReturn fn cmd) s = .next (s1.complete fn cmd.tag 0 cmd.ctx 0) ∧
        s1.vacated = s.vacated.filter (fun q => !(qs.contains q)) ∧ { s1 with vacated := s.vacated, work := s.work } = s))) ∧
  (∀ (s : State) (k fn tag mask : Nat) (dies : List Nat), s.jobs.get? k = some (.vacate fn tag mask dies) →
    let qs := (quadsOf mask).filter fun q => s.vacating.contains q
    (dies ≠ [] ∨ (∃ q ∈ qs, s.reach protrum (q / 12) = false) ∨ (∃ e ∈ s.teams, e.2.state = .running ∧ e.2.standsOn qs ∧ s.savable e.1 = false) →
      exec (.vacateComplete k) s = .next (s.push (.vacateComplete k))) ∧
    (dies = [] → (∀ q ∈ qs, s.reach protrum (q / 12) = true) → (∀ e ∈ s.teams, e.2.state = .running → e.2.standsOn qs → s.savable e.1 = true) →
      s.SavesCleanly (fun t => t.standsOn qs) → ∃ s1 : State, exec (.vacateComplete k) s = .next (s1.endJob k fn tag 0 0 0) ∧
        s1.layer = s.layer ∧ (s.dram.wf = true → s.savedOnly s1) ∧
        (∀ n t, s.teams.get? n = some t → (t.state = .running ∧ t.standsOn qs → s1.teams.get? n = some t.put) ∧
          (¬(t.state = .running ∧ t.standsOn qs) → s1.teams.get? n = some t)) ∧
        (∀ q, q ∈ s1.vacating ↔ q ∈ s.vacating ∧ q ∉ quadsOf mask) ∧
        ∀ q, q ∈ s1.vacated ↔ q ∈ s.vacated ∨ (q ∈ quadsOf mask ∧ q ∈ s.vacating))) ∧
  (∀ (s : State) (cmd : Command), s.serving = true → let vf := cmd.arg0.toNat
    let qs := quadsOf cmd.arg1.toNat
    let need := 256 + 4608 * (s.quadCount vf + qs.length)
    (vf = 0 ∨ 16 < vf → exec (.partset 0 cmd) s = .next (s.complete 0 cmd.tag 0x10 cmd.ctx 0)) ∧
    (1 ≤ vf → vf ≤ 16 → ((∃ q ∈ qs, s.quadFree q = false) → exec (.partset 0 cmd) s = .next (s.complete 0 cmd.tag 0x15 cmd.ctx 0)) ∧
      ((∀ q ∈ qs, s.quadFree q = true) →
        ((∃ e ∈ s.ctxs, e.2.fn = vf ∧ e.2.saveSize < need) → exec (.partset 0 cmd) s = .next (s.complete 0 cmd.tag 0x13 cmd.ctx need)) ∧
        ((∀ e ∈ s.ctxs, e.2.fn = vf → need ≤ e.2.saveSize) → exec (.partset 0 cmd) s = .next (({ s with
          zeroing := s.zeroing ++ qs, jobs := s.jobs.set s.nextId (.partset cmd.tag vf (quadMask qs)), nextId := s.nextId + 1 } : State).push
            (.partsetFill s.nextId)))))) ∧
  (∀ (s : State) (k tag vf mask : Nat), s.jobs.get? k = some (.partset tag vf mask) → ∃ s1 : State,
    exec (.partsetZeroFillComplete k) s = .next (s1.endJob k 0 tag 0 0 0) ∧
    (∀ q, s1.ownerOf q = if q ∈ quadsOf mask then vf else s.ownerOf q) ∧ s1.zeroing = s.zeroing.filter (fun q => !((quadsOf mask).contains q)) ∧
    (∀ q ∈ quadsOf mask, ∀ a, a < 2 ^ 25 → s1.layer.get (layerKey (q / 12) (q % 12 * 2 ^ 25 + a)) = 0) ∧
    s1.host = s.host ∧ s1.dram = s.dram ∧ s1.flash = s.flash) ∧
  (∀ (s : State) (cmd : Command), s.serving = true → let owner := cmd.arg0.toNat
    let first := cmd.arg1.toNat
    let count := cmd.arg2.toNat
    (16 < owner ∨ count = 0 ∨ 512 < first + count → exec (.partmem 0 cmd) s = .next (s.complete 0 cmd.tag 0x10 cmd.ctx 0)) ∧
    (owner ≤ 16 → 1 ≤ count → first + count ≤ 512 → ∃ s' : State, exec (.partmem 0 cmd) s = .next s' ∧
      s'.jobs.get? s.nextId = some (.partmem cmd.tag (s.flipsIn first count)) ∧ .job s.nextId ∈ s'.work ∧ s.sameMemory s' ∧
      (Map.sorted s.granules = true → ∀ n, s'.granules.getD n 0 = if first ≤ n ∧ n < first + count then owner else s.granules.getD n 0))) ∧
  (∀ (s : State) (first count fn page : Nat), (fn, page) ∈ s.flipsIn first count ↔ ∃ b f, (fn, b) ∈ s.bias ∧ b.flip = some f ∧
    f.page = page ∧ first ≤ page / 16384 ∧ page / 16384 < first + count) ∧
  (∀ (s : State) (k tag : Nat) (flips : List (Nat × Nat)), s.jobs.get? k = some (.partmem tag flips) →
    let going := fun x : Nat × Nat => ∃ b f, s.bias.get? x.1 = some b ∧ b.flip = some f ∧ f.page = x.2
    ((∀ x ∈ flips, ¬going x) → runAct (.job k) s = .next (s.endJob k 0 tag 0 0 0)) ∧
    ((∃ x ∈ flips, going x) → ∃ l : List (Nat × Nat), (∀ x, x ∈ l ↔ x ∈ flips ∧ going x) ∧
      runAct (.job k) s = .next (({ s with jobs := s.jobs.set k (.partmem tag l) } : State).push (.job k)))) ∧
  (∀ (s : State) (cmd : Command), s.serving = true → let off := cmd.arg0.toNat
    let n := cmd.arg2.toNat
    let good := off % 4096 = 0 ∧ n % 4096 = 0 ∧ 4096 ≤ n ∧ n ≤ 2 ^ 20
    (¬(good ∧ cmd.arg1.toNat % 4096 = 0) → exec (.wswrite 0 cmd) s = .next (s.complete 0 cmd.tag 0x10 cmd.ctx 0)) ∧
    (¬good → exec (.wstrim 0 cmd) s = .next (s.complete 0 cmd.tag 0x10 cmd.ctx 0)) ∧
    (good → 8 * 10 ^ 12 < off + n → exec (.wstrim 0 cmd) s = .next (s.complete 0 cmd.tag 0x17 cmd.ctx 0)) ∧
    (good → cmd.arg1.toNat % 4096 = 0 → 8 * 10 ^ 12 < off + n → exec (.wswrite 0 cmd) s = .next (s.complete 0 cmd.tag 0x17 cmd.ctx 0)) ∧
    (good → cmd.arg1.toNat % 4096 = 0 → off + n ≤ 8 * 10 ^ 12 → ∀ m, m < n / 4096 → (∀ k, k < m → ∃ b, s.ioRead 0 (cmd.arg1.toNat + 4096 * k) 4096 = .ok s b) →
      (∀ s1, s.ioRead 0 (cmd.arg1.toNat + 4096 * m) 4096 = .fail s1 → exec (.wswrite 0 cmd) s = .next (s1.complete 0 cmd.tag 0x17 cmd.ctx 0)) ∧
      (s.ioRead 0 (cmd.arg1.toNat + 4096 * m) 4096 = .wait → exec (.wswrite 0 cmd) s = .next s)) ∧
    (good → off + n ≤ 8 * 10 ^ 12 →
      (∀ s1 units, cmd.arg1.toNat % 4096 = 0 → s.readUnits 0 (off / 4096) cmd.arg1.toNat (n / 4096) = some (s1, some units) →
        exec (.wswrite 0 cmd) s = .next (s1.stageUnits cmd.tag units) ∧ units.map (fun u => u.1) = (List.range (n / 4096)).map fun k => off / 4096 + k) ∧
      (∀ b : Nat → List Byte, cmd.arg1.toNat % 4096 = 0 → (∀ k, k < n / 4096 → s.ioRead 0 (cmd.arg1.toNat + 4096 * k) 4096 = .ok s (b k)) → ∃ s' : State,
        exec (.wswrite 0 cmd) s = .next s' ∧ s.sameMemory s' ∧
        s'.jobs.get? s.nextId = some (.wswrite cmd.tag ((List.range (n / 4096)).map fun k => off / 4096 + k)) ∧
        ∀ k, k < n / 4096 → s'.staged.get? (off / 4096 + k) = some (b k) ∧ .stagedUnitCommit (off / 4096 + k) ∈ s'.work) ∧
      ∃ s' : State, exec (.wstrim 0 cmd) s = .next s' ∧ s.sameMemory s' ∧
        s'.jobs.get? s.nextId = some (.wswrite cmd.tag ((List.range (n / 4096)).map fun k => off / 4096 + k)) ∧
        ∀ k, k < n / 4096 → s'.staged.get? (off / 4096 + k) = some [] ∧ .stagedUnitCommit (off / 4096 + k) ∈ s'.work)) ∧
  (∀ (s : State) (unit : Nat) (b : List Byte), s.staged.get? unit = some b → s.access protrum (.flash (unit * 4096)) = .served → b.length ≤ 4096 →
    s.flash.wf = true → ∃ s' : State, exec (.stagedUnitCommit unit) s = .next s' ∧
      (∀ a, s'.flash.get a = if unit * 4096 ≤ a ∧ a < (unit + 1) * 4096 then b.getD (a - unit * 4096) 0 else s.flash.get a) ∧
      unit ∉ s'.flashBad ∧ (Map.sorted s.staged = true → s'.staged.get? unit = none) ∧
      (∀ k tag, s.jobs = [(k, .wswrite tag [unit])] → s'.jobs = [] ∧
        (s'.queueOf 0).pending = (s.queueOf 0).pending ++ [(completion tag 0 0 0 0, none)])) ∧
  (∀ (s : State) (cmd : Command), s.serving = true →
    (endOfReg cmd.arg0.toNat = none → exec (.lnksvc 0 cmd) s = .next (s.complete 0 cmd.tag 0x10 cmd.ctx 0)) ∧
    ∀ link side m, endOfReg cmd.arg0.toNat = some (link, side, m) → (∀ v ∈ s.services, v.link ≠ link) →
      (s.linkEnd link 0 m).state = 2 → (s.linkEnd link 1 m).state = 2 → ∃ s' : State, exec (.lnksvc 0 cmd) s = .next s' ∧
        s'.jobs.get? s.nextId = some (.lnksvc cmd.tag link m) ∧ s'.services = s.services ++ [⟨link, m, 2, 0, 0, 0, some s.nextId⟩] ∧
        ∀ d, d < 2 → (s'.linkEnd link d m).state = 1 ∧ (s'.linkEnd link d m).pause = true ∧ (s'.linkEnd link d m).trainTest = true ∧
          (s'.linkEnd link d m).trainWidth = 0)

/-! ## The host and the module's memory -/

/-- R37 to R59, R507, R540, R542, R544: the HDM decoder, the host's reads and writes of graphics DRAM and of the weight-store window, the
bias flips, the reads and writes of host registers, the patrol scrub and the flash array.
Choices and readings of the model: that a host snoop ends the device's hold of the line and nothing else (log 6), what waits for a link (log 35), and
logs 66, 67, 69. -/
def Obligations.HostMemoryEvents : Prop :=
  (∀ (s : State) (base : Nat), (base % 2 ^ 39 = 0 → s.dead = false → exec (.hdmDecoderCommit base) s = .next { s with hdm := some base }) ∧
    (base % 2 ^ 39 ≠ 0 ∨ s.dead = true → exec (.hdmDecoderCommit base) s = .next s)) ∧
  (∀ (s : State) (hpa n dpa : Nat), s.HdmAt hpa n dpa → s.dead = false →
    (s.access protrum (.dram dpa) = .served → s.poisoned (.dram dpa) n = false →
      exec (.hostCxlMemRead hpa n) s = .next { s with hostReply := some (s.bytesAt (.dram dpa) n) }) ∧
    (s.access protrum (.dram dpa) = .served → badIn s.dramBad 32 dpa n = true → ∃ s', exec (.hostCxlMemRead hpa n) s = .next s' ∧ s'.hostReply = none ∧
      { s' with hostReply := s.hostReply, ecc := s.ecc, crcBad := s.crcBad } = s ∧
      s'.ecc.getD (dpa / 2 ^ 37) ⟨0, 0⟩ = { (s.ecc.getD (dpa / 2 ^ 37) ⟨0, 0⟩) with uncorr := raised (s.ecc.getD (dpa / 2 ^ 37) ⟨0, 0⟩).uncorr 1 }) ∧
    (s.access protrum (.dram dpa) = .broken → exec (.hostCxlMemRead hpa n) s = .next { s with hostReply := none }) ∧
    (s.access protrum (.dram dpa) = .wait → exec (.hostCxlMemRead hpa n) s = .next s) ∧
    exec (.hostSnoop hpa) s = .next (if s.reach protrum (dpa / 2 ^ 37) then { s with cxlLines := s.cxlLines.filter fun l => !(l == dpa / 64) } else s)) ∧
  (∀ (s : State) (hpa dpa : Nat) (data : List Byte), s.HdmAt hpa data.length dpa → s.dead = false → deviceOfDpa dpa ∉ s.failed →
    deviceOfDpa dpa ∈ s.ready → s.flippingTo (dpa / 65536) false = false → s.reach protrum (dpa / 2 ^ 37) = true →
    ∃ s', exec (.hostCxlMemWrite hpa data) s = .next s' ∧
      s'.dram = (match s.hostLines.get? (dpa / 64) with
        | some d => s.dram.write (64 * (dpa / 64)) d
        | none => s.dram).write dpa data ∧
      (s.hostLines.get? (dpa / 64) = none →
        ∀ k, k ∈ s'.dramBad ↔ k ∈ s.dramBad ∧ ¬(dpa ≤ k * 32 ∧ (k + 1) * 32 ≤ dpa + data.length)) ∧
      (∀ l, l ∈ s'.cxlLines ↔ l ∈ s.cxlLines ∧ l ≠ dpa / 64) ∧
      (∀ l, l ∈ s'.hostLineBad ↔ l ∈ s.hostLineBad ∧ ¬(data.length = 64 ∧ l = dpa / 64)) ∧
      { s' with dram := s.dram, dramBad := s.dramBad, cxlLines := s.cxlLines, hostLineBad := s.hostLineBad, hostLines := s.hostLines } = s) ∧
  (∀ (s : State) (hpa n : Nat), hpa % 64 + n ≤ 64 → s.dead = false → (∀ base, s.hdm = some base → hpa < base ∨ base + 2 ^ 39 ≤ hpa) →
    exec (.hostCxlMemRead hpa n) s = .next { s with hostReply := none } ∧ ∀ data, data.length = n → exec (.hostCxlMemWrite hpa data) s = .next s) ∧
  (∀ (s : State) (hpa n a : Nat) (data : List Byte), hpa % 64 + n ≤ 64 → s.dead = false → s.route hpa = some (.flash a) →
    (s.access protrum (.flash a) = .served → badIn s.flashBad 4096 a n = false →
      exec (.weightWindowHostRead hpa n) s = .next { s with hostReply := some (s.flash.bytes a n) }) ∧
    (s.access protrum (.flash a) = .broken ∨ (s.access protrum (.flash a) = .served ∧ badIn s.flashBad 4096 a n = true) →
      exec (.weightWindowHostRead hpa n) s = .next { s with hostReply := none }) ∧
    exec (.weightWindowHostWrite hpa data) s = .next s ∧ exec (.hostSnoop hpa) s = .next s) ∧
  (∀ (s : State) (fn : Nat), s.serving = true → let b := s.biasOf fn
    ((b.flip.isSome = true → exec (.biasFlipToDevice fn) s = .next (s.setBias fn { b with err := 1 }) ∧
      exec (.biasFlipToHost fn) s = .next (s.setBias fn { b with err := 1 })) ∧
    (b.flip = none → fn ≠ 0 → s.granules.getD (b.page / 16384) 0 ≠ fn →
      exec (.biasFlipToDevice fn) s = .next (s.setBias fn { b with target := true, err := 2, done := true }) ∧
      exec (.biasFlipToHost fn) s = .next (s.setBias fn { b with target := false, err := 2, done := true })) ∧
    (b.flip = none → fn = 0 ∨ s.granules.getD (b.page / 16384) 0 = fn →
      (b.page ∈ s.hostBias → exec (.biasFlipToHost fn) s = .next (s.setBias fn { b with target := false, err := 0, done := true }) ∧
        exec (.biasFlipToDevice fn) s = .next (s.setBias fn { b with target := true, err := 0, flip := some ⟨b.page, true, List.range 1024⟩ })) ∧
      (b.page ∉ s.hostBias → exec (.biasFlipToDevice fn) s = .next (s.setBias fn { b with target := true, err := 0, done := true }) ∧
        exec (.biasFlipToHost fn) s = .next ((s.setBias fn { b with target := false, err := 0, flip := some ⟨b.page, false, []⟩ }).push
          (.biasHostFlip fn)))))) ∧
  (∀ (s : State) (fn line : Nat) (f : Flip) (dirty : Option (List Byte)), let b := s.biasOf fn
    b.flip = some f → (∀ d, dirty = some d → d.length = 64) →
    (f.toDevice = true → s.reach protrum (f.page * 65536 / 2 ^ 37) = false → exec (.biasOwnershipResponse fn line dirty) s = .next s) ∧
    (f.toDevice = true → s.reach protrum (f.page * 65536 / 2 ^ 37) = true → line ∈ f.lines.take 64 → ∃ s', exec (.biasOwnershipResponse fn line dirty) s = .next s' ∧
      (s.hostLines.get? (1024 * f.page + line) = none → s'.dram = (match dirty with
        | some d => s.dram.write (f.page * 65536 + line * 64) d
        | none => s.dram)) ∧
      (∀ d, s.hostLines.get? (1024 * f.page + line) = some d → dirty = none → s'.dram = s.dram.write (f.page * 65536 + line * 64) d) ∧
      (1024 * f.page + line ∈ s.hostLineBad → ∀ k, k / 2 = 1024 * f.page + line → k ∈ s'.dramBad) ∧
      (f.lines.filter (fun l => !(l == line)) ≠ [] → s'.hostBias = s.hostBias ∧
        s'.biasOf fn = { b with flip := some { f with lines := f.lines.filter (fun l => !(l == line)) } }) ∧
      (f.lines.filter (fun l => !(l == line)) = [] → (∀ p, p ∈ s'.hostBias ↔ p ∈ s.hostBias ∧ p ≠ f.page) ∧
        s'.biasOf fn = { b with flip := none, done := true })) ∧
    (f.toDevice = true → exec (.biasFlipTimeout fn) s = .next (s.setBias fn { b with flip := none, err := 3, done := true })) ∧
    (f.toDevice = false →
      exec (.biasHostFlipComplete fn) s = .next (({ s with hostBias := f.page :: s.hostBias } : State).setBias fn { b with flip := none, done := true }))) ∧
  (∀ (s : State) (fn : Nat) (val : W64), s.serving = true → let q := s.queueOf fn
    (∀ x, s.barWord fn 0x00100010 = some x → s.hostRegRead fn 0x00100010 = { s with hostReply := some (toBytes x 4) }) ∧
    s.barWord fn 0x00100010 = some (2 ^ 4 * (s.biasOf fn).err + (if (s.biasOf fn).page ∈ s.hostBias then 0 else 2 ^ 3) + 2 * (s.biasOf fn).done.toNat +
      (s.biasOf fn).flip.isSome.toNat) ∧
    s.barWord fn 0x00100000 = some (s.biasOf fn).page ∧ s.barWord fn 0x00100008 = some (2 * (s.biasOf fn).target.toNat) ∧
    s.barWord fn 0x10 = some (2 ^ 16 * q.evtVec + 2 ^ 12 * q.evtLog2 + 2 ^ 8 * q.cmdLog2 + q.en.toNat) ∧
    s.barWord fn 0x20 = some q.cmdHead ∧ s.barWord fn 0x28 = some q.evtTail ∧
    (∀ die, die < 4 → s.barWord fn (0x00100100 + 8 * die) = some (if fn = 0 then 2 ^ 32 * (s.ecc.getD die ⟨0, 0⟩).uncorr + (s.ecc.getD die ⟨0, 0⟩).corr
      else 0)) ∧
    let b := s.biasOf fn
    (Clean val [(11, 0)] → q.en = false → exec (.hostRegisterWrite fn 0x00 val) s = .next (s.setQueue fn { q with cmdBase := val.toNat }) ∧
      exec (.hostRegisterWrite fn 0x08 val) s = .next (s.setQueue fn { q with evtBase := val.toNat })) ∧
    (Clean val [(63, 22), (7, 1)] → q.en = false → 4 ≤ bits val.toNat 15 12 → 4 ≤ bits val.toNat 11 8 → ∃ s', exec (.hostRegisterWrite fn 0x10 val) s = .next s' ∧
      s'.queueOf fn = { q with evtVec := bits val.toNat 21 16, evtLog2 := bits val.toNat 15 12, cmdLog2 := bits val.toNat 11 8, en := bit val.toNat 0 }) ∧
    (Clean val [(63, 23)] → exec (.hostRegisterWrite fn 0x00100000 val) s = .next (s.setBias fn { b with page := val.toNat })) ∧
    (Clean val [(31, 2)] → bit val.toNat 0 = false →
      exec (.hostRegisterWrite fn 0x00100008 val) s = .next (s.setBias fn { b with target := bit val.toNat 1 })) ∧
    (Clean val [(31, 2)] → bit val.toNat 0 = true → exec (.hostRegisterWrite fn 0x00100008 val) s =
      exec (if bit val.toNat 1 then .biasFlipToDevice fn else .biasFlipToHost fn) s) ∧
    (Clean val [(31, 8), (2, 2)] →
      exec (.hostRegisterWrite fn 0x00100010 val) s = .next (s.setBias fn { b with done := b.done && !(bit val.toNat 1) })) ∧
    (Clean val [(42, 1)] → exec (.hostRegisterWrite 0 0x00100200 val) s = .next { s with wsBase := bits val.toNat 63 43, wsEn := bit val.toNat 0 }) ∧
    (s.invalidationReaches fn = true → Clean val [(31, 2)] → bit val.toNat 0 = true → exec (.hostRegisterWrite fn 0x00110000 val) s = exec (.trnFlush fn) s) ∧
    (Clean val [(63, 16)] → exec (.hostRegisterWrite fn 0x20 val) s = .next s ∧ exec (.hostRegisterWrite fn 0x28 val) s = .next s) ∧
    (∀ off bad, (off, bad) ∈ [(0x00, [(11, 0)]), (0x08, [(11, 0)]), (0x10, [(63, 22), (7, 1)]), (0x20, [(63, 16)]), (0x28, [(63, 16)]),
        (0x00100000, [(63, 23)]), (0x00100008, [(31, 2)]), (0x00100010, [(31, 8), (2, 2)]), (0x00110000, [(31, 2)])] →
      ¬Clean val bad → exec (.hostRegisterWrite fn off val) s = .next (s.setBias fn { b with err := 0 }))) ∧
  (∀ (s : State) (val : W64), s.dead = false → ¬Clean val [(63, 16), (7, 3)] →
    exec (.hostRegisterWrite 0 0x00140000 val) s = .next (s.setBias 0 { (s.biasOf 0) with err := 0 })) ∧
  (∀ (s : State) (val : W64), Clean val [(11, 1)] → s.dead = false → exec (.hostRegisterWrite 0 0x00140008 val) s =
    .next { s with boot := { s.boot with
      base := val.toNat / 4096 * 4096
      state := if bit val.toNat 0 = true ∧ s.boot.started = true ∧ s.boot.state = 2 then 3 else s.boot.state } }) ∧
  (∀ (s : State) (die line corrected : Nat), die < 4 → line < 2 ^ 29 → deviceOfDpa (die * 2 ^ 37 + line * 256) ∈ s.ready →
    deviceOfDpa (die * 2 ^ 37 + line * 256) ∉ s.failed →
    ∃ s', exec (.patrolScrub die line corrected) s = .next s' ∧ { s' with ecc := s.ecc } = s ∧
      (∀ j, j ≠ die → s'.ecc.getD j ⟨0, 0⟩ = s.ecc.getD j ⟨0, 0⟩) ∧
      let bad := (List.range 8).countP fun k => s.dramBad.contains (die * 2 ^ 32 + line * 8 + k)
      s'.ecc.getD die ⟨0, 0⟩ = ⟨raised (s.ecc.getD die ⟨0, 0⟩).corr (min corrected (8 - bad)), raised (s.ecc.getD die ⟨0, 0⟩).uncorr bad⟩) ∧
  (∀ (s : State) (unit retries : Nat) (x y : Bool), unit < 8 * 10 ^ 12 / 4096 → s.access protrum (.flash (unit * 4096)) = .served → retries ≤ 8 →
    ∃ s1 s2 : State, exec (.flashUnitRead unit retries x) s = .next s1 ∧ exec (.ftlRelocation unit x y) s = .next s2 ∧
      { s1 with flashBad := s.flashBad } = s ∧ { s2 with flashBad := s.flashBad } = s ∧
      (∀ k, k ∈ s1.flashBad ↔ if k = unit ∧ x = true then False else if k = unit ∧ retries = 8 then True else k ∈ s.flashBad) ∧
      ∀ k, k ∈ s2.flashBad ↔ if k = unit then x = true ∧ y = false else k ∈ s.flashBad)

/-- R66 to R74: an ATS completion installs its entry and serves the accesses that wait for it, or sends them on; a page request response, PRI and
its limits; an invalidation or a flush leaves no entry of its range in any cache, marks what it overtakes, and completes once its writes are done.
Choices of the model: logs 5, 11, 26, 35, 77, 80, 94, 95. -/
def Obligations.TranslationEvents : Prop :=
  (∀ (s : State) (a : AtsReq) (size hpa : Nat) (r w x : Bool), s.Asked a → s.reach a.die protrum = true → r = true ∨ w = true → let e := atsEntry a.fn a.pasid a.page size hpa r w x a.nw
    ∃ s1 : State, exec (.atsTranslationCompletion a.die a.fn a.pasid a.page a.nw (.page size hpa r w x)) s = .next s1.pump ∧
      s1.ats = s.ats.filter (fun b => !(b == a)) ∧ (∃ k, (k, e) ∈ (s1.dieWays a.die (dieSet e.size e.va e.pasid)).ways) ∧
      (∀ v ∈ s.waits, a.serves v = true → e ∈ s1.l1.getD (l1Key a.die v.core (l1Set e.size e.va)) [] ∧
        (e.allows v.need = true → { v with phase := .have e } ∈ s1.waits)) ∧
      (∀ v ∈ s.waits, a.serves v = false → v ∈ s1.waits) ∧
      (∀ v ∈ s.waits, a.serves v = true → e.allows v.need = false →
        (match s.storeRefusal e v.need (a.page * 4096) with
         | some c => { v with phase := .refused c false }
         | none => if v.tries < 4 then { v with phase := .wantPri } else { v with phase := .refused 0x07 false }) ∈ s1.waits)) ∧
  (∀ (s : State) (e : TlbEntry) (need : Need) (va : Nat), s.storeRefusal e need va =
    if need = .read ∨ need = .fetch then none
    else match s.route (e.hpaOf va) with
      | some (.flash _) => some 0x07
      | some _ => none
      | none => some 0x04) ∧
  (∀ (s : State) (a : AtsReq) (size hpa : Nat) (x : Bool), s.Asked a → s.reach a.die protrum = true →
    (∀ (reply : AtsReply) (f : PageWait → PageWait),
      (reply = .refused ∧ f = (fun v => { v with phase := .refused 0x06 true })) ∨
      (reply = .untranslated ∧ f = (fun v => { v with phase := .untranslated })) ∨
      (reply = .page size hpa false false x ∧
        f = (fun v => if v.tries < 4 then { v with phase := .wantPri } else { v with phase := .refused 0x06 false })) →
      exec (.atsTranslationCompletion a.die a.fn a.pasid a.page a.nw reply) s = .next ({ s with
        ats := s.ats.filter (fun b => !(b == a)), waits := s.waits.map (fun v => if a.serves v then f v else v) } : State).pump)) ∧
  (∀ (s : State) (p : PriReq), p ∈ s.pri → p.sent = true → s.reach p.die protrum = true →
    (∀ q ∈ s.pri, q.sent = true → q.fn = p.fn → q.group = p.group → q = p) →
    exec (.pageRequestResponse p.fn p.pasid p.group .success) s = .next ({ s with
      pri := s.pri.filter (fun q => !(q == p)), waits := s.waits.map (fun v => if p.serves v then { v with phase := .wantAts } else v) } : State).pump ∧
    exec (.pageRequestResponse p.fn p.pasid p.group .invalid) s = .next ({ s with
      pri := s.pri.filter (fun q => !(q == p)), waits := s.waits.map (fun v => if p.serves v then { v with phase := .refused 0x06 false } else v) } : State).pump ∧
    exec (.pageRequestResponse p.fn p.pasid p.group .failure) s = .next ({ s with
      pri := s.pri.filter (fun q => !(q.fn == p.fn)), priOff := p.fn :: s.priOff
      waits := s.waits.map (fun v => if v.fn = p.fn ∧ (v.phase = .priSent ∨ v.phase = .wantPri) then { v with phase := .refused 0x06 true } else v) } : State).pump) ∧
  (∀ (s : State) (fn alloc : Nat), (s.dead = true → exec (.priEnableSet fn alloc) s = .next s) ∧
    (s.dead = false → ∃ s1 : State, exec (.priEnableSet fn alloc) s = .next s1.pump ∧ fn ∉ s1.priOff ∧ s1.priLimit fn = min 512 alloc ∧
      { s1 with priOff := s.priOff, priAlloc := s.priAlloc } = s)) ∧
  (∀ s : State, let s' := s.pump
    { s' with waits := s.waits, ats := s.ats, pri := s.pri } = s ∧
    s'.waits.map (fun v => (v.owner, v.die, v.core, v.fn, v.pasid, v.page, v.need)) =
      s.waits.map (fun v => (v.owner, v.die, v.core, v.fn, v.pasid, v.page, v.need)) ∧
    (∀ a ∈ s.ats, a ∈ s'.ats) ∧
    (∀ p ∈ s.pri, ∃ q ∈ s'.pri, { p with group := q.group, sent := q.sent } = q ∧ (p.sent = true → q = p)) ∧
    (∀ die, (s.ats.filter (fun a => a.die == die)).length ≤ 512 → (s'.ats.filter (fun a => a.die == die)).length ≤ 512) ∧
    (s.pri.Nodup → ∀ fn, s.priCount fn ≤ s.priLimit fn → s'.priCount fn ≤ s'.priLimit fn) ∧
    (∀ v ∈ s'.waits, v.phase = .wantAts → 512 ≤ (s'.ats.filter (fun a => a.die == v.die)).length) ∧
    (∀ v ∈ s'.waits, v.phase ≠ .wantPri) ∧ (∀ p ∈ s'.pri, p.sent = false → s'.priLimit p.fn ≤ s'.priCount p.fn)) ∧
  (∀ (s : State) (fn pasid base len tag : Nat) (glob : Bool), tag < 32 → (s.invs.filter (fun v => v.fn == fn && decide (v.tag < 32))).length < 32 →
    (∀ v ∈ s.invs, ¬(v.fn = fn ∧ v.tag = tag)) → s.dead = false → s.invalidationReaches fn = true →
    ∃ s' : State, exec (.atsInvalidateRequest fn pasid glob base len tag) s = .next s' ∧
      s'.Flushed fn pasid glob base len ∧ .invalidateCompletion fn tag ∈ s'.work ∧
      (s.strandedBy (s.invalidation fn tag pasid glob base len) = [] → s'.invs = s.invs ++ [s.invalidation fn tag pasid glob base len] ∧
        ∀ a ∈ s.ats, { a with overtaken := a.overtaken ++ (if a.fn = fn ∧ (glob = true ∨ a.pasid = pasid) then [(base, len)] else []) } ∈ s'.ats)) ∧
  (∀ (s : State) (fn tag : Nat) (v : Invalidation), s.invs.find? (fun v => v.fn == fn && v.tag == tag) = some v → s.strandedBy v = [] →
    (s.heldMidway v.fn v.pasid v.glob v.base v.len = true ∨ s.invalidationReaches fn = false →
      exec (.invalidateCompletion fn tag) s = .next (s.push (.invalidateCompletion fn tag))) ∧
    (s.heldMidway v.fn v.pasid v.glob v.base v.len = false → s.invalidationReaches fn = true → exec (.invalidateCompletion fn tag) s = .next { s with invs := s.invs.filter (fun x => !(x == v)), flushing := if tag = 32 then s.flushing.filter (fun k => !(k == fn)) else s.flushing })) ∧
  (∀ (s : State) (fn : Nat), (fn ∈ s.flushing ∨ s.dead = true ∨ s.invalidationReaches fn = false → exec (.trnFlush fn) s = .next s) ∧
    (fn ∉ s.flushing → s.dead = false → s.invalidationReaches fn = true →
      ∃ s' : State, exec (.trnFlush fn) s = .next s' ∧ s'.Flushed fn 0 true 0 (2 ^ 57) ∧
        (s.strandedBy (s.invalidation fn 32 0 true 0 (2 ^ 57)) = [] → fn ∈ s'.flushing)))

/-! ## Links -/

/-- R515 to R526, R464: flits arrive in order, one with a CRC error is counted and asked for again; the control bits, retraining and its end,
the counters' reset, the service window and the routine's timeout, and the loss of a link.
Choices and readings of the model: logs 35, 63, 64, 79. -/
def Obligations.LinkEvents : Prop :=
  (∀ (s : State) (link dir : Nat) (f : Flit) (r : List Flit), s.HeadFlit link dir f r →
    f.m ∈ s.modulesUp link ∧
    (∃ s', exec (.linkFlitReceive link dir true) s = .next s' ∧ (s'.linkDir link dir).delivered = f.seq + 1 ∧ (s'.linkDir link dir).flits = r ∧
      (f.msg = none → { s' with linkDirs := s.linkDirs } = s) ∧
      ∀ x, f.msg = some x → let at_ := dirEnd link dir
        (x.dst = at_ → s'.arrived = s.arrived ++ [x] ∧ x.body ∈ s'.work) ∧
        (x.dst ≠ at_ → s'.arrived = s.arrived ∧
          ∃ l, (s'.linkDir (linkBetween at_ (nextHop at_ x.dst)).1 (linkBetween at_ (nextHop at_ x.dst)).2).queue = l ++ [x])) ∧
    ∃ s', exec (.linkFlitReceive link dir false) s = .next s' ∧ (s'.linkDir link dir).delivered = (s.linkDir link dir).delivered ∧
      (s'.linkDir link dir).flits = f :: r ∧ { s' with linkDirs := s.linkDirs, linkEnds := s.linkEnds } = s ∧
      s'.linkEnd link (1 - dir) f.m = { (s.linkEnd link (1 - dir) f.m) with
        crcErr := raised (s.linkEnd link (1 - dir) f.m).crcErr 1, retries := raised (s.linkEnd link (1 - dir) f.m).retries 1 }) ∧
  (∀ (s : State) (link side m : Nat), s.IdleEnd link side m → let e := s.linkEnd link side m
    ((e.off = true ↔ e.state = 4) →
      exec (.lnkPause link side m) s = .next (s.putEnd link side m { e with pause := true, state := if e.state = 2 then 3 else e.state }) ∧
      exec (.lnkUnpause link side m) s = .next (s.putEnd link side m { e with pause := false, state := if e.state = 3 then 2 else e.state })) ∧
    exec (.lnkOff link side m) s = .next (s.putEnd link side m { e with off := true, state := 4 }) ∧
    (e.state = 4 → exec (.lnkOn link side m) s = .next (s.putEnd link side m { e with off := false, state := 0 })) ∧
    exec (.lnkRetrycntClr link side m) s = .next (s.putEnd link side m { e with crcErr := 0, retries := 0 }) ∧
    ((s.linkEnd link 0 m).pause = true → (s.linkEnd link 1 m).pause = true → ∃ s', exec (.lnkRetrain link side m) s = .next s' ∧
      ∀ d, d < 2 → s'.linkEnd link d m = { (s.linkEnd link d m) with
        state := 1, trainWidth := e.ctlWidth, trainTest := e.test, trainRx := (s.linkEnd link d m).rxMap, trainTx := (s.linkEnd link d m).txMap }) ∧
    ((s.linkEnd link 0 m).pause = false ∨ (s.linkEnd link 1 m).pause = false → exec (.lnkRetrain link side m) s = .next s) ∧
    (∀ (ok : Bool) (errE errF : W64), (s.linkEnd link 0 m).state = 1 → (s.linkEnd link 1 m).state = 1 →
      let good := ok = true ∧ mapOk (s.linkEnd link 0 m).trainRx = true ∧ mapOk (s.linkEnd link 0 m).trainTx = true ∧
        mapOk (s.linkEnd link 1 m).trainRx = true ∧ mapOk (s.linkEnd link 1 m).trainTx = true
      ∃ s', exec (.lnkRetrainComplete link m ok errE errF) s = .next s' ∧ ∀ d, d < 2 → let x := s.linkEnd link d m
        let y := s'.linkEnd link d m
        y.laneErr = (if x.trainTest then (if d = 0 then errE.toNat else errF.toNat) else x.laneErr) ∧ y.trainTest = false ∧
        (good → y.state = 3 ∧ y.width = x.trainWidth ∧ y.spRx = (mapLanes x.trainRx).length ∧ y.spTx = (mapLanes x.trainTx).length ∧
          link ∉ s'.lostLinks) ∧
        (¬good → y.state = 0 ∧ y.width = x.width)) ∧
    (∀ (ok : Bool) (errE errF : W64) (d : Nat), d < 2 → (s.linkEnd link d m).state = 1 → (s.linkEnd link (1 - d) m).state ≠ 1 →
      ∃ s', exec (.lnkRetrainComplete link m ok errE errF) s = .next s' ∧ (s'.linkEnd link d m).state = 0 ∧
        s'.linkEnd link (1 - d) m = s.linkEnd link (1 - d) m)) ∧
  (∀ (s : State) (link side m : Nat) (e : LinkEnd), link < 8 → side < 2 → m < 4 → let s' := s.putEnd link side m e
    s'.linkEnd link side m = e ∧ { s' with linkEnds := s.linkEnds, linkDirs := s.linkDirs } = s ∧
    (∀ l d k, l < 8 → d < 2 → k < 4 → (l, d, k) ≠ (link, side, m) → s'.linkEnd l d k = s.linkEnd l d k) ∧
    ∀ dir, dir < 2 → ∀ f ∈ (s'.linkDir link dir).flits, f.m ∈ s'.modulesUp link ∨ s'.modulesUp link = []) ∧
  (∀ s : State, ∃ s', exec .linkServiceWindow s = .next s' ∧
    (∀ l d m, l < 8 → d < 2 → m < 4 → (∀ v ∈ s.services, v.link ≠ l) →
      s'.windowStart.getD (endReg l d m) 0 = (s.linkEnd l d m).retries ∧
      ((s.linkEnd l d m).thresh ≤ (s.linkEnd l d m).retries - s.windowStart.getD (endReg l d m) 0 →
        ∃ v ∈ s'.services, v.link = l ∧ v.m = m ∧ v.job = none)) ∧
    ((∀ l d m, l < 8 → d < 2 → m < 4 → (s.linkEnd l d m).retries - s.windowStart.getD (endReg l d m) 0 < (s.linkEnd l d m).thresh) →
      { s' with windowStart := s.windowStart } = s)) ∧
  (∀ (s : State) (v : Service), v.link < 8 → v.m < 4 → v.phase ≠ 0 → v.job = none → s.services.filter (fun x => x.link == v.link) = [v] →
    ∃ s', exec (.linkServiceWaitTimeout v.link v.m) s = .next s' ∧ (∀ x ∈ s'.services, x.link ≠ v.link) ∧
      (∀ d, d < 2 → (s'.linkEnd v.link d v.m).state = 4 ∧ (s'.linkEnd v.link d v.m).off = true ∧ (s'.linkEnd v.link d v.m).pause = false) ∧
      (s'.queueOf 0).pending = (s.queueOf 0).pending ++ [(linkReport 3 (endReg v.link 0 v.m) v.a, none)]) ∧
  (∀ (s : State) (link : Nat), link < 8 →
    let alive := ∃ m, m < 4 ∧ ∀ d, d < 2 → (s.linkEnd link d m).state = 2 ∨ (s.linkEnd link d m).state = 3
    (alive ∨ link ∈ s.lostLinks → exec (.linkLost link) s = .next s) ∧
    (¬alive → link ∉ s.lostLinks →
      (4 ≤ link → s.unstopped 4 0 0 0 → exec (.linkLost link) s =
        .next (({ s with lostLinks := link :: s.lostLinks } : State).stopped ⟨4, 0x0E, 0, 0, 0, 0, 0, 0, false, false, []⟩)) ∧
      (link < 4 → (∀ e ∈ s.stops, e.1 < s.nextId) → ∃ s', exec (.linkLost link) s = .next s' ∧ link ∈ s'.lostLinks ∧
        ∀ q fn, (q, fn) ∈ s.quadOwner → 1 ≤ fn → fn ≤ 16 → (q / 12 = link ∨ q / 12 = (link + 1) % 4) →
          ∃ e ∈ s'.stops, e.2.rung = 3 ∧ e.2.fn = fn)))

/-! ## Power, boot and resets -/

/-- R92 to R95, R527 to R537, R130, R506, R538 to R545: the scratchpad's ways, a quad's power transitions and the die's rise permit, drowsy
banks, the boot, a function that becomes ready or fails, function-level resets, and the answers to SPDM requests (their layout is that of DMTF SPDM 1.2:
log 10). What an image's check and its length are is not the spec's, nor what the certificates hold (logs 9, 10).
Readings of the model: logs 37, 44, 65, 70, 92, 98. -/
def Obligations.PowerAndBoot : Prop :=
  (∀ (s : State) (die slice ways : Nat), die < 4 → slice < 24 → let w := s.wayp die slice
    let put := fun (x : Waypart) => s.waypart.set (die * 24 + slice) x
    (w.scrWays < ways → ways ≤ 16 →
      (w.busy = true → exec (.lyrWaypartGrow die slice ways) s = .next { s with waypart := put { w with err := 1 } }) ∧
      (w.busy = false → w.ringFloor ≤ ways → exec (.lyrWaypartGrow die slice ways) s =
        .next (({ s with waypart := put { w with err := 0, busy := true, scrWays := ways } } : State).push (.layerGrow die slice)))) ∧
    (ways < w.scrWays →
      (w.busy = true → exec (.lyrWaypartShrink die slice ways) s = .next { s with waypart := put { w with err := 1 } }) ∧
      (w.busy = false → ways < w.ringFloor → exec (.lyrWaypartShrink die slice ways) s = .next { s with waypart := put { w with err := 2 } }) ∧
      (w.busy = false → w.ringFloor ≤ ways → ∃ s', exec (.lyrWaypartShrink die slice ways) s = .next s' ∧
        s'.waypart = put { w with err := 0, busy := true, scrWays := ways, mapped := ways } ∧
        { s' with waypart := s.waypart, layer := s.layer, layerBad := s.layerBad, work := s.work } = s ∧
        ∀ a, s'.layer.get a = if layerKey die (slice * 2 ^ 24 + ways * 2 ^ 20) ≤ a ∧ a < layerKey die (slice * 2 ^ 24 + w.scrWays * 2 ^ 20)
          then 0 else s.layer.get a)) ∧
    (w.busy = true → w.mapped < w.scrWays → ∃ s', exec (.layerGrowComplete die slice) s = .next s' ∧
      s'.waypart = put { w with busy := false, mapped := w.scrWays } ∧
      { s' with waypart := s.waypart, layer := s.layer, layerBad := s.layerBad } = s ∧
      ∀ a, s'.layer.get a = if layerKey die (slice * 2 ^ 24 + w.mapped * 2 ^ 20) ≤ a ∧ a < layerKey die (slice * 2 ^ 24 + w.scrWays * 2 ^ 20)
        then 0 else s.layer.get a) ∧
    (w.busy = true → w.mapped = w.scrWays → exec (.layerShrinkBusyEnd die slice) s = .next { s with waypart := put { w with busy := false } })) ∧
  (∀ (s : State) (quad : Nat) (val : W64), quad < 48 → let p := s.powerOf quad
    (¬QctlOk val → exec (.pwrQctlWrite quad val) s = .next (s.setPower quad { p with err := 1 })) ∧
    (QctlOk val → ∃ s', exec (.pwrQctlWrite quad val) s = .next s' ∧ let p' := s'.powerOf quad
      p'.drWait = bits val.toNat 31 24 ∧ p'.bankOff = bit val.toNat 16 ∧ p'.targetOpp = bits val.toNat 11 8 ∧ p'.targetPass = bits val.toNat 2 0 ∧
      p'.err = 0 ∧ p'.opp = p.opp ∧ p'.pass = p.pass ∧ p'.supply = p.supply ∧ p'.ls1 = p.ls1 ∧ p'.ls2 = p.ls2 ∧
      (p'.busy = true ↔ ¬(p.step = 0 ∧ p'.nextStep = 0)) ∧ { s' with power := s.power, rise := s.rise, work := s.work } = s)) ∧
  (∀ (s : State) (quad : Nat), let p := s.powerOf quad
    let d := if p.step = 0 then p else p.stepDone
    (p.busy = false → exec (.pwrTransitionStep quad) s = .next s) ∧
    (p.busy = true → ∃ s', exec (.pwrTransitionStep quad) s = .next s' ∧ let p' := s'.powerOf quad
      p'.opp = d.opp ∧ p'.pass = d.pass ∧ p'.supply = d.supply ∧ p'.ls1 = d.ls1 ∧ p'.ls2 = d.ls2 ∧ (p'.busy = true ↔ d.nextStep ≠ 0) ∧
      (p'.step = 0 ∨ p'.step = d.nextStep) ∧ (p'.step = 1 ∨ p'.step = 4 → (s'.permitOf (quad / 12)).holder = some quad) ∧
      { s' with power := s.power, rise := s.rise, work := s.work } = s)) ∧
  (∀ p : Power, p.stepDone.step = 0 ∧ (p.step = 1 ∨ p.step = 3 → p.stepDone.supply = p.aim) ∧ (p.step = 2 → p.stepDone.opp = p.aim) ∧
    (p.step = 5 → p.stepDone.pass = p.aim) ∧
    (p.nextStep = 0 ↔ p.supply = p.targetOpp ∧ p.opp = p.targetOpp ∧ p.pass = p.targetPass ∧ p.wakeNeeded = false ∧ p.gateNeeded = false) ∧
    (p.nextStep = 2 → p.supply ≤ p.targetOpp ∧ p.opp ≠ p.targetOpp) ∧ (p.nextStep = 6 → p.pass = p.targetPass)) ∧
  (∀ (s : State) (die core sub bank : Nat), die < 4 → core < 48 → sub < 8 → bank < 48 → (s.powerOf (12 * die + core / 4)).drWait ≠ 0 →
    bankKey die core sub bank ∉ s.drowsy →
    let key := bankKey die core sub bank
    let isOff := (s.powerOf (12 * die + core / 4)).bankOff = true ∧ ∀ e ∈ s.groups, ¬(e.2.placed = true ∧ key ∈ e.2.banks)
    ((∀ e ∈ s.groups, ¬(e.2.placed = true ∧ e.2.stage.isSome = true ∧ key ∈ e.2.banks)) → ¬isOff →
      exec (.bankDrowsyEntry die core sub bank) s = .next { s with drowsy := key :: s.drowsy }) ∧
    ((∃ e ∈ s.groups, e.2.placed = true ∧ e.2.stage.isSome = true ∧ key ∈ e.2.banks) ∨ isOff →
      exec (.bankDrowsyEntry die core sub bank) s = .next s)) ∧
  (∀ s : State, (s.boot.started = false → exec .bootStart s =
      .next { s with boot := ⟨true, 0, 0, 0, false, s.boot.count + 1, Config.prof700 (s.boot.count + 1), s.boot.image⟩ }) ∧
    (s.boot.started = true → exec .bootStart s = .next s ∧
      (s.boot.state = 0 → s.bootImage = .ok s s.boot.image) ∧
      (s.boot.state = 3 → ∀ s1 b, s.ioRead 0 s.boot.base 4096 = .ok s1 b → s.bootImage = s1.ioRead 0 s.boot.base (Config.imageLength b).val) ∧
      (s.boot.state = 3 → ∀ s1, s.ioRead 0 s.boot.base 4096 = .fail s1 → s.bootImage = .fail s1) ∧
      (∀ s1, s.bootImage = .fail s1 → s.boot.state = 3 → ∀ ok err,
        exec (.bootVerifyComplete ok err) s = .next { s1 with boot := { s.boot with state := 2, err := 4 } }) ∧
      (s.boot.state = 0 ∨ s.boot.state = 3 → ∀ s1 img, s.bootImage = .ok s1 img → let code := (Config.firmwareCheck img).val
        (code = 0 → ∀ err, exec (.bootVerifyComplete true err) s =
          .next { s1 with boot := { s.boot with state := 1, err := 0, hostImage := decide (s.boot.state = 3), image := img } }) ∧
        (code ≠ 0 → exec (.bootVerifyComplete false code) s = .next { s1 with boot := { s.boot with state := 2, err := code } }) ∧
        ∀ ok err, ok = false ∧ (code = 0 ∨ err ≠ code) ∨ ok = true ∧ code ≠ 0 → exec (.bootVerifyComplete ok err) s = .next s) ∧
      (s.boot.state = 2 → s.dead = false → exec .bootImgGo s = .next { s with boot := { s.boot with state := 3 } }) ∧
      (s.boot.state ≠ 2 → exec .bootImgGo s = .next s))) ∧
  (∀ (s : State) (u : BringUp), s.serving = true → unitExists u = true → u ∉ s.ready → u ∉ s.failed → s.unitMayStart u = true →
    (s.unitFails u = false → ∃ s', exec (.functionReady u true) s = .next s' ∧ s'.ready = s.ready ++ [u] ∧ s'.failed = s.failed ∧
      s'.host = s.host ∧ s'.flash = s.flash ∧
      (∀ a, s'.dram.get a = if deviceOfDpa a = u then 0 else s.dram.get a) ∧
      (∀ die k, u = .slice die k → ∀ a, a < 2 ^ 24 → s'.layer.get (layerKey die (k * 2 ^ 24 + a)) = 0) ∧
      (∀ die q, u = .quad die q → ∀ k, k < 4 → s'.cycles.getD (coreKey die (4 * q + k)) 0 = 0) ∧
      ∀ die k m, u = .linkModule die k m → s'.linkEnd (endOfUnit die k).1 (endOfUnit die k).2 m = LinkEnd.reset) ∧
    ∃ s', exec (.functionReady u false) s = .next s' ∧ s'.failed = s.failed ++ [u] ∧ s'.ready = s.ready ∧ s.sameMemory s' ∧
      ∀ die k m, u = .linkModule die k m → (s'.linkEnd (endOfUnit die k).1 (endOfUnit die k).2 m).state = 4) ∧
  (∀ (s : State) (vf : Nat), 1 ≤ vf → vf ≤ 16 → s.dead = false → Map.sorted s.ctxs = true → Map.sorted s.hq = true → Map.sorted s.bias = true →
    (∀ e ∈ s.ctxs, e.2.fn = vf → e.2.state ≠ .running) ∨ s.SavesCleanly (fun t => ∃ c, s.ctxs.get? t.ctx = some c ∧ c.fn = vf) →
    ∃ s', exec (.vfFlr vf) s = .next s' ∧ s'.quadOwner = s.quadOwner ∧ (s.dram.wf = true → s.savedOnly s') ∧ s'.queueOf vf = HostQueue.reset ∧
      s'.biasOf vf = BiasRegs.reset ∧
      ∀ k c, s.ctxs.get? k = some c → (c.fn ≠ vf → s'.ctxs.get? k = some c) ∧
        (c.fn = vf → ∃ c', s'.ctxs.get? k = some c' ∧ c'.state = .lost ∧ ∀ e ∈ s'.groups, e.2.ctx ≠ k)) ∧
  (∀ s : State, ∃ s', exec .pfFlr s = .next s' ∧ s.sameMemory s' ∧ s'.groups = [] ∧ s'.teams = [] ∧ s'.grids = [] ∧ s'.ctxs = [] ∧ s'.books = [] ∧
    s'.hq = [] ∧ s'.stops = [] ∧ s'.quadOwner = [] ∧ s'.power = [] ∧ s'.linkEnds = [] ∧ s'.ready = [] ∧ s'.failed = [] ∧ s'.hdm = none ∧
    s'.wsEn = false ∧ s'.dead = false ∧ s'.serving = false ∧
    s'.boot = ⟨true, 0, 0, 0, false, s.boot.count + 1, Config.prof700 (s.boot.count + 1), s.boot.image⟩) ∧
  (∀ (s : State) (req : List Byte) (i : Instr) (version code : Byte),
    (i = .spdmGetVersion req ∧ version = 0x10 ∧ code = 0x04) ∨ (i = .spdmGetCapabilities req ∧ version = 0x12 ∧ code = 0x61) ∨
    (i = .spdmNegotiateAlgorithms req ∧ version = 0x12 ∧ code = 0x63) ∨ (i = .spdmGetDigests req ∧ version = 0x12 ∧ code = 0x01) ∨
    (i = .spdmGetCertificate req ∧ version = 0x12 ∧ code = 0x02) ∨ (i = .spdmChallenge req ∧ version = 0x12 ∧ code = 0x03) ∨
    (i = .spdmGetMeasurements req ∧ version = 0x12 ∧ code = 0x60) →
    (s.serving = false → exec i s = .next s) ∧
    (s.serving = true → ∃ body, exec i s = .next { s with spdm := version :: code :: body })) ∧
  (∀ (s : State) (req : List Byte), s.serving = true →
    s.measurements.map (fun m => m.1) = [1, 2, 3, 4] ∧
    (s.measurements.map fun m => m.2.2)[0]? = some (toBytes (Config.sm3 Config.bootRom).toNat 32) ∧
    (s.measurements.map fun m => m.2.2)[1]? = some (toBytes (Config.sm3 s.boot.image).toNat 32) ∧
    (s.measurements.map fun m => m.2.2)[2]? = some (Config.fuses ++ [if s.boot.prof700 then 1 else 0]) ∧
    (req.getD 3 0 = 4 → (req.getD 2 0).getLsbD 0 = false →
      let image : Byte := if s.boot.hostImage then 1 else 0
      let answer := [0x12, 0x60, 0, 0, 1, 8, 0, 0, 4, 1, 4, 0, 0x83, 1, 0, image] ++ padTo 32 (Config.spdmNonce s.tick) ++ [0, 0]
      exec (.spdmGetMeasurements req) s = .next { s with spdm := answer }))

/-! ## Decoding, steps and reset -/

/-- R6, R161, R164 to R181: words written out from the encoding tables decode to the instructions that they stand for; an undefined cell of the
opcode map and a field that must be 0 are told apart. -/
def Obligations.DecodeWords : Prop :=
  decode 0x80000000#32 0#32 = .instr .nop false ∧
  decode 0x18030102#32 0#32 = .instr (.iaddS32 (.reg 3) (.reg 1) (.reg 2)) false ∧
  decode 0x01C00184#32 0#32 = .instr (.faddF32 (.chan true 0) (.reg 1) (.chan false 4)) false ∧
  decode 0x40010203#32 0x04000000#32 = .instr (.fmaF32 ⟨.reg 1, .reg 2, .reg 3, .reg 4, ⟨0, false⟩, 0, 0, 0⟩) true ∧
  decode 0x57051234#32 0x00005678#32 = .instr (.movi 5 0x12345678 ⟨0, false⟩) true ∧
  decode 0x64040600#32 0x00502008#32 =
    .instr (.ldB32 ⟨.reg 4, 6, 0, .reg 0, ⟨2, true⟩, 0, 0, .glob, true, false, 8⟩) true ∧
  decode 0x81010203#32 0#32 = .instr (.saddB64 (.reg 1) (.reg 2) (.reg 3)) false ∧
  decode 0x94FFFFFE#32 0#32 = .instr (.bra 0xFFFFFE) false ∧
  decode 0x9E000005#32 0#32 = .instr (.trap 5) false ∧
  decode 0x9F000000#32 0#32 = .instr .tret false ∧
  decode 0xA0040102#32 0#32 = .instr (.sysrd 4 0x0102) false ∧
  decode 0xB1050A00#32 0#32 = .instr (.mzero 5 10) false ∧
  decode 0x00000000#32 0#32 = .illegal ∧ decode 0x07010203#32 0#32 = .reserved ∧ decode 0x80000001#32 0#32 = .reserved ∧
  (decodeBytes [0x02, 0x01, 0x03, 0x18, 0xFF]) = some (.instr (.iaddS32 (.reg 3) (.reg 1) (.reg 2)) false, [0xFF])

/-- R161 to R181: every well-formed instruction that has words decodes back from them, with every operand; and what decodes is well formed and has
exactly the words that were read. What the fields of some forms may hold is the model's reading (logs 15, 78, 84, 99). -/
def Obligations.DecodeEncode : Prop :=
  (∀ (i : Instr) (w1 : W32) (w2 : Option W32), i.WellFormed → encode i = some (w1, w2) → decode w1 (w2.getD 0) = .instr i w2.isSome) ∧
  ∀ (i : Instr) (w1 w2 : W32) (long : Bool), decode w1 w2 = .instr i long → i.WellFormed ∧ encode i = some (w1, if long then some w2 else none)

/-- A step in which the focus group issues runs the instruction that its words decode to; words that no instruction has raise 0x01 or 0x02 (R172,
R466), and a group's one fetch from a page that went untranslated is used up (R67); the words are those of the code page that its core has checked (R69, R79,
R181, R481). An event on the agenda happens in the next step (the agenda, the focus and the turn are the model's own: log 1). -/
def Obligations.StepRunsDecoded : Prop :=
  (∀ (s : State) (g : Group) (pc : W64) (run : BitVec 64) (w1 w2 : W32), s.Fetches g pc run w1 w2 →
    (∀ i long, decode w1 w2 = .instr i long → i.WellFormed ∧ step s = fetched s.focus (exec i { s with tick := s.tick + 1 })) ∧
    (decode w1 w2 = .illegal → step s = fetched s.focus (exec (.illegalInstruction w1) { s with tick := s.tick + 1 })) ∧
    (decode w1 w2 = .reserved →
      step s = fetched s.focus (.next (State.raise { s with tick := s.tick + 1 } s.focus ⟨0x02, 0, pc, true, run, w1, w2, [], 0⟩)))) ∧
  (∀ (t : State) (gid : Nat) (f : Fault), fetched gid (.fault f) = .fault f ∧ (t.stalled = true → fetched gid (.next t) = .next t) ∧
    (t.stalled = false → fetched gid (.next t) = .next (t.useFetch gid)) ∧
    { t.useFetch gid with codePages := t.codePages } = t ∧ (∀ c ∈ (t.useFetch gid).codePages, gid ∉ c.grants) ∧
    ((∀ c ∈ t.codePages, gid ∉ c.grants) → t.useFetch gid = t)) ∧
  (∀ (s : State) (gid : Nat) (g : Group) (pc : W64) (c d : CodePage), canonical pc.toNat = true → canonical (pc.toNat + 4) = true →
    let word := fun (x : CodePage) a => Memory.word x.data (a % 4096)
    s.codePage? g.die g.core (s.fnOf g) (s.pasidOf g) (pageOf pc.toNat) = some c →
    s.codePage? g.die g.core (s.fnOf g) (s.pasidOf g) (pageOf (pc.toNat + 4)) = some d →
    (∀ x, s.currentWord g.die g.core (s.fnOf g) (s.pasidOf g) pc.toNat = some x → x = word c pc.toNat) →
    (∀ x, s.currentWord g.die g.core (s.fnOf g) (s.pasidOf g) (pc.toNat + 4) = some x → x = word d (pc.toNat + 4)) →
    (c.direct = true ∧ gid ∈ c.grants) ∨ (∃ e, s.lookup g.die g.core (s.fnOf g) (s.pasidOf g) pc.toNat = some e ∧ e.allows .fetch = true) →
    (d.direct = true ∧ gid ∈ d.grants) ∨ (∃ e, s.lookup g.die g.core (s.fnOf g) (s.pasidOf g) (pc.toNat + 4) = some e ∧ e.allows .fetch = true) →
    s.fetch gid g pc = .words (word c pc.toNat) (if (word c pc.toNat).getLsbD 30 then word d (pc.toNat + 4) else 0)) ∧
  (∀ (s : State) (i : Instr) (r : List Move), s.agenda = .event i :: r → step s = exec i { s with tick := s.tick + 1, agenda := r }) ∧
  (∀ (s : State) (a : Act) (r : List Act), let u := State.stageWork { s with tick := s.tick + 1, stalled := false }
    s.agenda = [] → s.tick % 2 = 1 → u.work = a :: r → step s = runAct a { u with stalled := false, focus := u.nextFocus, work := r })

/-- R38, R40 to R44, R55, R57, R92, R507, R517, R527, R531, R532, R539, R542: what the module holds after reset, where the spec gives it.
What no rule gives a reset value is not stated here. -/
def Obligations.ResetState : Prop :=
  let s := State.reset
  s.ctxs = [] ∧ s.groups = [] ∧ s.teams = [] ∧ s.ready = [] ∧ s.failed = [] ∧ s.MemoriesOk ∧
  (∀ a, s.dram.get a = 0 ∧ s.layer.get a = 0 ∧ s.flash.get a = 0) ∧
  (∀ page, s.deviceBias page = true) ∧ (∀ fn, s.biasOf fn = ⟨0, true, 0, false, none⟩) ∧ (∀ n, s.granules.getD n 0 = 0) ∧
  s.wsEn = false ∧ s.wsBase = 0 ∧
  (∀ die slice, (s.wayp die slice).scrWays = 0 ∧ (s.wayp die slice).ringFloor = 0 ∧ (s.wayp die slice).err = 0 ∧ (s.wayp die slice).busy = false) ∧
  (∀ fn, s.queueOf fn = ⟨0, 0, 0, 4, 4, false, 0, 0, 0, 0, []⟩) ∧
  (∀ q, let p := s.powerOf q
    p.drWait = 64 ∧ p.bankOff = true ∧ p.targetOpp = 0 ∧ p.targetPass = 1 ∧ p.hint = 0 ∧ p.busy = false ∧ p.opp = 0 ∧ p.err = 0 ∧ p.pass = 1 ∧
      p.ls1 = true ∧ p.ls2 = true) ∧
  (∀ l d m, let e := s.linkEnd l d m
    e.spRx = 0 ∧ e.spTx = 0 ∧ e.width = 0 ∧ e.state = 2 ∧ e.thresh = 256 ∧ e.ctlWidth = 0 ∧ e.off = false ∧ e.test = false ∧ e.pause = false ∧
      e.crcErr = 0 ∧ e.retries = 0 ∧ e.rxMap = 0 ∧ e.txMap = 0 ∧ e.laneErr = 0) ∧
  s.boot.state = 0 ∧ s.boot.err = 0 ∧ s.boot.base = 0

/-- The model's memories keep their canonical form (strictly rising addresses, no listed byte that an unlisted one reads as) and the HDM range stays
aligned (R37), in every step of every state, whatever the instruction, the event or the pending work. -/
def Obligations.MemoriesKeepForm : Prop :=
  ∀ s s' : State, s.MemoriesOk → step s = .next s' → s'.MemoriesOk
end

