-- ==== Sys2Proof/Laws/Map.lean ====
section
/-! SUPPORT. Laws of the finite maps. -/

namespace Sys2Proof

variable {α : Type}

@[simp] theorem Map.get?_nil (n : Nat) : Map.get? ([] : Map α) n = none := rfl

theorem Map.get?_cons (k : Nat) (v : α) (r : Map α) (n : Nat) :
    Map.get? ((k, v) :: r) n = if k = n then some v else Map.get? r n := rfl

@[simp] theorem Map.get?_set_self (m : Map α) (n : Nat) (v : α) : (Map.set m n v).get? n = some v := by
  induction m with
  | nil => simp [Map.set, Map.get?]
  | cons e r ih =>
    obtain ⟨k, w⟩ := e
    simp only [Map.set]
    split
    · simp [Map.get?]
    · split
      · simp [Map.get?]
      · simp_all [Map.get?]

theorem Map.get?_set_ne (m : Map α) {n k : Nat} (v : α) (h : n ≠ k) : (Map.set m n v).get? k = m.get? k := by
  induction m with
  | nil => simp [Map.set, Map.get?, h]
  | cons e r ih =>
    obtain ⟨j, w⟩ := e
    simp only [Map.set]
    split
    · simp [Map.get?, h]
    · split
      · subst_vars; simp [Map.get?, h]
      · simp [Map.get?, ih]

theorem Map.get?_set (m : Map α) (n k : Nat) (v : α) : (Map.set m n v).get? k = if n = k then some v else m.get? k := by
  split
  · subst_vars; simp
  · exact Map.get?_set_ne m v ‹_›

theorem Map.get?_erase_ne (m : Map α) {n k : Nat} (h : n ≠ k) : (Map.erase m n).get? k = m.get? k := by
  induction m with
  | nil => rfl
  | cons e r ih =>
    obtain ⟨j, w⟩ := e
    simp only [Map.erase]
    split
    · subst_vars; simp [Map.get?, h]
    · simp [Map.get?, ih]

theorem Map.getD_set (m : Map α) (n k : Nat) (v d : α) : (Map.set m n v).getD k d = if n = k then v else m.getD k d := by
  by_cases h : n = k
  · subst h; simp [Map.getD]
  · simp [Map.getD, Map.get?_set_ne m v h, h]

/-! ## Sorted maps -/

/-- Every key is above n. -/
def Map.above (n : Nat) (m : Map α) : Prop := ∀ e ∈ m, n < e.1

theorem Map.sorted_cons (k : Nat) (v : α) (r : Map α) : Map.sorted ((k, v) :: r) = true ↔ Map.above k r ∧ Map.sorted r = true := by
  induction r generalizing k v with
  | nil => simp [Map.sorted, Map.above]
  | cons e t ih =>
    obtain ⟨j, w⟩ := e
    simp only [Map.sorted, Bool.and_eq_true, decide_eq_true_eq]
    rw [ih j w]
    constructor
    · rintro ⟨h, ha, hs⟩
      refine ⟨?_, ha, hs⟩
      intro e he
      rcases List.mem_cons.1 he with rfl | he
      · exact h
      · exact Nat.lt_trans h (ha e he)
    · rintro ⟨ha, hb⟩
      exact ⟨ha (j, w) (by simp), hb⟩

theorem Map.above_set {n k : Nat} {m : Map α} (v : α) (h : Map.above n m) (hk : n < k) : Map.above n (Map.set m k v) := by
  induction m with
  | nil => intro e he; simp [Map.set] at he; subst he; exact hk
  | cons e r ih =>
    obtain ⟨j, w⟩ := e
    have hr : Map.above n r := fun e he => h e (List.mem_cons_of_mem _ he)
    have hj : n < j := h (j, w) (by simp)
    simp only [Map.set]
    split
    · intro e he
      rcases List.mem_cons.1 he with rfl | he
      · exact hk
      · exact h e he
    · split
      · intro e he
        rcases List.mem_cons.1 he with rfl | he
        · exact hk
        · exact hr e he
      · intro e he
        rcases List.mem_cons.1 he with rfl | he
        · exact hj
        · exact ih hr e he

theorem Map.sorted_set (m : Map α) (n : Nat) (v : α) (h : Map.sorted m = true) : Map.sorted (Map.set m n v) = true := by
  induction m with
  | nil => rfl
  | cons e r ih =>
    obtain ⟨k, w⟩ := e
    obtain ⟨ha, hs⟩ := (Map.sorted_cons k w r).1 h
    simp only [Map.set]
    split
    · rename_i hlt
      refine (Map.sorted_cons n v _).2 ⟨?_, h⟩
      intro e he
      rcases List.mem_cons.1 he with rfl | he
      · exact hlt
      · exact Nat.lt_trans hlt (ha e he)
    · split
      · subst_vars; exact (Map.sorted_cons _ v r).2 ⟨ha, hs⟩
      · exact (Map.sorted_cons k w _).2 ⟨Map.above_set v ha (by omega), ih hs⟩

theorem Map.sorted_sublist {m t : Map α} (ht : t.Sublist m) (h : Map.sorted m = true) : Map.sorted t = true := by
  induction ht with
  | slnil => rfl
  | @cons l r e hs ih =>
    obtain ⟨k, w⟩ := e
    exact ih ((Map.sorted_cons k w r).1 h).2
  | @cons_cons l r e hs ih =>
    obtain ⟨k, w⟩ := e
    obtain ⟨ha, hr⟩ := (Map.sorted_cons k w r).1 h
    exact (Map.sorted_cons k w l).2 ⟨fun e he => ha e (hs.subset he), ih hr⟩

theorem Map.erase_sublist (m : Map α) (n : Nat) : (Map.erase m n).Sublist m := by
  induction m with
  | nil => simp [Map.erase]
  | cons e r ih =>
    obtain ⟨k, w⟩ := e
    simp only [Map.erase]
    split
    · exact List.sublist_cons_self _ _
    · exact ih.cons_cons _

theorem Map.sorted_erase (m : Map α) (n : Nat) (h : Map.sorted m = true) : Map.sorted (Map.erase m n) = true :=
  Map.sorted_sublist (Map.erase_sublist m n) h

theorem Map.sorted_filter (m : Map α) (p : Nat × α → Bool) (h : Map.sorted m = true) : Map.sorted (m.filter p) = true :=
  Map.sorted_sublist List.filter_sublist h

theorem Map.get?_above {n : Nat} {m : Map α} (h : Map.above n m) : m.get? n = none := by
  induction m with
  | nil => rfl
  | cons e r ih =>
    obtain ⟨k, w⟩ := e
    have hk : n < k := h (k, w) (by simp)
    rw [Map.get?_cons, if_neg (by omega)]
    exact ih fun e he => h e (List.mem_cons_of_mem _ he)

theorem Map.get?_erase_self (m : Map α) (n : Nat) (h : Map.sorted m = true) : (Map.erase m n).get? n = none := by
  induction m with
  | nil => rfl
  | cons e r ih =>
    obtain ⟨k, w⟩ := e
    obtain ⟨ha, hs⟩ := (Map.sorted_cons k w r).1 h
    simp only [Map.erase]
    split
    · subst_vars; exact Map.get?_above ha
    · rw [Map.get?_cons, if_neg ‹_›]; exact ih hs

theorem Map.mem_set {m : Map α} {n : Nat} {v : α} {e : Nat × α} (h : e ∈ Map.set m n v) : e = (n, v) ∨ e ∈ m := by
  induction m with
  | nil => simpa [Map.set] using h
  | cons f r ih =>
    obtain ⟨k, w⟩ := f
    simp only [Map.set] at h
    split at h
    · simpa using h
    · split at h
      · rcases List.mem_cons.1 h with rfl | h
        · exact Or.inl rfl
        · exact Or.inr (List.mem_cons_of_mem _ h)
      · rcases List.mem_cons.1 h with rfl | h
        · simp
        · rcases ih h with h | h
          · exact Or.inl h
          · exact Or.inr (List.mem_cons_of_mem _ h)

end Sys2Proof
end

