-- ==== Sys2Proof/Laws/State.lean ====
section
/-! SUPPORT. What each update of a record does to each field. -/

namespace Sys2Proof.Machine

@[simp] theorem State.setGroup_agenda (s : State) (k : Nat) (x : Group) : (s.setGroup k x).agenda = s.agenda := rfl
@[simp] theorem State.setGroup_work (s : State) (k : Nat) (x : Group) : (s.setGroup k x).work = s.work := rfl
@[simp] theorem State.setGroup_focus (s : State) (k : Nat) (x : Group) : (s.setGroup k x).focus = s.focus := rfl
@[simp] theorem State.setGroup_stalled (s : State) (k : Nat) (x : Group) : (s.setGroup k x).stalled = s.stalled := rfl
@[simp] theorem State.setGroup_tick (s : State) (k : Nat) (x : Group) : (s.setGroup k x).tick = s.tick := rfl
@[simp] theorem State.setGroup_nextId (s : State) (k : Nat) (x : Group) : (s.setGroup k x).nextId = s.nextId := rfl
@[simp] theorem State.setGroup_host (s : State) (k : Nat) (x : Group) : (s.setGroup k x).host = s.host := rfl
@[simp] theorem State.setGroup_dram (s : State) (k : Nat) (x : Group) : (s.setGroup k x).dram = s.dram := rfl
@[simp] theorem State.setGroup_flash (s : State) (k : Nat) (x : Group) : (s.setGroup k x).flash = s.flash := rfl
@[simp] theorem State.setGroup_layer (s : State) (k : Nat) (x : Group) : (s.setGroup k x).layer = s.layer := rfl
@[simp] theorem State.setGroup_hostBad (s : State) (k : Nat) (x : Group) : (s.setGroup k x).hostBad = s.hostBad := rfl
@[simp] theorem State.setGroup_dramBad (s : State) (k : Nat) (x : Group) : (s.setGroup k x).dramBad = s.dramBad := rfl
@[simp] theorem State.setGroup_layerBad (s : State) (k : Nat) (x : Group) : (s.setGroup k x).layerBad = s.layerBad := rfl
@[simp] theorem State.setGroup_flashBad (s : State) (k : Nat) (x : Group) : (s.setGroup k x).flashBad = s.flashBad := rfl
@[simp] theorem State.setGroup_staged (s : State) (k : Nat) (x : Group) : (s.setGroup k x).staged = s.staged := rfl
@[simp] theorem State.setGroup_hdm (s : State) (k : Nat) (x : Group) : (s.setGroup k x).hdm = s.hdm := rfl
@[simp] theorem State.setGroup_wsBase (s : State) (k : Nat) (x : Group) : (s.setGroup k x).wsBase = s.wsBase := rfl
@[simp] theorem State.setGroup_wsEn (s : State) (k : Nat) (x : Group) : (s.setGroup k x).wsEn = s.wsEn := rfl
@[simp] theorem State.setGroup_hostBias (s : State) (k : Nat) (x : Group) : (s.setGroup k x).hostBias = s.hostBias := rfl
@[simp] theorem State.setGroup_hostLines (s : State) (k : Nat) (x : Group) : (s.setGroup k x).hostLines = s.hostLines := rfl
@[simp] theorem State.setGroup_hostLineBad (s : State) (k : Nat) (x : Group) : (s.setGroup k x).hostLineBad = s.hostLineBad := rfl
@[simp] theorem State.setGroup_cxlLines (s : State) (k : Nat) (x : Group) : (s.setGroup k x).cxlLines = s.cxlLines := rfl
@[simp] theorem State.setGroup_crcBad (s : State) (k : Nat) (x : Group) : (s.setGroup k x).crcBad = s.crcBad := rfl
@[simp] theorem State.setGroup_ioMap (s : State) (k : Nat) (x : Group) : (s.setGroup k x).ioMap = s.ioMap := rfl
@[simp] theorem State.setGroup_bias (s : State) (k : Nat) (x : Group) : (s.setGroup k x).bias = s.bias := rfl
@[simp] theorem State.setGroup_granules (s : State) (k : Nat) (x : Group) : (s.setGroup k x).granules = s.granules := rfl
@[simp] theorem State.setGroup_ecc (s : State) (k : Nat) (x : Group) : (s.setGroup k x).ecc = s.ecc := rfl
@[simp] theorem State.setGroup_mck (s : State) (k : Nat) (x : Group) : (s.setGroup k x).mck = s.mck := rfl
@[simp] theorem State.setGroup_l1 (s : State) (k : Nat) (x : Group) : (s.setGroup k x).l1 = s.l1 := rfl
@[simp] theorem State.setGroup_dieTlb (s : State) (k : Nat) (x : Group) : (s.setGroup k x).dieTlb = s.dieTlb := rfl
@[simp] theorem State.setGroup_ats (s : State) (k : Nat) (x : Group) : (s.setGroup k x).ats = s.ats := rfl
@[simp] theorem State.setGroup_pri (s : State) (k : Nat) (x : Group) : (s.setGroup k x).pri = s.pri := rfl
@[simp] theorem State.setGroup_priOff (s : State) (k : Nat) (x : Group) : (s.setGroup k x).priOff = s.priOff := rfl
@[simp] theorem State.setGroup_priAlloc (s : State) (k : Nat) (x : Group) : (s.setGroup k x).priAlloc = s.priAlloc := rfl
@[simp] theorem State.setGroup_waits (s : State) (k : Nat) (x : Group) : (s.setGroup k x).waits = s.waits := rfl
@[simp] theorem State.setGroup_invs (s : State) (k : Nat) (x : Group) : (s.setGroup k x).invs = s.invs := rfl
@[simp] theorem State.setGroup_flushing (s : State) (k : Nat) (x : Group) : (s.setGroup k x).flushing = s.flushing := rfl
@[simp] theorem State.setGroup_waypart (s : State) (k : Nat) (x : Group) : (s.setGroup k x).waypart = s.waypart := rfl
@[simp] theorem State.setGroup_groups (s : State) (k : Nat) (x : Group) : (s.setGroup k x).groups = s.groups.set k x := rfl
@[simp] theorem State.setGroup_teams (s : State) (k : Nat) (x : Group) : (s.setGroup k x).teams = s.teams := rfl
@[simp] theorem State.setGroup_grids (s : State) (k : Nat) (x : Group) : (s.setGroup k x).grids = s.grids := rfl
@[simp] theorem State.setGroup_ctxs (s : State) (k : Nat) (x : Group) : (s.setGroup k x).ctxs = s.ctxs := rfl
@[simp] theorem State.setGroup_books (s : State) (k : Nat) (x : Group) : (s.setGroup k x).books = s.books := rfl
@[simp] theorem State.setGroup_queues (s : State) (k : Nat) (x : Group) : (s.setGroup k x).queues = s.queues := rfl
@[simp] theorem State.setGroup_deques (s : State) (k : Nat) (x : Group) : (s.setGroup k x).deques = s.deques := rfl
@[simp] theorem State.setGroup_mailboxes (s : State) (k : Nat) (x : Group) : (s.setGroup k x).mailboxes = s.mailboxes := rfl
@[simp] theorem State.setGroup_syncRecs (s : State) (k : Nat) (x : Group) : (s.setGroup k x).syncRecs = s.syncRecs := rfl
@[simp] theorem State.setGroup_acks (s : State) (k : Nat) (x : Group) : (s.setGroup k x).acks = s.acks := rfl
@[simp] theorem State.setGroup_codePages (s : State) (k : Nat) (x : Group) : (s.setGroup k x).codePages = s.codePages := rfl
@[simp] theorem State.setGroup_stops (s : State) (k : Nat) (x : Group) : (s.setGroup k x).stops = s.stops := rfl
@[simp] theorem State.setGroup_quadOwner (s : State) (k : Nat) (x : Group) : (s.setGroup k x).quadOwner = s.quadOwner := rfl
@[simp] theorem State.setGroup_vacating (s : State) (k : Nat) (x : Group) : (s.setGroup k x).vacating = s.vacating := rfl
@[simp] theorem State.setGroup_vacated (s : State) (k : Nat) (x : Group) : (s.setGroup k x).vacated = s.vacated := rfl
@[simp] theorem State.setGroup_zeroing (s : State) (k : Nat) (x : Group) : (s.setGroup k x).zeroing = s.zeroing := rfl
@[simp] theorem State.setGroup_power (s : State) (k : Nat) (x : Group) : (s.setGroup k x).power = s.power := rfl
@[simp] theorem State.setGroup_rise (s : State) (k : Nat) (x : Group) : (s.setGroup k x).rise = s.rise := rfl
@[simp] theorem State.setGroup_drowsy (s : State) (k : Nat) (x : Group) : (s.setGroup k x).drowsy = s.drowsy := rfl
@[simp] theorem State.setGroup_hq (s : State) (k : Nat) (x : Group) : (s.setGroup k x).hq = s.hq := rfl
@[simp] theorem State.setGroup_jobs (s : State) (k : Nat) (x : Group) : (s.setGroup k x).jobs = s.jobs := rfl
@[simp] theorem State.setGroup_msix (s : State) (k : Nat) (x : Group) : (s.setGroup k x).msix = s.msix := rfl
@[simp] theorem State.setGroup_vectors (s : State) (k : Nat) (x : Group) : (s.setGroup k x).vectors = s.vectors := rfl
@[simp] theorem State.setGroup_linkEnds (s : State) (k : Nat) (x : Group) : (s.setGroup k x).linkEnds = s.linkEnds := rfl
@[simp] theorem State.setGroup_linkDirs (s : State) (k : Nat) (x : Group) : (s.setGroup k x).linkDirs = s.linkDirs := rfl
@[simp] theorem State.setGroup_arrived (s : State) (k : Nat) (x : Group) : (s.setGroup k x).arrived = s.arrived := rfl
@[simp] theorem State.setGroup_services (s : State) (k : Nat) (x : Group) : (s.setGroup k x).services = s.services := rfl
@[simp] theorem State.setGroup_windowStart (s : State) (k : Nat) (x : Group) : (s.setGroup k x).windowStart = s.windowStart := rfl
@[simp] theorem State.setGroup_lostLinks (s : State) (k : Nat) (x : Group) : (s.setGroup k x).lostLinks = s.lostLinks := rfl
@[simp] theorem State.setGroup_boot (s : State) (k : Nat) (x : Group) : (s.setGroup k x).boot = s.boot := rfl
@[simp] theorem State.setGroup_ready (s : State) (k : Nat) (x : Group) : (s.setGroup k x).ready = s.ready := rfl
@[simp] theorem State.setGroup_failed (s : State) (k : Nat) (x : Group) : (s.setGroup k x).failed = s.failed := rfl
@[simp] theorem State.setGroup_spdm (s : State) (k : Nat) (x : Group) : (s.setGroup k x).spdm = s.spdm := rfl
@[simp] theorem State.setGroup_hostReply (s : State) (k : Nat) (x : Group) : (s.setGroup k x).hostReply = s.hostReply := rfl
@[simp] theorem State.setGroup_mgmtReply (s : State) (k : Nat) (x : Group) : (s.setGroup k x).mgmtReply = s.mgmtReply := rfl
@[simp] theorem State.setGroup_cycles (s : State) (k : Nat) (x : Group) : (s.setGroup k x).cycles = s.cycles := rfl
@[simp] theorem State.setGroup_dead (s : State) (k : Nat) (x : Group) : (s.setGroup k x).dead = s.dead := rfl

@[simp] theorem State.setTeam_agenda (s : State) (k : Nat) (x : Team) : (s.setTeam k x).agenda = s.agenda := rfl
@[simp] theorem State.setTeam_work (s : State) (k : Nat) (x : Team) : (s.setTeam k x).work = s.work := rfl
@[simp] theorem State.setTeam_focus (s : State) (k : Nat) (x : Team) : (s.setTeam k x).focus = s.focus := rfl
@[simp] theorem State.setTeam_stalled (s : State) (k : Nat) (x : Team) : (s.setTeam k x).stalled = s.stalled := rfl
@[simp] theorem State.setTeam_tick (s : State) (k : Nat) (x : Team) : (s.setTeam k x).tick = s.tick := rfl
@[simp] theorem State.setTeam_nextId (s : State) (k : Nat) (x : Team) : (s.setTeam k x).nextId = s.nextId := rfl
@[simp] theorem State.setTeam_host (s : State) (k : Nat) (x : Team) : (s.setTeam k x).host = s.host := rfl
@[simp] theorem State.setTeam_dram (s : State) (k : Nat) (x : Team) : (s.setTeam k x).dram = s.dram := rfl
@[simp] theorem State.setTeam_flash (s : State) (k : Nat) (x : Team) : (s.setTeam k x).flash = s.flash := rfl
@[simp] theorem State.setTeam_layer (s : State) (k : Nat) (x : Team) : (s.setTeam k x).layer = s.layer := rfl
@[simp] theorem State.setTeam_hostBad (s : State) (k : Nat) (x : Team) : (s.setTeam k x).hostBad = s.hostBad := rfl
@[simp] theorem State.setTeam_dramBad (s : State) (k : Nat) (x : Team) : (s.setTeam k x).dramBad = s.dramBad := rfl
@[simp] theorem State.setTeam_layerBad (s : State) (k : Nat) (x : Team) : (s.setTeam k x).layerBad = s.layerBad := rfl
@[simp] theorem State.setTeam_flashBad (s : State) (k : Nat) (x : Team) : (s.setTeam k x).flashBad = s.flashBad := rfl
@[simp] theorem State.setTeam_staged (s : State) (k : Nat) (x : Team) : (s.setTeam k x).staged = s.staged := rfl
@[simp] theorem State.setTeam_hdm (s : State) (k : Nat) (x : Team) : (s.setTeam k x).hdm = s.hdm := rfl
@[simp] theorem State.setTeam_wsBase (s : State) (k : Nat) (x : Team) : (s.setTeam k x).wsBase = s.wsBase := rfl
@[simp] theorem State.setTeam_wsEn (s : State) (k : Nat) (x : Team) : (s.setTeam k x).wsEn = s.wsEn := rfl
@[simp] theorem State.setTeam_hostBias (s : State) (k : Nat) (x : Team) : (s.setTeam k x).hostBias = s.hostBias := rfl
@[simp] theorem State.setTeam_hostLines (s : State) (k : Nat) (x : Team) : (s.setTeam k x).hostLines = s.hostLines := rfl
@[simp] theorem State.setTeam_hostLineBad (s : State) (k : Nat) (x : Team) : (s.setTeam k x).hostLineBad = s.hostLineBad := rfl
@[simp] theorem State.setTeam_cxlLines (s : State) (k : Nat) (x : Team) : (s.setTeam k x).cxlLines = s.cxlLines := rfl
@[simp] theorem State.setTeam_crcBad (s : State) (k : Nat) (x : Team) : (s.setTeam k x).crcBad = s.crcBad := rfl
@[simp] theorem State.setTeam_ioMap (s : State) (k : Nat) (x : Team) : (s.setTeam k x).ioMap = s.ioMap := rfl
@[simp] theorem State.setTeam_bias (s : State) (k : Nat) (x : Team) : (s.setTeam k x).bias = s.bias := rfl
@[simp] theorem State.setTeam_granules (s : State) (k : Nat) (x : Team) : (s.setTeam k x).granules = s.granules := rfl
@[simp] theorem State.setTeam_ecc (s : State) (k : Nat) (x : Team) : (s.setTeam k x).ecc = s.ecc := rfl
@[simp] theorem State.setTeam_mck (s : State) (k : Nat) (x : Team) : (s.setTeam k x).mck = s.mck := rfl
@[simp] theorem State.setTeam_l1 (s : State) (k : Nat) (x : Team) : (s.setTeam k x).l1 = s.l1 := rfl
@[simp] theorem State.setTeam_dieTlb (s : State) (k : Nat) (x : Team) : (s.setTeam k x).dieTlb = s.dieTlb := rfl
@[simp] theorem State.setTeam_ats (s : State) (k : Nat) (x : Team) : (s.setTeam k x).ats = s.ats := rfl
@[simp] theorem State.setTeam_pri (s : State) (k : Nat) (x : Team) : (s.setTeam k x).pri = s.pri := rfl
@[simp] theorem State.setTeam_priOff (s : State) (k : Nat) (x : Team) : (s.setTeam k x).priOff = s.priOff := rfl
@[simp] theorem State.setTeam_priAlloc (s : State) (k : Nat) (x : Team) : (s.setTeam k x).priAlloc = s.priAlloc := rfl
@[simp] theorem State.setTeam_waits (s : State) (k : Nat) (x : Team) : (s.setTeam k x).waits = s.waits := rfl
@[simp] theorem State.setTeam_invs (s : State) (k : Nat) (x : Team) : (s.setTeam k x).invs = s.invs := rfl
@[simp] theorem State.setTeam_flushing (s : State) (k : Nat) (x : Team) : (s.setTeam k x).flushing = s.flushing := rfl
@[simp] theorem State.setTeam_waypart (s : State) (k : Nat) (x : Team) : (s.setTeam k x).waypart = s.waypart := rfl
@[simp] theorem State.setTeam_groups (s : State) (k : Nat) (x : Team) : (s.setTeam k x).groups = s.groups := rfl
@[simp] theorem State.setTeam_teams (s : State) (k : Nat) (x : Team) : (s.setTeam k x).teams = s.teams.set k x := rfl
@[simp] theorem State.setTeam_grids (s : State) (k : Nat) (x : Team) : (s.setTeam k x).grids = s.grids := rfl
@[simp] theorem State.setTeam_ctxs (s : State) (k : Nat) (x : Team) : (s.setTeam k x).ctxs = s.ctxs := rfl
@[simp] theorem State.setTeam_books (s : State) (k : Nat) (x : Team) : (s.setTeam k x).books = s.books := rfl
@[simp] theorem State.setTeam_queues (s : State) (k : Nat) (x : Team) : (s.setTeam k x).queues = s.queues := rfl
@[simp] theorem State.setTeam_deques (s : State) (k : Nat) (x : Team) : (s.setTeam k x).deques = s.deques := rfl
@[simp] theorem State.setTeam_mailboxes (s : State) (k : Nat) (x : Team) : (s.setTeam k x).mailboxes = s.mailboxes := rfl
@[simp] theorem State.setTeam_syncRecs (s : State) (k : Nat) (x : Team) : (s.setTeam k x).syncRecs = s.syncRecs := rfl
@[simp] theorem State.setTeam_acks (s : State) (k : Nat) (x : Team) : (s.setTeam k x).acks = s.acks := rfl
@[simp] theorem State.setTeam_codePages (s : State) (k : Nat) (x : Team) : (s.setTeam k x).codePages = s.codePages := rfl
@[simp] theorem State.setTeam_stops (s : State) (k : Nat) (x : Team) : (s.setTeam k x).stops = s.stops := rfl
@[simp] theorem State.setTeam_quadOwner (s : State) (k : Nat) (x : Team) : (s.setTeam k x).quadOwner = s.quadOwner := rfl
@[simp] theorem State.setTeam_vacating (s : State) (k : Nat) (x : Team) : (s.setTeam k x).vacating = s.vacating := rfl
@[simp] theorem State.setTeam_vacated (s : State) (k : Nat) (x : Team) : (s.setTeam k x).vacated = s.vacated := rfl
@[simp] theorem State.setTeam_zeroing (s : State) (k : Nat) (x : Team) : (s.setTeam k x).zeroing = s.zeroing := rfl
@[simp] theorem State.setTeam_power (s : State) (k : Nat) (x : Team) : (s.setTeam k x).power = s.power := rfl
@[simp] theorem State.setTeam_rise (s : State) (k : Nat) (x : Team) : (s.setTeam k x).rise = s.rise := rfl
@[simp] theorem State.setTeam_drowsy (s : State) (k : Nat) (x : Team) : (s.setTeam k x).drowsy = s.drowsy := rfl
@[simp] theorem State.setTeam_hq (s : State) (k : Nat) (x : Team) : (s.setTeam k x).hq = s.hq := rfl
@[simp] theorem State.setTeam_jobs (s : State) (k : Nat) (x : Team) : (s.setTeam k x).jobs = s.jobs := rfl
@[simp] theorem State.setTeam_msix (s : State) (k : Nat) (x : Team) : (s.setTeam k x).msix = s.msix := rfl
@[simp] theorem State.setTeam_vectors (s : State) (k : Nat) (x : Team) : (s.setTeam k x).vectors = s.vectors := rfl
@[simp] theorem State.setTeam_linkEnds (s : State) (k : Nat) (x : Team) : (s.setTeam k x).linkEnds = s.linkEnds := rfl
@[simp] theorem State.setTeam_linkDirs (s : State) (k : Nat) (x : Team) : (s.setTeam k x).linkDirs = s.linkDirs := rfl
@[simp] theorem State.setTeam_arrived (s : State) (k : Nat) (x : Team) : (s.setTeam k x).arrived = s.arrived := rfl
@[simp] theorem State.setTeam_services (s : State) (k : Nat) (x : Team) : (s.setTeam k x).services = s.services := rfl
@[simp] theorem State.setTeam_windowStart (s : State) (k : Nat) (x : Team) : (s.setTeam k x).windowStart = s.windowStart := rfl
@[simp] theorem State.setTeam_lostLinks (s : State) (k : Nat) (x : Team) : (s.setTeam k x).lostLinks = s.lostLinks := rfl
@[simp] theorem State.setTeam_boot (s : State) (k : Nat) (x : Team) : (s.setTeam k x).boot = s.boot := rfl
@[simp] theorem State.setTeam_ready (s : State) (k : Nat) (x : Team) : (s.setTeam k x).ready = s.ready := rfl
@[simp] theorem State.setTeam_failed (s : State) (k : Nat) (x : Team) : (s.setTeam k x).failed = s.failed := rfl
@[simp] theorem State.setTeam_spdm (s : State) (k : Nat) (x : Team) : (s.setTeam k x).spdm = s.spdm := rfl
@[simp] theorem State.setTeam_hostReply (s : State) (k : Nat) (x : Team) : (s.setTeam k x).hostReply = s.hostReply := rfl
@[simp] theorem State.setTeam_mgmtReply (s : State) (k : Nat) (x : Team) : (s.setTeam k x).mgmtReply = s.mgmtReply := rfl
@[simp] theorem State.setTeam_cycles (s : State) (k : Nat) (x : Team) : (s.setTeam k x).cycles = s.cycles := rfl
@[simp] theorem State.setTeam_dead (s : State) (k : Nat) (x : Team) : (s.setTeam k x).dead = s.dead := rfl

@[simp] theorem State.setCtx_agenda (s : State) (k : Nat) (x : Ctx) : (s.setCtx k x).agenda = s.agenda := rfl
@[simp] theorem State.setCtx_work (s : State) (k : Nat) (x : Ctx) : (s.setCtx k x).work = s.work := rfl
@[simp] theorem State.setCtx_focus (s : State) (k : Nat) (x : Ctx) : (s.setCtx k x).focus = s.focus := rfl
@[simp] theorem State.setCtx_stalled (s : State) (k : Nat) (x : Ctx) : (s.setCtx k x).stalled = s.stalled := rfl
@[simp] theorem State.setCtx_tick (s : State) (k : Nat) (x : Ctx) : (s.setCtx k x).tick = s.tick := rfl
@[simp] theorem State.setCtx_nextId (s : State) (k : Nat) (x : Ctx) : (s.setCtx k x).nextId = s.nextId := rfl
@[simp] theorem State.setCtx_host (s : State) (k : Nat) (x : Ctx) : (s.setCtx k x).host = s.host := rfl
@[simp] theorem State.setCtx_dram (s : State) (k : Nat) (x : Ctx) : (s.setCtx k x).dram = s.dram := rfl
@[simp] theorem State.setCtx_flash (s : State) (k : Nat) (x : Ctx) : (s.setCtx k x).flash = s.flash := rfl
@[simp] theorem State.setCtx_layer (s : State) (k : Nat) (x : Ctx) : (s.setCtx k x).layer = s.layer := rfl
@[simp] theorem State.setCtx_hostBad (s : State) (k : Nat) (x : Ctx) : (s.setCtx k x).hostBad = s.hostBad := rfl
@[simp] theorem State.setCtx_dramBad (s : State) (k : Nat) (x : Ctx) : (s.setCtx k x).dramBad = s.dramBad := rfl
@[simp] theorem State.setCtx_layerBad (s : State) (k : Nat) (x : Ctx) : (s.setCtx k x).layerBad = s.layerBad := rfl
@[simp] theorem State.setCtx_flashBad (s : State) (k : Nat) (x : Ctx) : (s.setCtx k x).flashBad = s.flashBad := rfl
@[simp] theorem State.setCtx_staged (s : State) (k : Nat) (x : Ctx) : (s.setCtx k x).staged = s.staged := rfl
@[simp] theorem State.setCtx_hdm (s : State) (k : Nat) (x : Ctx) : (s.setCtx k x).hdm = s.hdm := rfl
@[simp] theorem State.setCtx_wsBase (s : State) (k : Nat) (x : Ctx) : (s.setCtx k x).wsBase = s.wsBase := rfl
@[simp] theorem State.setCtx_wsEn (s : State) (k : Nat) (x : Ctx) : (s.setCtx k x).wsEn = s.wsEn := rfl
@[simp] theorem State.setCtx_hostBias (s : State) (k : Nat) (x : Ctx) : (s.setCtx k x).hostBias = s.hostBias := rfl
@[simp] theorem State.setCtx_hostLines (s : State) (k : Nat) (x : Ctx) : (s.setCtx k x).hostLines = s.hostLines := rfl
@[simp] theorem State.setCtx_hostLineBad (s : State) (k : Nat) (x : Ctx) : (s.setCtx k x).hostLineBad = s.hostLineBad := rfl
@[simp] theorem State.setCtx_cxlLines (s : State) (k : Nat) (x : Ctx) : (s.setCtx k x).cxlLines = s.cxlLines := rfl
@[simp] theorem State.setCtx_crcBad (s : State) (k : Nat) (x : Ctx) : (s.setCtx k x).crcBad = s.crcBad := rfl
@[simp] theorem State.setCtx_ioMap (s : State) (k : Nat) (x : Ctx) : (s.setCtx k x).ioMap = s.ioMap := rfl
@[simp] theorem State.setCtx_bias (s : State) (k : Nat) (x : Ctx) : (s.setCtx k x).bias = s.bias := rfl
@[simp] theorem State.setCtx_granules (s : State) (k : Nat) (x : Ctx) : (s.setCtx k x).granules = s.granules := rfl
@[simp] theorem State.setCtx_ecc (s : State) (k : Nat) (x : Ctx) : (s.setCtx k x).ecc = s.ecc := rfl
@[simp] theorem State.setCtx_mck (s : State) (k : Nat) (x : Ctx) : (s.setCtx k x).mck = s.mck := rfl
@[simp] theorem State.setCtx_l1 (s : State) (k : Nat) (x : Ctx) : (s.setCtx k x).l1 = s.l1 := rfl
@[simp] theorem State.setCtx_dieTlb (s : State) (k : Nat) (x : Ctx) : (s.setCtx k x).dieTlb = s.dieTlb := rfl
@[simp] theorem State.setCtx_ats (s : State) (k : Nat) (x : Ctx) : (s.setCtx k x).ats = s.ats := rfl
@[simp] theorem State.setCtx_pri (s : State) (k : Nat) (x : Ctx) : (s.setCtx k x).pri = s.pri := rfl
@[simp] theorem State.setCtx_priOff (s : State) (k : Nat) (x : Ctx) : (s.setCtx k x).priOff = s.priOff := rfl
@[simp] theorem State.setCtx_priAlloc (s : State) (k : Nat) (x : Ctx) : (s.setCtx k x).priAlloc = s.priAlloc := rfl
@[simp] theorem State.setCtx_waits (s : State) (k : Nat) (x : Ctx) : (s.setCtx k x).waits = s.waits := rfl
@[simp] theorem State.setCtx_invs (s : State) (k : Nat) (x : Ctx) : (s.setCtx k x).invs = s.invs := rfl
@[simp] theorem State.setCtx_flushing (s : State) (k : Nat) (x : Ctx) : (s.setCtx k x).flushing = s.flushing := rfl
@[simp] theorem State.setCtx_waypart (s : State) (k : Nat) (x : Ctx) : (s.setCtx k x).waypart = s.waypart := rfl
@[simp] theorem State.setCtx_groups (s : State) (k : Nat) (x : Ctx) : (s.setCtx k x).groups = s.groups := rfl
@[simp] theorem State.setCtx_teams (s : State) (k : Nat) (x : Ctx) : (s.setCtx k x).teams = s.teams := rfl
@[simp] theorem State.setCtx_grids (s : State) (k : Nat) (x : Ctx) : (s.setCtx k x).grids = s.grids := rfl
@[simp] theorem State.setCtx_ctxs (s : State) (k : Nat) (x : Ctx) : (s.setCtx k x).ctxs = s.ctxs.set k x := rfl
@[simp] theorem State.setCtx_books (s : State) (k : Nat) (x : Ctx) : (s.setCtx k x).books = s.books := rfl
@[simp] theorem State.setCtx_queues (s : State) (k : Nat) (x : Ctx) : (s.setCtx k x).queues = s.queues := rfl
@[simp] theorem State.setCtx_deques (s : State) (k : Nat) (x : Ctx) : (s.setCtx k x).deques = s.deques := rfl
@[simp] theorem State.setCtx_mailboxes (s : State) (k : Nat) (x : Ctx) : (s.setCtx k x).mailboxes = s.mailboxes := rfl
@[simp] theorem State.setCtx_syncRecs (s : State) (k : Nat) (x : Ctx) : (s.setCtx k x).syncRecs = s.syncRecs := rfl
@[simp] theorem State.setCtx_acks (s : State) (k : Nat) (x : Ctx) : (s.setCtx k x).acks = s.acks := rfl
@[simp] theorem State.setCtx_codePages (s : State) (k : Nat) (x : Ctx) : (s.setCtx k x).codePages = s.codePages := rfl
@[simp] theorem State.setCtx_stops (s : State) (k : Nat) (x : Ctx) : (s.setCtx k x).stops = s.stops := rfl
@[simp] theorem State.setCtx_quadOwner (s : State) (k : Nat) (x : Ctx) : (s.setCtx k x).quadOwner = s.quadOwner := rfl
@[simp] theorem State.setCtx_vacating (s : State) (k : Nat) (x : Ctx) : (s.setCtx k x).vacating = s.vacating := rfl
@[simp] theorem State.setCtx_vacated (s : State) (k : Nat) (x : Ctx) : (s.setCtx k x).vacated = s.vacated := rfl
@[simp] theorem State.setCtx_zeroing (s : State) (k : Nat) (x : Ctx) : (s.setCtx k x).zeroing = s.zeroing := rfl
@[simp] theorem State.setCtx_power (s : State) (k : Nat) (x : Ctx) : (s.setCtx k x).power = s.power := rfl
@[simp] theorem State.setCtx_rise (s : State) (k : Nat) (x : Ctx) : (s.setCtx k x).rise = s.rise := rfl
@[simp] theorem State.setCtx_drowsy (s : State) (k : Nat) (x : Ctx) : (s.setCtx k x).drowsy = s.drowsy := rfl
@[simp] theorem State.setCtx_hq (s : State) (k : Nat) (x : Ctx) : (s.setCtx k x).hq = s.hq := rfl
@[simp] theorem State.setCtx_jobs (s : State) (k : Nat) (x : Ctx) : (s.setCtx k x).jobs = s.jobs := rfl
@[simp] theorem State.setCtx_msix (s : State) (k : Nat) (x : Ctx) : (s.setCtx k x).msix = s.msix := rfl
@[simp] theorem State.setCtx_vectors (s : State) (k : Nat) (x : Ctx) : (s.setCtx k x).vectors = s.vectors := rfl
@[simp] theorem State.setCtx_linkEnds (s : State) (k : Nat) (x : Ctx) : (s.setCtx k x).linkEnds = s.linkEnds := rfl
@[simp] theorem State.setCtx_linkDirs (s : State) (k : Nat) (x : Ctx) : (s.setCtx k x).linkDirs = s.linkDirs := rfl
@[simp] theorem State.setCtx_arrived (s : State) (k : Nat) (x : Ctx) : (s.setCtx k x).arrived = s.arrived := rfl
@[simp] theorem State.setCtx_services (s : State) (k : Nat) (x : Ctx) : (s.setCtx k x).services = s.services := rfl
@[simp] theorem State.setCtx_windowStart (s : State) (k : Nat) (x : Ctx) : (s.setCtx k x).windowStart = s.windowStart := rfl
@[simp] theorem State.setCtx_lostLinks (s : State) (k : Nat) (x : Ctx) : (s.setCtx k x).lostLinks = s.lostLinks := rfl
@[simp] theorem State.setCtx_boot (s : State) (k : Nat) (x : Ctx) : (s.setCtx k x).boot = s.boot := rfl
@[simp] theorem State.setCtx_ready (s : State) (k : Nat) (x : Ctx) : (s.setCtx k x).ready = s.ready := rfl
@[simp] theorem State.setCtx_failed (s : State) (k : Nat) (x : Ctx) : (s.setCtx k x).failed = s.failed := rfl
@[simp] theorem State.setCtx_spdm (s : State) (k : Nat) (x : Ctx) : (s.setCtx k x).spdm = s.spdm := rfl
@[simp] theorem State.setCtx_hostReply (s : State) (k : Nat) (x : Ctx) : (s.setCtx k x).hostReply = s.hostReply := rfl
@[simp] theorem State.setCtx_mgmtReply (s : State) (k : Nat) (x : Ctx) : (s.setCtx k x).mgmtReply = s.mgmtReply := rfl
@[simp] theorem State.setCtx_cycles (s : State) (k : Nat) (x : Ctx) : (s.setCtx k x).cycles = s.cycles := rfl
@[simp] theorem State.setCtx_dead (s : State) (k : Nat) (x : Ctx) : (s.setCtx k x).dead = s.dead := rfl

@[simp] theorem State.setGrid_agenda (s : State) (k : Nat) (x : Grid) : (s.setGrid k x).agenda = s.agenda := rfl
@[simp] theorem State.setGrid_work (s : State) (k : Nat) (x : Grid) : (s.setGrid k x).work = s.work := rfl
@[simp] theorem State.setGrid_focus (s : State) (k : Nat) (x : Grid) : (s.setGrid k x).focus = s.focus := rfl
@[simp] theorem State.setGrid_stalled (s : State) (k : Nat) (x : Grid) : (s.setGrid k x).stalled = s.stalled := rfl
@[simp] theorem State.setGrid_tick (s : State) (k : Nat) (x : Grid) : (s.setGrid k x).tick = s.tick := rfl
@[simp] theorem State.setGrid_nextId (s : State) (k : Nat) (x : Grid) : (s.setGrid k x).nextId = s.nextId := rfl
@[simp] theorem State.setGrid_host (s : State) (k : Nat) (x : Grid) : (s.setGrid k x).host = s.host := rfl
@[simp] theorem State.setGrid_dram (s : State) (k : Nat) (x : Grid) : (s.setGrid k x).dram = s.dram := rfl
@[simp] theorem State.setGrid_flash (s : State) (k : Nat) (x : Grid) : (s.setGrid k x).flash = s.flash := rfl
@[simp] theorem State.setGrid_layer (s : State) (k : Nat) (x : Grid) : (s.setGrid k x).layer = s.layer := rfl
@[simp] theorem State.setGrid_hostBad (s : State) (k : Nat) (x : Grid) : (s.setGrid k x).hostBad = s.hostBad := rfl
@[simp] theorem State.setGrid_dramBad (s : State) (k : Nat) (x : Grid) : (s.setGrid k x).dramBad = s.dramBad := rfl
@[simp] theorem State.setGrid_layerBad (s : State) (k : Nat) (x : Grid) : (s.setGrid k x).layerBad = s.layerBad := rfl
@[simp] theorem State.setGrid_flashBad (s : State) (k : Nat) (x : Grid) : (s.setGrid k x).flashBad = s.flashBad := rfl
@[simp] theorem State.setGrid_staged (s : State) (k : Nat) (x : Grid) : (s.setGrid k x).staged = s.staged := rfl
@[simp] theorem State.setGrid_hdm (s : State) (k : Nat) (x : Grid) : (s.setGrid k x).hdm = s.hdm := rfl
@[simp] theorem State.setGrid_wsBase (s : State) (k : Nat) (x : Grid) : (s.setGrid k x).wsBase = s.wsBase := rfl
@[simp] theorem State.setGrid_wsEn (s : State) (k : Nat) (x : Grid) : (s.setGrid k x).wsEn = s.wsEn := rfl
@[simp] theorem State.setGrid_hostBias (s : State) (k : Nat) (x : Grid) : (s.setGrid k x).hostBias = s.hostBias := rfl
@[simp] theorem State.setGrid_hostLines (s : State) (k : Nat) (x : Grid) : (s.setGrid k x).hostLines = s.hostLines := rfl
@[simp] theorem State.setGrid_hostLineBad (s : State) (k : Nat) (x : Grid) : (s.setGrid k x).hostLineBad = s.hostLineBad := rfl
@[simp] theorem State.setGrid_cxlLines (s : State) (k : Nat) (x : Grid) : (s.setGrid k x).cxlLines = s.cxlLines := rfl
@[simp] theorem State.setGrid_crcBad (s : State) (k : Nat) (x : Grid) : (s.setGrid k x).crcBad = s.crcBad := rfl
@[simp] theorem State.setGrid_ioMap (s : State) (k : Nat) (x : Grid) : (s.setGrid k x).ioMap = s.ioMap := rfl
@[simp] theorem State.setGrid_bias (s : State) (k : Nat) (x : Grid) : (s.setGrid k x).bias = s.bias := rfl
@[simp] theorem State.setGrid_granules (s : State) (k : Nat) (x : Grid) : (s.setGrid k x).granules = s.granules := rfl
@[simp] theorem State.setGrid_ecc (s : State) (k : Nat) (x : Grid) : (s.setGrid k x).ecc = s.ecc := rfl
@[simp] theorem State.setGrid_mck (s : State) (k : Nat) (x : Grid) : (s.setGrid k x).mck = s.mck := rfl
@[simp] theorem State.setGrid_l1 (s : State) (k : Nat) (x : Grid) : (s.setGrid k x).l1 = s.l1 := rfl
@[simp] theorem State.setGrid_dieTlb (s : State) (k : Nat) (x : Grid) : (s.setGrid k x).dieTlb = s.dieTlb := rfl
@[simp] theorem State.setGrid_ats (s : State) (k : Nat) (x : Grid) : (s.setGrid k x).ats = s.ats := rfl
@[simp] theorem State.setGrid_pri (s : State) (k : Nat) (x : Grid) : (s.setGrid k x).pri = s.pri := rfl
@[simp] theorem State.setGrid_priOff (s : State) (k : Nat) (x : Grid) : (s.setGrid k x).priOff = s.priOff := rfl
@[simp] theorem State.setGrid_priAlloc (s : State) (k : Nat) (x : Grid) : (s.setGrid k x).priAlloc = s.priAlloc := rfl
@[simp] theorem State.setGrid_waits (s : State) (k : Nat) (x : Grid) : (s.setGrid k x).waits = s.waits := rfl
@[simp] theorem State.setGrid_invs (s : State) (k : Nat) (x : Grid) : (s.setGrid k x).invs = s.invs := rfl
@[simp] theorem State.setGrid_flushing (s : State) (k : Nat) (x : Grid) : (s.setGrid k x).flushing = s.flushing := rfl
@[simp] theorem State.setGrid_waypart (s : State) (k : Nat) (x : Grid) : (s.setGrid k x).waypart = s.waypart := rfl
@[simp] theorem State.setGrid_groups (s : State) (k : Nat) (x : Grid) : (s.setGrid k x).groups = s.groups := rfl
@[simp] theorem State.setGrid_teams (s : State) (k : Nat) (x : Grid) : (s.setGrid k x).teams = s.teams := rfl
@[simp] theorem State.setGrid_grids (s : State) (k : Nat) (x : Grid) : (s.setGrid k x).grids = s.grids.set k x := rfl
@[simp] theorem State.setGrid_ctxs (s : State) (k : Nat) (x : Grid) : (s.setGrid k x).ctxs = s.ctxs := rfl
@[simp] theorem State.setGrid_books (s : State) (k : Nat) (x : Grid) : (s.setGrid k x).books = s.books := rfl
@[simp] theorem State.setGrid_queues (s : State) (k : Nat) (x : Grid) : (s.setGrid k x).queues = s.queues := rfl
@[simp] theorem State.setGrid_deques (s : State) (k : Nat) (x : Grid) : (s.setGrid k x).deques = s.deques := rfl
@[simp] theorem State.setGrid_mailboxes (s : State) (k : Nat) (x : Grid) : (s.setGrid k x).mailboxes = s.mailboxes := rfl
@[simp] theorem State.setGrid_syncRecs (s : State) (k : Nat) (x : Grid) : (s.setGrid k x).syncRecs = s.syncRecs := rfl
@[simp] theorem State.setGrid_acks (s : State) (k : Nat) (x : Grid) : (s.setGrid k x).acks = s.acks := rfl
@[simp] theorem State.setGrid_codePages (s : State) (k : Nat) (x : Grid) : (s.setGrid k x).codePages = s.codePages := rfl
@[simp] theorem State.setGrid_stops (s : State) (k : Nat) (x : Grid) : (s.setGrid k x).stops = s.stops := rfl
@[simp] theorem State.setGrid_quadOwner (s : State) (k : Nat) (x : Grid) : (s.setGrid k x).quadOwner = s.quadOwner := rfl
@[simp] theorem State.setGrid_vacating (s : State) (k : Nat) (x : Grid) : (s.setGrid k x).vacating = s.vacating := rfl
@[simp] theorem State.setGrid_vacated (s : State) (k : Nat) (x : Grid) : (s.setGrid k x).vacated = s.vacated := rfl
@[simp] theorem State.setGrid_zeroing (s : State) (k : Nat) (x : Grid) : (s.setGrid k x).zeroing = s.zeroing := rfl
@[simp] theorem State.setGrid_power (s : State) (k : Nat) (x : Grid) : (s.setGrid k x).power = s.power := rfl
@[simp] theorem State.setGrid_rise (s : State) (k : Nat) (x : Grid) : (s.setGrid k x).rise = s.rise := rfl
@[simp] theorem State.setGrid_drowsy (s : State) (k : Nat) (x : Grid) : (s.setGrid k x).drowsy = s.drowsy := rfl
@[simp] theorem State.setGrid_hq (s : State) (k : Nat) (x : Grid) : (s.setGrid k x).hq = s.hq := rfl
@[simp] theorem State.setGrid_jobs (s : State) (k : Nat) (x : Grid) : (s.setGrid k x).jobs = s.jobs := rfl
@[simp] theorem State.setGrid_msix (s : State) (k : Nat) (x : Grid) : (s.setGrid k x).msix = s.msix := rfl
@[simp] theorem State.setGrid_vectors (s : State) (k : Nat) (x : Grid) : (s.setGrid k x).vectors = s.vectors := rfl
@[simp] theorem State.setGrid_linkEnds (s : State) (k : Nat) (x : Grid) : (s.setGrid k x).linkEnds = s.linkEnds := rfl
@[simp] theorem State.setGrid_linkDirs (s : State) (k : Nat) (x : Grid) : (s.setGrid k x).linkDirs = s.linkDirs := rfl
@[simp] theorem State.setGrid_arrived (s : State) (k : Nat) (x : Grid) : (s.setGrid k x).arrived = s.arrived := rfl
@[simp] theorem State.setGrid_services (s : State) (k : Nat) (x : Grid) : (s.setGrid k x).services = s.services := rfl
@[simp] theorem State.setGrid_windowStart (s : State) (k : Nat) (x : Grid) : (s.setGrid k x).windowStart = s.windowStart := rfl
@[simp] theorem State.setGrid_lostLinks (s : State) (k : Nat) (x : Grid) : (s.setGrid k x).lostLinks = s.lostLinks := rfl
@[simp] theorem State.setGrid_boot (s : State) (k : Nat) (x : Grid) : (s.setGrid k x).boot = s.boot := rfl
@[simp] theorem State.setGrid_ready (s : State) (k : Nat) (x : Grid) : (s.setGrid k x).ready = s.ready := rfl
@[simp] theorem State.setGrid_failed (s : State) (k : Nat) (x : Grid) : (s.setGrid k x).failed = s.failed := rfl
@[simp] theorem State.setGrid_spdm (s : State) (k : Nat) (x : Grid) : (s.setGrid k x).spdm = s.spdm := rfl
@[simp] theorem State.setGrid_hostReply (s : State) (k : Nat) (x : Grid) : (s.setGrid k x).hostReply = s.hostReply := rfl
@[simp] theorem State.setGrid_mgmtReply (s : State) (k : Nat) (x : Grid) : (s.setGrid k x).mgmtReply = s.mgmtReply := rfl
@[simp] theorem State.setGrid_cycles (s : State) (k : Nat) (x : Grid) : (s.setGrid k x).cycles = s.cycles := rfl
@[simp] theorem State.setGrid_dead (s : State) (k : Nat) (x : Grid) : (s.setGrid k x).dead = s.dead := rfl

@[simp] theorem State.setBook_agenda (s : State) (k : Nat) (x : Playbill) : (s.setBook k x).agenda = s.agenda := rfl
@[simp] theorem State.setBook_work (s : State) (k : Nat) (x : Playbill) : (s.setBook k x).work = s.work := rfl
@[simp] theorem State.setBook_focus (s : State) (k : Nat) (x : Playbill) : (s.setBook k x).focus = s.focus := rfl
@[simp] theorem State.setBook_stalled (s : State) (k : Nat) (x : Playbill) : (s.setBook k x).stalled = s.stalled := rfl
@[simp] theorem State.setBook_tick (s : State) (k : Nat) (x : Playbill) : (s.setBook k x).tick = s.tick := rfl
@[simp] theorem State.setBook_nextId (s : State) (k : Nat) (x : Playbill) : (s.setBook k x).nextId = s.nextId := rfl
@[simp] theorem State.setBook_host (s : State) (k : Nat) (x : Playbill) : (s.setBook k x).host = s.host := rfl
@[simp] theorem State.setBook_dram (s : State) (k : Nat) (x : Playbill) : (s.setBook k x).dram = s.dram := rfl
@[simp] theorem State.setBook_flash (s : State) (k : Nat) (x : Playbill) : (s.setBook k x).flash = s.flash := rfl
@[simp] theorem State.setBook_layer (s : State) (k : Nat) (x : Playbill) : (s.setBook k x).layer = s.layer := rfl
@[simp] theorem State.setBook_hostBad (s : State) (k : Nat) (x : Playbill) : (s.setBook k x).hostBad = s.hostBad := rfl
@[simp] theorem State.setBook_dramBad (s : State) (k : Nat) (x : Playbill) : (s.setBook k x).dramBad = s.dramBad := rfl
@[simp] theorem State.setBook_layerBad (s : State) (k : Nat) (x : Playbill) : (s.setBook k x).layerBad = s.layerBad := rfl
@[simp] theorem State.setBook_flashBad (s : State) (k : Nat) (x : Playbill) : (s.setBook k x).flashBad = s.flashBad := rfl
@[simp] theorem State.setBook_staged (s : State) (k : Nat) (x : Playbill) : (s.setBook k x).staged = s.staged := rfl
@[simp] theorem State.setBook_hdm (s : State) (k : Nat) (x : Playbill) : (s.setBook k x).hdm = s.hdm := rfl
@[simp] theorem State.setBook_wsBase (s : State) (k : Nat) (x : Playbill) : (s.setBook k x).wsBase = s.wsBase := rfl
@[simp] theorem State.setBook_wsEn (s : State) (k : Nat) (x : Playbill) : (s.setBook k x).wsEn = s.wsEn := rfl
@[simp] theorem State.setBook_hostBias (s : State) (k : Nat) (x : Playbill) : (s.setBook k x).hostBias = s.hostBias := rfl
@[simp] theorem State.setBook_hostLines (s : State) (k : Nat) (x : Playbill) : (s.setBook k x).hostLines = s.hostLines := rfl
@[simp] theorem State.setBook_hostLineBad (s : State) (k : Nat) (x : Playbill) : (s.setBook k x).hostLineBad = s.hostLineBad := rfl
@[simp] theorem State.setBook_cxlLines (s : State) (k : Nat) (x : Playbill) : (s.setBook k x).cxlLines = s.cxlLines := rfl
@[simp] theorem State.setBook_crcBad (s : State) (k : Nat) (x : Playbill) : (s.setBook k x).crcBad = s.crcBad := rfl
@[simp] theorem State.setBook_ioMap (s : State) (k : Nat) (x : Playbill) : (s.setBook k x).ioMap = s.ioMap := rfl
@[simp] theorem State.setBook_bias (s : State) (k : Nat) (x : Playbill) : (s.setBook k x).bias = s.bias := rfl
@[simp] theorem State.setBook_granules (s : State) (k : Nat) (x : Playbill) : (s.setBook k x).granules = s.granules := rfl
@[simp] theorem State.setBook_ecc (s : State) (k : Nat) (x : Playbill) : (s.setBook k x).ecc = s.ecc := rfl
@[simp] theorem State.setBook_mck (s : State) (k : Nat) (x : Playbill) : (s.setBook k x).mck = s.mck := rfl
@[simp] theorem State.setBook_l1 (s : State) (k : Nat) (x : Playbill) : (s.setBook k x).l1 = s.l1 := rfl
@[simp] theorem State.setBook_dieTlb (s : State) (k : Nat) (x : Playbill) : (s.setBook k x).dieTlb = s.dieTlb := rfl
@[simp] theorem State.setBook_ats (s : State) (k : Nat) (x : Playbill) : (s.setBook k x).ats = s.ats := rfl
@[simp] theorem State.setBook_pri (s : State) (k : Nat) (x : Playbill) : (s.setBook k x).pri = s.pri := rfl
@[simp] theorem State.setBook_priOff (s : State) (k : Nat) (x : Playbill) : (s.setBook k x).priOff = s.priOff := rfl
@[simp] theorem State.setBook_priAlloc (s : State) (k : Nat) (x : Playbill) : (s.setBook k x).priAlloc = s.priAlloc := rfl
@[simp] theorem State.setBook_waits (s : State) (k : Nat) (x : Playbill) : (s.setBook k x).waits = s.waits := rfl
@[simp] theorem State.setBook_invs (s : State) (k : Nat) (x : Playbill) : (s.setBook k x).invs = s.invs := rfl
@[simp] theorem State.setBook_flushing (s : State) (k : Nat) (x : Playbill) : (s.setBook k x).flushing = s.flushing := rfl
@[simp] theorem State.setBook_waypart (s : State) (k : Nat) (x : Playbill) : (s.setBook k x).waypart = s.waypart := rfl
@[simp] theorem State.setBook_groups (s : State) (k : Nat) (x : Playbill) : (s.setBook k x).groups = s.groups := rfl
@[simp] theorem State.setBook_teams (s : State) (k : Nat) (x : Playbill) : (s.setBook k x).teams = s.teams := rfl
@[simp] theorem State.setBook_grids (s : State) (k : Nat) (x : Playbill) : (s.setBook k x).grids = s.grids := rfl
@[simp] theorem State.setBook_ctxs (s : State) (k : Nat) (x : Playbill) : (s.setBook k x).ctxs = s.ctxs := rfl
@[simp] theorem State.setBook_books (s : State) (k : Nat) (x : Playbill) : (s.setBook k x).books = s.books.set k x := rfl
@[simp] theorem State.setBook_queues (s : State) (k : Nat) (x : Playbill) : (s.setBook k x).queues = s.queues := rfl
@[simp] theorem State.setBook_deques (s : State) (k : Nat) (x : Playbill) : (s.setBook k x).deques = s.deques := rfl
@[simp] theorem State.setBook_mailboxes (s : State) (k : Nat) (x : Playbill) : (s.setBook k x).mailboxes = s.mailboxes := rfl
@[simp] theorem State.setBook_syncRecs (s : State) (k : Nat) (x : Playbill) : (s.setBook k x).syncRecs = s.syncRecs := rfl
@[simp] theorem State.setBook_acks (s : State) (k : Nat) (x : Playbill) : (s.setBook k x).acks = s.acks := rfl
@[simp] theorem State.setBook_codePages (s : State) (k : Nat) (x : Playbill) : (s.setBook k x).codePages = s.codePages := rfl
@[simp] theorem State.setBook_stops (s : State) (k : Nat) (x : Playbill) : (s.setBook k x).stops = s.stops := rfl
@[simp] theorem State.setBook_quadOwner (s : State) (k : Nat) (x : Playbill) : (s.setBook k x).quadOwner = s.quadOwner := rfl
@[simp] theorem State.setBook_vacating (s : State) (k : Nat) (x : Playbill) : (s.setBook k x).vacating = s.vacating := rfl
@[simp] theorem State.setBook_vacated (s : State) (k : Nat) (x : Playbill) : (s.setBook k x).vacated = s.vacated := rfl
@[simp] theorem State.setBook_zeroing (s : State) (k : Nat) (x : Playbill) : (s.setBook k x).zeroing = s.zeroing := rfl
@[simp] theorem State.setBook_power (s : State) (k : Nat) (x : Playbill) : (s.setBook k x).power = s.power := rfl
@[simp] theorem State.setBook_rise (s : State) (k : Nat) (x : Playbill) : (s.setBook k x).rise = s.rise := rfl
@[simp] theorem State.setBook_drowsy (s : State) (k : Nat) (x : Playbill) : (s.setBook k x).drowsy = s.drowsy := rfl
@[simp] theorem State.setBook_hq (s : State) (k : Nat) (x : Playbill) : (s.setBook k x).hq = s.hq := rfl
@[simp] theorem State.setBook_jobs (s : State) (k : Nat) (x : Playbill) : (s.setBook k x).jobs = s.jobs := rfl
@[simp] theorem State.setBook_msix (s : State) (k : Nat) (x : Playbill) : (s.setBook k x).msix = s.msix := rfl
@[simp] theorem State.setBook_vectors (s : State) (k : Nat) (x : Playbill) : (s.setBook k x).vectors = s.vectors := rfl
@[simp] theorem State.setBook_linkEnds (s : State) (k : Nat) (x : Playbill) : (s.setBook k x).linkEnds = s.linkEnds := rfl
@[simp] theorem State.setBook_linkDirs (s : State) (k : Nat) (x : Playbill) : (s.setBook k x).linkDirs = s.linkDirs := rfl
@[simp] theorem State.setBook_arrived (s : State) (k : Nat) (x : Playbill) : (s.setBook k x).arrived = s.arrived := rfl
@[simp] theorem State.setBook_services (s : State) (k : Nat) (x : Playbill) : (s.setBook k x).services = s.services := rfl
@[simp] theorem State.setBook_windowStart (s : State) (k : Nat) (x : Playbill) : (s.setBook k x).windowStart = s.windowStart := rfl
@[simp] theorem State.setBook_lostLinks (s : State) (k : Nat) (x : Playbill) : (s.setBook k x).lostLinks = s.lostLinks := rfl
@[simp] theorem State.setBook_boot (s : State) (k : Nat) (x : Playbill) : (s.setBook k x).boot = s.boot := rfl
@[simp] theorem State.setBook_ready (s : State) (k : Nat) (x : Playbill) : (s.setBook k x).ready = s.ready := rfl
@[simp] theorem State.setBook_failed (s : State) (k : Nat) (x : Playbill) : (s.setBook k x).failed = s.failed := rfl
@[simp] theorem State.setBook_spdm (s : State) (k : Nat) (x : Playbill) : (s.setBook k x).spdm = s.spdm := rfl
@[simp] theorem State.setBook_hostReply (s : State) (k : Nat) (x : Playbill) : (s.setBook k x).hostReply = s.hostReply := rfl
@[simp] theorem State.setBook_mgmtReply (s : State) (k : Nat) (x : Playbill) : (s.setBook k x).mgmtReply = s.mgmtReply := rfl
@[simp] theorem State.setBook_cycles (s : State) (k : Nat) (x : Playbill) : (s.setBook k x).cycles = s.cycles := rfl
@[simp] theorem State.setBook_dead (s : State) (k : Nat) (x : Playbill) : (s.setBook k x).dead = s.dead := rfl

@[simp] theorem Group.writeV_ctx (g : Group) (l n : Nat) (x : W32) : (g.writeV l n x).ctx = g.ctx := rfl
@[simp] theorem Group.writeV_grid (g : Group) (l n : Nat) (x : W32) : (g.writeV l n x).grid = g.grid := rfl
@[simp] theorem Group.writeV_team (g : Group) (l n : Nat) (x : W32) : (g.writeV l n x).team = g.team := rfl
@[simp] theorem Group.writeV_role (g : Group) (l n : Nat) (x : W32) : (g.writeV l n x).role = g.role := rfl
@[simp] theorem Group.writeV_num (g : Group) (l n : Nat) (x : W32) : (g.writeV l n x).num = g.num := rfl
@[simp] theorem Group.writeV_width (g : Group) (l n : Nat) (x : W32) : (g.writeV l n x).width = g.width := rfl
@[simp] theorem Group.writeV_gang (g : Group) (l n : Nat) (x : W32) : (g.writeV l n x).gang = g.gang := rfl
@[simp] theorem Group.writeV_lbud (g : Group) (l n : Nat) (x : W32) : (g.writeV l n x).lbud = g.lbud := rfl
@[simp] theorem Group.writeV_wbud (g : Group) (l n : Nat) (x : W32) : (g.writeV l n x).wbud = g.wbud := rfl
@[simp] theorem Group.writeV_ubud (g : Group) (l n : Nat) (x : W32) : (g.writeV l n x).ubud = g.ubud := rfl
@[simp] theorem Group.writeV_carryV (g : Group) (l n : Nat) (x : W32) : (g.writeV l n x).carryV = g.carryV := rfl
@[simp] theorem Group.writeV_carryW (g : Group) (l n : Nat) (x : W32) : (g.writeV l n x).carryW = g.carryW := rfl
@[simp] theorem Group.writeV_pos (g : Group) (l n : Nat) (x : W32) : (g.writeV l n x).pos = g.pos := rfl
@[simp] theorem Group.writeV_die (g : Group) (l n : Nat) (x : W32) : (g.writeV l n x).die = g.die := rfl
@[simp] theorem Group.writeV_core (g : Group) (l n : Nat) (x : W32) : (g.writeV l n x).core = g.core := rfl
@[simp] theorem Group.writeV_sub (g : Group) (l n : Nat) (x : W32) : (g.writeV l n x).sub = g.sub := rfl
@[simp] theorem Group.writeV_stage (g : Group) (l n : Nat) (x : W32) : (g.writeV l n x).stage = g.stage := rfl
@[simp] theorem Group.writeV_placed (g : Group) (l n : Nat) (x : W32) : (g.writeV l n x).placed = g.placed := rfl
@[simp] theorem Group.writeV_x (g : Group) (l n : Nat) (x : W32) : (g.writeV l n x).x = g.x := rfl
@[simp] theorem Group.writeV_w (g : Group) (l n : Nat) (x : W32) : (g.writeV l n x).w = g.w := rfl
@[simp] theorem Group.writeV_p (g : Group) (l n : Nat) (x : W32) : (g.writeV l n x).p = g.p := rfl
@[simp] theorem Group.writeV_s (g : Group) (l n : Nat) (x : W32) : (g.writeV l n x).s = g.s := rfl
@[simp] theorem Group.writeV_c (g : Group) (l n : Nat) (x : W32) : (g.writeV l n x).c = g.c := rfl
@[simp] theorem Group.writeV_b (g : Group) (l n : Nat) (x : W32) : (g.writeV l n x).b = g.b := rfl
@[simp] theorem Group.writeV_key (g : Group) (l n : Nat) (x : W32) : (g.writeV l n x).key = g.key := rfl
@[simp] theorem Group.writeV_stream (g : Group) (l n : Nat) (x : W32) : (g.writeV l n x).stream = g.stream := rfl
@[simp] theorem Group.writeV_counter (g : Group) (l n : Nat) (x : W32) : (g.writeV l n x).counter = g.counter := rfl
@[simp] theorem Group.writeV_flags (g : Group) (l n : Nat) (x : W32) : (g.writeV l n x).flags = g.flags := rfl
@[simp] theorem Group.writeV_undef (g : Group) (l n : Nat) (x : W32) : (g.writeV l n x).undef = g.undef := rfl
@[simp] theorem Group.writeV_badV (g : Group) (l n : Nat) (x : W32) : (g.writeV l n x).badV = unmark g.badV (l * 256 + n) := rfl
@[simp] theorem Group.writeV_badX (g : Group) (l n : Nat) (x : W32) : (g.writeV l n x).badX = g.badX := rfl
@[simp] theorem Group.writeV_badW (g : Group) (l n : Nat) (x : W32) : (g.writeV l n x).badW = g.badW := rfl
@[simp] theorem Group.writeV_badS (g : Group) (l n : Nat) (x : W32) : (g.writeV l n x).badS = g.badS := rfl
@[simp] theorem Group.writeV_badC (g : Group) (l n : Nat) (x : W32) : (g.writeV l n x).badC = g.badC := rfl
@[simp] theorem Group.writeV_badGen (g : Group) (l n : Nat) (x : W32) : (g.writeV l n x).badGen = g.badGen := rfl
@[simp] theorem Group.writeV_blocks (g : Group) (l n : Nat) (x : W32) : (g.writeV l n x).blocks = g.blocks := rfl
@[simp] theorem Group.writeV_table (g : Group) (l n : Nat) (x : W32) : (g.writeV l n x).table = g.table := rfl
@[simp] theorem Group.writeV_table1 (g : Group) (l n : Nat) (x : W32) : (g.writeV l n x).table1 = g.table1 := rfl
@[simp] theorem Group.writeV_parked (g : Group) (l n : Nat) (x : W32) : (g.writeV l n x).parked = g.parked := rfl
@[simp] theorem Group.writeV_arrived (g : Group) (l n : Nat) (x : W32) : (g.writeV l n x).arrived = g.arrived := rfl
@[simp] theorem Group.writeV_live (g : Group) (l n : Nat) (x : W32) : (g.writeV l n x).live = g.live := rfl
@[simp] theorem Group.writeV_help (g : Group) (l n : Nat) (x : W32) : (g.writeV l n x).help = g.help := rfl
@[simp] theorem Group.writeV_lds (g : Group) (l n : Nat) (x : W32) : (g.writeV l n x).lds = g.lds := rfl
@[simp] theorem Group.writeV_sts (g : Group) (l n : Nat) (x : W32) : (g.writeV l n x).sts = g.sts := rfl
@[simp] theorem Group.writeV_cps (g : Group) (l n : Nat) (x : W32) : (g.writeV l n x).cps = g.cps := rfl
@[simp] theorem Group.writeV_tls (g : Group) (l n : Nat) (x : W32) : (g.writeV l n x).tls = g.tls := rfl
@[simp] theorem Group.writeV_entries (g : Group) (l n : Nat) (x : W32) : (g.writeV l n x).entries = g.entries := rfl
@[simp] theorem Group.writeV_sbuf (g : Group) (l n : Nat) (x : W32) : (g.writeV l n x).sbuf = g.sbuf := rfl
@[simp] theorem Group.writeV_queries (g : Group) (l n : Nat) (x : W32) : (g.writeV l n x).queries = g.queries := rfl
@[simp] theorem Group.writeV_hnd (g : Group) (l n : Nat) (x : W32) : (g.writeV l n x).hnd = g.hnd := rfl
@[simp] theorem Group.writeV_book (g : Group) (l n : Nat) (x : W32) : (g.writeV l n x).book = g.book := rfl
@[simp] theorem Group.writeV_hcount (g : Group) (l n : Nat) (x : W32) : (g.writeV l n x).hcount = g.hcount := rfl
@[simp] theorem Group.writeV_pend (g : Group) (l n : Nat) (x : W32) : (g.writeV l n x).pend = g.pend := rfl
@[simp] theorem Group.writeV_wait (g : Group) (l n : Nat) (x : W32) : (g.writeV l n x).wait = g.wait := rfl
@[simp] theorem Group.writeV_waitPc (g : Group) (l n : Nat) (x : W32) : (g.writeV l n x).waitPc = g.waitPc := rfl
@[simp] theorem Group.writeV_waitRun (g : Group) (l n : Nat) (x : W32) : (g.writeV l n x).waitRun = g.waitRun := rfl
@[simp] theorem Group.writeV_spawned (g : Group) (l n : Nat) (x : W32) : (g.writeV l n x).spawned = g.spawned := rfl
@[simp] theorem Group.writeV_held (g : Group) (l n : Nat) (x : W32) : (g.writeV l n x).held = g.held := rfl
@[simp] theorem Group.writeV_ready (g : Group) (l n : Nat) (x : W32) : (g.writeV l n x).ready = g.ready := rfl
@[simp] theorem Group.writeV_turned (g : Group) (l n : Nat) (x : W32) : (g.writeV l n x).turned = g.turned := rfl
@[simp] theorem Group.writeV_since (g : Group) (l n : Nat) (x : W32) : (g.writeV l n x).since = g.since := rfl

@[simp] theorem Group.writeS_ctx (g : Group) (n : Nat) (x : W64) : (g.writeS n x).ctx = g.ctx := rfl
@[simp] theorem Group.writeS_grid (g : Group) (n : Nat) (x : W64) : (g.writeS n x).grid = g.grid := rfl
@[simp] theorem Group.writeS_team (g : Group) (n : Nat) (x : W64) : (g.writeS n x).team = g.team := rfl
@[simp] theorem Group.writeS_role (g : Group) (n : Nat) (x : W64) : (g.writeS n x).role = g.role := rfl
@[simp] theorem Group.writeS_num (g : Group) (n : Nat) (x : W64) : (g.writeS n x).num = g.num := rfl
@[simp] theorem Group.writeS_width (g : Group) (n : Nat) (x : W64) : (g.writeS n x).width = g.width := rfl
@[simp] theorem Group.writeS_gang (g : Group) (n : Nat) (x : W64) : (g.writeS n x).gang = g.gang := rfl
@[simp] theorem Group.writeS_lbud (g : Group) (n : Nat) (x : W64) : (g.writeS n x).lbud = g.lbud := rfl
@[simp] theorem Group.writeS_wbud (g : Group) (n : Nat) (x : W64) : (g.writeS n x).wbud = g.wbud := rfl
@[simp] theorem Group.writeS_ubud (g : Group) (n : Nat) (x : W64) : (g.writeS n x).ubud = g.ubud := rfl
@[simp] theorem Group.writeS_carryV (g : Group) (n : Nat) (x : W64) : (g.writeS n x).carryV = g.carryV := rfl
@[simp] theorem Group.writeS_carryW (g : Group) (n : Nat) (x : W64) : (g.writeS n x).carryW = g.carryW := rfl
@[simp] theorem Group.writeS_pos (g : Group) (n : Nat) (x : W64) : (g.writeS n x).pos = g.pos := rfl
@[simp] theorem Group.writeS_die (g : Group) (n : Nat) (x : W64) : (g.writeS n x).die = g.die := rfl
@[simp] theorem Group.writeS_core (g : Group) (n : Nat) (x : W64) : (g.writeS n x).core = g.core := rfl
@[simp] theorem Group.writeS_sub (g : Group) (n : Nat) (x : W64) : (g.writeS n x).sub = g.sub := rfl
@[simp] theorem Group.writeS_stage (g : Group) (n : Nat) (x : W64) : (g.writeS n x).stage = g.stage := rfl
@[simp] theorem Group.writeS_placed (g : Group) (n : Nat) (x : W64) : (g.writeS n x).placed = g.placed := rfl
@[simp] theorem Group.writeS_v (g : Group) (n : Nat) (x : W64) : (g.writeS n x).v = g.v := rfl
@[simp] theorem Group.writeS_x (g : Group) (n : Nat) (x : W64) : (g.writeS n x).x = g.x := rfl
@[simp] theorem Group.writeS_w (g : Group) (n : Nat) (x : W64) : (g.writeS n x).w = g.w := rfl
@[simp] theorem Group.writeS_p (g : Group) (n : Nat) (x : W64) : (g.writeS n x).p = g.p := rfl
@[simp] theorem Group.writeS_c (g : Group) (n : Nat) (x : W64) : (g.writeS n x).c = g.c := rfl
@[simp] theorem Group.writeS_b (g : Group) (n : Nat) (x : W64) : (g.writeS n x).b = g.b := rfl
@[simp] theorem Group.writeS_key (g : Group) (n : Nat) (x : W64) : (g.writeS n x).key = g.key := rfl
@[simp] theorem Group.writeS_stream (g : Group) (n : Nat) (x : W64) : (g.writeS n x).stream = g.stream := rfl
@[simp] theorem Group.writeS_counter (g : Group) (n : Nat) (x : W64) : (g.writeS n x).counter = g.counter := rfl
@[simp] theorem Group.writeS_flags (g : Group) (n : Nat) (x : W64) : (g.writeS n x).flags = g.flags := rfl
@[simp] theorem Group.writeS_undef (g : Group) (n : Nat) (x : W64) : (g.writeS n x).undef = g.undef := rfl
@[simp] theorem Group.writeS_badV (g : Group) (n : Nat) (x : W64) : (g.writeS n x).badV = g.badV := rfl
@[simp] theorem Group.writeS_badX (g : Group) (n : Nat) (x : W64) : (g.writeS n x).badX = g.badX := rfl
@[simp] theorem Group.writeS_badW (g : Group) (n : Nat) (x : W64) : (g.writeS n x).badW = g.badW := rfl
@[simp] theorem Group.writeS_badS (g : Group) (n : Nat) (x : W64) : (g.writeS n x).badS = unmarkAll g.badS (2 * n) 2 := rfl
@[simp] theorem Group.writeS_badC (g : Group) (n : Nat) (x : W64) : (g.writeS n x).badC = g.badC := rfl
@[simp] theorem Group.writeS_badGen (g : Group) (n : Nat) (x : W64) : (g.writeS n x).badGen = g.badGen := rfl
@[simp] theorem Group.writeS_blocks (g : Group) (n : Nat) (x : W64) : (g.writeS n x).blocks = g.blocks := rfl
@[simp] theorem Group.writeS_table (g : Group) (n : Nat) (x : W64) : (g.writeS n x).table = g.table := rfl
@[simp] theorem Group.writeS_table1 (g : Group) (n : Nat) (x : W64) : (g.writeS n x).table1 = g.table1 := rfl
@[simp] theorem Group.writeS_parked (g : Group) (n : Nat) (x : W64) : (g.writeS n x).parked = g.parked := rfl
@[simp] theorem Group.writeS_arrived (g : Group) (n : Nat) (x : W64) : (g.writeS n x).arrived = g.arrived := rfl
@[simp] theorem Group.writeS_live (g : Group) (n : Nat) (x : W64) : (g.writeS n x).live = g.live := rfl
@[simp] theorem Group.writeS_help (g : Group) (n : Nat) (x : W64) : (g.writeS n x).help = g.help := rfl
@[simp] theorem Group.writeS_lds (g : Group) (n : Nat) (x : W64) : (g.writeS n x).lds = g.lds := rfl
@[simp] theorem Group.writeS_sts (g : Group) (n : Nat) (x : W64) : (g.writeS n x).sts = g.sts := rfl
@[simp] theorem Group.writeS_cps (g : Group) (n : Nat) (x : W64) : (g.writeS n x).cps = g.cps := rfl
@[simp] theorem Group.writeS_tls (g : Group) (n : Nat) (x : W64) : (g.writeS n x).tls = g.tls := rfl
@[simp] theorem Group.writeS_entries (g : Group) (n : Nat) (x : W64) : (g.writeS n x).entries = g.entries := rfl
@[simp] theorem Group.writeS_sbuf (g : Group) (n : Nat) (x : W64) : (g.writeS n x).sbuf = g.sbuf := rfl
@[simp] theorem Group.writeS_queries (g : Group) (n : Nat) (x : W64) : (g.writeS n x).queries = g.queries := rfl
@[simp] theorem Group.writeS_hnd (g : Group) (n : Nat) (x : W64) : (g.writeS n x).hnd = g.hnd := rfl
@[simp] theorem Group.writeS_book (g : Group) (n : Nat) (x : W64) : (g.writeS n x).book = g.book := rfl
@[simp] theorem Group.writeS_hcount (g : Group) (n : Nat) (x : W64) : (g.writeS n x).hcount = g.hcount := rfl
@[simp] theorem Group.writeS_pend (g : Group) (n : Nat) (x : W64) : (g.writeS n x).pend = g.pend := rfl
@[simp] theorem Group.writeS_wait (g : Group) (n : Nat) (x : W64) : (g.writeS n x).wait = g.wait := rfl
@[simp] theorem Group.writeS_waitPc (g : Group) (n : Nat) (x : W64) : (g.writeS n x).waitPc = g.waitPc := rfl
@[simp] theorem Group.writeS_waitRun (g : Group) (n : Nat) (x : W64) : (g.writeS n x).waitRun = g.waitRun := rfl
@[simp] theorem Group.writeS_spawned (g : Group) (n : Nat) (x : W64) : (g.writeS n x).spawned = g.spawned := rfl
@[simp] theorem Group.writeS_held (g : Group) (n : Nat) (x : W64) : (g.writeS n x).held = g.held := rfl
@[simp] theorem Group.writeS_ready (g : Group) (n : Nat) (x : W64) : (g.writeS n x).ready = g.ready := rfl
@[simp] theorem Group.writeS_turned (g : Group) (n : Nat) (x : W64) : (g.writeS n x).turned = g.turned := rfl
@[simp] theorem Group.writeS_since (g : Group) (n : Nat) (x : W64) : (g.writeS n x).since = g.since := rfl

@[simp] theorem Group.writeC_ctx (g : Group) (n x : Nat) : (g.writeC n x).ctx = g.ctx := rfl
@[simp] theorem Group.writeC_grid (g : Group) (n x : Nat) : (g.writeC n x).grid = g.grid := rfl
@[simp] theorem Group.writeC_team (g : Group) (n x : Nat) : (g.writeC n x).team = g.team := rfl
@[simp] theorem Group.writeC_role (g : Group) (n x : Nat) : (g.writeC n x).role = g.role := rfl
@[simp] theorem Group.writeC_num (g : Group) (n x : Nat) : (g.writeC n x).num = g.num := rfl
@[simp] theorem Group.writeC_width (g : Group) (n x : Nat) : (g.writeC n x).width = g.width := rfl
@[simp] theorem Group.writeC_gang (g : Group) (n x : Nat) : (g.writeC n x).gang = g.gang := rfl
@[simp] theorem Group.writeC_lbud (g : Group) (n x : Nat) : (g.writeC n x).lbud = g.lbud := rfl
@[simp] theorem Group.writeC_wbud (g : Group) (n x : Nat) : (g.writeC n x).wbud = g.wbud := rfl
@[simp] theorem Group.writeC_ubud (g : Group) (n x : Nat) : (g.writeC n x).ubud = g.ubud := rfl
@[simp] theorem Group.writeC_carryV (g : Group) (n x : Nat) : (g.writeC n x).carryV = g.carryV := rfl
@[simp] theorem Group.writeC_carryW (g : Group) (n x : Nat) : (g.writeC n x).carryW = g.carryW := rfl
@[simp] theorem Group.writeC_pos (g : Group) (n x : Nat) : (g.writeC n x).pos = g.pos := rfl
@[simp] theorem Group.writeC_die (g : Group) (n x : Nat) : (g.writeC n x).die = g.die := rfl
@[simp] theorem Group.writeC_core (g : Group) (n x : Nat) : (g.writeC n x).core = g.core := rfl
@[simp] theorem Group.writeC_sub (g : Group) (n x : Nat) : (g.writeC n x).sub = g.sub := rfl
@[simp] theorem Group.writeC_stage (g : Group) (n x : Nat) : (g.writeC n x).stage = g.stage := rfl
@[simp] theorem Group.writeC_placed (g : Group) (n x : Nat) : (g.writeC n x).placed = g.placed := rfl
@[simp] theorem Group.writeC_v (g : Group) (n x : Nat) : (g.writeC n x).v = g.v := rfl
@[simp] theorem Group.writeC_x (g : Group) (n x : Nat) : (g.writeC n x).x = g.x := rfl
@[simp] theorem Group.writeC_w (g : Group) (n x : Nat) : (g.writeC n x).w = g.w := rfl
@[simp] theorem Group.writeC_p (g : Group) (n x : Nat) : (g.writeC n x).p = g.p := rfl
@[simp] theorem Group.writeC_s (g : Group) (n x : Nat) : (g.writeC n x).s = g.s := rfl
@[simp] theorem Group.writeC_b (g : Group) (n x : Nat) : (g.writeC n x).b = g.b := rfl
@[simp] theorem Group.writeC_key (g : Group) (n x : Nat) : (g.writeC n x).key = g.key := rfl
@[simp] theorem Group.writeC_stream (g : Group) (n x : Nat) : (g.writeC n x).stream = g.stream := rfl
@[simp] theorem Group.writeC_counter (g : Group) (n x : Nat) : (g.writeC n x).counter = g.counter := rfl
@[simp] theorem Group.writeC_flags (g : Group) (n x : Nat) : (g.writeC n x).flags = g.flags := rfl
@[simp] theorem Group.writeC_undef (g : Group) (n x : Nat) : (g.writeC n x).undef = g.undef := rfl
@[simp] theorem Group.writeC_badV (g : Group) (n x : Nat) : (g.writeC n x).badV = g.badV := rfl
@[simp] theorem Group.writeC_badX (g : Group) (n x : Nat) : (g.writeC n x).badX = g.badX := rfl
@[simp] theorem Group.writeC_badW (g : Group) (n x : Nat) : (g.writeC n x).badW = g.badW := rfl
@[simp] theorem Group.writeC_badS (g : Group) (n x : Nat) : (g.writeC n x).badS = g.badS := rfl
@[simp] theorem Group.writeC_badC (g : Group) (n x : Nat) : (g.writeC n x).badC = unmark g.badC n := rfl
@[simp] theorem Group.writeC_badGen (g : Group) (n x : Nat) : (g.writeC n x).badGen = g.badGen := rfl
@[simp] theorem Group.writeC_blocks (g : Group) (n x : Nat) : (g.writeC n x).blocks = g.blocks := rfl
@[simp] theorem Group.writeC_table (g : Group) (n x : Nat) : (g.writeC n x).table = g.table := rfl
@[simp] theorem Group.writeC_table1 (g : Group) (n x : Nat) : (g.writeC n x).table1 = g.table1 := rfl
@[simp] theorem Group.writeC_parked (g : Group) (n x : Nat) : (g.writeC n x).parked = g.parked := rfl
@[simp] theorem Group.writeC_arrived (g : Group) (n x : Nat) : (g.writeC n x).arrived = g.arrived := rfl
@[simp] theorem Group.writeC_live (g : Group) (n x : Nat) : (g.writeC n x).live = g.live := rfl
@[simp] theorem Group.writeC_help (g : Group) (n x : Nat) : (g.writeC n x).help = g.help := rfl
@[simp] theorem Group.writeC_lds (g : Group) (n x : Nat) : (g.writeC n x).lds = g.lds := rfl
@[simp] theorem Group.writeC_sts (g : Group) (n x : Nat) : (g.writeC n x).sts = g.sts := rfl
@[simp] theorem Group.writeC_cps (g : Group) (n x : Nat) : (g.writeC n x).cps = g.cps := rfl
@[simp] theorem Group.writeC_tls (g : Group) (n x : Nat) : (g.writeC n x).tls = g.tls := rfl
@[simp] theorem Group.writeC_entries (g : Group) (n x : Nat) : (g.writeC n x).entries = g.entries := rfl
@[simp] theorem Group.writeC_sbuf (g : Group) (n x : Nat) : (g.writeC n x).sbuf = g.sbuf := rfl
@[simp] theorem Group.writeC_queries (g : Group) (n x : Nat) : (g.writeC n x).queries = g.queries := rfl
@[simp] theorem Group.writeC_hnd (g : Group) (n x : Nat) : (g.writeC n x).hnd = g.hnd := rfl
@[simp] theorem Group.writeC_book (g : Group) (n x : Nat) : (g.writeC n x).book = g.book := rfl
@[simp] theorem Group.writeC_hcount (g : Group) (n x : Nat) : (g.writeC n x).hcount = g.hcount := rfl
@[simp] theorem Group.writeC_pend (g : Group) (n x : Nat) : (g.writeC n x).pend = g.pend := rfl
@[simp] theorem Group.writeC_wait (g : Group) (n x : Nat) : (g.writeC n x).wait = g.wait := rfl
@[simp] theorem Group.writeC_waitPc (g : Group) (n x : Nat) : (g.writeC n x).waitPc = g.waitPc := rfl
@[simp] theorem Group.writeC_waitRun (g : Group) (n x : Nat) : (g.writeC n x).waitRun = g.waitRun := rfl
@[simp] theorem Group.writeC_spawned (g : Group) (n x : Nat) : (g.writeC n x).spawned = g.spawned := rfl
@[simp] theorem Group.writeC_held (g : Group) (n x : Nat) : (g.writeC n x).held = g.held := rfl
@[simp] theorem Group.writeC_ready (g : Group) (n x : Nat) : (g.writeC n x).ready = g.ready := rfl
@[simp] theorem Group.writeC_turned (g : Group) (n x : Nat) : (g.writeC n x).turned = g.turned := rfl
@[simp] theorem Group.writeC_since (g : Group) (n x : Nat) : (g.writeC n x).since = g.since := rfl

@[simp] theorem Group.writeX_ctx (g : Group) (l n : Nat) (x : W32) : (g.writeX l n x).ctx = g.ctx := rfl
@[simp] theorem Group.writeX_grid (g : Group) (l n : Nat) (x : W32) : (g.writeX l n x).grid = g.grid := rfl
@[simp] theorem Group.writeX_team (g : Group) (l n : Nat) (x : W32) : (g.writeX l n x).team = g.team := rfl
@[simp] theorem Group.writeX_role (g : Group) (l n : Nat) (x : W32) : (g.writeX l n x).role = g.role := rfl
@[simp] theorem Group.writeX_num (g : Group) (l n : Nat) (x : W32) : (g.writeX l n x).num = g.num := rfl
@[simp] theorem Group.writeX_width (g : Group) (l n : Nat) (x : W32) : (g.writeX l n x).width = g.width := rfl
@[simp] theorem Group.writeX_gang (g : Group) (l n : Nat) (x : W32) : (g.writeX l n x).gang = g.gang := rfl
@[simp] theorem Group.writeX_lbud (g : Group) (l n : Nat) (x : W32) : (g.writeX l n x).lbud = g.lbud := rfl
@[simp] theorem Group.writeX_wbud (g : Group) (l n : Nat) (x : W32) : (g.writeX l n x).wbud = g.wbud := rfl
@[simp] theorem Group.writeX_ubud (g : Group) (l n : Nat) (x : W32) : (g.writeX l n x).ubud = g.ubud := rfl
@[simp] theorem Group.writeX_carryV (g : Group) (l n : Nat) (x : W32) : (g.writeX l n x).carryV = g.carryV := rfl
@[simp] theorem Group.writeX_carryW (g : Group) (l n : Nat) (x : W32) : (g.writeX l n x).carryW = g.carryW := rfl
@[simp] theorem Group.writeX_pos (g : Group) (l n : Nat) (x : W32) : (g.writeX l n x).pos = g.pos := rfl
@[simp] theorem Group.writeX_die (g : Group) (l n : Nat) (x : W32) : (g.writeX l n x).die = g.die := rfl
@[simp] theorem Group.writeX_core (g : Group) (l n : Nat) (x : W32) : (g.writeX l n x).core = g.core := rfl
@[simp] theorem Group.writeX_sub (g : Group) (l n : Nat) (x : W32) : (g.writeX l n x).sub = g.sub := rfl
@[simp] theorem Group.writeX_stage (g : Group) (l n : Nat) (x : W32) : (g.writeX l n x).stage = g.stage := rfl
@[simp] theorem Group.writeX_placed (g : Group) (l n : Nat) (x : W32) : (g.writeX l n x).placed = g.placed := rfl
@[simp] theorem Group.writeX_v (g : Group) (l n : Nat) (x : W32) : (g.writeX l n x).v = g.v := rfl
@[simp] theorem Group.writeX_w (g : Group) (l n : Nat) (x : W32) : (g.writeX l n x).w = g.w := rfl
@[simp] theorem Group.writeX_p (g : Group) (l n : Nat) (x : W32) : (g.writeX l n x).p = g.p := rfl
@[simp] theorem Group.writeX_s (g : Group) (l n : Nat) (x : W32) : (g.writeX l n x).s = g.s := rfl
@[simp] theorem Group.writeX_c (g : Group) (l n : Nat) (x : W32) : (g.writeX l n x).c = g.c := rfl
@[simp] theorem Group.writeX_b (g : Group) (l n : Nat) (x : W32) : (g.writeX l n x).b = g.b := rfl
@[simp] theorem Group.writeX_key (g : Group) (l n : Nat) (x : W32) : (g.writeX l n x).key = g.key := rfl
@[simp] theorem Group.writeX_stream (g : Group) (l n : Nat) (x : W32) : (g.writeX l n x).stream = g.stream := rfl
@[simp] theorem Group.writeX_counter (g : Group) (l n : Nat) (x : W32) : (g.writeX l n x).counter = g.counter := rfl
@[simp] theorem Group.writeX_flags (g : Group) (l n : Nat) (x : W32) : (g.writeX l n x).flags = g.flags := rfl
@[simp] theorem Group.writeX_undef (g : Group) (l n : Nat) (x : W32) : (g.writeX l n x).undef = g.undef := rfl
@[simp] theorem Group.writeX_badV (g : Group) (l n : Nat) (x : W32) : (g.writeX l n x).badV = g.badV := rfl
@[simp] theorem Group.writeX_badX (g : Group) (l n : Nat) (x : W32) : (g.writeX l n x).badX = unmark g.badX (l * 4 + n) := rfl
@[simp] theorem Group.writeX_badW (g : Group) (l n : Nat) (x : W32) : (g.writeX l n x).badW = g.badW := rfl
@[simp] theorem Group.writeX_badS (g : Group) (l n : Nat) (x : W32) : (g.writeX l n x).badS = g.badS := rfl
@[simp] theorem Group.writeX_badC (g : Group) (l n : Nat) (x : W32) : (g.writeX l n x).badC = g.badC := rfl
@[simp] theorem Group.writeX_badGen (g : Group) (l n : Nat) (x : W32) : (g.writeX l n x).badGen = g.badGen := rfl
@[simp] theorem Group.writeX_blocks (g : Group) (l n : Nat) (x : W32) : (g.writeX l n x).blocks = g.blocks := rfl
@[simp] theorem Group.writeX_table (g : Group) (l n : Nat) (x : W32) : (g.writeX l n x).table = g.table := rfl
@[simp] theorem Group.writeX_table1 (g : Group) (l n : Nat) (x : W32) : (g.writeX l n x).table1 = g.table1 := rfl
@[simp] theorem Group.writeX_parked (g : Group) (l n : Nat) (x : W32) : (g.writeX l n x).parked = g.parked := rfl
@[simp] theorem Group.writeX_arrived (g : Group) (l n : Nat) (x : W32) : (g.writeX l n x).arrived = g.arrived := rfl
@[simp] theorem Group.writeX_live (g : Group) (l n : Nat) (x : W32) : (g.writeX l n x).live = g.live := rfl
@[simp] theorem Group.writeX_help (g : Group) (l n : Nat) (x : W32) : (g.writeX l n x).help = g.help := rfl
@[simp] theorem Group.writeX_lds (g : Group) (l n : Nat) (x : W32) : (g.writeX l n x).lds = g.lds := rfl
@[simp] theorem Group.writeX_sts (g : Group) (l n : Nat) (x : W32) : (g.writeX l n x).sts = g.sts := rfl
@[simp] theorem Group.writeX_cps (g : Group) (l n : Nat) (x : W32) : (g.writeX l n x).cps = g.cps := rfl
@[simp] theorem Group.writeX_tls (g : Group) (l n : Nat) (x : W32) : (g.writeX l n x).tls = g.tls := rfl
@[simp] theorem Group.writeX_entries (g : Group) (l n : Nat) (x : W32) : (g.writeX l n x).entries = g.entries := rfl
@[simp] theorem Group.writeX_sbuf (g : Group) (l n : Nat) (x : W32) : (g.writeX l n x).sbuf = g.sbuf := rfl
@[simp] theorem Group.writeX_queries (g : Group) (l n : Nat) (x : W32) : (g.writeX l n x).queries = g.queries := rfl
@[simp] theorem Group.writeX_hnd (g : Group) (l n : Nat) (x : W32) : (g.writeX l n x).hnd = g.hnd := rfl
@[simp] theorem Group.writeX_book (g : Group) (l n : Nat) (x : W32) : (g.writeX l n x).book = g.book := rfl
@[simp] theorem Group.writeX_hcount (g : Group) (l n : Nat) (x : W32) : (g.writeX l n x).hcount = g.hcount := rfl
@[simp] theorem Group.writeX_pend (g : Group) (l n : Nat) (x : W32) : (g.writeX l n x).pend = g.pend := rfl
@[simp] theorem Group.writeX_wait (g : Group) (l n : Nat) (x : W32) : (g.writeX l n x).wait = g.wait := rfl
@[simp] theorem Group.writeX_waitPc (g : Group) (l n : Nat) (x : W32) : (g.writeX l n x).waitPc = g.waitPc := rfl
@[simp] theorem Group.writeX_waitRun (g : Group) (l n : Nat) (x : W32) : (g.writeX l n x).waitRun = g.waitRun := rfl
@[simp] theorem Group.writeX_spawned (g : Group) (l n : Nat) (x : W32) : (g.writeX l n x).spawned = g.spawned := rfl
@[simp] theorem Group.writeX_held (g : Group) (l n : Nat) (x : W32) : (g.writeX l n x).held = g.held := rfl
@[simp] theorem Group.writeX_ready (g : Group) (l n : Nat) (x : W32) : (g.writeX l n x).ready = g.ready := rfl
@[simp] theorem Group.writeX_turned (g : Group) (l n : Nat) (x : W32) : (g.writeX l n x).turned = g.turned := rfl
@[simp] theorem Group.writeX_since (g : Group) (l n : Nat) (x : W32) : (g.writeX l n x).since = g.since := rfl

@[simp] theorem Group.writeW_ctx (g : Group) (l n : Nat) (x : BitVec 192) : (g.writeW l n x).ctx = g.ctx := rfl
@[simp] theorem Group.writeW_grid (g : Group) (l n : Nat) (x : BitVec 192) : (g.writeW l n x).grid = g.grid := rfl
@[simp] theorem Group.writeW_team (g : Group) (l n : Nat) (x : BitVec 192) : (g.writeW l n x).team = g.team := rfl
@[simp] theorem Group.writeW_role (g : Group) (l n : Nat) (x : BitVec 192) : (g.writeW l n x).role = g.role := rfl
@[simp] theorem Group.writeW_num (g : Group) (l n : Nat) (x : BitVec 192) : (g.writeW l n x).num = g.num := rfl
@[simp] theorem Group.writeW_width (g : Group) (l n : Nat) (x : BitVec 192) : (g.writeW l n x).width = g.width := rfl
@[simp] theorem Group.writeW_gang (g : Group) (l n : Nat) (x : BitVec 192) : (g.writeW l n x).gang = g.gang := rfl
@[simp] theorem Group.writeW_lbud (g : Group) (l n : Nat) (x : BitVec 192) : (g.writeW l n x).lbud = g.lbud := rfl
@[simp] theorem Group.writeW_wbud (g : Group) (l n : Nat) (x : BitVec 192) : (g.writeW l n x).wbud = g.wbud := rfl
@[simp] theorem Group.writeW_ubud (g : Group) (l n : Nat) (x : BitVec 192) : (g.writeW l n x).ubud = g.ubud := rfl
@[simp] theorem Group.writeW_carryV (g : Group) (l n : Nat) (x : BitVec 192) : (g.writeW l n x).carryV = g.carryV := rfl
@[simp] theorem Group.writeW_carryW (g : Group) (l n : Nat) (x : BitVec 192) : (g.writeW l n x).carryW = g.carryW := rfl
@[simp] theorem Group.writeW_pos (g : Group) (l n : Nat) (x : BitVec 192) : (g.writeW l n x).pos = g.pos := rfl
@[simp] theorem Group.writeW_die (g : Group) (l n : Nat) (x : BitVec 192) : (g.writeW l n x).die = g.die := rfl
@[simp] theorem Group.writeW_core (g : Group) (l n : Nat) (x : BitVec 192) : (g.writeW l n x).core = g.core := rfl
@[simp] theorem Group.writeW_sub (g : Group) (l n : Nat) (x : BitVec 192) : (g.writeW l n x).sub = g.sub := rfl
@[simp] theorem Group.writeW_stage (g : Group) (l n : Nat) (x : BitVec 192) : (g.writeW l n x).stage = g.stage := rfl
@[simp] theorem Group.writeW_placed (g : Group) (l n : Nat) (x : BitVec 192) : (g.writeW l n x).placed = g.placed := rfl
@[simp] theorem Group.writeW_v (g : Group) (l n : Nat) (x : BitVec 192) : (g.writeW l n x).v = g.v := rfl
@[simp] theorem Group.writeW_x (g : Group) (l n : Nat) (x : BitVec 192) : (g.writeW l n x).x = g.x := rfl
@[simp] theorem Group.writeW_p (g : Group) (l n : Nat) (x : BitVec 192) : (g.writeW l n x).p = g.p := rfl
@[simp] theorem Group.writeW_s (g : Group) (l n : Nat) (x : BitVec 192) : (g.writeW l n x).s = g.s := rfl
@[simp] theorem Group.writeW_c (g : Group) (l n : Nat) (x : BitVec 192) : (g.writeW l n x).c = g.c := rfl
@[simp] theorem Group.writeW_b (g : Group) (l n : Nat) (x : BitVec 192) : (g.writeW l n x).b = g.b := rfl
@[simp] theorem Group.writeW_key (g : Group) (l n : Nat) (x : BitVec 192) : (g.writeW l n x).key = g.key := rfl
@[simp] theorem Group.writeW_stream (g : Group) (l n : Nat) (x : BitVec 192) : (g.writeW l n x).stream = g.stream := rfl
@[simp] theorem Group.writeW_counter (g : Group) (l n : Nat) (x : BitVec 192) : (g.writeW l n x).counter = g.counter := rfl
@[simp] theorem Group.writeW_flags (g : Group) (l n : Nat) (x : BitVec 192) : (g.writeW l n x).flags = g.flags := rfl
@[simp] theorem Group.writeW_undef (g : Group) (l n : Nat) (x : BitVec 192) : (g.writeW l n x).undef = g.undef := rfl
@[simp] theorem Group.writeW_badV (g : Group) (l n : Nat) (x : BitVec 192) : (g.writeW l n x).badV = g.badV := rfl
@[simp] theorem Group.writeW_badX (g : Group) (l n : Nat) (x : BitVec 192) : (g.writeW l n x).badX = g.badX := rfl
@[simp] theorem Group.writeW_badW (g : Group) (l n : Nat) (x : BitVec 192) : (g.writeW l n x).badW = unmarkAll g.badW (6 * (l * 8 + n)) 6 := rfl
@[simp] theorem Group.writeW_badS (g : Group) (l n : Nat) (x : BitVec 192) : (g.writeW l n x).badS = g.badS := rfl
@[simp] theorem Group.writeW_badC (g : Group) (l n : Nat) (x : BitVec 192) : (g.writeW l n x).badC = g.badC := rfl
@[simp] theorem Group.writeW_badGen (g : Group) (l n : Nat) (x : BitVec 192) : (g.writeW l n x).badGen = g.badGen := rfl
@[simp] theorem Group.writeW_blocks (g : Group) (l n : Nat) (x : BitVec 192) : (g.writeW l n x).blocks = g.blocks := rfl
@[simp] theorem Group.writeW_table (g : Group) (l n : Nat) (x : BitVec 192) : (g.writeW l n x).table = g.table := rfl
@[simp] theorem Group.writeW_table1 (g : Group) (l n : Nat) (x : BitVec 192) : (g.writeW l n x).table1 = g.table1 := rfl
@[simp] theorem Group.writeW_parked (g : Group) (l n : Nat) (x : BitVec 192) : (g.writeW l n x).parked = g.parked := rfl
@[simp] theorem Group.writeW_arrived (g : Group) (l n : Nat) (x : BitVec 192) : (g.writeW l n x).arrived = g.arrived := rfl
@[simp] theorem Group.writeW_live (g : Group) (l n : Nat) (x : BitVec 192) : (g.writeW l n x).live = g.live := rfl
@[simp] theorem Group.writeW_help (g : Group) (l n : Nat) (x : BitVec 192) : (g.writeW l n x).help = g.help := rfl
@[simp] theorem Group.writeW_lds (g : Group) (l n : Nat) (x : BitVec 192) : (g.writeW l n x).lds = g.lds := rfl
@[simp] theorem Group.writeW_sts (g : Group) (l n : Nat) (x : BitVec 192) : (g.writeW l n x).sts = g.sts := rfl
@[simp] theorem Group.writeW_cps (g : Group) (l n : Nat) (x : BitVec 192) : (g.writeW l n x).cps = g.cps := rfl
@[simp] theorem Group.writeW_tls (g : Group) (l n : Nat) (x : BitVec 192) : (g.writeW l n x).tls = g.tls := rfl
@[simp] theorem Group.writeW_entries (g : Group) (l n : Nat) (x : BitVec 192) : (g.writeW l n x).entries = g.entries := rfl
@[simp] theorem Group.writeW_sbuf (g : Group) (l n : Nat) (x : BitVec 192) : (g.writeW l n x).sbuf = g.sbuf := rfl
@[simp] theorem Group.writeW_queries (g : Group) (l n : Nat) (x : BitVec 192) : (g.writeW l n x).queries = g.queries := rfl
@[simp] theorem Group.writeW_hnd (g : Group) (l n : Nat) (x : BitVec 192) : (g.writeW l n x).hnd = g.hnd := rfl
@[simp] theorem Group.writeW_book (g : Group) (l n : Nat) (x : BitVec 192) : (g.writeW l n x).book = g.book := rfl
@[simp] theorem Group.writeW_hcount (g : Group) (l n : Nat) (x : BitVec 192) : (g.writeW l n x).hcount = g.hcount := rfl
@[simp] theorem Group.writeW_pend (g : Group) (l n : Nat) (x : BitVec 192) : (g.writeW l n x).pend = g.pend := rfl
@[simp] theorem Group.writeW_wait (g : Group) (l n : Nat) (x : BitVec 192) : (g.writeW l n x).wait = g.wait := rfl
@[simp] theorem Group.writeW_waitPc (g : Group) (l n : Nat) (x : BitVec 192) : (g.writeW l n x).waitPc = g.waitPc := rfl
@[simp] theorem Group.writeW_waitRun (g : Group) (l n : Nat) (x : BitVec 192) : (g.writeW l n x).waitRun = g.waitRun := rfl
@[simp] theorem Group.writeW_spawned (g : Group) (l n : Nat) (x : BitVec 192) : (g.writeW l n x).spawned = g.spawned := rfl
@[simp] theorem Group.writeW_held (g : Group) (l n : Nat) (x : BitVec 192) : (g.writeW l n x).held = g.held := rfl
@[simp] theorem Group.writeW_ready (g : Group) (l n : Nat) (x : BitVec 192) : (g.writeW l n x).ready = g.ready := rfl
@[simp] theorem Group.writeW_turned (g : Group) (l n : Nat) (x : BitVec 192) : (g.writeW l n x).turned = g.turned := rfl
@[simp] theorem Group.writeW_since (g : Group) (l n : Nat) (x : BitVec 192) : (g.writeW l n x).since = g.since := rfl

@[simp] theorem Group.writeB_ctx (g : Group) (n : Nat) (x : Bool) : (g.writeB n x).ctx = g.ctx := rfl
@[simp] theorem Group.writeB_grid (g : Group) (n : Nat) (x : Bool) : (g.writeB n x).grid = g.grid := rfl
@[simp] theorem Group.writeB_team (g : Group) (n : Nat) (x : Bool) : (g.writeB n x).team = g.team := rfl
@[simp] theorem Group.writeB_role (g : Group) (n : Nat) (x : Bool) : (g.writeB n x).role = g.role := rfl
@[simp] theorem Group.writeB_num (g : Group) (n : Nat) (x : Bool) : (g.writeB n x).num = g.num := rfl
@[simp] theorem Group.writeB_width (g : Group) (n : Nat) (x : Bool) : (g.writeB n x).width = g.width := rfl
@[simp] theorem Group.writeB_gang (g : Group) (n : Nat) (x : Bool) : (g.writeB n x).gang = g.gang := rfl
@[simp] theorem Group.writeB_lbud (g : Group) (n : Nat) (x : Bool) : (g.writeB n x).lbud = g.lbud := rfl
@[simp] theorem Group.writeB_wbud (g : Group) (n : Nat) (x : Bool) : (g.writeB n x).wbud = g.wbud := rfl
@[simp] theorem Group.writeB_ubud (g : Group) (n : Nat) (x : Bool) : (g.writeB n x).ubud = g.ubud := rfl
@[simp] theorem Group.writeB_carryV (g : Group) (n : Nat) (x : Bool) : (g.writeB n x).carryV = g.carryV := rfl
@[simp] theorem Group.writeB_carryW (g : Group) (n : Nat) (x : Bool) : (g.writeB n x).carryW = g.carryW := rfl
@[simp] theorem Group.writeB_pos (g : Group) (n : Nat) (x : Bool) : (g.writeB n x).pos = g.pos := rfl
@[simp] theorem Group.writeB_die (g : Group) (n : Nat) (x : Bool) : (g.writeB n x).die = g.die := rfl
@[simp] theorem Group.writeB_core (g : Group) (n : Nat) (x : Bool) : (g.writeB n x).core = g.core := rfl
@[simp] theorem Group.writeB_sub (g : Group) (n : Nat) (x : Bool) : (g.writeB n x).sub = g.sub := rfl
@[simp] theorem Group.writeB_stage (g : Group) (n : Nat) (x : Bool) : (g.writeB n x).stage = g.stage := rfl
@[simp] theorem Group.writeB_placed (g : Group) (n : Nat) (x : Bool) : (g.writeB n x).placed = g.placed := rfl
@[simp] theorem Group.writeB_v (g : Group) (n : Nat) (x : Bool) : (g.writeB n x).v = g.v := rfl
@[simp] theorem Group.writeB_x (g : Group) (n : Nat) (x : Bool) : (g.writeB n x).x = g.x := rfl
@[simp] theorem Group.writeB_w (g : Group) (n : Nat) (x : Bool) : (g.writeB n x).w = g.w := rfl
@[simp] theorem Group.writeB_p (g : Group) (n : Nat) (x : Bool) : (g.writeB n x).p = g.p := rfl
@[simp] theorem Group.writeB_s (g : Group) (n : Nat) (x : Bool) : (g.writeB n x).s = g.s := rfl
@[simp] theorem Group.writeB_c (g : Group) (n : Nat) (x : Bool) : (g.writeB n x).c = g.c := rfl
@[simp] theorem Group.writeB_key (g : Group) (n : Nat) (x : Bool) : (g.writeB n x).key = g.key := rfl
@[simp] theorem Group.writeB_stream (g : Group) (n : Nat) (x : Bool) : (g.writeB n x).stream = g.stream := rfl
@[simp] theorem Group.writeB_counter (g : Group) (n : Nat) (x : Bool) : (g.writeB n x).counter = g.counter := rfl
@[simp] theorem Group.writeB_flags (g : Group) (n : Nat) (x : Bool) : (g.writeB n x).flags = g.flags := rfl
@[simp] theorem Group.writeB_undef (g : Group) (n : Nat) (x : Bool) : (g.writeB n x).undef = g.undef := rfl
@[simp] theorem Group.writeB_badV (g : Group) (n : Nat) (x : Bool) : (g.writeB n x).badV = g.badV := rfl
@[simp] theorem Group.writeB_badX (g : Group) (n : Nat) (x : Bool) : (g.writeB n x).badX = g.badX := rfl
@[simp] theorem Group.writeB_badW (g : Group) (n : Nat) (x : Bool) : (g.writeB n x).badW = g.badW := rfl
@[simp] theorem Group.writeB_badS (g : Group) (n : Nat) (x : Bool) : (g.writeB n x).badS = g.badS := rfl
@[simp] theorem Group.writeB_badC (g : Group) (n : Nat) (x : Bool) : (g.writeB n x).badC = g.badC := rfl
@[simp] theorem Group.writeB_badGen (g : Group) (n : Nat) (x : Bool) : (g.writeB n x).badGen = g.badGen := rfl
@[simp] theorem Group.writeB_blocks (g : Group) (n : Nat) (x : Bool) : (g.writeB n x).blocks = g.blocks := rfl
@[simp] theorem Group.writeB_table (g : Group) (n : Nat) (x : Bool) : (g.writeB n x).table = g.table := rfl
@[simp] theorem Group.writeB_table1 (g : Group) (n : Nat) (x : Bool) : (g.writeB n x).table1 = g.table1 := rfl
@[simp] theorem Group.writeB_parked (g : Group) (n : Nat) (x : Bool) : (g.writeB n x).parked = g.parked := rfl
@[simp] theorem Group.writeB_arrived (g : Group) (n : Nat) (x : Bool) : (g.writeB n x).arrived = g.arrived := rfl
@[simp] theorem Group.writeB_live (g : Group) (n : Nat) (x : Bool) : (g.writeB n x).live = g.live := rfl
@[simp] theorem Group.writeB_help (g : Group) (n : Nat) (x : Bool) : (g.writeB n x).help = g.help := rfl
@[simp] theorem Group.writeB_lds (g : Group) (n : Nat) (x : Bool) : (g.writeB n x).lds = g.lds := rfl
@[simp] theorem Group.writeB_sts (g : Group) (n : Nat) (x : Bool) : (g.writeB n x).sts = g.sts := rfl
@[simp] theorem Group.writeB_cps (g : Group) (n : Nat) (x : Bool) : (g.writeB n x).cps = g.cps := rfl
@[simp] theorem Group.writeB_tls (g : Group) (n : Nat) (x : Bool) : (g.writeB n x).tls = g.tls := rfl
@[simp] theorem Group.writeB_entries (g : Group) (n : Nat) (x : Bool) : (g.writeB n x).entries = g.entries := rfl
@[simp] theorem Group.writeB_sbuf (g : Group) (n : Nat) (x : Bool) : (g.writeB n x).sbuf = g.sbuf := rfl
@[simp] theorem Group.writeB_queries (g : Group) (n : Nat) (x : Bool) : (g.writeB n x).queries = g.queries := rfl
@[simp] theorem Group.writeB_hnd (g : Group) (n : Nat) (x : Bool) : (g.writeB n x).hnd = g.hnd := rfl
@[simp] theorem Group.writeB_book (g : Group) (n : Nat) (x : Bool) : (g.writeB n x).book = g.book := rfl
@[simp] theorem Group.writeB_hcount (g : Group) (n : Nat) (x : Bool) : (g.writeB n x).hcount = g.hcount := rfl
@[simp] theorem Group.writeB_pend (g : Group) (n : Nat) (x : Bool) : (g.writeB n x).pend = g.pend := rfl
@[simp] theorem Group.writeB_wait (g : Group) (n : Nat) (x : Bool) : (g.writeB n x).wait = g.wait := rfl
@[simp] theorem Group.writeB_waitPc (g : Group) (n : Nat) (x : Bool) : (g.writeB n x).waitPc = g.waitPc := rfl
@[simp] theorem Group.writeB_waitRun (g : Group) (n : Nat) (x : Bool) : (g.writeB n x).waitRun = g.waitRun := rfl
@[simp] theorem Group.writeB_spawned (g : Group) (n : Nat) (x : Bool) : (g.writeB n x).spawned = g.spawned := rfl
@[simp] theorem Group.writeB_held (g : Group) (n : Nat) (x : Bool) : (g.writeB n x).held = g.held := rfl
@[simp] theorem Group.writeB_ready (g : Group) (n : Nat) (x : Bool) : (g.writeB n x).ready = g.ready := rfl
@[simp] theorem Group.writeB_turned (g : Group) (n : Nat) (x : Bool) : (g.writeB n x).turned = g.turned := rfl
@[simp] theorem Group.writeB_since (g : Group) (n : Nat) (x : Bool) : (g.writeB n x).since = g.since := rfl

end Sys2Proof.Machine
end

