-- ==== Sys2Proof/Laws/Group.lean ====
section
/-! SUPPORT. Laws of a group's registers and of the lanes of a mask. -/

namespace Sys2Proof.Machine

theorem mem_lanesOf {m : BitVec 64} {l : Nat} : l ∈ lanesOf m ↔ l < 64 ∧ m.getLsbD l = true := by
  simp [lanesOf, List.mem_filter]

theorem lanesOf_nodup (m : BitVec 64) : (lanesOf m).Nodup := List.Nodup.filter _ List.nodup_range

theorem lanesOf_lt {m : BitVec 64} {l : Nat} (h : l ∈ lanesOf m) : l < 64 := (mem_lanesOf.1 h).1

theorem Group.readV_writeV (g : Group) (l n l' n' : Nat) (x : W32) (h : n < 256) (h' : n' < 256) :
    (g.writeV l n x).readV l' n' = if l = l' ∧ n = n' then x else g.readV l' n' := by
  unfold Group.writeV Group.readV
  simp only [Map.get?_set]
  by_cases hk : l * 256 + n = l' * 256 + n'
  · have : l = l' ∧ n = n' := by omega
    simp [this]
  · have : ¬(l = l' ∧ n = n') := by rintro ⟨rfl, rfl⟩; exact hk rfl
    simp [hk, this]

/-- What a write of w consecutive registers leaves alone. -/
theorem Group.readV_writeWide_out (g : Group) (l n w x l' n' : Nat) (h : n + w ≤ 256) (h' : n' < 256)
    (hout : ¬(l = l' ∧ n ≤ n' ∧ n' < n + w)) : (g.writeWide l n w x).readV l' n' = g.readV l' n' := by
  induction w generalizing g n x with
  | zero => rfl
  | succ w ih =>
    rw [Group.writeWide, ih _ (n + 1) _ (by omega) (by omega), Group.readV_writeV g l n l' n' _ (by omega) h', if_neg (by omega)]

theorem Group.readWide_congr {g g' : Group} {l n w : Nat} (h : ∀ k, n ≤ k → k < n + w → g.readV l k = g'.readV l k) :
    g.readWide l n w = g'.readWide l n w := by
  induction w generalizing n with
  | zero => rfl
  | succ w ih => rw [Group.readWide, Group.readWide, h n (by omega) (by omega), ih fun k hk hk' => h k (by omega) (by omega)]

/-- Registers are read from v and from the free values of the epoch alone. -/
theorem Group.readV_regs {g g' : Group} (hv : g.v = g'.v) (hu : g.undef = g'.undef) (l n : Nat) : g.readV l n = g'.readV l n := by
  simp only [Group.readV, hv, hu]

theorem Group.readWide_regs {g g' : Group} (hv : g.v = g'.v) (hu : g.undef = g'.undef) (l n w : Nat) :
    g.readWide l n w = g'.readWide l n w := Group.readWide_congr fun k _ _ => Group.readV_regs hv hu l k

/-- What a write of w consecutive registers leaves in them. -/
theorem Group.readWide_writeWide (g : Group) (l n w x : Nat) (h : n + w ≤ 256) :
    (g.writeWide l n w x).readWide l n w = x % 2 ^ (32 * w) := by
  induction w generalizing g n x with
  | zero => simp [Group.readWide, Nat.mod_one]
  | succ w ih =>
    rw [Group.readWide, Group.writeWide, ih _ (n + 1) _ (by omega),
      Group.readV_writeWide_out _ _ _ _ _ _ _ (by omega) (by omega) (by omega), Group.readV_writeV _ _ _ _ _ _ (by omega) (by omega),
      if_pos ⟨rfl, rfl⟩, BitVec.toNat_ofNat, show 32 * (w + 1) = 32 + 32 * w by omega, Nat.pow_add, Nat.mod_mul]

/-- A mark that a write of w consecutive registers leaves: one of a register it does not write (R483). -/
theorem Group.mem_badV_writeWide (g : Group) (l n w x k : Nat) :
    k ∈ (g.writeWide l n w x).badV ↔ k ∈ g.badV ∧ ¬(l * 256 + n ≤ k ∧ k < l * 256 + n + w) := by
  induction w generalizing g n x with
  | zero => rw [Group.writeWide]; constructor <;> [exact fun h => ⟨h, by omega⟩; exact And.left]
  | succ w ih =>
    rw [Group.writeWide, ih, Group.writeV_badV]
    simp only [unmark, List.mem_filter, Bool.not_eq_true', beq_eq_false_iff_ne, ne_eq, and_assoc]
    constructor <;> rintro ⟨h1, h2⟩ <;> exact ⟨h1, by omega⟩

theorem Group.writeWide_frame (g : Group) (l n w x : Nat) : { g.writeWide l n w x with v := g.v, badV := g.badV } = g := by
  induction w generalizing g n x with
  | zero => rfl
  | succ w ih =>
    have := ih (g.writeV l n (BitVec.ofNat 32 x)) (n + 1) (x / 2 ^ 32)
    exact congrArg (fun k : Group => { k with v := g.v, badV := g.badV }) this

/-- A group that differs from another in its v registers and their marks only. -/
theorem Group.eq_of_frame {g g' : Group} (h : { g' with v := g.v, badV := g.badV } = g) :
    g' = { g with v := g'.v, badV := g'.badV } := by rw [← h]

theorem Group.putLane_eq (g : Group) (l : Nat) (d : LDst) (w x : Nat) (hd : dstIsChan d = false) :
    g.putLane l d w x = g.writeWide l (g.dstReg l d) w x := by
  cases d <;> simp_all [Group.putLane, Group.dstReg, dstIsChan]

theorem Group.dstReg_frame {g g' : Group} (h : { g' with v := g.v, badV := g.badV } = g) (l : Nat) (d : LDst) : g'.dstReg l d = g.dstReg l d := by
  rw [Group.eq_of_frame h]; rfl

theorem Group.putLanes_frame (g : Group) (d : LDst) (w : Nat) (r : List (Nat × Nat)) : { g.putLanes d w r with v := g.v, badV := g.badV } = g := by
  induction r generalizing g with
  | nil => rfl
  | cons e r ih =>
    have h1 : { g.putLane e.1 d w e.2 with v := g.v, badV := g.badV } = g := by
      cases d <;> first | exact Group.writeWide_frame _ _ _ _ _ | rfl
    have h2 := ih (g.putLane e.1 d w e.2)
    rw [Group.putLanes]
    exact (congrArg (fun k : Group => { k with v := g.v, badV := g.badV }) h2).trans h1

/-- Results put in lanes: each lane's destination holds its result, and every other register of every lane is as before. -/
theorem Group.putLanes_spec (g : Group) (d : LDst) (w : Nat) (r : List (Nat × Nat)) (hd : dstIsChan d = false)
    (hr : (r.map (fun e => e.1)).Nodup) (hb : w = 0 ∨ ∀ e ∈ r, g.dstReg e.1 d + w ≤ 256) :
    (∀ e ∈ r, (g.putLanes d w r).readWide e.1 (g.dstReg e.1 d) w = e.2 % 2 ^ (32 * w)) ∧
    (∀ l n, n < 256 → ¬(l ∈ r.map (fun e => e.1) ∧ g.dstReg l d ≤ n ∧ n < g.dstReg l d + w) →
      (g.putLanes d w r).readV l n = g.readV l n) ∧
    (∀ l n, n < 256 → (l * 256 + n ∈ (g.putLanes d w r).badV ↔
      l * 256 + n ∈ g.badV ∧ ¬(l ∈ r.map (fun e => e.1) ∧ g.dstReg l d ≤ n ∧ n < g.dstReg l d + w))) := by
  rcases Nat.eq_zero_or_pos w with rfl | hw
  · have h0 : g.putLanes d 0 r = g := by
      clear hr hb
      induction r generalizing g with
      | nil => rfl
      | cons e r ih => rw [Group.putLanes, Group.putLane_eq _ _ _ _ _ hd]; exact ih g
    rw [h0]
    exact ⟨fun e _ => by simp [Group.readWide, Nat.mod_one], fun _ _ _ _ => rfl, fun l n _ => ⟨fun h => ⟨h, by omega⟩, And.left⟩⟩
  have hb : ∀ e ∈ r, g.dstReg e.1 d + w ≤ 256 := hb.resolve_left (by omega)
  induction r generalizing g with
  | nil => exact ⟨fun e he => by simp at he, fun l n _ _ => rfl, fun l n _ => by simp [Group.putLanes]⟩
  | cons e r ih =>
    have hf : ∀ l, (g.putLane e.1 d w e.2).dstReg l d = g.dstReg l d := fun l =>
      Group.dstReg_frame (by rw [Group.putLane_eq _ _ _ _ _ hd]; exact Group.writeWide_frame _ _ _ _ _) l d
    simp only [List.map_cons, List.nodup_cons] at hr
    have he := hb e (by simp)
    obtain ⟨h1, h2, h3⟩ := ih (g.putLane e.1 d w e.2) hr.2 (Or.inr fun a ha => by rw [hf]; exact hb a (by simp [ha]))
      (fun a ha => by rw [hf]; exact hb a (by simp [ha]))
    simp only [hf] at h1 h2 h3
    have hown : ∀ n, n < 256 → (g.putLanes d w (e :: r)).readV e.1 n = (g.writeWide e.1 (g.dstReg e.1 d) w e.2).readV e.1 n := by
      intro n hn
      rw [Group.putLanes, h2 e.1 n hn (fun h => hr.1 h.1), Group.putLane_eq _ _ _ _ _ hd]
    refine ⟨fun a ha => ?_, fun l n hn hout => ?_, fun l n hn => ?_⟩
    · rcases List.mem_cons.1 ha with rfl | ha
      · rw [Group.readWide_congr (fun k hk hk' => hown k (by omega)), Group.readWide_writeWide _ _ _ _ _ he]
      · exact h1 a ha
    · rw [Group.putLanes]
      have hl : ¬(l ∈ r.map (fun e => e.1) ∧ g.dstReg l d ≤ n ∧ n < g.dstReg l d + w) := fun h =>
        hout ⟨List.mem_cons_of_mem _ h.1, h.2⟩
      rw [h2 l n hn hl, Group.putLane_eq _ _ _ _ _ hd]
      refine Group.readV_writeWide_out _ _ _ _ _ _ _ he hn (fun h => hout ?_)
      obtain ⟨rfl, h⟩ := h
      exact ⟨by simp, h⟩
    · rw [Group.putLanes, h3 l n hn, Group.putLane_eq _ _ _ _ _ hd, Group.mem_badV_writeWide, List.map_cons, List.mem_cons]
      by_cases hl : l = e.1
      · subst hl
        simp only [true_or, true_and]
        exact ⟨fun h => ⟨h.1.1, by omega⟩, fun h => ⟨⟨h.1, by omega⟩, fun a => hr.1 a.1⟩⟩
      · simp only [hl, false_or]
        constructor <;> rintro h <;> first | exact ⟨h.1.1, h.2⟩ | exact ⟨⟨h.1, by omega⟩, h.2⟩

end Sys2Proof.Machine
end

