-- ==== Sys2Proof/Laws/Io.lean ====
section
/-! SUPPORT. What reads at IO virtual addresses give where nothing of the host's memory is mapped elsewhere. -/

namespace Sys2Proof.Machine

/-- The host has mapped no page elsewhere, and all physical addresses are its own memory, without poison. -/
def State.PlainHost (s : State) : Prop := s.ioMap = [] ∧ s.hdm = none ∧ s.wsEn = false ∧ s.hostBad = []

theorem State.ioPlace_plain {s : State} (h : s.PlainHost) (fn a : Nat) : s.ioPlace fn a = some (.host a, .served) := by
  obtain ⟨h1, h2, h3, -⟩ := h
  simp [State.ioPlace, State.ioAt, State.route, h1, h2, h3, Map.get?, State.access, Loc.keeper, State.served, State.reach, pathOf, State.hostOwned]

theorem State.ioReadPieces_plain {s : State} (h : s.PlainHost) (fn : Nat) (l : List (Nat × Nat)) : ∃ b, s.ioReadPieces fn l = .ok s b := by
  induction l with
  | nil => exact ⟨[], rfl⟩
  | cons p r ih =>
    obtain ⟨b, hb⟩ := ih
    refine ⟨s.bytesAt (.host p.1) p.2 ++ b, ?_⟩
    have hp : s.poisoned (.host p.1) p.2 = false := by simp [State.poisoned, badIn, h.2.2.2]
    have ho : s.obtainAt (.host p.1) p.2 = s := rfl
    simp [State.ioReadPieces, State.ioPlace_plain h, hp, ho, hb]

/-- A read of the host's own memory gives its bytes and changes nothing. -/
theorem State.ioRead_plain {s : State} (h : s.PlainHost) (fn a n : Nat) : ∃ b, s.ioRead fn a n = .ok s b := State.ioReadPieces_plain h fn _

end Sys2Proof.Machine
end

