-- ==== Sys2Proof/Laws/Lane.lean ====
section
/-! SUPPORT. What the frame of a lane instruction does when nothing stops it. -/

namespace Sys2Proof.Machine

/-! ## Draws -/

theorem Group.drawN_frame (g : Group) (l n : Nat) : { (g.drawN l n).2 with counter := g.counter } = g := by
  induction n generalizing g with
  | zero => rfl
  | succ n ih =>
    have := ih (g.draw l).2
    exact congrArg (fun k : Group => { k with counter := g.counter }) this

theorem Group.drawN_counter (g : Group) (l n k : Nat) :
    (g.drawN l n).2.counter.getD k 0 = g.counter.getD k 0 + (if k = l then BitVec.ofNat 64 n else 0) := by
  induction n generalizing g with
  | zero => simp [Group.drawN]
  | succ n ih =>
    have h : (g.drawN l (n + 1)).2 = ((g.draw l).2.drawN l n).2 := rfl
    have hd : (g.draw l).2.counter = g.counter.set l (g.counter.getD l 0 + 1) := rfl
    rw [h, ih, hd, Map.getD_set]
    by_cases hk : k = l
    · subst hk
      have : BitVec.ofNat 64 (n + 1) = 1#64 + BitVec.ofNat 64 n := by rw [BitVec.ofNat_add, BitVec.add_comm]
      simp [this, BitVec.add_assoc]
    · have : ¬ l = k := fun h => hk h.symm
      simp [hk, this]

theorem Group.afterDraws_frame (g : Group) (n : Nat) (r : List Nat) : { g.afterDraws n r with counter := g.counter } = g := by
  induction r generalizing g with
  | nil => rfl
  | cons l r ih =>
    have h2 := ih (g.drawN l n).2
    exact (congrArg (fun k : Group => { k with counter := g.counter }) h2).trans (Group.drawN_frame g l n)

theorem Group.afterDraws_counter (g : Group) (n : Nat) (r : List Nat) (h : r.Nodup) (k : Nat) :
    (g.afterDraws n r).counter.getD k 0 = g.counter.getD k 0 + (if k ∈ r then BitVec.ofNat 64 n else 0) := by
  induction r generalizing g with
  | nil => simp [Group.afterDraws]
  | cons l r ih =>
    simp only [List.nodup_cons] at h
    rw [Group.afterDraws, ih _ h.2, Group.drawN_counter]
    by_cases hk : k = l
    · subst hk; simp [h.1]
    · simp [hk]

/-! ## The frame -/

theorem Group.srcValue_noChan (g : Group) (tick l : Nat) (o : Src) (ty : ImmTy) (ch : Map Val) (h : (srcChan o.src).isNone = true) :
    g.srcValue tick l o ty ch = g.srcValue 0 l o ty [] := by
  obtain ⟨src, w⟩ := o
  cases src <;> first | rfl | simp [srcChan] at h

theorem Group.inputs_noChan (g : Group) (tick : Nat) (f : LaneForm) (on : BitVec 64) (h : f.noChan = true) :
    g.inputs tick f on [] = (lanesOf on).map (g.laneIn f) := by
  simp only [LaneForm.noChan, Bool.and_eq_true] at h
  obtain ⟨⟨⟨_, ha⟩, hb⟩, hc⟩ := h
  unfold Group.inputs Group.laneIn
  apply List.map_congr_left
  intro l _
  simp [Group.srcValue_noChan _ tick l _ _ _ ha, Group.srcValue_noChan _ tick l _ _ _ hb, Group.srcValue_noChan _ tick l _ _ _ hc]

theorem withIssue_issues {s : State} {g : Group} {t : Team} {pc : W64} {run : BitVec 64} (h : s.Issues g t pc run) (i : Instr)
    (len : Nat) (k : Issue → Result) (hb : usesB0 i = false) : withIssue i len s k = k ⟨i, s.focus, g, pc, run, len⟩ := by
  unfold withIssue
  rw [h.1]
  simp only [h.2.1, hb, Bool.false_and]
  rfl

theorem Issue.laneChecks_ready {c : Issue} {t : Team} {f : LaneForm} {on : BitVec 64} (hn : f.noChan = true) (h : c.g.LaneReady f on) :
    c.laneChecks t f on = none := by
  obtain ⟨h1, h2, h3, h4, h5, h6, h7, h8, h9, _⟩ := h
  simp only [LaneForm.noChan, Bool.and_eq_true, Bool.not_eq_true'] at hn
  obtain ⟨⟨⟨hd, ha⟩, hb⟩, hc⟩ := hn
  have kind : ∀ o : LSrc, (srcChan o).isNone = true → t.srcKind .lane o = true := by
    intro o ho; cases o <;> first | rfl | simp [srcChan] at ho
  have kd : t.dstKind .lane f.d = true := by
    revert hd; cases f.d <;> simp [dstIsChan, Team.dstKind]
  simp only [Issue.laneChecks, List.all_cons, List.all_nil, h1, h2, h3, h4, kind _ ha, kind _ hb, kind _ hc, kd, h8,
    List.flatMap_cons, List.flatMap_nil, h5, h6, h7]
  simp_all

/-- A lane instruction whose operands are no channels and that nothing stops acts on the group and moves its run on (R217). -/
theorem laneFrame_ready {s : State} {g : Group} {t : Team} {pc : W64} {run : BitVec 64} (h : s.Issues g t pc run) (i : Instr)
    (len : Nat) (f : LaneForm) (chk : List LaneIn → Option (Nat × Map W64))
    (act : Issue → BitVec 64 → List LaneIn → Group → Group × List (Nat × Nat)) (hb : usesB0 i = false) (hn : f.noChan = true)
    (hr : g.LaneReady f (g.active run f.guard))
    (hc : chk ((lanesOf (g.active run f.guard)).map (g.laneIn f)) = none) :
    laneFrame i len f s chk act = .next (s.setGroup s.focus
      (((act ⟨i, s.focus, g, pc, run, len⟩ (g.active run f.guard) ((lanesOf (g.active run f.guard)).map (g.laneIn f)) g).1.afterDraws
        f.draws (lanesOf (g.active run f.guard))).place run [(pc + BitVec.ofNat 64 len, run)])) := by
  unfold laneFrame
  rw [withIssue_issues h i len _ hb]
  have hl := Issue.laneChecks_ready (c := ⟨i, s.focus, g, pc, run, len⟩) (t := t) hn hr
  have hu : ([srcChan f.a.src, srcChan f.b.src, srcChan f.c.src].any Option.isSome) = false := by
    simp only [LaneForm.noChan, Bool.and_eq_true] at hn
    simp_all
  have hd : dstIsChan f.d = false := by simp only [LaneForm.noChan, Bool.and_eq_true, Bool.not_eq_true'] at hn; exact hn.1.1.1
  simp only [h.2.2]
  have hg : run &&& g.guardMask f.guard = g.active run f.guard := rfl
  have hk : g.blocked (Issue.laneKeys ⟨i, s.focus, g, pc, run, len⟩ f (g.active run f.guard) ++ (if f.draws = 0 then [] else [drawKey])) = false :=
    hr.2.2.2.2.2.2.2.2.2
  have hw : g.badWords (g.active run f.guard) (Issue.laneReads ⟨i, s.focus, g, pc, run, len⟩ f (g.active run f.guard)) = false := hr.2.2.2.2.2.2.2.2.1
  simp only [hg, hl, hk, hw, hu, hd, Group.inputs_noChan _ _ _ _ hn, hc, Bool.not_false, Bool.and_self, if_true, Bool.false_eq_true, if_false]
  rfl

/-- A destination of at most four registers lies among v0 to v255 in every active lane. -/
theorem Group.dst_in_range {g : Group} {f : LaneForm} {on : BitVec 64} (hw : f.dw = 0 ∨ f.dw = 1 ∨ f.dw = 2 ∨ f.dw = 4)
    (hd : dstIsChan f.d = false) (hr : g.dstBad on f.d f.dw = []) : f.dw = 0 ∨ ∀ l ∈ lanesOf on, g.dstReg l f.d + f.dw ≤ 256 := by
  by_cases h0 : f.dw = 0
  · exact Or.inl h0
  refine Or.inr fun l hl => ?_
  revert hr hd
  cases f.d with
  | reg n => intro _ _; simp only [Group.dstReg]; omega
  | chan p n => intro hd _; simp [dstIsChan] at hd
  | idx x off =>
    intro _ hr
    simp only [Group.dstBad, h0, if_false, Group.outOfBound, List.map_eq_nil_iff, List.filter_eq_nil_iff] at hr
    have := hr l hl
    simp only [Group.inBound, Bool.not_eq_true', Bool.not_eq_false, Bool.and_eq_true, decide_eq_true_eq, beq_iff_eq] at this
    obtain ⟨⟨h1, _⟩, h3⟩ := this
    have : g.limitOf l x.toNat ≤ 256 := Nat.min_le_right _ _
    simp only [Group.dstReg]
    rcases hw with h | h | h | h <;> rw [h] at h3 ⊢ <;> omega

/-- Any lane instruction whose action puts values in D and raises flags writes its lanes (R217). -/
theorem writesLanes_of {i : Instr} {len : Nat} {f : LaneForm} {out : Group → BitVec 64 → Nat → LaneOut}
    {act : Issue → BitVec 64 → List LaneIn → Group → Group × List (Nat × Nat)} (hb : usesB0 i = false)
    (hw : f.dw = 0 ∨ f.dw = 1 ∨ f.dw = 2 ∨ f.dw = 4)
    (he : ∀ s, exec i s = laneFrame i len f s (fun _ => none) act)
    (ha : ∀ c on (g : Group), (act c on ((lanesOf on).map (g.laneIn f)) g).1 =
      (g.putLanes f.d f.dw ((lanesOf on).map (fun l => (l, (out g on l).val)))).raiseFlags ((lanesOf on).map (fun l => (out g on l).flags))) :
    WritesLanes i len f out := by
  intro s g t pc run h hn hr
  have hd : dstIsChan f.d = false := by simp only [LaneForm.noChan, Bool.and_eq_true, Bool.not_eq_true'] at hn; exact hn.1.1.1
  rw [he, laneFrame_ready h i len f _ act hb hn hr rfl, ha]
  refine ⟨_, rfl, ?_⟩
  generalize hon : g.active run f.guard = on at *
  have hmap : ((lanesOf on).map (fun l => (l, (out g on l).val))).map (fun e => e.1) = lanesOf on := by simp [Function.comp_def]
  obtain ⟨h1, h2, h6⟩ := Group.putLanes_spec g f.d f.dw ((lanesOf on).map (fun l => (l, (out g on l).val))) hd
    (by rw [hmap]; exact lanesOf_nodup on)
    ((Group.dst_in_range hw hd hr.2.2.2.2.2.2.2.1).imp_right fun h e he => by
      simp only [List.mem_map] at he; obtain ⟨l, hl, rfl⟩ := he; exact h l hl)
  have hp := Group.eq_of_frame (Group.putLanes_frame g f.d f.dw ((lanesOf on).map (fun l => (l, (out g on l).val))))
  generalize (g.putLanes f.d f.dw ((lanesOf on).map (fun l => (l, (out g on l).val)))).v = v1 at *
  generalize (g.putLanes f.d f.dw ((lanesOf on).map (fun l => (l, (out g on l).val)))).badV = m1 at *
  rw [hp] at h1 h2 ⊢
  have hf := Group.afterDraws_frame (Group.raiseFlags { g with v := v1, badV := m1 } ((lanesOf on).map (fun l => (out g on l).flags))) f.draws (lanesOf on)
  have hc := Group.afterDraws_counter (Group.raiseFlags { g with v := v1, badV := m1 } ((lanesOf on).map (fun l => (out g on l).flags))) f.draws
    (lanesOf on) (lanesOf_nodup on)
  generalize (Group.raiseFlags { g with v := v1, badV := m1 } ((lanesOf on).map (fun l => (out g on l).flags))).afterDraws f.draws (lanesOf on) = g3 at *
  have h3 : g3 = { Group.raiseFlags { g with v := v1, badV := m1 } ((lanesOf on).map (fun l => (out g on l).flags)) with counter := g3.counter } := by
    conv_rhs => rw [← hf]
  generalize g3.counter = c3 at *
  subst h3
  exact ⟨fun l hl => Eq.trans (by apply Group.readWide_regs <;> rfl) (h1 _ (List.mem_map.2 ⟨l, hl, rfl⟩)), fun l n hn hout => h2 l n hn (by rw [hmap]; exact hout),
    fun l n hn => by rw [← hmap]; exact h6 l n hn, rfl, hc, rfl⟩

/-- An instruction that computes each lane for itself writes what it computes (R217). -/
theorem writesLanes_laneOp {i : Instr} {len : Nat} {f : LaneForm} {fn : LaneIn → LaneOut} (hb : usesB0 i = false)
    (hw : f.dw = 0 ∨ f.dw = 1 ∨ f.dw = 2 ∨ f.dw = 4) (he : ∀ s, exec i s = laneOp i len f fn s) :
    WritesLanes i len f (perLane f fn) :=
  writesLanes_of hb hw he fun c on g => by
    simp only [writeAct, perLane, List.map_map, Function.comp_def]
    rfl

/-- Only the low bits of a result matter, and its flags. -/
theorem WritesLanes.congr {i : Instr} {len : Nat} {f : LaneForm} {o o' : Group → BitVec 64 → Nat → LaneOut} (h : WritesLanes i len f o)
    (hv : ∀ g on l, f.noChan = true → g.LaneReady f on → (o g on l).val % 2 ^ (32 * f.dw) = (o' g on l).val % 2 ^ (32 * f.dw))
    (hf : ∀ g on l, f.noChan = true → g.LaneReady f on → (o g on l).flags = (o' g on l).flags) : WritesLanes i len f o' := by
  intro s g t pc run hs hn hr
  obtain ⟨g', h1, h2, h3, h7, h4, h5, h6⟩ := h s g t pc run hs hn hr
  refine ⟨g', h1, fun l hl => (h2 l hl).trans (hv _ _ _ hn hr), h3, h7, ?_, h5, h6⟩
  rw [h4]
  congr 1
  exact List.map_congr_left fun l _ => hf _ _ _ hn hr

theorem Group.readWide_lt (g : Group) (l n w : Nat) : g.readWide l n w < 2 ^ (32 * w) := by
  induction w generalizing n with
  | zero => simp [Group.readWide]
  | succ w ih =>
    have h1 := ih (n + 1)
    have h2 := (g.readV l n).isLt
    rw [Group.readWide, show 32 * (w + 1) = 32 * w + 32 by omega, Nat.pow_add]
    generalize Group.readWide g l (n + 1) w = x at *
    generalize 2 ^ (32 * w) = y at *
    omega

/-- The registers that an immediate of a type fills (R167). -/
def immRegs : ImmTy → Nat
  | .s64 | .n64 | .f64 => 2
  | .s32 | .n32 | .f32 | .h16 | .s8 => 1

theorem immValue_lt (ty : ImmTy) (v : BitVec 16) : immValue ty v < 2 ^ (32 * immRegs ty) := by
  have := v.isLt
  cases ty <;> simp only [immValue, immRegs] <;> first | exact BitVec.isLt _ | omega

/-- A source value fits the registers that the source takes. -/
theorem Group.srcValue_lt (g : Group) (l : Nat) (o : Src) (ty : ImmTy) (hn : (srcChan o.src).isNone = true) (hw : immRegs ty ≤ o.w) :
    g.srcValue 0 l o ty [] < 2 ^ (32 * o.w) := by
  obtain ⟨src, w⟩ := o
  cases src with
  | reg n => exact Group.readWide_lt _ _ _ _
  | chan p n => simp [srcChan] at hn
  | idx x off => exact Group.readWide_lt _ _ _ _
  | uni n => exact Nat.mod_lt _ (Nat.two_pow_pos _)
  | imm v => exact Nat.lt_of_lt_of_le (immValue_lt ty v) (Nat.pow_le_pow_right (by decide) (by simp only at hw ⊢; omega))

/-- A short form of two sources (R170): what laneValue gives, in the words of fn. -/
theorem writesLanes_short2 {i : Instr} {op : LaneOp} {d a b : Operand} {dw w : Nat} {ty : ImmTy} {fn : LaneIn → LaneOut} (hb : usesB0 i = false)
    (hw : dw = 0 ∨ dw = 1 ∨ dw = 2 ∨ dw = 4)
    (he : ∀ s, exec i s = laneOp i 4 (form2 d a b dw w ty) (laneValue op .rne) s)
    (hw' : immRegs ty ≤ w)
    (hv : ∀ x : LaneIn, x.b < 2 ^ (32 * w) → (x.a < 2 ^ (32 * w) ∨ ¬ 1 ≤ w) → (laneValue op .rne x).val % 2 ^ (32 * dw) = (fn x).val % 2 ^ (32 * dw) ∧ (laneValue op .rne x).flags = (fn x).flags) :
    WritesLanes i 4 (form2 d a b dw w ty) (perLane (form2 d a b dw w ty) fn) := by
  have key : ∀ (g : Group) l, (form2 d a b dw w ty).noChan = true → 
     (g.laneIn (form2 d a b dw w ty) l).b < 2 ^ (32 * w) ∧ ((g.laneIn (form2 d a b dw w ty) l).a < 2 ^ (32 * w) ∨ ¬ 1 ≤ w) := by
    intro g l hn
    simp only [LaneForm.noChan, Bool.and_eq_true] at hn
    refine ⟨Group.srcValue_lt g l _ _ hn.1.2 hw', ?_⟩
    by_cases h : 1 ≤ w
    · exact Or.inl (Group.srcValue_lt g l _ _ hn.1.1.2 h)
    · exact Or.inr h
  exact (writesLanes_laneOp hb hw he).congr (fun g on l hn _ => (hv _ (key g l hn).1 (key g l hn).2).1) (fun g on l hn _ => (hv _ (key g l hn).1 (key g l hn).2).2)

/-- A short form of one source. -/
theorem writesLanes_short1 {i : Instr} {op : LaneOp} {d b : Operand} {dw w : Nat} {ty : ImmTy} {fn : LaneIn → LaneOut} (hb : usesB0 i = false)
    (hw : dw = 0 ∨ dw = 1 ∨ dw = 2 ∨ dw = 4)
    (he : ∀ s, exec i s = laneOp i 4 (form1 d b dw w ty) (laneValue op .rne) s)
    (hw' : immRegs ty ≤ w)
    (hv : ∀ x : LaneIn, x.b < 2 ^ (32 * w) → (laneValue op .rne x).val % 2 ^ (32 * dw) = (fn x).val % 2 ^ (32 * dw) ∧ (laneValue op .rne x).flags = (fn x).flags) :
    WritesLanes i 4 (form1 d b dw w ty) (perLane (form1 d b dw w ty) fn) := by
  have key : ∀ (g : Group) l, (form1 d b dw w ty).noChan = true → 
     (g.laneIn (form1 d b dw w ty) l).b < 2 ^ (32 * w) := by
    intro g l hn
    simp only [LaneForm.noChan, Bool.and_eq_true] at hn
    exact Group.srcValue_lt g l _ _ hn.1.2 hw'
  exact (writesLanes_laneOp hb hw he).congr (fun g on l hn _ => (hv _ (key g l hn)).1) (fun g on l hn _ => (hv _ (key g l hn)).2)

/-- An extended form. -/
theorem writesLanes_ext {i : Instr} {f : LaneForm} {fn fn0 : LaneIn → LaneOut} (hb : usesB0 i = false)
    (hw : f.dw = 0 ∨ f.dw = 1 ∨ f.dw = 2 ∨ f.dw = 4) (he : ∀ s, exec i s = laneOp i 8 f fn0 s)
    (hv : ∀ x : LaneIn, (fn0 x).val % 2 ^ (32 * f.dw) = (fn x).val % 2 ^ (32 * f.dw) ∧ (fn0 x).flags = (fn x).flags) :
    WritesLanes i 8 f (perLane f fn) :=
  (writesLanes_laneOp hb hw he).congr (fun g on l _ _ => (hv _).1) (fun g on l _ _ => (hv _).2)

/-! ## Exchange, reductions and predicates -/

theorem toSigned_eq32 (x : Nat) : toSigned x 32 = (w32 x).toInt := by
  simp only [toSigned, w32, BitVec.toInt_eq_toNat_cond, BitVec.toNat_ofNat]
theorem toSigned_eq64 (x : Nat) : toSigned x 64 = (w64 x).toInt := by
  simp only [toSigned, w64, BitVec.toInt_eq_toNat_cond, BitVec.toNat_ofNat]

theorem maskOf_getLsbD (l : List Nat) (k : Nat) (hk : k < 64) : (maskOf l).getLsbD k = decide (k ∈ l) := by
  have : ∀ m : BitVec 64, (l.foldl (fun m i => m ||| laneBit i) m).getLsbD k = (m.getLsbD k || decide (k ∈ l)) := by
    induction l with
    | nil => intro m; simp
    | cons a t ih =>
      intro m
      rw [List.foldl_cons, ih (m ||| laneBit a)]
      by_cases h : k = a
      · subst h; simp [hk, laneBit]
      · have h' : ¬ a = k := fun e => h e.symm
        simp [h, h', laneBit, BitVec.getLsbD_twoPow]
  have h0 := this 0
  have : (0 : BitVec 64).getLsbD k = false := by simp
  rw [this, Bool.false_or] at h0; exact h0
theorem find_laneIn (g : Group) (f : LaneForm) (r : List Nat) (k : Nat) :
    (r.map (g.laneIn f)).find? (fun y => y.lane == k) = if k ∈ r then some (g.laneIn f k) else none := by
  induction r with
  | nil => rfl
  | cons a t ih =>
    simp only [List.map_cons, List.find?_cons, List.mem_cons]
    have : (g.laneIn f a).lane = a := rfl
    by_cases h : a = k
    · subst h; simp [this]
    · have h' : ¬ k = a := fun e => h e.symm
      have hb : (a == k) = false := by simpa using h
      simp [this, hb, h', ih]

theorem pick_eq (g : Group) (f : LaneForm) (r : List Nat) (l k : Nat) :
    (match (r.map (g.laneIn f)).find? (fun y => y.lane == k) with | some y => y.a | none => (g.laneIn f l).a) =
    if k ∈ r then (g.laneIn f k).a else (g.laneIn f l).a := by
  rw [find_laneIn]; split <;> simp_all

theorem writeVals_raise (g : Group) (f : LaneForm) (vals : List (Nat × Nat)) (fl : List Flags) (h : ∀ x ∈ fl, x = 0) :
   (writeVals f vals g).1 = (g.putLanes f.d f.dw vals).raiseFlags fl := by
  have : (g.putLanes f.d f.dw vals).raiseFlags fl = g.putLanes f.d f.dw vals := by
    unfold Group.raiseFlags
    generalize g.putLanes f.d f.dw vals = k
    have e : fl.foldl (fun a b => a ||| b) k.flags = k.flags := by
      generalize k.flags = z
      induction fl with
      | nil => rfl
      | cons a t ih => simp only [List.foldl_cons]; rw [h a (by simp), show z ||| 0 = z from BitVec.or_zero]; exact ih fun x hx => h x (by simp [hx])
    rw [e]
  rw [this]; rfl

theorem zero_flags {l : List Nat} {fn : Nat → LaneOut} (h : ∀ x, (fn x).flags = 0) : ∀ x ∈ l.map (fun y => (fn y).flags), x = 0 := by
  intro x hx; simp only [List.mem_map] at hx; obtain ⟨y, -, rfl⟩ := hx; exact h y

theorem writeVals_map (g : Group) (f : LaneForm) (vals : List (Nat × Nat)) (on : BitVec 64) (fn : Nat → LaneOut) (h : ∀ x, (fn x).flags = 0)
    (hv : vals = (lanesOf on).map fun l => (l, (fn l).val)) :
    (writeVals f vals g).1 = (g.putLanes f.d f.dw ((lanesOf on).map fun l => (l, (fn l).val))).raiseFlags ((lanesOf on).map fun l => (fn l).flags) := by
  rw [writeVals_raise _ _ _ _ (zero_flags h), hv]
theorem nodes_eq (g : Group) (f : LaneForm) (r : List Nat) (base n : Nat) :
    nodesOf (r.map (g.laneIn f)) base n = (List.range n).map fun j => if base + j ∈ r then some (g.laneIn f (base + j)).a else none := by
  unfold nodesOf
  apply List.map_congr_left; intro j _
  rw [find_laneIn]
  split <;> split <;> simp_all
theorem reduces (i : Instr) (x : LX) (op op' : Nat → Nat → Nat × Flags) (hb : usesB0 i = false) (he : ∀ s, exec i s = reduceOp i x op s) (hop : op = op') :
    WritesLanes i 8 (formA x) (fun g on l => g.reduced (formA x) op' on l) := by
  subst hop
  refine writesLanes_of (act := reduceAct (formA x) op) hb (by simp [formA]) he ?_
  intro c on g
  simp only [reduceAct, List.map_map, Function.comp_def, nodes_eq]
  rfl
theorem predMask_writePred (g : Group) (n m : Nat) (lanes val : BitVec 64) :
    (g.writePred n lanes val).predMask m = if m = n ∧ n ≠ 0 then (g.predMask n &&& ~~~lanes) ||| (val &&& lanes) else g.predMask m := by
  unfold Group.writePred
  by_cases h0 : n = 0
  · simp [h0]
  · by_cases hm : m = n
    · subst hm; simp [h0, Group.predMask, Map.getD_set]
    · have : ¬ n = m := fun e => hm e.symm
      simp [h0, hm, Group.predMask, Map.getD_set, this]
theorem writesPred_of {i : Instr} {len : Nat} {f : LaneForm} {pd : Nat} {val : Group → BitVec 64 → Nat → Bool}
    {act : Issue → BitVec 64 → List LaneIn → Group → Group × List (Nat × Nat)} (hb : usesB0 i = false) (hd : f.draws = 0)
    (he : ∀ s, exec i s = laneFrame i len f s (fun _ => none) act)
    (ha : ∀ c on (g : Group), ∃ hit, (act c on ((lanesOf on).map (g.laneIn f)) g).1 = g.writePred pd on hit ∧ ∀ l ∈ lanesOf on, hit.getLsbD l = val g on l) :
    WritesPred i len f pd val := by
  intro s g t pc run h hn hr
  rw [he, laneFrame_ready h i len f _ act hb hn hr rfl]
  obtain ⟨hit, e, hv⟩ := ha ⟨i, s.focus, g, pc, run, len⟩ (g.active run f.guard) g
  rw [e]
  refine ⟨_, rfl, ?_⟩
  have ha : ∀ (k : Group) r, k.afterDraws f.draws r = k := by
    intro k r; rw [hd]
    induction r generalizing k with
    | nil => rfl
    | cons a t ih => exact ih k
  rw [ha]
  refine ⟨?_, ?_, ?_⟩
  · intro l hl
    rw [predMask_writePred]
    by_cases h0 : pd = 0
    · simp [h0]
    · simp only [h0, ne_eq, not_false_eq_true, and_self, if_true, true_and]
      by_cases hm : l ∈ lanesOf (g.active run f.guard)
      · rw [if_pos hm]
        have := (mem_lanesOf.1 hm).2
        simp only [BitVec.getLsbD_or, BitVec.getLsbD_and, BitVec.getLsbD_not, this, hv l hm]; simp
      · have : (g.active run f.guard).getLsbD l = false := by
          by_contra hc; exact hm (mem_lanesOf.2 ⟨hl, by simpa using hc⟩)
        simp only [BitVec.getLsbD_or, BitVec.getLsbD_and, BitVec.getLsbD_not, this, hm, if_false]; simp [hl]
  · intro n hn; rw [predMask_writePred, if_neg]; exact fun h => hn h.1
  · unfold Group.writePred; split <;> rfl

end Sys2Proof.Machine
end

