-- ==== Sys2Proof/Laws/Memory.lean ====
section
/-! SUPPORT. Laws of memory: read after write, and the canonical form that every memory operation keeps. -/

namespace Sys2Proof.Machine

theorem Memory.wf_iff (m : Memory) : m.wf = true ↔ Map.sorted m = true ∧ ∀ c ∈ m, c.2 ≠ 0 := by
  simp [Memory.wf]

@[simp] theorem Memory.wf_nil : Memory.wf [] = true := rfl

/-- A write leaves every other byte alone and is read back, in every memory in canonical form. -/
theorem Memory.get_put (m : Memory) (a : Nat) (b : Byte) (k : Nat) (h : m.wf = true) :
    (m.put a b).get k = if a = k then b else m.get k := by
  have hs := ((Memory.wf_iff m).1 h).1
  unfold Memory.put Memory.get
  by_cases hb : b = 0
  · subst hb
    by_cases hk : a = k
    · subst hk; simp [Map.getD, Map.get?_erase_self m a hs]
    · simp [Map.getD, Map.get?_erase_ne m hk, hk]
  · by_cases hk : a = k
    · subst hk; simp only [if_neg hb, Map.getD_set, if_true]
    · simp only [if_neg hb, Map.getD_set, if_neg hk]

theorem Memory.wf_put (m : Memory) (a : Nat) (b : Byte) (h : m.wf = true) : (m.put a b).wf = true := by
  obtain ⟨hs, hz⟩ := (Memory.wf_iff m).1 h
  unfold Memory.put
  split
  · exact (Memory.wf_iff _).2 ⟨Map.sorted_erase m a hs, fun c hc => hz c ((Map.erase_sublist m a).subset hc)⟩
  · refine (Memory.wf_iff _).2 ⟨Map.sorted_set m a b hs, fun c hc => ?_⟩
    rcases Map.mem_set hc with rfl | hc
    · assumption
    · exact hz c hc

theorem Memory.wf_write (m : Memory) (a : Nat) (d : List Byte) (h : m.wf = true) : (m.write a d).wf = true := by
  induction d generalizing m a with
  | nil => exact h
  | cons b r ih => exact ih (m.put a b) (a + 1) (Memory.wf_put m a b h)

theorem Memory.get_write_out (m : Memory) (a : Nat) (d : List Byte) (k : Nat) (h : m.wf = true) (hk : k < a ∨ a + d.length ≤ k) :
    (m.write a d).get k = m.get k := by
  induction d generalizing m a with
  | nil => rfl
  | cons b r ih =>
    have hne : a ≠ k := by simp at hk; omega
    rw [Memory.write, ih (m.put a b) (a + 1) (Memory.wf_put m a b h) (by simp at hk; omega), Memory.get_put m a b k h, if_neg hne]

theorem Memory.get_write_in (m : Memory) (a : Nat) (d : List Byte) (i : Nat) (h : m.wf = true) (hi : i < d.length) :
    (m.write a d).get (a + i) = d[i] := by
  induction d generalizing m a i with
  | nil => simp at hi
  | cons b r ih =>
    have hw := Memory.wf_put m a b h
    cases i with
    | zero => rw [Memory.write, Memory.get_write_out _ _ _ _ hw (by omega), Nat.add_zero, Memory.get_put m a b a h]; simp
    | succ i =>
      have := ih (m.put a b) (a + 1) i hw (by simpa using hi)
      rw [Memory.write, show a + (i + 1) = a + 1 + i by omega, this]; rfl

theorem Memory.wf_filter (m : Memory) (p : Host.Cell → Bool) (h : m.wf = true) : Memory.wf (m.filter p) = true := by
  obtain ⟨hs, hz⟩ := (Memory.wf_iff m).1 h
  exact (Memory.wf_iff _).2 ⟨Map.sorted_filter m p hs, fun c hc => hz c (List.mem_filter.1 hc).1⟩

theorem Memory.wf_clear (m : Memory) (a n : Nat) (h : m.wf = true) : (m.clear a n).wf = true := Memory.wf_filter m _ h

theorem Memory.wf_replace (m : Memory) (a n : Nat) (d : Memory) (h : m.wf = true) : (m.replace a n d).wf = true := by
  unfold Memory.replace
  have key : ∀ (l : Memory) (m : Memory), m.wf = true →
      Memory.wf (l.foldl (fun m c => if c.1 < n then m.put (a + c.1) c.2 else m) m) = true := by
    intro l
    induction l with
    | nil => exact fun m h => h
    | cons e r ih =>
      intro m h
      simp only [List.foldl_cons]
      apply ih
      split
      · exact Memory.wf_put m _ _ h
      · exact h
  exact key d _ (Memory.wf_clear m a n h)

/-- n bytes read back after a write of them. -/
theorem Memory.bytes_write (m : Memory) (a : Nat) (d : List Byte) (h : m.wf = true) : (m.write a d).bytes a d.length = d := by
  have key : ∀ (n : Nat) (a : Nat) (x : Memory), (x.bytes a n) = (List.range n).map (fun i => x.get (a + i)) := by
    intro n
    induction n with
    | zero => intro a x; rfl
    | succ n ih =>
      intro a x
      rw [Memory.bytes, ih, List.range_succ_eq_map]
      simp [Function.comp_def, Nat.add_comm, Nat.add_left_comm]
  rw [key]
  apply List.ext_getElem
  · simp
  · intro i h1 h2
    simp only [List.getElem_map, List.getElem_range]
    exact Memory.get_write_in m a d i h (by simpa using h2)

end Sys2Proof.Machine
end

