-- ==== Sys2Proof/Laws/Uniform.lean ====
section
/-! SUPPORT. What the frames of uniform instructions do when nothing stops them. -/

namespace Sys2Proof.Machine

/-- The issue of an instruction that may use b0, when no outstanding instruction writes it. -/
theorem withIssue_b0 {s : State} {g : Group} {t : Team} {pc : W64} {run : BitVec 64} (h : s.Issues g t pc run) (i : Instr)
    (len : Nat) (k : Issue → Result) (hb : g.blocked [b0Key] = false) : withIssue i len s k = k ⟨i, s.focus, g, pc, run, len⟩ := by
  unfold withIssue
  rw [h.1]
  simp only [h.2.1, hb, Bool.and_false]
  rfl

/-- A uniform instruction over s registers named directly, when its checks pass: it acts, or under a false guard only moves on. -/
theorem uniOp_ready {s : State} {g : Group} {t : Team} {pc : W64} {run : BitVec 64} (h : s.Issues g t pc run) (u : UCtx)
   (reads writes : List Nat) (k) (hr : g.UniReady reads writes) : uniOp u reads writes s k = if g.guardTrue u.guard then k ⟨u.i, s.focus, g, pc, run, u.len⟩ else s.moves g pc u.len run := by
  unfold uniOp
  rw [withIssue_b0 h _ _ _ hr.2.2.2]
  have h1 : ((reads ++ writes).all fun n => decide (n < g.ubud)) = true := by
    rw [List.all_eq_true]; intro n hn; simpa using hr.1 n hn
  have h2 : g.badUni reads = false := by
    rw [Group.badUni, List.any_eq_false]; intro n hn; simpa using hr.2.1 n hn
  simp only [h1, h2, hr.2.2.1]
  cases g.guardTrue u.guard <;> rfl

theorem uKeys_eq (o : USrc) : uKeys o = (srcRegs o).map sKey := by cases o <;> rfl
theorem uBudget_of (g : Group) (o : USrc) (h : ∀ n ∈ srcRegs o, n < g.ubud) : g.uBudget o = true := by
  cases o <;> simp_all [Group.uBudget, srcRegs]
theorem badWords_s (g : Group) (run : BitVec 64) (l : List Nat) (hl : ∀ n ∈ l, n < 128) (h : ∀ k ∈ g.badS, k / 2 ∉ l) : g.badWords run (l.map sKey) = false := by
  unfold Group.badWords
  rw [List.any_map, List.any_eq_false]
  intro n hn
  have := hl n hn
  rw [Function.comp_apply, sKey, Group.badWord, if_neg (by omega), if_pos (by omega), Nat.add_sub_cancel_left]
  simp only [List.any_eq_true, beq_iff_eq, not_exists, not_and]
  intro k hk e
  exact h k hk (e ▸ hn)
theorem srcRegs_lt (o : USrc) : ∀ n ∈ srcRegs o, n < 128 := by cases o <;> simp [srcRegs] <;> omega

/-- A uniform instruction over operands that are no channels, when its checks pass. -/
theorem uniFrame_ready {s : State} {g : Group} {t : Team} {pc : W64} {run : BitVec 64} (h : s.Issues g t pc run) (i : Instr) (len : Nat) (d : Option (BitVec 7))
   (a b : Option USrc) (gd : Guard) (act) (ha : (a.bind uChan) = none) (hb : (b.bind uChan) = none)
   (hr : g.UniReady ((a.toList ++ b.toList).flatMap srcRegs) (d.map BitVec.toNat).toList) :
   uniFrame i len (d.map Operand.reg) a b gd s act =
     if g.guardTrue gd then
       let r := act (match a with | some x => g.uValue x 0 | none => 0) (match b with | some x => g.uValue x 0 | none => 0) g
       s.moves (match d with | some n => r.1.writeS n.toNat r.2 | none => r.1) pc len run
     else s.moves g pc len run := by
  unfold uniFrame
  rw [withIssue_b0 h _ _ _ hr.2.2.2]
  simp only [h.2.2]
  have hdst : ((d.map Operand.reg).map asUSrc).toList.flatMap srcRegs = (d.map BitVec.toNat).toList := by cases d <;> rfl
  have hall : ((a.toList ++ b.toList ++ ((d.map Operand.reg).map asUSrc).toList).all g.uBudget) = true := by
    rw [List.all_eq_true]; intro o ho
    apply uBudget_of; intro n hn
    apply hr.1
    rw [← hdst, ← List.flatMap_append]
    exact List.mem_flatMap.2 ⟨o, ho, hn⟩
  have hbad : g.badWords run ((a.toList ++ b.toList).flatMap uKeys) = false := by
    have : (a.toList ++ b.toList).flatMap uKeys = ((a.toList ++ b.toList).flatMap srcRegs).map sKey := by
      rw [List.map_flatMap]; exact List.flatMap_congr fun o _ => uKeys_eq o
    rw [this]
    refine badWords_s g run _ ?_ hr.2.1
    intro n hn
    obtain ⟨o, -, ho⟩ := List.mem_flatMap.1 hn
    exact srcRegs_lt o n ho
  have hblk : g.blocked ((a.toList ++ b.toList ++ ((d.map Operand.reg).map asUSrc).toList).flatMap uKeys) = false := by
    have : ∀ l : List USrc, l.flatMap uKeys = (l.flatMap srcRegs).map sKey := by
      intro l; rw [List.map_flatMap]; exact List.flatMap_congr fun o _ => uKeys_eq o
    rw [this, List.flatMap_append, hdst]; exact hr.2.2.1
  have hn : ∀ o : USrc, uChan o = none → (match uChan o with
        | some (_, n) => (t.chan n).kind == ChanKind.uniform
        | none => true) = true := by intro o ho; rw [ho]
  cases a with
  | none => 
    cases b with
    | none => cases d <;> simp only [hall, hbad, hblk] <;> cases g.guardTrue gd <;> rfl
    | some b => 
      have hb : uChan b = none := hb
      cases b with
      | chan p n => simp [uChan] at hb
      | _ => cases d <;> simp only [hall, hbad, hblk] <;> cases g.guardTrue gd <;> rfl
  | some a =>
    have ha : uChan a = none := ha
    cases a with
    | chan p n => simp [uChan] at ha
    | _ => 
      cases b with
      | none => cases d <;> simp only [hall, hbad, hblk] <;> cases g.guardTrue gd <;> rfl
      | some b => 
        have hb : uChan b = none := hb
        cases b with
        | chan p n => simp [uChan] at hb
        | _ => cases d <;> simp only [hall, hbad, hblk] <;> cases g.guardTrue gd <;> rfl

end Sys2Proof.Machine
end

