-- ==== Sys2Proof/Tests/Slice0.lean ====
section
/-! SUPPORT. The model's own tests. Words and values come from the spec's worked encodings and examples, or from hand calculation by the
rule named. test_*: decoding and single steps. witness_*: a state and operands that meet all the hypotheses of a clause of a statement,
most with the clause's conclusion checked on them. -/

open Sys2Proof Sys2Proof.Machine

namespace Sys2Proof.Tests

-- Each theorem is checked before the next one is read: the checks wait for one another, and threads that wait hold memory.
set_option Elab.async false

/-! ## Small states -/

/-- One context, grid, team and group of 32 lanes at address 0x1000. -/
def w0 : State := State.reset.load (toBytes 0 8)
def g0 : Group := loadGroup 4 3 2
def t0 : Team := loadTeam 4 3
def all : BitVec 64 := 0xFFFFFFFF
def pc0 : W64 := 0x1000

/-- That state with another group and team. -/
def w (g : Group) (t : Team) : State := (w0.setTeam 2 t).setGroup 1 g

/-- The group's s registers set. -/
def sr (l : List (Nat × Nat)) (g : Group) : Group := l.foldl (fun g e => g.writeS e.1 (BitVec.ofNat 64 e.2)) g

/-- Lane 0's v registers 4 and 5, 8 and 9, and 12 set. -/
def vr (a b c : Nat) : Group := ((g0.writeWide 0 4 2 a).writeWide 0 8 2 b).writeWide 0 12 2 c

/-- The cache of die 0 with these entries. -/
def tlbs (l : List TlbEntry) : Map DieSet := (l.foldl (fun s e => s.install 0 [] e) State.reset).dieTlb

/-- The cache of core 0 of die 0 with these entries. -/
def l1s (l : List TlbEntry) : Map (List TlbEntry) := (l.foldl (fun s e => s.install 0 [0] e) State.reset).l1

/-- A module of every link and every graphics DRAM device, ready. -/
def linked : List BringUp := (List.range 8).flatMap fun l => moduleUnits l 0
def up : List BringUp := linked ++ (List.range 4).flatMap fun d => (List.range 16).map fun k => .dram d k

/-- The group with lane 0 alone at the first program counter. -/
def only0 (g : Group) : Group := { g with table := [(pc0, 1), (0x3000, 0xFFFFFFFE)] }

/-- Two results are the same. -/
def same : Result → Result → Bool
  | .next a, .next b => decide (a = b)
  | .fault a, .fault b => decide (a = b)
  | .refused a, .refused b => decide (a = b)
  | _, _ => false

/-- What a next state holds. -/
def after {α : Type} (r : Result) (f : State → α) : Option α :=
  match r with
  | .next s => some (f s)
  | .fault _ => none
  | .refused _ => none

/-- The group of a state. -/
def grp (s : State) : Group := (s.groups.get? 1).getD g0
def tm (s : State) : Team := (s.teams.get? 2).getD t0

/-- Lane 0's registers 16 and 17 and the flags after a lane instruction on v4, v8 and v12. -/
def lane0 (i : Instr) (a b c : Nat) : Option (Nat × Nat) :=
  after (exec i (w (only0 (vr a b c)) t0)) fun s => ((grp s).readWide 0 16 2, (grp s).flags.toNat)

/-- Every pair of expected and found values agrees. -/
def allEq {α : Type} [DecidableEq α] (l : List (Option α × α)) : Bool := l.all fun e => decide (e.1 = some e.2)

/-- Predicate p1 of lane 0 after a compare of v4 and v8. -/
def pred0 (i : Instr) (a b : Nat) : Option Bool := after (exec i (w (vr a b 0) t0)) fun s => ((grp s).predMask 1).getLsbD 0

/-- s16 after a uniform instruction on s4 and s8. -/
def uni0 (i : Instr) (a b : Nat) : Option Nat := after (exec i (w (sr [(4, a), (8, b)] g0) t0)) fun s => ((grp s).readS 16).toNat

def r4 : Operand := .reg 4
def r8 : Operand := .reg 8
def r16 : Operand := .reg 16
def x3 : LX := ⟨.reg 16, .reg 4, .reg 8, .reg 12, Guard.none, 0, 0, 0⟩
def x2 : LX := { x3 with c := .reg 0 }
def x1 : LX := { x2 with b := .reg 0 }

/-! ## Decoding: words written out from the encodings of chapters 07 to 15 -/

/-- R161, R170, the worked encodings of chapter 07: fadd.f32, fma.f32, ld.b32, st.b32, wait. -/
theorem test_decode_worked_07 :
    decode 0x01050607#32 0#32 = .instr (.faddF32 (.reg 5) (.reg 6) (.reg 7)) false ∧
    decode 0x7F050609#32 0x01518000#32 = .instr (.laneXf .faddF32 ⟨.reg 5, .reg 6, .uni 9, .reg 0, ⟨2, true⟩, 1, 0, 0⟩) true ∧
    decode 0x40084440#32 0x03003000#32 = .instr (.fmaF32 ⟨.reg 8, .idx 1 4, .imm 0x4000, .reg 3, Guard.none, 0, 0, 0⟩) true ∧
    decode 0x64050800#32 0x00000010#32 = .instr (.ldB32 ⟨.reg 5, 8, 0, .reg 0, Guard.none, 0, 0, .glob, false, false, 16⟩) true ∧
    decode 0x69000602#32 0x07007000#32 = .instr (.stB32 ⟨.reg 0, 6, 2, .reg 7, Guard.none, 0, 0, .layer, true, true, 0⟩) true ∧
    decode 0x9A080040#32 0#32 = .instr (.wait 2 0 1 0) false ∧
    decode 0x01518000#32 0#32 = .instr (.faddF32 (.reg 0x51) (.chan false 0) (.reg 0)) false := by decide +kernel

/-- The worked encodings of chapter 09. -/
theorem test_decode_worked_09 :
    decode 0x48010203#32 0x00020000#32 = .instr (.fcmpF32 ⟨.reg 1, .reg 2, .reg 3, .reg 0, Guard.none, 2, 0, 0⟩) true ∧
    decode 0x48010203#32 0x0C020000#32 = .instr (.fcmpF32 ⟨.reg 1, .reg 2, .reg 3, .reg 12, Guard.none, 2, 0, 0⟩) true ∧
    decode 0x46060708#32 0x0B000000#32 = .instr (.selB32 ⟨.reg 6, .reg 7, .reg 8, .reg 11, Guard.none, 0, 0, 0⟩) true ∧
    decode 0x47040102#32 0x030000E8#32 = .instr (.bool3B32 ⟨.reg 4, .reg 1, .reg 2, .reg 3, Guard.none, 0, 0, 0xE8⟩) true ∧
    decode 0x7F050607#32 0x18208000#32 = .instr (.laneXf .iaddS32 ⟨.reg 5, .reg 6, .uni 7, .reg 0, ⟨1, false⟩, 0, 0, 0⟩) true ∧
    decode 0x7F0100FF#32 0x330020FD#32 = .instr (.laneXf .movB32 ⟨.reg 1, .reg 0, .imm 0xFFFD, .reg 0, Guard.none, 0, 0, 0⟩) true ∧
    decode 0x57023FB0#32 0#32 = .instr (.movi 2 0x3FB00000 Guard.none) true ∧
    decode 0x7F030200#32 0x3F002010#32 = .instr (.laneXf .lnrdxB32 ⟨.reg 3, .reg 2, .imm 16, .reg 0, Guard.none, 0, 0, 0⟩) true ∧
    decode 0x50050602#32 0x13000000#32 = .instr (.cvt ⟨.reg 5, .reg 6, 0x02, 0x13, Guard.none, 0, false⟩) true ∧
    decode 0x51090A02#32 0x04000000#32 = .instr (.cvtpk ⟨.reg 9, .reg 10, 0x02, 0x04, Guard.none, 0, false⟩) true ∧
    decode 0x58010A00#32 0x00010000#32 = .instr (.agree 1 2 true 1 Guard.none) true ∧
    decode 0x59050200#32 0#32 = .instr (.lmask 5 2 false Guard.none) true ∧
    decode 0x5D060200#32 0#32 = .instr (.rsumS32 ⟨.reg 6, .reg 2, .reg 0, .reg 0, Guard.none, 0, 0, 0⟩) true := by decide +kernel

/-- The worked encodings of chapter 08: a layer load, loads, atomics, XACC, uniform loads, a copy, a texture, a wait with a completion register. -/
theorem test_decode_worked_08 :
    decode 0xCD0A0B0C#32 0x0D020000#32 = .instr (.lload 10 11 12 13 2 0 Guard.none) true ∧
    decode 0xFFFFFFFF#32 0x1A0A0000#32 = .instr (.uniformXf .wait 0xFF 0xFF 0xFF Guard.none 10 none) true ∧
    decode 0x650A0803#32 0x000C1040#32 = .instr (.ldB64 ⟨.reg 10, 8, 3, .reg 0, Guard.none, 3, 0, .glob, false, true, 64⟩) true ∧
    decode 0x6C040806#32 0x00030410#32 = .instr (.atom 0 ⟨4, 8, 6, Guard.none, 0, 3, .glob, false, 0, 4, 16⟩) true ∧
    decode 0x6D040A05#32 0x06010400#32 = .instr (.cas 6 ⟨4, 10, 5, Guard.none, 0, 1, .glob, false, 0, 4, 0⟩) true ∧
    decode 0x6E000203#32 0x09027000#32 = .instr (.xadd ⟨.reg 0, 2, 3, .reg 9, Guard.none, 0, 2, .layer, true, true, 0⟩) true ∧
    decode 0x6F050200#32 0x01006080#32 = .instr (.xrd ⟨.reg 5, 2, 0, .reg 0, Guard.none, 0, 0, .layer, true, false, 128⟩ false 1) true ∧
    decode 0xC9040600#32 0x00000008#32 = .instr (.sldB64 ⟨4, 6, Guard.none, 0, .glob, 8⟩) true ∧
    decode 0xCC040506#32 0x00018000#32 = .instr (.copy 4 5 6 1 .team .glob Guard.none) true ∧
    decode 0x700C0204#32 0x09000000#32 = .instr (.tex 12 2 4 false 9 0 Guard.none) true := by decide +kernel

/-- The worked encodings of chapters 10 and 12: the matrix engine and the solver. -/
theorem test_decode_worked_10_12 :
    decode 0xD0040100#32 0#32 = .instr (.mclaim 4 1 Guard.none) true ∧
    decode 0xD5000203#32 0#32 = .instr (.mdesc 0 2 3 Guard.none) true ∧
    decode 0xD3141800#32 0x04040500#32 = .instr (.mloop 20 24 0 0x04 true 0 0 .layer .layer Guard.none) true ∧
    decode 0xD41E1F00#32 0x02000000#32 = .instr (.mst 30 31 0 0x02 0 .glob 0 Guard.none) true ∧
    decode 0xB0000000#32 0#32 = .instr .mfree false ∧
    decode 0xD8000A00#32 0#32 = .instr (.sqtab 0 10 0 .glob Guard.none) true ∧
    decode 0xD9000B00#32 0#32 = .instr (.sqfact 0 11 0 .glob Guard.none) true ∧
    decode 0xDA0C1000#32 0x01000000#32 = .instr (.sqstart 12 16 1 0 Guard.none) true ∧
    decode 0xDB040000#32 0x01010000#32 = .instr (.sqstage 4 1 true Guard.none) true ∧
    decode 0xDC000400#32 0#32 = .instr (.sqret 4 Guard.none) true ∧
    decode 0xDE080000#32 0#32 = .instr (.sqdrain 8 Guard.none) true := by decide +kernel

/-- The worked encodings of chapter 11: rays, reservoirs and draws. -/
theorem test_decode_worked_11 :
    decode 0x71100804#32 0xFF000010#32 = .instr (.trace 16 8 4 0xFF 0x10 0 Guard.none) true ∧
    decode 0x71180804#32 0x01000006#32 = .instr (.trace 24 8 4 0x01 0x06 0 Guard.none) true ∧
    decode 0x72100000#32 0x00600000#32 = .instr (.trnext 16 ⟨3, false⟩) true ∧
    decode 0x73100000#32 0#32 = .instr (.traccept 16 Guard.none) true ∧
    decode 0x75080203#32 0x00010000#32 = .instr (.camray 8 2 3 true 0 Guard.none) true ∧
    decode 0x7D000000#32 0#32 = .instr (.resclr 0 Guard.none) true ∧
    decode 0x76000407#32 0x08000000#32 = .instr (.resup 0 4 7 8 Guard.none) true ∧
    decode 0x77000100#32 0x09000000#32 = .instr (.resmg 0 1 9 Guard.none) true ∧
    decode 0x780A0000#32 0x00000014#32 = .instr (.resfin 10 0 20 Guard.none) true ∧
    decode 0x7B0C0100#32 0x00040000#32 = .instr (.resget 12 1 4 Guard.none) true ∧
    decode 0x79021400#32 0x00000030#32 = .instr (.resld 2 ⟨.reg 0, 20, 0, .reg 0, Guard.none, 0, 0, .glob, false, false, 48⟩) true ∧
    decode 0x7E030000#32 0#32 = .instr (.drawB32 3 Guard.none) true := by decide +kernel

/-- The worked encodings of chapters 14 and 15: uniform work, control flow, system, graphs. -/
theorem test_decode_worked_14_15 :
    decode 0x81040506#32 0#32 = .instr (.saddB64 (.reg 4) (.reg 5) (.reg 6)) false ∧
    decode 0xFF040500#32 0x0100FFF8#32 = .instr (.uniformXf .saddB64 4 5 0 Guard.none 0 (some 0x7FF8)) true ∧
    decode 0xC0051234#32 0x00005678#32 = .instr (.smovi 5 0x12345678 0 Guard.none) true ∧
    decode 0xC2010400#32 0x00028064#32 = .instr (.scmpS64 1 (.reg 4) (.imm 0x64) false false 0 2 Guard.none) true ∧
    decode 0x91830005#32 0#32 = .instr (.smovB64 (.chan false 3) (.reg 5)) false ∧
    decode 0xA2020094#32 0#32 = .instr (.repackKey 2 20) false ∧
    decode 0xA0040002#32 0#32 = .instr (.sysrd 4 2) false ∧
    decode 0xA106010A#32 0#32 = .instr (.syswr 0x010A 6) false ∧
    decode 0xA5000800#32 0#32 = .instr (.genkeyKey 8) false ∧
    decode 0xA3030405#32 0#32 = .instr (.ilock 3 4 5) false ∧
    decode 0x9E000007#32 0#32 = .instr (.trap 7) false ∧
    decode 0xFF000000#32 0x17400000#32 = .instr (.uniformXf .exit 0 0 0 ⟨2, false⟩ 0 none) true ∧
    decode 0xFF000000#32 0x17020000#32 = .instr (.exitHelp Guard.none false) true ∧
    decode 0x94FFFFF9#32 0#32 = .instr (.bra 0xFFFFF9) false ∧
    decode 0x95000002#32 0#32 = .instr (.call 2) false ∧
    decode 0xFF000006#32 0x14210000#32 = .instr (.uniformXf .bra 0 0 6 ⟨1, false⟩ 1 none) true ∧
    decode 0xE0080A00#32 0#32 = .instr (.pbind 8 10 Guard.none) true ∧
    decode 0xC5090800#32 0x00008800#32 = .instr (.sbfe (.reg 9) (.reg 8) (.imm 0x0800) false Guard.none) true ∧
    decode 0xE109080B#32 0#32 = .instr (.prun 9 8 11 Guard.none) true ∧
    decode 0xE4060000#32 0x00010008#32 = .instr (.taddr 6 0 true 8 Guard.none) true := by decide +kernel

/-- R165, R166, R172, R179: fields that must be 0, reserved values, misaligned pairs and undefined opcodes. -/
theorem test_decode_refuses :
    decode 0x00000000#32 0#32 = .illegal ∧            -- lane opcode 0x00 is undefined
    decode 0x7F000000#32 0x40000000#32 = .illegal ∧   -- an XF that names no short opcode
    decode 0xFF000000#32 0x3F000000#32 = .illegal ∧
    decode 0x07010203#32 0#32 = .reserved ∧           -- fsqrt has no A
    decode 0x08010200#32 0#32 = .reserved ∧           -- dadd into an odd pair
    decode 0x80000001#32 0#32 = .reserved ∧
    decode 0x40080603#32 0x03003800#32 = .reserved ∧  -- XSEL 3 with BIMM
    decode 0x40080603#32 0x03050000#32 = .reserved ∧  -- MOD 5 is no rounding mode
    decode 0x40080603#32 0x03100000#32 = .reserved ∧  -- PSENSE without a guard
    decode 0x64050800#32 0x0000C000#32 = .reserved ∧  -- SPACE 3
    decode 0x64058800#32 0#32 = .reserved ∧           -- a channel as a base
    decode 0xFF000006#32 0x14220000#32 = .reserved ∧  -- HELP in a bra
    decode 0xFF040500#32 0x01800000#32 = .reserved := -- PSEL 4 in the uniform set
  by decide +kernel

/-- R6: words are stored lowest byte first; the extension word follows. -/
theorem test_decode_bytes :
    decodeBytes [0x06, 0x05, 0x04, 0x81, 0xEE] = some (.instr (.saddB64 (.reg 4) (.reg 5) (.reg 6)) false, [0xEE]) ∧
    decodeBytes [0x0B, 0x08, 0x09, 0xE1, 0, 0, 0, 0, 0x77] = some (.instr (.prun 9 8 11 Guard.none) true, [0x77]) ∧
    decodeTableWord 32 0x81040506 = some (.saddB64 (.reg 4) (.reg 5) (.reg 6)) ∧
    decodeTableWord 64 0x00000000E109080B = some (.prun 9 8 11 Guard.none) := by decide +kernel

/-- R161 to R181: encoding writes the same words. -/
theorem test_encode :
    encode (.laneXf .faddF32 ⟨.reg 5, .reg 6, .uni 9, .reg 0, ⟨2, true⟩, 1, 0, 0⟩) = some (0x7F050609, some 0x01518000) ∧
    encode (.stB32 ⟨.reg 0, 6, 2, .reg 7, Guard.none, 0, 0, .layer, true, true, 0⟩) = some (0x69000602, some 0x07007000) ∧
    encode (.scmpS64 1 (.reg 4) (.imm 0x64) false false 0 2 Guard.none) = some (0xC2010400, some 0x00028064) ∧
    encode (.mloop 20 24 0 0x04 true 0 0 .layer .layer Guard.none) = some (0xD3141800, some 0x04040500) := by decide +kernel

/-! ## Well-formedness: an ill-formed term for each check -/

theorem test_wf_lane :
    Instr.wf (.daddF64 (.reg 1) (.reg 2) (.reg 4)) = false ∧ Instr.wf (.daddF64 (.reg 2) (.reg 2) (.reg 4)) = true ∧
    Instr.wf (.dsqrtF64 (.reg 2) (.reg 5)) = false ∧ Instr.wf (.movB64 (.reg 3) (.reg 2)) = false ∧
    Instr.wf (.fmaF32 { x3 with mod := 5 }) = false ∧ Instr.wf (.fmaF32 { x3 with mod := 4 }) = true ∧
    Instr.wf (.fmaF32 { x3 with guard := ⟨0, true⟩ }) = false ∧ Instr.wf (.fmaF32 { x3 with a := .uni 4 }) = false ∧
    Instr.wf (.fmaF32 { x3 with c := .idx 0 0 }) = false ∧ Instr.wf (.fmaF32 { x3 with a := .idx 0 0, b := .idx 0 0 }) = false ∧
    Instr.wf (.fmaF64 { x3 with c := .reg 13 }) = false ∧ Instr.wf (.fmaF32 { x3 with tab := 1 }) = false ∧
    Instr.wf (.imadS32 { x3 with mod := 1 }) = false ∧ Instr.wf (.bool3B32 { x3 with tab := 0xE8 }) = true ∧
    Instr.wf (.bool3B32 { x3 with b := .imm 0 }) = false ∧ Instr.wf (.selB32 x3) = true ∧ Instr.wf (.selB32 { x3 with c := .reg 16 }) = false ∧
    Instr.wf (.fcmpF32 { x2 with d := .reg 8 }) = false ∧ Instr.wf (.icmpS32 { x2 with d := .reg 1, mod := 6 }) = false ∧
    Instr.wf (.rsumF32 { x1 with mod := 4 }) = false ∧ Instr.wf (.rsumS32 x2) = false ∧
    Instr.wf (.laneXf .xset { x1 with d := .reg 4, a := .reg 0 }) = false ∧ Instr.wf (.laneXf .lidB32 { x1 with a := .reg 4 }) = false ∧
    Instr.wf (.cvt ⟨.reg 5, .reg 6, 0x06, 0x02, Guard.none, 0, false⟩) = false ∧ Instr.wf (.cvt ⟨.reg 5, .reg 6, 0x01, 0x02, Guard.none, 0, false⟩) = true ∧
    Instr.wf (.cvtpk ⟨.reg 9, .reg 11, 0x02, 0x04, Guard.none, 0, false⟩) = false ∧
    Instr.wf (.agree 1 2 true 3 Guard.none) = false ∧ Instr.wf (.mrd 1 2 192 Guard.none) = false := by decide +kernel

theorem test_wf_memory :
    Instr.wf (.ldB64 ⟨.reg 10, 8, 0, .reg 0, Guard.none, 0, 0, .glob, false, false, 0⟩) = true ∧
    Instr.wf (.ldB64 ⟨.reg 11, 8, 0, .reg 0, Guard.none, 0, 0, .glob, false, false, 0⟩) = false ∧
    Instr.wf (.ldB64 ⟨.reg 10, 9, 0, .reg 0, Guard.none, 0, 0, .glob, false, false, 0⟩) = false ∧
    Instr.wf (.ldB64 ⟨.reg 10, 8, 1, .reg 0, Guard.none, 0, 0, .glob, false, false, 0⟩) = false ∧
    Instr.wf (.ldB64 ⟨.reg 10, 8, 0, .reg 0, Guard.none, 0, 1, .glob, false, false, 0⟩) = false ∧
    Instr.wf (.stB32 ⟨.reg 1, 8, 0, .reg 7, Guard.none, 0, 0, .team, false, false, 0⟩) = false ∧
    Instr.wf (.xadd ⟨.reg 0, 2, 3, .reg 9, Guard.none, 0, 2, .team, true, true, 0⟩) = false ∧
    Instr.wf (.xadd ⟨.reg 0, 2, 3, .reg 9, Guard.none, 0, 1, .layer, true, true, 0⟩) = false ∧
    Instr.wf (.xrd ⟨.reg 5, 2, 0, .reg 0, Guard.none, 0, 0, .layer, true, false, 0⟩ false 5) = false ∧
    Instr.wf (.atom 11 ⟨4, 8, 6, Guard.none, 0, 3, .glob, false, 0, 4, 16⟩) = false ∧
    Instr.wf (.atom 0 ⟨4, 8, 6, Guard.none, 0, 3, .glob, false, 2, 4, 16⟩) = false ∧
    Instr.wf (.atom 0 ⟨4, 8, 6, Guard.none, 0, 3, .glob, false, 0, 6, 16⟩) = false ∧
    Instr.wf (.cas 6 ⟨4, 10, 5, Guard.none, 0, 1, .glob, false, 1, 4, 0⟩) = false ∧
    Instr.wf (.tex 13 2 4 false 9 0 Guard.none) = false ∧
    Instr.wf (.trace 16 8 4 0xFF 3 0 Guard.none) = false ∧ Instr.wf (.trace 17 8 4 0xFF 0 0 Guard.none) = false ∧
    Instr.wf (.camray 4 2 3 true 0 Guard.none) = false ∧ Instr.wf (.resget 13 1 4 Guard.none) = false ∧
    Instr.wf (.resget 12 1 5 Guard.none) = false ∧ Instr.wf (.resld 2 ⟨.reg 1, 20, 0, .reg 0, Guard.none, 0, 0, .glob, false, false, 48⟩) = false :=
  by decide +kernel

theorem test_wf_uniform :
    Instr.wf (.scmpS64 0 (.reg 4) (.imm 0x64) false false 0 2 Guard.none) = false ∧
    Instr.wf (.scmpS64 1 (.reg 4) (.imm 0x64) false true 0 2 Guard.none) = false ∧
    Instr.wf (.scmpN64 1 (.reg 4) (.imm 0x64) false false 0 6 Guard.none) = false ∧
    Instr.wf (.smovi 5 0 3 Guard.none) = false ∧ Instr.wf (.smovi 5 0 2 ⟨4, false⟩) = false ∧
    Instr.wf (.stunmap 1 ⟨1, false⟩) = false ∧ Instr.wf (.genkeyKey 9) = false ∧ Instr.wf (.genkeyRd 9) = false ∧
    Instr.wf (.pwrhint 4) = false ∧ Instr.wf (.fence 6) = false ∧ Instr.wf (.mzero 192 1) = false ∧ Instr.wf (.mzero 0 0) = false ∧
    Instr.wf (.mclaim 17 1 Guard.none) = false ∧ Instr.wf (.mclaim 0 0 Guard.none) = false ∧ Instr.wf (.mclaim 4 13 Guard.none) = false ∧
    Instr.wf (.mld 16 1 2 0 false .layer 0 Guard.none) = false ∧ Instr.wf (.mma 0 16 0 4 true 0 0 Guard.none) = false ∧
    Instr.wf (.mloop 20 25 0 4 true 0 0 .layer .layer Guard.none) = false ∧ Instr.wf (.mst 30 31 0 2 4 .glob 0 Guard.none) = false ∧
    Instr.wf (.mst 30 31 0 6 0 .glob 0 Guard.none) = false ∧ Instr.wf (.mlease 257 Guard.none) = false ∧
    Instr.wf (.sqstart 12 17 1 0 Guard.none) = false ∧ Instr.wf (.sqstage 5 1 true Guard.none) = false ∧
    Instr.wf (.taddr 6 1 true 8 Guard.none) = false ∧ Instr.wf (.taddr 6 0 true 12 Guard.none) = false ∧ Instr.wf (.taddr 7 0 true 8 Guard.none) = false ∧
    Instr.wf (.gquery 4 5 3 Guard.none) = false ∧ Instr.wf (.exitHelp ⟨0, false⟩ true) = false ∧
    Instr.wf (.uniformXf .bra 0 0 6 ⟨0, false⟩ 1 none) = false ∧ Instr.wf (.uniformXf .bra 0 0 6 ⟨5, false⟩ 1 none) = true ∧
    Instr.wf (.uniformXf .wait 0 0 6 Guard.none 1 none) = false ∧ Instr.wf (.uniformXf .saddB64 4 5 6 Guard.none 0 (some 1)) = false ∧
    Instr.wf (.uniformXf .nop 1 0 0 Guard.none 0 none) = false := by decide +kernel

/-- R16, R49, R62: steps of the module that name what does not exist. -/
theorem test_wf_events :
    Instr.wf (.gangStart 4) = false ∧ Instr.wf (.taskLaunch 0 48) = false ∧ Instr.wf (.vfFlr 17) = false ∧ Instr.wf (.vfFlr 0) = false ∧
    Instr.wf (.lyrWaypartGrow 0 24 1) = false ∧ Instr.wf (.lyrWaypartShrink 0 0 17) = false ∧ Instr.wf (.layerGrowComplete 4 0) = false ∧
    Instr.wf (.pwrQctlWrite 48 0) = false ∧ Instr.wf (.hqEvtheadWrite 17 0) = false ∧
    Instr.wf (.atsTranslationCompletion 0 1 0x100000 0 false .refused) = false ∧ Instr.wf (.pageRequestResponse 17 0 0 .success) = false ∧
    Instr.wf (.atsInvalidateRequest 17 0 false 0 0 0) = false := by decide +kernel

/-! ## Lane arithmetic: the spec's examples and hand calculation -/

/-- R227's table of examples, and wraps. -/
theorem test_integer_arithmetic : allEq [
    (lane0 (.iaddS32 r16 r4 r8) 0x7FFFFFF0 0x20 0, (0x80000010, 0)), (lane0 (.isubS32 r16 r4 r8) 0 1 0, (0xFFFFFFFF, 0)),
    (lane0 (.imulS32 r16 r4 r8) 0x10001 0x10001 0, (0x20001, 0)), (lane0 (.imulhiN32 r16 r4 r8) 0xFFFFFFFF 0xFFFFFFFF 0, (0xFFFFFFFE, 0)),
    (lane0 (.imulhiS32 r16 r4 r8) 0xFFFFFFFF 0xFFFFFFFF 0, (0, 0)), (lane0 (.iminS32 r16 r4 r8) 0xFFFFFFFF 1 0, (0xFFFFFFFF, 0)),
    (lane0 (.iminN32 r16 r4 r8) 0xFFFFFFFF 1 0, (1, 0)), (lane0 (.imaxS32 r16 r4 r8) 0xFFFFFFFF 1 0, (1, 0)),
    (lane0 (.imaxN32 r16 r4 r8) 0xFFFFFFFF 1 0, (0xFFFFFFFF, 0)), (lane0 (.iaddS64 r16 r4 r8) 0xFFFFFFFFFFFFFFFF 2 0, (1, 0)),
    (lane0 (.isubS64 r16 r4 r8) 0 1 0, (0xFFFFFFFFFFFFFFFF, 0)), (lane0 (.qaddS32 r16 r4 r8) 0x7FFFFFF0 0x20 0, (0x7FFFFFFF, 0x20)),
    (lane0 (.qsubS32 r16 r4 r8) 0x80000000 1 0, (0x80000000, 0x20)), (lane0 (.iabsS32 r16 r8) 0 0x80000000 0, (0x80000000, 0)),
    (lane0 (.inegS32 r16 r8) 0 1 0, (0xFFFFFFFF, 0)), (lane0 (.imadS32 x3) 0x10000 0x10000 7, (7, 0)),
    (lane0 (.imadS64 x3) 0xFFFFFFFF 2 1, (0xFFFFFFFFFFFFFFFF, 0)), (lane0 (.dot4S8 x3) 0x80FF0102 0x02FF0304 10, (0xFFFFFF16, 0))] = true := by decide +kernel

/-- R228 to R231, with the examples of R229 and R230. -/
theorem test_bit_instructions : allEq [
    (lane0 (.andB32 r16 r4 r8) 0xF0F0 0xFF00 0, (0xF000, 0)), (lane0 (.orB32 r16 r4 r8) 0xF0F0 0xFF00 0, (0xFFF0, 0)),
    (lane0 (.xorB32 r16 r4 r8) 0xF0F0 0xFF00 0, (0x0FF0, 0)), (lane0 (.notB32 r16 r8) 0 1 0, (0xFFFFFFFE, 0)),
    (lane0 (.shlB32 r16 r4 r8) 1 31 0, (0x80000000, 0)), (lane0 (.shlB32 r16 r4 r8) 1 32 0, (0, 0)),
    (lane0 (.shrN32 r16 r4 r8) 0x80000000 31 0, (1, 0)), (lane0 (.shrN32 r16 r4 r8) 0x80000000 0xFFFFFFFF 0, (0, 0)),
    (lane0 (.shrS32 r16 r4 r8) 0x80000000 31 0, (0xFFFFFFFF, 0)), (lane0 (.shrS32 r16 r4 r8) 0x40000000 32 0, (0, 0)),
    (lane0 (.rotB32 r16 r4 r8) 0x80000001 33 0, (3, 0)), (lane0 (.popcB32 r16 r8) 0 0xF000000F 0, (8, 0)),
    (lane0 (.clzB32 r16 r8) 0 0 0, (32, 0)), (lane0 (.clzB32 r16 r8) 0 1 0, (31, 0)), (lane0 (.brevB32 r16 r8) 0 1 0, (0x80000000, 0)),
    (lane0 (.bool3B32 { x3 with tab := 0xE8 }) 0b0011 0b0101 0b1001, (1, 0)), (lane0 (.bool3B32 { x3 with tab := 0xAA }) 5 6 7, (5, 0)),
    (lane0 (.bselB32 x3) 0x44332211 0x88776655 0x20041700, (0x0055FF11, 0)), (lane0 (.bfeB32 x2) 0xABCD 0x0804 0, (0xBC, 0)),
    (lane0 (.bfeB32 x2) 0xFFFFFFFF 0x0820 0, (0, 0)), (lane0 (.bfiB32 x3) 0xFF 0x0804 0xF000, (0xFFF0, 0))] = true := by decide +kernel

/-- R145, R146, R220 to R223, R226: rounding, special operands, the packed forms, classes. -/
theorem test_float_arithmetic : allEq [
    (lane0 (.faddF32 r16 r4 r8) 0x3F800000 0x40000000 0, (0x40400000, 0)),
    (lane0 (.faddF32 r16 r4 r8) 0x7F7FFFFF 0x7F7FFFFF 0, (0x7F800000, 0x14)),
    (lane0 (.fsubF32 r16 r4 r8) 0x3F800000 0x3F800000 0, (0, 0)), (lane0 (.fmulF32 r16 r4 r8) 0 0x7F800000 0, (0x7FC00000, 0x01)),
    (lane0 (.fdivF32 r16 r4 r8) 0x3F800000 0x40400000 0, (0x3EAAAAAB, 0x10)),
    (lane0 (.fdivF32 r16 r4 r8) 0x3F800000 0x80000000 0, (0xFF800000, 0x02)), (lane0 (.fsqrtF32 r16 r8) 0 0x40800000 0, (0x40000000, 0)),
    (lane0 (.fsqrtF32 r16 r8) 0 0xBF800000 0, (0x7FC00000, 0x01)), (lane0 (.fminF32 r16 r4 r8) 0x80000000 0 0, (0x80000000, 0)),
    (lane0 (.fmaxF32 r16 r4 r8) 0x7FC00001 0x3F800000 0, (0x3F800000, 0)),
    (lane0 (.daddF64 r16 r4 r8) 0x3FF0000000000000 0x3FF0000000000000 0, (0x4000000000000000, 0)),
    (lane0 (.dsubF64 r16 r4 r8) 0x4000000000000000 0x3FF0000000000000 0, (0x3FF0000000000000, 0)),
    (lane0 (.dmulF64 r16 r4 r8) 0x4000000000000000 0x4000000000000000 0, (0x4010000000000000, 0)),
    (lane0 (.ddivF64 r16 r4 r8) 0x3FF0000000000000 0x4008000000000000 0, (0x3FD5555555555555, 0x10)),
    (lane0 (.dsqrtF64 r16 r8) 0 0x4010000000000000 0, (0x4000000000000000, 0)),
    (lane0 (.dminF64 r16 r4 r8) 0x3FF0000000000000 0x4000000000000000 0, (0x3FF0000000000000, 0)),
    (lane0 (.dmaxF64 r16 r4 r8) 0x3FF0000000000000 0x4000000000000000 0, (0x4000000000000000, 0)),
    (lane0 (.hadd2F16 r16 r4 r8) 0x40003C00 0x3C003C00 0, (0x42004000, 0)),
    (lane0 (.hmul2F16 r16 r4 r8) 0x40003C00 0x3C003C00 0, (0x40003C00, 0)),
    (lane0 (.hmin2F16 r16 r4 r8) 0x40003C00 0x3C003C00 0, (0x3C003C00, 0)),
    (lane0 (.hmax2F16 r16 r4 r8) 0x40003C00 0x3C003C00 0, (0x40003C00, 0)),
    (lane0 (.hadd2Bf16 r16 r4 r8) 0x40003F80 0x3F803F80 0, (0x40404000, 0)),
    (lane0 (.hmul2Bf16 r16 r4 r8) 0x40003F80 0x3F803F80 0, (0x40003F80, 0)),
    (lane0 (.hmin2Bf16 r16 r4 r8) 0x40003F80 0x3F803F80 0, (0x3F803F80, 0)),
    (lane0 (.hmax2Bf16 r16 r4 r8) 0x40003F80 0x3F803F80 0, (0x40003F80, 0)),
    (lane0 (.fmaF32 x3) 0x40000000 0x40400000 0x3F800000, (0x40E00000, 0)),
    (lane0 (.fmaF64 x3) 0x4000000000000000 0x4000000000000000 0x3FF0000000000000, (0x4014000000000000, 0)),
    (lane0 (.hfma2F16 x3) 0x40003C00 0x3C003C00 0x3C003C00, (0x42004000, 0)),
    (lane0 (.hfma2Bf16 x3) 0x40003F80 0x3F803F80 0x3F803F80, (0x40404000, 0)),
    (lane0 (.fclassF32 { x2 with a := .reg 0 }) 0 0x80000000 0, (8, 0)),
    (lane0 (.fclassF32 { x2 with a := .reg 0 }) 0 0x7FC00000 0, (0x100, 0))] = true := by decide +kernel

/-- R224, R225, R239, R240: special functions, rounding to integral, conversions, with the worked conversions of chapters 06 and 09. -/
theorem test_functions_and_conversions : allEq [
    (lane0 (.frcpF32 r16 r8) 0 0x40000000 0, (0x3F000000, 0)), (lane0 (.frsqF32 r16 r8) 0 0x40800000 0, (0x3F000000, 0)),
    (lane0 (.fex2F32 r16 r8) 0 0x40400000 0, (0x41000000, 0)), (lane0 (.flg2F32 r16 r8) 0 0x41000000 0, (0x40400000, 0)),
    (lane0 (.fsinF32 r16 r8) 0 0x3E800000 0, (0x3F3504F3, 0x10)), (lane0 (.fsinF32 r16 r8) 0 0x3F000000 0, (0x3F800000, 0)),
    (lane0 (.fsinF32 r16 r8) 0 0xC0400000 0, (0x80000000, 0)), (lane0 (.fcosF32 r16 r8) 0 0x3FC00000 0, (0, 0)),
    (lane0 (.frndF32 { x2 with a := .reg 0 }) 0 0x40200000 0, (0x40000000, 0x10)),
    (lane0 (.frndF32 { x2 with a := .reg 0, mod := 3 }) 0 0xBF000000 0, (0x80000000, 0x10)),
    (lane0 (.cvt ⟨.reg 16, .reg 4, 0x02, 0x13, Guard.none, 0, false⟩) 0x40533333 0 0, (0x47, 0x10)),
    (lane0 (.cvt ⟨.reg 16, .reg 4, 0x02, 0x13, Guard.none, 0, false⟩) 0x47723000 0 0, (0x7F, 0x14)),
    (lane0 (.cvt ⟨.reg 16, .reg 4, 0x02, 0x53, Guard.none, 0, false⟩) 0x47723000 0 0, (0x7F, 0x34)),
    (lane0 (.cvt ⟨.reg 16, .reg 4, 0x02, 0x04, Guard.none, 0, false⟩) 0x3E99999A 0 0, (0x3E9A, 0x10)),
    (lane0 (.cvtpk ⟨.reg 16, .reg 4, 0x02, 0x04, Guard.none, 0, false⟩) 0xC0490FDB3E99999A 0 0, (0xC0493E9A, 0x10)),
    (lane0 (.movB32 r16 r8) 0 0xFFFFFFFD 0, (0xFFFFFFFD, 0)), (lane0 (.movB64 r16 r8) 0 0x123456789 0, (0x123456789, 0)),
    (lane0 (.movi 16 0x3FB00000 Guard.none) 0 0 0, (0x3FB00000, 0)),
    (lane0 (.laneXf .movB32 { x2 with a := .reg 0, b := .imm 0xFFFD }) 0 0 0, (0xFFFFFFFD, 0))] = true := by decide +kernel

/-- R236 to R238: compares and sel, with an unordered operand and a negated predicate. -/
theorem test_compares :
    pred0 (.fcmpF32 { x2 with d := .reg 1, mod := 2 }) 0x3F800000 0x40000000 = some true ∧
    pred0 (.fcmpF32 { x2 with d := .reg 1, mod := 2 }) 0x7FC00000 0x40000000 = some false ∧
    pred0 (.fcmpF32 { x2 with d := .reg 1, mod := 2, c := .reg 8 }) 0x3F800000 0x40000000 = some false ∧
    pred0 (.dcmpF64 { x2 with d := .reg 1, mod := 2 }) 0x3FF0000000000000 0x4000000000000000 = some true ∧
    pred0 (.icmpS32 { x2 with d := .reg 1, mod := 2 }) 0xFFFFFFFF 0 = some true ∧ pred0 (.icmpN32 { x2 with d := .reg 1, mod := 2 }) 0xFFFFFFFF 0 = some false ∧
    pred0 (.icmpS64 { x2 with d := .reg 1, mod := 2 }) 0xFFFFFFFFFFFFFFFF 0 = some true ∧
    pred0 (.icmpN64 { x2 with d := .reg 1, mod := 2 }) 0xFFFFFFFFFFFFFFFF 0 = some false ∧
    lane0 (.selB32 { x3 with c := .reg 0 }) 5 6 0 = some (5, 0) ∧ lane0 (.selB32 { x3 with c := .reg 8 }) 5 6 0 = some (6, 0) := by decide +kernel

/-- The divergent run of chapter 09: lanes 0 to 7 stand at 0x1000 and lanes 8 to 31 further on; v2 = 100 + lane, v4 = lane + 1. -/
def divergent : Group :=
  { (List.range 32).foldl (fun g l => (g.writeV l 2 (BitVec.ofNat 32 (100 + l))).writeV l 4 (BitVec.ofNat 32 (l + 1))) g0 with
    table := [(0x1000, 0xFF), (0x2000, 0xFFFFFF00)], p := [(2, 0xAA)] }

/-- Registers n of lanes 0, 3, 7 and 8 after an instruction of that run. -/
def exchange (i : Instr) (n : Nat) : Option (List Nat) :=
  after (exec i (w divergent t0)) fun s => [0, 3, 7, 8].map fun l => ((grp s).readV l n).toNat

theorem test_lane_exchange :
    exchange (.lnrdB32 (.reg 3) (.reg 2) (.reg 4)) 3 = some [101, 104, 107, 0] ∧
    exchange (.lmask 5 2 false Guard.none) 5 = some [0xAA, 0xAA, 0xAA, 0] ∧
    exchange (.rsumS32 ⟨.reg 6, .reg 2, .reg 0, .reg 0, Guard.none, 0, 0, 0⟩) 6 = some [828, 828, 828, 0] ∧
    exchange (.rminS32 ⟨.reg 6, .reg 2, .reg 0, .reg 0, Guard.none, 0, 0, 0⟩) 6 = some [100, 100, 100, 0] ∧
    exchange (.rmaxS32 ⟨.reg 6, .reg 2, .reg 0, .reg 0, Guard.none, 0, 0, 0⟩) 6 = some [107, 107, 107, 0] ∧
    exchange (.laneXf .lnrdxB32 ⟨.reg 3, .reg 2, .imm 1, .reg 0, Guard.none, 0, 0, 0⟩) 3 = some [101, 102, 106, 0] ∧
    exchange (.lnrdxB32 (.reg 3) (.reg 2) (.reg 0)) 3 = some [100, 103, 107, 0] ∧
    exchange (.lidB32 (.reg 9)) 9 = some [0, 3, 7, 0] ∧
    after (exec (.agree 1 2 false 1 Guard.none) (w divergent t0)) (fun s => (grp s).predMask 1) = some 0xFF#64 ∧
    after (exec (.agree 1 2 false 0 Guard.none) (w divergent t0)) (fun s => (grp s).predMask 1) = some 0#64 ∧
    after (exec (.lnrdB32 (.reg 3) (.reg 2) (.reg 4)) (w divergent t0)) (fun s => (grp s).table) = some [(0x1004, 0xFF), (0x2000, 0xFFFFFF00)] := by decide +kernel

/-- R156: the reduction tree over 2^24, 1, 1, 1 gives 2^24 + 2. -/
theorem test_reduction_tree :
    after (exec (.rsumF32 { x1 with b := .reg 0 }) (w { (((g0.writeV 0 4 0x4B800000).writeV 1 4 0x3F800000).writeV 2 4 0x3F800000).writeV 3 4 0x3F800000 with
      table := [(0x1000, 0xF)] } t0)) (fun s => (grp s).readV 2 16) = some 0x4B800001#32 ∧
    lane0 (.rminF32 { x1 with b := .reg 0 }) 0xBF800000 0 0 = some (0xBF800000, 0) ∧ lane0 (.rmaxF32 { x1 with b := .reg 0 }) 0x3F800000 0 0 = some (0x3F800000, 0) :=
  by decide +kernel

/-- R116, R117, R235: an index register is written, read, and names a destination. -/
theorem test_index_registers :
    after (exec (.xset 1 (.reg 8)) (w (vr 0 0x00FF0020 0) t0)) (fun s => ((grp s).readX 0 1, (grp s).readX 1 1)) = some (0x00FF0020#32, 0#32) ∧
    after (exec (.xget (.reg 16) 2) (w { vr 0 0 0 with x := [(2, 0x01000003)] } t0)) (fun s => (grp s).readV 0 16) = some 0x01000003#32 ∧
    after (exec (.laneXf .movB32 { x2 with d := .idx 1 4, a := .reg 0 }) (w { vr 0 77 0 with table := [(0x1000, 1)], x := [(1, 0x00FF0020)] } t0))
      (fun s => (grp s).readV 0 0x24) = some 77#32 := by decide +kernel

/-! ## Witnesses: lane and uniform instructions -/

/-- An outstanding instruction that will write the registers listed. -/
def e0 (dsts : List Nat) : Entry :=
  ⟨50, .ldB32 ⟨.reg 1, 4, 0, .reg 0, Guard.none, 0, 0, .team, false, false, 0⟩, 0, 0, 0xF00, 1, .inFlight, 0, .lds, [], [], [], [], [], [], [], [], none,
    0, 0, dsts, 1, [], [], false, false, 50, []⟩

def busy (dsts : List Nat) (g : Group) : Group := { g with entries := [e0 dsts], lds := 1 }

/-- The operand forms of IntegerArithmetic, BitInstructions, FloatShortForms, LaneExtendedForms and LaneTwinsAndXset: they execute at once,
with the highest registers, under a guard, with an index register, with draws. -/
theorem witness_lane_forms :
    w0.Issues g0 t0 pc0 all ∧
    (let f := form2 (.reg 127) (.reg 127) (.reg 0) 1 1 .s32; f.noChan = true ∧ g0.LaneReady f (g0.active all f.guard)) ∧
    (let f := form2 (.reg 126) (.reg 126) (.reg 126) 2 2 .f64; f.noChan = true ∧ g0.LaneReady f (g0.active all f.guard)) ∧
    (let f := form1 (.reg 126) (.reg 0) 2 2 .s64; f.noChan = true ∧ g0.LaneReady f (g0.active all f.guard)) ∧
    (let f := lxForm { x3 with guard := ⟨7, false⟩ } ⟨1, 1, 1, 1, .s32, false⟩ 0
      let g : Group := { g0 with p := [(7, 0x80000001)] }
      (w g t0).Issues g t0 pc0 all ∧ f.noChan = true ∧ g.LaneReady f (g.active all f.guard) ∧ g.active all f.guard = 0x80000001) ∧
    (let f := formX { x3 with mod := 4 } 1 1 1 1 .h16 2; f.noChan = true ∧ f.draws = 2 ∧ g0.LaneReady f (g0.active all f.guard)) ∧
    (let f := twinForm .iaddS32 { x2 with a := .idx 1 63, b := .imm 0xFFFF }
      let g : Group := { only0 g0 with x := [(1, 0x01000000)] }
      f.noChan = true ∧ (w g t0).Issues g t0 pc0 1 ∧ g.LaneReady f (g.active 1 f.guard)) ∧
    (let f := twinForm .fsqrtF32 { x2 with a := .reg 0, b := .uni 127, mod := 4 }; f.noChan = true ∧ f.draws = 1 ∧ g0.LaneReady f all) := by
  (repeat' apply And.intro) <;> decide +kernel

/-- LaneTwinsAndXset: xset of a value with a reserved bit, and of a good one. -/
theorem witness_xset :
    (let g := vr 0 0x100 0
     (w g t0).Issues g t0 pc0 all ∧ g.LaneReady (formB (.reg 8)) (g.active all Guard.none) ∧ g.readV 0 8 &&& 0xFE00FF00#32 ≠ 0 ∧ 0 ∈ lanesOf all ∧
       same (exec (.xset 3 (.reg 8)) (w g t0)) ((w g t0).traps (.xset 3 (.reg 8)) 4 g pc0 all 0x02 [(0, laneRec 0x02 0)]) = true) ∧
    (let g := vr 0 0x01FF00FF 0
     g.LaneReady (formB (.reg 8)) all ∧ (∀ l ∈ lanesOf all, g.readV l 8 &&& 0xFE00FF00#32 = 0) ∧
       after (exec (.xset 3 (.reg 8)) (w g t0)) (fun s => (grp s).readX 0 3) = some 0x01FF00FF#32) := by (repeat' apply And.intro) <;> decide +kernel

/-- BitInstructions: the reserved forms of bool3 and bfe. -/
theorem witness_reserved_bits :
    ¬(Instr.bool3B32 { x3 with b := .imm 3 }).WellFormed ∧ ({ x3 with c := .reg 1 } : LX).c ≠ .reg 0 ∧ ¬(Instr.bfeB32 { x3 with c := .reg 1 }).WellFormed := by
  (repeat' apply And.intro) <;> decide +kernel

/-- LaneExchange, Predicates: the exchanges' forms, and lmask in a group of 32 lanes and in one of 64. -/
theorem witness_lane_exchange :
    (let g := divergent
     (w g t0).Issues g t0 pc0 0xFF ∧ g.LaneReady (form2 (.reg 3) (.reg 2) (.reg 4) 1 1 .n32) (g.active 0xFF Guard.none) ∧ g.LaneReady (formA x1) 0xFF ∧
       g.LaneReady (formNone (asDst (.reg 9)) 1 Guard.none 0) 0xFF ∧ g.LaneReady (formSel { x3 with c := .reg 15 }) 0xFF ∧
       g.LaneReady (formAB x2 2 .f64) 0xFF ∧ (formAB x2 2 .f64).noChan = true ∧ g.LaneReady (formNone (.reg 5) 1 Guard.none 0) 0xFF) ∧
    (let g : Group := { g0 with width := 64, table := [(pc0, BitVec.allOnes 64)], live := BitVec.allOnes 64, p := [(2, 0x8000000000000001)] }
     (w g t0).Issues g t0 pc0 (BitVec.allOnes 64) ∧ ¬(g.width = 64 ∧ (4 : BitVec 7).toNat % 2 = 1) ∧ g.LaneReady (formNone (.reg 4) 2 Guard.none 0) (BitVec.allOnes 64) ∧
       after (exec (.lmask 4 2 false Guard.none) (w g t0)) (fun s => (grp s).readWide 63 4 2) = some 0x8000000000000001) := by
  (repeat' apply And.intro) <;> decide +kernel

def iadd3 : Instr := .iaddS32 (.reg 3) (.reg 1) (.reg 2)
def iadd3Form : LaneForm := form2 (.reg 3) (.reg 1) (.reg 2) 1 1 .s32

theorem witness_lane_instr : LaneInstr iadd3 4 iadd3Form (fun _ => none) (writeAct iadd3Form (laneValue .iaddS32 .rne)) := ⟨rfl, fun _ => rfl⟩

/-- LaneIssueChecks: each check fails in turn, the highest register that the budget does not hold first. -/
theorem witness_lane_issue_checks :
    (let g : Group := { g0 with lbud := 3 }; g.dstBudget iadd3Form.d 1 = false ∧ (w g t0).Issues g t0 pc0 all ∧
      same (exec iadd3 (w g t0)) ((w g t0).traps iadd3 4 g pc0 all 0x05 []) = true) ∧
    (let i := Instr.iaddS32 (.reg 3) (.chan true 0) (.reg 2); t0.srcKind .lane (.chan true 0) = false ∧
      same (exec i w0) (w0.traps i 4 g0 pc0 all 0x04 []) = true) ∧
    (let x : LX := { x2 with d := .idx 0 5, guard := ⟨1, false⟩ }
     let g : Group := { g0 with p := [(1, 0x3)], x := [(0, 0x00050000), (4, 0x00060000)] }
     let i := Instr.laneXf .iaddS32 x
     g.dstBad 3 x.d 1 = [(0, 5)] ∧ g.active all x.guard = 3 ∧ same (exec i (w g t0)) ((w g t0).traps i 8 g pc0 all 0x05 (boundRecs [(0, 5)])) = true) ∧
    (let g : Group := { g0 with badV := [31 * 256 + 2] }; g.badWords all [1, 2] = true ∧
      same (exec iadd3 (w g t0)) (((w g t0).countUncorr 0).traps iadd3 4 g pc0 all 0x0B []) = true) ∧
    (let g := busy [2] g0; g.badWords all [1, 2] = false ∧ g.blocked ([1, 2] ++ [3]) = true ∧
      same (exec iadd3 (w g t0)) (.next { (w g t0) with stalled := true }) = true) := by (repeat' apply And.intro) <;> decide +kernel

/-- A team with lane channels 0 (depth 1) and 1, and uniform channels 2 (depth 1) and 3. -/
def tch (l0 l1 : List (Map Val)) (u2 u3 : List W64) : Team :=
  { t0 with chans := [(0, ⟨.lane, 0, 1, l0, [], 0⟩), (1, ⟨.lane, 128, 2, l1, [], 0⟩), (2, ⟨.uniform, 512, 1, [], u2, 0⟩),
    (3, ⟨.uniform, 520, 2, [], u3, 0⟩)] }

/-- LaneChannels: a wait for an entry, a wait for room, a peek and a pop into a register, and a push into a channel with room for one. -/
theorem witness_lane_channels :
    (let i := Instr.iaddS32 (.reg 3) (.chan true 0) (.reg 2)
     let f := form2 (.reg 3) (.chan true 0) (.reg 2) 1 1 .s32
     let s := w g0 (tch [] [] [] [])
     f.noChan = false ∧ (Issue.mk i 1 g0 pc0 all 4).laneChecks (tch [] [] [] []) f all = none ∧ takeLanes (tch [] [] [] []).chans f.chans = none ∧
       same (exec i s) (.next ((s.setGroup 1 { g0 with wait := .channel, waitPc := pc0 + 4, waitRun := all }).push (.channelResume 1))) = true) ∧
    (let i := Instr.iaddS32 (.chan false 0) (.reg 1) (.reg 2)
     let f := form2 (.chan false 0) (.reg 1) (.reg 2) 1 1 .s32
     let t := tch [[(0, 1)]] [] [] []
     (Issue.mk i 1 g0 pc0 all 4).laneChecks t f all = none ∧ takeLanes t.chans f.chans = some (t.chans, [[], [], []]) ∧ roomFor t.chans f.d = false ∧
       same (exec i (w g0 t)) (.next (((w g0 t).setGroup 1 { g0 with wait := .channel, waitPc := pc0 + 4, waitRun := all }).push (.channelResume 1))) = true) ∧
    (let i := Instr.iaddS32 (.reg 3) (.chan true 0) (.reg 2)
     let t := tch [[(0, 41), (5, 7)]] [] [] []
     let g := g0.writeV 0 2 1
     after (exec i (w g t)) (fun s => ((grp s).readV 0 3, (grp s).readV 5 3, ((tm s).chan 0).count)) = some (42#32, 7#32, 0) ∧
       (let b : Team := { t with bad := [5] }
        b.takesBad all b.chans [some (true, 0), none, none] = true ∧ same (exec i (w g b)) (((w g b).countUncorr 0).traps i 4 g pc0 all 0x0B []) = true ∧
          t.takesBad all t.chans [some (true, 0), none, none] = false)) ∧
    (let i := Instr.iaddS32 (.chan false 1) (.reg 1) (.reg 2)
     let f := form2 (.chan false 1) (.reg 1) (.reg 2) 1 1 .s32
     let t := tch [] [[(0, 9)]] [] []
     let g := only0 (g0.writeV 0 2 1)
     (w g t).Issues g t pc0 1 ∧ roomFor t.chans f.d = true ∧ ((w g t).chanOrder 1 (f.chans.any Option.isSome) (dstIsChan f.d)).2 = true ∧
       ((Issue.mk i 1 g pc0 1 4).still ((w g t).chanOrder 1 false true).1).isSome = true ∧
       after (exec i (w g t)) (fun s => ((tm s).chan 1).lanes) = some [[(0, 9)], [(0, 1)]]) := by (repeat' apply And.intro) <;> decide +kernel

/-! ## Uniform instructions -/

/-- R365: wraps, shifts by the width and more, signs. -/
theorem test_uniform_arithmetic : allEq [
    (uni0 (.saddB64 r16 r4 r8) 0xFFFFFFFFFFFFFFFF 2, 1), (uni0 (.ssubB64 r16 r4 r8) 0 1, 0xFFFFFFFFFFFFFFFF),
    (uni0 (.smulB64 r16 r4 r8) 0x100000001 0x100000001, 0x200000001), (uni0 (.smulhiS64 r16 r4 r8) 0xFFFFFFFFFFFFFFFF 0xFFFFFFFFFFFFFFFF, 0),
    (uni0 (.smulhiN64 r16 r4 r8) 0xFFFFFFFFFFFFFFFF 0xFFFFFFFFFFFFFFFF, 0xFFFFFFFFFFFFFFFE), (uni0 (.sminS64 r16 r4 r8) 0xFFFFFFFFFFFFFFFF 1, 0xFFFFFFFFFFFFFFFF),
    (uni0 (.sminN64 r16 r4 r8) 0xFFFFFFFFFFFFFFFF 1, 1), (uni0 (.smaxS64 r16 r4 r8) 0xFFFFFFFFFFFFFFFF 1, 1),
    (uni0 (.smaxN64 r16 r4 r8) 0xFFFFFFFFFFFFFFFF 1, 0xFFFFFFFFFFFFFFFF), (uni0 (.sandB64 r16 r4 r8) 0xF0F0 0xFF00, 0xF000),
    (uni0 (.sorB64 r16 r4 r8) 0xF0F0 0xFF00, 0xFFF0), (uni0 (.sxorB64 r16 r4 r8) 0xF0F0 0xFF00, 0x0FF0), (uni0 (.snotB64 r16 r8) 0 1, 0xFFFFFFFFFFFFFFFE),
    (uni0 (.sshlB64 r16 r4 r8) 1 63, 0x8000000000000000), (uni0 (.sshlB64 r16 r4 r8) 1 64, 0), (uni0 (.sshrN64 r16 r4 r8) 0x8000000000000000 63, 1),
    (uni0 (.sshrS64 r16 r4 r8) 0x8000000000000000 64, 0xFFFFFFFFFFFFFFFF), (uni0 (.smovB64 r16 r8) 0 7, 7), (uni0 (.spopcB64 r16 r8) 0 0xFF, 8),
    (uni0 (.sclzB64 r16 r8) 0 0, 64), (uni0 (.smovi 16 0x80000000 0 Guard.none) 0 0, 0xFFFFFFFF80000000), (uni0 (.smovi 16 0x80000000 1 Guard.none) 0 0, 0x80000000),
    (uni0 (.smovi 4 7 2 Guard.none) 0x1234 0, 0), (uni0 (.uniformXf .saddB64 16 4 0 Guard.none 0 (some 0x7FF8)) 9 0, 1),
    (uni0 (.ssel r16 r4 (.reg 8) 0 true Guard.none) 5 6, 5), (uni0 (.sbfe r16 r4 (.imm 0x0804) false Guard.none) 0xABCD 0, 0xBC),
    (uni0 (.sbfe r16 r4 (.imm 0x0804) true Guard.none) 0xABCD 0, 0xFFFFFFFFFFFFFFBC)] = true := by (repeat' apply And.intro) <;> decide +kernel

/-- R366, R367: smovi of a high half, a compare with a condition, a guard that does not hold. -/
theorem test_uniform_forms :
    after (exec (.smovi 4 7 2 Guard.none) (w (sr [(4, 0x1234)] g0) t0)) (fun s => ((grp s).readS 4).toNat) = some 0x700001234 ∧
    after (exec (.scmpS64 1 r4 (.imm 0x64) false false 0 2 Guard.none) (w (sr [(4, 0xFFFFFFFFFFFFFFFF)] g0) t0)) (fun s => (grp s).readB 1) = some true ∧
    after (exec (.scmpN64 1 r4 (.imm 0x64) false false 0 2 Guard.none) (w (sr [(4, 0xFFFFFFFFFFFFFFFF)] g0) t0)) (fun s => (grp s).readB 1) = some false ∧
    after (exec (.scmpS64 1 r4 (.imm 0x64) true true 2 2 Guard.none) (w { g0 with b := 4 } t0)) (fun s => (grp s).readB 1) = some false ∧
    same (exec (.uniformXf .saddB64 16 4 8 ⟨1, false⟩ 0 none) w0) (w0.moves g0 pc0 8 all) = true := by (repeat' apply And.intro) <;> decide +kernel

/-- UniformArithmetic, UniformExtended: the highest registers, and a guard that holds and one that does not. -/
theorem witness_uniform_forms :
    w0.Issues g0 t0 pc0 all ∧ g0.UniReady [127, 0] [127] ∧ g0.UniReady [] [0] ∧ arithOp .saddB64 = true ∧ oneSource .saddB64 = false ∧ oneSource .sclzB64 = true ∧
    g0.guardTrue ⟨3, true⟩ = true ∧ g0.guardTrue ⟨3, false⟩ = false ∧ uChan (.imm 5) = none ∧ uChan (.reg 127) = none := by (repeat' apply And.intro) <;> decide +kernel

def sadd3 : Instr := .saddB64 (.reg 3) (.reg 1) (.reg 2)

theorem witness_uni_instr : UniInstr sadd3 4 (some (.reg 3)) (some (.reg 1)) (some (.reg 2)) Guard.none (fun a b g => (g, uniValue .saddB64 a b)) := fun _ => rfl

/-- UniformIssueChecks: each check fails in turn. -/
theorem witness_uniform_issue_checks :
    (let g : Group := { g0 with ubud := 3 }; g.blocked [b0Key] = false ∧ same (exec sadd3 (w g t0)) ((w g t0).traps sadd3 4 g pc0 all 0x05 []) = true) ∧
    (let i := Instr.saddB64 (.reg 3) (.chan false 0) (.reg 2); (t0.chan 0).kind ≠ .uniform ∧ same (exec i w0) (w0.traps i 4 g0 pc0 all 0x04 []) = true) ∧
    (let g : Group := { g0 with badS := [2] }; g.badWords all [sKey 1, sKey 2] = true ∧ same (exec sadd3 (w g t0)) (((w g t0).countUncorr 0).traps sadd3 4 g pc0 all 0x0B []) = true) ∧
    (let g := busy [sKey 3] g0; g.badWords all [sKey 1, sKey 2] = false ∧ g.blocked [sKey 1, sKey 2, sKey 3] = true ∧ g.blocked [b0Key] = false ∧
      same (exec sadd3 (w g t0)) (.next { (w g t0) with stalled := true }) = true) := by (repeat' apply And.intro) <;> decide +kernel

/-- UniformChannels: a full channel, a push with room for one under a true and under a false guard, an empty channel, a pop. -/
theorem witness_uniform_channels :
    (let i := Instr.smovB64 (.chan false 2) (.reg 5)
     let t := tch [] [] [1] []
     takeWords t.chans [none, none] = some (t.chans, [0, 0]) ∧ (t.chans.getD 2 Chan.off).depth ≤ (t.chans.getD 2 Chan.off).count ∧ (t.chan 2).kind = .uniform ∧
       same (exec i (w g0 t)) (.next (((w g0 t).setGroup 1 { g0 with wait := .channel, waitPc := pc0 + 4, waitRun := all }).push (.channelResume 1))) = true) ∧
    (let i := Instr.smovB64 (.chan false 3) (.reg 5)
     let t := tch [] [] [] [1]
     let g := sr [(5, 99)] g0
     (w g t).Issues g t pc0 all ∧ (t.chans.getD 3 Chan.off).count < (t.chans.getD 3 Chan.off).depth ∧ ((w g t).chanOrder 1 false true).2 = true ∧
       ((Issue.mk i 1 g pc0 all 4).still ((w g t).chanOrder 1 false true).1).isSome = true ∧
       after (exec i (w g t)) (fun s => ((tm s).chan 3).words) = some [1, 99] ∧
       after (exec (.uniformXf .smovB64 0x83 0 5 ⟨1, false⟩ 0 none) (w g t)) (fun s => ((tm s).chan 3).words) = some [1, 0]) ∧
    (let i := Instr.smovB64 (.reg 5) (.chan true 2)
     let t := tch [] [] [] []
     takeWords t.chans [none, some (true, 2)] = none ∧
       same (exec i (w g0 t)) (.next (((w g0 t).setGroup 1 { g0 with wait := .channel, waitPc := pc0 + 4, waitRun := all }).push (.channelResume 1))) = true) ∧
    (let i := Instr.smovB64 (.reg 5) (.chan true 2)
     let t := tch [] [] [77] []
     ((w g0 t).chanOrder 1 true false).2 = true ∧ ((Issue.mk i 1 g0 pc0 all 4).still ((w g0 t).chanOrder 1 true false).1).isSome = true ∧
       after (exec i (w g0 t)) (fun s => ((grp s).readS 5, ((tm s).chan 2).words)) = some (77#64, []) ∧
       (let b : Team := { t with bad := [(t.chan 2).entryAt 0 / 4 + 1] }
        same (exec i (w g0 b)) (((w g0 b).countUncorr 0).traps i 4 g0 pc0 all 0x0B []) = true)) := by (repeat' apply And.intro) <;> decide +kernel

/-! ## Control flow and system -/

/-- Lanes 0 to 3 at 0x1000, lane 4 at 0x1100. -/
def split4 : Group := { g0 with table := [(pc0, 0xF), (0x1100, 0x10)], live := 0x1F, p := [(1, 0x11)] }

/-- BranchesAndCalls: bra to the lowest and highest offset, by a lane predicate and a b predicate that holds for no lane; brx to an aligned and a
misaligned target; call; ret to two addresses and to a misaligned one. -/
theorem witness_branches :
    ((w split4 t0).Issues split4 t0 pc0 0xF ∧
      same (exec (.bra 0x800000) w0) (.next (w0.setGroup 1 (g0.place all [(pc0 - 0x2000000, all), (pc0 + 4, 0)]))) = true ∧
      after (exec (.uniformXf .bra 0 0 64 ⟨1, false⟩ 1 none) (w split4 t0)) (fun s => (grp s).table) = some [(0x1008, 0xE), (0x1100, 0x11)] ∧
      after (exec (.uniformXf .bra 0 0 64 ⟨1, false⟩ 0 none) (w split4 t0)) (fun s => (grp s).table) = some [(0x1008, 0xF), (0x1100, 0x10)]) ∧
    (let g := sr [(127, 0x2000)] g0
     (127 : BitVec 7).toNat < g.ubud ∧ g.badS.contains 127 = false ∧ g.blocked [sKey 127] = false ∧ (g.readS 127).toNat % 4 = 0 ∧
       same (exec (.brx 127) (w g t0)) (.next ((w g t0).setGroup 1 (g.place all [(0x2000, all), (pc0 + 4, 0)]))) = true) ∧
    (let g := sr [(127, 0x2001)] g0
     (g.readS 127).toNat % 4 ≠ 0 ∧ same (exec (.brx 127) (w g t0)) ((w g t0).traps (.brx 127) 4 g pc0 all 0x03 []) = true) ∧
    (2 ≤ g0.lbud ∧ g0.lbud ≤ 256 ∧ g0.blocked (vKeys (g0.lbud - 2) 2) = false ∧
      after (exec (.call 2) w0) (fun s => ((grp s).table, (grp s).readWide 31 254 2)) = some ([(0x1008, all)], 0x1004)) ∧
    (let g := (split4.writeWide 0 254 2 0x1100).writeWide 1 254 2 0x900
     g.badWords 0xF (vKeys (g.lbud - 2) 2) = false ∧ (∀ l ∈ lanesOf 0xF, (g.linkOf l).toNat % 4 = 0) ∧
       after (exec .ret (w g t0)) (fun s => (grp s).table) = some [(0, 0xC), (0x900, 2), (0x1100, 0x11)] ∧
       same (exec .ret (w g t0)) (.next ((w g t0).setGroup 1 (g.place 0xF ((lanesOf 0xF).map (fun l => (g.linkOf l, laneBit l)) ++ [(pc0 + 4, 0)])))) = true) ∧
    (let g := split4.writeWide 2 254 2 0x902
     (∃ l ∈ lanesOf 0xF, (g.linkOf l).toNat % 4 ≠ 0) ∧ same (exec .ret (w g t0)) ((w g t0).traps .ret 4 g pc0 0xF 0x03 [(2, laneRec 0x03 0x902)]) = true) ∧
    (let g := (sr [(5, 0x2000)] split4).writeWide 1 254 2 0x900
     g.taking 0xF ⟨1, false⟩ true = 1 ∧ g.taking 0xF ⟨1, true⟩ true = 0xE ∧ g.taking 0xF ⟨0, false⟩ false = 0xF ∧ g.blocked [sKey 5] = false ∧
       after (exec (.uniformXf .brx 0 5 0 ⟨1, false⟩ 1 none) (w g t0)) (fun s => (grp s).table) = some [(0x1008, 0xE), (0x1100, 0x10), (0x2000, 1)] ∧
       after (exec (.uniformXf .call 0 0 2 ⟨1, false⟩ 1 none) (w g t0)) (fun s => ((grp s).table, (grp s).readWide 0 254 2, (grp s).readWide 1 254 2)) =
         some ([(0x1008, 0xF), (0x1100, 0x10)], 0x1008, 0x900) ∧
       after (exec (.uniformXf .ret 0 0 0 ⟨1, true⟩ 1 none) (w g t0)) (fun s => (grp s).table) =
         some [(0, 0xC), (0x900, 2), (0x1008, 1), (0x1100, 0x10)]) ∧
    (let g := sr [(5, 0x2002)] split4
     same (exec (.uniformXf .brx 0 5 0 ⟨1, false⟩ 1 none) (w g t0)) ((w g t0).traps (.uniformXf .brx 0 5 0 ⟨1, false⟩ 1 none) 8 g pc0 0xF 0x03 []) = true) := by
  (repeat' apply And.intro) <;> decide +kernel

/-- LanePcTable: two targets of a run of four lanes, one of which stands nowhere afterwards. -/
theorem witness_lane_pc_table :
    tableOk split4.table ∧ ([(0x1100#64, 0x3#64), (0x2000#64, 0x4#64)].map (fun e => e.2)).Pairwise (fun a b => a &&& b = 0) ∧
    (∀ e ∈ [(0x1100#64, 0x3#64), (0x2000#64, 0x4#64)], e.2 &&& ~~~0xF#64 = 0) ∧
    tableMove split4.table 0xF [(0x1100, 0x3), (0x2000, 0x4)] = [(0x1100, 0x13), (0x2000, 0x4)] ∧ tablePc split4.table 3 = some pc0 := by
  have h1 : split4.table.all (fun e => !(e.2 == 0)) = true := rfl
  have h2 : [(0x1100#64, 0x3#64), (0x2000#64, 0x4#64)].all (fun e => e.2 &&& ~~~0xF#64 == 0) = true := rfl
  refine ⟨⟨by decide +kernel, fun e he => by simpa using List.all_eq_true.mp h1 e he⟩, by decide +kernel,
    fun e he => by simpa using List.all_eq_true.mp h2 e he, by decide +kernel, by decide +kernel⟩

/-- The trace of chapter 14: (p1) bra takes lanes 0, 4, 8, ..., 28 of a run at base + 0x01C to base + 0x034. -/
theorem test_bra_example :
    after (exec (.uniformXf .bra 0 0 6 ⟨1, false⟩ 1 none) (w { g0 with table := [(0x101C, all)], p := [(1, 0x11111111)] } t0)) (fun s => (grp s).table) =
      some [(0x1024, 0xEEEEEEEE), (0x1034, 0x11111111)] := by (repeat' apply And.intro) <;> decide +kernel

/-- NopAdvances, YieldHelpWaitTrap: a WAIT that is met at its limit and one above it, a trap with and without a handler, an opcode that no table lists. -/
theorem witness_yield_wait_trap :
    w0.Issues g0 t0 pc0 all ∧ same (exec .nop w0) (w0.moves g0 pc0 4 all) = true ∧ same (exec .yield w0) (w0.moves g0 pc0 4 all) = true ∧
    same (exec (.exitHelp ⟨1, false⟩ true) (w split4 t0)) ((w split4 t0).moves { split4 with help := 1 } pc0 8 0xF) = true ∧
    (let g : Group := { g0 with lds := 3, tls := 63 }
     same (exec (.wait 3 0 0 63) (w g t0)) ((w g t0).moves g pc0 4 all) = true ∧
       same (exec (.wait 2 0 0 63) (w g t0)) (.next (((w g t0).setGroup 1 { g with wait := .counters 2 0 0 63 none, waitPc := pc0 + 4, waitRun := all }).push
         (.waitRelease 1))) = true) ∧
    after (exec (.pwrhint 3) w0) (fun s => (s.powerOf 0).hint) = some 3 ∧
    same (exec (.trap 255) w0) (.next ((w0.setGroup 1 (g0.place all [(pc0 + 4, all)])).raise 1 ⟨0x10, 255, pc0, false, 0, 0, 0, [], 0⟩)) = true ∧
    after (exec (.trap 255) w0) (fun s => s.stops.map fun e => (e.2.rung, e.2.cause, e.2.code, e.2.team)) = some [(1, 0x10, 255, 2)] ∧
    extended (fOp 0#32) = false ∧ same (exec (.illegalInstruction 0) w0) (.next (w0.raise 1 ⟨0x01, 0, pc0, true, all, 0, 0, [], 0⟩)) = true := by
  (repeat' apply And.intro) <;> decide +kernel

/-- DrawKeys: genkey.key of two registers, ctr, strm in a ganged group, rdkey, and rd in a run whose lowest lane is 2. -/
theorem witness_draw_keys :
    (let g := sr [(126, 5), (127, 6)] g0
     (w g t0).UniIssues g t0 pc0 all [126, 127] [] ∧ g.blocked [drawKey] = false ∧
       same (exec (.genkeyKey 126) (w g t0)) ((w g t0).moves { g with key := 0x0000000000000006_0000000000000005 } pc0 4 all) = true) ∧
    (let g := sr [(9, 5)] split4
     (w g t0).UniIssues g t0 pc0 0xF [9] [] ∧ after (exec (.genkeyCtr 9) (w g t0)) (fun s => ((grp s).counter.getD 3 0, (grp s).counter.getD 4 0)) = some (5#64, 0#64)) ∧
    (let g := sr [(9, 0xFFFFFFFFFFFFFFFF)] { g0 with gang := true, table := [(pc0, 0xFFFF)], table1 := [(pc0, 0xFFFF0000)] }
     (w g t0).UniIssues g t0 pc0 all [9] [] ∧ after (exec (.genkeyStrm 9) (w g t0)) (fun s => ((grp s).stream.getD 17 0, (grp s).stream.getD 31 0)) = some (0#64, 14#64)) ∧
    (let g : Group := { g0 with key := 0x0000000000000006_0000000000000005 }
     (w g t0).UniIssues g t0 pc0 all [] [126, 127] ∧ after (exec (.genkeyRdkey 126) (w g t0)) (fun s => ((grp s).readS 126, (grp s).readS 127)) = some (5#64, 6#64)) ∧
    (let g : Group := { g0 with table := [(pc0, 0xFFFFFFFC), (0x2000, 3)], counter := [(2, 40)] }
     (w g t0).UniIssues g t0 pc0 0xFFFFFFFC [] [126, 127] ∧ 2 ∈ lanesOf 0xFFFFFFFC ∧ (∀ k ∈ lanesOf 0xFFFFFFFC, 2 ≤ k) ∧
       after (exec (.genkeyRd 126) (w g t0)) (fun s => ((grp s).readS 126, (grp s).readS 127)) = some (40#64, 2#64)) := by (repeat' apply And.intro) <;> decide +kernel

/-- LockedCode: no byte, an address that is not canonical, a range of two granules, the 128th granule and no more. -/
theorem witness_locked_code :
    ((let g := sr [(4, 0x100), (5, 0)] g0
      (w g t0).UniIssues g t0 pc0 all [4, 5] [3] ∧ (w g t0).ctxs.get? 4 = some loadCtx ∧
        same (exec (.ilock 3 4 5) (w g t0)) ((w g t0).moves ((g.writeS 3 0).writeB 0 true) pc0 4 all) = true ∧
        same (exec (.iunlock 4 5) (w g t0)) ((w g t0).moves g pc0 4 all) = true)) ∧
    ((let g := sr [(4, 0x100000000000000), (5, 1)] g0
      canonical (g.readS 4).toNat = false ∧ same (exec (.ilock 3 4 5) (w g t0)) ((w g t0).moves ((g.writeS 3 0).writeB 0 false) pc0 4 all) = true)) ∧
    ((let g := sr [(4, 0xFFFFFFFFFFFFFFFF), (5, 2)] g0
      canonical (g.readS 4).toNat = true ∧ same (exec (.ilock 3 4 5) (w g t0)) ((w g t0).moves ((g.writeS 3 0).writeB 0 false) pc0 4 all) = true ∧
        same (exec (.iunlock 4 5) (w g t0)) ((w g t0).moves g pc0 4 all) = true)) ∧
    ((let g := sr [(4, 0x1FF), (5, 2)] g0
      canonical (g.readS 4).toNat = true ∧ (g.readS 4).toNat + 2 - 1 < 2 ^ 64 ∧
        after (exec (.ilock 3 4 5) (w g t0)) (fun s => ((grp s).readS 3, (grp s).readB 0, (s.ctxs.get? 4).map fun c => c.locked)) = some (512#64, true, some [1, 2]))) ∧
    ((let g := sr [(4, 0x1FF), (5, 2)] g0
      let s : State := (w g t0).setCtx 4 { loadCtx with locked := (List.range 127).map fun k => 100 + k }
      after (exec (.ilock 3 4 5) s) (fun s => ((grp s).readS 3, (grp s).readB 0, (s.ctxs.get? 4).map fun c => c.locked.length)) = some (256#64, false, some 128))) ∧
    ((let g := sr [(4, 0x1FF), (5, 2)] g0
      let s : State := (w g t0).setCtx 4 { loadCtx with locked := [0, 1, 2, 3] }
      after (exec (.iunlock 4 5) s) (fun s => (s.ctxs.get? 4).map fun c => c.locked) = some (some [0, 3]))) := by (repeat' apply And.intro) <;> decide +kernel

/-- A state in which function 1 has quad 0: layer slices 0 and 1 of die 0 are its own. -/
def withQuad (s : State) : State := { s with quadOwner := [(0, 1)] }

/-- SystemReads: the classes of registers at their first and last numbers. -/
theorem witness_system_reads :
    w0.UniIssues g0 t0 pc0 all [] [127] ∧ g0.entries = [] ∧ g0.sbuf = [] ∧ (∀ q ∈ t0.mat.queue, q.gid ≠ w0.focus) ∧ w0.ctxs.get? g0.ctx = some loadCtx ∧
    (withQuad w0).inPartition ((withQuad w0).fnOf g0) (quadOfSlice g0.die 0) = true ∧ w0.inPartition (w0.fnOf g0) (quadOfSlice g0.die 23) = false ∧
    same (exec (.sysrd 127 0x0002) w0) (w0.moves (g0.writeS 127 0xFFFFFFFF) pc0 4 all) = true ∧
    same (exec (.sysrd 127 0x0100) (withQuad w0)) ((withQuad w0).moves (g0.writeS 127 0) pc0 4 all) = true ∧
    same (exec (.sysrd 127 0x0117) w0) (w0.traps (.sysrd 127 0x0117) 4 g0 pc0 all 0x07 []) = true ∧
    same (exec (.sysrd 127 0x023F) w0) (w0.moves (g0.writeS 127 0) pc0 4 all) = true ∧
    same (exec (.sysrd 127 0x0300) w0) (w0.moves (g0.writeS 127 16) pc0 4 all) = true ∧
    same (exec (.sysrd 127 0x0400) w0) (w0.moves (g0.writeS 127 1) pc0 4 all) = true ∧
    same (exec (.sysrd 127 0x0FFF) w0) (w0.traps (.sysrd 127 0x0FFF) 4 g0 pc0 all 0x07 []) = true ∧
    ([0x0008, 0x0118, 0x0240, 0x0301, 0x0310, 0x0401, 0x07FF].all fun r : BitVec 15 =>
      same (exec (.sysrd 127 r) w0) (w0.traps (.sysrd 127 r) 4 g0 pc0 all 0x02 [])) = true ∧
    same (exec (.sysrd 127 0x1000) w0) (w0.traps (.sysrd 127 0x1000) 4 g0 pc0 all 0x02 []) = true := by (repeat' apply And.intro) <;> decide +kernel

/-- SystemWrites: NUM_FLAGS at its bounds, and the ways of a slice: busy, below the floor, unchanged, more, fewer. -/
def wayState (x : Nat) (v : Waypart) : State := { withQuad (w (sr [(6, x)] g0) t0) with waypart := [(0, v)] }

theorem witness_system_writes :
    (let g := sr [(6, 63)] { g0 with flags := 0x3F }
     (w g t0).UniIssues g t0 pc0 all [6] [] ∧ same (exec (.syswr 1 6) (w g t0)) ((w g t0).moves { g with flags := 0 } pc0 4 all) = true) ∧
    (let g := sr [(6, 64)] g0; same (exec (.syswr 1 6) (w g t0)) ((w g t0).traps (.syswr 1 6) 4 g pc0 all 0x02 []) = true) ∧
    (let g := busy [16] g0
     (w g t0).flagsAhead 1 g = true ∧ same (exec (.syswr 1 6) (w g t0)) (.next { (w g t0) with stalled := true }) = true) ∧
    ([17, 31, 32, 1024, 2 ^ 24, 2 ^ 63].all fun x : Nat => let s := wayState x ⟨0, 0, false, 0, 0⟩
      same (exec (.syswr 0x100 6) s) (s.traps (.syswr 0x100 6) 4 (sr [(6, x)] g0) pc0 all 0x02 [])) = true ∧
    same (exec (.syswr 0x117 6) w0) (w0.traps (.syswr 0x117 6) 4 g0 pc0 all 0x07 []) = true ∧
    (let s := wayState 16 ⟨0, 0, false, 0, 0⟩
     s.inPartition (s.fnOf g0) (quadOfSlice 0 0) = true ∧ s.layerPending s.focus g0 = false ∧ bits 16 63 24 = 0 ∧ bits 16 10 5 = 0 ∧ bits 16 4 0 ≤ 16) ∧
    after (exec (.syswr 0x100 6) (wayState 5 ⟨0, 0, true, 3, 3⟩)) (fun s => s.wayp 0 0) = some ⟨0, 1, true, 3, 3⟩ ∧
    after (exec (.syswr 0x100 6) (wayState 5 ⟨6, 0, false, 8, 8⟩)) (fun s => s.wayp 0 0) = some ⟨6, 2, false, 8, 8⟩ ∧
    after (exec (.syswr 0x100 6) (wayState 5 ⟨5, 2, false, 5, 5⟩)) (fun s => s.wayp 0 0) = some ⟨5, 0, false, 5, 5⟩ ∧
    after (exec (.syswr 0x100 6) (wayState 16 ⟨5, 2, false, 5, 5⟩)) (fun s => (s.wayp 0 0, s.work)) = some (⟨5, 0, true, 16, 5⟩, [.layerGrow 0 0]) ∧
    after (exec (.syswr 0x100 6) (wayState 0 ⟨0, 2, false, 5, 5⟩)) (fun s => (s.wayp 0 0, s.work)) = some (⟨0, 0, true, 0, 0⟩, [.layerShrink 0 0]) ∧
    readOnlyReg 0x0002 = true ∧ same (exec (.syswr 2 6) w0) (w0.traps (.syswr 2 6) 4 g0 pc0 all 0x07 []) = true ∧
    same (exec (.syswr 0x7FFF 6) w0) (w0.traps (.syswr 0x7FFF 6) 4 g0 pc0 all 0x02 []) = true := by (repeat' apply And.intro) <;> decide +kernel

/-- ExitAndRepack: an exit that leaves lanes, one that is the group's last, one that a live sample refuses; a repack before and after the
other runs arrive, by key, and in a ganged group. -/
def liveSample : Sample := ⟨.ready, 0, 0, 0, 0, 1, 0, 0, 0, 0, 0, 0, 0, 0, false, 0, 0, false, false, false⟩

theorem witness_exit :
    (let g := split4
     (w g t0).Issues g t0 pc0 0xF ∧ g.live &&& ~~~0xF#64 ≠ 0 ∧ (g.place 0xF [(pc0 + 4, 0)]).table ≠ [] ∧
       after (exec .exit (w g t0)) (fun s => ((grp s).live, (grp s).table, (grp s).wait)) = some (0x10#64, [(0x1100#64, 0x10#64)], Wait.none)) ∧
    (g0.live &&& ~~~all = 0 ∧ (t0.liveSamples && !(w0.otherGroups g0.team w0.focus)) = false ∧
      after (exec .exit w0) (fun s => ((grp s).live, (grp s).wait, s.work)) = some (0#64, Wait.exit, [Act.groupExit 1])) ∧
    (let t : Team := { t0 with sol := ⟨[], [(0, liveSample)], 0, 0⟩ }
     t.liveSamples = true ∧ (w g0 t).otherGroups g0.team 1 = false ∧ same (exec .exit (w g0 t)) ((w g0 t).traps .exit 4 g0 pc0 all 0x0F []) = true) := by
  (repeat' apply And.intro) <;> decide +kernel

theorem witness_repack :
    (let g := split4
     (127 : BitVec 7).toNat < g.ubud ∧ g.blocked [sKey 127] = false ∧ (g.place 0xF []).table ≠ [] ∧
       after (exec (.repack 127) (w g t0)) (fun s => ((grp s).table, (grp s).parked.map (fun p => (p.lane, p.d, p.pc)), (grp s).wait)) =
         some ([(0x1100#64, 0x10#64)], [(0, 127, pc0), (1, 127, pc0), (2, 127, pc0), (3, 127, pc0)], Wait.none) ∧
       after (exec (.repackKey 2 127) (w (g.writeV 3 127 0x12345) t0)) (fun s => (grp s).parked.map (fun p => p.key)) = some [some 0, some 0, some 0, some 0x2345]) ∧
    ((g0.place all []).table = [] ∧ (127 : BitVec 7).toNat < g0.lbud ∧ g0.badWords all [127] = false ∧ g0.blocked [127] = false ∧
      after (exec (.repack 2) w0) (fun s => ((grp s).wait, s.work, (grp s).parked.length)) = some (Wait.repack, [Act.repackArrive 1], 32) ∧
      after (exec (.repackKey 2 127) w0) (fun s => ((grp s).wait, s.work, (grp s).parked.length)) = some (Wait.repack, [Act.repackArrive 1], 32)) ∧
    (let g : Group := { g0 with gang := true, table := [(pc0, 0xFFFF)], table1 := [(pc0, 0xFFFF0000)] }
     same (exec (.repack 2) (w g t0)) ((w g t0).traps (.repack 2) 4 g pc0 all 0x01 []) = true ∧
       same (exec (.repackKey 2 3) (w g t0)) ((w g t0).traps (.repackKey 2 3) 4 g pc0 all 0x01 []) = true) := by (repeat' apply And.intro) <;> decide +kernel

/-- Synchronisation: fence at team and device scope, acquire and release at a good and a bad address, a meeting point that is completed and one
that is not, a wait for the current phase and for another, and mpinit at its bounds. -/
theorem witness_synchronisation :
    w0.Quiet g0 t0 ∧ same (exec (.fence 1) w0) (State.moves { w0 with syncRecs := [⟨1, none, [], false, 5⟩], nextId := 6 } g0 pc0 4 all) = true ∧
    same (exec (.fence 5) w0) (w0.moves g0 pc0 4 all) = true ∧
    (let g := sr [(9, 0x100000000000000)] g0
     (w g t0).UniIssues g t0 pc0 all [9] [] ∧ syncAddrOk false 0x100000000000000 = false ∧
       same (exec (.acq 2 false 9) (w g t0)) ((w g t0).traps (.acq 2 false 9) 4 g pc0 all 0x04 []) = true ∧
       same (exec (.rel 2 false 9) (w g t0)) ((w g t0).traps (.rel 2 false 9) 4 g pc0 all 0x04 []) = true) ∧
    (let g := sr [(9, 0x4000)] g0
     syncAddrOk false 0x4000 = true ∧ same (exec (.acq 2 false 9) (w g t0)) ((w g t0).moves g pc0 4 all) = true ∧
       same (exec (.rel 0 false 9) (w g t0)) (State.moves { (w g t0) with syncRecs := [⟨1, some 0, [], false, 5⟩], nextId := 6 } g pc0 4 all) = true) ∧
    (t0.mps.get? 0 = some ⟨1, 0, 0, true⟩ ∧
      after (exec (.mparr 9 0) w0) (fun s => ((grp s).readS 9, (tm s).mps)) = some (0#64, [(0, ⟨1, 0, 1, true⟩)])) ∧
    (let t : Team := { t0 with mps := [(127, ⟨2, 0, 0xFFFFFFFF, false⟩)] }
     after (exec (.mparr 9 127) (w g0 t)) (fun s => ((grp s).readS 9, (tm s).mps)) = some (0xFFFFFFFF#64, [(127, ⟨2, 1, 0xFFFFFFFF, false⟩)]) ∧
     (let g := sr [(8, 0xFFFFFFFF)] g0
      (g.readS 8).toNat < 2 ^ 32 ∧ same (exec (.mpwait 127 8) (w g t)) (.next (((w g t).setGroup 1 { g with
        wait := .mpwait 127 0xFFFFFFFF, waitPc := pc0 + 4, waitRun := all }).push (.mpwaitWake 1))) = true) ∧
     same (exec (.mpwait 127 8) (w g0 t)) ((w g0 t).moves g0 pc0 4 all) = true) ∧
    same (exec (.mpinit 0 8) w0) (w0.traps (.mpinit 0 8) 4 g0 pc0 all 0x04 []) = true ∧
    (let g := sr [(8, 65536)] g0; same (exec (.mpinit 0 8) (w g t0)) ((w g t0).traps (.mpinit 0 8) 4 g pc0 all 0x04 []) = true) ∧
    (let g := sr [(8, 65535)] g0; after (exec (.mpinit 0 8) (w g t0)) (fun s => (tm s).mps) = some [(0, ⟨65535, 0, 0, false⟩)]) ∧
    (let t : Team := { t0 with mps := [(0, ⟨9, 3, 6, true⟩)] }
     let g := sr [(8, 3)] g0; after (exec (.mpinit 0 8) (w g t)) (fun s => (tm s).mps) = some [(0, ⟨3, 0, 7, false⟩)]) := by (repeat' apply And.intro) <;> decide +kernel

/-! ## Memory -/

/-- Lanes 0 and 1 at 0x1000: v4 holds 8 and 12 (in global space, with v5, 0x40000FFC and 0x40001000), v8 holds 0x11223380 and 0xAABBCCDD. -/
def two (hi : Nat) : Group :=
  { ((((g0.writeWide 0 4 2 (8 + hi)).writeWide 1 4 2 (12 + hi)).writeV 0 8 0x11223380).writeV 1 8 0xAABBCCDD) with
    table := [(pc0, 3), (0x3000, 0xFFFFFFFC)] }

/-- A memory form of a space with its address in v4, its destination v16 or its source v8. -/
def lmLd (sp : Space) (off : BitVec 10) : LM := ⟨.reg 16, 4, 0, .reg 0, Guard.none, 0, 0, sp, false, false, off⟩
def lmSt (sp : Space) (off : BitVec 10) : LM := ⟨.reg 0, 4, 0, .reg 8, Guard.none, 0, 0, sp, false, false, off⟩
def laAt (sp : Space) (order : BitVec 2) (d : BitVec 7) : LA := ⟨d, 4, 8, Guard.none, 0, order, sp, false, 0, 0, 0⟩

/-- The module with the graphics DRAM devices of a few addresses ready, the HDM range at 0, and 1 GiB at virtual 0x40000000 mapped to it for function 1. -/
def globState (g : Group) (t : Team) : State :=
  { w g t with hdm := some 0, ready := [0x40000000, 0x40000100, 0x40000200, 0x40000F00, 0x40001000, 0x40000300].map deviceOfDpa, l1 := l1s [⟨1, 1, 30, 0x40000000, 0x40000000, true, true, false, false⟩] }

/-- The form and the entry of an instruction in a state. -/
def opOf (i : Instr) : MemOp := (memOp i).getD (lmOp .store (lmSt .team 0) 1 0 0)
def entryOf (s : State) (i : Instr) (g : Group) (run : BitVec 64) : Entry := s.memEntry i (opOf i) g pc0 run

/-- The instruction goes into the memory pipeline at once. -/
abbrev issuesAt (s : State) (i : Instr) (g : Group) (t : Team) (run : BitVec 64) : Prop :=
  s.MemIssues i (opOf i) g t pc0 run (entryOf s i g run)

/-- MemoryIssueChecks, part 1: each check of R189 fails in turn. -/
theorem witness_memory_issue_checks :
    (let g : Group := { two 0 with lbud := 16 }
     (opOf (.ldB32 (lmLd .team 0))).budgetOk (.ldB32 (lmLd .team 0)) g = false ∧
       same (exec (.ldB32 (lmLd .team 0)) (w g t0)) ((w g t0).traps (.ldB32 (lmLd .team 0)) 8 g pc0 3 0x05 []) = true) ∧
    (let i := Instr.ldB32 { lmLd .team 0 with d := .idx 0 5 }
     let g : Group := { two 0 with x := [(0, 0x00050000), (4, 0x00060000)] }
     (opOf i).boundFails g 3 = [(0, 5)] ∧ same (exec i (w g t0)) ((w g t0).traps i 8 g pc0 3 0x05 (boundRecs [(0, 5)])) = true) ∧
    (let i := Instr.ldB32 (lmLd .team 0)
     let g : Group := { two 0 with badV := [256 + 4] }
     g.badWords 3 ((opOf i).reads g 3) = true ∧ same (exec i (w g t0)) (((w g t0).countUncorr 0).traps i 8 g pc0 3 0x0B []) = true) ∧
    (let i := Instr.ldB32 (lmLd .team 0)
     let g := busy [16] (two 0)
     g.blocked ((opOf i).reads g 3 ++ (entryOf (w g t0) i g 3).written) = true ∧
       same (exec i (w g t0)) (.next { (w g t0) with stalled := true }) = true ∧
       (let b : Group := { g with badV := [256 + 4] }
        b.badWords 3 ((opOf i).reads b 3) = true ∧ same (exec i (w b t0)) (.next { (w b t0) with stalled := true }) = true)) ∧
    (let i := Instr.sldB32 ⟨9, 6, ⟨1, false⟩, 0, .team, 0⟩
     (opOf i).uni = true ∧ g0.guardTrue (opOf i).guard = false ∧ same (exec i w0) (w0.moves g0 pc0 8 all) = true) ∧
    (let i := Instr.ldB32 (lmLd .team 2)
     let s := w (two 0) t0
     s.reqFails (two 0) t0 (opOf i) ((opOf i).reqs (entryOf s i (two 0) 3)) = [⟨0, 3, 0x03, 10⟩, ⟨1, 3, 0x03, 14⟩] ∧
       same (exec i s) (s.traps i 8 (two 0) pc0 3 0x03 [(0, laneRec 0x03 10), (1, laneRec 0x03 14)]) = true) := by (repeat' apply And.intro) <;> decide +kernel

/-- MemoryIssueChecks, part 2: an address misaligned by one, one that is not canonical, the first byte outside team memory, a slice that the
function does not own, and channel storage, whose last byte the access touches. -/
theorem witness_request_checks :
    (let op := opOf (.ldB32 (lmLd .team 0))
     (w0.reqCheck g0 t0 op ⟨0, .team, 4095, 4⟩ = some (3, 0x03)) ∧ (w0.reqCheck g0 t0 op ⟨0, .team, 4096, 4⟩ = some (4, 0x04)) ∧
       t0.size < 4096 + 4 ∧ (w0.reqCheck g0 t0 op ⟨0, .team, 4092, 4⟩ = none)) ∧
    (let op := opOf (.ldB32 (lmLd .glob 0))
     canonical 0x0100000000000000 = false ∧ (w0.reqCheck g0 t0 op ⟨0, .glob, 0x0100000000000000, 4⟩ = some (4, 0x04))) ∧
    (let op := opOf (.ldB32 (lmLd .layer 0))
     w0.layerCheck (w0.fnOf g0) g0.die 0 4 = some 0x07 ∧ (w0.reqCheck g0 t0 op ⟨0, .layer, 0, 4⟩ = some (4, 0x07))) ∧
    (let op := opOf (.ldB32 (lmLd .team 0))
     let t := tch [] [] [] []
     t.inChannel 252 4 = true ∧ 252 + 4 ≤ t.size ∧ (w0.reqCheck g0 t op ⟨0, .team, 252, 4⟩ = some (5, 0x07))) := by (repeat' apply And.intro) <;> decide +kernel

/-- A check that a state is a given one but for what has been asked of the host's translation. -/
def almost (r : Result) (s : State) : Option Bool := after r fun s' => decide (s.sameBut s')

/-- LoadIssue: a load of a lane set in team memory, with its counter at 254, a uniform load, an XACC read in global space and a resld. -/
theorem witness_load_issue :
    (let g : Group := { two 0 with lds := 254 }
     let i := Instr.ldB32 (lmLd .team 0)
     issuesAt (w g t0) i g t0 3 ∧ (opOf i).kind.isLoad = true ∧ .loadLanding 1 (w g t0).nextId ∉ (w g t0).work ∧
       almost (exec i (w g t0)) (({ (w g t0) with nextId := 6, work := [.loadLanding 1 5] } : State).setGroup 1
         { (g.place 3 [(pc0 + 8, 3)]) with entries := [{ entryOf (w g t0) i g 3 with ranges := [(.team, 8, 4), (.team, 12, 4)] }], lds := 255 }) = some true) ∧
    issuesAt w0 (.sldB64 ⟨9, 6, Guard.none, 0, .team, 8⟩) g0 t0 all ∧
    (let i := Instr.xrd (lmLd .glob 0) false 4
     issuesAt (globState (only0 (two 0x400000F8)) t0) i (only0 (two 0x400000F8)) t0 1 ∧
       issuesAt (globState (two 0x40000000) t0) (.ldB32 (lmLd .glob 0)) (two 0x40000000) t0 3) ∧
    issuesAt (w (only0 (two 0)) t0) (.resld 7 { lmLd .team 0 with d := .reg 0 }) (only0 (two 0)) t0 1 := by (repeat' apply And.intro) <;> decide +kernel

/-- AtomicIssue: a relaxed atomic, one that releases at group scope, and an xadd in global space, in a run with a helper lane. -/
theorem witness_atomic_issue :
    (let g : Group := { two 0 with help := 2 }
     let i := Instr.atom 0 (laAt .team 0 16)
     let s := w g t0
     let e := entryOf s i g 3
     issuesAt s i g t0 3 ∧ (opOf i).kind.isAtomic = true ∧ (opOf i).kind.releases = none ∧ (∀ x ∈ g.entries, x.id ≠ s.nextId) ∧ e.mask = 1 ∧ e.helpers = 2 ∧
       (∀ l, l < 64 → .atomicPerform 1 s.nextId l ∉ s.work ∧ .xaccCellAdd 1 s.nextId l ∉ s.work) ∧
       almost (exec i s) (({ s with nextId := 6, work := [.atomicPerform 1 5 0] } : State).setGroup 1
         { (g.place 3 [(pc0 + 8, 3)]) with entries := [{ e with ranges := [(.team, 8, 4)] }], lds := 1 }) = some true) ∧
    (let i := Instr.cas 12 { laAt .team 2 16 with scope := 0 }
     let s := w (two 0) t0
     issuesAt s i (two 0) t0 3 ∧ (opOf i).kind.releases = some 0 ∧ (two 0).unsettled = false ∧
       (s.releaseAll 1 0 (s.objectsOf (two 0) ((opOf i).reqs (entryOf s i (two 0) 3)))).2 = true ∧
       ((s.releaseAll 1 0 (s.objectsOf (two 0) ((opOf i).reqs (entryOf s i (two 0) 3)))).1.groups.get? 1 = some (two 0)) ∧
       after (exec i s) (fun s' => s'.work) = some [.atomicPerform 1 6 0, .atomicPerform 1 6 1]) ∧
    (let i := Instr.xadd (lmSt .glob 0)
     let g := only0 (two 0x400000F8)
     let s := globState g t0
     issuesAt s i g t0 1 ∧ (opOf i).kind.counter = .sts ∧ after (exec i s) (fun s' => (s'.work, (grp s').sts)) = some ([.xaccCellAdd 1 5 0], 1)) := by
  (repeat' apply And.intro) <;> decide +kernel

/-- StoreIssue: a store in team memory, where lane 1's bytes stand, and one in global space across a line's end, which needs the last two
places of the store buffer. -/
theorem witness_store_issue :
    (let g := two 0
     let i := Instr.stB32 (lmSt .team 0)
     let s := w g t0
     issuesAt s i g t0 3 ∧ (opOf i).kind.writes = true ∧ (opOf i).kind.isAtomic = false ∧ t0.wins = [] ∧
       g.sbuf.length + t0.linesNeeded ((opOf i).writesOf (entryOf s i g 3)) ≤ 64 ∧
       (s.ask (.entry 1 5) g .write ((opOf i).reqs (entryOf s i g 3))).standing (.entry 1 5) = .ready ∧
       (s.ask (.entry 1 5) g .write ((opOf i).reqs (entryOf s i g 3))).writeRefused g t0 (.entry 1 5) .write ((opOf i).reqs (entryOf s i g 3)) = [] ∧
       after (exec i s) (fun s' => ((tm s').mem.bytes 8 8, (grp s').sts)) = some ([0x80, 0x33, 0x22, 0x11, 0xDD, 0xCC, 0xBB, 0xAA], 0)) ∧
    (let g : Group := { two 0x40000FF4 with sbuf := List.replicate 62 ⟨0, .layer, 0, none, 1, [], 0, 0, false, 0⟩ }
     let i := Instr.stB32 (lmSt .glob 0)
     let s := globState g t0
     issuesAt s i g t0 3 ∧ g.sbuf.length + t0.linesNeeded ((opOf i).writesOf (entryOf s i g 3)) = 64 ∧
       (s.ask (.entry 1 5) g .write ((opOf i).reqs (entryOf s i g 3))).standing (.entry 1 5) = .ready ∧
       (s.ask (.entry 1 5) g .write ((opOf i).reqs (entryOf s i g 3))).writeRefused g t0 (.entry 1 5) .write ((opOf i).reqs (entryOf s i g 3)) = [] ∧
       (∀ k, k < 70 → .storeBufferDrain 1 k ∉ s.work) ∧
       after (exec i s) (fun s' => ((grp s').sbuf.drop 62).map fun e => (e.id, e.line, e.mask, e.data.bytes 252 4 ++ e.data.bytes 0 4)) =
         some [(6, 0x40000F00, 0xF * 2 ^ 252, [0x80, 0x33, 0x22, 0x11, 0, 0, 0, 0]), (7, 0x40001000, 0xF, [0, 0, 0, 0, 0xDD, 0xCC, 0xBB, 0xAA])]) := by
  (repeat' apply And.intro) <;> decide +kernel

/-- StoreLines: two stores that meet in a byte of one line; the later one's byte stands. -/
def twoWrites : List (Req × List Byte) := [(⟨0, .glob, 510, 4⟩, [1, 2, 3, 4]), (⟨1, .glob, 513, 2⟩, [9, 8])]

theorem witness_store_lines :
    coversByte (⟨1, .glob, 513, 2⟩, [9, 8]) .glob 513 ∧ coversByte (⟨0, .glob, 510, 4⟩, [1, 2, 3, 4]) .glob 513 ∧
    (linesOf twoWrites).map (fun l => (l.line, l.mask, Map.getD l.data 1 0)) = [(256, 3 * 2 ^ 254, 0), (512, 7, 9)] := by
  (repeat' apply And.intro) <;> decide +kernel

/-- A group whose pipeline holds one instruction, as it left issue. -/
def pipe (i : Instr) (g : Group) (run : BitVec 64) : Group :=
  ({ g with entries := [entryOf (w g t0) i g run] } : Group).countUp (opOf i).kind.counter

/-- MemoryEvents, R193, R194, R207: a sign-extending load lands in lanes 0 and 1; the first of two lanes of an atomic on one word, then the
last; an exact addition is the spec's; a store-buffer entry is performed in the layer and in graphics DRAM. -/
theorem witness_memory_events :
    (let i := Instr.ldS8 (lmLd .team 0)
     let g := pipe i (two 0) 3
     let t : Team := { t0 with mem := Memory.write [] 8 [0x80] }
     let e := entryOf (w (two 0) t0) i (two 0) 3
     (w g t).Performs 1 5 g e (opOf i) ∧ (w g t).InTeam g t e (opOf i) ∧ (opOf i).kind = .load true ∧ (opOf i).uni = false ∧
       (∀ l, l < 64 → e.dreg.getD l 0 + (opOf i).dw ≤ 256) ∧
       after (exec (.loadLanding 1 5) (w g t)) (fun s => ((grp s).readV 0 16, (grp s).readV 1 16, (grp s).lds, (grp s).entries.length)) =
         some (0xFFFFFF80#32, 0#32, 0, 0)) ∧
    (let i := Instr.atom 0 (laAt .team 0 16)
     let g0' := { two 0 with v := ((two 0).writeV 1 4 8).v }
     let g := pipe i g0' 3
     let e := entryOf (w g0' t0) i g0' 3
     (w g t0).Performs 1 5 g e (opOf i) ∧ (w g t0).InTeam g t0 e (opOf i) ∧ e.lrec = [] ∧ (e.mask &&& ~~~e.done).getLsbD 0 = true ∧
       (e.mask &&& ~~~(e.done ||| laneBit 0) ≠ 0) ∧
       after (exec (.atomicPerform 1 5 0) (w g t0)) (fun s => ((tm s).mem.bytes 8 4, (grp s).entries.map fun x => (x.done, x.res))) =
         some ([0x80, 0x33, 0x22, 0x11], [(1, [(0, 0)])])) ∧
    (let i := Instr.atom 0 (laAt .team 0 16)
     let g := pipe i (only0 (two 0)) 1
     let t : Team := { t0 with mem := Memory.write [] 8 [5] }
     let e := entryOf (w (only0 (two 0)) t0) i (only0 (two 0)) 1
     (w g t).Performs 1 5 g e (opOf i) ∧ (opOf i).kind.acquires = false ∧ e.mask &&& ~~~(e.done ||| laneBit 0) = 0 ∧
       after (exec (.atomicPerform 1 5 0) (w g t)) (fun s => ((tm s).mem.bytes 8 4, (grp s).readV 0 16, (grp s).lds)) =
         some ([0x85, 0x33, 0x22, 0x11], 5#32, 0)) ∧
    (let e : SbEntry := ⟨9, .layer, 256, none, 2, [(1, 7)], 8, pc0, false, 8⟩
     let g : Group := { g0 with sbuf := [e], sts := 1 }
     let s : State := { withQuad (w g t0) with waypart := [(0, ⟨0, 0, false, 1, 1⟩)] }
     s.awake g = true ∧ s.storeHeld 1 g e = false ∧ e.bad = false ∧ Map.sorted e.data = true ∧ s.layer.wf = true ∧ s.layerCheck (s.fnOf g) g.die e.line 256 = none ∧
       after (exec (.storeBufferDrain 1 9) s) (fun s => (s.layer, (grp s).sbuf, (grp s).sts)) = some ([(257, 7)], [], 0)) ∧
    (let e : SbEntry := ⟨9, .glob, 0x40000100, some 0x40000100, 2, [(1, 7)], 8, pc0, false, 8⟩
     let f : SbEntry := ⟨10, .glob, 0x40000200, some 0x40000200, 2, [(1, 7)], 8, pc0, false, 8⟩
     let g : Group := { g0 with sbuf := [e, f], sts := 1 }
     let s := globState g t0
     s.dram.wf = true ∧ s.route 0x40000100 = some (.dram 0x40000100) ∧ s.access 0 (.dram 0x40000100) = .served ∧
       s.storeHeld 1 g e = false ∧ (∀ x ∈ e.data, (0x40000100 + x.1) / 65536 ∉ s.hostBias) ∧
       after (exec (.storeBufferDrain 1 9) s) (fun s => (s.dram, (grp s).sbuf.length, (grp s).sts)) = some ([(0x40000101, 7)], 1, 1)) := by
  (repeat' apply And.intro) <;> decide +kernel

/-- R207: every operation of atom on 32-bit values, at signs and limits. -/
theorem test_atom_operations :
    (List.range 11).map (fun op => atomValue op 4 0xFFFFFFFF 1) = [0, 1, 0xFFFFFFFF, 0xFFFFFFFE, 0xFFFFFFFF, 1, 1, 0xFFFFFFFF, 1, 0, 1] ∧
    atomValue 9 4 5 5 = 0 ∧ atomValue 9 4 4 5 = 5 ∧ atomValue 10 4 0 5 = 5 ∧ atomValue 10 4 5 5 = 4 := by (repeat' apply And.intro) <;> decide +kernel

/-- Texture: a header's address misaligned and not canonical, and a tex that issues; the header of chapter 08's example, and the wraps at both ends. -/
theorem witness_texture :
    (let i := Instr.tex 124 126 127 false 127 0 Guard.none
     (124 : BitVec 7).toNat + 4 ≤ g0.lbud ∧ (126 : BitVec 7).toNat + 2 ≤ g0.lbud ∧ (127 : BitVec 7).toNat < g0.ubud ∧
       g0.badWords all (vKeys 126 2 ++ [127] ++ [sKey 127]) = false ∧ g0.blocked (vKeys 126 2 ++ [127] ++ [sKey 127] ++ vKeys 124 4) = false ∧
       same (exec (.tex 124 126 127 false 127 0 ⟨1, false⟩) w0) (w0.moves g0 pc0 8 all) = true ∧
       (let g := sr [(127, 16)] g0; same (exec i (w g t0)) ((w g t0).traps i 8 g pc0 all 0x03 []) = true) ∧
       (let g := sr [(127, 0x0100000000000000)] g0; same (exec i (w g t0)) ((w g t0).traps i 8 g pc0 all 0x04 []) = true) ∧
       g0.acquiring = false ∧ g0.overlaps [(.glob, 0, 32)] = false ∧
       after (exec i w0) (fun s => ((grp s).lds, s.work)) = some (1, [.loadLanding 1 5]) ∧
       after (exec i w0) (fun s => (grp s).entries.map fun e => (e.id, e.mask, e.dsts)) = some [(5, all, [124, 125, 126, 127])]) ∧
    (texHeader (0x0001500000010001 * 2 ^ 64 + 0x1000)).map (fun t => (t.w, t.h, t.row 0, t.bilinear, t.wrapU, t.wrapV)) = some (2, 2, 256, true, 1, 1) ∧
    texHeader (0x0001500000010001 * 2 ^ 64 + 0x1001) = none ∧ 4 < bits (5 * 2 ^ 96) 103 96 ∧ bits (2 ^ 114) 255 114 ≠ 0 ∧
    texWrap 2 (-1) 4 = some 0 ∧ texWrap 2 4 4 = some 3 ∧ texWrap 2 8 4 = some 0 ∧ texWrap 0 (-1) 4 = some 3 ∧ texWrap 1 4 4 = some 3 ∧ texWrap 3 4 4 = none := by
  (repeat' apply And.intro) <;> decide +kernel

/-- A copy inside team memory. -/
def copyInstr : Instr := .copy 4 5 6 7 .team .team Guard.none

/-- What R215 plans or refuses, as plain data. -/
def plan (s : State) (g : Group) (i : Instr) (u : List W64) : Option Remain × Option Nat :=
  match s.enginePlan g t0 i u with
  | .ok r => (some r, none)
  | .error c => (none, some c)

/-- AsyncEngines: a copy under a false guard, one misaligned, one of no bytes, one that issues with its counters one below their limits; the
landing of its first unit. -/
theorem witness_engines :
    engineForm copyInstr = some (Guard.none, [4, 5, 6]) ∧ w0.UniIssues g0 t0 pc0 all ([4, 5, 6].map fun n : BitVec 7 => n.toNat) [] ∧
    same (exec (.copy 4 5 6 7 .team .team ⟨1, false⟩) w0) (w0.moves g0 pc0 8 all) = true ∧
    (let g := sr [(6, 8)] g0
     plan (w g t0) g copyInstr [0, 0, 8, 0] = (none, some 0x03) ∧ same (exec copyInstr (w g t0)) ((w g t0).traps copyInstr 8 g pc0 all 0x03 []) = true) ∧
    (plan w0 g0 copyInstr [0, 0, 0, 0] = (some ⟨0, 0, 0, 1, 0, 0, 0, 0, 0, false⟩, none) ∧ same (exec copyInstr w0) (w0.moves g0 pc0 8 all) = true) ∧
    plan w0 g0 copyInstr [0, 0, 0x1000010, 0] = (none, some 0x04) ∧
    (let g : Group := { sr [(4, 240), (5, 1024), (6, 512)] g0 with cps := 254, c := [(7, 0xFFFFFDFF)] }
     let s := w g t0
     s.engineRange g t0 .team 240 512 true = (none, none) ∧ s.engineRange g t0 .team 1024 512 false = (none, none) ∧
       plan s g copyInstr [240, 1024, 512, 0] = (some ⟨240, 1024, 512, 1, 0, 0, 0, 0, 512, false⟩, none) ∧
       g.acquiring = false ∧ g.overlaps ((engineBytes copyInstr ⟨240, 1024, 512, 1, 0, 0, 0, 0, 512, false⟩).flatMap t0.spread) = false ∧ g.badWords all [cKey 7] = false ∧ g.cps < 255 ∧ g.readC (cregOf copyInstr) + 512 ≤ 0xFFFFFFFF ∧
       s.engineLoad g.die g.core (engineOf copyInstr) < 16 ∧ .engineUnitLand 1 s.nextId ∉ s.work ∧
       after (exec copyInstr s) (fun s => ((grp s).cps, (grp s).readC 7, s.work)) = some (255, 0xFFFFFFFF, [.engineUnitLand 1 5])) ∧
    (let r : Remain := ⟨240, 1024, 512, 1, 0, 0, 0, 0, 512, false⟩
     r.unit = (240, 1024, 16) ∧ (r.after 16).unit = (256, 1040, 256) ∧
     (let e : Entry := { Entry.blank copyInstr (0, 0) pc0 all 5 with state := .engine, counter := .cps, remain := some r }
      let g : Group := { g0 with entries := [e], cps := 1, c := [(7, 512)] }
      let t : Team := { t0 with mem := Memory.write [] 1024 [1, 2, 3] }
      (w g t).awake g = true ∧ g.entries.find? (fun e => e.id == 5) = some e ∧ t.mem.wf = true ∧ badIn t.bad 4 1024 512 = false ∧
        after (exec (.engineUnitLand 1 5) (w g t)) (fun s => ((tm s).mem.bytes 240 16, s.work, (grp s).readC 7)) =
          some ([1, 2, 3, 0, 0, 0, 0, 0, 0, 0, 0, 0, 0, 0, 0, 0], [.engineUnitLand 1 5], 496))) := by
  (repeat' apply And.intro) <;> decide +kernel

/-- StashWindows: a window misaligned, of no bytes, past the end of team memory by one line, and up to its end; an unmap that leaves the valid sector's bytes. -/
theorem witness_stash :
    (let i := Instr.stmap 4 5 6 true 7 Guard.none
     w0.UniIssues g0 t0 pc0 all [4, 5, 6] [] ∧
     same (exec (.stmap 4 5 6 true 7 ⟨1, false⟩) w0) (w0.moves g0 pc0 8 all) = true ∧
     (let g := sr [(4, 128), (6, 256)] g0; same (exec i (w g t0)) ((w g t0).traps i 8 g pc0 all 0x03 []) = true) ∧
     same (exec i w0) (w0.traps i 8 g0 pc0 all 0x04 []) = true ∧
     (let g := sr [(4, 3840), (5, 0x4000), (6, 512)] g0; t0.size < 3840 + 512 ∧ same (exec i (w g t0)) ((w g t0).traps i 8 g pc0 all 0x04 []) = true) ∧
     (let g := sr [(4, 3840), (5, 0x4000), (6, 256)] g0
      stmapCheck t0 7 3840 0x4000 256 = none ∧ g.acquiring = false ∧
        g.overlaps [(.glob, 0x4000, 256), (.team, 3840, 256)] = false ∧ g.mayAlias none .glob 0x4000 = false ∧
        g.ownStores none .glob 0x4000 256 none = [] ∧ g.pend = none ∧
        same (exec i (w g t0)) (((w g t0).setTeam 2 { t0 with wins := [(7, ⟨3840, 0x4000, 256, true, [], [], [], []⟩)] }).moves g pc0 8 all) = true)) ∧
    (let win : Window := ⟨3840, 0x4000, 256, true, [1], [(64, 5), (128, 6)], [], []⟩
     let t : Team := { t0 with wins := [(7, win)], bad := [976, 3] }
     t.wins.get? 7 = some win ∧ win.dirty = [] ∧ Map.sorted t.wins = true ∧ t.mem.wf = true ∧ g0.unsettled = false ∧
       after (exec (.stunmap 7 Guard.none) (w g0 t)) (fun s => ((tm s).mem, (tm s).wins, (grp s).table)) = some ([(3904, 5)], [], [(0x1008, all)]) ∧
       after (exec (.stunmap 7 Guard.none) (w g0 t)) (fun s => (tm s).bad) = some [3]) := by
  (repeat' apply And.intro) <;> decide +kernel

/-- ReleaseDrains: a buffered line of team memory's neighbour, layer space, is performed by a release at team scope; the buffer is then empty. -/
theorem witness_release_drains :
    let g : Group := { g0 with sbuf := [⟨9, .layer, 256, none, 2, [(1, 7)], 8, pc0, false, 8⟩], sts := 1 }
    let s : State := { withQuad (w g t0) with waypart := [(0, ⟨0, 0, false, 1, 1⟩)] }
    (s.release 1 none 1).2 = true ∧ ((s.release 1 none 1).1.groups.get? 1).map (fun g => (g.sbuf.length, g.sts)) = some (0, 0) ∧
      (s.release 1 none 1).1.layer = [(257, 7)] := by (repeat' apply And.intro) <;> decide +kernel

/-! ## The matrix engine -/

/-- A claim of 4 slots and 16 KiB with d0 a 16 x 16 descriptor of two formats. -/
def claim4 (d0 : BitVec 128) : Matrix := { t0.mat with claimed := true, slots := 4, accKib := 16, descs := [(0, d0)] }
def matTeam (m : Matrix) : Team := { t0 with mat := m }

/-- The descriptors of chapter 10's example and of 8-bit integers. -/
def bf16Desc : Desc := Desc.ofBits 0x0404
def s8Desc : Desc := Desc.ofBits 0x0909

/-- An item of the matrix queue. -/
def matItem (i : Instr) (o : MatOp) : MatItem := ⟨5, 1, i, o, 0, 0, pc0, all, [], 0, false⟩

/-- The result of a check, as plain data. -/
def errorOf (r : Except Nat Desc) : Option Nat :=
  match r with
  | .ok _ => none
  | .error c => some c

/-- MatrixInstructions: a claim of all slots and accumulator bytes and one of a slot more than is left; mfree, waiting and not; a valid descriptor
and one with a reserved bit; mlease at 0 and 256; matrix instructions under a false guard, with a format other than the descriptor's, outside the
claim, and one that is queued; mrd within and past the claim. -/
theorem witness_matrix_instructions :
    (w0.UniIssues g0 t0 pc0 all [] [] ∧ (∀ q ∈ t0.cores, (w0.claimedOn t0.die q).1 + (16 : BitVec 8).toNat ≤ 16 ∧
        (w0.claimedOn t0.die q).2 + 16 * (12 : BitVec 8).toNat ≤ 192) ∧
      after (exec (.mclaim 16 12 Guard.none) w0) (fun s => ((tm s).mat.slots, (tm s).mat.accKib, (tm s).mat.claimed, (grp s).readB 0)) =
        some (16, 192, true, true) ∧
      same (exec (.mclaim 17 1 Guard.none) w0) (w0.moves (g0.writeB 0 false) pc0 8 all) = true) ∧
    ((w0.setTeam 2 (matTeam (claim4 0))).UniIssues g0 (matTeam (claim4 0)) pc0 all [] [] ∧
      after (exec .mfree (w g0 (matTeam (claim4 0)))) (fun s => ((tm s).mat.claimed, (tm s).mat.descs)) = some (false, [(0, 0)]) ∧
      same (exec .mfree (w g0 (matTeam { claim4 0 with queue := [matItem (.mzero 0 1) (.mzero 0 1)] })))
        (.next { w g0 (matTeam { claim4 0 with queue := [matItem (.mzero 0 1) (.mzero 0 1)] }) with stalled := true }) = true) ∧
    (let g := sr [(126, 0x0404)] g0
     (w g t0).UniIssues g t0 pc0 all [126, 127] [] ∧ descOk 0x0404 1 = true ∧
       after (exec (.mdesc 3 126 127 Guard.none) (w g t0)) (fun s => (tm s).mat.descs) = some [(3, 0x0404)]) ∧
    (let g := sr [(126, 0x200000404)] g0
     descOk 0x200000404 1 = false ∧ bits 0x200000404 63 33 ≠ 0 ∧
       same (exec (.mdesc 3 126 127 Guard.none) (w g t0)) ((w g t0).traps (.mdesc 3 126 127 Guard.none) 8 g pc0 all 0x02 []) = true) ∧
    after (exec (.mlease 256 Guard.none) w0) (fun s => (tm s).mat.lease) = some 256 ∧
    after (exec (.mlease 0 Guard.none) (w g0 (matTeam { t0.mat with lease := 3 }))) (fun s => (tm s).mat.lease) = some 16 := by
  (repeat' apply And.intro) <;> decide +kernel

theorem witness_matrix_queue :
    (let i := Instr.mma 0 0 1 4 true 0 0 Guard.none
     let t := matTeam (claim4 0x0404)
     let s := w g0 t
     same (exec (.mma 0 0 1 4 true 0 0 ⟨1, false⟩) s) (s.moves g0 pc0 8 all) = true ∧
       errorOf (matDesc (.mma 0 0 1 4 true 1 0 Guard.none) t.mat) = some 0x02 ∧ errorOf (matDesc i t.mat) = none ∧
       same (exec (.mma 0 0 1 3 true 0 0 Guard.none) s) (s.traps (.mma 0 0 1 3 true 0 0 Guard.none) 8 g0 pc0 all 0x02 []) = true ∧
       s.matCheck g0 t i [0, 0, 0, 0] bf16Desc = none ∧ s.matCheck g0 t (.mma 16 0 1 4 true 0 0 Guard.none) [0, 0, 0, 0] bf16Desc = some 0x04 ∧
       same (exec (.mma 16 0 1 4 true 0 0 Guard.none) s) (s.traps (.mma 16 0 1 4 true 0 0 Guard.none) 8 g0 pc0 all 0x04 []) = true ∧
       after (exec i s) (fun s' => ((grp s').tls, s'.work)) = some (1, [.matrixStep 2 5]) ∧
       after (exec i s) (fun s' => (tm s').mat.queue.map fun x => (x.id, x.gid, x.instr, x.op)) = some [(5, 1, i, .mma 0 0 1 true bf16Desc 0)]) ∧
    (let t := matTeam { claim4 0 with accMem := Memory.write [] 16380 [1, 2, 3, 4] }
     let g := only0 (g0.writeV 0 4 3839)
     (w g t).Issues g t pc0 1 ∧ 1024 * (1 : BitVec 8).toNat + 4 * (g.readV 0 4).toNat + 4 = 1024 * t.mat.accKib ∧
       after (exec (.mrd 9 4 1 Guard.none) (w g t)) (fun s => ((grp s).readV 0 9, (grp s).readV 1 9)) = some (0x04030201#32, 0#32) ∧
       same (exec (.mrd 9 4 2 Guard.none) (w g t)) ((w g t).traps (.mrd 9 4 2 Guard.none) 8 g pc0 1 0x04 [(0, laneRec 0x04 17404)]) = true) := by
  (repeat' apply And.intro) <;> decide +kernel

/-- Chapter 10's two-step BF16 multiply, element (0, 0): A[0,0] = 2^24, A[0,1..31] = 1, A[0,32] = 1; B[0,0..31] = 1, B[32,0] = -32. Row 0 of step 0 stands
in slots 0 and 1, of step 1 in slots 2 and 3. -/
def exampleMat : Matrix :=
  let one := List.replicate 31 [0x80#8, 0x3F#8]
  let m1 := Memory.write (claim4 0x0404).slotMem (slotKey 0 0 0) ([0x80, 0x4B] ++ one.flatten)
  let m2 := Memory.write m1 (slotKey 0 1 0) ([0x80, 0x3F] ++ one.flatten)
  { claim4 0x0404 with slotMem := Memory.write (Memory.write m2 (slotKey 0 2 0) [0x80, 0x3F]) (slotKey 0 3 0) [0, 0xC2] }

theorem test_matrix_example :
    (exampleMat.element bf16Desc 0 0 1 0 0 0 0 0 0).1 = 0x4B800010 ∧ (exampleMat.element bf16Desc 0 2 3 1 0 0 0 0 0x4B800010).1 = 0x4B800000 ∧
    (exampleMat.element bf16Desc 0 0 1 0 0 0 5 7 0).1 = 0 := by (repeat' apply And.intro) <;> decide +kernel

/-- MatrixEvents: mzero of the last KiB of a claim, one 8-bit integer step (100 * -128 + 5 by -1 in element (0, 0)), a transfer's row of team memory, and
the completion of an mscale. -/
theorem witness_matrix_events :
    (let x := matItem (.mzero 15 1) (.mzero 15 1)
     let t := matTeam { claim4 0 with accMem := Memory.write [] 15359 [9, 9], queue := [x] }
     let g : Group := { g0 with tls := 1 }
     (w g t).MatHead 2 t x g ∧ t.mat.accMem.wf = true ∧
       after (exec (.matrixStep 2 5) (w g t)) (fun s => ((tm s).mat.accMem, (tm s).mat.queue, (grp s).tls)) = some ([(15359, 9)], [], 0)) ∧
    (let x := matItem (.mma 0 0 1 9 false 0 0 Guard.none) (.mma 0 0 1 false s8Desc 0)
     let sm := Memory.write (Memory.write [] (slotKey 0 0 0) [100, 5]) (slotKey 0 1 0) [0x80, 0xFF]
     let t := matTeam { claim4 0x0909 with slotMem := sm, accMem := Memory.write [] 0 [1], queue := [x] }
     let g : Group := { g0 with tls := 1 }
     (w g t).MatHead 2 t x g ∧ t.mat.accMem.wf = true ∧ t.mat.stepBad s8Desc 1 0 0 1 0 false = false ∧ Fmt.ofCode s8Desc.afmt = .int 8 false ∧
       after (exec (.matrixStep 2 5) (w g t)) (fun s => BitVec.ofNat 32 ((tm s).mat.accMem.read 0 4)) = some (1 - 12800 - 5)) ∧
    (let x := matItem (.mscale 20 21 22 0 .team Guard.none) (.mscale 3 256 2 .team)
     let t : Team := { matTeam { claim4 0 with queue := [x] } with mem := Memory.write [] 256 [1, 2, 3, 4] }
     let g : Group := { g0 with tls := 1 }
     (w g t).MatHead 2 t x g ∧
       after (exec (.matrixTransferLand 2 5) (w g t)) (fun s => ((tm s).mat.scaleMem, (tm s).mat.queue.length, (grp s).tls)) =
         some ([(6, 1), (7, 2), (8, 3), (9, 4)], 0, 0)) ∧
    (let x := matItem (.mld 1 20 22 0 true .team 0 Guard.none) (.mld 1 256 128 true .team s8Desc)
     let t : Team := { matTeam { claim4 0x0909 with queue := [x] } with mem := Memory.write [] (256 + 15 * 128 + 63) [7] }
     (w g0 t).MatHead 2 t x g0 ∧ badIn t.bad 4 (256 + 15 * 128) 64 = false ∧
       (match (w g0 t).loadRow 2 t x 1 256 128 true .team s8Desc 15 with | .moved s => (tm s).mat.slotMem | _ => []) = [(slotKey 0 1 (64 * 15 + 63), 7)] ∧
       after (exec (.matrixTransferLand 2 5) (w { g0 with tls := 1 } t)) (fun s => ((tm s).mat.slotMem, (tm s).mat.queue.length, (grp s).tls)) =
         some ([(slotKey 0 1 (64 * 15 + 63), 7)], 0, 0)) ∧
    (let x := matItem (.mst 20 21 0 2 0 .team 0 Guard.none) (.mst 1024 64 0 2 0 .team bf16Desc)
     let t := matTeam { claim4 0x0404 with accMem := Memory.write [] (4 * 17) [0x10, 0, 0x80, 0x4B], queue := [x] }
     (w { g0 with tls := 1 } t).MatHead 2 t x { g0 with tls := 1 } ∧
       after (exec (.matrixTransferLand 2 5) (w { g0 with tls := 1 } t)) (fun s => ((tm s).mem, (tm s).mat.queue.length, (grp s).tls)) =
         some ([(1024 + 64 + 4, 0x10), (1024 + 64 + 6, 0x80), (1024 + 64 + 7, 0x4B)], 0, 0)) := by
  (repeat' apply And.intro) <;> decide +kernel

/-! ## Rays and reservoirs -/

/-- 32-bit words as bytes. -/
def words (l : List Nat) : List Byte := l.flatMap fun x => toBytes x 4

/-- A node at the origin with unit exponents, one child whose box runs from 0 to 2 on every axis, and the child word given (R279, R280). -/
def nodeBytes (base child : Nat) : List Byte :=
  words [0, 0, 0, 0x017F7F7F, base, 0, 0, 0] ++ [0, 0, 0, 2, 2, 2] ++ List.replicate 42 0 ++ words [child, 0, 0, 0, 0, 0, 0, 0, 0, 0, 0, 0]

/-- Chapter 11's ray through a shared edge: root at 0x40000000, instance at 0x40000080, bottom root at 0x40000100, two triangles at 0x40000180. -/
def sceneBytes : List Byte :=
  let f1 := 0x3F800000
  nodeBytes 0x40000080 0x80000000 ++ words ([f1, 0, 0, 0, 0, f1, 0, 0, 0, 0, f1, 0] ++ [0x40000100, 0, 7, 1]) ++ List.replicate 64 0 ++
    nodeBytes 0x40000180 0x44000000 ++ words ([0, 0, f1, f1, 0, f1, 0, f1, f1] ++ [12, 0, 1]) ++ words ([f1, f1, f1, 0, f1, f1, f1, 0, f1] ++ [5, 0, 1])

def edgeRay : List Nat := [0x3F000000, 0x3F000000, 0, 0, 0, 0, 0x3F800000, 0x7F800000]

/-- Lane 0 with that ray in v8 to v15. -/
def rayGroup : Group := (only0 (sr [(4, 0x40000000)] g0)).writeWide 0 8 8 (ofBytes (words edgeRay))
def scene : State := { globState rayGroup t0 with dram := Memory.write [] 0x40000000 sceneBytes }
def edgeTrace : Instr := .trace 16 8 4 1 0 0 Guard.none

/-- An event that happens n times. -/
def times (i : Instr) (s : State) : Nat → Result
  | 0 => .next s
  | n + 1 => match exec i s with
    | .next s' => times i s' n
    | r => r

/-- The example of chapter 11: the ray hits both triangles at t = 1; the one of the lower PRIMID is reported. -/
theorem test_trace_example :
    (after (exec edgeTrace scene) fun s => after (times (.traversalComplete 1 5) s 6) fun s => ((List.range 6).map fun k => (grp s).readV 0 (16 + k), (grp s).lds)) =
      some (some ([0x00000005#32, 0x3F800000#32, 0x3F000000#32, 0x3F000000#32, 5#32, 7#32], 0)) := by decide +kernel

/-- A hit, and a query that presents it as its candidate. -/
def hit5 : Hit := ⟨1, 1, 7, 5, 0x40000080, 0x400001B0, true, 0x3F800000, 0x3F000000, 0x3F000000, 0, 0⟩
def asks5 : Query := ⟨.cand, edgeRay, 0x10, 1, none, some hit5, []⟩

/-- TraversalQueries: trace under a false guard, misaligned, not canonical, and issued in a run with a helper lane; traccept of a candidate under
FIRST; trnext of a helper lane; a completion; void rays and candidates. -/
theorem witness_traversal :
    (let g : Group := { two 0 with help := 2, s := [(4, 0x4000)] }
     (w g t0).Issues g t0 pc0 3 ∧ g.badWords 3 (vKeys 8 8 ++ [sKey 4]) = false ∧ g.blocked (vKeys 8 8 ++ [sKey 4] ++ vKeys 248 8) = false ∧
       same (exec (.trace 120 8 4 1 0 0 ⟨1, false⟩) (w g t0)) ((w g t0).moves g pc0 8 3) = true ∧
       same (exec edgeTrace (w { g with s := [(4, 64)] } t0)) ((w { g with s := [(4, 64)] } t0).traps edgeTrace 8 { g with s := [(4, 64)] } pc0 3 0x03 []) = true ∧
       same (exec edgeTrace (w { g with s := [(4, 2 ^ 56)] } t0))
         ((w { g with s := [(4, 2 ^ 56)] } t0).traps edgeTrace 8 { g with s := [(4, 2 ^ 56)] } pc0 3 0x04 []) = true ∧
       g.overlaps [(.glob, 0, 2 ^ 64)] = false ∧ .traversalComplete 1 5 ∉ (w g t0).work ∧
       after (exec edgeTrace (w g t0)) (fun s => ((grp s).lds, s.work, ((grp s).query 0).ray, ((grp s).query 1).state)) =
         some (1, [.traversalComplete 1 5], [0x11223380, 0, 0, 0, 0, 0, 0, 0], .done 0)) ∧
    (let g : Group := { two 0 with help := 2, queries := [(0, asks5), (1, asks5)] }
     (w g t0).Issues g t0 pc0 3 ∧ g.blocked (vKeys 16 8) = false ∧ g.overlaps [(.glob, 0, 2 ^ 64)] = false ∧
       after (exec (.traccept 16 Guard.none) (w g t0)) (fun s => ((grp s).query 0, (grp s).query 1)) =
         some (⟨.done 1, edgeRay, 0x10, 1, some hit5, none, []⟩, asks5.go .accept true) ∧
       (after (exec (.traccept 16 Guard.none) (w g t0)) fun s => decide (∀ l ∈ lanesOf 3, ((grp s).query l).state ≠ .active)) = some true ∧
       (after (exec (.traccept 16 Guard.none) (w g t0)) fun s => after (exec (.traversalComplete 1 5) s) fun s =>
         ((grp s).readV 0 16, (grp s).readV 0 20, (grp s).readV 1 16, (grp s).readV 1 17)) = some (some (5#32, 5#32, 0#32, 0x7F800000#32))) ∧
    (Query.start edgeRay 0 1 0x80 true).block = emptyBlock 0 ∧ rayVoid edgeRay = false ∧ rayVoid [0, 0, 0, 0, 0, 0, 0, 0x7F800000] = true ∧
    (Query.start edgeRay 0 1 0x80 false).stack = [.node 0x80 1 none] ∧
    asks5.state = .cand ∧ asks5.cand = some hit5 ∧ bit asks5.flags 4 = true ∧ (asks5.go .accept false).block = hit5.block 1 ∧
    (asks5.go .hit false).block = emptyBlock 0 ∧ ({ asks5 with best := some hit5 }.go .hit false).block = hit5.block 1 ∧
    (asks5.endWith 0).state = .done 0 ∧ ((asks5.endWith 0).go .next false).block = (asks5.endWith 0).block := by
  (repeat' apply And.intro) <;> decide +kernel

/-- The camera descriptor of chapter 11's example, of 18 by 16 pixels, with TMAX 8. -/
def camBytes : List Byte :=
  words [0, 0, 0, 0, 0xBF800000, 0x3F800000, 0xBF800000, 0x41000000, 0x3D800000, 0, 0, 0x00100012, 0, 0xBD800000, 0, 0]

def camInstr : Instr := .camray 120 2 3 false 0 Guard.none

/-- The tile word and the descriptor's address in s2 and s3. -/
def camGroup (a : Nat) : Group := sr [(2, 0x00080010), (3, a)] g0

/-- CameraRays: a false guard, a misaligned and a non-canonical descriptor, an issue, and the rays: lane 9 takes pixel (17, 9), the direction of the
example; lane 10 lies outside the image, so its TMAX is -Inf. -/
theorem witness_camera :
    (let g := camGroup 0x40000000
     (w g t0).Issues g t0 pc0 all ∧ g.badWords all [sKey 2, sKey 3] = false ∧ g.blocked ([sKey 2, sKey 3] ++ vKeys 120 8 ++ []) = false ∧
       same (exec (.camray 120 2 3 false 0 ⟨1, false⟩) (w g t0)) ((w g t0).moves g pc0 8 all) = true ∧
       same (exec camInstr (w (camGroup 32) t0)) ((w (camGroup 32) t0).traps camInstr 8 (camGroup 32) pc0 all 0x03 []) = true ∧
       same (exec camInstr (w (camGroup (2 ^ 56)) t0)) ((w (camGroup (2 ^ 56)) t0).traps camInstr 8 (camGroup (2 ^ 56)) pc0 all 0x04 []) = true ∧
       g.overlaps [(.glob, 0x40000000, 64)] = false ∧ after (exec camInstr (w g t0)) (fun s => ((grp s).lds, s.work)) = some (1, [.camrayArrival 1 5])) ∧
    (let s : State := { globState (camGroup 0x40000000) t0 with dram := Memory.write [] 0x40000000 camBytes }
     (after (exec camInstr s) fun s => after (exec (.camrayDescriptorArrival 1 5) s) fun s =>
       ((List.range 8).map fun k => (grp s).readV 9 (120 + k), (grp s).readV 10 127, (grp s).lds)) =
       some (some ([0#32, 0#32, 0#32, 0#32, 0x3DC00000#32, 0x3ED00000#32, 0xBF800000#32, 0x41000000#32], 0xFF800000#32, 0))) := by
  (repeat' apply And.intro) <;> decide +kernel

/-- Chapter 11's reservoir over four candidates: the fields after each step, with the draws it lists, and what resfin writes. -/
theorem test_reservoir_example :
    let r1 := ((⟨0, 0, 0, 0⟩ : Res).update 0xFFFFFFFF 0x40000000 1 0x40800000).1
    let r2 := (r1.update 0xD0000000 0x40C00000 2 0x40400000).1
    let r3 := (r2.update 0x0F0F0F0F 0x3F000000 3 0x3F800000).1
    let r4 := (r3.merge ⟨2, 0x40800000, 0x40000000, 9⟩ 0x60000000 0x40400000).1
    r1 = ⟨1, 0x40000000, 0x40800000, 1⟩ ∧ r2 = ⟨2, 0x41000000, 0x40800000, 1⟩ ∧ r3 = ⟨3, 0x41080000, 0x3F800000, 3⟩ ∧
    r4 = ⟨5, 0x41680000, 0x40400000, 9⟩ ∧ r4.final = (0x3F777777, flagInx) ∧
    (r2.update 0x0F0F0F10 0x3F000000 3 0x3F800000).1.final.1 = 0x3F355555 := by (repeat' apply And.intro) <;> decide +kernel

/-- Lane 0 with w1 holding COUNT 5, WSUM 14.5, TARGET 3 and a sample, v4 to v6 a sample, v7 the weight 2 and v8 the target 4. -/
def resGroup : Group :=
  only0 ((((((g0.writeW 0 1 (⟨5, 0x41680000, 0x40400000, 9⟩ : Res).word).writeWide 0 4 3 (2 ^ 64 + 7))).writeV 0 7 0x40000000)).writeV 0 8 0x40800000)

/-- Reservoirs: every instruction in one lane; the counter moves by one where one draws; a weight of NaN; a weight that is always accepted. -/
theorem witness_reservoirs :
    (w resGroup t0).Issues resGroup t0 pc0 1 ∧ resGroup.ResReady 1 [(4, 3), (7, 1), (8, 1)] [] [(0, [0, 1])] [0] true ∧ resGroup.ResReady 1 [(8, 1)] [] [(1, [0, 1, 2, 3, 4, 5]), (0, [0, 1])] [0] true ∧
    after (exec (.resup 0 4 7 8 Guard.none) (w resGroup t0)) (fun s => ((grp s).readW 0 0, (grp s).counter.getD 0 0, (grp s).readW 0 1 == resGroup.readW 0 1)) =
      some ((⟨1, 0x40000000, 0x40800000, 2 ^ 64 + 7⟩ : Res).word, 1#64, true) ∧
    after (exec (.resmg 0 1 8 Guard.none) (w resGroup t0)) (fun s => (bits ((grp s).readW 0 0).toNat 31 0, (grp s).counter.getD 0 0)) = some (5, 1#64) ∧
    resGroup.ResReady 1 [] [(10, 1)] [(1, [0, 1, 2])] [1] false ∧
    after (exec (.resfin 10 1 0 Guard.none) (w resGroup t0)) (fun s => ((grp s).readV 0 10, (grp s).flags, (grp s).counter.getD 0 0)) =
      some (0x3F777777#32, flagInx, 0#64) ∧
    resGroup.ResReady 1 [] [(12, (resField 4).1)] [(1, fieldWords 4)] [] false ∧ (12 : BitVec 7).toNat + (resField 4).1 ≤ 256 ∧
    after (exec (.resget 12 1 4 Guard.none) (w resGroup t0)) (fun s => (List.range 6).map fun k => (grp s).readV 0 (12 + k)) =
      some [5#32, 0x41680000#32, 0x40400000#32, 9#32, 0#32, 0#32] ∧
    resGroup.ResReady 1 [(7, (resField 2).1)] [] [] [1] false ∧
    after (exec (.resset 1 7 2 Guard.none) (w resGroup t0)) (fun s => (grp s).readW 0 1) = some (⟨5, 0x40000000, 0x40400000, 9⟩ : Res).word ∧
    after (exec (.resclr 1 Guard.none) (w resGroup t0)) (fun s => (grp s).readW 0 1) = some 0 ∧
    unusable (f32.decode 0x7FC00000) = true ∧ unusable (f32.decode 0x40000000) = false ∧
    accepts 0xFFFFFFFF ((⟨0, 0, 0, 0⟩ : Res).update 0xFFFFFFFF 0x40000000 1 0).1.wsum 0x40000000 = true ∧
    accepts 0 ((⟨0, 0, 0, 0⟩ : Res).update 0 0 1 0).1.wsum 0 = false := by (repeat' apply And.intro) <;> decide +kernel

/-! ## The solver sequencer -/

/-- Chapter 12's Heun-Euler coefficients and step factors. -/
def heun : List Byte :=
  let h := 0x3F000000
  let f1 := 0x3F800000
  words ([2, 0, 0, 0] ++ [0, f1, 0, 0, 0, 0, 0, 0] ++ [h, h, 0, 0, 0, 0, 0, 0] ++ [f1, 0, 0, 0, 0, 0, 0, 0] ++ f1 :: List.replicate 35 0)
def factors : List Byte :=
  words (List.replicate 25 0x40000000 ++ List.replicate 8 0x3F800000 ++ List.replicate 8 0x3F000000 ++ List.replicate 23 0x3E800000)

/-- The example's parameters in s16 to s21, the sample number in s12. -/
def solGroup (n : Nat) : Group :=
  sr [(12, n), (16, 0x0A0001000A000000), (17, 0x20), (18, 0x3F80000000000000), (19, 0x3A8000003F000000), (20, 0x3F800000), (21, 0x3D800000)] g0

/-- A team with tableau 0 loaded and these samples, and its state with slice 10 mapped to function 1. -/
def solTeam (samples : Map Sample) : Team := { t0 with sol := { t0.sol with tabs := [(0, ⟨some heun, some factors⟩)], samples := samples } }
def solState (g : Group) (samples : Map Sample) : State :=
  { w g (solTeam samples) with quadOwner := [(5, 1)], waypart := [(10, ⟨0, 0, false, 1, 1⟩)] }

/-- The example's sample as sqstart makes it, and in a later state. -/
def sm0 : Sample := sampleOf (fun k => ((solGroup 0).readS (16 + k)).toNat) 0 false
def smAt (st : SampleState) (stage : Nat) : Sample := { sm0.begin with state := st, stage := stage }

/-- SolverInstructions: sqtab misaligned, past team memory and issued; a table image that lands, in a bound name and on a quad with no free entry. -/
theorem witness_tables :
    (let i := Instr.sqtab 0 10 0 .team Guard.none
     w0.UniIssues g0 t0 pc0 all [10] [] ∧ w0.tabLoading 2 = false ∧
     (let g := sr [(10, 128)] g0; same (exec i (w g t0)) ((w g t0).traps i 8 g pc0 all 0x03 [(0, laneRec 0x03 128)]) = true) ∧
     (let g := sr [(10, 4096)] g0
      (w g t0).rangeCheck g t0 ⟨0, .team, 4096, 256⟩ = some 4 ∧
        same (exec i (w g t0)) ((w g t0).traps i 8 g pc0 all 0x04 [(0, laneRec 0x04 4096)]) = true) ∧
     (let g := sr [(10, 3840)] g0
      (w g t0).rangeCheck g t0 ⟨0, .team, 3840, 256⟩ = none ∧ t0.placeCheck ⟨0, .team, 3840, 256⟩ false false = false ∧
        g.overlaps [t0.rangeOf ⟨0, .team, 3840, 256⟩] = false ∧
        after (exec i (w g t0)) (fun s => ((grp s).lds, s.work, (grp s).entries.map fun e => (e.id, e.dsts))) = some (1, [.loadLanding 1 5], [(5, [b0Key])])) ∧
     (let t : Team := { t0 with mem := Memory.write [] 0 heun }
      (after (exec i (w g0 t)) fun s => after (exec (.loadLanding 1 5) s) fun s => ((tm s).sol.tabs, (grp s).readB 0, (grp s).lds)) =
        some (some ([(0, ⟨some heun, none⟩)], true, 0)))) ∧
    (let e := Entry.blank (.sqfact 0 11 0 .team Guard.none) (0, 0) pc0 all 5
     let t := { solTeam [] with sol := { (solTeam []).sol with tabs := [(0, ⟨some heun, none⟩)] } }
     let g : Group := { g0 with entries := [{ e with counter := .lds }], lds := 1 }
     factorsOk factors = true ∧ coefOk heun = true ∧ (t.sol.tabs.get? 0).isSome = true ∧
       (let s := (w g t).landTable 1 g t { e with counter := .lds } 0 false factors
        (tm s).sol.tabs = [(0, ⟨some heun, some factors⟩)] ∧ (grp s).readB 0 = true)) ∧
    (let full := (solTeam []).sol
     let t := { t0 with sol := { full with tabs := (List.range 8).map fun k => (k + 1, ⟨none, none⟩) } }
     let e := Entry.blank (.sqtab 0 10 0 .team Guard.none) (0, 0) pc0 all 5
     (t.sol.tabs.get? 0).isSome = false ∧ 8 ≤ (w g0 t).tabsOnQuad t.quad ∧ (grp ((w g0 t).landTable 1 g0 t e 0 true heun)).readB 0 = false) := by
  (repeat' apply And.intro) <;> decide +kernel

/-- SolverInstructions: sqstart at 4095 and 4096, a sample that ends at once; sqstage with and without a ready sample; sqret of a stage that is not OUT, of the
first and of the last; sqstat; sqdrain. -/
theorem witness_solver_samples :
    (let i := Instr.sqstart 12 16 1 0 Guard.none
     let s := solState (solGroup 4095) []
     s.UniIssues (solGroup 4095) (solTeam []) pc0 all (12 :: (List.range 6).map fun k => 16 + k) [] ∧ s.tabLoading 2 = false ∧
       s.sampleChecks (s.fnOf g0) (solTeam []) 4095 sm0 false = none ∧ s.samplesOnQuad (solTeam []).quad < 4096 ∧
       numEq (f32.decode sm0.t) (f32.decode sm0.tend) = false ∧
       after (exec i s) (fun s => ((tm s).sol.samples.map fun x => (x.1, x.2.state == .busyInput, x.2.hs), s.work, (grp s).readB 1)) =
         some ([(4095, true, 0x3F000000)], [.seqStageInput 2 4095], true) ∧
       same (exec i (solState (solGroup 4096) [])) ((solState (solGroup 4096) []).traps i 8 (solGroup 4096) pc0 all 0x04 []) = true ∧
       (let g := sr [(18, 0x3F8000003F800000)] (solGroup 3)
        after (exec i (solState g [])) (fun s => ((tm s).sol.samples, (tm s).sol.done, s.work, s.layer.read (layerKey 0 0x0A000100) 16)) =
          some ([], 1, [], 4 + 0x3F800000 * 2 ^ 96))) ∧
    (let i := Instr.sqstage 4 1 true Guard.none
     let s := solState g0 [(3, smAt .ready 1)]
     s.UniIssues g0 (solTeam [(3, smAt .ready 1)]) pc0 all [] [4, 5] ∧ (solTeam [(3, smAt .ready 1)]).readySample = some (3, smAt .ready 1) ∧
       after (exec i s) (fun s => ((grp s).readS 4, (grp s).readS 5, (grp s).readB 1, (tm s).sol.samples.map fun x => x.2.state)) =
         some (0x3F00000000001003, 0x0A0002000A000100, true, [.out 1]) ∧
       same (exec (.sqstage 4 1 false Guard.none) (solState g0 [])) ((solState g0 []).moves (g0.writeB 1 false) pc0 8 all) = true ∧
       after (exec i (solState g0 [(3, smAt (.out 1) 1)])) (fun s => ((grp s).wait, s.work)) = some (.sqstage 4 1, [.sqstageWake 1])) ∧
    (let i := Instr.sqret 4 Guard.none
     let g := sr [(4, 0x1003)] g0
     let s := solState g [(3, smAt (.out 1) 1)]
     same (exec i (solState g [])) ((solState g []).traps i 8 g pc0 all 0x0F []) = true ∧
       same (exec i (solState g [(3, smAt (.out 1) 0)])) ((solState g [(3, smAt (.out 1) 0)]).traps i 8 g pc0 all 0x0F []) = true ∧
       (s.seqWork 2 3).isSome = true ∧ (smAt (.out 1) 1).outAt 1 = true ∧ s.Quiet g (solTeam [(3, smAt (.out 1) 1)]) ∧ tabStages heun ≤ 1 + 1 ∧
       after (exec i s) (fun s => ((tm s).sol.samples.map fun x => x.2.state, s.work)) = some ([.busyStep], [.seqStepEnd 2 3]) ∧
       after (exec i (solState (sr [(4, 3)] g0) [(3, smAt (.out 1) 0)])) (fun s => ((tm s).sol.samples.map fun x => (x.2.state, x.2.stage), s.work)) =
         some ([(.busyInput, 1)], [.seqStageInput 2 3])) ∧
    (let i := Instr.sqstat 4 12 Guard.none
     let s := solState (solGroup 3) [(3, smAt .busyStep 1)]
     same (exec i (solState (solGroup 4096) [])) ((solState (solGroup 4096) []).traps i 8 (solGroup 4096) pc0 all 0x04 []) = true ∧
       after (exec i s) (fun s => ((grp s).readS 4, (grp s).readS 5)) = some (0x000000000000000B, 0x000000003F000000) ∧
       after (exec i (solState (solGroup 4095) [])) (fun s => ((grp s).readS 4, (grp s).readS 5)) = some (0, 0)) ∧
    after (exec (.sqdrain 9 Guard.none) w0) (fun s => ((grp s).wait, s.work)) = some (.sqdrain 9, [.sqdrainWake 1]) := by
  (repeat' apply And.intro) <;> decide +kernel

/-- Memory cells that hold these bytes. -/
def cells (a : Nat) (l : List Byte) : Memory := (l.zipIdx.map fun x => (a + x.2, x.1)).filter fun c => c.2 != 0

/-- The example with 16 elements: y, and K(0) and K(1) of a step. -/
def heunState (sm : Sample) (k0 k1 : Nat) : State :=
  let col := fun (off x : Nat) => cells (layerKey 0 off) (words (List.replicate 16 x))
  { solState g0 [(3, { sm with ne := 16 })] with layer := col 0x0A000000 0x3F800000 ++ col 0x0A000140 k0 ++ col 0x0A000180 k1 }

/-- Chapter 12's step 1: stage 1 is formed from y and K(0); the step is rejected and h becomes 0.25. -/
theorem test_heun_stage :
    (after (exec (.seqStageInput 2 3) (heunState (smAt .busyInput 1) 0xBF800000 0)) fun s =>
      ((tm s).sol.samples.map fun x => x.2.state, s.layer.read (layerKey 0 0x0A000100) 4, s.layer.read (layerKey 0 0x0A00013C) 4)) =
      some ([.ready], 0x3F000000, 0x3F000000) := by decide +kernel

theorem test_heun_reject :
    (after (exec (.seqStepEnd 2 3) (heunState (smAt .busyStep 1) 0xBF800000 0xBF000000)) fun s =>
      ((tm s).sol.samples.map fun x => (x.2.rej, x.2.h, x.2.t, x.2.stage), s.layer.read (layerKey 0 0x0A000000) 4)) =
      some ([(1, 0x3E800000, 0, 0)], 0x3F800000) := by decide +kernel

/-- The decision of its step 5, with y = 1 at the step's start: DONE with ACC 4, REJ 1 and t = tend. -/
theorem test_heun_done :
    (after (exec (.seqStepEnd 2 3) (heunState { smAt .busyStep 1 with h := 0x3E800000, hs := 0x3E800000, t := 0x3F400000, last := true, acc := 3, rej := 1 }
        0xBF800000 0xBF400000)) fun s => ((tm s).sol.samples, (tm s).sol.done, s.layer.read (layerKey 0 0x0A000100) 16, s.layer.read (layerKey 0 0x0A000000) 4)) =
      some ([], 1, 4 + 2 ^ 32 * 4 + 2 ^ 64 * 1 + 2 ^ 96 * 0x3F800000, 0x3F480000) ∧
    factorIndex (.fin ⟨false, 2, 0, false⟩) = 36 ∧ factorIndex (.fin ⟨false, 1, -1, false⟩) = 28 := by (repeat' apply And.intro) <;> decide +kernel

/-- SolverEvents: a sample whose event may run; a step rejected at hmin; the two wakes. -/
theorem witness_solver_events :
    (((solState g0 [(3, smAt .busyInput 0)]).seqWork 2 3).map (fun k => (k.sm, k.img == heun, k.factors == factors)) = some (smAt .busyInput 0, true, true) ∧
      (solState g0 [(3, smAt .busyInput 0)]).seqAwake 2 (solTeam [(3, smAt .busyInput 0)]) = true ∧
      after (exec (.seqStageInput 2 3) (solState g0 [(3, smAt .busyInput 0)])) (fun s => (tm s).sol.samples) = some [(3, smAt .ready 0)]) ∧
    ((solState g0 []).layerRange 1 0 0x0A000100 32 = none ∧ (solState g0 []).ctxFn 4 = 1) ∧
    (after (exec (.seqStepEnd 2 3) (heunState { smAt .busyStep 1 with hmin := 0x3F000000 } 0xBF800000 0xBF000000)) fun s =>
      ((tm s).sol.samples, (tm s).sol.failed, s.layer.read (layerKey 0 0x0A000100) 4)) = some ([], 1, 5 + 256) ∧
    (let g : Group := { g0 with wait := .sqstage 4 1, waitPc := pc0 + 8, waitRun := all }
     (solState g []).awake g = true ∧ after (exec (.sqstageWake 1) (solState g [])) (fun s => ((grp s).readB 1, (grp s).table)) = some (false, [(pc0 + 8, all)]) ∧
       after (exec (.sqstageWake 1) (solState g [(3, smAt .ready 0)])) (fun s => ((grp s).readB 1, (grp s).readS 4, (grp s).readS 5)) =
         some (true, 3, 0x0A0001800A000000)) ∧
    (let g : Group := { g0 with wait := .sqdrain 9, waitPc := pc0 + 8, waitRun := all }
     let t := { solTeam [] with sol := { (solTeam []).sol with done := 2, failed := 1 } }
     (w g t).awake g = true ∧ (w g t).Quiet g t ∧
       after (exec (.sqdrainWake 1) (w g t)) (fun s => ((grp s).readS 9, (tm s).sol.done, (tm s).sol.failed)) = some (0x0000000100000002, 0, 0)) := by
  (repeat' apply And.intro) <;> decide +kernel

/-! ## Graphs and tasks -/

/-- A launch of the loaded image, one team. -/
def rec1 : LaunchRec := ⟨0, loadImage, 1, 1, 0, [], [], 4, 1⟩

/-- Two passes over a 2 x 1 grid of tiles on die 0: pass 0 writes resource 0, a ring of depth 1 in the layer that may overflow to 0x40000000; pass 1 reads
the same tile of it and writes resource 1, persistent at 0x40001000. -/
def bill0 : Playbill :=
  let ps : List Pass := [⟨rec1, 2, 1, 1, [], [0]⟩, ⟨rec1, 2, 1, 1, [⟨0, false, 0, 0, 0, 0, 0⟩], [1]⟩]
  let rs : List Resource := [⟨2, true, 2, 1, 256, 1, 0, 0x40000000⟩, ⟨1, false, 2, 1, 256, 0, 0x40001000, 0⟩]
  { ctx := 4, handle := 0, passes := ps, resources := rs, seed := 0, dies := [0], rings := [⟨0, 0, 0⟩], running := false, runs := 0, arg := 0,
    cues := dieCues ps rs [0] 0, retired := 0, copies := 0, moved := [], grids := [] }

/-- The group's context has bound it as handle 0; s4 = 0 and s5 = 77. -/
def billState (pb : Playbill) (g : Group) : State := { w g t0 with books := [(bookKey 1 0, pb)], quadOwner := [(0, 1)] }
def billGroup (h : Nat) : Group := sr [(4, h), (5, 77)] g0

/-- The state that a result holds. -/
def stateOf (r : Result) : State := (after r fun s => s).getD w0

/-- The run of the book in flight, and the entries of its book. -/
def ran : State := stateOf (exec (.prun 9 4 5 Guard.none) (billState bill0 (billGroup 0)))
def billOf (s : State) : Playbill := (s.books.get? (bookKey 1 0)).getD bill0
def ranState (g : Group) (t : Team) : State := { w g t with books := ran.books, grids := w0.grids ++ ran.grids.filter fun e => e.1 != 3 }

/-- GraphInstructions: pbind misaligned, not canonical and issued; prun of a handle not bound, of a book that is still and of one in flight. -/
theorem witness_graph_bind :
    (let i := Instr.pbind 9 4 Guard.none
     w0.UniIssues g0 t0 pc0 all [4] [9] ∧ same (exec i (w (billGroup 32) t0)) ((w (billGroup 32) t0).traps i 8 (billGroup 32) pc0 all 0x03 []) = true ∧
       same (exec i (w (billGroup (2 ^ 56)) t0)) ((w (billGroup (2 ^ 56)) t0).traps i 8 (billGroup (2 ^ 56)) pc0 all 0x04 []) = true ∧
       after (exec i w0) (fun s => (s.work, (grp s).entries.map fun e => (e.id, e.dsts))) = some ([.loadLanding 1 5], [(5, [sKey 9])])) ∧
    (let i := Instr.prun 9 4 5 Guard.none
     let s := billState bill0 (billGroup 0)
     s.UniIssues (billGroup 0) t0 pc0 all [4, 5] [9] ∧ s.bookOf (s.fnOf g0) 4 8 = none ∧
       same (exec i (billState bill0 (billGroup 8))) ((billState bill0 (billGroup 8)).traps i 8 (billGroup 8) pc0 all 0x04 []) = true ∧
       s.bookOf (s.fnOf g0) 4 0 = some (8, bill0) ∧ bill0.running = false ∧
       after (exec i s) (fun s => ((grp s).readS 9, (billOf s).running, (billOf s).arg)) = some (1, true, 77)) ∧
    (let i := Instr.prun 9 4 5 Guard.none
     let s := ranState (billGroup 0) t0
     (billOf s).running = true ∧ ran.runOver (billOf s) = false ∧
       after (exec i (ranState (billGroup 0) { t0 with grid := 5 })) (fun s => ((grp s).wait, s.work)) = some (.prun 9 8 77, [.prunStart 1])) := by
  (repeat' apply And.intro) <;> decide +kernel

/-- GraphInstructions: pwait and pdrop of a book that is still, in flight and not bound; gquery; tilecur, tinfo, taddr and tileret in pass 1's tile 1. -/
theorem witness_graph_books :
    (let s := billState { bill0 with retired := 4 } (billGroup 0)
     s.Quiet (billGroup 0) t0 ∧ after (exec (.pwait 9 4 Guard.none) s) (fun s => ((grp s).readS 9, (grp s).table)) = some (4, [(pc0 + 8, all)]) ∧
       after (exec (.pdrop 4 Guard.none) s) (fun s => s.books) = some [] ∧
       same (exec (.pdrop 4 Guard.none) (billState bill0 (billGroup 1))) ((billState bill0 (billGroup 1)).moves (billGroup 1) pc0 8 all) = true ∧
       after (exec (.gquery 9 4 0 Guard.none) s) (fun s => (grp s).readS 9) = some 65532 ∧
       after (exec (.gquery 9 4 1 Guard.none) s) (fun s => (grp s).readS 9) = some 1 ∧
       after (exec (.gquery 9 4 1 Guard.none) (billState bill0 (billGroup 1))) (fun s => (grp s).readS 9) = some 0) ∧
    (let t := { t0 with grid := 5 }
     let s := ranState (billGroup 0) t
     after (exec (.pwait 9 4 Guard.none) s) (fun s => ((grp s).wait, s.work)) = some (.pwait 9 8, [.pwaitWake 1]) ∧
       after (exec (.pdrop 4 Guard.none) s) (fun s => ((grp s).wait, s.work)) = some (.pdrop 8, [.pdropUnbind 1]) ∧
       after (exec (.gquery 9 4 1 Guard.none) s) (fun s => (grp s).readS 9) = some 2) ∧
    (let t := { t0 with origin := .tile 8 1 1 false, grid := 6 }
     let s := fun x : Nat => ranState (sr [(4, x)] g0) t
     (s 0).UniIssues (sr [(4, 0)] g0) t pc0 all [4] [10, 11] ∧
       after (exec (.tilecur 9) (s 0)) (fun s => (grp s).readS 9) = some 0x0000020100000001 ∧
       after (exec (.tinfo 9) (s 0)) (fun s => (grp s).readS 9) = some 77 ∧
       after (exec (.taddr 10 4 false 0 Guard.none) (s 0x00010000)) (fun s => ((grp s).readS 10, (grp s).readS 11)) = some (0, 1) ∧
       after (exec (.taddr 10 4 false 0 Guard.none) (s 0x00010001)) (fun s => ((grp s).readS 10, (grp s).readS 11)) = some (0x40001100, 0) ∧
       (s 0x00000001).taddrTile t 0x00000001 = none ∧
       same (exec (.taddr 10 4 false 0 Guard.none) (s 1)) ((s 1).traps (.taddr 10 4 false 0 Guard.none) 8 (sr [(4, 1)] g0) pc0 all 0x04 []) = true ∧
       t.origin.retireAct 2 = some (.tileRetire 2) ∧
       after (exec .tileret (s 0)) (fun s => ((tm s).retireAsked, s.work)) = some (true, [.tileRetire 2])) ∧
    (same (exec .tileret w0) (w0.moves g0 pc0 4 all) = true ∧ same (exec (.tilecur 9) w0) (w0.moves (g0.writeS 9 0) pc0 4 all) = true ∧
      same (exec (.tinfo 9) w0) (w0.moves (g0.writeS 9 0) pc0 4 all) = true) := by
  (repeat' apply And.intro) <;> decide +kernel

/-- A task record (R429): image 0x2000, ARG 7, NVER 2, VSTRIDE 256, reads 0x1000, writes 0x1100; its bytes. -/
def taskBytes : List Byte := words ([0x2000, 0, 7, 0, 0x00020101, 256, 0, 0, 0x1000, 0] ++ List.replicate 14 0 ++ [0x1100, 0] ++ List.replicate 6 0)
def taskRec : TaskRec := (taskRecOf taskBytes).getD ⟨[], 0, 0, 1, 0, [], []⟩

/-- The loaded grid with four tile entries and one task registered, in the ring. -/
def grid4 : Grid := { loadGrid 4 2 with launch := rec1 }
def grid1 : Grid := (grid4.register taskRec .ring 2).1
def taskState (gr : Grid) (g : Group) (t : Team) : State := { w g t with grids := [(3, gr)] }

/-- TaskInstructions: spawn misaligned, past team memory and issued; a registration; twait of a task that has not retired, of its own and of one not yet
registered; steal from core 191 of the partition, from itself, from a core of another function, from a full mailbox. -/
theorem witness_tasks :
    (let i := Instr.spawn 9 4 true
     let g := fun x : Nat => sr [(4, x)] g0
     (w (g 64) t0).UniIssues (g 64) t0 pc0 all [4] [9] ∧
       same (exec i (w (g 32) t0)) ((w (g 32) t0).traps i 4 (g 32) pc0 all 0x03 []) = true ∧
       firstOf ((w (g 4032) t0).rangeCheck (g 4032) t0) (spawnReqs true 4032) = some 0x04 ∧
       same (exec i (w (g 4032) t0)) ((w (g 4032) t0).traps i 4 (g 4032) pc0 all 0x04 []) = true ∧
       firstOf ((w (g 3968) t0).rangeCheck (g 3968) t0) (spawnReqs true 3968) = none ∧
       after (exec i (w (g 3968) t0)) (fun s => (s.work, (grp s).entries.map fun e => (e.id, e.dsts))) = some ([.loadLanding 1 5], [(5, [sKey 9])])) ∧
    ((taskRecOf taskBytes).isSome = true ∧ taskRec.writes.Nodup ∧ grid1.nextTask = 1 ∧ (grid1.tasks.get? 1).map (fun x => (x.reads, x.writes, x.arg)) =
      some ([(0x1000, 0)], [(0x1100, 1)], 7) ∧ (grid1.tiles.get? 0x1100).map (fun e => e.ver) = some 1) ∧
    (let i := Instr.twait 4
     let s := fun (gr : Grid) (x : Nat) => taskState gr (sr [(4, x)] g0) t0
     same (exec i (s grid1 2)) ((s grid1 2).traps i 4 (sr [(4, 2)] g0) pc0 all 0x04 []) = true ∧
       same (exec i (taskState grid1 (sr [(4, 1)] g0) { t0 with origin := .task 1 }))
         ((taskState grid1 (sr [(4, 1)] g0) { t0 with origin := .task 1 }).traps i 4 (sr [(4, 1)] g0) pc0 all 0x04 []) = true ∧
       after (exec i (s grid1 1)) (fun s => ((grp s).wait, s.work)) = some (.twait 1, [.twaitWake 1]) ∧
       same (exec i (s grid1 0)) ((s grid1 0).moves (sr [(4, 0)] g0) pc0 4 all) = true) ∧
    (let i := Instr.steal 9 4
     let s := fun x : Nat => { w (sr [(4, x)] g0) t0 with quadOwner := [(47, 1)], ready := [.linkModule 3 0 0, .linkModule 0 1 0] }
     (s 191).reach 0 3 = true ∧ same (exec i { s 191 with ready := [] }) (.next { s 191 with ready := [], stalled := true }) = true ∧
     same (exec i (s 192)) ((s 192).traps i 4 (sr [(4, 192)] g0) pc0 all 0x04 []) = true ∧
       same (exec i (s 0)) ((s 0).traps i 4 (sr [(4, 0)] g0) pc0 all 0x04 []) = true ∧
       same (exec i (s 1)) ((s 1).traps i 4 (sr [(4, 1)] g0) pc0 all 0x07 []) = true ∧
       after (exec i (s 191)) (fun s => (s.mailboxes, (grp s).readS 9)) = some ([(191, [0])], 0) ∧
       after (exec i { s 191 with mailboxes := [(191, [1, 2, 3, 4])] }) (fun s => (s.mailboxes, (grp s).readS 9)) = some ([(191, [1, 2, 3, 4])], 1)) := by
  (repeat' apply And.intro) <;> decide +kernel

/-- A team of a pass, its book with some entries set, in the run. -/
def tileTeam (pass first : Nat) : Team := { t0 with origin := .tile 8 pass first false, grid := 5 + pass }
def cueState (pass tile : Nat) (st : CueState) (pb : Playbill) : Playbill :=
  pb.mapCues (fun c => c.pass == pass && c.tile == tile && !c.far) fun c => { c with state := st, granted := true }
def withBook (pb : Playbill) (s : State) : State := { s with books := [(8, pb)] }

/-- GraphEvents: the retire of pass 0's tile 0, which lets pass 1's tile 0 go; a cue message for a persistent tile of another die; a ring slot granted; an
overflow copy; the wakes of prun, pwait and pdrop; the end of a grid launched by a command, aborted and not. -/
theorem witness_graph_events :
    (let t := { tileTeam 0 0 with retireAsked := true }
     let s := withBook (cueState 0 0 .run (billOf ran)) (ranState g0 t)
     (s.tileOf t).isSome = true ∧ s.teamHeld 2 t = false ∧ s.retireHeld t = false ∧ (s.releaseTeam 2).2 = true ∧
       after (exec (.tileRetire 2) s) (fun s => ((billOf s).cues.map fun c => c.state, (billOf s).retired, (tm s).retired)) =
         some ([.done, .ready, .ready, .wait], 1, true)) ∧
    (let far : Cue := ⟨1, 1, 0, .remote, 0, 1, false, true, false, false⟩
     let pb := { cueState 1 0 .done (billOf ran) with dies := [0, 1], cues := (cueState 1 0 .done (billOf ran)).cues ++ [far] }
     let s : State := { withBook pb (ranState g0 t0) with arrived := [⟨0, 1, .cue, .cueMessage 1 8 1 1⟩, ⟨2, 1, .cue, .cueMessage 1 8 1 0⟩] }
     writerOf pb.passes 1 = some 1 ∧ s.cueFault 8 1 = none ∧
       after (exec (.cueMessageReceive 1 8 1 0) s) (fun s => (((billOf s).cues.filter fun c => c.far).map fun c => c.state, s.arrived.length)) =
         some ([.done], 1)) ∧
    (let s := { ran with work := [] }
     ((s.teams.get? 7).map fun t => (s.tileOf t).isSome) = some true ∧ (billOf s).rings? 0 = [0] ∧ (billOf s).leaving 0 = [] ∧ (billOf s).occupants 0 0 0 0 = [] ∧
       after (exec (.ringSlotGrant 7) s) (fun s => ((billOf s).cues.map fun c => c.granted, s.queues, s.work)) =
         some ([true, false, false, false], [(0, [7])], [.gangStart 0])) ∧
    (let s : State := { withBook (cueState 0 0 .done (billOf ran)) (globState g0 t0) with
        quadOwner := [(0, 1)], waypart := [(0, ⟨0, 0, false, 1, 1⟩)], layer := [(3, 9)], dieTlb := tlbs [⟨1, 1, 30, 0x40000000, 0x40000000, true, true, true, false⟩] }
     (billOf s).slotOf 0 0 0 = some 0 ∧ (billOf s).readStarted 0 0 0 = false ∧ s.ctxAwake 4 = true ∧ s.poisoned (.layer 0 0) 256 = false ∧
       after (exec (.overflowCopy 8 0 0 0) s) (fun s => (s.dram, (billOf s).moved, (billOf s).copies)) = some ([(0x40000003, 9)], [(0, 0, 0)], 1)) ∧
    (let g : Group := { g0 with wait := .prun 9 8 6, waitPc := pc0 + 8, waitRun := all }
     (billState bill0 g).awake g = true ∧ after (exec (.prunStart 1) (billState bill0 g)) (fun s => ((grp s).readS 9, (billOf s).arg, (grp s).wait)) = some (1, 6, .none)) ∧
    (let g : Group := { g0 with wait := .pwait 9 8, waitPc := pc0 + 8, waitRun := all }
     let s := (ranState g t0).setBook 8 { billOf ran with retired := 3, cues := (billOf ran).cues.map fun c => { c with state := .free } }
     (billOf s).running = true ∧ s.runOver (billOf s) = true ∧
       after (exec (.pwaitWake 1) s) (fun s => ((grp s).wait, s.work, (billOf s).running)) = some (.pwaited 9 3, [.pwaitWake 1], false)) ∧
    (let g : Group := { g0 with wait := .pwaited 9 3, waitPc := pc0 + 8, waitRun := all }
     (billState bill0 g).Quiet g t0 ∧ after (exec (.pwaitWake 1) (billState bill0 g)) (fun s => ((grp s).readS 9, (grp s).wait)) = some (3, .none)) ∧
    (let g : Group := { g0 with wait := .pdrop 8, waitPc := pc0 + 8, waitRun := all }
     after (exec (.pdropUnbind 1) (billState bill0 g)) (fun s => (s.books, (grp s).wait)) = some ([], .none)) ∧
    after (exec (.gridEnd 5) (withBook { billOf ran with cues := (billOf ran).cues.map fun c => { c with state := .free } } (ranState g0 t0)))
      (fun s => ((billOf s).running, s.grids.map fun g => g.1)) = some (false, [3]) ∧
    (let gr : Grid := { loadGrid 4 2 with liveTeams := [], exited := 1, cmd := some (1, 0x77) }
     after (exec (.gridEnd 3) { w0 with grids := [(3, gr)] }) (fun s => (s.grids.length, (s.queueOf 1).pending)) = some (0, [(completion 0x77 0 4 1 0, none)]) ∧
       after (exec (.gridEnd 3) { w0 with grids := [(3, { gr with aborted := true, exited := 0 })] }) (fun s => (s.grids.length, (s.queueOf 1).pending)) =
         some (0, [(completion 0x77 0x19 4 0 0, none)])) := by (repeat' apply And.intro) <;> decide +kernel

/-- A program image of one 8-register role and one code section (R186, R187) with an empty page-hash table, and a launch record of one team of it at 0x40000100
whose section base is 0x1000. -/
def imageBytes : List Byte :=
  words ([0x4557424D, 0x00090001, 0x01010120, 256, 0x40, 0, 0x80, 0, 0xC0, 0, 0, 0, 0, 0, 0, 0] ++
    [0, 0, 0x00010000, 0x08000008] ++ List.replicate 12 0 ++ [0, 0, 0, 0, 0x00000C00, 4096] ++ List.replicate 26 0) ++
  words ([0x40000000, 0, 1, 0x01000001, 1, 2, 3, 4, 0x40000140, 0, 0, 0, 0, 0, 0, 0] ++ [0x1000, 0])

/-- Task 1 of grid 3 in its context's ring, with core 4 of the partition free; the image's key lies at 64. -/
def taskLaunchState : State :=
  let task : Task := ⟨[], 0x40000000, 7, 1, 0, [], [], [], .ring, false, 2, 0⟩
  { globState g0 t0 with
    quadOwner := [(1, 1)], ready := up
    dram := Memory.write (Memory.write [] 0x40000000 imageBytes) 0x40003000 (words [0x40000000, 0, 7, 0, 1])
    dieTlb := tlbs [⟨1, 1, 30, 0x40000000, 0x40000000, true, true, true, false⟩, ⟨1, 1, 12, 0, 0x40001000, true, true, true, false⟩]
    ctxs := [(4, { loadCtx with ring := [(0, 3, 1)], ringTail := 1, ringBase := 0x40003000, ringSize := 16 })]
    grids := [(3, { loadGrid 4 2 with launch := { rec1 with addr := 0x40000100 }, nextTask := 1, tasks := [(1, task)] })] }

/-- TaskEvents, the launch of a task's team. Whether the image's signature verifies is opaque to the model, so the witness takes it as a premise. -/
theorem witness_task_launch (h : Config.sm2Verify = fun _ _ _ => true) :
    taskLaunchState.nextRecord 0 4 = some (3, 1) ∧ taskLaunchState.headFits 0 4 = false ∧
    (match taskLaunchState.ctxs.get? 4, taskLaunchState.grids.get? 3 with
     | some x, some g =>
       (match g.tasks.get? 1 with
        | some tk =>
          (match taskLaunchState.recordTeam (frontRead (.launch 3 1) 1 1) x g 3 1 tk with
           | .ok s1 (b, lr) => leField b 8 8 == 7 &&
             ((s1.dropWaits (.launch 3 1)).findCores 5 (newTeam 4 3 1 (.task 1) 0 lr.image) lr.mpn ((coreSets 1).filter fun c => c.contains 4)).isSome
           | .wait _ => false
           | .no _ _ => false)
        | none => false)
     | _, _ => false) = true := by
  refine ⟨by decide +kernel, by decide +kernel, ?_⟩
  unfold State.recordTeam readLaunch loadImageAt
  rw [h]
  decide +kernel

/-- TaskEvents: the retire of a task, twice over; a twait that is over and one that is not; a parked-out team. -/
theorem witness_task_events :
    (let task : Task := ⟨[], 0, 7, 1, 0, [], [(0x1100, 1)], [], .launched, false, 2, 2⟩
     let gr : Grid := { loadGrid 4 2 with nextTask := 1, tasks := [(1, task)] }
     let t := { t0 with origin := .task 1, retireAsked := true }
     let s := taskState gr g0 t
     s.teamHeld 2 t = false ∧ s.retireHeld t = false ∧ (s.releaseTeam 2).2 = true ∧
       after (exec (.taskRetire 2) s) (fun s => ((s.grids.get? 3).map fun g => g.tasks.map fun x => x.2.place, (tm s).retired)) = some (some [.retired], true)) ∧
    (let g : Group := { g0 with wait := .twait 1, waitPc := pc0 + 4, waitRun := all }
     let s := taskState grid1 g t0
     s.awake g = true ∧ s.Quiet g t0 ∧ s.twaitOver g 1 = false ∧ same (exec (.twaitWake 1) s) (.next (s.push (.twaitWake 1))) = true ∧
       (let gr := { grid1 with tasks := grid1.tasks.map fun x => (x.1, { x.2 with place := TaskPlace.retired }) }
        (taskState gr g t0).twaitOver g 1 = true ∧ after (exec (.twaitWake 1) (taskState gr g t0)) (fun s => (grp s).wait) = some .none)) ∧
    (let g : Group := { g0 with wait := .twait 1, waitPc := pc0 + 4, waitRun := all }
     let u := taskState grid1 g t0
     let s : State := { u with
        quadOwner := [(0, 1)], queues := [(0, [7])]
        teams := u.teams ++ [(7, { t0 with state := .queued, cores := [], num := 1, ncores := 4, size := 2 ^ 21 })] }
     s.parkable 2 t0 = true ∧ s.parkedReady 2 = false ∧ s.blockers 0 (s.headRoom 0) = [2] ∧ s.savable 2 = true ∧
       after (exec (.teamParkOut 2) s) (fun s => ((tm s).state, (tm s).cores, (grp s).placed)) = some (.parkedOut, [], false)) := by
  (repeat' apply And.intro) <;> decide +kernel

/-! ## Waits and scheduling -/

/-- A group that waits, with its next program counter and its run. -/
def waits (x : Wait) (g : Group) : Group := { g with wait := x, waitPc := pc0 + 4, waitRun := all }

/-- WaitEvents: a wait over at its limits and one count above one; a channel operation; a meeting point whose phase has and has not moved; the exit of the
last group of a team; a repack of two lanes. -/
theorem witness_wait_events :
    (let g := waits (.counters 3 0 0 63 (some 7)) { g0 with lds := 3, tls := 63 }
     (w g t0).awake g = true ∧ after (exec (.waitRelease 1) (w g t0)) (fun s => ((grp s).wait, (grp s).table)) = some (.none, [(pc0 + 4, all)]) ∧
       (let h := waits (.counters 3 0 0 62 none) { g0 with lds := 3, tls := 63 }
        same (exec (.waitRelease 1) (w h t0)) (.next ((w h t0).push (.waitRelease 1))) = true)) ∧
    after (exec (.channelOperationResume 1) (w (waits .channel g0) t0)) (fun s => (grp s).wait) = some .none ∧
    (let g := waits (.mpwait 0 0) g0
     (w g t0).Quiet g t0 ∧ same (exec (.mpwaitWake 1) (w g t0)) (.next ((w g t0).push (.mpwaitWake 1))) = true ∧
       after (exec (.mpwaitWake 1) (w g { t0 with mps := [(0, ⟨1, 0, 1, true⟩)] })) (fun s => ((grp s).wait, (grp s).table)) = some (.none, [(pc0 + 4, all)])) ∧
    (let g := waits .exit { g0 with table := [] }
     (w g t0).awake g = true ∧ (w g t0).Quiet g t0 ∧ Map.sorted (w g t0).groups = true ∧ Map.sorted (w g t0).teams = true ∧
       after (exec (.groupExitComplete 1) (w g t0)) (fun s => (s.groups.length, s.teams.length, s.work)) = some (0, 0, [.gridEnd 3]) ∧
       after (exec (.groupExitComplete 1) (w g t0)) (fun s => (s.grids.get? 3).map fun g => (g.exited, g.liveTeams)) = some (some (1, []))) ∧
    (let park (lane : Nat) : Parked := ⟨lane, pc0, true, 9, none, 0, 0⟩
     let g := { ((g0.writeV 4 3 7).writeV 31 3 8) with table := [], parked := [park 4, park 31], carryV := 8, wait := .repack }
     (w g t0).Quiet g t0 ∧
       ((w g t0).groups.filter (fun e => e.2.team == g.team && e.2.role == g.role && e.2.num / 4 == g.num / 4 && !(e.2.wait == .exit))).map (fun e => e.1) = [1] ∧
       g.parked.Pairwise (fun a b => a.lane < b.lane) ∧
       after (exec (.repackArrive 1) (w g t0)) (fun s => ((grp s).live, (grp s).table, (grp s).readS 9)) = some (3, [(pc0 + 8, 3)], 2) ∧
       after (exec (.repackArrive 1) (w g t0)) (fun s => ((grp s).readV 0 3, (grp s).readV 1 3, (grp s).wait)) = some (7, 8, .none)) := by (repeat' apply And.intro) <;> decide +kernel

/-- A queued team of the loaded grid with its quad in the partition, and two groups of one sub-core, the second in the wings. -/
def queuedState : State :=
  { w0 with ready := linked, quadOwner := [(1, 1)], queues := [(0, [7])], teams := w0.teams ++ [(7, { t0 with state := .queued, cores := [], num := 1 })] }
def wings (g h : Group) : State := { w0 with groups := [(1, g), (6, { h with stage := none })] }

/-- SchedulingEvents: a gang start on core 4; leaving the stage at a twait, with a wings group ready and without; entering it; the idle timeout and the timeslice. -/
theorem witness_scheduling :
    ((queuedState.queueAt 0).find? queuedState.eligible = some 7 ∧ (queuedState.placeNow 7).isSome = true ∧ queuedState.saveWaits 0 4 (fun k => k == 7) = false ∧ queuedState.saveCause 0 4 (fun k => k == 7) = none ∧
      queuedState.reach 0 protrum = true ∧ queuedState.syncRecs = [] ∧
      after (exec (.gangStart 0) queuedState) (fun s => ((s.teams.get? 7).map fun t => (t.state, t.cores), s.queueAt 0, s.groups.map fun e => e.2.core)) =
        some (some (.running, [4]), [], [0, 4])) ∧
    (let g := waits (.twait 1) g0
     (w g t0).wingsReady g = none ∧ after (exec (.stageLeave 1) (w g t0)) (fun s => (grp s).stage) = some none ∧
       (wings g g0).wingsReady g = some 6 ∧ g.wait.leaves = true ∧ (wings g g0).issueReady 1 = false ∧
       after (exec (.stageLeave 1) (wings g g0)) (fun s => s.groups.map fun e => e.2.stage) = some [none, some 0] ∧
       after (exec (.stageIdleTimeout 1) (wings g g0)) (fun s => s.groups.map fun e => e.2.stage) = some [none, some 0] ∧
       after (exec (.stageTimeslice 1) (wings g0 g0)) (fun s => s.groups.map fun e => e.2.stage) = some [none, some 0]) ∧
    ((wings g0 g0).issueReady 6 = true ∧ (wings g0 g0).freeStage 0 0 0 = some 1 ∧
      after (exec (.stageEnter 6) (wings g0 g0)) (fun s => s.groups.map fun e => e.2.stage) = some [some 0, some 1]) := by
  (repeat' apply And.intro) <;> decide +kernel

/-! ## Exceptions -/

/-- The module with every graphics DRAM device ready, and a context whose handler stands at 0x2000 with two books at 0x40000000. -/
def trapState (g : Group) : State :=
  { globState g t0 with
    ready := up
    ctxs := [(4, { loadCtx with traps := ⟨0x2000, 0x40000000, 2, 9, 0, 0, 0, 0, 64⟩ })] }
def trapCtx : Ctx := { loadCtx with traps := ⟨0x2000, 0x40000000, 2, 9, 0, 0, 0, 0, 64⟩ }

/-- A group in two runs with a cause pending, s[U-1] = 55, p1 and b1. -/
def pend0 : Pend := ⟨0x10, 9, pc0, false, 0, 0, 0, [], 0⟩
def faulty : Group := { sr [(127, 55), (3, 4)] split4 with pend := some pend0, b := 2 }

/-- TakingExceptions: the premises of an entry, part by part, and the entry: one table entry at GVEC, s127 the book's address, the book written. -/
theorem witness_enters_handler :
    (trapState faulty).groups.get? 1 = some faulty ∧ faulty.pend = some pend0 ∧ (trapState faulty).ctxs.get? 4 = some trapCtx ∧ faulty.hnd = false ∧
    trapCtx.traps.gvec ≠ 0 ∧ faulty.settling = false ∧ freeBook trapCtx.books trapCtx.traps.pbn = some 0 ∧ (trapState faulty).waits = [] ∧
    ((List.range 17).all fun i => match (trapState faulty).lookup 0 0 1 1 ((0x40000000 / 4096 + i) * 4096) with
      | some e => e.allows .write
      | none => false) = true ∧
    ((trapState faulty).bookPlaces 1 faulty 0x40000000 (List.range 17)) = some ((List.range 17).map fun i => .dram (0x40000000 + 4096 * i)) ∧
    faulty.sbuf = [] ∧ (trapState faulty).awake faulty = true ∧
    after (exec (.trapEntry 1) (trapState faulty)) (fun s => ((grp s).table, (grp s).readS 127, (grp s).hnd, (grp s).pend)) =
      some ([(0x2000, 0x1F)], 0x40000000, true, none) ∧
    after (exec (.trapEntry 1) (trapState faulty)) (fun s => ((grp s).readS 3, (s.ctxs.get? 4).map fun c => c.books)) = some (4, some [0]) := by (repeat' apply And.intro) <;> decide +kernel

/-- R467: the header that the entry writes. -/
theorem test_book_header :
    after (exec (.trapEntry 1) (trapState faulty)) (fun s => [s.dram.read 0x40000000 4, s.dram.read 0x40000008 8, s.dram.read 0x40000010 8, s.dram.read 0x40000018 8,
      s.dram.read 0x40000030 8, s.dram.read 0x40000068 1, s.dram.read 0x40000100 8, s.dram.read 0x40000108 8, s.dram.read 0x40000110 8, s.dram.read 0x40000118 8]) =
      some [0x00090210, 0x1000, 55, 0x1F, 0x11, 2, 0x1000, 0xF, 0x1100, 0x10] ∧
    (faulty.table ++ faulty.table1).length ≤ 64 := by (repeat' apply And.intro) <;> decide +kernel

/-- TakingExceptions: a cause inside a handler or without one goes to the team rung; one that waits for a settling entry stays pending. -/
theorem witness_team_rung :
    (let g := { faulty with hnd := true }
     (trapState g).groupReady 1 = false ∧ (trapState g).awake g = true ∧ (trapState g).unstopped 1 1 4 2 ∧
       after (exec (.trapEntry 1) (trapState g)) (fun s => (s.stops.map fun e => e.2, s.work, (grp s).pend)) =
         some ([⟨1, 0x10, 9, 1, 4, 2, pc0, 0, false, false, []⟩], [.upperRungStop 5], none)) ∧
    after (exec (.trapEntry 1) (w faulty t0)) (fun s => s.stops.map fun e => e.2.rung) = some [1] ∧
    (let g := { faulty with entries := [{ Entry.blank .nop (0, 0) pc0 all 3 with counter := .sts }], sts := 1 }
     (g.settling = true → same (exec (.trapEntry 1) (trapState g)) (.next ((trapState g).push (.trapEntry 1))) = true)) := by
  (repeat' apply And.intro) <;> decide +kernel

/-- The state at the handler after the entry above; its group. -/
def atHandler : State := stateOf (execTrapEntry 1 (trapState { faulty with table := [(pc0, 0x1F)] }))

/-- A read of a book, as plain data. -/
def bookRead (s : State) (g : Group) (c : Ctx) : Option (List (W64 × BitVec 64) × Bool × Bool) :=
  match readBook (groupRead (.book 1) 1) (c.traps.bookAddr g.book) s with
  | .ok s1 (h, l) => some (bookTable h, decide (s1 = s) && g.tableOk (bookTable h), l.all fun b => b.ok g t0 none && b.state == 0)
  | .wait _ => none
  | .no _ _ => none

/-- TrapReturn: outside a handler; while a load of the handler is outstanding; with a table entry misaligned in the book; and the return, to the table and
s127 as the book holds them. -/
theorem witness_trap_return :
    same (exec .tret w0) (w0.traps .tret 4 g0 pc0 all 0x07 []) = true ∧
    (grp atHandler).hnd = true ∧ (grp atHandler).unsettled = false ∧ (grp atHandler).pend = none ∧ atHandler.waits = [] ∧ (grp atHandler).entries = [] ∧
    (grp atHandler).run = some (0x2000, 0x1F) ∧
    bookRead atHandler (grp atHandler) { trapCtx with books := [0] } = some ([(pc0, 0x1F)], true, true) ∧
    after (exec .tret atHandler) (fun s => ((grp s).hnd, (grp s).table, (grp s).readS 127, (s.ctxs.get? 4).map fun c => c.books)) =
      some (false, [(pc0, 0x1F)], 55, some []) ∧
    after (exec .tret atHandler) (fun s => ((grp s).b, (grp s).predMask 1, (grp s).readS 3)) = some (2, 0x11, 4) ∧
    (let s := { atHandler with dram := atHandler.dram.write 0x40000100 [2] }
     bookRead s (grp s) { trapCtx with books := [0] } = some ([(pc0 + 2, 0x1F)], false, true) ∧
       after (exec .tret s) (fun s => (s.stops.map fun e => (e.2.rung, e.2.cause))) = some [(1, 0x02)]) ∧
    (let g : Group := { g0 with hnd := true, entries := [{ Entry.blank (.ldB32 (lmLd .team 0)) (0, 0) pc0 all 3 with counter := .lds, dsts := [] }], lds := 1 }
     g.unsettled = true ∧ same (exec .tret (trapState g)) (.next { trapState g with stalled := true }) = true) := by
  (repeat' apply And.intro) <;> decide +kernel

/-- A stop of the loaded team at a rung. -/
def stopAt (rung : Nat) (stopped delivered : Bool) : Stop := ⟨rung, 0x10, 9, 1, 4, 2, pc0, 0, stopped, delivered, []⟩

/-- TaskEvents, EscalationEvents: a team one of whose groups is entering its handler is not parked out and not saved for a stop yet. -/
theorem witness_not_savable :
    (let u := { trapState { faulty with wait := .twait 1, waitPc := pc0 + 4, waitRun := all, table := [], table1 := [] } with grids := [(3, grid1)] }
     let s : State := { u with
        quadOwner := [(0, 1)], queues := [(0, [7])]
        teams := u.teams ++ [(7, { t0 with state := .queued, cores := [], num := 1, ncores := 4, size := 2 ^ 21 })] }
     s.parkable 2 t0 = true ∧ s.parkedReady 2 = false ∧ s.blockers 0 (s.headRoom 0) = [2] ∧ s.savable 2 = false ∧
       same (exec (.teamParkOut 2) s) (.next (s.push (.parkOut 2))) = true ∧
       (let x := { s with stops := [(9, stopAt 1 false false)] }
        x.partiesSavable (stopAt 1 false false) = false ∧ same (exec (.upperRungStop 9) x) (.next (x.push (.upperRungStop 9))) = true)) := by
  (repeat' apply And.intro) <;> decide +kernel

/-- EscalationEvents: a handler at its limit; an unanswered stop at the team and device rungs; a stop that saves its team; an event record with the queue
off, full and with room, of a stop. -/
theorem witness_escalation :
    (let g : Group := { g0 with hnd := true }
     (trapState g).awake g = true ∧ (trapState g).unstopped 1 1 4 2 ∧ trapCtx.traps.gtmo = 9 ∧
       after (exec (.groupRungTimeout 1) (trapState { g with hcount := 8 })) (fun s => ((grp s).hcount, s.stops.map fun e => (e.2.rung, e.2.cause))) =
         some (9, [(1, 0x0D)])) ∧
    (let c := { loadCtx with traps := ⟨0, 0, 0, 0, 0, 0, 5, 6, 64⟩ }
     let s := fun k : Nat => { w0 with ctxs := [(4, c)], stops := [(9, stopAt k true true)], vectors := ⟨0, 0, 7, 8⟩ }
     (s 1).rungTimeout (stopAt 1 true true) = 5 ∧ (s 1).unstopped 2 1 4 2 ∧
       after (exec (.upperRungTimeout 9) (s 1)) (fun s => s.stops.map fun e => (e.1, e.2.rung, e.2.cause)) = some [(5, 2, 0x0D), (9, 1, 0x10)]) ∧
    (let s : State := { w0 with stops := [(9, stopAt 4 true true)], vectors := ⟨0, 0, 7, 8⟩ }
     after (exec (.upperRungTimeout 9) s) (fun s => (s.dead, s.ctxs.map fun c => c.2.state)) = some (true, [.lost])) ∧
    (let s : State := { w0 with stops := [(9, stopAt 1 false false)] }
     let b := (stopAt 1 true false).record 1 0
     s.partiesSavable (stopAt 1 false false) = true ∧ ((s.groupsOf 2).all fun n => (s.groups.get? n).all fun g => g.entries == []) = true ∧
       after (exec (.upperRungStop 9) s) (fun s => ((tm s).state, (tm s).saved, s.queueAt 0, (grp s).placed)) = some (.queued, true, [2], false) ∧
       after (exec (.upperRungStop 9) s) (fun s => ((s.queueOf 1).pending.length, (s.linkDir 4 0).queue)) = some (0, [⟨0, protrum, .mgt, .eventArrive 1 9 b⟩]) ∧
       after (runAct (.eventArrive 1 9 b) { s with arrived := [⟨0, protrum, .mgt, .eventArrive 1 9 b⟩] }) (fun s => (s.arrived, (s.queueOf 1).pending)) =
         some ([], [(b, some 9)])) := by
  (repeat' apply And.intro) <;> decide +kernel

/-- A module that serves commands; function 1's queues at host address 0x8000 with 16 entries each. -/
def hq1 : HostQueue := { HostQueue.reset with cmdBase := 0x8000, evtBase := 0x9000, evtVec := 3, en := true }
def served (s : State) : State := { s with boot := { s.boot with started := true, state := 1 }, hq := [(1, hq1)] }

/-- EscalationEvents, event records: with the queue off, with no room for one more, and written, with the vectors of a stop. -/
theorem witness_event_record :
    (let rec1 := (stopAt 1 true false).record 1 0
     let s := fun q : HostQueue => { served w0 with hq := [(1, { q with pending := [(rec1, some 9)] })], stops := [(9, stopAt 1 true false)], ctxs := [(4, { loadCtx with traps := ⟨0, 0, 0, 0, 7, 8, 0, 0, 64⟩ })] }
     (hq1.full = false ∧ ({ hq1 with evtHead := 1 } : HostQueue).full = true) ∧
       same (exec (.eventRecordWrite 1) (s { hq1 with en := false })) (.next ((s { hq1 with en := false }).push (.eventRecordWrite 1))) = true ∧
       same (exec (.eventRecordWrite 1) (s { hq1 with evtHead := 1 })) (.next ((s { hq1 with evtHead := 1 }).push (.eventRecordWrite 1))) = true ∧
       (s hq1).lostStop (stopAt 1 true false) = false ∧ (s hq1).route 0x9000 = some (.host 0x9000) ∧
       after (exec (.eventRecordWrite 1) (s hq1)) (fun s => (s.host.bytes 0x9000 32 == rec1, (s.queueOf 1).evtTail, (s.queueOf 1).pending.length)) = some (true, 1, 0) ∧
       after (exec (.eventRecordWrite 1) (s hq1)) (fun s => (s.stops.map fun e => e.2.delivered, s.msix)) = some ([true], [(1, 3), (1, 7)])) := by (repeat' apply And.intro) <;> decide +kernel

/-- The bytes of a read of host memory, if it has them. -/
def ioBytes? : IoRead → Option (List Byte)
  | .ok _ b => some b
  | .fail _ => none
  | .wait => none

/-- Whether a read of host memory failed. -/
def ioFailed : IoRead → Bool
  | .fail _ => true
  | .ok _ _ => false
  | .wait => false

/-- Whether a read of host memory leaves the state as it was. -/
def ioKeeps (s : State) : IoRead → Bool
  | .ok s1 _ => decide (s1 = s)
  | .fail s1 => decide (s1 = s)
  | .wait => true

/-- A context record (R510) in host memory at 0xA000: PASID 5, a save area of 4,864 blocks at 0, 32 records of overflow ring. -/
def ctxBytes (blocks : Nat) : List Byte := words ([5, blocks] ++ List.replicate 10 0 ++ [32, 0, 0, 0])
def cmd0 : Command := ⟨0x77, 4, 0xA000, 0, 0⟩
def hosted (b : List Byte) (s : State) : State := { served s with host := Memory.write [] 0xA000 b }

/-- ContextCommands: CTXNEW of a good record, of one whose save area is short by a block and of a malformed one; CTXEND, LAUNCH, SWIN and SWOUT of a context
that is running, fresh, lost, unknown and another function's. -/
theorem witness_context_commands :
    (let s := hosted (ctxBytes 4864) { w0 with quadOwner := [(0, 1)] }
     s.serving = true ∧ 256 + 4608 * s.quadCount 1 = 4864 ∧ ioKeeps s (s.ioRead 1 0xA000 64) = true ∧ ((ioBytes? (s.ioRead 1 0xA000 64)).bind (ctxRecordOf 1)).isSome = true ∧
       after (exec (.ctxnew 1 cmd0) s) (fun s => ((s.ctxs.get? 1).map fun c => (c.pasid, c.state), (s.queueOf 1).pending)) =
         some (some (5, .fresh), [(completion 0x77 0 4 1 0, none)]) ∧
       after (exec (.ctxnew 1 cmd0) (hosted (ctxBytes 4863) { w0 with quadOwner := [(0, 1)] })) (fun s => (s.ctxs.length, (s.queueOf 1).pending)) =
         some (1, [(completion 0x77 0x13 4 4864 0, none)]) ∧
       after (exec (.ctxnew 1 cmd0) (served w0)) (fun s => (s.ctxs.length, (s.queueOf 1).pending)) = some (1, [(completion 0x77 0x16 4 0 0, none)])) ∧
    ((served w0).Commands 1 cmd0 loadCtx ∧
      (let c := { served w0 with ctxs := [(4, { loadCtx with state := .fresh })] }
       after (exec (.ctxend 1 cmd0) c) (fun s => [s.ctxs.length, s.groups.length, s.teams.length, s.grids.length, (s.queueOf 1).pending.length]) = some [0, 0, 0, 0, 1]) ∧
      same (exec (.launch 1 cmd0) (served w0)) (.next ((served w0).addJob (.launch 1 0x77 4 0xA000))) = true ∧
      same (exec (.swin 1 cmd0) (served w0)) (.next ((served w0).complete 1 0x77 0 4 0)) = true ∧
      (let s : State := { served w0 with quadOwner := [(0, 1)] }
       same (exec (.swout 1 cmd0) s) (.next ((s.addJob (.swout 1 0x77 4 [0])).sendControl 5 [0])) = true ∧
         after (exec (.ctxend 1 cmd0) s) (fun s => (s.jobs, (s.linkDir 4 1).queue)) = some ([(5, .ctxend 1 0x77 4 [0])], [⟨protrum, 0, .mgt, .control 5 0⟩]))) ∧
    (let c := fun st : CtxState => { served w0 with ctxs := [(4, { loadCtx with state := st })] }
     same (exec (.swout 1 cmd0) (c .fresh)) (.next ((c .fresh).complete 1 0x77 0 4 0)) = true ∧
       same (exec (.swin 1 cmd0) (c .switchedOut)) (.next ((c .switchedOut).addJob (.swin 1 0x77 4))) = true ∧
       same (exec (.launch 1 cmd0) (c .lost)) (.next ((c .lost).complete 1 0x77 0x12 4 0)) = true ∧
       same (exec (.swin 2 cmd0) (c .fresh)) (.next ((c .fresh).complete 2 0x77 0x11 4 0)) = true ∧
       same (exec (.ctxend 1 { cmd0 with ctx := 9 }) (c .fresh)) (.next ((c .fresh).complete 1 0x77 0x12 9 0)) = true) := by
  (repeat' apply And.intro) <;> decide +kernel

/-- ContextCommands: the control message of a SWOUT arrives; a SWOUT and a CTXEND of a running context before every die has theirs, and after. -/
theorem witness_switch_out :
    (let m : Msg := ⟨protrum, 0, .mgt, .control 6 0⟩
     let s := fun j : Job => { served w0 with ready := linked, quadOwner := [(0, 1)], jobs := [(6, j)] }
     let x := s (.swout 1 0x77 4 [0])
     same (runAct (.control 6 0) { x with arrived := [m] }) (.next (s (.swout 1 0x77 4 []))) = true ∧
       x.mayLeave 4 loadCtx [0] = false ∧ same (runAct (.job 6) x) (.next (x.push (.job 6))) = true ∧
       (s (.swout 1 0x77 4 [])).mayLeave 4 loadCtx [] = true ∧
       (∀ e ∈ (served w0).groups, e.2.entries = []) ∧ (served w0).deques = [] ∧ Map.sorted (served w0).teams = true ∧
       after (runAct (.job 6) (s (.swout 1 0x77 4 []))) (fun s => ((s.ctxs.get? 4).map fun c => c.state, decide (tm s = t0.put && s.jobs.length == 0), (s.queueOf 1).pending)) =
         some (some .switchedOut, true, [(completion 0x77 0 4 0 0, none)]) ∧
       after (runAct (.job 6) (s (.ctxend 1 0x77 4 []))) (fun s => [s.ctxs.length, s.groups.length, s.teams.length, s.grids.length, s.jobs.length, (s.queueOf 1).pending.length]) =
         some [0, 0, 0, 0, 0, 1]) := by
  (repeat' apply And.intro) <;> decide +kernel

/-- ContextCommands: ANSWER of a malformed operand, from a virtual function for the partition rung, without a stop, resuming a team, aborting a team and a context. -/
theorem witness_answer :
    (let c := fun (verb rung : BitVec 64) => (⟨0x77, 4, verb, rung, 0⟩ : Command)
     let s : State := { served w0 with stops := [(9, stopAt 1 true true)] }
     let s2 : State := { served w0 with stops := [(9, stopAt 2 true true)] }
     same (exec (.answer 1 (c 2 1)) s) (.next (s.complete 1 0x77 0x10 4 0)) = true ∧ same (exec (.answer 1 (c 0 3)) s) (.next (s.complete 1 0x77 0x11 4 0)) = true ∧
       s.stopNamed (c 0 2) = none ∧ same (exec (.answer 1 (c 0 2)) s) (.next (s.complete 1 0x77 0x18 4 0)) = true ∧ (s.stopNamed (c 0 1)).map (fun e => e.1) = some 9 ∧
       after (exec (.answer 1 (c 0 1)) s) (fun s => (s.stops.length, s.work.contains (.resume 1), s.jobs)) = some (0, true, [(5, .answer 1 0x77 4 [])]) ∧
       after (exec (.answer 1 (c 1 1)) s) (fun s => (s.stops.length, s.groups.length, s.teams.length)) = some (0, 0, 0) ∧
       after (exec (.answer 1 (c 1 2)) s2) (fun s => s.ctxs.map fun c => c.2.state) = some [.lost]) := by (repeat' apply And.intro) <;> decide +kernel

/-- A context that is switched out: entry 255 of its binding table binds layer space 0 to 0x100 to object 64; its trap table names a key at 64. -/
def swinCtx : Ctx := { loadCtx with state := .switchedOut, bindTab := 0x40000000, trapTab := 0x40002000 }
def swinState : State :=
  { served w0 with
    hdm := some 0, ready := up
    dram := [(0x40001FE9, 1), (0x40001FF0, 64), (0x40001FF8, 3), (0x40002028, 64)]
    dieTlb := tlbs [⟨1, 1, 30, 0x40000000, 0x40000000, true, true, true, false⟩], ctxs := [(4, swinCtx)], jobs := [(6, .swin 1 0x77 4)] }

/-- ContextCommands, the jobs of a SWIN and of an ANSWER with contexts to restore: the tables are read and the context runs. -/
theorem witness_swin_job :
    swinState.jobs.get? 6 = some (.swin 1 0x77 4) ∧ swinCtx.state ≠ .running ∧ swinState.saveWaits protrum 4 (fun _ => true) = false ∧ swinState.saveCause protrum 4 (fun _ => true) = none ∧
    after (runAct (.job 6) swinState) (fun s => ((s.ctxs.get? 4).map fun c => (c.state, c.binds, c.traps.keyAddr), s.work)) =
      some (some (.running, [⟨0, 256, 64, true⟩], 64), [.gangStart 0, .gangStart 1, .gangStart 2, .gangStart 3, .job 6]) ∧
    (let s := fun l : List Nat => { swinState with jobs := [(6, .answer 1 0x77 4 l)] }
     (s [4]).saveWaits protrum 4 (fun _ => true) = false ∧ (s [4]).saveCause protrum 4 (fun _ => true) = none ∧
       after (runAct (.job 6) (s [4])) (fun s => ((s.ctxs.get? 4).map fun c => (c.state, c.binds), s.jobs, s.work.contains (.job 6))) =
         some (some (.running, [⟨0, 256, 64, true⟩]), [(6, .answer 1 0x77 4 [])], true) ∧
       same (runAct (.job 6) (s [])) (.next ((s []).endJob 6 1 0x77 0 4 0)) = true) := by
  (repeat' apply And.intro) <;> decide +kernel

/-- ModuleCommands: a module that does not serve; a virtual function; the doorbells; a command of the ring; VECSET; VACATE and RETURN; their completions. -/
theorem witness_module_commands :
    same (exec (.vecset 0 cmd0) w0) (.next w0) = true ∧
    after (exec (.hqCmdtailDoorbell 1 65536) { served w0 with bias := [(1, ⟨0, true, 3, false, none⟩)] }) (fun s => ((s.biasOf 1).err, s.work)) = some (0, []) ∧
    after (exec (.hqEvtheadWrite 1 65536) { served w0 with bias := [(1, ⟨0, true, 3, false, none⟩)] }) (fun s => ((s.biasOf 1).err, s.work)) = some (0, []) ∧
    same (exec (.wstrim 1 cmd0) (served w0)) (.next ((served w0).complete 1 0x77 0x11 4 0)) = true ∧
    after (exec (.hqCmdtailDoorbell 1 65535) (served w0)) (fun s => ((s.queueOf 1).cmdTail, s.work)) = some (65535, [.commandIntake 1]) ∧
    after (exec (.hqEvtheadWrite 1 5) (served w0)) (fun s => ((s.queueOf 1).evtHead, s.work)) = some (5, [.eventRecordWrite 1]) ∧
    (let b := words ([0x00770007, 4, 1, 0] ++ List.replicate 12 0)
     let s : State := { served w0 with hq := [(1, { hq1 with cmdHead := 15, cmdTail := 16 })], host := Memory.write [] 0x83C0 b, quadOwner := [(0, 1)] }
     ioBytes? (s.ioRead 1 0x83C0 64) = some b ∧ ioKeeps s (s.ioRead 1 0x83C0 64) = true ∧ s.commandWaits 1 0x07 (commandOf b) = false ∧ commandOf b = ⟨0x77, 4, 1, 0, 0⟩ ∧ CommandRow 1 0x07 (commandOf b) (.vacate 1 (commandOf b)) ∧
       (let n := { hosted (ctxBytes 4864) w0 with hdm := some 0xA000 }
        n.commandWaits 1 0x01 cmd0 = true ∧ same (exec (.ctxnew 1 cmd0) n) (.next n) = true) ∧
       s.switching 4 = false ∧ leField b 0 1 = 7 ∧ leField b 1 1 = 0 ∧ leField b 0x20 32 = 0 ∧
       after (runAct (.commandIntake 1) s) (fun s => ((s.queueOf 1).cmdHead, s.jobs, s.vacating, (s.linkDir 4 1).queue)) =
         some (0, [(5, .vacate 1 0x77 1 [0])], [0], [⟨protrum, 0, .mgt, .control 5 0⟩])) ∧
    after (exec (.vecset 0 ⟨0x77, 0, 0x00080007, 0x0000000600000005, 0⟩) (served w0)) (fun s => s.vectors) = some ⟨7, 8, 5, 6⟩ ∧
    (let s : State := { served w0 with quadOwner := [(0, 1)] }
     let c : Command := ⟨0x77, 0, 1, 0, 0⟩
     same (exec (.vacate 1 { c with arg0 := 3 }) s) (.next (s.complete 1 0x77 0x11 0 0)) = true ∧
       (let m : State := { s with waypart := [(1, ⟨0, 0, false, 1, 1⟩)] }
        m.quadMapped 0 = true ∧ same (exec (.vacate 1 c) m) (.next (m.complete 1 0x77 0x14 0 1)) = true) ∧
       same (exec (.hostReturn 1 c) s) (.next (s.complete 1 0x77 0x15 0 0)) = true ∧
       after (exec (.hostReturn 1 c) { s with vacated := [0, 3] }) (fun s => (s.vacated, (s.queueOf 1).pending)) = some ([3], [(completion 0x77 0 0 0 0, none)])) ∧
    (let s := fun (r : List BringUp) (l : List Nat) => { served w0 with ready := r, vacating := [0, 5], jobs := [(6, .vacate 1 0x77 1 l)] }
     same (exec (.vacateComplete 6) (s linked [0])) (.next ((s linked [0]).push (.vacateComplete 6))) = true ∧
       (s [] []).reach protrum 0 = false ∧ same (exec (.vacateComplete 6) (s [] [])) (.next ((s [] []).push (.vacateComplete 6))) = true ∧
       (s linked []).reach protrum 0 = true ∧ (s linked []).savable 2 = true ∧ t0.standsOn [0] ∧
       after (exec (.vacateComplete 6) (s linked [])) (fun s => (s.vacating, s.vacated, s.jobs.length, decide (tm s = t0.put))) = some ([5], [0], 0, true) ∧
       after (exec (.vacateComplete 6) (s linked [])) (fun s => (s.queueOf 1).pending) = some [(completion 0x77 0 0 0 0, none)]) := by
  (repeat' apply And.intro) <;> first | decide +kernel | (unfold CommandRow; decide +kernel)

/-- ModuleCommands: PARTSET of a bad function, of a quad that is not free, of a context's save area that is too small, and as it goes; its end. PARTMEM. -/
theorem witness_partitions :
    (let s : State := { served w0 with ready := [.quad 0 0, .quad 3 11] }
     let c := fun (vf : BitVec 64) (m : BitVec 64) => (⟨0x77, 0, vf, m, 0⟩ : Command)
     same (exec (.partset 0 (c 17 1)) s) (.next (s.complete 0 0x77 0x10 0 0)) = true ∧ s.quadFree 1 = false ∧
       same (exec (.partset 0 (c 16 2)) s) (.next (s.complete 0 0x77 0x15 0 0)) = true ∧ s.quadFree 0 = true ∧ s.quadFree 47 = true ∧
       same (exec (.partset 0 (c 1 1)) s) (.next (s.complete 0 0x77 0x13 0 4864)) = true ∧
       after (exec (.partset 0 (c 2 (2 ^ 47 + 1 : BitVec 64))) s) (fun s => (s.zeroing, s.jobs, s.work)) =
         some ([0, 47], [(5, .partset 0x77 2 (2 ^ 47 + 1))], [.partsetFill 5])) ∧
    (let s : State := { served w0 with zeroing := [0, 47], jobs := [(6, .partset 0x77 2 (2 ^ 47 + 1))], layer := [(layerKey 3 0x17FFFFFF, 9), (layerKey 3 0x15FFFFFF, 8)] }
     after (exec (.partsetZeroFillComplete 6) s) (fun s => (s.ownerOf 0, s.ownerOf 47, s.zeroing, s.layer)) = some (2, 2, [], [(layerKey 3 0x15FFFFFF, 8)])) ∧
    (let c := fun (o f n : BitVec 64) => (⟨0x77, 0, o, f, n⟩ : Command)
     same (exec (.partmem 0 (c 1 511 2)) (served w0)) (.next ((served w0).complete 0 0x77 0x10 0 0)) = true ∧
       after (exec (.partmem 0 (c 16 511 1)) (served w0)) (fun s => (s.granules, s.jobs, s.work.contains (.job 5))) = some ([(511, 16)], [(5, .partmem 0x77 [])], true) ∧
       (let s : State := { served w0 with jobs := [(6, .partmem 0x77 [(3, 511 * 16384)])] }
        after (runAct (.job 6) s) (fun s => (s.jobs, (s.queueOf 0).pending)) = some ([], [(completion 0x77 0 0 0 0, none)]) ∧
          (let b : State := { s with bias := [(3, ⟨0, true, 0, false, some ⟨511 * 16384, true, [1]⟩⟩)] }
           after (exec (.partmem 0 (c 16 511 1)) b) (fun s => s.jobs.get? 5) = some (some (.partmem 0x77 [(3, 511 * 16384)])) ∧
           same (runAct (.job 6) b) (.next (b.push (.job 6))) = true))) := by (repeat' apply And.intro) <;> decide +kernel

/-- ModuleCommands: the weight store's commands at the limits of their operands, the commit of a unit; LNKSVC. -/
theorem witness_weight_store :
    (let c := fun (off src n : BitVec 64) => (⟨0x77, 0, off, src, n⟩ : Command)
     let s := served w0
     same (exec (.wswrite 0 (c 0 0x1001 4096)) s) (.next (s.complete 0 0x77 0x10 0 0)) = true ∧
       same (exec (.wstrim 0 (c 0 0 0x101000)) s) (.next (s.complete 0 0x77 0x10 0 0)) = true ∧
       8 * 10 ^ 12 < 0x746A5288000 + 4096 ∧ same (exec (.wstrim 0 (c 0x746A5288000 0 4096)) s) (.next (s.complete 0 0x77 0x17 0 0)) = true ∧
       after (exec (.wstrim 0 (c 0x2000 0 0x2000)) s) (fun s => (s.staged, s.work)) = some ([(2, []), (3, [])], [.stagedUnitCommit 2, .stagedUnitCommit 3]) ∧
       (let h : State := { s with hostBad := [64] }
        ioFailed (h.ioRead 0 0x1000 4096) = true ∧ ioKeeps h (h.ioRead 0 0x1000 4096) = true ∧ same (exec (.wswrite 0 (c 0 0x1000 4096)) h) (.next (h.complete 0 0x77 0x17 0 0)) = true) ∧
       (let d : State := { s with hdm := some 0 }
        ioBytes? (d.ioRead 0 0x1000 4096) = none ∧ ioFailed (d.ioRead 0 0x1000 4096) = false ∧ same (exec (.wswrite 0 (c 0 0x1000 4096)) d) (.next d) = true) ∧
       after (exec (.wswrite 0 (c 0 0x1000 4096)) { s with host := [(0x1FFF, 7)] }) (fun s => (s.staged.map fun e => e.1, s.jobs)) = some ([0], [(5, .wswrite 0x77 [0])])) ∧
    (let s : State := { served w0 with ready := .flash :: linked, staged := [(2, [5, 6])], flash := [(0x2001, 1), (0x2002, 1), (0x3000, 1)], flashBad := [2], jobs := [(6, .wswrite 0x77 [2])] }
     s.access protrum (.flash (2 * 4096)) = .served ∧
       after (exec (.stagedUnitCommit 2) s) (fun s => (s.flash, s.flashBad)) = some ([(0x2000, 5), (0x2001, 6), (0x3000, 1)], []) ∧
       after (exec (.stagedUnitCommit 2) s) (fun s => (s.staged.length, s.jobs.length, (s.queueOf 0).pending)) = some (0, 0, [(completion 0x77 0 0 0 0, none)])) ∧
    (let c := fun r : BitVec 64 => (⟨0x77, 0, r, 0, 0⟩ : Command)
     endOfReg 0x3000 = none ∧ (let s := served w0; same (exec (.lnksvc 0 (c 0x3000)) s) (.next (s.complete 0 0x77 0x10 0 0)) = true) ∧
       endOfReg 0x0800 = some (0, 0, 0) ∧ ((served w0).linkEnd 0 0 0).state = 2 ∧ ((served w0).linkEnd 0 1 0).state = 2 ∧
       after (exec (.lnksvc 0 (c 0x0800)) (served w0)) (fun s => (s.jobs, s.services, [0, 1].map fun d => ((s.linkEnd 0 d 0).state, (s.linkEnd 0 d 0).pause))) =
         some ([(5, .lnksvc 0x77 0 0)], [⟨0, 0, 2, 0, 0, 0, some 5⟩], [(1, true), (1, true)])) := by
  (repeat' apply And.intro) <;> decide +kernel

/-- ContextCommands, the job of a LAUNCH, with the image's signature as a premise: the record is read, and the dies of the grid are those of the partition. -/
def launchState : State :=
  { taskLaunchState with ctxs := [(4, loadCtx)], grids := [], boot := { w0.boot with started := true, state := 1 }, hq := [(1, hq1)], jobs := [(6, .launch 1 0x77 4 0x40000100)] }

theorem witness_launch_job (h : Config.sm2Verify = fun _ _ _ => true) :
    launchState.jobs.get? 6 = some (.launch 1 0x77 4 0x40000100) ∧ launchState.earlierLaunch 6 4 = false ∧ loadCtx.state ≠ .fresh ∧
    (match readLaunch (frontRead (.front 6) 1 1) 64 .host launchState 0x40000100 with
     | .ok s1 lr => s1.gridDies 1 lr.dieMask == [0] && lr.teams == 1
     | .wait _ => false
     | .no _ _ => false) = true := by
  refine ⟨by decide +kernel, by decide +kernel, by decide +kernel, ?_⟩
  unfold readLaunch loadImageAt
  rw [h]
  decide +kernel

/-! ## The host and the module's memory -/

/-- The module with its HDM range at 0 and graphics DRAM ready, and the weight-store window at 2^43. -/
def memState : State :=
  { served w0 with
    hdm := some 0, ready := .flash :: up
    wsBase := 1, wsEn := true, dram := [(64, 5)] }

/-- HostMemoryEvents: the HDM decoder; a read served, poisoned, broken and waiting; a write; accesses outside the range and in the weight-store window. -/
theorem witness_host_memory :
    same (exec (.hdmDecoderCommit (2 ^ 39)) w0) (.next { w0 with hdm := some (2 ^ 39) }) = true ∧ same (exec (.hdmDecoderCommit (2 ^ 38)) w0) (.next w0) = true ∧
    (let d : State := { w0 with dead := true }; same (exec (.hdmDecoderCommit (2 ^ 39)) d) (.next d) = true) ∧
    memState.access protrum (.dram 64) = .served ∧ memState.dead = false ∧ 64 % 64 + 64 ≤ 64 ∧ (∃ base, memState.hdm = some base ∧ base ≤ 64 ∧ 64 < base + 2 ^ 39 ∧ 64 = 64 - base) ∧
    after (exec (.hostCxlMemRead 64 64) memState) (fun s => s.hostReply.map fun b => (b.length, b.headD 0)) = some (some (64, 5)) ∧
    after (exec (.hostCxlMemRead 64 1) { memState with dramBad := [2] }) (fun s => (s.hostReply, (s.ecc.getD 0 ⟨0, 0⟩).uncorr)) = some (none, 1) ∧
    (let s := { memState with failed := [deviceOfDpa 64] }
     s.access protrum (.dram 64) = .broken ∧ after (exec (.hostCxlMemRead 64 1) s) (fun s => s.hostReply) = some none) ∧
    (let s := { memState with ready := linked }
     s.access protrum (.dram 64) = .wait ∧ same (exec (.hostCxlMemRead 64 1) s) (.next s) = true) ∧
    deviceOfDpa 127 ∉ memState.failed ∧ deviceOfDpa 127 ∈ memState.ready ∧ memState.flippingTo (127 / 65536) false = false ∧ memState.reach protrum (127 / 2 ^ 37) = true ∧
    after (exec (.hostCxlMemWrite 126 [1, 2]) { memState with dramBad := [2, 3] }) (fun s => (s.dram, s.dramBad)) = some ([(64, 5), (126, 1), (127, 2)], [2, 3]) ∧
    after (exec (.hostCxlMemRead (2 ^ 39) 64) { memState with hostReply := some [] }) (fun s => s.hostReply) = some none ∧
    (let s := { memState with flash := [(4096, 7)] }
     s.route (2 ^ 43 + 4096) = some (.flash 4096) ∧ s.access protrum (.flash 4096) = .served ∧
       after (exec (.weightWindowHostRead (2 ^ 43 + 4096) 2) s) (fun s => s.hostReply) = some (some [7, 0]) ∧
       after (exec (.weightWindowHostRead (2 ^ 43 + 4096) 2) { s with flashBad := [1], hostReply := some [] }) (fun s => s.hostReply) = some none ∧
       same (exec (.weightWindowHostWrite (2 ^ 43 + 4096) [1]) s) (.next s) = true ∧ same (exec (.hostSnoop (2 ^ 43 + 4096)) s) (.next s) = true) ∧
    after (exec (.hostSnoop 64) { memState with cxlLines := [1, 2] }) (fun s => s.cxlLines) = some [2] ∧
    (let s : State := { memState with ready := [], cxlLines := [1, 2] }
     s.reach protrum 0 = false ∧ same (exec (.hostSnoop 64) s) (.next s) = true) ∧
    (let s := { memState with cxlLines := [1, 2], hostLines := [(1, [9])], hostLineBad := [1] }
     after (exec (.hostCxlMemWrite 66 [7]) s) (fun s => (s.dram, s.cxlLines, s.hostLineBad)) = some ([(64, 9), (66, 7)], [2], [1]) ∧
       after (exec (.hostCxlMemWrite 64 (List.replicate 64 3)) s) (fun s => (s.dram.length, s.hostLineBad)) = some (64, [])) := by
  refine ⟨by decide +kernel, by decide +kernel, by decide +kernel, by decide +kernel, by decide +kernel, by decide +kernel, ⟨0, by decide +kernel⟩, ?_⟩
  (repeat' apply And.intro) <;> decide +kernel

/-- HostMemoryEvents: a bias flip refused as another is in progress, refused for a page of another owner, begun in both directions, and already done; the last
ownership response and an earlier one; a timeout; the end of a flip to host bias. -/
theorem witness_bias :
    (let busy : BiasRegs := ⟨0, true, 0, false, some ⟨9, true, [3]⟩⟩
     let s := { memState with bias := [(1, busy)], hostBias := [9] }
     after (exec (.biasFlipToDevice 1) s) (fun s => (s.biasOf 1).err) = some 1 ∧
       after (exec (.biasFlipToDevice 1) { memState with bias := [(1, ⟨16384, false, 0, false, none⟩)] }) (fun s => ((s.biasOf 1).err, (s.biasOf 1).done)) = some (2, true) ∧
       after (exec (.biasFlipToDevice 0) { memState with bias := [(0, ⟨9, false, 0, false, none⟩)], hostBias := [9] }) (fun s => (s.biasOf 0).flip.map fun f => f.lines.length) =
         some (some 1024) ∧
       after (exec (.biasFlipToDevice 0) memState) (fun s => ((s.biasOf 0).done, (s.biasOf 0).err, (s.biasOf 0).flip)) = some (true, 0, none) ∧
       after (exec (.biasFlipToHost 0) memState) (fun s => ((s.biasOf 0).flip, s.work)) = some (some ⟨0, false, []⟩, [.biasHostFlip 0]) ∧
       after (exec (.biasOwnershipResponse 1 3 (some (List.replicate 64 6))) s) (fun s => (s.hostBias, (s.biasOf 1).done, s.dram.read (9 * 65536 + 3 * 64 + 63) 1, s.dram.length)) =
         some ([], true, 6, 65) ∧
       after (exec (.biasOwnershipResponse 1 3 none) { s with bias := [(1, { busy with flip := some ⟨9, true, [3, 4]⟩ })] }) (fun s => (s.hostBias, (s.biasOf 1).flip)) =
         some ([9], some ⟨9, true, [4]⟩) ∧
       (let d := { s with ready := [] }
        d.reach protrum 0 = false ∧ same (exec (.biasOwnershipResponse 1 3 none) d) (.next d) = true) ∧
       (let h := { s with hostLines := [(1024 * 9 + 3, [4])], hostLineBad := [1024 * 9 + 3] }
        after (exec (.biasOwnershipResponse 1 3 none) h) (fun s => (s.dram.read (9 * 65536 + 3 * 64) 1, s.dramBad.contains (2 * (1024 * 9 + 3) + 1))) = some (4, true)) ∧
       after (exec (.biasFlipTimeout 1) s) (fun s => ((s.biasOf 1).err, (s.biasOf 1).flip)) = some (3, none) ∧
       after (exec (.biasHostFlipComplete 1) { s with bias := [(1, { busy with flip := some ⟨8, false, []⟩ })] }) (fun s => (s.hostBias, (s.biasOf 1).done)) =
         some ([8, 9], true)) := by (repeat' apply And.intro) <;> decide +kernel

/-- HostMemoryEvents: host register writes, each with its reserved bits clean, and one with a reserved bit set; the patrol scrub of the last line; a flash unit that
retires with its data lost and kept. -/
theorem witness_host_registers :
    (let s := served w0
     let off : State := { s with hq := [(1, { hq1 with en := false })] }
     Clean 0x5000 [(11, 0)] ∧ after (exec (.hostRegisterWrite 1 0x00 0x5000) off) (fun s => (s.queueOf 1).cmdBase) = some 0x5000 ∧
       after (exec (.hostRegisterWrite 1 0x08 0x5000) off) (fun s => (s.queueOf 1).evtBase) = some 0x5000 ∧
       after (exec (.hostRegisterWrite 1 0x10 0x3F4401) off) (fun s => ((s.queueOf 1).evtVec, (s.queueOf 1).evtLog2, (s.queueOf 1).cmdLog2, (s.queueOf 1).en)) = some (63, 4, 4, true) ∧
       after (exec (.hostRegisterWrite 1 0x00100000 0x7FFFFF) s) (fun s => (s.biasOf 1).page) = some 0x7FFFFF ∧
       after (exec (.hostRegisterWrite 1 0x00100000 0x800000) { s with bias := [(1, ⟨0, true, 1, false, none⟩)] }) (fun s => ((s.biasOf 1).page, (s.biasOf 1).err)) = some (0, 0) ∧
       after (exec (.hostRegisterWrite 1 0x00100008 0) s) (fun s => (s.biasOf 1).target) = some false ∧
       same (exec (.hostRegisterWrite 1 0x00100008 3) s) (exec (.biasFlipToDevice 1) s) = true ∧
       after (exec (.hostRegisterWrite 1 0x00100010 2) { s with bias := [(1, ⟨0, true, 0, true, none⟩)] }) (fun s => (s.biasOf 1).done) = some false ∧
       Clean ((2 ^ 43 + 1 : BitVec 64)) [(42, 1)] ∧ after (exec (.hostRegisterWrite 0 0x00100200 (2 ^ 43 + 1 : BitVec 64)) s) (fun s => (s.wsBase, s.wsEn)) = some (1, true) ∧
       after (exec (.hostRegisterWrite 0 0x00140008 0x7001) s) (fun s => (s.boot.base, s.boot.state)) = some (0x7000, 1) ∧
       after (exec (.hostRegisterWrite 0 0x00140008 0x7001) { s with boot := { s.boot with state := 2 } }) (fun s => (s.boot.base, s.boot.state)) = some (0x7000, 3)) ∧
    (let s := { served w0 with ready := linked, bias := [(0, ⟨0, true, 2, false, none⟩), (1, ⟨0, true, 2, false, none⟩)] }
     let rsv : W64 := 2 ^ 63
     ([0x00, 0x08, 0x10, 0x20, 0x28, 0x00100000, 0x00110000].all fun off => after (exec (.hostRegisterWrite 1 off (rsv + 0x00FFF800FF)) s) (fun s => (s.biasOf 1).err) == some 0) = true ∧
       ([0x00100008, 0x00100010].all fun off => after (exec (.hostRegisterWrite 1 off 0x80000000) s) (fun s => (s.biasOf 1).err) == some 0) = true ∧
       same (exec (.hostRegisterWrite 1 0x20 5) s) (.next s) = true ∧ same (exec (.hostRegisterWrite 1 0x28 5) s) (.next s) = true ∧
       s.invalidationReaches 1 = true ∧ same (exec (.hostRegisterWrite 1 0x00110000 1) s) (exec (.trnFlush 1) s) = true ∧
       after (exec (.hostRegisterWrite 0 0x00140000 8) s) (fun s => (s.biasOf 0).err) = some 0) ∧
    (let s := { served w0 with bias := [(1, ⟨9, true, 2, true, some ⟨9, true, [3]⟩⟩)], hostBias := [9], ecc := [(3, ⟨7, 5⟩)] }
     s.serving = true ∧ s.barWord 1 0x00100010 = some 0x23 ∧ s.barWord 2 0x00100010 = some 8 ∧ (s.hostRegRead 1 0x00100010).hostReply = some [0x23, 0, 0, 0] ∧
       s.barWord 1 0x00100000 = some 9 ∧ s.barWord 1 0x00100008 = some 2 ∧ s.barWord 1 0x10 = some 0x34401 ∧ s.barWord 1 0x20 = some 0 ∧
       s.barWord 0 0x00100118 = some 0x500000007 ∧ s.barWord 1 0x00100118 = some 0) ∧
    (let n := 3 * 2 ^ 32 + (2 ^ 29 - 1) * 8
     memState.access protrum (.dram (3 * 2 ^ 37 + (2 ^ 29 - 1) * 256)) = .served ∧
       after (exec (.patrolScrub 3 (2 ^ 29 - 1) 9) { memState with dramBad := [n + 7, n + 8], ecc := [(3, ⟨0xFFFFFFF9, 4⟩)] }) (fun s => s.ecc.getD 3 ⟨0, 0⟩) =
         some ⟨0xFFFFFFFF, 5⟩) ∧
    (2 : Nat) < 8 * 10 ^ 12 / 4096 ∧ memState.access protrum (.flash (2 * 4096)) = .served ∧
    after (exec (.flashUnitRead 2 8 false) memState) (fun s => s.flashBad) = some [2] ∧ after (exec (.flashUnitRead 2 8 true) { memState with flashBad := [2] }) (fun s => s.flashBad) = some [] ∧
    after (exec (.ftlRelocation 2 true false) memState) (fun s => s.flashBad) = some [2] := by (repeat' apply And.intro) <;> decide +kernel

/-! ## Translation and links -/

/-- A write of group 1 that waits for page 7, one ATS request for it sent, and entries of that page and the next in the core's cache. -/
def ats0 : AtsReq := ⟨0, 1, 1, 7, false, false, []⟩
def wait0 (ph : Phase) (need : Need) (tries : Nat) : PageWait := ⟨.entry 1 5, 0, 0, 1, 1, 7, need, ph, tries⟩
def xlState (ph : Phase) (need : Need) (tries : Nat) : State := { w0 with ready := linked, ats := [ats0], waits := [wait0 ph need tries] }
def tlb (va : Nat) : TlbEntry := ⟨1, 1, 12, va, 0x9000, true, true, false, false⟩

/-- TranslationEvents: a completion with a page that allows the access and one that does not, before and at the fourth try; no permission; refused; untranslated;
the three responses to a page request; PRI; an invalidation that drops one entry of two; its completion; a flush. -/
theorem witness_translation :
    (xlState .atsSent .write 0).Asked ats0 ∧ (xlState .atsSent .write 0).reach 0 protrum = true ∧ ats0.serves (wait0 .atsSent .write 0) = true ∧
    after (exec (.atsTranslationCompletion 0 1 1 7 false (.page 12 0x9000 true true false)) (xlState .atsSent .write 0)) (fun s => (s.ats.length, s.waits.map fun v => v.phase)) = some (0, [.have (tlb 0x7000)]) ∧
    after (exec (.atsTranslationCompletion 0 1 1 7 false (.page 12 0x9000 true true false)) (xlState .atsSent .write 0)) (fun s => ((s.dieWays 0 6).ways, s.l1.getD 7 [])) =
      some ([(0, tlb 0x7000)], [tlb 0x7000]) ∧
    after (exec (.atsTranslationCompletion 0 1 1 7 false (.page 12 0x9000 true false false)) (xlState .atsSent .write 0)) (fun s => (s.waits.map fun v => v.phase, s.pri.length)) =
      some ([.priSent], 1) ∧
    after (exec (.atsTranslationCompletion 0 1 1 7 false (.page 12 0x9000 true false false)) (xlState .atsSent .write 4)) (fun s => s.waits.map fun v => v.phase) =
      some [.refused 0x07 false] ∧
    after (exec (.atsTranslationCompletion 0 1 1 7 false (.page 12 0x9000 false false false)) (xlState .atsSent .write 4)) (fun s => s.waits.map fun v => v.phase) =
      some [.refused 0x06 false] ∧
    after (exec (.atsTranslationCompletion 0 1 1 7 false .refused) (xlState .atsSent .write 0)) (fun s => s.waits.map fun v => v.phase) = some [.refused 0x06 true] ∧
    after (exec (.atsTranslationCompletion 0 1 1 7 false .untranslated) (xlState .atsSent .write 0)) (fun s => s.waits.map fun v => v.phase) = some [.untranslated] ∧
    (let p : PriReq := ⟨0, 1, 1, 7, .write, 4, true⟩
     let s : State := { w0 with ready := linked, pri := [p], waits := [wait0 .priSent .write 1], priAlloc := [(1, 4)] }
     p.serves (wait0 .priSent .write 1) = true ∧
       after (exec (.pageRequestResponse 1 1 4 .success) s) (fun s => (s.pri, s.waits.map fun v => v.phase, s.ats.map fun a => a.page)) = some ([], [.atsSent], [7]) ∧
       after (exec (.pageRequestResponse 1 1 4 .invalid) s) (fun s => (s.pri, s.waits.map fun v => v.phase)) = some ([], [.refused 0x06 false]) ∧
       after (exec (.pageRequestResponse 1 1 4 .failure) s) (fun s => (s.pri, s.priOff, s.waits.map fun v => v.phase)) = some ([], [1], [.refused 0x06 true])) ∧
    (let win : State := { xlState .atsSent .write 0 with wsEn := true }
     win.storeRefusal { tlb 0x7000 with hpa := 2 ^ 50 } .write 0x7000 = none ∧ win.storeRefusal { tlb 0x7000 with w := false } .write 0x7000 = some 0x07 ∧
       win.storeRefusal (tlb 0x7000) .read 0x7000 = none ∧
       after (exec (.atsTranslationCompletion 0 1 1 7 false (.page 12 0x9000 true false false)) win) (fun s => s.waits.map fun v => v.phase) = some [.refused 0x07 false]) ∧
    same (exec (.priEnableSet 1 4) { w0 with dead := true }) (.next { w0 with dead := true }) = true ∧
    after (exec (.priEnableSet 1 9999) { w0 with priOff := [1] }) (fun s => (s.priOff, s.priLimit 1)) = some ([], 512) ∧
    (let s : State := { w0 with ready := linked, l1 := l1s [tlb 0x7000, tlb 0x8000], dieTlb := tlbs [tlb 0x7000], ats := [ats0] }
     let v := s.invalidation 1 31 1 false 0x7000 0x1000
     let left := fun s : State => (s.l1.flatMap fun c => c.2, s.dieTlb.flatMap fun c => c.2.ways)
     left s = ([tlb 0x7000, tlb 0x8000], [(0, tlb 0x7000)]) ∧ s.heldMidway 1 1 false 0x7000 0x1000 = false ∧
     s.strandedBy v = [] ∧ s.invalidationReaches 1 = true ∧ v.gone = [(0x7000, 0x1000)] ∧
       after (exec (.atsInvalidateRequest 1 1 false 0x7000 0x1000 31) s) left = some ([tlb 0x8000], []) ∧
       after (exec (.atsInvalidateRequest 1 1 false 0x7000 0x1000 31) s) (fun s => (s.ats.map fun a => a.overtaken, s.invs.length, s.work)) =
         some ([[(0x7000, 0x1000)]], 1, [.invalidateCompletion 1 31]) ∧
       (let d := { s with quadOwner := [(0, 1)], ready := [] }
        d.invalidationReaches 1 = false ∧ same (exec (.trnFlush 1) d) (.next d) = true ∧
          (let e := { d with invs := [v] }
           same (exec (.invalidateCompletion 1 31) e) (.next (e.push (.invalidateCompletion 1 31))) = true)) ∧
       after (exec (.invalidateCompletion 1 31) { s with invs := [v] }) (fun s => s.invs) = some [] ∧
       same (exec (.trnFlush 1) { s with dead := true }) (.next { s with dead := true }) = true ∧
       after (exec (.trnFlush 1) s) (fun s => (left s, s.flushing)) = some (([], []), [1]) ∧
       same (exec (.trnFlush 1) { s with flushing := [1] }) (.next { s with flushing := [1] }) = true) := by (repeat' apply And.intro) <;> decide +kernel

/-- An end of link 0's module 0 changed, on both sides. -/
def ends (f : LinkEnd → LinkEnd) : State := (w0.putEnd 0 0 0 (f LinkEnd.reset)).putEnd 0 1 0 (f LinkEnd.reset)

/-- The modules of link 0 ready at both ends. -/
def wLink : State := { w0 with ready := (List.range 4).flatMap (moduleUnits 0) }

/-- The same with a message waiting to be sent over the link. -/
def wMsg (x : Msg) : State := { wLink with linkDirs := [(0, ⟨0, 0, [x], []⟩)] }

/-- LinkEvents: a flit that arrives, and one with a CRC error; the control bits; a retrain and its end, good and bad; the window; the routine's timeout; a link
between modules lost with a module alive, without one, and a link between dies lost with a partition on it. -/
theorem witness_links :
    (wLink.modulesUp 0 = [0, 1, 2, 3] ∧ wLink.HeadFlit 0 0 ⟨0, 0, none⟩ [] ∧ (wMsg ⟨0, 1, .cue, .gangStart 9⟩).HeadFlit 0 0 ⟨0, 0, some ⟨0, 1, .cue, .gangStart 9⟩⟩ [] ∧
      after (exec (.linkFlitReceive 0 0 true) wLink) (fun s => ((s.linkDir 0 0).delivered, (s.linkDir 0 0).flits)) = some (1, []) ∧
      after (exec (.linkFlitReceive 0 0 true) (wMsg ⟨0, 1, .cue, .gangStart 9⟩)) (fun s => (s.arrived, s.work)) = some ([⟨0, 1, .cue, .gangStart 9⟩], [.gangStart 9]) ∧
      after (exec (.linkFlitReceive 0 0 true) (wMsg ⟨0, 2, .cue, .gangStart 9⟩)) (fun s => (s.arrived, (s.linkDir 1 0).queue)) = some ([], [⟨0, 2, .cue, .gangStart 9⟩]) ∧
      after (exec (.linkFlitReceive 0 0 false) wLink) (fun s => ((s.linkDir 0 0).delivered, (s.linkDir 0 0).flits, (s.linkEnd 0 1 0).crcErr, (s.linkEnd 0 1 0).retries)) =
        some (0, [⟨0, 0, none⟩], 1, 1)) ∧
    (w0.IdleEnd 7 1 3 ∧ (w0.linkEnd 7 1 3).state = 2 ∧ (w0.linkEnd 7 1 3).off = false ∧
      after (exec (.lnkPause 7 1 3) w0) (fun s => ((s.linkEnd 7 1 3).pause, (s.linkEnd 7 1 3).state)) = some (true, 3) ∧
      after (exec (.lnkUnpause 0 0 0) (ends fun e => { e with pause := true, state := 3 })) (fun s => (s.linkEnd 0 0 0).state) = some 2 ∧
      after (exec (.lnkOff 7 1 3) w0) (fun s => ((s.linkEnd 7 1 3).off, (s.linkEnd 7 1 3).state)) = some (true, 4) ∧
      after (exec (.lnkOn 0 0 0) (ends fun e => { e with off := true, state := 4 })) (fun s => ((s.linkEnd 0 0 0).off, (s.linkEnd 0 0 0).state)) = some (false, 0) ∧
      after (exec (.lnkRetrycntClr 0 0 0) (ends fun e => { e with crcErr := 5, retries := 6 })) (fun s => ((s.linkEnd 0 0 0).crcErr, (s.linkEnd 0 0 0).retries)) = some (0, 0)) ∧
    (after (exec (.lnkRetrain 0 0 0) (ends fun e => { e with pause := true, state := 3, ctlWidth := 2, test := true })) (fun s =>
        [0, 1].map fun d => ((s.linkEnd 0 d 0).state, (s.linkEnd 0 d 0).trainWidth, (s.linkEnd 0 d 0).trainTest)) = some [(1, 2, true), (1, 2, true)] ∧
      same (exec (.lnkRetrain 0 0 0) w0) (.next w0) = true ∧ mapOk 0 = true ∧
      after (exec (.lnkRetrainComplete 0 0 true 8 9) (ends fun e => { e with state := 1, trainWidth := 2, trainTest := true })) (fun s =>
        [0, 1].map fun d => ((s.linkEnd 0 d 0).state, (s.linkEnd 0 d 0).width, (s.linkEnd 0 d 0).laneErr)) = some [(3, 2, 8), (3, 2, 9)] ∧
      after (exec (.lnkRetrainComplete 0 0 false 8 9) (ends fun e => { e with state := 1, trainWidth := 2 })) (fun s =>
        [0, 1].map fun d => ((s.linkEnd 0 d 0).state, (s.linkEnd 0 d 0).width)) = some [(0, 0), (0, 0)] ∧
      after (exec (.lnkRetrainComplete 0 0 true 8 9) (w0.putEnd 0 0 0 { LinkEnd.reset with state := 1, trainWidth := 2 })) (fun s =>
        [0, 1].map fun d => (s.linkEnd 0 d 0).state) = some [0, 2]) ∧
    (let s := w0.putEnd 0 1 3 { LinkEnd.reset with retries := 256 }
     (s.linkEnd 0 1 3).thresh ≤ (s.linkEnd 0 1 3).retries - s.windowStart.getD (endReg 0 1 3) 0 ∧
       after (exec .linkServiceWindow s) (fun s => (s.windowStart.getD (endReg 0 1 3) 0, s.services.map fun v => (v.link, v.m, v.job))) = some (256, [(0, 3, none)]) ∧
       after (exec .linkServiceWindow w0) (fun s => s.services.length) = some 0) ∧
    (let v : Service := ⟨0, 0, 2, 0, 3, 0, none⟩
     let s : State := { w0 with services := [v] }
     after (exec (.linkServiceWaitTimeout 0 0) s) (fun s => (s.services.length, [0, 1].map fun d => (s.linkEnd 0 d 0).state, (s.queueOf 0).pending)) =
       some (0, [4, 4], [(linkReport 3 (endReg 0 0 0) 3, none)])) ∧
    (same (exec (.linkLost 4) w0) (.next w0) = true ∧
      (let off := fun l => (List.range 4).foldl (fun s m => s.putEnd l 0 m { LinkEnd.reset with state := 0 }) { w0 with quadOwner := [(12, 3)] }
       after (exec (.linkLost 4) (off 4)) (fun s => (s.lostLinks, s.stops.map fun e => (e.2.rung, e.2.cause))) = some ([4], [(4, 0x0E)]) ∧
         after (exec (.linkLost 1) (off 1)) (fun s => (s.lostLinks, s.stops.map fun e => (e.2.rung, e.2.fn))) = some ([1], [(3, 3)]) ∧
         after (exec (.linkLost 0) (off 0)) (fun s => s.stops.map fun e => e.2.fn) = some [3])) := by (repeat' apply And.intro) <;> decide +kernel

/-! ## Power, boot and resets -/

/-- A slice's way register after reset, changed; the two bytes of the stacked layer on either side of the second mebibyte's start. -/
def way0 : Waypart := w0.wayp 0 1
def wWay (x : Waypart) : State :=
  { w0 with
    waypart := w0.waypart.set 1 x
    layer := [⟨layerKey 0 (2 ^ 24 + 2 ^ 20 - 1), 5⟩, ⟨layerKey 0 (2 ^ 24 + 2 ^ 20), 6⟩] }

/-- PowerAndBoot: ways grow and shrink, each refusal, and what is zeroed. -/
theorem witness_ways :
    way0.scrWays = 0 ∧ way0.busy = false ∧
    after (exec (.lyrWaypartGrow 0 1 16) (wWay way0)) (fun s => (s.wayp 0 1, s.work)) = some ({ way0 with busy := true, scrWays := 16 }, [.layerGrow 0 1]) ∧
    after (exec (.lyrWaypartGrow 0 1 2) (wWay { way0 with busy := true })) (fun s => (s.wayp 0 1).err) = some 1 ∧
    after (exec (.lyrWaypartShrink 0 1 1) (wWay { way0 with busy := true, scrWays := 2 })) (fun s => (s.wayp 0 1).err) = some 1 ∧
    after (exec (.lyrWaypartShrink 0 1 1) (wWay { way0 with ringFloor := 2, scrWays := 3 })) (fun s => (s.wayp 0 1).err) = some 2 ∧
    after (exec (.lyrWaypartShrink 0 1 1) (wWay { way0 with scrWays := 2, mapped := 2 })) (fun s => (s.wayp 0 1, s.layer.map fun c => c.2)) =
      some ({ way0 with busy := true, scrWays := 1, mapped := 1 }, [5]) ∧
    after (exec (.layerGrowComplete 0 1) (wWay { way0 with busy := true, scrWays := 1 })) (fun s => (s.wayp 0 1, s.layer.map fun c => c.2)) =
      some ({ way0 with scrWays := 1, mapped := 1 }, [6]) ∧
    after (exec (.layerShrinkBusyEnd 0 1) (wWay { way0 with busy := true, scrWays := 1, mapped := 1 })) (fun s => (s.wayp 0 1).busy) = some false := by
  (repeat' apply And.intro) <;> decide +kernel

/-- PowerAndBoot: a write with a reserved bit, one to an illegal pass count, one that the quad already meets, and one that starts a transition; its steps. -/
theorem witness_power :
    after (exec (.pwrQctlWrite 13 0x0000000800000001) w0) (fun s => (s.powerOf 13).err) = some 1 ∧
    after (exec (.pwrQctlWrite 13 0x3) w0) (fun s => (s.powerOf 13).err) = some 1 ∧
    QctlOk 0x40010001 ∧ QctlOk 0x10000302 ∧ ¬QctlOk 0x3 ∧
    after (exec (.pwrQctlWrite 13 0x40010001) w0) (fun s => ((s.powerOf 13).busy, s.work)) = some (false, []) ∧
    after (exec (.pwrQctlWrite 13 0x10000302) w0) (fun s => ((s.powerOf 13).busy, (s.powerOf 13).step, s.work)) = some (true, 2, [.pwrStep 13]) ∧
    (let p : Power := { Power.reset with busy := true, targetOpp := 0, opp := 3, supply := 3 }
     let s := w0.setPower 13 p
     after (exec (.pwrTransitionStep 13) s) (fun s => ((s.powerOf 13).step, (s.permitOf 1).holder)) = some (1, some 13) ∧
       after (exec (.pwrTransitionStep 13) (s.setPower 13 { p with step := 1, aim := 0 })) (fun s => ((s.powerOf 13).supply, (s.powerOf 13).step)) =
         some (0, 2) ∧
       after (exec (.pwrTransitionStep 13) (s.setPower 13 { p with step := 2, supply := 0 })) (fun s => ((s.powerOf 13).opp, (s.powerOf 13).busy)) =
         some (0, false)) ∧
    same (exec (.pwrTransitionStep 13) w0) (.next w0) = true ∧ Power.reset.nextStep = 0 ∧ { Power.reset with targetOpp := 2, supply := 2 }.nextStep = 2 ∧
    { Power.reset with targetPass := 2, pass := 2 }.nextStep = 6 := by (repeat' apply And.intro) <;> decide +kernel

/-- PowerAndBoot: a bank goes drowsy with no group on the stage in it, and neither one that is off nor one with a group on the stage. -/
theorem witness_drowsy :
    (w0.powerOf 0).drWait = 64 ∧
    (let s := w0.setPower 47 { Power.reset with bankOff := false }
     after (exec (.bankDrowsyEntry 3 47 7 47) s) (fun s => s.drowsy) = some [bankKey 3 47 7 47]) ∧
    (w0.powerOf 47).bankOff = true ∧ same (exec (.bankDrowsyEntry 3 47 7 47) w0) (.next w0) = true ∧
    (w0.groups.any (fun e => e.2.placed && e.2.stage.isSome && e.2.banks.contains (bankKey 0 0 0 0))) = true ∧
    same (exec (.bankDrowsyEntry 0 0 0 0) w0) (.next w0) = true := by (repeat' apply And.intro) <;> decide +kernel

def wBoot (started : Bool) (state : Nat) : State := { w0 with boot := ⟨started, state, 0, 0, false, 1, false, [7]⟩ }
def boot? (r : Result) : Option (Nat × Nat × Bool) := after r fun s => (s.boot.state, s.boot.err, s.boot.hostImage)

/-- PowerAndBoot: the boot's states, and a host image that the host's map refuses. -/
theorem witness_boot :
    (∃ p, after (exec .bootStart (wBoot false 0)) (fun s => s.boot) = some ⟨true, 0, 0, 0, false, 2, p, [7]⟩) ∧
    same (exec .bootStart (wBoot true 1)) (.next (wBoot true 1)) = true ∧
    boot? (exec .bootImgGo (wBoot true 2)) = some (3, 0, false) ∧
    (let s := { wBoot true 3 with ioMap := (wBoot true 3).ioMap.set 0 none }
     s.ioRead 0 s.boot.base 4096 = .fail s ∧ boot? (exec (.bootVerifyComplete true 0) s) = some (2, 4, false)) ∧
    boot? (exec .bootImgGo (wBoot true 1)) = some (1, 0, false) :=
  ⟨⟨_, rfl⟩, by decide +kernel, by decide +kernel, ⟨rfl, by decide +kernel⟩, by decide +kernel⟩

/-- PowerAndBoot: the check of an image either passes, and the firmware runs, or fails with its code; an outcome that the check does not have is none. -/
theorem witness_boot_check (state : Nat) (s : State) (img : List Byte) (hs : s = wBoot true state) (h : state = 0 ∨ state = 3) (hi : s.bootImage = .ok s img) :
    ((Config.firmwareCheck img).val = 0 ∧ boot? (exec (.bootVerifyComplete true 0) s) = some (1, 0, decide (state = 3)) ∨
      (Config.firmwareCheck img).val ≠ 0 ∧
        boot? (exec (.bootVerifyComplete false (Config.firmwareCheck img).val) s) = some (2, (Config.firmwareCheck img).val, false)) ∧
    exec (.bootVerifyComplete false ((Config.firmwareCheck img).val + 1)) s = .next s := by
  subst hs
  have e (ok : Bool) (err : Nat) : exec (.bootVerifyComplete ok err) (wBoot true state) = execBootVerifyComplete ok err (wBoot true state) := rfl
  simp only [e, execBootVerifyComplete, hi]
  rcases h with rfl | rfl <;> by_cases hc : (Config.firmwareCheck img).val = 0 <;>
    simp [hc, boot?, after, Boot.verified, wBoot]

/-- The check has an image to see: the stored one, and in STATE 3 the host's at BASE. -/
theorem witness_boot_images : (wBoot true 0).bootImage = .ok (wBoot true 0) [7] ∧
    ∃ b img, (wBoot true 3).ioRead 0 (wBoot true 3).boot.base 4096 = .ok (wBoot true 3) b ∧ (wBoot true 3).bootImage = .ok (wBoot true 3) img := by
  have hp : (wBoot true 3).PlainHost := ⟨rfl, rfl, rfl, rfl⟩
  obtain ⟨b, hb⟩ := State.ioRead_plain hp 0 (wBoot true 3).boot.base 4096
  obtain ⟨img, hi⟩ := State.ioRead_plain hp 0 (wBoot true 3).boot.base (Config.imageLength b).val
  refine ⟨rfl, b, img, hb, ?_⟩
  have h3 : (wBoot true 3).boot.state = 3 := rfl
  rw [State.bootImage, if_pos h3, hb]
  exact hi

/-- Firmware runs, one Protrum module of die 0 is ready; a slice of the last quad failed. -/
def wUp : State := { w0 with boot := ⟨true, 1, 0, 0, false, 1, false, []⟩, ready := [.linkModule 0 2 1, .slice 0 22], failed := [.slice 0 23] }

/-- PowerAndBoot: a DRAM device and a slice become ready and are zeroed, a quad with a failed slice fails, a link module fails. -/
theorem witness_functions :
    wUp.serving = true ∧ unitExists (.slice 0 0) = true ∧ wUp.unitMayStart (.slice 0 0) = true ∧ wUp.unitFails (.slice 0 0) = false ∧
    wUp.unitMayStart (.slice 1 0) = false ∧ wUp.unitMayStart (.quad 0 0) = false ∧ wUp.unitMayStart (.quad 0 11) = true ∧ wUp.unitFails (.quad 0 11) = true ∧
    after (exec (.functionReady (.slice 0 1) true) { wUp with layer := (wWay way0).layer }) (fun s => (s.layer, s.ready.length)) = some ([], 3) ∧
    after (exec (.functionReady (.slice 0 1) false) wUp) (fun s => (s.failed.length, s.ready.length)) = some (2, 2) ∧
    after (exec (.functionReady (.linkModule 1 2 3) false) wUp) (fun s => ((s.linkEnd 5 0 3).state, s.failed.length)) = some (4, 2) ∧
    after (exec (.functionReady (.dram 0 0) true) { wUp with dram := [⟨0, 9⟩] }) (fun s => (s.dram, s.ready.length)) = some ([], 3) := by
  (repeat' apply And.intro) <;> decide +kernel

/-- PowerAndBoot: a virtual function's reset loses its context; the physical function's reset leaves memory and drops the rest; an SPDM answer. -/
theorem witness_resets :
    w0.dead = false ∧ Map.sorted w0.ctxs = true ∧ Map.sorted w0.hq = true ∧ Map.sorted w0.bias = true ∧ (w0.ctxs.get? 4).map (fun c => c.fn) = some 1 ∧
    after (exec (.vfFlr 1) w0) (fun s => ((s.ctxs.get? 4).map (fun c => c.state), s.groups.length, s.quadOwner)) = some (some .lost, 0, w0.quadOwner) ∧
    after (exec (.vfFlr 2) w0) (fun s => decide (s.ctxs = w0.ctxs)) = some true ∧
    after (exec .pfFlr { w0 with layer := (wWay way0).layer }) (fun s => (s.groups.length, s.layer.length, s.boot.started)) = some (0, 2, true) ∧
    after (exec (.spdmGetVersion []) { w0 with boot := ⟨true, 1, 0, 0, true, 1, false, []⟩ }) (fun s => s.spdm.take 2) = some [0x10, 4] ∧
    w0.serving = false ∧ same (exec (.spdmGetVersion []) w0) (.next w0) = true ∧
    (let s : State := { w0 with boot := ⟨true, 1, 0, 0, true, 1, false, []⟩ }
     s.serving = true ∧ after (exec (.spdmGetMeasurements [0x12, 0xE0, 0, 4]) s) (fun s => s.spdm.take 16) =
       some [0x12, 0x60, 0, 0, 1, 8, 0, 0, 4, 1, 4, 0, 0x83, 1, 0, 1]) := by
  (repeat' apply And.intro) <;> decide +kernel

/-! ## Code pages -/

/-- A page of code that group 1 waits for, in graphics DRAM, its translation in the core's cache and d its digest in the image. -/
def wPage (d : BitVec 256) : State :=
  let s1 := w { (only0 g0) with wait := .fetch } { t0 with image := { t0.image with sects := [⟨0, 0, 4096, 0, 0⟩], bases := [0x1000], digests := [d] } }
  { s1 with
    codePages := [], l1 := l1s [⟨1, 1, 12, 0x1000, 2 ^ 39 + 4096, true, true, true, false⟩]
    hdm := some (2 ^ 39), dram := [⟨4096, 7⟩], ready := [.linkModule 0 2 0, deviceOfDpa 4096] }

/-- The page's bytes. -/
def code0 : List Byte := (wPage 0).bytesAt (.dram 4096) 4096

theorem readPage0 (d : BitVec 256) : (wPage d).readPage (.fetch 1) 0 0 1 1 1 = .ok (wPage d) code0 := by
  have h0 : ({ wPage d with waits := (wPage d).waits.filter (fun w => !(w.owner == .fetch 1) || w.page == 1) } : State) = wPage d := rfl
  have h1 : (wPage d).needPages (.fetch 1) 0 0 1 1 .fetch [1] = wPage d := rfl
  have h2 : (wPage d).standing (.fetch 1) = .ready := rfl
  have h3 : (wPage d).hpaOf (.fetch 1) 0 0 1 1 (1 * 4096) .fetch = some (2 ^ 39 + 4096) := rfl
  have h4 : (wPage d).locAt 0 (2 ^ 39 + 4096) = .at (.dram 4096) := rfl
  have h5 : (wPage d).poisoned (.dram 4096) 4096 = false := rfl
  have h6 : ((wPage d).obtainAt (.dram 4096) 4096).dropWaits (.fetch 1) = wPage d := rfl
  have h7 : ∀ n a, (wPage d).bytesAt (.dram a) n = (wPage 0).bytesAt (.dram a) n := by
    intro n
    induction n with
    | zero => intro a; rfl
    | succ n ih => intro a; exact congrArg (List.cons ((wPage 0).byteAt (.dram a))) (ih _)
  simp only [State.readPage, h0, h1, h2, h3, h4, h5, h6, h7 4096 4096, Bool.false_eq_true, if_false, code0]

/-- EscalationEvents: a page whose digest is the image's, and one whose digest is not. -/
theorem witness_pages (d : BitVec 256) : let s := wPage d
    (∃ g, (s.fetchers 0 0 1 1 1).find? (fun e => s.awake e.2) = some (1, g) ∧ g.run = some (0x1000, 1) ∧ s.groups.get? 1 = some g ∧ g.ctx = 4) ∧
    s.readPage (.fetch 1) 0 0 1 1 1 = .ok s code0 ∧ (s.codePage? 0 0 1 1 1).isNone = true ∧
    (∃ t, s.teams.get? 2 = some t ∧ pageDigest t.image 1 = some d ∧ (d = Config.sm3 code0 → pageDigest t.image 1 = some (Config.sm3 code0)) ∧
      (d ≠ Config.sm3 code0 → pageDigest t.image 1 ≠ some (Config.sm3 code0))) ∧ s.unstopped 2 1 4 2 := by
  refine ⟨⟨_, rfl, rfl, rfl, rfl⟩, readPage0 d, rfl, ⟨_, rfl, rfl, ?_, ?_⟩, ?_⟩
  · intro h; rw [← h]; rfl
  · intro h e; exact h (Option.some.inj e)
  · intro e he; cases he

/-! ## Decoding, steps and reset -/

/-- DecodeEncode: a long instruction with a guard and a memory instruction of the stacked form, each well formed, with its words. -/
theorem witness_encode :
    (Instr.fmaF32 ⟨.reg 1, .reg 2, .reg 3, .reg 4, ⟨0, false⟩, 0, 0, 0⟩).WellFormed ∧
    encode (.fmaF32 ⟨.reg 1, .reg 2, .reg 3, .reg 4, ⟨0, false⟩, 0, 0, 0⟩) = some (0x40010203, some 0x04000000) ∧
    (Instr.nop).WellFormed ∧ encode .nop = some (0x80000000, none) := by (repeat' apply And.intro) <;> decide +kernel

/-- StepRunsDecoded: the focus group fetches nop; a page held by the core that memory agrees with; an event; pending work. -/
theorem witness_steps :
    let s := State.reset.load (toBytes 0x80000000 8)
    (∃ g, s.groups.get? 1 = some g ∧ s.Fetches g 0x1000 0xFFFFFFFF 0x80000000 0) ∧
    (∃ g, w0.groups.get? 1 = some g ∧ w0.Fetches g 0x1000 0xFFFFFFFF 0 0 ∧ decode 0 0 = .illegal) ∧
    canonical 0x1000 = true ∧ canonical 0x1004 = true ∧ (s.codePage? 0 0 1 1 1).isSome = true ∧ s.currentWord 0 0 1 1 0x1000 = some 0x80000000 ∧ s.currentWord 0 0 1 1 0x1004 = some 0 ∧
    (s.codePage? 0 0 1 1 1).map (fun c => (Memory.word c.data 0, Memory.word c.data 4)) = some (0x80000000, 0) ∧ (s.lookup 0 0 1 1 0x1000).isSome = true ∧
    (s.lookup 0 0 1 1 0x1004).isSome = true ∧
    after (step { s with agenda := [.event .bootStart] }) (fun s => s.boot.started) = some true ∧
    (let d : State := { s with codePages := s.codePages.map fun c => { c with direct := true, grants := [1, 7] } }
     (d.useFetch 1).codePages.map (fun c => c.grants) = [[7]] ∧ ({ d with stalled := true } : State).stalled = true ∧
       after (fetched 1 (.next { d with stalled := true })) (fun s => s.codePages.map fun c => c.grants) = some [[1, 7]] ∧
       after (step d) (fun s => s.codePages.map fun c => c.grants) = some [[7]]) ∧
    after (step { s with tick := 1, stalled := true, work := [.invalidateCompletion 1 31] }) (fun s => (s.work.length, s.stalled, s.focus)) =
      some (0, false, 1) := by
  refine ⟨⟨_, rfl, ?_⟩, ⟨_, rfl, ?_⟩, ?_⟩
  all_goals (repeat' apply And.intro) <;> decide +kernel

/-- MemoriesKeepForm: the state after reset, and one with bytes in two memories, keep the form, and a step from the latter answers a next state. -/
theorem witness_memories :
    State.reset.MemoriesOk ∧ (wWay way0).MemoriesOk ∧ after (step (wWay way0)) (fun s => s.layer.wf) = some true := by
  refine ⟨⟨?_, ?_, ?_, ?_, ?_⟩, ⟨?_, ?_, ?_, ?_, ?_⟩, ?_⟩
  case refine_5 => intro b h; cases h
  case refine_10 => intro b h; cases h
  all_goals decide +kernel

end Sys2Proof.Tests
end

section
/-! PROOFS. The decode checks of R172 as equivalences, and the words of R161 to R181 that DecodeWords writes out. -/

namespace Sys2Proof

/-- What decode answers is an instruction exactly where both checks of R172 pass: the opcode is defined, and the candidate read from the fields
is well formed and has the very words that were read. -/
theorem decode_eq_instr_iff {w1 w2 : W32} {i : Instr} {long : Bool} :
    decode w1 w2 = .instr i long ↔
      opcodeOk w1 w2 = true ∧ parse w1 w2 = some i ∧ extended (fOp w1) = long ∧ i.wf = true ∧
        encode i = some (w1, if long then some w2 else none) := by
  unfold decode
  by_cases hop : opcodeOk w1 w2 = true
  case neg => simp [hop]
  cases hp : parse w1 w2 with
  | none => simp [hop]
  | some j =>
    by_cases hj : j.wf = true ∧ encode j = some (w1, if extended (fOp w1) then some w2 else none)
    case pos =>
      simp only [hop, hj.1, hj.2, if_true, beq_self_eq_true, Bool.and_self, Decoded.instr.injEq, Option.some.injEq, true_and]
      exact ⟨fun ⟨hi, hl⟩ => hl ▸ hi ▸ ⟨rfl, rfl, hj⟩, fun ⟨hi, hl, _⟩ => ⟨hi, hl⟩⟩
    case neg =>
      simp only [hop, if_true, Bool.and_eq_true, beq_iff_eq, hj, if_false, reduceCtorEq, false_iff, Option.some.injEq, true_and]
      rintro ⟨rfl, rfl, hwf⟩
      exact hj hwf

/-- Check 1 of R172 is the opcode's alone. -/
theorem decode_eq_illegal_iff {w1 w2 : W32} : decode w1 w2 = .illegal ↔ opcodeOk w1 w2 = false := by
  unfold decode
  cases opcodeOk w1 w2 with
  | false => simp
  | true => cases parse w1 w2 with
    | none => simp
    | some i => simp only [if_true, reduceCtorEq, iff_false]; split_ifs <;> simp

/-- A bit that the encoding does not give back from the candidate's fields is check 2 of R172. -/
theorem decode_eq_reserved_of_encode_ne {w1 w2 : W32} {i : Instr} (hop : opcodeOk w1 w2 = true) (hp : parse w1 w2 = some i)
    (he : encode i ≠ some (w1, if extended (fOp w1) then some w2 else none)) : decode w1 w2 = .reserved := by
  simp [decode, hop, hp, he]

/-- The first four bytes in order, lowest first, are the whole of an instruction of the short form (R6, R161). -/
theorem decodeBytes_of_short {b0 b1 b2 b3 : Byte} {r : List Byte} (h : extended (fOp (wordOfBytes b0 b1 b2 b3)) = false) :
    decodeBytes (b0 :: b1 :: b2 :: b3 :: r) = some (decode (wordOfBytes b0 b1 b2 b3) 0, r) := by
  simp [decodeBytes, h]

/-- An instruction without an extension word. -/
theorem decode_short {w1 : W32} {i : Instr} (hop : opcodeOk w1 0 = true) (hp : parse w1 0 = some i)
    (hx : extended (fOp w1) = false) (hwf : i.wf = true) (he : encode i = some (w1, none)) : decode w1 0 = .instr i false :=
  decode_eq_instr_iff.2 ⟨hop, hp, hx, hwf, he⟩

/-- An instruction with its extension word. -/
theorem decode_long {w1 w2 : W32} {i : Instr} (hop : opcodeOk w1 w2 = true) (hp : parse w1 w2 = some i)
    (hx : extended (fOp w1) = true) (hwf : i.wf = true) (he : encode i = some (w1, some w2)) : decode w1 w2 = .instr i true :=
  decode_eq_instr_iff.2 ⟨hop, hp, hx, hwf, he⟩

/-- The word of iadd.s32, which DecodeWords reads once as a word and once as bytes. -/
theorem decode_iaddS32_word : decode 0x18030102#32 0#32 = .instr (.iaddS32 (.reg 3) (.reg 1) (.reg 2)) false :=
  decode_short rfl rfl rfl rfl rfl

/-- Settles O56: each word passes both checks of R172 with the fields of its class; cell 0x00 of the lane map is undefined (check 1), while fsqrt
with A set and nop with B set lose those bits in the encoding (check 2). -/
theorem decodeWords : Obligations.DecodeWords := by
  unfold Obligations.DecodeWords
  refine ⟨?nop, decode_iaddS32_word, ?fadd, ?fma, ?movi, ?ld, ?sadd, ?bra, ?trap, ?tret, ?sysrd, ?mzero,
    ?undefinedCell, ?fsqrtWithA, ?nopWithB, ?bytes⟩
  case nop | fadd | sadd | bra | trap | tret | sysrd | mzero => exact decode_short rfl rfl rfl rfl rfl
  case fma | movi | ld => exact decode_long rfl rfl rfl rfl rfl
  case undefinedCell => exact decode_eq_illegal_iff.2 rfl
  case fsqrtWithA =>
    have hp : parse 0x07010203#32 0#32 = some (.fsqrtF32 (.reg 1) (.reg 3)) := rfl
    exact decode_eq_reserved_of_encode_ne rfl hp (by decide)
  case nopWithB =>
    have hp : parse 0x80000001#32 0#32 = some .nop := rfl
    exact decode_eq_reserved_of_encode_ne rfl hp (by decide)
  case bytes =>
    have hw : wordOfBytes 0x02 0x01 0x03 0x18 = 0x18030102#32 := rfl
    rw [decodeBytes_of_short (by rw [hw]; rfl), hw]
    exact congrArg (fun d => some (d, [0xFF])) decode_iaddS32_word

end Sys2Proof
end

section
/-! PROOFS. Laws of finite maps and memories that the host's commands need. -/

namespace Sys2Proof

variable {α β : Type}

theorem Map.mem_of_get? {m : Map α} {n : Nat} {v : α} (h : m.get? n = some v) : (n, v) ∈ m := by
  induction m with
  | nil => simp at h
  | cons e r ih =>
    rw [Map.get?_cons] at h
    split at h
    · simp_all [Prod.ext_iff]
    · exact List.mem_cons_of_mem _ (ih h)

theorem Map.get?_eq_some_iff {m : Map α} (hs : Map.sorted m = true) {n : Nat} {v : α} : m.get? n = some v ↔ (n, v) ∈ m := by
  refine ⟨Map.mem_of_get?, fun h => ?_⟩
  induction m with
  | nil => simp at h
  | cons e r ih =>
    obtain ⟨k, w⟩ := e
    obtain ⟨ha, hr⟩ := (Map.sorted_cons k w r).1 hs
    rcases List.mem_cons.1 h with heq | hmem
    · simp_all [Map.get?_cons]
    · have hlt : k < n := ha _ hmem
      rw [Map.get?_cons, if_neg (by omega)]
      exact ih hr hmem

theorem Map.getD_eq (m : Map α) (n : Nat) (d : α) : m.getD n d = (m.get? n).getD d := by
  unfold Map.getD
  cases m.get? n <;> rfl

theorem Map.get?_modify (m : Map α) (n k : Nat) (f : α → α) : (m.modify n f).get? k = if k = n then (m.get? k).map f else m.get? k := by
  unfold Map.modify
  by_cases hk : k = n
  · subst hk
    cases h : m.get? k <;> simp [h]
  · cases h : m.get? n <;> simp [hk, Map.get?_set_ne _ _ (Ne.symm hk)]

/-- Values may change along a map, keys kept: what a change keeps of each value, a lookup finds. -/
theorem Map.get?_map (m : Map α) (f : Nat × α → Nat × α) (g : α → β) (hf : ∀ e, (f e).1 = e.1 ∧ g (f e).2 = g e.2) (n : Nat) :
    (Map.get? (m.map f) n).map g = (m.get? n).map g := by
  induction m with
  | nil => rfl
  | cons e r ih =>
    obtain ⟨hk, hv⟩ := hf e
    rw [List.map_cons, Map.get?_cons, Map.get?_cons, hk]
    split
    · exact congrArg some hv
    · exact ih

/-- Keys set one after another: a key that is set holds its value, where all that set it agree. -/
theorem Map.get?_foldl_set (l : List β) (key : β → Nat) (val : β → α) (m : Map α) (n : Nat) (v : α) (hv : ∀ u ∈ l, key u = n → val u = v) :
    (l.foldl (fun m u => m.set (key u) (val u)) m).get? n = if n ∈ l.map key then some v else m.get? n := by
  induction l generalizing m with
  | nil => simp
  | cons u r ih =>
    rw [List.foldl_cons, ih _ fun u hu => hv u (List.mem_cons_of_mem _ hu), Map.get?_set]
    by_cases hk : key u = n
    · simp [hk, hv u List.mem_cons_self hk]
    · simp [hk, Ne.symm hk]

theorem Map.getD_foldl_set (l : List Nat) (m : Map α) (v d : α) (n : Nat) : (l.foldl (fun m q => m.set q v) m).getD n d = if n ∈ l then v else m.getD n d := by
  rw [Map.getD_eq, Map.get?_foldl_set l (fun q => q) (fun _ => v) m n v fun _ _ _ => rfl, List.map_id', Map.getD_eq]
  split <;> rfl

theorem Map.get?_foldl_erase (l : List β) (key : β → Nat) (m : Map α) (hs : Map.sorted m = true) (n : Nat) :
    (l.foldl (fun m u => m.erase (key u)) m).get? n = if n ∈ l.map key then none else m.get? n := by
  induction l generalizing m with
  | nil => simp
  | cons u r ih =>
    rw [List.foldl_cons, ih _ (Map.sorted_erase m _ hs)]
    by_cases hk : key u = n
    · subst hk; simp [Map.get?_erase_self m _ hs]
    · simp [Ne.symm hk, Map.get?_erase_ne m hk]

/-- A filter that looks at keys alone keeps each lookup or makes it fail. -/
theorem Map.get?_filter_key (m : Map α) (p : Nat → Bool) (n : Nat) : Map.get? (m.filter fun e => p e.1) n = if p n then m.get? n else none := by
  induction m with
  | nil => simp
  | cons e r ih =>
    obtain ⟨k, v⟩ := e
    by_cases hk : k = n
    · subst hk
      cases hp : p k <;> simp [Map.get?_cons, hp, ih]
    · cases hp : p k <;> simp [Map.get?_cons, hp, hk, ih]

theorem bit_eq_testBit (x n : Nat) : bit x n = x.testBit n := by
  rw [bit, Nat.testBit_eq_decide_div_mod_eq, Nat.shiftRight_eq_div_pow]
  rfl

namespace Machine

/-- What a clear leaves: 0 in its range, every other byte as it was. -/
theorem Memory.get_clear (m : Memory) (a n k : Nat) : (m.clear a n).get k = if a ≤ k ∧ k < a + n then 0 else m.get k := by
  unfold Memory.clear Memory.get
  rw [Map.getD_eq, Map.getD_eq, Map.get?_filter_key m (fun k => decide (k < a) || decide (a + n ≤ k))]
  by_cases hk : a ≤ k ∧ k < a + n
  · rw [if_neg (by simp; omega), if_pos hk]; rfl
  · rw [if_pos (by simp; omega), if_neg hk]

/-- A range cleared and then written from its start: the data, and 0 behind it. -/
theorem Memory.get_clear_write (m : Memory) (a n : Nat) (d : List Byte) (k : Nat) (h : m.wf = true) (hd : d.length ≤ n) :
    ((m.clear a n).write a d).get k = if a ≤ k ∧ k < a + n then d.getD (k - a) 0 else m.get k := by
  have hw := Memory.wf_clear m a n h
  by_cases hin : a ≤ k ∧ k < a + d.length
  · have hval := Memory.get_write_in (m.clear a n) a d (k - a) hw (by omega)
    rw [show a + (k - a) = k by omega] at hval
    rw [hval, if_pos (by omega), List.getD_eq_getElem]
  · rw [Memory.get_write_out _ _ _ _ hw (by omega), Memory.get_clear]
    by_cases hr : a ≤ k ∧ k < a + n
    · rw [if_pos hr, if_pos hr, List.getD_eq_default _ _ (by omega)]
    · rw [if_neg hr, if_neg hr]

end Machine

end Sys2Proof
end

section
/-! PROOFS. What a completion, a piece of pending work and a call of the queues change, and the frames of the host's commands. -/

namespace Sys2Proof.Machine

/-! ## Pending work -/

/-- A state that differs by more pending work alone. -/
def State.Wakes (s s' : State) : Prop := ∃ w, s' = { s with work := w } ∧ s.work ⊆ w

theorem State.Wakes.refl (s : State) : s.Wakes s := ⟨s.work, rfl, fun _ h => h⟩

theorem State.Wakes.trans {s t u : State} (h1 : s.Wakes t) (h2 : t.Wakes u) : s.Wakes u := by
  obtain ⟨w, rfl, hw⟩ := h1
  obtain ⟨x, rfl, hx⟩ := h2
  exact ⟨x, rfl, fun _ h => hx (hw h)⟩

theorem State.wakes_push (s : State) (a : Act) : s.Wakes (s.push a) := by
  unfold State.push
  split
  · exact .refl s
  · exact ⟨_, rfl, List.subset_append_left _ _⟩

theorem State.mem_work_push (s : State) (a : Act) : a ∈ (s.push a).work := by
  unfold State.push
  split
  · simpa using ‹s.work.contains a = true›
  · simp

theorem State.wakes_foldl {β : Type} (l : List β) (f : State → β → State) (hf : ∀ (s : State) (x : β), s.Wakes (f s x)) (s : State) : s.Wakes (l.foldl f s) :=
  List.foldlRecOn l f (motive := fun t => s.Wakes t) (.refl s) fun t ht x _ => ht.trans (hf t x)

/-- Work asked for once for each element of a list is pending. -/
theorem State.mem_work_pushes {β : Type} (l : List β) (f : β → Act) (s : State) {x : β} (hx : x ∈ l) :
    f x ∈ (l.foldl (fun s x => s.push (f x)) s).work := by
  induction l generalizing s with
  | nil => simp at hx
  | cons y r ih =>
    rcases List.mem_cons.1 hx with rfl | hx
    · obtain ⟨w, hw, hsub⟩ := State.wakes_foldl r (fun s x => s.push (f x)) (fun s x => s.wakes_push (f x)) (s.push (f x))
      rw [List.foldl_cons, hw]
      exact hsub (s.mem_work_push (f x))
    · exact ih _ hx

theorem State.wakes_offerTasks (s : State) : s.Wakes s.offerTasks := by
  unfold State.offerTasks
  refine (State.wakes_foldl _ _ (fun t e => ?_) s).trans (State.wakes_foldl _ _ (fun t c => ?_) _)
  · split
    · exact .refl t
    · exact t.wakes_push _
  · split
    · exact .refl t
    · refine State.wakes_foldl _ _ (fun u n => ?_) t
      split
      · exact u.wakes_push _
      · exact .refl u

theorem State.wakes_rouse (s : State) : s.Wakes s.rouse :=
  (State.wakes_foldl _ _ (fun t d => t.wakes_push (.gangStart d)) s).trans (State.wakes_offerTasks _)

/-! ## Completions -/

theorem State.endJob_eq (s : State) (k fn tag status ctx r0 : Nat) :
    ∃ q w, s.endJob k fn tag status ctx r0 = { s with jobs := s.jobs.erase k, hq := q, work := w } := by
  unfold State.endJob State.complete State.postEvent
  obtain ⟨w, hw, -⟩ := State.wakes_push _ _
  exact ⟨_, w, hw⟩

@[simp] theorem State.endJob_jobs (s : State) (k fn tag status ctx r0 : Nat) : (s.endJob k fn tag status ctx r0).jobs = s.jobs.erase k := by
  obtain ⟨q, w, h⟩ := s.endJob_eq k fn tag status ctx r0
  rw [h]

/-- The completion is the last entry made ready for its function's queue (R508). -/
theorem State.endJob_pending (s : State) (k fn tag status ctx r0 : Nat) :
    ((s.endJob k fn tag status ctx r0).queueOf fn).pending = (s.queueOf fn).pending ++ [(completion tag status ctx r0 0, none)] := by
  unfold State.endJob State.complete State.postEvent
  obtain ⟨w, hw, -⟩ := State.wakes_push _ _
  rw [hw]
  simp [State.queueOf, State.setQueue, Map.getD_set]

/-! ## The frames of commands -/

theorem pfCommand_of_not_serving {s : State} (h : s.serving = false) (fn : Nat) (cmd : Command) (k : Result) : pfCommand fn cmd s k = .next s := by
  simp [pfCommand, h]

theorem pfCommand_of_virtual {s : State} (h : s.serving = true) {fn : Nat} (hfn : fn ≠ 0) (cmd : Command) (k : Result) :
    pfCommand fn cmd s k = .next (s.complete fn cmd.tag 0x11 cmd.ctx 0) := by
  simp [pfCommand, h, hfn]

theorem pfCommand_of_physical {s : State} (h : s.serving = true) (cmd : Command) (k : Result) : pfCommand 0 cmd s k = k := by
  simp [pfCommand, h]

theorem ctxCommand_of_not_serving {s : State} (h : s.serving = false) (fn : Nat) (cmd : Command) (ended : Bool) (k : Ctx → Result) :
    ctxCommand fn cmd ended s k = .next s := by
  simp [ctxCommand, h]

/-- A module that does not serve takes no command (R462, R538). -/
theorem exec_of_not_serving {s : State} (h : s.serving = false) {fn op : Nat} {cmd : Command} {i : Instr} (hi : CommandRow fn op cmd i) :
    exec i s = .next s := by
  rcases hi with ⟨-, rfl⟩ | ⟨-, rfl⟩ | ⟨-, rfl⟩ | ⟨-, rfl⟩ | ⟨-, rfl⟩ | ⟨-, rfl⟩ | ⟨-, rfl⟩ | ⟨-, rfl⟩ | ⟨-, rfl⟩ | ⟨-, rfl⟩ | ⟨-, rfl⟩ |
    ⟨-, rfl⟩ | ⟨-, rfl⟩ | ⟨-, rfl⟩
  · show execCtxnew fn cmd s = _; simp [execCtxnew, h]
  · exact ctxCommand_of_not_serving h ..
  · exact ctxCommand_of_not_serving h ..
  · show execAnswer fn cmd s = _; simp [execAnswer, h]
  · exact ctxCommand_of_not_serving h ..
  · exact ctxCommand_of_not_serving h ..
  · show execVacate fn cmd s = _; simp [execVacate, h]
  · show execHostReturn fn cmd s = _; simp [execHostReturn, h]
  all_goals exact pfCommand_of_not_serving h ..

/-! ## The command queue -/

/-- A command runs as the row of its opcode (R509). -/
theorem runCommand_of_row {fn op : Nat} {cmd : Command} {i : Instr} (h : CommandRow fn op cmd i) (s : State) : runCommand fn op cmd s = exec i s := by
  rcases h with ⟨rfl, rfl⟩ | ⟨rfl, rfl⟩ | ⟨rfl, rfl⟩ | ⟨rfl, rfl⟩ | ⟨rfl, rfl⟩ | ⟨rfl, rfl⟩ | ⟨rfl, rfl⟩ | ⟨rfl, rfl⟩ | ⟨rfl, rfl⟩ | ⟨rfl, rfl⟩ |
    ⟨rfl, rfl⟩ | ⟨rfl, rfl⟩ | ⟨rfl, rfl⟩ | ⟨rfl, rfl⟩ <;> rfl

theorem runCommand_of_no_row {fn op : Nat} {cmd : Command} (h : ∀ i, ¬CommandRow fn op cmd i) (s : State) :
    runCommand fn op cmd s = .next (s.complete fn cmd.tag 0x10 cmd.ctx 0) := by
  unfold runCommand
  split
  case h_15 => rfl
  all_goals simp [CommandRow] at h

end Sys2Proof.Machine
end

section
/-! PROOFS. The command ring (R507, R508, R512), and the commands on vectors, quads and granules (R44, R90, R502, R509). -/

namespace Sys2Proof.Machine

/-! ## The doorbells and the ring -/

theorem execHqCmdtailDoorbell_of_index {s : State} (hs : s.serving = true) (fn : Nat) {index : Nat} (h : index < 2 ^ 16) :
    execHqCmdtailDoorbell fn index s = .next ((s.setQueue fn { (s.queueOf fn) with cmdTail := index }).push (.commandIntake fn)) := by
  rw [execHqCmdtailDoorbell, hs, if_neg (by simp), if_neg (by omega)]

theorem execHqEvtheadWrite_of_index {s : State} (hs : s.serving = true) (fn : Nat) {index : Nat} (h : index < 2 ^ 16) :
    execHqEvtheadWrite fn index s = .next ((s.setQueue fn { (s.queueOf fn) with evtHead := index }).push (.eventRecordWrite fn)) := by
  rw [execHqEvtheadWrite, hs, if_neg (by simp), if_neg (by omega)]

theorem execHqCmdtailDoorbell_of_reserved {s : State} (hs : s.serving = true) (fn : Nat) {index : Nat} (h : 2 ^ 16 ≤ index) :
    execHqCmdtailDoorbell fn index s = .next (s.rsvWrite fn) := by
  rw [execHqCmdtailDoorbell, hs, if_neg (by simp), if_pos h]

theorem execHqEvtheadWrite_of_reserved {s : State} (hs : s.serving = true) (fn : Nat) {index : Nat} (h : 2 ^ 16 ≤ index) :
    execHqEvtheadWrite fn index s = .next (s.rsvWrite fn) := by
  rw [execHqEvtheadWrite, hs, if_neg (by simp), if_pos h]

/-- An entry that has been read starts (R508). -/
theorem runIntake_of_read {s s0 : State} {fn : Nat} {b : List Byte} (hs : s.serving = true) (hen : (s.queueOf fn).en = true)
    (hne : (s.queueOf fn).cmdHead % 2 ^ (s.queueOf fn).cmdLog2 ≠ (s.queueOf fn).cmdTail % 2 ^ (s.queueOf fn).cmdLog2)
    (hr : s.ioRead fn ((s.queueOf fn).cmdBase + 64 * ((s.queueOf fn).cmdHead % 2 ^ (s.queueOf fn).cmdLog2)) 64 = .ok s0 b) :
    runIntake fn s = startCommand fn b s0 := by
  simp [runIntake, hs, hen, hne, hr]

theorem startCommand_of_switching {s : State} {fn : Nat} {b : List Byte} (h : s.switching (commandOf b).ctx = true) (h0 : (commandOf b).ctx ≠ 0) :
    startCommand fn b s = .next (s.push (.commandIntake fn)) := by
  simp [startCommand, h, h0]

theorem not_held {s : State} {ctx : Nat} (h : s.switching ctx = false ∨ ctx = 0) : (s.switching ctx && !(ctx == 0)) = false := by
  simpa [imp_iff_not_or] using h

/-- The ring with its head past the entry that starts, and what follows it taken next (R512). -/
def State.pastHead (s : State) (fn : Nat) : State :=
  (s.setQueue fn { (s.queueOf fn) with cmdHead := ((s.queueOf fn).cmdHead + 1) % 2 ^ (s.queueOf fn).cmdLog2 }).push (.commandIntake fn)

theorem startCommand_of_row {s : State} {fn : Nat} {b : List Byte} {i : Instr} (h : s.switching (commandOf b).ctx = false ∨ (commandOf b).ctx = 0)
    (h1 : leField b 1 1 = 0) (h2 : leField b 0x20 32 = 0) (hi : CommandRow fn (leField b 0 1) (commandOf b) i) :
    startCommand fn b s = if s.commandWaits fn (leField b 0 1) (commandOf b) then .next (s.push (.commandIntake fn)) else exec i (s.pastHead fn) := by
  simp [startCommand, not_held h, h1, h2, runCommand_of_row hi, State.pastHead]

theorem commandWaits_of_no_row {s : State} {fn op : Nat} {cmd : Command} (h : ∀ i, ¬CommandRow fn op cmd i) : s.commandWaits fn op cmd = false := by
  unfold State.commandWaits
  split
  case h_3 => rfl
  all_goals simp [CommandRow] at h

/-- A reserved bit that is set, or an opcode that is not listed (R508, R509). -/
theorem startCommand_of_malformed {s : State} {fn : Nat} {b : List Byte} (h : s.switching (commandOf b).ctx = false ∨ (commandOf b).ctx = 0)
    (hb : leField b 1 1 ≠ 0 ∨ leField b 0x20 32 ≠ 0 ∨ ∀ i, ¬CommandRow fn (leField b 0 1) (commandOf b) i) :
    startCommand fn b s = .next ((s.pastHead fn).complete fn (commandOf b).tag 0x10 (commandOf b).ctx 0) := by
  by_cases hrsv : leField b 1 1 = 0 ∧ leField b 0x20 32 = 0
  · have hrow : ∀ i, ¬CommandRow fn (leField b 0 1) (commandOf b) i := by simpa [hrsv] using hb
    simp [startCommand, not_held h, hrsv, commandWaits_of_no_row hrow, runCommand_of_no_row hrow, State.pastHead]
  · have hbad : (!(leField b 1 1 == 0) || !(leField b 0x20 32 == 0)) = true := by simpa [imp_iff_not_or] using hrsv
    simp only [startCommand, not_held h, hbad, State.pastHead]
    rfl

/-! ## Quads -/

theorem quadsOf_pairwise (mask : Nat) : (quadsOf mask).Pairwise (· < ·) := List.Pairwise.filter _ List.pairwise_lt_range

/-- The mask of ascending quads has exactly their bits. -/
theorem testBit_quadMask (l : List Nat) (hl : l.Pairwise (· < ·)) :
    (∀ b, (∀ q ∈ l, q < b) → quadMask l < 2 ^ b) ∧ ∀ n, (quadMask l).testBit n = true ↔ n ∈ l := by
  induction l using List.reverseRecOn with
  | nil => exact ⟨fun b _ => Nat.two_pow_pos b, fun n => by simp [quadMask]⟩
  | append_singleton l q ih =>
    obtain ⟨hl, -, hq⟩ := List.pairwise_append.1 hl
    obtain ⟨hlt, hbits⟩ := ih hl
    have hlow : quadMask l < 2 ^ q := hlt q fun p hp => hq p hp q (by simp)
    have hmask : quadMask (l ++ [q]) = 2 ^ q * 1 + quadMask l := by simp [quadMask, Nat.add_comm]
    refine ⟨fun b hb => ?_, fun n => ?_⟩
    · have hle : 2 ^ (q + 1) ≤ 2 ^ b := Nat.pow_le_pow_right (by decide) (hb q (by simp))
      rw [hmask]
      omega
    · rw [hmask, Nat.two_pow_add_eq_or_of_lt hlow, Nat.mul_one, Nat.testBit_or, Bool.or_eq_true, hbits, Nat.testBit_two_pow]
      simp [or_comm, eq_comm]

theorem bit_quadMask {l : List Nat} (hl : l.Pairwise (· < ·)) (q : Nat) : bit (quadMask l) q = true ↔ q ∈ l := by
  rw [bit_eq_testBit]
  exact (testBit_quadMask l hl).2 q

theorem State.ownsQuads_iff (s : State) (fn : Nat) (qs : List Nat) : s.ownsQuads fn qs = true ↔ fn = 0 ∨ ∀ q ∈ qs, s.ownerOf q = fn := by
  simp [State.ownsQuads]

theorem State.not_ownsQuads {s : State} {fn : Nat} {qs : List Nat} (hfn : fn ≠ 0) (h : ∃ q ∈ qs, s.ownerOf q ≠ fn) : s.ownsQuads fn qs = false := by
  rw [Bool.eq_false_iff, ne_eq, State.ownsQuads_iff]
  push Not
  exact ⟨hfn, h⟩

/-! ## VACATE and RETURN -/

theorem execVacate_of_foreign {s : State} {fn : Nat} {cmd : Command} (hs : s.serving = true) (h : s.ownsQuads fn (quadsOf cmd.arg0.toNat) = false) :
    execVacate fn cmd s = .next (s.complete fn cmd.tag 0x11 cmd.ctx 0) := by
  simp [execVacate, hs, h]

theorem execHostReturn_of_foreign {s : State} {fn : Nat} {cmd : Command} (hs : s.serving = true)
    (h : s.ownsQuads fn (quadsOf cmd.arg0.toNat) = false) : execHostReturn fn cmd s = .next (s.complete fn cmd.tag 0x11 cmd.ctx 0) := by
  simp [execHostReturn, hs, h]

/-- R0 of the completion names the quads that hold mapped scratchpad (R502). -/
theorem execVacate_of_mapped {s : State} {fn : Nat} {cmd : Command} (hs : s.serving = true) (ho : s.ownsQuads fn (quadsOf cmd.arg0.toNat) = true)
    (h : ∃ q ∈ quadsOf cmd.arg0.toNat, s.quadMapped q = true) :
    execVacate fn cmd s = .next (s.complete fn cmd.tag 0x14 cmd.ctx (quadMask ((quadsOf cmd.arg0.toNat).filter s.quadMapped))) := by
  have hne : (quadsOf cmd.arg0.toNat).filter s.quadMapped ≠ [] := by simpa [List.filter_eq_nil_iff] using h
  simp [execVacate, hs, ho, hne]

/-- The quads of a VACATE that go: those of some partition that have not been vacated (R458). -/
def State.leavers (s : State) (mask : Nat) : List Nat := (quadsOf mask).filter fun q => !(s.ownerOf q == 0) && !(s.vacated.contains q)

theorem execVacate_of_free {s : State} {fn : Nat} {cmd : Command} (hs : s.serving = true) (ho : s.ownsQuads fn (quadsOf cmd.arg0.toNat) = true)
    (h : ∀ q ∈ quadsOf cmd.arg0.toNat, s.quadMapped q = false) :
    execVacate fn cmd s = .next ((({ s with
      vacating := s.vacating ++ (s.leavers cmd.arg0.toNat).filter (fun q => !(s.vacating.contains q))
      jobs := s.jobs.set s.nextId (.vacate fn cmd.tag cmd.arg0.toNat ((s.leavers cmd.arg0.toNat).map fun q => q / 12).eraseDups)
      nextId := s.nextId + 1 } : State).push (.vacateComplete s.nextId)).sendControl s.nextId ((s.leavers cmd.arg0.toNat).map fun q => q / 12).eraseDups) := by
  have hnil : (quadsOf cmd.arg0.toNat).filter s.quadMapped = [] := by simpa [List.filter_eq_nil_iff] using h
  simp only [execVacate, hs, ho, hnil, State.leavers]
  rfl

theorem execHostReturn_of_unvacated {s : State} {fn : Nat} {cmd : Command} (hs : s.serving = true)
    (ho : s.ownsQuads fn (quadsOf cmd.arg0.toNat) = true) (h : ∃ q ∈ quadsOf cmd.arg0.toNat, q ∉ s.vacated) :
    execHostReturn fn cmd s = .next (s.complete fn cmd.tag 0x15 cmd.ctx 0) := by
  have hall : ((quadsOf cmd.arg0.toNat).all fun q => s.vacated.contains q) = false := by simpa using h
  simp only [execHostReturn, hs, ho, hall]
  rfl

theorem execHostReturn_of_vacated {s : State} {fn : Nat} {cmd : Command} (hs : s.serving = true)
    (ho : s.ownsQuads fn (quadsOf cmd.arg0.toNat) = true) (h : ∀ q ∈ quadsOf cmd.arg0.toNat, q ∈ s.vacated) :
    execHostReturn fn cmd s = .next ((({ s with vacated := s.vacated.filter fun q => !((quadsOf cmd.arg0.toNat).contains q) } : State).rouse).complete
      fn cmd.tag 0 cmd.ctx 0) := by
  have hall : ((quadsOf cmd.arg0.toNat).all fun q => s.vacated.contains q) = true := by simpa using h
  simp only [execHostReturn, hs, ho, hall]
  rfl

/-! ## VECSET -/

theorem bits_toNat (x : W64) (lo n : Nat) (hn : 0 < n) : bits x.toNat (lo + n - 1) lo = (x.extractLsb' lo n).toNat := by
  rw [bits, BitVec.extractLsb'_toNat, show lo + n - 1 + 1 - lo = n by omega]

theorem execVecset_physical {s : State} (hs : s.serving = true) (cmd : Command) : execVecset 0 cmd s = .next (({ s with vectors :=
    ⟨(cmd.arg0.extractLsb' 0 16).toNat, (cmd.arg0.extractLsb' 16 16).toNat, (cmd.arg1.extractLsb' 0 32).toNat,
      (cmd.arg1.extractLsb' 32 32).toNat⟩ } : State).complete 0 cmd.tag 0 cmd.ctx 0) := by
  rw [execVecset, pfCommand_of_physical hs, ← bits_toNat cmd.arg0 0 16 (by decide), ← bits_toNat cmd.arg0 16 16 (by decide),
    ← bits_toNat cmd.arg1 0 32 (by decide), ← bits_toNat cmd.arg1 32 32 (by decide)]

/-! ## PARTSET -/

theorem execPartset_of_bad_function {s : State} {cmd : Command} (hs : s.serving = true) (h : cmd.arg0.toNat = 0 ∨ 16 < cmd.arg0.toNat) :
    execPartset 0 cmd s = .next (s.complete 0 cmd.tag 0x10 cmd.ctx 0) := by
  rw [execPartset, pfCommand_of_physical hs, if_pos h]

section
variable {s : State} {cmd : Command} (hs : s.serving = true) (h1 : 1 ≤ cmd.arg0.toNat) (h16 : cmd.arg0.toNat ≤ 16)
include hs h1 h16

theorem execPartset_of_taken_quad (h : ∃ q ∈ quadsOf cmd.arg1.toNat, s.quadFree q = false) :
    execPartset 0 cmd s = .next (s.complete 0 cmd.tag 0x15 cmd.ctx 0) := by
  have hall : (quadsOf cmd.arg1.toNat).all s.quadFree = false := by simpa using h
  rw [execPartset, pfCommand_of_physical hs, if_neg (by omega), hall]
  rfl

/-- A context of the function whose save area is too small for the partition refuses it; R0 names the size (R552). -/
theorem execPartset_of_small_save (hf : ∀ q ∈ quadsOf cmd.arg1.toNat, s.quadFree q = true)
    (h : ∃ e ∈ s.ctxs, e.2.fn = cmd.arg0.toNat ∧ e.2.saveSize < saveNeed (s.quadCount cmd.arg0.toNat + (quadsOf cmd.arg1.toNat).length)) :
    execPartset 0 cmd s = .next (s.complete 0 cmd.tag 0x13 cmd.ctx (saveNeed (s.quadCount cmd.arg0.toNat + (quadsOf cmd.arg1.toNat).length))) := by
  have hall : (quadsOf cmd.arg1.toNat).all s.quadFree = true := by simpa using hf
  rw [execPartset, pfCommand_of_physical hs, if_neg (by omega), hall, if_neg (by decide), if_pos (by simpa using h)]

theorem execPartset_of_fit (hf : ∀ q ∈ quadsOf cmd.arg1.toNat, s.quadFree q = true)
    (h : ∀ e ∈ s.ctxs, e.2.fn = cmd.arg0.toNat → saveNeed (s.quadCount cmd.arg0.toNat + (quadsOf cmd.arg1.toNat).length) ≤ e.2.saveSize) :
    execPartset 0 cmd s = .next (({ s with
      zeroing := s.zeroing ++ quadsOf cmd.arg1.toNat
      jobs := s.jobs.set s.nextId (.partset cmd.tag cmd.arg0.toNat (quadMask (quadsOf cmd.arg1.toNat)))
      nextId := s.nextId + 1 } : State).push (.partsetFill s.nextId)) := by
  have hall : (quadsOf cmd.arg1.toNat).all s.quadFree = true := by simpa using hf
  have hfit : ¬(s.ctxs.any fun e => e.2.fn == cmd.arg0.toNat &&
      decide (e.2.saveSize < saveNeed (s.quadCount cmd.arg0.toNat + (quadsOf cmd.arg1.toNat).length))) = true := by
    simpa using h
  rw [execPartset, pfCommand_of_physical hs, if_neg (by omega), hall, if_neg (by decide), if_neg hfit]

end

/-- Both slices of a quad discarded (R90, R95). -/
def State.dropQuad (s : State) (q : Nat) : State := (s.dropMib (q / 12) (2 * (q % 12)) 0 16).dropMib (q / 12) (2 * (q % 12) + 1) 0 16

/-- A layer byte lies in a quad's storage, two slices of 16 MiB (R18, R86). -/
def inQuad (q k : Nat) : Prop := layerKey (q / 12) (q % 12 * 2 ^ 25) ≤ k ∧ k < layerKey (q / 12) (q % 12 * 2 ^ 25) + 2 ^ 25

theorem State.dropSlice_layer (s : State) (die slice k : Nat) : (s.dropMib die slice 0 16).layer.get k =
    if layerKey die (slice * 2 ^ 24) ≤ k ∧ k < layerKey die (slice * 2 ^ 24) + 2 ^ 24 then 0 else s.layer.get k := by
  simp only [State.dropMib, Memory.get_clear, Nat.zero_mul, Nat.add_zero, show (16 - 0) * 2 ^ 20 = 2 ^ 24 by norm_num]

theorem inQuad_slices {q k : Nat} (h : inQuad q k) :
    (layerKey (q / 12) ((2 * (q % 12) + 1) * 2 ^ 24) ≤ k ∧ k < layerKey (q / 12) ((2 * (q % 12) + 1) * 2 ^ 24) + 2 ^ 24) ∨
      (layerKey (q / 12) (2 * (q % 12) * 2 ^ 24) ≤ k ∧ k < layerKey (q / 12) (2 * (q % 12) * 2 ^ 24) + 2 ^ 24) := by
  simp only [inQuad, layerKey] at *
  omega

theorem State.dropQuad_layer (s : State) (q k : Nat) : (s.dropQuad q).layer.get k = 0 ∨ (¬inQuad q k ∧ (s.dropQuad q).layer.get k = s.layer.get k) := by
  rw [State.dropQuad, State.dropSlice_layer, State.dropSlice_layer]
  split_ifs with h1 h0
  · exact .inl rfl
  · exact .inl rfl
  · exact .inr ⟨fun hin => (inQuad_slices hin).elim h1 h0, rfl⟩

theorem State.dropQuads_frame (l : List Nat) (s : State) : ∃ m b, l.foldl State.dropQuad s = { s with layer := m, layerBad := b } :=
  List.foldlRecOn l _ (motive := fun t => ∃ m b, t = { s with layer := m, layerBad := b }) ⟨_, _, rfl⟩ fun t ht q _ => by
    obtain ⟨m, b, rfl⟩ := ht
    exact ⟨_, _, rfl⟩

/-- Storage of quads that are discarded reads 0. -/
theorem State.dropQuads_layer (l : List Nat) (s : State) (k : Nat) (h : s.layer.get k = 0 ∨ ∃ q ∈ l, inQuad q k) :
    (l.foldl State.dropQuad s).layer.get k = 0 := by
  induction l generalizing s with
  | nil => simpa using h
  | cons q r ih =>
    refine ih _ ?_
    rcases s.dropQuad_layer q k with h0 | ⟨hout, heq⟩
    · exact .inl h0
    · rcases h with h | ⟨p, hp, hin⟩
      · exact .inl (heq.trans h)
      · rcases List.mem_cons.1 hp with rfl | hp
        · exact absurd hin hout
        · exact .inr ⟨p, hp, hin⟩

/-- The state when the storage of the quads of a PARTSET reads 0 (R90, R509): they are the function's. -/
def State.assigned (s : State) (vf mask : Nat) : State :=
  let t := (quadsOf mask).foldl State.dropQuad s
  State.rouse { t with
    zeroing := t.zeroing.filter (fun q => !((quadsOf mask).contains q)), quadOwner := (quadsOf mask).foldl (fun m q => m.set q vf) t.quadOwner }

theorem execPartsetZeroFillComplete_of_job {s : State} {k tag vf mask : Nat} (h : s.jobs.get? k = some (.partset tag vf mask)) :
    execPartsetZeroFillComplete k s = .next ((s.assigned vf mask).endJob k 0 tag 0 0 0) := by
  simp only [execPartsetZeroFillComplete, h]
  rfl

theorem State.assigned_eq (s : State) (vf mask : Nat) : ∃ b w, s.assigned vf mask = { s with
    layer := ((quadsOf mask).foldl State.dropQuad s).layer, layerBad := b, zeroing := s.zeroing.filter (fun q => !((quadsOf mask).contains q))
    quadOwner := (quadsOf mask).foldl (fun m q => m.set q vf) s.quadOwner, work := w } := by
  obtain ⟨m, b, hdrop⟩ := State.dropQuads_frame (quadsOf mask) s
  obtain ⟨w, hrouse, -⟩ := State.wakes_rouse { s with
    layer := m, layerBad := b, zeroing := s.zeroing.filter (fun q => !((quadsOf mask).contains q))
    quadOwner := (quadsOf mask).foldl (fun m q => m.set q vf) s.quadOwner }
  refine ⟨b, w, ?_⟩
  simp only [State.assigned, hdrop]
  exact hrouse

/-! ## PARTMEM -/

/-- The granules of a range given to an owner; those of nobody are not listed (R44). -/
theorem getD_granules (owner first count : Nat) (m : Map Nat) (hs : Map.sorted m = true) (n : Nat) :
    ((List.range count).foldl (fun m k => if owner = 0 then m.erase (first + k) else m.set (first + k) owner) m).getD n 0 =
      if first ≤ n ∧ n < first + count then owner else m.getD n 0 := by
  have hmem : n ∈ (List.range count).map (first + ·) ↔ first ≤ n ∧ n < first + count := by
    simp only [List.mem_map, List.mem_range]
    exact ⟨fun ⟨k, hk, hn⟩ => by omega, fun h => ⟨n - first, by omega, by omega⟩⟩
  rw [Map.getD_eq, Map.getD_eq]
  by_cases h0 : owner = 0
  · simp only [h0, if_true, Map.get?_foldl_erase _ (first + ·) m hs, hmem]
    split <;> rfl
  · simp only [h0, if_false, Map.get?_foldl_set _ (first + ·) (fun _ => owner) m n owner fun _ _ _ => rfl, hmem]
    split <;> rfl

theorem State.addJob_eq (s : State) (j : Job) : ∃ w, s.addJob j = { s with jobs := s.jobs.set s.nextId j, nextId := s.nextId + 1, work := w } ∧
    .job s.nextId ∈ w := by
  have hmem := State.mem_work_push { s with jobs := s.jobs.set s.nextId j, nextId := s.nextId + 1 } (.job s.nextId)
  obtain ⟨w, hw, -⟩ := State.wakes_push { s with jobs := s.jobs.set s.nextId j, nextId := s.nextId + 1 } (.job s.nextId)
  rw [hw] at hmem
  exact ⟨w, hw, hmem⟩

theorem execPartmem_of_bad_range {s : State} {cmd : Command} (hs : s.serving = true)
    (h : 16 < cmd.arg0.toNat ∨ cmd.arg2.toNat = 0 ∨ 512 < cmd.arg1.toNat + cmd.arg2.toNat) :
    execPartmem 0 cmd s = .next (s.complete 0 cmd.tag 0x10 cmd.ctx 0) := by
  rw [execPartmem, pfCommand_of_physical hs, if_pos h]

theorem execPartmem_of_range {s : State} {cmd : Command} (hs : s.serving = true) (ho : cmd.arg0.toNat ≤ 16) (hc : 1 ≤ cmd.arg2.toNat)
    (hr : cmd.arg1.toNat + cmd.arg2.toNat ≤ 512) :
    execPartmem 0 cmd s = .next (State.addJob { s with granules := (List.range cmd.arg2.toNat).foldl (fun m k =>
      if cmd.arg0.toNat = 0 then m.erase (cmd.arg1.toNat + k) else m.set (cmd.arg1.toNat + k) cmd.arg0.toNat) s.granules }
        (.partmem cmd.tag (s.flipsIn cmd.arg1.toNat cmd.arg2.toNat))) := by
  rw [execPartmem, pfCommand_of_physical hs, if_neg (by omega)]

theorem State.mem_flipsIn {s : State} {first count fn page : Nat} : (fn, page) ∈ s.flipsIn first count ↔ ∃ b f, (fn, b) ∈ s.bias ∧ b.flip = some f ∧
    f.page = page ∧ first ≤ page / 16384 ∧ page / 16384 < first + count := by
  simp only [State.flipsIn, List.mem_filterMap]
  constructor
  · rintro ⟨⟨k, b⟩, hb, h⟩
    cases hf : b.flip with
    | none => simp [hf] at h
    | some f =>
      simp only [hf] at h
      split at h
      · next hr => obtain ⟨rfl, rfl⟩ := Prod.mk.inj (Option.some.inj h); exact ⟨b, f, hb, hf, rfl, hr⟩
      · simp at h
  · rintro ⟨b, f, hb, hf, rfl, hr⟩
    exact ⟨(fn, b), hb, by simp [hf, hr]⟩

/-- A flip that a PARTMEM waits for goes on. -/
def State.flips (s : State) (x : Nat × Nat) : Bool := (s.bias.get? x.1).any fun b => b.flip.any fun f => f.page == x.2

theorem State.flips_iff (s : State) (x : Nat × Nat) : s.flips x = true ↔ ∃ b f, s.bias.get? x.1 = some b ∧ b.flip = some f ∧ f.page = x.2 := by
  simp [State.flips, Option.any_eq_true]

theorem runPartmem_of_over {s : State} {flips : List (Nat × Nat)} (h : ∀ x ∈ flips, ¬s.flips x = true) (k tag : Nat) :
    runPartmem k tag flips s = .next (s.endJob k 0 tag 0 0 0) := by
  have hnil : flips.filter s.flips = [] := List.filter_eq_nil_iff.2 h
  unfold runPartmem
  split
  · rfl
  · next hne => exact absurd hnil hne

theorem runPartmem_of_going {s : State} {flips : List (Nat × Nat)} (h : ∃ x ∈ flips, s.flips x = true) (k tag : Nat) :
    runPartmem k tag flips s = .next (({ s with jobs := s.jobs.set k (.partmem tag (flips.filter s.flips)) } : State).push (.job k)) := by
  have hne : flips.filter s.flips ≠ [] := by simpa [List.filter_eq_nil_iff] using h
  unfold runPartmem
  split
  · next hnil => exact absurd hnil hne
  · rfl

end Sys2Proof.Machine
end

section
/-! PROOFS. The weight store's commands (R57, R58, R509) and LNKSVC (R524). -/

namespace Sys2Proof.Machine

/-! ## Staging -/

theorem storeRangeOk_iff {off n : Nat} : storeRangeOk off n = true ↔ off % 4096 = 0 ∧ n % 4096 = 0 ∧ 4096 ≤ n ∧ n ≤ 2 ^ 20 := by
  simp [storeRangeOk, and_assoc]

theorem State.stageUnits_eq (s : State) (tag : Nat) (l : List (Nat × List Byte)) : ∃ w, s.stageUnits tag l = { s with
    staged := l.foldl (fun m u => m.set u.1 u.2) s.staged, jobs := s.jobs.set s.nextId (.wswrite tag (l.map fun u => u.1))
    nextId := s.nextId + 1, work := w } ∧ ∀ u ∈ l, .stagedUnitCommit u.1 ∈ w := by
  obtain ⟨w, hw, -⟩ := State.wakes_foldl l (fun s u => s.push (.stagedUnitCommit u.1)) (fun s u => s.wakes_push _) { s with
    staged := l.foldl (fun m u => m.set u.1 u.2) s.staged, jobs := s.jobs.set s.nextId (.wswrite tag (l.map fun u => u.1)), nextId := s.nextId + 1 }
  refine ⟨w, hw, fun u hu => ?_⟩
  have hmem := State.mem_work_pushes l (fun u => .stagedUnitCommit u.1) { s with
    staged := l.foldl (fun m u => m.set u.1 u.2) s.staged, jobs := s.jobs.set s.nextId (.wswrite tag (l.map fun u => u.1)), nextId := s.nextId + 1 } hu
  rw [hw] at hmem
  exact hmem

/-- The units of a range staged, each with its own bytes: each stands in its fresh block and its commit is pending (R58). -/
theorem State.stageUnits_range (s : State) (tag unit n : Nat) (b : Nat → List Byte) :
    let s' := s.stageUnits tag ((List.range n).map fun k => (unit + k, b k))
    s.sameMemory s' ∧ s'.jobs.get? s.nextId = some (.wswrite tag ((List.range n).map fun k => unit + k)) ∧
      ∀ k, k < n → s'.staged.get? (unit + k) = some (b k) ∧ .stagedUnitCommit (unit + k) ∈ s'.work := by
  obtain ⟨w, hw, hmem⟩ := s.stageUnits_eq tag ((List.range n).map fun k => (unit + k, b k))
  rw [hw]
  refine ⟨⟨rfl, rfl, rfl, rfl⟩, ?_, fun k hk => ⟨?_, ?_⟩⟩
  · simp [List.map_map, Function.comp_def]
  · have hval : ∀ u ∈ (List.range n).map fun k => (unit + k, b k), u.1 = unit + k → u.2 = b k := by
      simp only [List.mem_map, forall_exists_index, and_imp]
      rintro u j - rfl hj
      rw [show j = k by simpa using hj]
    simp only [Map.get?_foldl_set _ (fun u : Nat × List Byte => u.1) (fun u => u.2) _ _ _ hval]
    rw [if_pos (by simpa using hk)]
  · exact hmem (unit + k, b k) (by simpa using hk)

/-! ## Reading the buffer of a WSWRITE -/

theorem State.readUnits_numbers {s s1 : State} {fn unit a n : Nat} {us : List (Nat × List Byte)} (h : s.readUnits fn unit a n = some (s1, some us)) :
    us.map (fun u => u.1) = (List.range n).map fun k => unit + k := by
  induction n generalizing s unit a us with
  | zero =>
    obtain ⟨-, rfl⟩ : s = s1 ∧ [] = us := by simpa [State.readUnits] using h
    rfl
  | succ n ih =>
    rw [State.readUnits] at h
    split at h
    · simp at h
    · simp at h
    · next s2 b _ =>
      obtain ⟨r, hr, heq⟩ := Option.map_eq_some_iff.1 h
      obtain ⟨hs, hus⟩ := Prod.mk.inj heq
      obtain ⟨l, hl, rfl⟩ := Option.map_eq_some_iff.1 hus
      have htail := ih (hr.trans (congrArg some (Prod.ext hs hl)))
      rw [List.map_cons, htail, List.range_succ_eq_map]
      simp [Function.comp_def, Nat.add_comm, Nat.add_left_comm]

/-- Units that are read at once, changing nothing, come before the rest. -/
theorem State.readUnits_add {s : State} {fn a m : Nat} {b : Nat → List Byte} (h : ∀ k, k < m → s.ioRead fn (a + 4096 * k) 4096 = .ok s (b k))
    (unit n : Nat) : s.readUnits fn unit a (m + n) = (s.readUnits fn (unit + m) (a + 4096 * m) n).map fun r =>
      (r.1, r.2.map fun l => ((List.range m).map fun k => (unit + k, b k)) ++ l) := by
  induction m generalizing unit a b with
  | zero => simp
  | succ m ih =>
    have h0 : s.ioRead fn a 4096 = .ok s (b 0) := h 0 (by omega)
    have htail := ih (a := a + 4096) (b := fun k => b (k + 1)) (fun k hk => by rw [← h (k + 1) (by omega)]; congr 1; omega) (unit + 1)
    rw [show m + 1 + n = m + n + 1 by omega, State.readUnits, h0]
    simp only [htail, Option.map_map, List.range_succ_eq_map]
    rw [show unit + 1 + m = unit + (m + 1) by omega, show a + 4096 + 4096 * m = a + 4096 * (m + 1) by omega]
    congr 1
    funext r
    simp [Function.comp_def, Nat.add_comm, Nat.add_left_comm]

theorem State.readUnits_of_reads {s : State} {fn a n : Nat} {b : Nat → List Byte} (h : ∀ k, k < n → s.ioRead fn (a + 4096 * k) 4096 = .ok s (b k))
    (unit : Nat) : s.readUnits fn unit a n = some (s, some ((List.range n).map fun k => (unit + k, b k))) := by
  have hpre := State.readUnits_add h unit 0
  simpa [State.readUnits] using hpre

section
variable {s : State} {fn a m n : Nat} (hm : m < n) (h : ∀ k, k < m → ∃ b, s.ioRead fn (a + 4096 * k) 4096 = .ok s b)
include hm h

theorem State.readUnits_of_fail {s1 : State} (hf : s.ioRead fn (a + 4096 * m) 4096 = .fail s1) (unit : Nat) :
    s.readUnits fn unit a n = some (s1, none) := by
  choose! b hb using h
  rw [show n = m + (n - m - 1 + 1) by omega, State.readUnits_add hb, State.readUnits, hf]
  rfl

theorem State.readUnits_of_wait (hf : s.ioRead fn (a + 4096 * m) 4096 = .wait) (unit : Nat) : s.readUnits fn unit a n = none := by
  choose! b hb using h
  rw [show n = m + (n - m - 1 + 1) by omega, State.readUnits_add hb, State.readUnits, hf]
  rfl

end

/-! ## WSWRITE and WSTRIM -/

theorem execWswrite_of_bad_range {s : State} {cmd : Command} (hs : s.serving = true)
    (h : ¬(storeRangeOk cmd.arg0.toNat cmd.arg2.toNat = true ∧ cmd.arg1.toNat % 4096 = 0)) :
    execWswrite 0 cmd s = .next (s.complete 0 cmd.tag 0x10 cmd.ctx 0) := by
  rw [execWswrite, pfCommand_of_physical hs, if_pos (by simpa [imp_iff_not_or] using h)]

theorem execWstrim_of_bad_range {s : State} {cmd : Command} (hs : s.serving = true) (h : ¬storeRangeOk cmd.arg0.toNat cmd.arg2.toNat = true) :
    execWstrim 0 cmd s = .next (s.complete 0 cmd.tag 0x10 cmd.ctx 0) := by
  rw [execWstrim, pfCommand_of_physical hs, if_pos (by simpa using h)]

section
variable {s : State} {cmd : Command} (hs : s.serving = true) (hr : storeRangeOk cmd.arg0.toNat cmd.arg2.toNat = true)
include hs hr

theorem execWstrim_of_past_end (h : 8 * 10 ^ 12 < cmd.arg0.toNat + cmd.arg2.toNat) :
    execWstrim 0 cmd s = .next (s.complete 0 cmd.tag 0x17 cmd.ctx 0) := by
  rw [execWstrim, pfCommand_of_physical hs, if_neg (by simpa using hr), if_pos (by simpa [storeBytes] using h)]

theorem execWstrim_of_range (h : cmd.arg0.toNat + cmd.arg2.toNat ≤ 8 * 10 ^ 12) : execWstrim 0 cmd s =
    .next (s.stageUnits cmd.tag ((List.range (cmd.arg2.toNat / 4096)).map fun k => (cmd.arg0.toNat / 4096 + k, []))) := by
  rw [execWstrim, pfCommand_of_physical hs, if_neg (by simpa using hr), if_neg (by simpa [storeBytes] using h)]

variable (ha : cmd.arg1.toNat % 4096 = 0)
include ha

theorem execWswrite_of_past_end (h : 8 * 10 ^ 12 < cmd.arg0.toNat + cmd.arg2.toNat) :
    execWswrite 0 cmd s = .next (s.complete 0 cmd.tag 0x17 cmd.ctx 0) := by
  rw [execWswrite, pfCommand_of_physical hs, if_neg (by simp [hr, ha]), if_pos (by simpa [storeBytes] using h)]

variable (h : cmd.arg0.toNat + cmd.arg2.toNat ≤ 8 * 10 ^ 12)
include h

theorem execWswrite_of_wait (hu : s.readUnits 0 (cmd.arg0.toNat / 4096) cmd.arg1.toNat (cmd.arg2.toNat / 4096) = none) :
    execWswrite 0 cmd s = .next s := by
  rw [execWswrite, pfCommand_of_physical hs, if_neg (by simp [hr, ha]), if_neg (by simpa [storeBytes] using h), hu]

theorem execWswrite_of_fail {s1 : State} (hu : s.readUnits 0 (cmd.arg0.toNat / 4096) cmd.arg1.toNat (cmd.arg2.toNat / 4096) = some (s1, none)) :
    execWswrite 0 cmd s = .next (s1.complete 0 cmd.tag 0x17 cmd.ctx 0) := by
  rw [execWswrite, pfCommand_of_physical hs, if_neg (by simp [hr, ha]), if_neg (by simpa [storeBytes] using h), hu]

theorem execWswrite_of_units {s1 : State} {us : List (Nat × List Byte)}
    (hu : s.readUnits 0 (cmd.arg0.toNat / 4096) cmd.arg1.toNat (cmd.arg2.toNat / 4096) = some (s1, some us)) :
    execWswrite 0 cmd s = .next (s1.stageUnits cmd.tag us) := by
  rw [execWswrite, pfCommand_of_physical hs, if_neg (by simp [hr, ha]), if_neg (by simpa [storeBytes] using h), hu]

end

/-! ## The commit of a unit -/

theorem State.unitWritten_eq (s : State) (unit : Nat) : ∃ j q w, s.unitWritten unit = { s with jobs := j, hq := q, work := w } := by
  refine List.foldlRecOn s.jobs _ (motive := fun t : State => ∃ j q w, t = { s with jobs := j, hq := q, work := w }) ⟨s.jobs, s.hq, s.work, rfl⟩
    fun t ht e _ => ?_
  obtain ⟨j, q, w, rfl⟩ := ht
  split
  · split
    · exact ⟨_, _, _, rfl⟩
    · dsimp only
      split
      · obtain ⟨q', w', h⟩ := State.endJob_eq { s with jobs := j, hq := q, work := w } e.1 0 _ 0 0 0
        exact ⟨_, q', w', h⟩
      · exact ⟨_, _, _, rfl⟩
  · exact ⟨_, _, _, rfl⟩

theorem State.unitWritten_keeps (s : State) (unit : Nat) : (s.unitWritten unit).flash = s.flash ∧ (s.unitWritten unit).flashBad = s.flashBad ∧
    (s.unitWritten unit).staged = s.staged := by
  obtain ⟨j, q, w, h⟩ := s.unitWritten_eq unit
  rw [h]
  exact ⟨rfl, rfl, rfl⟩

/-- The last unit of a command completes it (R509). -/
theorem State.unitWritten_of_last {s : State} {k tag unit : Nat} (h : s.jobs = [(k, .wswrite tag [unit])]) :
    s.unitWritten unit = s.endJob k 0 tag 0 0 0 := by
  simp [State.unitWritten, h]

/-- The switch of the map for a staged unit (R58). -/
def State.switched (s : State) (unit : Nat) (b : List Byte) : State :=
  { s with
    flash := (s.flash.clear (unit * 4096) 4096).write (unit * 4096) b
    flashBad := s.flashBad.filter (fun k => !(k == unit)), staged := s.staged.erase unit }

theorem execStagedUnitCommit_of_served {s : State} {unit : Nat} {b : List Byte} (hb : s.staged.get? unit = some b)
    (ha : s.access protrum (.flash (unit * 4096)) = .served) : execStagedUnitCommit unit s = .next ((s.switched unit b).unitWritten unit) := by
  simp only [execStagedUnitCommit, hb, ha]
  rfl

/-! ## The ends of a link -/

theorem endReg_side_ne (link m : Nat) : endReg link 0 m ≠ endReg link 1 m := by
  simp only [endReg]
  split <;> simp <;> omega

@[simp] theorem State.putEnd_linkEnd_same (s : State) (link side m : Nat) (e : LinkEnd) : (s.putEnd link side m e).linkEnd link side m = e := by
  simp [State.putEnd, State.linkEnd, Map.getD_set]

@[simp] theorem State.putEnd_zero_linkEnd_one (s : State) (link m : Nat) (e : LinkEnd) :
    (s.putEnd link 0 m e).linkEnd link 1 m = s.linkEnd link 1 m := by
  simp [State.putEnd, State.linkEnd, Map.getD_set, endReg_side_ne]

@[simp] theorem State.putEnd_one_linkEnd_zero (s : State) (link m : Nat) (e : LinkEnd) :
    (s.putEnd link 1 m e).linkEnd link 0 m = s.linkEnd link 0 m := by
  simp [State.putEnd, State.linkEnd, Map.getD_set, (endReg_side_ne link m).symm]

/-- A state that differs in the links alone: their ends, their directions and the service routines. -/
def State.Links (s s' : State) : Prop := ∃ e d v, s' = { s with linkEnds := e, linkDirs := d, services := v }

theorem State.Links.trans {s t u : State} (h1 : s.Links t) (h2 : t.Links u) : s.Links u := by
  obtain ⟨e, d, v, rfl⟩ := h1
  obtain ⟨e', d', v', rfl⟩ := h2
  exact ⟨e', d', v', rfl⟩

theorem State.links_putEnd (s : State) (link side m : Nat) (e : LinkEnd) : s.Links (s.putEnd link side m e) := ⟨_, _, s.services, rfl⟩

theorem State.links_services (s : State) (v : List Service) : s.Links { s with services := v } := ⟨s.linkEnds, s.linkDirs, v, rfl⟩

theorem State.linkEnd_services (s : State) (v : List Service) (link side m : Nat) :
    ({ s with services := v } : State).linkEnd link side m = s.linkEnd link side m := rfl

/-! ## The service routine's first pieces (R524) -/

section
variable {s : State} {l : List Service} {v : Service} (hs : s.services = l ++ [v]) (hl : ∀ x ∈ l, x.link ≠ v.link)
include hs hl

theorem State.find_service : s.services.find? (fun x => x.link == v.link) = some v := by
  rw [hs, List.find?_append, List.find?_eq_none.2 (by simpa using hl)]
  simp

theorem State.serve_of_wait (hm : s.serviceMove v = .wait) (n : Nat) : s.serve v.link (n + 1) = s := by
  rw [State.serve, State.find_service hs hl]
  simp only [hm]

theorem State.serve_of_go {s1 : State} {v1 : Service} (hm : s.serviceMove v = .go s1 v1) (hs1 : s1.services = s.services) (n : Nat) :
    s.serve v.link (n + 1) = State.serve v.link n { s1 with services := l ++ [v1] } := by
  have hv : v ∉ l := fun h => hl v h rfl
  rw [State.serve, State.find_service hs hl]
  simp only [hm, hs1, hs]
  rw [List.replace_append_right hv]
  simp

end

theorem State.controlBoth_links (s : State) (link m : Nat) (pause off test : Bool) (width : Nat) :
    let s' := s.controlBoth link m pause off test width
    s.Links s' ∧ s'.services = s.services ∧ ∀ d, d < 2 → s'.linkEnd link d m = (s.linkEnd link d m).control pause off test width := by
  refine ⟨(s.links_putEnd ..).trans (State.links_putEnd ..), rfl, fun d hd => ?_⟩
  obtain rfl | rfl : d = 0 ∨ d = 1 := by omega
  · simp [State.controlBoth]
  · simp [State.controlBoth]

/-- The ends of a module as they train under the LNK_CTL of its side 0, both paused (R519). -/
theorem State.retrain_links {s : State} {link m : Nat} (h0 : (s.linkEnd link 0 m).pause = true) (h1 : (s.linkEnd link 1 m).pause = true) :
    let s' := s.retrain link 0 m
    s.Links s' ∧ s'.services = s.services ∧ ∀ d, d < 2 → s'.linkEnd link d m = (s.linkEnd link d m).trains (s.linkEnd link 0 m) := by
  have heq : s.retrain link 0 m = (s.putEnd link 0 m ((s.linkEnd link 0 m).trains (s.linkEnd link 0 m))).putEnd link 1 m
      ((s.linkEnd link 1 m).trains (s.linkEnd link 0 m)) := by
    simp [State.retrain, h0, h1]
  rw [heq]
  refine ⟨(s.links_putEnd ..).trans (State.links_putEnd ..), rfl, fun d hd => ?_⟩
  obtain rfl | rfl : d = 0 ∨ d = 1 := by omega
  · simp
  · simp

section
variable {s : State} {l : List Service} {v : Service} (hs : s.services = l ++ [v]) (hl : ∀ x ∈ l, x.link ≠ v.link)
include hs hl

/-- The routine pauses both ends. -/
theorem State.serve_starts (hv : v.phase = 0) : ∃ t : State, (∀ n, s.serve v.link (n + 1) = t.serve v.link n) ∧ s.Links t ∧
    t.services = l ++ [{ v with phase := 1 }] ∧ ∀ d, d < 2 → t.linkEnd v.link d v.m = (s.linkEnd v.link d v.m).control true false false 0 := by
  obtain ⟨hlinks, hserv, hends⟩ := s.controlBoth_links v.link v.m true false false 0
  have hmove : s.serviceMove v = .go (s.controlBoth v.link v.m true false false 0) { v with phase := 1 } := by simp [State.serviceMove, hv]
  exact ⟨_, State.serve_of_go hs hl hmove hserv, hlinks.trans (State.links_services ..), rfl, fun d hd => (State.linkEnd_services ..).trans (hends d hd)⟩

/-- Both ends being paused, the routine sets TEST and RETRAIN at side 0. -/
theorem State.serve_paused (hv : v.phase = 1) (h : ∀ d, d < 2 → (s.linkEnd v.link d v.m).state = 3) (hp : (s.linkEnd v.link 1 v.m).pause = true) :
    ∃ t : State, (∀ n, s.serve v.link (n + 1) = t.serve v.link n) ∧ s.Links t ∧ t.services = l ++ [{ v with phase := 2 }] ∧
      ∀ d, d < 2 → (t.linkEnd v.link d v.m).state = 1 ∧ (t.linkEnd v.link d v.m).pause = true ∧ (t.linkEnd v.link d v.m).trainTest = true ∧
        (t.linkEnd v.link d v.m).trainWidth = 0 := by
  let u := s.putEnd v.link 0 v.m ((s.linkEnd v.link 0 v.m).control true false true 0)
  have hu0 : u.linkEnd v.link 0 v.m = (s.linkEnd v.link 0 v.m).control true false true 0 := s.putEnd_linkEnd_same ..
  have hu1 : u.linkEnd v.link 1 v.m = s.linkEnd v.link 1 v.m := s.putEnd_zero_linkEnd_one ..
  obtain ⟨hlinks, hserv, hends⟩ := u.retrain_links (link := v.link) (m := v.m) (by rw [hu0]; rfl) (by rw [hu1]; exact hp)
  have hmove : s.serviceMove v = .go (u.retrain v.link 0 v.m) { v with phase := 2 } := by
    simp [State.serviceMove, hv, h 0 (by decide), h 1 (by decide), u]
  refine ⟨_, State.serve_of_go hs hl hmove hserv, ((s.links_putEnd ..).trans hlinks).trans (State.links_services ..), rfl, fun d hd => ?_⟩
  rw [State.linkEnd_services, hends d hd, hu0]
  obtain rfl | rfl : d = 0 ∨ d = 1 := by omega
  · rw [hu0]; exact ⟨rfl, rfl, rfl, rfl⟩
  · rw [hu1]; exact ⟨rfl, hp, rfl, rfl⟩

theorem State.serve_trains (hv : v.phase = 2) (h : (s.linkEnd v.link 0 v.m).state = 1) (n : Nat) : s.serve v.link (n + 1) = s :=
  State.serve_of_wait hs hl (by simp [State.serviceMove, hv, h]) n

end

/-- Both ends of an active module that is serviced train next, paused, with the test and at full width (R519, R524). -/
theorem State.askService_of_active {s : State} {link m : Nat} (hl : ∀ v ∈ s.services, v.link ≠ link) (h0 : (s.linkEnd link 0 m).state = 2)
    (h1 : (s.linkEnd link 1 m).state = 2) (job : Option Nat) : s.Links (s.askService link m job) ∧
      (s.askService link m job).services = s.services ++ [⟨link, m, 2, 0, 0, 0, job⟩] ∧
      ∀ d, d < 2 → ((s.askService link m job).linkEnd link d m).state = 1 ∧ ((s.askService link m job).linkEnd link d m).pause = true ∧
        ((s.askService link m job).linkEnd link d m).trainTest = true ∧ ((s.askService link m job).linkEnd link d m).trainWidth = 0 := by
  let v : Service := ⟨link, m, 0, 0, 0, 0, job⟩
  obtain ⟨t, hserve, hlinks, hserv, hends⟩ := State.serve_starts (s := { s with services := s.services ++ [v] }) (v := v) rfl hl rfl
  have hpaused : ∀ d, d < 2 → (t.linkEnd link d m).state = 3 ∧ (t.linkEnd link d m).pause = true := by
    intro d hd
    rw [hends d hd, State.linkEnd_services]
    obtain rfl | rfl : d = 0 ∨ d = 1 := by omega
    · exact ⟨by simp [LinkEnd.control, v, h0], rfl⟩
    · exact ⟨by simp [LinkEnd.control, v, h1], rfl⟩
  obtain ⟨u, hserve', hlinks', hserv', hends'⟩ :=
    State.serve_paused hserv hl rfl (fun d hd => (hpaused d hd).1) (hpaused 1 (by decide)).2
  have heq : s.askService link m job = u := by
    obtain ⟨n, hn⟩ : ∃ n, 8 * ((s.services ++ [v]).length + 1) = n + 1 + 1 + 1 := ⟨8 * ((s.services ++ [v]).length + 1) - 3, by omega⟩
    rw [State.askService, State.serveLink]
    refine (congrArg (fun k => State.serve link k _) hn).trans ?_
    exact ((hserve _).trans (hserve' _)).trans (State.serve_trains hserv' hl rfl (hends' 0 (by decide)).1 n)
  rw [heq]
  exact ⟨((s.links_services _).trans hlinks).trans hlinks', hserv', hends'⟩

theorem execLnksvc_of_no_end {s : State} {cmd : Command} (hs : s.serving = true) (h : endOfReg cmd.arg0.toNat = none) :
    execLnksvc 0 cmd s = .next (s.complete 0 cmd.tag 0x10 cmd.ctx 0) := by
  rw [execLnksvc, pfCommand_of_physical hs, h]

theorem execLnksvc_of_end {s : State} {cmd : Command} (hs : s.serving = true) {link side m : Nat} (h : endOfReg cmd.arg0.toNat = some (link, side, m)) :
    execLnksvc 0 cmd s = .next (State.askService { s with jobs := s.jobs.set s.nextId (.lnksvc cmd.tag link m), nextId := s.nextId + 1 }
      link m (some s.nextId)) := by
  rw [execLnksvc, pfCommand_of_physical hs, h]

end Sys2Proof.Machine
end

section
/-! PROOFS. What the save of teams with nothing in flight changes (R458, R475, R477), and the end of a VACATE. -/

namespace Sys2Proof.Machine

/-! ## What a save may change -/

/-- A byte of graphics DRAM that lies in no context's save area (R477). -/
def State.outsideSaves (s : State) (a : Nat) : Prop := ∀ e ∈ s.ctxs, a < e.2.saveArea ∨ e.2.saveArea + e.2.saveBytes ≤ a

/-- What saves keep: every memory but the save areas, which stay where they are; the deques; the partition; which group is of which team, and
what each has in flight. -/
structure State.SavesFrom (s s' : State) : Prop where
  host : s'.host = s.host
  flash : s'.flash = s.flash
  layer : s'.layer = s.layer
  vacating : s'.vacating = s.vacating
  vacated : s'.vacated = s.vacated
  deques : ∀ n, s'.dequeAt n = s.dequeAt n
  dramWf : s.dram.wf = true → s'.dram.wf = true
  dram : s.dram.wf = true → ∀ a, s.outsideSaves a → s'.dram.get a = s.dram.get a
  outside : ∀ a, s.outsideSaves a → s'.outsideSaves a
  groupsOf : ∀ tid, s'.groupsOf tid = s.groupsOf tid
  entries : ∀ n, (s'.groups.get? n).map Group.entries = (s.groups.get? n).map Group.entries

theorem State.SavesFrom.refl (s : State) : s.SavesFrom s :=
  ⟨rfl, rfl, rfl, rfl, rfl, fun _ => rfl, id, fun _ _ _ => rfl, fun _ h => h, fun _ => rfl, fun _ => rfl⟩

theorem State.SavesFrom.trans {s t u : State} (h1 : s.SavesFrom t) (h2 : t.SavesFrom u) : s.SavesFrom u where
  host := h2.host.trans h1.host
  flash := h2.flash.trans h1.flash
  layer := h2.layer.trans h1.layer
  vacating := h2.vacating.trans h1.vacating
  vacated := h2.vacated.trans h1.vacated
  deques n := (h2.deques n).trans (h1.deques n)
  dramWf h := h2.dramWf (h1.dramWf h)
  dram h a ha := (h2.dram (h1.dramWf h) a (h1.outside a ha)).trans (h1.dram h a ha)
  outside a ha := h2.outside a (h1.outside a ha)
  groupsOf tid := (h2.groupsOf tid).trans (h1.groupsOf tid)
  entries n := (h2.entries n).trans (h1.entries n)

/-- The groups of a team have nothing in flight (R475). -/
def State.Still (s : State) (tid : Nat) : Prop := ∀ n ∈ s.groupsOf tid, ∀ g, s.groups.get? n = some g → g.entries = []

theorem State.Still.of_saves {s s' : State} {tid : Nat} (h : s.Still tid) (hs : s.SavesFrom s') : s'.Still tid := by
  intro n hn g hg
  have hold : (s.groups.get? n).map Group.entries = some g.entries := by rw [← hs.entries, hg]; rfl
  obtain ⟨g0, hg0, heq⟩ := Option.map_eq_some_iff.1 hold
  rw [← heq]
  exact h n (hs.groupsOf tid ▸ hn) g0 hg0

/-! ## One team -/

/-- Groups changed one by one, each keeping its team and what it has in flight; teams and page waits may change beside them. -/
theorem State.mapGroups_saves (s : State) (f : Nat × Group → Nat × Group)
    (hf : ∀ e, (f e).1 = e.1 ∧ (f e).2.team = e.2.team ∧ (f e).2.entries = e.2.entries) (t : Map Team) (w : List PageWait) :
    s.SavesFrom { s with groups := s.groups.map f, teams := t, waits := w } :=
  { State.SavesFrom.refl s with
    groupsOf := fun tid => by simp [State.groupsOf, List.filter_map, List.map_map, Function.comp_def, hf]
    entries := Map.get?_map s.groups f Group.entries fun e => ⟨(hf e).1, (hf e).2.2⟩ }

theorem State.halt_saves (s : State) (tid : Nat) : s.SavesFrom (s.halt tid) :=
  s.mapGroups_saves _ (fun e => by dsimp only; split <;> exact ⟨rfl, rfl, rfl⟩) s.teams s.waits

theorem State.landGroup_of_still {s : State} {n : Nat} (h : ∀ g, s.groups.get? n = some g → g.entries = []) : s.landGroup n = s := by
  unfold State.landGroup
  split
  · rfl
  · next g hg => simp [h g hg]

theorem toBytes_length (x n : Nat) : (toBytes x n).length = n := by
  induction n generalizing x with
  | zero => rfl
  | succ n ih => rw [toBytes, List.length_cons, ih]

theorem Ctx.blockBytes_length (c : Ctx) (boot tick team seq k : Nat) : (c.blockBytes boot tick team seq k).length = 4096 := by
  rw [Ctx.blockBytes, List.length_append, List.length_take, saveTag, hmacSm3, List.length_take, toBytes_length, List.length_append,
    List.length_replicate]
  omega

theorem State.mem_blocksToSave {s : State} {c : Ctx} {tid k : Nat} (h : k ∈ s.blocksToSave c tid) : k < c.saveSize := by
  refine List.foldlRecOn _ _ (motive := fun l => k ∈ l → k < c.saveSize) (by simp) (fun l ih j hj hk => ?_) h
  split at hk
  · rcases List.mem_append.1 hk with hk | hk
    · exact ih hk
    · obtain rfl := List.mem_singleton.1 hk
      exact List.mem_range.1 (List.mem_filter.1 hj).1
  · exact ih hk

/-- A block of a save written, unless its device has failed (R477, R478, R544). -/
def State.writeBlock (c : Ctx) (die tid seq : Nat) (s : State) (k : Nat) : State :=
  if s.blockAccess die c k = .served then
    { s with
      dram := s.dram.write (c.blockAt k) (c.blockBytes s.boot.count s.tick tid seq k)
      dramBad := clearBad s.dramBad 32 (c.blockAt k) 4096 }
  else s

section
variable {c c' : Ctx} {n : Nat} (ha : c'.saveArea = c.saveArea) (die tid seq : Nat)
include ha

theorem State.writeBlock_saves {s : State} (hc : (n, c') ∈ s.ctxs) {k : Nat} (hk : k < c'.saveSize) :
    s.SavesFrom (s.writeBlock c die tid seq k) ∧ (s.writeBlock c die tid seq k).teams = s.teams ∧
      (s.writeBlock c die tid seq k).ctxs = s.ctxs := by
  unfold State.writeBlock
  split
  · refine ⟨{ State.SavesFrom.refl s with dramWf := Memory.wf_write _ _ _, dram := fun hw a hout => ?_ }, rfl, rfl⟩
    refine Memory.get_write_out _ _ _ _ hw ?_
    have hout := hout _ hc
    simp only [Ctx.saveBytes, Ctx.blockAt, Ctx.blockBytes_length, ha] at *
    omega
  · exact ⟨.refl s, rfl, rfl⟩

theorem State.writeBlocks_saves (l : List Nat) (hl : ∀ k ∈ l, k < c'.saveSize) (s : State) (hc : (n, c') ∈ s.ctxs) :
    s.SavesFrom (l.foldl (State.writeBlock c die tid seq) s) ∧ (l.foldl (State.writeBlock c die tid seq) s).teams = s.teams := by
  induction l generalizing s with
  | nil => exact ⟨.refl s, rfl⟩
  | cons k r ih =>
    obtain ⟨hsave, hteams, hctxs⟩ := State.writeBlock_saves ha die tid seq hc (hl k List.mem_cons_self)
    obtain ⟨hsave', hteams'⟩ := ih (fun j hj => hl j (List.mem_cons_of_mem _ hj)) (s.writeBlock c die tid seq k) (hctxs.symm ▸ hc)
    exact ⟨hsave.trans hsave', hteams'.trans hteams⟩

end

theorem State.setCtx_saves {s : State} {n : Nat} {c c' : Ctx} (hc : s.ctxs.get? n = some c) (ha : c'.saveArea = c.saveArea)
    (hb : c'.saveSize = c.saveSize) : s.SavesFrom (s.setCtx n c') :=
  { State.SavesFrom.refl s with
    outside := fun a hout e he => by
      rcases Map.mem_set he with rfl | he
      · have := hout _ (Map.mem_of_get? hc)
        simpa [Ctx.saveBytes, ha, hb] using this
      · exact hout e he }

theorem State.writeSave_saves (s : State) (ctx tid : Nat) : s.SavesFrom (s.writeSave ctx tid) ∧ (s.writeSave ctx tid).teams = s.teams := by
  unfold State.writeSave
  split
  case h_2 => exact ⟨.refl s, rfl⟩
  case h_1 c t hc ht =>
    let c' : Ctx := { c with seq := c.seq + 1, saves := c.saves ++ (s.blocksToSave c tid).map fun k => ⟨tid, k, c.seq + 1⟩ }
    have hset : s.SavesFrom (s.setCtx ctx c') := State.setCtx_saves hc rfl rfl
    have hmem : (ctx, c') ∈ (s.setCtx ctx c').ctxs := Map.mem_of_get? (Map.get?_set_self ..)
    obtain ⟨hsave, hteams⟩ := State.writeBlocks_saves (c := c) (c' := c') rfl t.die tid (c.seq + 1) (s.blocksToSave c tid)
      (fun k hk => State.mem_blocksToSave (s := s) (c := c) hk) _ hmem
    exact ⟨hset.trans hsave, hteams⟩

theorem State.takeTeam_saves (s : State) (tid : Nat) (st : TeamState) : s.SavesFrom (s.takeTeam tid st) :=
  s.mapGroups_saves _ (fun e => by dsimp only; split <;> exact ⟨rfl, rfl, rfl⟩) _ _

/-- A team with nothing in flight saved (R458, R475): it is put by, and the other teams stand as they did. -/
theorem State.saveTeam_of_still {s : State} {tid : Nat} (h : s.Still tid) : s.SavesFrom (s.saveTeam tid .queued) ∧
    ∀ n, (s.saveTeam tid .queued).teams.get? n = if n = tid then (s.teams.get? n).map Team.put else s.teams.get? n := by
  unfold State.saveTeam
  split
  · next ht =>
    refine ⟨.refl s, fun n => ?_⟩
    split
    · next hn => rw [hn, ht]; rfl
    · rfl
  · next t ht =>
    have hland : (s.groupsOf tid).foldl State.landGroup (s.halt tid) = s.halt tid :=
      List.foldlRecOn _ _ (motive := fun u => u = s.halt tid) rfl fun u hu n hn => by
        rw [hu]
        exact State.landGroup_of_still (h.of_saves (s.halt_saves tid) n ((s.halt_saves tid).groupsOf tid ▸ hn))
    obtain ⟨hsave, hteams⟩ := (s.halt tid).writeSave_saves t.ctx tid
    rw [hland]
    refine ⟨((s.halt_saves tid).trans hsave).trans (State.takeTeam_saves ..), fun n => ?_⟩
    rw [State.takeTeam, Map.get?_modify, hteams]
    rfl

/-! ## The teams that a predicate selects -/

theorem mem_insertBy {α : Type} (le : α → α → Bool) (x y : α) (l : List α) : y ∈ insertBy le x l ↔ y = x ∨ y ∈ l := by
  induction l with
  | nil => simp [insertBy]
  | cons z r ih =>
    rw [insertBy]
    split
    · simp
    · simp [ih, or_left_comm]

theorem mem_sortBy {α : Type} (le : α → α → Bool) (y : α) (l : List α) : y ∈ sortBy le l ↔ y ∈ l := by
  induction l with
  | nil => simp [sortBy]
  | cons x r ih =>
    rw [List.mem_cons, ← ih]
    exact mem_insertBy le x y _

theorem Team.put_put (t : Team) : t.put.put = t.put := rfl

theorem State.saveTeam_fold {s : State} (l : List (Nat × Team)) (hl : ∀ e ∈ l, s.Still e.1) :
    let s' := l.foldl (fun s e => s.saveTeam e.1 .queued) s
    s.SavesFrom s' ∧ ∀ n, s'.teams.get? n = if n ∈ l.map (fun e => e.1) then (s.teams.get? n).map Team.put else s.teams.get? n := by
  induction l generalizing s with
  | nil => exact ⟨.refl s, fun n => by simp⟩
  | cons e r ih =>
    obtain ⟨hsave, hteams⟩ := State.saveTeam_of_still (hl e List.mem_cons_self)
    obtain ⟨hsave', hteams'⟩ := ih fun x hx => (hl x (List.mem_cons_of_mem _ hx)).of_saves hsave
    refine ⟨hsave.trans hsave', fun n => ?_⟩
    rw [List.foldl_cons, hteams', hteams]
    by_cases hn : n = e.1
    · cases ht : s.teams.get? n <;> simp [hn, Team.put_put]
    · rw [if_neg hn]
      exact if_congr (by simp [hn]) rfl rfl

theorem State.requeueTeam_saves (s : State) (die tid : Nat) : s.SavesFrom (s.requeueTeam die tid) ∧ (s.requeueTeam die tid).teams = s.teams := by
  obtain ⟨w, hw, -⟩ := State.wakes_push (s.setQueueAt die (tid :: s.queueAt die)) (.gangStart die)
  rw [State.requeueTeam, hw]
  exact ⟨{ State.SavesFrom.refl s with }, rfl⟩

/-- Deques without a record: nothing is moved to an overflow ring (R434). -/
theorem State.spillDeques_saves {s : State} (h : ∀ n, s.dequeAt n = []) (cores : List Nat) (which : Nat → Bool) :
    s.SavesFrom (s.spillDeques cores which) ∧ (s.spillDeques cores which).teams = s.teams := by
  refine List.foldlRecOn cores _ (motive := fun u => s.SavesFrom u ∧ u.teams = s.teams) ⟨.refl s, rfl⟩ fun u ⟨hu, ht⟩ n _ => ?_
  have hempty : u.dequeAt n = [] := (hu.deques n).trans (h n)
  simp only [hempty, List.filter_nil, List.foldl_nil]
  refine ⟨hu.trans { State.SavesFrom.refl u with deques := fun k => ?_ }, ht⟩
  by_cases hk : n = k
  · rw [← hk, hempty]
    simp [State.dequeAt, Map.getD_set]
  · simp [State.dequeAt, Map.getD_set, hk]

/-- The running teams that a predicate selects, in order of grid and number (R458 step 4). -/
def State.toSave (s : State) (f : Team → Bool) : List (Nat × Team) :=
  sortBy (fun a b => if a.2.grid = b.2.grid then decide (a.2.num ≤ b.2.num) else decide (a.2.grid < b.2.grid))
    (s.teams.filter fun e => e.2.state == .running && f e.2)

theorem State.saveTeams_eq (s : State) (f : Team → Bool) : s.saveTeams f =
    (s.toSave f).reverse.foldl (fun s e => s.requeueTeam e.2.die e.1) ((s.toSave f).foldl (fun s e => s.saveTeam e.1 .queued) s) := rfl

theorem State.mem_toSave {s : State} (h : Map.sorted s.teams = true) (f : Team → Bool) (n : Nat) (t : Team) :
    (n, t) ∈ s.toSave f ↔ s.teams.get? n = some t ∧ t.state = .running ∧ f t = true := by
  rw [State.toSave, mem_sortBy, List.mem_filter, Map.get?_eq_some_iff h]
  simp

theorem State.requeueTeam_fold (l : List (Nat × Team)) (s : State) : s.SavesFrom (l.foldl (fun s e => s.requeueTeam e.2.die e.1) s) ∧
    (l.foldl (fun s e => s.requeueTeam e.2.die e.1) s).teams = s.teams := by
  refine List.foldlRecOn l _ (motive := fun u => s.SavesFrom u ∧ u.teams = s.teams) ⟨.refl s, rfl⟩ fun u ⟨hu, ht⟩ e _ => ?_
  obtain ⟨hq, hqt⟩ := u.requeueTeam_saves e.2.die e.1
  exact ⟨hu.trans hq, hqt.trans ht⟩

/-- The running teams that a predicate selects saved and queued again (R458). -/
theorem State.saveTeams_of_clean {s : State} {f : Team → Bool} (h : s.SavesCleanly fun t => f t = true) : s.SavesFrom (s.saveTeams f) ∧
    ∀ n t, s.teams.get? n = some t → (s.saveTeams f).teams.get? n = some (if t.state = .running ∧ f t = true then t.put else t) := by
  obtain ⟨hsorted, -, hstill⟩ := h
  have hl : ∀ e ∈ s.toSave f, s.Still e.1 := fun e he => by
    obtain ⟨ht, hr, hf⟩ := (State.mem_toSave hsorted f e.1 e.2).1 he
    exact hstill e.1 e.2 ht hr hf
  obtain ⟨hsave, hteams⟩ := State.saveTeam_fold _ hl
  obtain ⟨hqueue, hqteams⟩ := State.requeueTeam_fold (s.toSave f).reverse ((s.toSave f).foldl (fun s e => s.saveTeam e.1 .queued) s)
  rw [State.saveTeams_eq]
  refine ⟨hsave.trans hqueue, fun n t ht => ?_⟩
  have hmem : n ∈ (s.toSave f).map (fun e => e.1) ↔ t.state = .running ∧ f t = true := by
    rw [List.mem_map]
    constructor
    · rintro ⟨⟨k, u⟩, he, rfl⟩
      obtain ⟨hu, hr⟩ := (State.mem_toSave hsorted f k u).1 he
      obtain rfl : u = t := Option.some.inj (hu.symm.trans ht)
      exact hr
    · exact fun hr => ⟨(n, t), (State.mem_toSave hsorted f n t).2 ⟨ht, hr⟩, rfl⟩
  rw [hqteams, hteams, ht]
  by_cases hr : t.state = .running ∧ f t = true
  · rw [if_pos (hmem.2 hr), if_pos hr]; rfl
  · rw [if_neg (mt hmem.1 hr), if_neg hr]

/-! ## The end of a VACATE -/

theorem Team.onQuads_iff (t : Team) (qs : List Nat) : t.onQuads qs = true ↔ t.standsOn qs := by
  simp [Team.onQuads, Team.standsOn]

theorem State.allSavable_iff (s : State) (f : Nat → Team → Bool) :
    s.allSavable f = true ↔ ∀ e ∈ s.teams, e.2.state = .running → f e.1 e.2 = true → s.savable e.1 = true := by
  simp only [State.allSavable, List.all_eq_true, Bool.or_eq_true, Bool.not_eq_true', ← Bool.not_eq_true, Bool.and_eq_true, beq_iff_eq]
  refine forall_congr' fun e => imp_congr_right fun _ => ?_
  tauto

/-- The quads of a VACATE that have not left their partition yet (R458). -/
def State.vacateQuads (s : State) (mask : Nat) : List Nat := (quadsOf mask).filter fun q => s.vacating.contains q

theorem State.mem_vacateQuads {s : State} {mask q : Nat} : q ∈ s.vacateQuads mask ↔ q ∈ quadsOf mask ∧ q ∈ s.vacating := by
  simp [State.vacateQuads]

/-- The dies of a VACATE are told, their answers can come back, and every team on its quads may be saved (R458, R515). -/
def State.mayVacate (s : State) (mask : Nat) (dies : List Nat) : Prop :=
  dies = [] ∧ (∀ q ∈ s.vacateQuads mask, s.reach protrum (q / 12) = true) ∧
    ∀ e ∈ s.teams, e.2.state = .running → e.2.standsOn (s.vacateQuads mask) → s.savable e.1 = true

/-- The state as the quads of a VACATE leave their partition (R458). -/
def State.vacates (s : State) (mask : Nat) : State :=
  let qs := s.vacateQuads mask
  let t := (s.saveTeams fun t => t.onQuads qs).spillDeques (coresOf qs) fun _ => true
  { t with vacating := t.vacating.filter (fun q => !(qs.contains q)), vacated := t.vacated ++ qs }

section
variable {s : State} {k fn tag mask : Nat} {dies : List Nat} (h : s.jobs.get? k = some (.vacate fn tag mask dies))
include h

theorem execVacateComplete_of_may (hm : s.mayVacate mask dies) : execVacateComplete k s = .next ((s.vacates mask).endJob k fn tag 0 0 0) := by
  obtain ⟨hd, hr, hs⟩ := hm
  have hreach : ((s.vacateQuads mask).all fun q => s.reach protrum (q / 12)) = true := List.all_eq_true.2 hr
  have hsave : s.allSavable (fun _ t => t.onQuads (s.vacateQuads mask)) = true := by
    simpa only [State.allSavable_iff, Team.onQuads_iff] using hs
  simp only [State.vacateQuads] at hreach hsave
  simp only [execVacateComplete, h, hd, hreach, hsave]
  rfl

theorem execVacateComplete_of_not (hm : ¬s.mayVacate mask dies) : execVacateComplete k s = .next (s.push (.vacateComplete k)) := by
  have hcond : (!(dies == []) || !((s.vacateQuads mask).all fun q => s.reach protrum (q / 12)) ||
      !(s.allSavable fun _ t => t.onQuads (s.vacateQuads mask))) = true := by
    by_contra hc
    simp only [Bool.or_eq_true, Bool.not_eq_true', not_or, Bool.not_eq_false, beq_iff_eq, List.all_eq_true, State.allSavable_iff, Team.onQuads_iff] at hc
    obtain ⟨⟨hd, hr⟩, hs⟩ := hc
    exact hm ⟨hd, hr, hs⟩
  simp only [State.vacateQuads] at hcond
  simp only [execVacateComplete, h]
  rw [if_pos hcond]

end

/-- Quads whose teams have nothing in flight leave their partition: the teams are queued again, and the save areas alone are written (R458, R475). -/
theorem State.vacates_of_clean {s : State} {mask : Nat} (h : s.SavesCleanly fun t => t.standsOn (s.vacateQuads mask)) :
    (s.vacates mask).layer = s.layer ∧ (s.dram.wf = true → s.savedOnly (s.vacates mask)) ∧
      (∀ n t, s.teams.get? n = some t →
        (s.vacates mask).teams.get? n = some (if t.state = .running ∧ t.standsOn (s.vacateQuads mask) then t.put else t)) ∧
      (s.vacates mask).vacating = s.vacating.filter (fun q => !((s.vacateQuads mask).contains q)) ∧
      (s.vacates mask).vacated = s.vacated ++ s.vacateQuads mask := by
  have hclean : s.SavesCleanly fun t => t.onQuads (s.vacateQuads mask) = true := by simpa only [Team.onQuads_iff] using h
  obtain ⟨-, hdeques, -⟩ := h
  obtain ⟨hsave, hteams⟩ := State.saveTeams_of_clean hclean
  obtain ⟨hspill, hsteams⟩ := State.spillDeques_saves (fun n => (hsave.deques n).trans (hdeques n)) (coresOf (s.vacateQuads mask)) fun _ => true
  have hall := hsave.trans hspill
  refine ⟨hall.layer, fun hw => ⟨hall.host, hall.flash, hall.dram hw⟩, fun n t ht => ?_, ?_, ?_⟩
  · refine (congrArg (fun m => Map.get? m n) hsteams).trans ((hteams n t ht).trans ?_)
    simp only [Team.onQuads_iff]
  · exact congrArg (List.filter _) hall.vacating
  · exact congrArg (· ++ s.vacateQuads mask) hall.vacated

end Sys2Proof.Machine
end

section
/-! PROOFS. The module's commands and doorbells, and the events that complete them. -/

namespace Sys2Proof.Machine

/-- Settles O51: each clause is what the lemmas about its command, its doorbell or its event say. Two carry the weight: a VACATE's end rests on what
saves of teams with nothing in flight keep (SavesFrom), and LNKSVC on the three pieces of the service routine that run at once. -/
theorem moduleCommands : Obligations.ModuleCommands := by
  unfold Obligations.ModuleCommands
  refine ⟨?notServing, ?virtual, ?doorbells, ?reserved, ?intake, ?vecset, ?quads, ?vacateComplete, ?partset, ?partsetFill, ?partmem, ?flipsIn,
    ?partmemJob, ?weightStore, ?commit, ?lnksvc⟩
  case notServing => exact fun s fn op cmd i hi hs => exec_of_not_serving hs hi
  case virtual =>
    intro s fn cmd hs hfn i hi
    simp only [List.mem_cons, List.not_mem_nil, or_false] at hi
    rcases hi with rfl | rfl | rfl | rfl | rfl | rfl <;> exact pfCommand_of_virtual hs hfn ..
  case doorbells => exact fun s fn index hs h => ⟨execHqCmdtailDoorbell_of_index hs fn h, execHqEvtheadWrite_of_index hs fn h⟩
  case reserved => exact fun s fn index hs h => ⟨execHqCmdtailDoorbell_of_reserved hs fn h, execHqEvtheadWrite_of_reserved hs fn h⟩
  case intake =>
    intro s s0 fn b q n cmd q0 s1 hs hen hne hread
    have hrun : runAct (.commandIntake fn) s = startCommand fn b s0 := runIntake_of_read hs hen hne hread
    rw [hrun]
    exact ⟨startCommand_of_switching, fun hsw => ⟨fun h1 h2 i hi => startCommand_of_row hsw h1 h2 hi, startCommand_of_malformed hsw⟩⟩
  case vecset => exact fun s cmd hs => execVecset_physical hs cmd
  case quads =>
    intro s fn cmd hs qs
    refine ⟨fun hfn h => ?_, fun hown => ?_⟩
    · have hnot := State.not_ownsQuads hfn h
      exact ⟨execVacate_of_foreign hs hnot, execHostReturn_of_foreign hs hnot⟩
    · have ho := (s.ownsQuads_iff fn qs).2 hown
      refine ⟨fun h => ⟨_, execVacate_of_mapped hs ho h, fun q => ?_⟩, execVacate_of_free hs ho, execHostReturn_of_unvacated hs ho, fun h => ?_⟩
      · rw [bit_quadMask ((quadsOf_pairwise _).filter _), List.mem_filter]
      · obtain ⟨w, hw, -⟩ := State.wakes_rouse { s with vacated := s.vacated.filter fun q => !(qs.contains q) }
        refine ⟨_, execHostReturn_of_vacated hs ho h, ?_⟩
        rw [hw]
        exact ⟨rfl, rfl⟩
  case vacateComplete =>
    intro s k fn tag mask dies hjob qs
    refine ⟨fun h => execVacateComplete_of_not hjob ?_, fun hd hr hs hclean => ?_⟩
    · rintro ⟨hd, hr, hs⟩
      rcases h with h | ⟨q, hq, h⟩ | ⟨e, he, hrun, hon, h⟩
      · exact h hd
      · simp [hr q hq] at h
      · simp [hs e he hrun hon] at h
    · obtain ⟨hlayer, hmem, hteams, hgoing, hgone⟩ := State.vacates_of_clean hclean
      refine ⟨_, execVacateComplete_of_may hjob ⟨hd, hr, hs⟩, hlayer, hmem, fun n t ht => ⟨fun h => ?_, fun h => ?_⟩, fun q => ?_, fun q => ?_⟩
      · exact (hteams n t ht).trans (congrArg some (if_pos h))
      · exact (hteams n t ht).trans (congrArg some (if_neg h))
      · simp only [hgoing, List.mem_filter, Bool.not_eq_true', List.contains_eq_mem, decide_eq_false_iff_not, State.mem_vacateQuads]
        tauto
      · rw [hgone, List.mem_append, State.mem_vacateQuads]
  case partset =>
    intro s cmd hs vf qs need
    exact ⟨execPartset_of_bad_function hs, fun h1 h16 => ⟨execPartset_of_taken_quad hs h1 h16, fun hf =>
      ⟨execPartset_of_small_save hs h1 h16 hf, execPartset_of_fit hs h1 h16 hf⟩⟩⟩
  case partsetFill =>
    intro s k tag vf mask hjob
    obtain ⟨b, w, heq⟩ := s.assigned_eq vf mask
    refine ⟨_, execPartsetZeroFillComplete_of_job hjob, ?_⟩
    rw [heq]
    refine ⟨fun q => Map.getD_foldl_set .., rfl, fun q hq a ha => ?_, rfl, rfl, rfl⟩
    refine State.dropQuads_layer _ _ _ (.inr ⟨q, hq, ?_⟩)
    simp only [inQuad, layerKey]
    omega
  case partmem =>
    intro s cmd hs owner first count
    refine ⟨execPartmem_of_bad_range hs, fun ho hc hr => ⟨_, execPartmem_of_range hs ho hc hr, ?_⟩⟩
    obtain ⟨w, hw, hmem⟩ := State.addJob_eq { s with granules := (List.range count).foldl (fun m k =>
      if owner = 0 then m.erase (first + k) else m.set (first + k) owner) s.granules } (.partmem cmd.tag (s.flipsIn first count))
    rw [hw]
    exact ⟨Map.get?_set_self .., hmem, ⟨rfl, rfl, rfl, rfl⟩, getD_granules owner first count s.granules⟩
  case flipsIn => exact fun s first count fn page => State.mem_flipsIn
  case partmemJob =>
    intro s k tag flips hjob going
    have hgoing : ∀ x, s.flips x = true ↔ going x := s.flips_iff
    have hrun : runAct (.job k) s = runPartmem k tag flips s := by
      show runJob k s = _
      simp only [runJob, hjob]
    rw [hrun]
    refine ⟨fun h => runPartmem_of_over (by simpa only [hgoing] using h) k tag, fun h => ⟨flips.filter s.flips, fun x => ?_, ?_⟩⟩
    · rw [List.mem_filter, hgoing]
    · exact runPartmem_of_going (by simpa only [hgoing] using h) k tag
  case weightStore =>
    intro s cmd hs off n good
    have hgood : storeRangeOk off n = true ↔ good := storeRangeOk_iff
    refine ⟨fun h => execWswrite_of_bad_range hs fun hr => h ⟨hgood.1 hr.1, hr.2⟩, fun h => execWstrim_of_bad_range hs (mt hgood.1 h),
      fun hg => execWstrim_of_past_end hs (hgood.2 hg), fun hg => execWswrite_of_past_end hs (hgood.2 hg),
      fun hg ha hle m hm hok => ⟨fun s1 hf => ?_, fun hf => ?_⟩,
      fun hg hle => ⟨fun s1 units ha hu => ?_, fun b ha hok => ?_, ?_⟩⟩
    · exact execWswrite_of_fail hs (hgood.2 hg) ha hle (State.readUnits_of_fail hm hok hf _)
    · exact execWswrite_of_wait hs (hgood.2 hg) ha hle (State.readUnits_of_wait hm hok hf _)
    · exact ⟨execWswrite_of_units hs (hgood.2 hg) ha hle hu, State.readUnits_numbers hu⟩
    · obtain ⟨hmem, hjob, hunits⟩ := s.stageUnits_range cmd.tag (off / 4096) (n / 4096) b
      exact ⟨_, execWswrite_of_units hs (hgood.2 hg) ha hle (State.readUnits_of_reads hok _), hmem, hjob, hunits⟩
    · obtain ⟨hmem, hjob, hunits⟩ := s.stageUnits_range cmd.tag (off / 4096) (n / 4096) fun _ => []
      exact ⟨_, execWstrim_of_range hs (hgood.2 hg) hle, hmem, hjob, hunits⟩
  case commit =>
    intro s unit b hb ha hlen hwf
    obtain ⟨hflash, hbad, hstaged⟩ := (s.switched unit b).unitWritten_keeps unit
    refine ⟨_, execStagedUnitCommit_of_served hb ha, fun a => ?_, ?_, fun hsorted => ?_, fun k tag hjobs => ?_⟩
    · rw [hflash, show (unit + 1) * 4096 = unit * 4096 + 4096 by ring]
      exact Memory.get_clear_write s.flash (unit * 4096) 4096 b a hwf hlen
    · rw [hbad]
      simp [State.switched]
    · rw [hstaged]
      exact Map.get?_erase_self s.staged unit hsorted
    · rw [State.unitWritten_of_last (s := s.switched unit b) hjobs]
      refine ⟨?_, State.endJob_pending ..⟩
      rw [State.endJob_jobs, show (s.switched unit b).jobs = [(k, .wswrite tag [unit])] from hjobs]
      simp [Map.erase]
  case lnksvc =>
    intro s cmd hs
    refine ⟨execLnksvc_of_no_end hs, fun link side m hend hl h0 h1 => ⟨_, execLnksvc_of_end hs hend, ?_⟩⟩
    obtain ⟨⟨e, d, v, heq⟩, hserv, hends⟩ := State.askService_of_active
      (s := { s with jobs := s.jobs.set s.nextId (.lnksvc cmd.tag link m), nextId := s.nextId + 1 }) hl h0 h1 (some s.nextId)
    refine ⟨?_, hserv, hends⟩
    rw [heq]
    exact Map.get?_set_self ..

end Sys2Proof.Machine
end

section
/-! PROOFS. The bias flip of a page beyond the graphics DRAM (R17, R40, R45), and the state after reset. -/

namespace Sys2Proof.Machine

/-! ## An ownership response for a page that does not exist

The statement names the die of a page as the quotient page * 65536 / 2^37, without a bound on the page number. The model takes R49's bits 38:37.
They differ from page 2^23 on, which MEM_BIASPAGE cannot hold (R40) but a state can: there the quotient is 4, the number of Protrum itself. -/

/-- A flip to device bias of the first page beyond the graphics DRAM, with one request unanswered. -/
def flipPastDram : Flip := ⟨2 ^ 23, true, [0]⟩

/-- The state after reset, but for that flip of function 0: no link carries traffic. -/
def flippingPastDram : State := { State.reset with bias := [(0, ⟨2 ^ 23, true, 0, false, some flipPastDram⟩)] }

theorem flippingPastDram_die_unreached : flippingPastDram.reach protrum (dieOfDpa (flipPastDram.page * 65536)) = false := by decide

theorem flippingPastDram_quotient_reached : flippingPastDram.reach protrum (flipPastDram.page * 65536 / 2 ^ 37) = true := by decide

/-- The response waits for the link to die 0, so nothing changes. -/
theorem execBiasOwnershipResponse_flippingPastDram : exec (.biasOwnershipResponse 0 0 none) flippingPastDram = .next flippingPastDram := by
  have hflip : (flippingPastDram.biasOf 0).flip = some flipPastDram := rfl
  simp [exec, execBiasOwnershipResponse, hflip, flippingPastDram_die_unreached]

/-- Refutes O52: at page 2^23 the ownership clause takes Protrum for the page's die, which Protrum always reaches, and so requires the flip to end;
the response waits for the link to die 0 (bits 38:37 of the address, R49), which is down. -/
theorem not_hostMemoryEvents : ¬ Obligations.HostMemoryEvents := by
  rintro ⟨-, -, -, -, -, -, hresponse, -⟩
  obtain ⟨-, hanswered, -, -⟩ := hresponse flippingPastDram 0 0 flipPastDram none rfl nofun
  obtain ⟨s', hexec, -, -, -, -, hlast⟩ := hanswered rfl flippingPastDram_quotient_reached (by decide)
  obtain rfl : s' = flippingPastDram := by
    simpa [execBiasOwnershipResponse_flippingPastDram, eq_comm] using hexec
  have hended := congrArg BiasRegs.flip (hlast rfl).2
  exact absurd hended (by decide)

/-! ## The state after reset -/

/-- Every memory is empty and the HDM decoder uncommitted. -/
theorem State.reset_memoriesOk : State.reset.MemoriesOk := ⟨rfl, rfl, rfl, rfl, nofun⟩

theorem State.reset_biasOf (fn : Nat) : State.reset.biasOf fn = BiasRegs.reset := rfl

theorem State.reset_wayp (die slice : Nat) : State.reset.wayp die slice = Waypart.reset := rfl

theorem State.reset_queueOf (fn : Nat) : State.reset.queueOf fn = HostQueue.reset := rfl

theorem State.reset_powerOf (quad : Nat) : State.reset.powerOf quad = Power.reset := rfl

theorem State.reset_linkEnd (link side m : Nat) : State.reset.linkEnd link side m = LinkEnd.reset := rfl

/-- Settles O59: the register files that the reset state leaves out read as their reset records, which hold the spec's values. -/
theorem resetState : Obligations.ResetState := by
  refine ⟨rfl, rfl, rfl, rfl, rfl, State.reset_memoriesOk, fun _ => ⟨rfl, rfl, rfl⟩, fun _ => rfl, State.reset_biasOf, fun _ => rfl, rfl, rfl,
    fun die slice => ?ways, State.reset_queueOf, fun quad => ?power, fun link side m => ?linkEnd, rfl, rfl, rfl⟩
  case ways => simp [State.reset_wayp, Waypart.reset]
  case power => simp [State.reset_powerOf, Power.reset]
  case linkEnd => simp [State.reset_linkEnd, LinkEnd.reset]

end Sys2Proof.Machine
end

section
/-! PROOFS. What every step keeps of the memories (R32, R37, R49). A lemma named after a function of the model with `_ok` behind it says that the
function keeps the canonical form of the memories and the alignment of the HDM range: what it gives has its memories in form if what it
takes has. Most functions change nothing that the form speaks of, and their lemmas follow the model's own branches and calls. Memory itself
is written by few: the writes of bytes and pages at a place, the write-back of a line, the host's writes, the save of a team, the zeroing of
the layer, of a ring and of a DRAM device, and the switch of a flash unit; the HDM range is set by its decoder's commit alone. -/

namespace Sys2Proof.Machine

/-! ## The form of what a function gives

A function of the model may give a state with something beside it, or no state. Each predicate here says that the state given has its
memories in form; the lemma named `of_` and a constructor takes the state out of a match on the function's result. -/

/-- An instruction that goes on leaves the memories in form. -/
def ResultOk : Result → Prop
  | .next s => s.MemoriesOk
  | _ => True

/-- The state, if there is one, has its memories in form. -/
def OptionOk : Option State → Prop
  | some s => s.MemoriesOk
  | none => True

/-- The state, if no fault stands in its place, has its memories in form. -/
def ExceptOk {ε : Type} : Except ε State → Prop
  | .ok s => s.MemoriesOk
  | .error _ => True

/-- The state of a drain's next place has its memories in form. -/
def DrainStep.Ok : DrainStep → Prop
  | .place s _ => s.MemoriesOk
  | .waits s => s.MemoriesOk
  | .refuse s _ _ => s.MemoriesOk

/-- The state after the reads of an entry has its memories in form. -/
def Reads.Ok : Reads → Prop
  | .ok s _ => s.MemoriesOk
  | .wait s => s.MemoriesOk
  | .fail s _ _ _ => s.MemoriesOk

/-- The state after a fetch from memory has its memories in form. -/
def Fetched.Ok {α : Type} : Fetched α → Prop
  | .ok s _ => s.MemoriesOk
  | .wait s => s.MemoriesOk
  | .fail s _ _ => s.MemoriesOk

/-- The state after a read at IO virtual addresses has its memories in form. -/
def IoRead.Ok : IoRead → Prop
  | .ok s _ => s.MemoriesOk
  | .fail s => s.MemoriesOk
  | .wait => True

/-- The state after a unit of a transfer has its memories in form. -/
def UnitEnd.Ok : UnitEnd → Prop
  | .moved s => s.MemoriesOk
  | .wait s => s.MemoriesOk
  | .fail s _ _ _ => s.MemoriesOk

/-- The state after tables are read and checked has its memories in form. -/
def Parsed.Ok {α : Type} : Parsed α → Prop
  | .ok s _ => s.MemoriesOk
  | .wait s => s.MemoriesOk
  | .no s _ => s.MemoriesOk

/-- The state after a piece of a link's service routine has its memories in form. -/
def ServiceMove.Ok : ServiceMove → Prop
  | .go s _ => s.MemoriesOk
  | .ends s _ _ => s.MemoriesOk
  | .wait => True

section
variable {α : Type} {s t : State}

theorem next_ok {r : Result} (e : r = .next s) (h : ResultOk r) : s.MemoriesOk := (e ▸ h : ResultOk (.next s))

theorem some_ok {o : Option State} (e : o = some s) (h : OptionOk o) : s.MemoriesOk := (e ▸ h : OptionOk (some s))

theorem Except.of_ok {ε : Type} {r : Except ε State} (e : r = .ok s) (h : ExceptOk r) : s.MemoriesOk :=
  (e ▸ h : ExceptOk (.ok s : Except ε State))

theorem fst_ok {p : State × α} {x : α} (e : p = (s, x)) (h : p.1.MemoriesOk) : s.MemoriesOk := (e ▸ h : State.MemoriesOk (s, x).1)

theorem DrainStep.of_place {l : Loc} {r : DrainStep} (e : r = .place s l) (h : r.Ok) : s.MemoriesOk := (e ▸ h : DrainStep.Ok (.place s l))

theorem DrainStep.of_waits {r : DrainStep} (e : r = .waits s) (h : r.Ok) : s.MemoriesOk := (e ▸ h : DrainStep.Ok (.waits s))

theorem DrainStep.of_refuse {n k : Nat} {r : DrainStep} (e : r = .refuse s n k) (h : r.Ok) : s.MemoriesOk :=
  (e ▸ h : DrainStep.Ok (.refuse s n k))

theorem Reads.of_ok {l : List (Req × List Byte)} {r : Reads} (e : r = .ok s l) (h : r.Ok) : s.MemoriesOk := (e ▸ h : Reads.Ok (.ok s l))

theorem Reads.of_wait {r : Reads} (e : r = .wait s) (h : r.Ok) : s.MemoriesOk := (e ▸ h : Reads.Ok (.wait s))

theorem Reads.of_fail {n : Nat} {b : Bool} {m : Map W64} {r : Reads} (e : r = .fail s n b m) (h : r.Ok) : s.MemoriesOk :=
  (e ▸ h : Reads.Ok (.fail s n b m))

theorem Fetched.of_ok {x : α} {r : Fetched α} (e : r = .ok s x) (h : r.Ok) : s.MemoriesOk := (e ▸ h : Fetched.Ok (.ok s x))

theorem Fetched.of_wait {r : Fetched α} (e : r = .wait s) (h : r.Ok) : s.MemoriesOk := (e ▸ h : Fetched.Ok (.wait s : Fetched α))

theorem Fetched.of_fail {n : Nat} {b : Bool} {r : Fetched α} (e : r = .fail s n b) (h : r.Ok) : s.MemoriesOk :=
  (e ▸ h : Fetched.Ok (.fail s n b : Fetched α))

theorem IoRead.of_ok {b : List Byte} {r : IoRead} (e : r = .ok s b) (h : r.Ok) : s.MemoriesOk := (e ▸ h : IoRead.Ok (.ok s b))

theorem IoRead.of_fail {r : IoRead} (e : r = .fail s) (h : r.Ok) : s.MemoriesOk := (e ▸ h : IoRead.Ok (.fail s))

theorem UnitEnd.of_moved {r : UnitEnd} (e : r = .moved s) (h : r.Ok) : s.MemoriesOk := (e ▸ h : UnitEnd.Ok (.moved s))

theorem UnitEnd.of_wait {r : UnitEnd} (e : r = .wait s) (h : r.Ok) : s.MemoriesOk := (e ▸ h : UnitEnd.Ok (.wait s))

theorem UnitEnd.of_fail {n : Nat} {b : Bool} {x : W64} {r : UnitEnd} (e : r = .fail s n b x) (h : r.Ok) : s.MemoriesOk :=
  (e ▸ h : UnitEnd.Ok (.fail s n b x))

theorem Parsed.of_ok {x : α} {r : Parsed α} (e : r = .ok s x) (h : r.Ok) : s.MemoriesOk := (e ▸ h : Parsed.Ok (.ok s x))

theorem Parsed.of_wait {r : Parsed α} (e : r = .wait s) (h : r.Ok) : s.MemoriesOk := (e ▸ h : Parsed.Ok (.wait s : Parsed α))

theorem Parsed.of_no {x : Refuse} {r : Parsed α} (e : r = .no s x) (h : r.Ok) : s.MemoriesOk := (e ▸ h : Parsed.Ok (.no s x : Parsed α))

theorem ServiceMove.of_go {v : Service} {r : ServiceMove} (e : r = .go s v) (h : r.Ok) : s.MemoriesOk := (e ▸ h : ServiceMove.Ok (.go s v))

theorem ServiceMove.of_ends {n k : Nat} {r : ServiceMove} (e : r = .ends s n k) (h : r.Ok) : s.MemoriesOk :=
  (e ▸ h : ServiceMove.Ok (.ends s n k))

/-! ## Choices and folds -/

theorem ite_ok {p : Prop} [Decidable p] (hs : s.MemoriesOk) (ht : t.MemoriesOk) : (if p then s else t).MemoriesOk := by
  split <;> assumption

theorem iteFst_ok {p : Prop} [Decidable p] {x y : State × α} (hx : x.1.MemoriesOk) (hy : y.1.MemoriesOk) : (if p then x else y).1.MemoriesOk := by
  split <;> assumption

theorem iteResult_ok {p : Prop} [Decidable p] {x y : Result} (hx : ResultOk x) (hy : ResultOk y) : ResultOk (if p then x else y) := by
  split <;> assumption

theorem optionGetD_ok {o : Option State} (h : s.MemoriesOk) (ho : OptionOk o) : (o.getD s).MemoriesOk := by
  cases o with
  | none => exact h
  | some t => exact ho

theorem optionBind_ok {o : Option α} {f : α → Option State} (hf : ∀ x, OptionOk (f x)) : OptionOk (o.bind f) := by
  cases o with
  | none => trivial
  | some x => exact hf x

theorem foldl_ok {l : List α} {f : State → α → State} (h : s.MemoriesOk) (hf : ∀ s x, s.MemoriesOk → (f s x).MemoriesOk) :
    (l.foldl f s).MemoriesOk :=
  List.foldlRecOn l f (motive := State.MemoriesOk) h fun s h x _ => hf s x h

theorem foldlFst_ok {β : Type} {l : List α} {f : State × β → α → State × β} {p : State × β} (h : p.1.MemoriesOk)
    (hf : ∀ p x, p.1.MemoriesOk → (f p x).1.MemoriesOk) : (l.foldl f p).1.MemoriesOk :=
  List.foldlRecOn l f (motive := fun p => p.1.MemoriesOk) h fun p h x _ => hf p x h

/-! ## The parts of the form, and the writes of each memory -/

theorem State.MemoriesOk.host (h : s.MemoriesOk) : s.host.wf = true := h.1

theorem State.MemoriesOk.dram (h : s.MemoriesOk) : s.dram.wf = true := h.2.1

theorem State.MemoriesOk.flash (h : s.MemoriesOk) : s.flash.wf = true := h.2.2.1

theorem State.MemoriesOk.layer (h : s.MemoriesOk) : s.layer.wf = true := h.2.2.2.1

theorem State.MemoriesOk.hdm (h : s.MemoriesOk) : ∀ base, s.hdm = some base → base % 2 ^ 39 = 0 := h.2.2.2.2

theorem State.host_ok {m : Memory} (h : s.MemoriesOk) (hm : m.wf = true) : ({ s with host := m } : State).MemoriesOk :=
  ⟨hm, h.dram, h.flash, h.layer, h.hdm⟩

theorem State.dram_ok {m : Memory} (h : s.MemoriesOk) (hm : m.wf = true) : ({ s with dram := m } : State).MemoriesOk :=
  ⟨h.host, hm, h.flash, h.layer, h.hdm⟩

theorem State.flash_ok {m : Memory} (h : s.MemoriesOk) (hm : m.wf = true) : ({ s with flash := m } : State).MemoriesOk :=
  ⟨h.host, h.dram, hm, h.layer, h.hdm⟩

theorem State.layer_ok {m : Memory} (h : s.MemoriesOk) (hm : m.wf = true) : ({ s with layer := m } : State).MemoriesOk :=
  ⟨h.host, h.dram, h.flash, hm, h.hdm⟩

/-! ## Updates that touch no memory -/

theorem State.groups_ok {m : Map Group} (h : s.MemoriesOk) : ({ s with groups := m } : State).MemoriesOk := h

theorem State.grids_ok {m : Map Grid} (h : s.MemoriesOk) : ({ s with grids := m } : State).MemoriesOk := h

theorem State.ctxs_ok {m : Map Ctx} (h : s.MemoriesOk) : ({ s with ctxs := m } : State).MemoriesOk := h

theorem State.deques_ok {m : Map (List (Nat × Nat))} (h : s.MemoriesOk) : ({ s with deques := m } : State).MemoriesOk := h

theorem State.nextId_ok {n : Nat} (h : s.MemoriesOk) : ({ s with nextId := n } : State).MemoriesOk := h

theorem State.services_ok {v : List Service} (h : s.MemoriesOk) : ({ s with services := v } : State).MemoriesOk := h

end

end Sys2Proof.Machine
end

section
/-! PROOFS. Messages, the places of bytes and translation keep the form (R32, R39, R49, R66 to R70). -/

namespace Sys2Proof.Machine

section
open State

variable {s : State} {n a fn die core m pasid page line : Nat} {o : Owner} {need : Need} {x : MatItem} {d : BitVec 7} {l : Loc}

theorem State.push_ok {a : Act} (h : s.MemoriesOk) : (s.push a).MemoriesOk := by
  fun_cases State.push <;> exact h

theorem State.sendFrom_ok {at_ : Nat} {m : Msg} (h : s.MemoriesOk) : (s.sendFrom at_ m).MemoriesOk := by
  fun_cases State.sendFrom <;> exact push_ok h

theorem State.sendMsg_ok {m : Msg} (h : s.MemoriesOk) : (s.sendMsg m).MemoriesOk := sendFrom_ok h

theorem State.countBad_ok (h : s.MemoriesOk) : (s.countBad l n).MemoriesOk := by
  fun_cases State.countBad <;> exact h

theorem State.countUncorr_ok {part : Nat} (h : s.MemoriesOk) : (s.countUncorr part).MemoriesOk := h

theorem State.writeBack_ok (h : s.MemoriesOk) : (s.writeBack line).MemoriesOk := by
  fun_cases State.writeBack
  · exact h
  · exact dram_ok h (Memory.wf_write _ _ _ h.dram)

theorem State.obtainLine_ok (h : s.MemoriesOk) : (s.obtainLine line).MemoriesOk := by
  fun_cases State.obtainLine
  · exact h
  · exact writeBack_ok h

theorem State.obtain_ok (h : s.MemoriesOk) : (s.obtain a n).MemoriesOk := by
  fun_cases State.obtain
  · exact h
  · exact foldl_ok h fun _ _ h => obtainLine_ok h

theorem State.obtainAt_ok (h : s.MemoriesOk) : (s.obtainAt l n).MemoriesOk := by
  fun_cases State.obtainAt
  · exact obtain_ok h
  · exact h

theorem State.writeAt_ok {d : List Byte} (h : s.MemoriesOk) : (s.writeAt l d).MemoriesOk := by
  fun_cases State.writeAt
  · exact host_ok h (Memory.wf_write _ _ _ h.host)
  · exact dram_ok (obtain_ok h) (Memory.wf_write _ _ _ (obtain_ok h).dram)
  · exact h
  · exact layer_ok h (Memory.wf_write _ _ _ h.layer)
  · exact h

theorem State.writeRuns_ok {r : List (Nat × List Byte)} (h : s.MemoriesOk) : (s.writeRuns l r).MemoriesOk := by
  induction r generalizing s with
  | nil => exact h
  | cons x r ih => exact ih (writeAt_ok h)

theorem State.useTlb_ok {va : Nat} (h : s.MemoriesOk) : (s.useTlb die core fn pasid va).MemoriesOk := by
  fun_cases State.useTlb <;> exact h

theorem State.sendPris_ok {r : List PriReq} (h : s.MemoriesOk) : (s.sendPris r).MemoriesOk := by
  induction r generalizing s with
  | nil => exact h
  | cons p r ih =>
    rw [State.sendPris]
    split <;> exact ih h

theorem State.sendWait_ok {w : PageWait} (h : s.MemoriesOk) : (s.sendWait w).1.MemoriesOk := by
  fun_cases State.sendWait <;> exact h

theorem pumpList_ok {r acc : List PageWait} (h : s.MemoriesOk) : (pumpList r s acc).MemoriesOk := by
  induction r generalizing s acc with
  | nil => exact h
  | cons w r ih => exact ih (sendWait_ok h)

theorem State.pump_ok (h : s.MemoriesOk) : (s.pump).MemoriesOk := sendPris_ok (pumpList_ok h)

theorem State.needPage_ok (h : s.MemoriesOk) : (s.needPage o die core fn pasid need page).MemoriesOk := by
  fun_cases State.needPage
  · exact h
  · exact useTlb_ok h
  · exact h

theorem State.needPages_ok {pages : List Nat} (h : s.MemoriesOk) : (s.needPages o die core fn pasid need pages).MemoriesOk := by
  unfold State.needPages
  exact pump_ok (foldl_ok h fun _ _ h => needPage_ok h)

theorem State.pin_ok {pages : List Nat} (h : s.MemoriesOk) : (s.pin o die core fn pasid need pages).MemoriesOk := by
  unfold State.pin
  refine foldl_ok h fun _ _ h => ?_
  split <;> exact h

theorem State.dropWaits_ok (h : s.MemoriesOk) : (s.dropWaits o).MemoriesOk := h

theorem State.atsComplete_ok {nw : Bool} {reply : AtsReply} (h : s.MemoriesOk) : (s.atsComplete die fn pasid page nw reply).MemoriesOk := by
  fun_cases State.atsComplete
  · exact h
  all_goals exact pump_ok h

theorem State.pageResponse_ok {group : Nat} {reply : PriReply} (h : s.MemoriesOk) : (s.pageResponse fn group reply).MemoriesOk := by
  fun_cases State.pageResponse
  · exact h
  all_goals exact pump_ok h

theorem State.invalidate_ok {glob : Bool} {base len : Nat} (h : s.MemoriesOk) : (s.invalidate fn pasid glob base len).MemoriesOk := h

end

end Sys2Proof.Machine
end

section
/-! PROOFS. Groups, drains of the store buffer, releases and acquires, stash windows and operands keep the form (R29, R105, R204). -/

namespace Sys2Proof.Machine

section
open State

variable {s : State} {gid n k a fn ctx die team addr : Nat} {g : Group} {e : Entry} {t : Team} {o : Owner} {gd : Guard} {obj : Option Nat}
  {i : Instr} {c : Issue} {x : MatItem} {f : LM} {d : BitVec 7} {b : List Byte} {l : Loc} {act : Act}

theorem State.setGroup_ok (h : s.MemoriesOk) : (s.setGroup gid g).MemoriesOk := h

theorem State.setTeam_ok {t : Nat} {tm : Team} (h : s.MemoriesOk) : (s.setTeam t tm).MemoriesOk := h

theorem State.setCtx_ok {c : Nat} {x : Ctx} (h : s.MemoriesOk) : (s.setCtx c x).MemoriesOk := h

theorem State.setGrid_ok {x : Grid} (h : s.MemoriesOk) : (s.setGrid n x).MemoriesOk := h

theorem State.setBook_ok {x : Playbill} (h : s.MemoriesOk) : (s.setBook n x).MemoriesOk := h

theorem State.hold_ok (h : s.MemoriesOk) : ResultOk (s.hold) := h

theorem State.raiseUpper_ok {rung cause code : Nat} {pc addr : W64} (h : s.MemoriesOk) :
    (s.raiseUpper rung cause code fn ctx team pc addr).MemoriesOk := by
  fun_cases State.raiseUpper <;> exact h

theorem State.keepBytes_ok {order : Option Nat} {hpa : Option Nat} (h : s.MemoriesOk) : (s.keepBytes gid order l a hpa b).MemoriesOk := by
  fun_cases State.keepBytes <;> exact h

theorem State.dropSb_ok {e : SbEntry} (h : s.MemoriesOk) : (s.dropSb gid e).MemoriesOk := by
  fun_cases State.dropSb <;> exact h

theorem State.drainPlace_ok {e : SbEntry} (h : s.MemoriesOk) : (s.drainPlace gid g e).Ok := by
  unfold State.drainPlace
  extract_lets fn o s1 found
  have hfound : found.1.MemoriesOk := by
    unfold found
    split
    · exact h
    · exact needPages_ok h
  clear_value found
  split
  · exact countUncorr_ok h
  · split
    · exact h
    · split <;> exact h
    · split
      · split
        · exact dropWaits_ok hfound
        · exact hfound
      · split <;> exact dropWaits_ok hfound

theorem State.writeEntry_ok {e : SbEntry} (h : s.MemoriesOk) : (s.writeEntry gid e l).MemoriesOk := by
  unfold State.writeEntry
  exact writeRuns_ok (ite_ok (foldl_ok h fun _ _ h => keepBytes_ok h) h)

theorem State.drainOne_ok {e : SbEntry} (h : s.MemoriesOk) : (s.drainOne gid e).state.MemoriesOk := by
  fun_cases State.drainOne
  · exact h
  · exact h
  · exact DrainStep.of_waits ‹_› (drainPlace_ok h)
  · exact dropSb_ok (DrainStep.of_refuse ‹_› (drainPlace_ok h))
  · exact raiseUpper_ok (dropSb_ok (DrainStep.of_refuse ‹_› (drainPlace_ok h)))
  · exact DrainStep.of_place ‹_› (drainPlace_ok h)
  · exact dropSb_ok (DrainStep.of_place ‹_› (drainPlace_ok h))
  · exact dropSb_ok (writeEntry_ok (DrainStep.of_place ‹_› (drainPlace_ok h)))

theorem State.drainList_ok {r : List SbEntry} (h : s.MemoriesOk) : (s.drainList gid r).state.MemoriesOk := by
  induction r generalizing s with
  | nil => exact h
  | cons e r ih => exact ih (drainOne_ok h)

theorem State.replaceAt_ok {d : Memory} (h : s.MemoriesOk) : (s.replaceAt l n d).MemoriesOk := by
  fun_cases State.replaceAt
  · exact host_ok h (Memory.wf_replace _ _ _ _ h.host)
  · exact dram_ok (obtain_ok h) (Memory.wf_replace _ _ _ _ (obtain_ok h).dram)
  · exact h
  · exact layer_ok h (Memory.wf_replace _ _ _ _ h.layer)
  · exact h

theorem State.writePages_ok {r : List Loc} {p : List Memory} (h : s.MemoriesOk) : (s.writePages r p).MemoriesOk := by
  induction r generalizing s p with
  | nil => exact h
  | cons l r ih => cases p <;> exact ih (replaceAt_ok h)

theorem State.enterHandler_ok {p : Pend} {c : Ctx} (h : s.MemoriesOk) : (s.enterHandler gid g p c).1.MemoriesOk := by
  unfold State.enterHandler
  split
  · exact h
  · split
    · exact setGroup_ok h
    · extract_lets addr pages s1 own d
      have h1 : s1.MemoriesOk := needPages_ok h
      have hd : d.state.MemoriesOk := drainList_ok h1
      clear_value s1 d
      split
      · exact raiseUpper_ok h1
      · split
        · exact raiseUpper_ok h1
        · exact h1
        · split
          · exact hd
          · split
            · exact hd
            · exact setCtx_ok (setGroup_ok (dropWaits_ok (writePages_ok hd)))

theorem State.takeTrap_ok (h : s.MemoriesOk) : (s.takeTrap gid).1.MemoriesOk := by
  fun_cases State.takeTrap
  · exact h
  · exact raiseUpper_ok (setGroup_ok h)
  · exact enterHandler_ok h
  · exact h

theorem State.raise_ok {p : Pend} (h : s.MemoriesOk) : (s.raise gid p).MemoriesOk := by
  fun_cases State.raise
  · exact h
  · exact push_ok h
  · exact fst_ok ‹_› (takeTrap_ok (setGroup_ok h))
  · exact push_ok (fst_ok ‹_› (takeTrap_ok (setGroup_ok h)))

theorem State.raiseIssued_ok {p : Pend} (h : s.MemoriesOk) : (s.raiseIssued gid p).MemoriesOk := by
  fun_cases State.raiseIssued
  · exact h
  · exact h
  · exact raise_ok h

theorem Drained.settle_ok {d : Drained} (h : d.state.MemoriesOk) : (d.settle gid).1.MemoriesOk := by
  fun_cases Drained.settle
  · exact h
  · exact raiseIssued_ok h

theorem State.flushWindow_ok {win : Nat} {p : Nat → Bool} {drop : Bool} (h : s.MemoriesOk) : (s.flushWindow n win p drop).1.MemoriesOk := by
  fun_cases State.flushWindow
  · exact h
  · exact h
  · exact needPages_ok h
  · split
    · exact raiseUpper_ok (foldl_ok (dropWaits_ok (needPages_ok h)) fun _ _ h => writeAt_ok h)
    · exact foldl_ok (dropWaits_ok (needPages_ok h)) fun _ _ h => writeAt_ok h

theorem State.flushWindows_ok {f : Nat → Bool} {drop : Bool} {r : List Nat} (h : s.MemoriesOk) : (s.flushWindows n f drop r).1.MemoriesOk := by
  induction r generalizing s with
  | nil => exact h
  | cons k r ih => exact ih (flushWindow_ok h)

theorem State.flushTeam_ok {t : Nat} {drop : Bool} (h : s.MemoriesOk) : (s.flushTeam t ctx obj drop).1.MemoriesOk := flushWindows_ok h

theorem State.purgeRecs_ok (h : s.MemoriesOk) : (s.purgeRecs).MemoriesOk := h

theorem State.recordRelease_ok {ids : List Nat} (h : s.MemoriesOk) : (s.recordRelease gid obj ids).MemoriesOk := h

theorem State.releaseNow_ok {scope : Nat} (h : s.MemoriesOk) : (s.releaseNow gid obj scope).1.MemoriesOk := by
  fun_cases State.releaseNow
  · exact h
  · exact h
  · exact fst_ok ‹_› (Drained.settle_ok (drainList_ok (purgeRecs_ok h)))
  · exact recordRelease_ok (fst_ok ‹_› (Drained.settle_ok (drainList_ok (purgeRecs_ok h))))
  · exact flushTeam_ok (fst_ok ‹_› (Drained.settle_ok (drainList_ok (purgeRecs_ok h))))

theorem State.release_ok {scope : Nat} (h : s.MemoriesOk) : (s.release gid obj scope).1.MemoriesOk := by
  fun_cases State.release
  · exact h
  · exact h
  · exact releaseNow_ok h

theorem State.releaseAll_ok {scope : Nat} {r : List (Option Nat)} (h : s.MemoriesOk) : (s.releaseAll gid scope r).1.MemoriesOk := by
  induction r generalizing s with
  | nil => exact h
  | cons x r ih => exact ih (releaseNow_ok h)

theorem State.publishHere_ok {r : SyncRec} (h : s.MemoriesOk) : (s.publishHere obj r g).1.MemoriesOk := by
  fun_cases State.publishHere
  · exact raiseUpper_ok h
  · exact fst_ok ‹_› (flushTeam_ok (fst_ok ‹_› (Drained.settle_ok (drainList_ok h))))

theorem State.askPublish_ok {owner num : Nat} (h : s.MemoriesOk) : (s.askPublish die owner num obj).MemoriesOk := by
  fun_cases State.askPublish
  · exact h
  · exact sendMsg_ok h

theorem State.publish_ok {r : SyncRec} (h : s.MemoriesOk) : (s.publish die obj r).1.MemoriesOk := by
  fun_cases State.publish
  · exact h
  · exact publishHere_ok h
  · exact h
  · exact askPublish_ok h

theorem State.publishAll_ok {r : List SyncRec} (h : s.MemoriesOk) : (s.publishAll die obj r).1.MemoriesOk := by
  induction r generalizing s with
  | nil => exact h
  | cons x r ih => exact ih (publish_ok h)

theorem State.acquireNow_ok (h : s.MemoriesOk) : (s.acquireNow gid obj).1.MemoriesOk := by
  fun_cases State.acquireNow
  · exact h
  · exact fst_ok ‹_› (publishAll_ok h)
  · exact flushTeam_ok (fst_ok ‹_› (publishAll_ok h))

theorem State.acquireAll_ok {r : List (Option Nat)} (h : s.MemoriesOk) : (s.acquireAll gid r).1.MemoriesOk := by
  induction r generalizing s with
  | nil => exact h
  | cons x r ih => exact ih (acquireNow_ok h)

theorem State.acquire_ok (h : s.MemoriesOk) : (s.acquire gid obj).1.MemoriesOk := by
  fun_cases State.acquire
  · exact h
  · exact h
  · exact acquireNow_ok h

theorem withIssue_ok {len : Nat} {k : Issue → Result} (h : s.MemoriesOk) (hk : ∀ y, ResultOk (k y)) : ResultOk (withIssue i len s k) := by
  fun_cases withIssue
  · trivial
  · trivial
  · exact h
  · exact hk _

theorem Issue.done_ok (h : s.MemoriesOk) : ResultOk (c.done s g) := h

theorem Issue.trap_ok {cause : Nat} {irec : Map W64} (h : s.MemoriesOk) : ResultOk (c.trap s cause irec) := raise_ok h

theorem Issue.waitIn_ok {w : Wait} {a : Act} (h : s.MemoriesOk) : ResultOk (c.waitIn s w a) := push_ok h

theorem Issue.finish_ok {f : Group → Group} (h : s.MemoriesOk) : ResultOk (c.finish s f) := by
  fun_cases Issue.finish
  · exact h
  · exact Issue.done_ok h

theorem wake_ok {a : Act} {k : Group → Result} (h : s.MemoriesOk) (hk : ∀ y, ResultOk (k y)) : ResultOk (wake gid a s k) := by
  fun_cases wake
  · exact h
  · exact hk _
  · exact push_ok h

theorem arrive_ok {a : Act} {k : State → Result} (h : s.MemoriesOk) (hk : ∀ s, s.MemoriesOk → ResultOk (k s)) : ResultOk (arrive a s k) := by
  fun_cases arrive
  · exact hk _ h
  · exact ite_ok (push_ok h) h

theorem Issue.skip_ok (h : s.MemoriesOk) : ResultOk (c.skip s) := Issue.done_ok h

theorem Issue.badTrap_ok (h : s.MemoriesOk) : ResultOk (c.badTrap s) := Issue.trap_ok h

theorem State.chanOrder_ok {takes pushes : Bool} (h : s.MemoriesOk) : (s.chanOrder gid takes pushes).1.MemoriesOk := by
  fun_cases State.chanOrder
  · exact fst_ok ‹_› (iteFst_ok (release_ok h) h)
  · exact acquire_ok (fst_ok ‹_› (iteFst_ok (release_ok h) h))
  · exact fst_ok ‹_› (iteFst_ok (release_ok h) h)

theorem laneFrame_ok {len : Nat} {f : LaneForm} {chk : List LaneIn → Option (Nat × Map W64)}
    {act : Issue → BitVec 64 → List LaneIn → Group → Group × List (Nat × Nat)} (h : s.MemoriesOk) : ResultOk (laneFrame i len f s chk act) := by
  unfold laneFrame
  refine withIssue_ok h fun _ => ?_
  extract_lets
  split
  · trivial
  · split
    · exact Issue.trap_ok h
    · refine iteResult_ok h (iteResult_ok (Issue.badTrap_ok h) ?_)
      extract_lets
      split
      · split
        · exact Issue.trap_ok h
        · split
          exact Issue.done_ok h
      · split
        · exact Issue.waitIn_ok h
        · refine iteResult_ok (Issue.waitIn_ok h) (iteResult_ok (Issue.badTrap_ok h) ?_)
          split
          · split
            · exact Issue.trap_ok h
            · exact h
          · split
            · have h1 := fst_ok ‹_› (chanOrder_ok h)
              exact h1
            · split
              · split
                exact Issue.done_ok (setTeam_ok (fst_ok ‹_› (chanOrder_ok h)))
              · exact fst_ok ‹_› (chanOrder_ok h)

theorem laneOp_ok {len : Nat} {f : LaneForm} {fn : LaneIn → LaneOut} (h : s.MemoriesOk) : ResultOk (laneOp i len f fn s) := by
  unfold laneOp
  exact laneFrame_ok h

theorem uniFrame_ok {len : Nat} {d : Option Operand} {a b : Option USrc} {act : W64 → W64 → Group → Group × W64} (h : s.MemoriesOk) :
    ResultOk (uniFrame i len d a b gd s act) := by
  unfold uniFrame
  refine withIssue_ok h fun _ => ?_
  extract_lets
  split
  · trivial
  · refine iteResult_ok (Issue.trap_ok h) (iteResult_ok (Issue.trap_ok h) (iteResult_ok h (iteResult_ok (Issue.badTrap_ok h) ?_)))
    extract_lets
    split
    · refine iteResult_ok ?_ (Issue.skip_ok h)
      split
      exact Issue.done_ok h
    · split
      · exact Issue.waitIn_ok h
      · refine iteResult_ok (Issue.waitIn_ok h) (iteResult_ok (Issue.badTrap_ok h) ?_)
        split
        · have h1 := fst_ok ‹_› (chanOrder_ok h)
          exact h1
        · split
          · split
            exact Issue.done_ok (setTeam_ok (fst_ok ‹_› (chanOrder_ok h)))
          · exact fst_ok ‹_› (chanOrder_ok h)

end

end Sys2Proof.Machine
end

section
/-! PROOFS. The requests of memory instructions, the stage and the fetch keep the form (R189 to R196, R451). -/

namespace Sys2Proof.Machine

section
open State

variable {s : State} {gid id n k a team page off addr : Nat} {g : Group} {e : Entry} {t : Team} {o : Owner} {sp : Space} {need : Need} {f : LM}
  {b : List Byte} {l : Loc} {op : MemOp}

theorem State.ask_ok {qs : List Req} (h : s.MemoriesOk) : (s.ask o g need qs).MemoriesOk := by
  fun_cases State.ask
  · exact h
  · exact pump_ok (foldl_ok h fun _ _ h => needPage_ok h)

theorem State.countRead_ok (h : s.MemoriesOk) : (s.countRead g o need sp a n).MemoriesOk := by
  fun_cases State.countRead
  · exact countBad_ok h
  · exact h
  · exact h

theorem State.obtainRead_ok (h : s.MemoriesOk) : (s.obtainRead g o need sp a n).MemoriesOk := by
  fun_cases State.obtainRead
  · exact h
  · exact obtainAt_ok h
  · exact h
  · exact h

theorem State.fillSector_ok {sec : Nat} (h : s.MemoriesOk) : (s.fillSector g o k sec).1.MemoriesOk := by
  fun_cases State.fillSector
  · exact h
  · exact h
  · exact h
  · exact setTeam_ok (obtainRead_ok h)
  · exact ite_ok (countRead_ok h) h
  · exact h

theorem State.fillAll_ok {r : List (Nat × Nat)} (h : s.MemoriesOk) : (s.fillAll g o r).1.MemoriesOk := by
  induction r generalizing s with
  | nil => exact h
  | cons f r ih =>
    rw [State.fillAll]
    split
    · exact ih (fst_ok ‹_› (fillSector_ok h))
    · exact fst_ok ‹_› (fillSector_ok h)

theorem State.countFails_ok {l : List (Req × Nat)} (h : s.MemoriesOk) : (s.countFails g o need l).MemoriesOk := by
  unfold State.countFails
  exact foldl_ok h fun _ _ h => ite_ok (countRead_ok h) h

theorem State.keepReq_ok {s0 : State} {q : Req} (h : s0.MemoriesOk) : (s.keepReq gid g t o need s0 q).MemoriesOk := by
  fun_cases State.keepReq
  · exact keepBytes_ok h
  · exact h

theorem State.readAll_ok {qs : List Req} (h : s.MemoriesOk) : (s.readAll g o need qs).Ok := by
  unfold State.readAll
  extract_lets s1
  have h1 : s1.MemoriesOk := ask_ok h
  clear_value s1
  split
  · exact h1
  · split
    · exact h1
    · exact dropWaits_ok h1
    · split
      · exact h1
      · split
        · exact fst_ok ‹_› (fillAll_ok h1)
        · exact dropWaits_ok (fst_ok ‹_› (fillAll_ok h1))
        · have h2 := fst_ok ‹_› (fillAll_ok h1)
          split
          · exact h2
          · extract_lets got
            split
            · exact dropWaits_ok (foldl_ok h2 fun _ _ h => keepReq_ok (obtainRead_ok h))
            · split
              · exact h2
              · exact dropWaits_ok (countFails_ok h2)

theorem State.windowWrite_ok (h : s.MemoriesOk) : (s.windowWrite team k off b).MemoriesOk := h

theorem State.clearOwn_ok {order : Option Nat} {hpa : Option Nat} (h : s.MemoriesOk) : (s.clearOwn gid order sp a n hpa).1.MemoriesOk := by
  fun_cases State.clearOwn
  · exact h
  · exact h
  · exact Drained.settle_ok (drainList_ok h)

theorem State.storeBytes_ok {n seq : Nat} {pc : W64} {ws : List (Req × List Byte)} (h : s.MemoriesOk) :
    (s.storeBytes gid g t o n seq pc ws).1.MemoriesOk := by
  unfold State.storeBytes
  refine foldl_ok (foldl_ok (foldl_ok h fun _ _ h => writeAt_ok h) fun _ _ h => ?_) fun _ _ h => push_ok h
  split
  · refine windowWrite_ok ?_
    split
    · exact keepBytes_ok h
    · exact h
  · exact h

theorem State.setEntry_ok (h : s.MemoriesOk) : (s.setEntry gid e).MemoriesOk := h

theorem State.failEntryAt_ok {cause : Nat} {context : Bool} {recs : Map W64} {addr : W64} (h : s.MemoriesOk) :
    (s.failEntryAt gid e cause context recs addr).MemoriesOk := by
  fun_cases State.failEntryAt
  · exact h
  · exact raiseUpper_ok h
  · exact raiseIssued_ok h

theorem State.failEntry_ok {cause : Nat} {context : Bool} {recs : Map W64} (h : s.MemoriesOk) : (s.failEntry gid e cause context recs).MemoriesOk :=
  failEntryAt_ok h

theorem State.waitEntry_ok {a : Act} (h : s.MemoriesOk) : (s.waitEntry gid e a).MemoriesOk := push_ok h

theorem withEntry_ok {a : Act} {k : Group → Entry → Result} (h : s.MemoriesOk) (hk : ∀ g e, ResultOk (k g e)) :
    ResultOk (withEntry gid id a s k) := by
  unfold withEntry
  refine wake_ok h fun _ => ?_
  split
  · exact h
  · exact iteResult_ok h (iteResult_ok (failEntry_ok h) (hk _ _))

theorem State.clearOwnAll_ok {order : Option Nat} {r : List Req} (h : s.MemoriesOk) : (s.clearOwnAll gid order g o need r).1.MemoriesOk := by
  induction r generalizing s with
  | nil => exact h
  | cons q r ih => exact ih (clearOwn_ok h)

theorem State.performLoad_ok (h : s.MemoriesOk) : (s.performLoad gid e op).MemoriesOk := by
  fun_cases State.performLoad
  all_goals
    have h0 := fst_ok ‹_ = (_, _)› (by
      split
      · exact iteFst_ok (clearOwnAll_ok h) h
      · exact h)
  · exact push_ok h0
  · exact h0
  · exact failEntry_ok (dropWaits_ok (ask_ok h0))
  · exact waitEntry_ok (Reads.of_wait ‹_› (readAll_ok h0))
  · exact failEntry_ok (Reads.of_fail ‹_› (readAll_ok h0))
  · exact Reads.of_ok ‹_› (readAll_ok h0)
  · exact setGroup_ok (Reads.of_ok ‹_› (readAll_ok h0))

theorem State.performStore_ok (h : s.MemoriesOk) : (s.performStore gid g e op).MemoriesOk := by
  fun_cases State.performStore
  · exact ask_ok h
  · exact waitEntry_ok (ask_ok h)
  · exact failEntry_ok (dropWaits_ok (ask_ok h))
  · exact failEntry_ok (dropWaits_ok (ask_ok h))
  · exact waitEntry_ok (fst_ok ‹_› (fillAll_ok (ask_ok h)))
  · exact failEntry_ok (dropWaits_ok (fst_ok ‹_› (fillAll_ok (ask_ok h))))
  · exact waitEntry_ok (fst_ok ‹_› (fillAll_ok (ask_ok h)))
  · exact dropWaits_ok (fst_ok ‹_› (storeBytes_ok (fst_ok ‹_› (fillAll_ok (ask_ok h)))))
  · exact setGroup_ok (dropWaits_ok (fst_ok ‹_› (storeBytes_ok (fst_ok ‹_› (fillAll_ok (ask_ok h))))))
  · exact fst_ok ‹_› (fillAll_ok (ask_ok h))

theorem State.atomLane_ok {q : Req} (h : s.MemoriesOk) : (s.atomLane gid g o op e q).1.MemoriesOk := by
  fun_cases State.atomLane
  · exact h
  · exact h
  · exact writeAt_ok (ite_ok (keepBytes_ok (obtainAt_ok h)) (obtainAt_ok h))
  · exact ite_ok (keepBytes_ok (obtainAt_ok h)) (obtainAt_ok h)
  · exact countBad_ok h

theorem State.endAtomic_ok {a : Act} (h : s.MemoriesOk) : (s.endAtomic gid g e op a).MemoriesOk := by
  unfold State.endAtomic
  extract_lets acq
  have hacq : acq.1.MemoriesOk := iteFst_ok (acquireAll_ok h) h
  clear_value acq
  split
  · exact push_ok hacq
  · split
    · exact hacq
    · split
      · exact hacq
      · exact failEntry_ok (dropWaits_ok (setGroup_ok hacq))

theorem State.atomReady_ok {a : Act} (h : s.MemoriesOk) : (s.atomReady gid g e op a).1.MemoriesOk := by
  fun_cases State.atomReady
  · exact ask_ok h
  · exact waitEntry_ok (ask_ok h)
  · exact failEntry_ok (dropWaits_ok (ask_ok h))
  · exact failEntry_ok (dropWaits_ok (ask_ok h))
  · exact pin_ok (ask_ok h)

theorem State.performLane_ok {lane : Nat} {a : Act} (h : s.MemoriesOk) : (s.performLane gid id lane a).MemoriesOk := by
  fun_cases State.performLane
  · exact h
  · exact h
  · exact h
  · exact h
  · exact failEntry_ok h
  · exact endAtomic_ok h
  · exact h
  · exact push_ok h
  · exact fst_ok ‹_› (atomReady_ok h)
  · exact waitEntry_ok (fst_ok ‹_› (atomReady_ok h))
  · exact push_ok (fst_ok ‹_› (clearOwn_ok (fst_ok ‹_› (atomReady_ok h))))
  · exact fst_ok ‹_› (clearOwn_ok (fst_ok ‹_› (atomReady_ok h)))
  · exact push_ok (fst_ok ‹_› (atomLane_ok (fst_ok ‹_› (clearOwn_ok (fst_ok ‹_› (atomReady_ok h))))))
  · exact endAtomic_ok (setEntry_ok (fst_ok ‹_› (atomLane_ok (fst_ok ‹_› (clearOwn_ok (fst_ok ‹_› (atomReady_ok h)))))))
  · exact setEntry_ok (fst_ok ‹_› (atomLane_ok (fst_ok ‹_› (clearOwn_ok (fst_ok ‹_› (atomReady_ok h))))))
  · exact endAtomic_ok (setEntry_ok (fst_ok ‹_› (atomLane_ok (fst_ok ‹_› (clearOwn_ok (fst_ok ‹_› (atomReady_ok h)))))))
  · exact setEntry_ok (fst_ok ‹_› (atomLane_ok (fst_ok ‹_› (clearOwn_ok (fst_ok ‹_› (atomReady_ok h))))))

theorem State.enterStage_ok {place : Option Nat} (h : s.MemoriesOk) : (s.enterStage gid place).MemoriesOk := by
  fun_cases State.enterStage <;> exact h

theorem State.swapStage_ok (h : s.MemoriesOk) : (s.swapStage gid g).MemoriesOk := by
  fun_cases State.swapStage
  · exact h
  · exact enterStage_ok h

theorem State.comeUp_ok (h : s.MemoriesOk) : (s.comeUp gid).MemoriesOk := by
  fun_cases State.comeUp
  · exact h
  · exact h
  · exact enterStage_ok h
  · exact enterStage_ok h
  · exact h

theorem State.look_ok (h : s.MemoriesOk) : (s.look).MemoriesOk := h

theorem State.stagePass_ok (h : s.MemoriesOk) : (s.stagePass).MemoriesOk := by
  unfold State.stagePass
  exact foldl_ok h fun _ _ h => comeUp_ok h

theorem State.useFetch_ok (h : s.MemoriesOk) : (s.useFetch gid).MemoriesOk := by
  fun_cases State.useFetch <;> exact h

theorem fetched_ok {r : Result} (h : ResultOk r) : ResultOk (fetched gid r) := by
  cases r with
  | next t => exact ite_ok h (useFetch_ok h)
  | fault f => trivial
  | refused f => trivial

theorem State.fetchMiss_ok (h : s.MemoriesOk) : (s.fetchMiss gid g page).MemoriesOk := push_ok h

end

end Sys2Proof.Machine
end

section
/-! PROOFS. Lane and uniform instructions, control, synchronisation and the layer keep the form (R91 to R95, R178, R209, R356). -/

namespace Sys2Proof.Machine

section
open State

variable {s : State} {gid k a die team m off slice : Nat} {g : Group} {t : Team} {u : UCtx} {gd : Guard} {obj : Option Nat} {i : Instr}
  {c : Issue} {x : MatItem} {f : LM} {d : BitVec 7} {b : List Byte} {l : Loc} {op : MemOp}

theorem laneShort_ok {len : Nat} {op : LaneOp} {x : LX} (h : s.MemoriesOk) : ResultOk (laneShort i len op x s) := by
  fun_cases laneShort <;> exact laneFrame_ok h

theorem shortLane_ok {op : LaneOp} {d a b : Operand} (h : s.MemoriesOk) : ResultOk (shortLane i op d a b s) := laneShort_ok h

theorem compareOp_ok {f : LX} {w : Nat} {ty : ImmTy} {cond : LaneIn → Bool} (h : s.MemoriesOk) : ResultOk (compareOp i f w ty cond s) := by
  unfold compareOp
  exact laneFrame_ok h

theorem execSelB32_ok {x : LX} (h : s.MemoriesOk) : ResultOk (execSelB32 x s) := by
  unfold execSelB32
  extract_lets form
  exact laneFrame_ok h

theorem execAgree_ok {pd pa : BitVec 3} {neg : Bool} {kind : BitVec 2} (h : s.MemoriesOk) : ResultOk (execAgree pd pa neg kind gd s) := by
  unfold execAgree
  exact laneFrame_ok h

theorem execLmask_ok {pa : BitVec 3} {neg : Bool} {g : Guard} (h : s.MemoriesOk) : ResultOk (execLmask d pa neg g s) := by
  unfold execLmask
  exact withIssue_ok h fun _ => iteResult_ok (Issue.trap_ok h) (laneFrame_ok h)

theorem reduceOp_ok {f : LX} {op : Nat → Nat → Nat × Flags} (h : s.MemoriesOk) : ResultOk (reduceOp i f op s) := by
  unfold reduceOp
  exact laneFrame_ok h

theorem uniOp_ok {reads writes : List Nat} {k : Issue → Result} (h : s.MemoriesOk) (hk : ∀ y, ResultOk (k y)) :
    ResultOk (uniOp u reads writes s k) :=
  withIssue_ok h (fun _ => iteResult_ok (Issue.trap_ok h) (iteResult_ok h (iteResult_ok (Issue.badTrap_ok h)
    (iteResult_ok (Issue.skip_ok h) (hk _)))))

theorem uniArith_ok {op : UniOp} {d : Operand} {a : Option Operand} {b : USrc} (h : s.MemoriesOk) : ResultOk (uniArith u op d a b s) :=
  uniFrame_ok h

theorem uni2_ok {op : UniOp} {d a b : Operand} (h : s.MemoriesOk) : ResultOk (uni2 i op d a b s) := uniArith_ok h

theorem uni1_ok {op : UniOp} {d b : Operand} (h : s.MemoriesOk) : ResultOk (uni1 i op d b s) := uniArith_ok h

theorem execSmovi_ok {imm : W32} {kind : BitVec 2} {g : Guard} (h : s.MemoriesOk) : ResultOk (execSmovi d imm kind g s) :=
  uniOp_ok h (fun _ => Issue.done_ok h)

theorem uniCompare_ok {bd : BitVec 2} {a : Operand} {b : USrc} {use neg : Bool} {bc : BitVec 2} {cond : BitVec 4} {signed : Bool} {g : Guard}
    (h : s.MemoriesOk) : ResultOk (uniCompare i bd a b use neg bc cond signed g s) :=
  uniFrame_ok h

theorem execSsel_ok {d a : Operand} {b : USrc} {bc : BitVec 2} {neg : Bool} {g : Guard} (h : s.MemoriesOk) :
    ResultOk (execSsel d a b bc neg g s) := by
  unfold execSsel
  exact uniFrame_ok h

theorem execSbfe_ok {d a : Operand} {b : USrc} {signed : Bool} {g : Guard} (h : s.MemoriesOk) : ResultOk (execSbfe d a b signed g s) := by
  unfold execSbfe
  exact uniFrame_ok h

theorem opNop_ok (h : s.MemoriesOk) : ResultOk (opNop u s) := withIssue_ok h (fun _ => Issue.skip_ok h)

theorem opYield_ok (h : s.MemoriesOk) : ResultOk (opYield u s) := by
  unfold opYield
  refine withIssue_ok h fun _ => ?_
  split
  · exact Issue.skip_ok h
  · exact Issue.done_ok (enterStage_ok h)

theorem opBra_ok {off : BitVec 24} (h : s.MemoriesOk) : ResultOk (opBra u off s) := withIssue_ok h (fun _ => h)

theorem opBrx_ok {a : BitVec 7} (h : s.MemoriesOk) : ResultOk (opBrx u a s) :=
  withIssue_ok h (fun _ => iteResult_ok (Issue.trap_ok h) (iteResult_ok h (iteResult_ok (Issue.badTrap_ok h) (iteResult_ok (Issue.trap_ok h) h))))

theorem opCall_ok {off : BitVec 24} (h : s.MemoriesOk) : ResultOk (opCall u off s) := withIssue_ok h (fun _ => iteResult_ok h h)

theorem opRet_ok (h : s.MemoriesOk) : ResultOk (opRet u s) :=
  withIssue_ok h (fun _ => iteResult_ok h (iteResult_ok (Issue.badTrap_ok h) (iteResult_ok (Issue.trap_ok h) h)))

theorem opExit_ok (h : s.MemoriesOk) : ResultOk (opExit u s) :=
  withIssue_ok h (fun _ => iteResult_ok (Issue.skip_ok h) (iteResult_ok (Issue.trap_ok h) (iteResult_ok (push_ok h)
    (iteResult_ok (push_ok (setGroup_ok (ite_ok h h))) (ite_ok h h)))))

theorem opExitHelp_ok (h : s.MemoriesOk) : ResultOk (opExitHelp u s) := withIssue_ok h (fun _ => Issue.done_ok h)

theorem opTrap_ok {code : BitVec 8} (h : s.MemoriesOk) : ResultOk (opTrap u code s) :=
  withIssue_ok h (fun _ => iteResult_ok (Issue.skip_ok h) (raise_ok h))

theorem execIllegalInstruction_ok {w : W32} (h : s.MemoriesOk) : ResultOk (execIllegalInstruction w s) := withIssue_ok h (fun _ => raise_ok h)

theorem opIlock_ok {a : BitVec 7} {b : USrc} (h : s.MemoriesOk) : ResultOk (opIlock u d a b s) := by
  unfold opIlock
  refine uniOp_ok h fun _ => ?_
  extract_lets
  split
  · exact Issue.skip_ok h
  · exact iteResult_ok (Issue.done_ok h) (iteResult_ok (Issue.done_ok h) (Issue.done_ok h))

theorem opIunlock_ok {a : BitVec 7} {b : USrc} (h : s.MemoriesOk) : ResultOk (opIunlock u a b s) := by
  unfold opIunlock
  refine uniOp_ok h fun _ => ?_
  extract_lets
  split
  · exact Issue.skip_ok h
  · exact iteResult_ok (Issue.skip_ok h) (Issue.done_ok h)

theorem opGenkeyKey_ok {a : BitVec 7} (h : s.MemoriesOk) : ResultOk (opGenkeyKey u a s) := uniOp_ok h (fun _ => iteResult_ok h (Issue.done_ok h))

theorem opGenkeyCtr_ok {a : BitVec 7} (h : s.MemoriesOk) : ResultOk (opGenkeyCtr u a s) := uniOp_ok h (fun _ => iteResult_ok h (Issue.done_ok h))

theorem opGenkeyStrm_ok {a : BitVec 7} (h : s.MemoriesOk) : ResultOk (opGenkeyStrm u a s) := uniOp_ok h (fun _ => iteResult_ok h (Issue.done_ok h))

theorem opGenkeyRdkey_ok (h : s.MemoriesOk) : ResultOk (opGenkeyRdkey u d s) :=
  uniOp_ok h (fun _ => iteResult_ok (Issue.badTrap_ok h) (Issue.done_ok h))

theorem opGenkeyRd_ok (h : s.MemoriesOk) : ResultOk (opGenkeyRd u d s) :=
  uniOp_ok h (fun _ => iteResult_ok h (iteResult_ok (Issue.badTrap_ok h) (Issue.done_ok h)))

theorem opPwrhint_ok {kind : BitVec 8} (h : s.MemoriesOk) : ResultOk (opPwrhint u kind s) :=
  withIssue_ok h (fun _ => iteResult_ok (Issue.skip_ok h) (Issue.done_ok h))

theorem State.afterRead_ok {reg : Nat} (h : s.MemoriesOk) : (s.afterRead g reg).MemoriesOk := by
  fun_cases State.afterRead <;> exact h

theorem opSysrd_ok {reg : BitVec 15} (h : s.MemoriesOk) : ResultOk (opSysrd u d reg s) := by
  unfold opSysrd
  refine uniOp_ok h fun _ => ?_
  split
  · exact Issue.trap_ok h
  · exact h
  · exact Issue.done_ok (afterRead_ok h)

theorem State.dropMib_ok {lo hi : Nat} (h : s.MemoriesOk) : (s.dropMib die slice lo hi).MemoriesOk :=
  layer_ok h (Memory.wf_clear _ _ _ h.layer)

theorem State.waypartWrite_ok (h : s.MemoriesOk) : (s.waypartWrite die slice m).MemoriesOk := by
  fun_cases State.waypartWrite
  · exact h
  · exact h
  · exact h
  · exact push_ok h
  · exact push_ok (dropMib_ok h)

theorem opSyswr_ok {reg : BitVec 15} (h : s.MemoriesOk) : ResultOk (opSyswr u reg d s) :=
  uniOp_ok h (fun _ => iteResult_ok (iteResult_ok h (iteResult_ok (Issue.trap_ok h) (Issue.done_ok h))) (iteResult_ok
    (iteResult_ok (Issue.trap_ok h) (iteResult_ok h (iteResult_ok (Issue.trap_ok h) (Issue.done_ok (waypartWrite_ok h)))))
      (iteResult_ok (Issue.trap_ok h) (Issue.trap_ok h))))

theorem opRepack_ok {key : Option (BitVec 7)} (h : s.MemoriesOk) : ResultOk (opRepack u d key s) :=
  withIssue_ok h (fun _ => iteResult_ok (Issue.trap_ok h) (iteResult_ok (Issue.trap_ok h) (iteResult_ok h
    (iteResult_ok (Issue.badTrap_ok h) (iteResult_ok (Issue.skip_ok h) (iteResult_ok (push_ok h) h))))))

theorem execRepack_ok (h : s.MemoriesOk) : ResultOk (execRepack d s) := by
  unfold execRepack
  exact opRepack_ok h

theorem execRepackKey_ok {v : BitVec 7} (h : s.MemoriesOk) : ResultOk (execRepackKey d v s) := by
  unfold execRepackKey
  exact opRepack_ok h

theorem State.repackMove_ok {l : List (Nat × Group)} (h : s.MemoriesOk) : (s.repackMove l).MemoriesOk := by
  unfold State.repackMove
  extract_lets movers fl go
  have hgo : go.1.MemoriesOk := foldlFst_ok h fun _ _ h => ite_ok (push_ok h) h
  exact hgo

theorem State.repackFail_ok {l : List (Nat × Group)} (h : s.MemoriesOk) : (s.repackFail l).MemoriesOk := by
  unfold State.repackFail
  refine foldl_ok h fun _ _ h => ?_
  extract_lets
  split
  exact raise_ok h

theorem State.repackTry_ok (h : s.MemoriesOk) : (s.repackTry g).MemoriesOk := by
  unfold State.repackTry
  extract_lets l a
  have ha : a.1.MemoriesOk := foldlFst_ok h fun _ _ h => acquire_ok h
  exact ite_ok h (ite_ok (repackFail_ok h) (ite_ok (repackMove_ok ha) (push_ok ha)))

theorem execRepackArrive_ok (h : s.MemoriesOk) : ResultOk (execRepackArrive gid s) := by
  unfold execRepackArrive
  refine wake_ok h fun _ => ?_
  refine iteResult_ok h (iteResult_ok (repackTry_ok h) (iteResult_ok (push_ok h) ?_))
  split
  · exact push_ok (fst_ok ‹_› (release_ok h))
  · split
    · exact fst_ok ‹_› (release_ok h)
    · exact repackTry_ok (setGroup_ok (fst_ok ‹_› (release_ok h)))

theorem opFence_ok {scope : BitVec 3} (h : s.MemoriesOk) : ResultOk (opFence u scope s) := by
  unfold opFence
  refine withIssue_ok h fun _ => ?_
  refine iteResult_ok (Issue.skip_ok h) ?_
  split
  · exact hold_ok (fst_ok ‹_› (release_ok h))
  · split
    · exact hold_ok (fst_ok ‹_› (acquire_ok (fst_ok ‹_› (release_ok h))))
    · exact Issue.finish_ok (fst_ok ‹_› (acquire_ok (fst_ok ‹_› (release_ok h))))

theorem syncOp_ok {layer : Bool} {a : BitVec 7} {f : State → Nat → Option Nat → State × Bool}
    (h : s.MemoriesOk) (hf : ∀ s gid obj, s.MemoriesOk → (f s gid obj).1.MemoriesOk) : ResultOk (syncOp u layer a s f) := by
  unfold syncOp
  refine uniOp_ok h fun _ => ?_
  refine iteResult_ok (Issue.trap_ok h) ?_
  split
  · exact hold_ok (fst_ok ‹_› (hf _ _ _ h))
  · exact Issue.finish_ok (fst_ok ‹_› (hf _ _ _ h))

theorem opAcq_ok {layer : Bool} {a : BitVec 7} (h : s.MemoriesOk) : ResultOk (opAcq u layer a s) := by
  unfold opAcq
  exact syncOp_ok h (fun _ _ _ h => acquire_ok h)

theorem opRel_ok {scope : BitVec 3} {layer : Bool} {a : BitVec 7} (h : s.MemoriesOk) : ResultOk (opRel u scope layer a s) := by
  unfold opRel
  exact syncOp_ok h (fun _ _ _ h => release_ok h)

theorem State.setMeet_ok {x : Meet} (h : s.MemoriesOk) : (s.setMeet team m x).MemoriesOk := h

theorem opMparr_ok {m : BitVec 7} (h : s.MemoriesOk) : ResultOk (opMparr u d m s) := by
  unfold opMparr
  refine uniOp_ok h fun _ => ?_
  split
  · exact Issue.trap_ok h
  · split
    · exact hold_ok (fst_ok ‹_› (release_ok h))
    · split
      · exact fst_ok ‹_› (release_ok h)
      · split
        · exact fst_ok ‹_› (release_ok h)
        · exact Issue.done_ok (setMeet_ok (fst_ok ‹_› (release_ok h)))

theorem opMpwait_ok {m b : BitVec 7} (h : s.MemoriesOk) : ResultOk (opMpwait u m b s) := by
  unfold opMpwait
  refine uniOp_ok h fun _ => ?_
  extract_lets
  split
  · exact Issue.trap_ok h
  · refine iteResult_ok (Issue.trap_ok h) (iteResult_ok (Issue.waitIn_ok h) ?_)
    split
    · exact hold_ok (fst_ok ‹_› (acquire_ok h))
    · exact Issue.finish_ok (fst_ok ‹_› (acquire_ok h))

theorem opMpinit_ok {m b : BitVec 7} (h : s.MemoriesOk) : ResultOk (opMpinit u m b s) := by
  unfold opMpinit
  refine uniOp_ok h fun _ => ?_
  extract_lets
  split
  · exact Issue.trap_ok h
  · exact iteResult_ok (Issue.trap_ok h) (Issue.done_ok h)

theorem endWait_ok {a : Act} {f : Group → Group} (h : s.MemoriesOk) : ResultOk (endWait gid a s f) := by
  fun_cases endWait
  · exact push_ok (fst_ok ‹_› (acquire_ok h))
  · exact fst_ok ‹_› (acquire_ok h)
  · exact setGroup_ok (fst_ok ‹_› (acquire_ok h))

theorem execMpwaitWake_ok (h : s.MemoriesOk) : ResultOk (execMpwaitWake gid s) := by
  unfold execMpwaitWake
  refine wake_ok h fun _ => ?_
  split
  · split
    · exact h
    · exact iteResult_ok (push_ok h) (endWait_ok h)
  · exact h

theorem opWait_ok {l st c t : BitVec 6} (h : s.MemoriesOk) : ResultOk (opWait u l st c t s) :=
  withIssue_ok h (fun _ => iteResult_ok (Issue.skip_ok h) (iteResult_ok (Issue.badTrap_ok h) (iteResult_ok (Issue.skip_ok h) (Issue.waitIn_ok h))))

theorem execWaitRelease_ok (h : s.MemoriesOk) : ResultOk (execWaitRelease gid s) := by
  unfold execWaitRelease
  refine wake_ok h fun _ => ?_
  split
  · exact iteResult_ok h (push_ok h)
  · exact h

theorem execChannelOperationResume_ok (h : s.MemoriesOk) : ResultOk (execChannelOperationResume gid s) := by
  unfold execChannelOperationResume
  refine wake_ok h fun _ => ?_
  split <;> exact h

theorem execStoreBufferDrain_ok (h : s.MemoriesOk) : ResultOk (execStoreBufferDrain gid k s) := by
  unfold execStoreBufferDrain
  refine wake_ok h fun _ => ?_
  split
  · exact h
  · split
    · exact fst_ok ‹_› (Drained.settle_ok (drainOne_ok h))
    · exact push_ok (fst_ok ‹_› (Drained.settle_ok (drainOne_ok h)))

theorem runPublishing_ok {num : Nat} (h : s.MemoriesOk) : ResultOk (runPublishing die num obj s) := by
  fun_cases runPublishing
  · exact h
  · exact h
  · exact push_ok (fst_ok ‹_› (publishHere_ok h))
  · exact sendMsg_ok (fst_ok ‹_› (publishHere_ok h))

theorem runForcePublish_ok {num : Nat} (h : s.MemoriesOk) : ResultOk (runForcePublish die num obj s) := arrive_ok h (fun _ h => runPublishing_ok h)

theorem runPublished_ok {num : Nat} (h : s.MemoriesOk) : ResultOk (runPublished die num obj s) := arrive_ok h (fun _ h => h)

end

end Sys2Proof.Machine
end

section
/-! PROOFS. Memory instructions, texture, the engines, the matrix unit and the reservoirs keep the form (R189, R203, R262, R301). -/

namespace Sys2Proof.Machine

section
open State

variable {s : State} {gid id n k a team addr : Nat} {g : Group} {e : Entry} {t : Team} {o : Owner} {u : UCtx} {gd : Guard} {i : Instr}
  {sp : Space} {c : Issue} {x : MatItem} {f : LM} {d : BitVec 7} {b : List Byte} {l : Loc} {act : Act} {op : MemOp}

theorem State.pushEntry_ok (h : s.MemoriesOk) : (s.pushEntry gid e op).MemoriesOk := by
  fun_cases State.pushEntry
  · exact foldl_ok h fun _ _ h => push_ok h
  · exact push_ok h
  · exact push_ok h

theorem State.startEntry_ok (h : s.MemoriesOk) : (s.startEntry gid e op).MemoriesOk := by
  fun_cases State.startEntry
  · exact h
  · exact performStore_ok h
  · exact pushEntry_ok (ite_ok (ask_ok h) (setEntry_ok (ask_ok h)))

theorem memIssue_ok (h : s.MemoriesOk) : ResultOk (memIssue i op s) := by
  unfold memIssue
  refine withIssue_ok h fun _ => ?_
  extract_lets g act mask helpers bounds reads e0 qs helped released
  split
  · trivial
  · refine iteResult_ok (Issue.trap_ok h) (iteResult_ok h (iteResult_ok (Issue.badTrap_ok h) (iteResult_ok (Issue.skip_ok h) ?_)))
    split
    · exact Issue.trap_ok h
    · refine iteResult_ok (Issue.done_ok h) (iteResult_ok h (iteResult_ok h (iteResult_ok h ?_)))
      have hreleased : released.1.MemoriesOk := by
        unfold released
        split
        · exact h
        · exact iteFst_ok h (releaseAll_ok h)
      clear_value released
      split
      · exact hreleased
      · split
        · exact hreleased
        · exact startEntry_ok (setGroup_ok hreleased)

theorem State.performEntry_ok (h : s.MemoriesOk) : (s.performEntry gid id g).MemoriesOk := by
  fun_cases State.performEntry
  · exact h
  · exact h
  · exact h
  · exact failEntry_ok h
  · exact performLoad_ok h
  · exact performStore_ok h

theorem execAtomicPerform_ok {lane : Nat} (h : s.MemoriesOk) : ResultOk (execAtomicPerform gid id lane s) := wake_ok h (fun _ => performLane_ok h)

theorem execXaccCellAdd_ok {lane : Nat} (h : s.MemoriesOk) : ResultOk (execXaccCellAdd gid id lane s) := wake_ok h (fun _ => performLane_ok h)

theorem runReplay_ok (h : s.MemoriesOk) : ResultOk (runReplay gid id s) := wake_ok h (fun _ => performEntry_ok h)

theorem execStmap_ok {t gl len : BitVec 7} {rw : Bool} {win : BitVec 3} (h : s.MemoriesOk) : ResultOk (execStmap t gl len rw win gd s) := by
  unfold execStmap
  refine uniOp_ok h fun _ => ?_
  extract_lets
  split
  · trivial
  · split
    · exact Issue.trap_ok h
    · refine iteResult_ok h ?_
      split
      · exact hold_ok (fst_ok ‹_› (clearOwn_ok h))
      · refine Issue.finish_ok ?_
        have h1 := fst_ok ‹_› (clearOwn_ok h)
        exact h1

theorem execStunmap_ok {win : BitVec 3} (h : s.MemoriesOk) : ResultOk (execStunmap win gd s) := by
  unfold execStunmap
  refine uniOp_ok h fun _ => ?_
  refine iteResult_ok h ?_
  split
  · exact hold_ok (fst_ok ‹_› (flushWindow_ok h))
  · refine Issue.finish_ok ?_
    have h1 := fst_ok ‹_› (flushWindow_ok h)
    exact h1

theorem State.readHead_ok (h : s.MemoriesOk) : (s.readHead gid g e).Ok := readAll_ok h

theorem Issue.enterTex_ok (h : s.MemoriesOk) : ResultOk (c.enterTex s e) := push_ok h

theorem execTex_ok {a b : BitVec 7} {bu : Bool} {cc : BitVec 7} {hint : BitVec 2} (h : s.MemoriesOk) :
    ResultOk (execTex d a b bu cc hint gd s) := by
  unfold execTex
  refine withIssue_ok h fun _ => ?_
  refine iteResult_ok (Issue.trap_ok h) (iteResult_ok h (iteResult_ok (Issue.badTrap_ok h) (iteResult_ok (Issue.skip_ok h)
    (iteResult_ok (Issue.trap_ok h) (iteResult_ok (Issue.trap_ok h) (iteResult_ok h ?_))))))
  extract_lets
  split
  · split
    · exact Issue.trap_ok (Reads.of_ok ‹_› (readHead_ok h))
    · extract_lets
      split
      · exact Issue.trap_ok (Reads.of_ok ‹_› (readHead_ok h))
      · exact iteResult_ok h (Issue.enterTex_ok (Reads.of_ok ‹_› (readHead_ok h)))
  · exact Issue.enterTex_ok h
  · exact Issue.enterTex_ok h

theorem State.texSample_ok {t : TexHdr} (h : s.MemoriesOk) : (s.texSample gid g e t).MemoriesOk := by
  fun_cases State.texSample
  · exact failEntry_ok h
  · exact waitEntry_ok (Reads.of_wait ‹_› (readAll_ok h))
  · exact failEntry_ok (Reads.of_fail ‹_› (readAll_ok h))
  · exact Reads.of_ok ‹_› (readAll_ok h)
  · exact setGroup_ok (Reads.of_ok ‹_› (readAll_ok h))

theorem State.texGo_ok {x : Nat} (h : s.MemoriesOk) : (s.texGo gid e x).MemoriesOk := by
  fun_cases State.texGo
  · exact failEntry_ok h
  · exact texSample_ok h
  · exact h

theorem State.performTex_ok (h : s.MemoriesOk) : (s.performTex gid g e).MemoriesOk := by
  fun_cases State.performTex
  · exact texGo_ok h
  · exact waitEntry_ok (Reads.of_wait ‹_› (readHead_ok h))
  · exact failEntry_ok (Reads.of_fail ‹_› (readHead_ok h))
  · exact texGo_ok (setEntry_ok (Reads.of_ok ‹_› (readHead_ok h)))

theorem State.keepSource_ok {dsp ssp : Space} {r : Remain} {qs : List Req} (h : s.MemoriesOk) :
    (s.keepSource gid id team dsp ssp r qs).MemoriesOk := by
  fun_cases State.keepSource
  · exact h
  · refine foldl_ok h fun _ _ h => ?_
    split
    · exact ite_ok h h
    · exact h
  · exact h

theorem engineIssue_ok {reads : List (BitVec 7)} (h : s.MemoriesOk) : ResultOk (engineIssue i gd reads s) := by
  unfold engineIssue
  refine uniOp_ok h fun _ => ?_
  extract_lets
  split
  · trivial
  · split
    · exact Issue.trap_ok h
    · exact iteResult_ok (Issue.skip_ok h) (iteResult_ok (Issue.badTrap_ok h) (iteResult_ok h (iteResult_ok h (push_ok h))))

theorem State.writePieces_ok {l : List (Req × List Byte)} (h : s.MemoriesOk) : (s.writePieces g o l).MemoriesOk := by
  fun_cases State.writePieces
  · exact h
  · exact foldl_ok (foldl_ok h fun _ _ h => (by split <;> exact h)) fun _ _ h => writeAt_ok h

theorem State.readyRun_ok {order : Option Nat} {qs : List Req} (h : s.MemoriesOk) : (s.readyRun gid g o order qs).Ok := by
  fun_cases State.readyRun
  · exact h
  · exact ask_ok h
  · exact ask_ok h
  · exact dropWaits_ok (ask_ok h)
  · exact ask_ok h
  · exact dropWaits_ok (ask_ok h)
  · exact ask_ok h
  · exact fst_ok ‹_› (fillAll_ok (ask_ok h))
  · exact dropWaits_ok (fst_ok ‹_› (fillAll_ok (ask_ok h)))
  · exact fst_ok ‹_› (clearOwnAll_ok (fst_ok ‹_› (fillAll_ok (ask_ok h))))
  · exact fst_ok ‹_› (clearOwnAll_ok (fst_ok ‹_› (fillAll_ok (ask_ok h))))

theorem State.putRun_ok {order : Option Nat} {qs : List Req} {b : List (List Byte)} (h : s.MemoriesOk) : (s.putRun gid g o order qs b).Ok := by
  fun_cases State.putRun
  · exact dropWaits_ok (writePieces_ok (UnitEnd.of_moved ‹_› (readyRun_ok h)))
  · exact readyRun_ok h

theorem State.getRun_ok {qs : List Req} (h : s.MemoriesOk) : (s.getRun g o qs).Ok := by
  fun_cases State.getRun
  · exact h
  · exact readAll_ok h

theorem State.moveUnit_ok {r : Remain} {dsp ssp : Space} {dst src : Nat} (h : s.MemoriesOk) : (s.moveUnit gid id r dsp ssp dst src n).Ok := by
  fun_cases State.moveUnit
  · exact h
  · exact Reads.of_wait ‹_› (getRun_ok h)
  · exact Reads.of_fail ‹_› (getRun_ok h)
  · exact dropWaits_ok (writePieces_ok (keepSource_ok (UnitEnd.of_moved ‹_› (readyRun_ok (Reads.of_ok ‹_› (getRun_ok h))))))
  · exact readyRun_ok (Reads.of_ok ‹_› (getRun_ok h))

theorem execEngineUnitLand_ok (h : s.MemoriesOk) : ResultOk (execEngineUnitLand gid id s) := by
  unfold execEngineUnitLand
  refine withEntry_ok h fun _ _ => ?_
  split
  · exact h
  · refine iteResult_ok h ?_
    split
    · split
      · split
        · exact push_ok (UnitEnd.of_wait ‹_› (moveUnit_ok h))
        · exact failEntryAt_ok (UnitEnd.of_fail ‹_› (moveUnit_ok h))
        · split
          · exact UnitEnd.of_moved ‹_› (moveUnit_ok h)
          · exact ite_ok (setGroup_ok (UnitEnd.of_moved ‹_› (moveUnit_ok h))) (push_ok (setGroup_ok (UnitEnd.of_moved ‹_› (moveUnit_ok h))))

theorem State.modTeam_ok {t : Nat} {f : Team → Team} (h : s.MemoriesOk) : (s.modTeam t f).MemoriesOk := h

theorem State.pushMatrix_ok (h : s.MemoriesOk) : (s.pushMatrix team).MemoriesOk := by
  fun_cases State.pushMatrix
  · exact h
  · exact h
  · exact h
  · exact push_ok h

theorem State.enqueue_ok (h : s.MemoriesOk) : (s.enqueue gid team x).MemoriesOk := pushMatrix_ok h

theorem matIssue_ok {base : Instr} {reads : List Nat} {uops : Group → List W64} (h : s.MemoriesOk) : ResultOk (matIssue u base reads uops s) := by
  unfold matIssue
  refine uniOp_ok h fun _ => ?_
  split
  · trivial
  · split
    · exact Issue.trap_ok h
    · split
      · exact Issue.trap_ok h
      · exact Issue.trap_ok h
      · exact iteResult_ok h (enqueue_ok h)

theorem execMld_ok {slot : BitVec 8} {a b : BitVec 7} {hint : BitVec 2} {kindB : Bool} {dn : BitVec 2} (h : s.MemoriesOk) :
    ResultOk (execMld slot a b hint kindB sp dn gd s) := by
  unfold execMld
  exact matIssue_ok h

theorem execMma_ok {acc sa sb ty : BitVec 8} {zero : Bool} {dn : BitVec 2} {t : BitVec 16} (h : s.MemoriesOk) :
    ResultOk (execMma acc sa sb ty zero dn t gd s) := by
  unfold execMma
  exact matIssue_ok h

theorem execMloop_ok {a : BitVec 7} {acc ty : BitVec 8} {zero : Bool} {dn : BitVec 2} {slot : BitVec 4} {asp bsp : Space} (h : s.MemoriesOk) :
    ResultOk (execMloop d a acc ty zero dn slot asp bsp gd s) := by
  unfold execMloop
  exact matIssue_ok h

theorem execMst_ok {a : BitVec 7} {acc fmt : BitVec 8} {rm : BitVec 4} {dn : BitVec 2} (h : s.MemoriesOk) :
    ResultOk (execMst d a acc fmt rm sp dn gd s) := by
  unfold execMst
  exact matIssue_ok h

theorem execMscale_ok {a b : BitVec 7} {hint : BitVec 2} (h : s.MemoriesOk) : ResultOk (execMscale d a b hint sp gd s) := by
  unfold execMscale
  exact matIssue_ok h

theorem opMzero_ok {acc len : BitVec 8} (h : s.MemoriesOk) : ResultOk (opMzero u acc len s) := matIssue_ok h

theorem execMclaim_ok {slots acc : BitVec 8} (h : s.MemoriesOk) : ResultOk (execMclaim slots acc gd s) := by
  unfold execMclaim
  refine uniOp_ok h fun _ => ?_
  split
  · trivial
  · exact iteResult_ok (Issue.done_ok h) (Issue.done_ok h)

theorem opMfree_ok (h : s.MemoriesOk) : ResultOk (opMfree u s) := by
  unfold opMfree
  refine uniOp_ok h fun _ => ?_
  split
  · trivial
  · exact iteResult_ok h (Issue.done_ok h)

theorem execMdesc_ok {n : BitVec 2} {a b : BitVec 7} (h : s.MemoriesOk) : ResultOk (execMdesc n a b gd s) := by
  unfold execMdesc
  refine uniOp_ok h fun _ => ?_
  split
  · trivial
  · exact iteResult_ok (Issue.trap_ok h) (Issue.done_ok h)

theorem execMlease_ok {steps : BitVec 9} (h : s.MemoriesOk) : ResultOk (execMlease steps gd s) := uniOp_ok h (fun _ => Issue.done_ok h)

theorem execMrd_ok {a : BitVec 7} {acc : BitVec 8} (h : s.MemoriesOk) : ResultOk (execMrd d a acc gd s) := by
  unfold execMrd
  refine withIssue_ok h fun _ => ?_
  extract_lets
  split
  · trivial
  · exact iteResult_ok (Issue.trap_ok h) (iteResult_ok h (iteResult_ok (Issue.badTrap_ok h) (iteResult_ok (Issue.trap_ok h)
      (iteResult_ok (Issue.skip_ok h) (iteResult_ok h (iteResult_ok (push_ok h) (iteResult_ok (Issue.badTrap_ok h) (Issue.done_ok h))))))))

theorem State.performMrd_ok (h : s.MemoriesOk) : (s.performMrd gid g e).MemoriesOk := by
  fun_cases State.performMrd
  · exact h
  · exact push_ok h
  · exact failEntry_ok h
  · exact h

theorem State.matDone_ok (h : s.MemoriesOk) : (s.matDone team x).MemoriesOk := pushMatrix_ok h

theorem State.matNext_ok {o : MatOp} {landed : Nat} (h : s.MemoriesOk) : (s.matNext team x o landed).MemoriesOk := pushMatrix_ok h

theorem State.matFail_ok {cause : Nat} {context : Bool} {addr : W64} (h : s.MemoriesOk) : (s.matFail team x cause context addr).MemoriesOk :=
  failEntryAt_ok h

theorem State.matStep_ok {d : Desc} {acc sa sb : Nat} {zero : Bool} {next : State → State}
    (h : s.MemoriesOk) (hnext : ∀ s, s.MemoriesOk → (next s).MemoriesOk) : (s.matStep team t x d acc sa sb k zero next).MemoriesOk := by
  fun_cases State.matStep
  · exact matFail_ok h
  · exact hnext _ h

theorem execMatrixStep_ok (h : s.MemoriesOk) : ResultOk (execMatrixStep team id s) := by
  fun_cases execMatrixStep
  · exact h
  · refine wake_ok h fun _ => ?_
    refine iteResult_ok (push_ok h) ?_
    split
    · exact matStep_ok h (fun _ h => matDone_ok h)
    · exact matDone_ok h
    · exact iteResult_ok (matNext_ok h) (iteResult_ok (matDone_ok h) (iteResult_ok h (matStep_ok h (fun _ h => ite_ok (matDone_ok h)
        (matNext_ok h)))))
    · exact h
    · exact h
    · exact h

theorem State.loadRow_ok {slot : Nat} {base : Int} {stride : Nat} {isB : Bool} {d : Desc} (h : s.MemoriesOk) :
    (s.loadRow team t x slot base stride isB sp d k).Ok := by
  fun_cases State.loadRow
  · exact h
  · exact Reads.of_wait ‹_› (getRun_ok h)
  · exact Reads.of_fail ‹_› (getRun_ok h)
  · exact modTeam_ok (Reads.of_ok ‹_› (getRun_ok h))

theorem runUnits_ok {f : State → Nat → UnitEnd} (h : s.MemoriesOk) (hf : ∀ s k, s.MemoriesOk → (f s k).Ok) : (runUnits f n k s).1.Ok := by
  induction n generalizing s k with
  | zero => exact h
  | succ n ih =>
    rw [runUnits]
    split
    · exact ih (UnitEnd.of_moved ‹_› (hf _ _ h))
    · exact hf _ _ h

theorem State.storeRow_ok {stride acc : Nat} {fmt : BitVec 8} {mode : Nat} {d : Desc} (h : s.MemoriesOk) :
    (s.storeRow t x addr stride acc fmt mode sp d k).Ok := by
  fun_cases State.storeRow
  · exact h
  · exact h
  · have h1 := UnitEnd.of_moved ‹_› (putRun_ok h)
    exact h1
  · exact putRun_ok h

theorem State.loadScale_ok {first : Nat} (h : s.MemoriesOk) : (s.loadScale team t x first addr sp k).Ok := by
  fun_cases State.loadScale
  · exact h
  · exact Reads.of_wait ‹_› (getRun_ok h)
  · exact Reads.of_fail ‹_› (getRun_ok h)
  · exact modTeam_ok (Reads.of_ok ‹_› (getRun_ok h))

theorem State.runTransfer_ok {f : State → Nat → UnitEnd} {done : State → State} (h : s.MemoriesOk) (hf : ∀ s k, s.MemoriesOk → (f s k).Ok)
    (hdone : ∀ s, s.MemoriesOk → (done s).MemoriesOk) : (s.runTransfer team x n f done).MemoriesOk := by
  have hr : (runUnits f (n - x.landed) x.landed s).1.Ok := runUnits_ok h hf
  fun_cases State.runTransfer with
  | case1 _ _ e =>
    rw [e] at hr
    exact hdone _ hr
  | case2 _ _ e =>
    rw [e] at hr
    exact push_ok (matNext_ok hr)
  | case3 _ _ _ _ _ e =>
    rw [e] at hr
    exact matFail_ok (matNext_ok hr)

theorem execMatrixTransferLand_ok (h : s.MemoriesOk) : ResultOk (execMatrixTransferLand team id s) := by
  fun_cases execMatrixTransferLand
  · exact h
  · refine wake_ok h fun _ => ?_
    split
    · exact runTransfer_ok h (fun _ _ h => loadRow_ok h) (fun _ h => matDone_ok h)
    · exact runTransfer_ok h (fun _ _ h => storeRow_ok h) (fun _ h => matDone_ok h)
    · exact runTransfer_ok h (fun _ _ h => loadScale_ok h) (fun _ h => matDone_ok h)
    · exact iteResult_ok h (runTransfer_ok h (fun _ _ h => by split <;> exact loadRow_ok h) (fun _ h => matNext_ok h))
    · exact h
    · exact h

theorem resFrame_ok {vr vw : List (Nat × Nat)} {wr : List (Nat × List Nat)} {ww : List Nat} {draws : Bool}
    {act : Group → Nat → Nat → Group × Flags} (h : s.MemoriesOk) : ResultOk (resFrame i gd vr vw wr ww draws s act) :=
  withIssue_ok h (fun _ => iteResult_ok (Issue.trap_ok h) (iteResult_ok h (iteResult_ok (Issue.badTrap_ok h) (Issue.done_ok h))))

theorem execResup_ok {w : BitVec 3} {a b c : BitVec 7} (h : s.MemoriesOk) : ResultOk (execResup w a b c gd s) := by
  unfold execResup
  exact resFrame_ok h

theorem execResmg_ok {wd wa : BitVec 3} {c : BitVec 7} (h : s.MemoriesOk) : ResultOk (execResmg wd wa c gd s) := by
  unfold execResmg
  exact resFrame_ok h

theorem execResfin_ok {w : BitVec 3} {cap : BitVec 16} (h : s.MemoriesOk) : ResultOk (execResfin d w cap gd s) := by
  unfold execResfin
  exact resFrame_ok h

theorem execResget_ok {w field : BitVec 3} (h : s.MemoriesOk) : ResultOk (execResget d w field gd s) := by
  unfold execResget
  split
  exact resFrame_ok h

theorem execResset_ok {w field : BitVec 3} (h : s.MemoriesOk) : ResultOk (execResset w d field gd s) := by
  unfold execResset
  split
  exact resFrame_ok h

theorem execResclr_ok {w : BitVec 3} (h : s.MemoriesOk) : ResultOk (execResclr w gd s) := by
  unfold execResclr
  exact resFrame_ok h

end

end Sys2Proof.Machine
end

section
/-! PROOFS. Rays and the solver keep the form (R281 to R331). -/

namespace Sys2Proof.Machine

section
open State

variable {s : State} {gid id n k a fn die team off : Nat} {g : Group} {e : Entry} {t : Team} {gd : Guard} {i : Instr} {sp : Space} {c : Issue}
  {sm : Sample} {f : LM} {d : BitVec 7} {b : List Byte} {act : Act}

theorem Issue.startTrav_ok {act : BitVec 64} {k : TravKind} (h : s.MemoriesOk) : ResultOk (c.startTrav s e d act k) := by
  fun_cases Issue.startTrav
  · exact h
  · exact h
  · exact push_ok h

theorem execTrace_ok {a root : BitVec 7} {rmask : BitVec 8} {flags : BitVec 5} {hint : BitVec 2} (h : s.MemoriesOk) :
    ResultOk (execTrace d a root rmask flags hint gd s) :=
  withIssue_ok h (fun _ => iteResult_ok (Issue.trap_ok h) (iteResult_ok h (iteResult_ok (Issue.badTrap_ok h)
    (iteResult_ok (Issue.trap_ok h) (iteResult_ok (Issue.trap_ok h) (iteResult_ok (Issue.skip_ok h) (Issue.startTrav_ok h)))))))

theorem travOp_ok {k : TravKind} (h : s.MemoriesOk) : ResultOk (travOp i k d gd s) :=
  withIssue_ok h (fun _ => iteResult_ok (Issue.trap_ok h) (iteResult_ok h (iteResult_ok (Issue.skip_ok h) (Issue.startTrav_ok h))))

theorem State.performWalk_ok (h : s.MemoriesOk) : (s.performWalk gid g e).MemoriesOk := by
  fun_cases State.performWalk
  · exact h
  · exact waitEntry_ok (Reads.of_wait ‹_› (readAll_ok (setGroup_ok h)))
  · exact failEntry_ok (Reads.of_fail ‹_› (readAll_ok (setGroup_ok h)))
  · exact Reads.of_ok ‹_› (readAll_ok (setGroup_ok h))
  · exact setGroup_ok (Reads.of_ok ‹_› (readAll_ok (setGroup_ok h)))
  · exact push_ok (setGroup_ok (Reads.of_ok ‹_› (readAll_ok (setGroup_ok h))))

theorem execTraversalComplete_ok (h : s.MemoriesOk) : ResultOk (execTraversalComplete gid id s) :=
  withEntry_ok h (fun _ _ => iteResult_ok (performWalk_ok h) h)

theorem execCamray_ok {tile desc : BitVec 7} {jit : Bool} {hint : BitVec 2} (h : s.MemoriesOk) : ResultOk (execCamray d tile desc jit hint gd s) :=
  withIssue_ok h (fun _ => iteResult_ok (Issue.trap_ok h) (iteResult_ok h (iteResult_ok (Issue.badTrap_ok h)
    (iteResult_ok (Issue.trap_ok h) (iteResult_ok (Issue.trap_ok h) (iteResult_ok (Issue.skip_ok h) (iteResult_ok h
      (iteResult_ok h (push_ok h)))))))))

theorem State.performCamray_ok {jit : Bool} (h : s.MemoriesOk) : (s.performCamray gid g e jit).MemoriesOk := by
  fun_cases State.performCamray
  · exact waitEntry_ok (Reads.of_wait ‹_› (readAll_ok h))
  · exact failEntry_ok (Reads.of_fail ‹_› (readAll_ok h))
  · exact failEntry_ok (Reads.of_ok ‹_› (readAll_ok h))
  · exact Reads.of_ok ‹_› (readAll_ok h)
  · exact failEntry_ok (countUncorr_ok (Reads.of_ok ‹_› (readAll_ok h)))
  · exact setGroup_ok (Reads.of_ok ‹_› (readAll_ok h))

theorem execCamrayDescriptorArrival_ok (h : s.MemoriesOk) : ResultOk (execCamrayDescriptorArrival gid id s) := by
  unfold execCamrayDescriptorArrival
  refine withEntry_ok h fun _ _ => ?_
  split
  · exact h
  · exact performCamray_ok h

theorem tabLoad_ok {a : BitVec 7} {order : Bool} (h : s.MemoriesOk) : ResultOk (tabLoad i a sp gd order s) := by
  unfold tabLoad
  refine uniOp_ok h fun _ => ?_
  extract_lets
  split
  · trivial
  · refine iteResult_ok h (iteResult_ok (Issue.trap_ok h) ?_)
    split
    · exact Issue.trap_ok h
    · exact iteResult_ok (Issue.trap_ok h) (iteResult_ok h (push_ok h))

theorem State.landTable_ok {tab : Nat} {coef : Bool} {img : List Byte} (h : s.MemoriesOk) : (s.landTable gid g t e tab coef img).MemoriesOk := by
  fun_cases State.landTable
  · exact h
  · exact failEntry_ok h
  · exact failEntry_ok h
  · exact h

theorem State.performTable_ok (h : s.MemoriesOk) : (s.performTable gid g e).MemoriesOk := by
  fun_cases State.performTable
  · exact h
  · exact waitEntry_ok h
  · exact waitEntry_ok (Reads.of_wait ‹_› (readAll_ok h))
  · exact failEntry_ok (Reads.of_fail ‹_› (readAll_ok h))
  · exact landTable_ok (Reads.of_ok ‹_› (readAll_ok h))
  · exact Reads.of_ok ‹_› (readAll_ok h)

theorem State.seqWrite_ok {ws : List Nat} (h : s.MemoriesOk) : ExceptOk (s.seqWrite fn die off ws) := by
  fun_cases State.seqWrite
  · trivial
  · exact writeAt_ok h

theorem State.setSample_ok (h : s.MemoriesOk) : (s.setSample team n sm).MemoriesOk := h

theorem State.endSample_ok {code reason : Nat} (h : s.MemoriesOk) : (s.endSample fn team t n sm code reason).MemoriesOk := by
  have hwritten := seqWrite_ok (fn := fn) (die := t.die) (off := sm.hist) (ws := sm.record code reason) h
  unfold State.endSample
  split
  · have h1 := Except.of_ok ‹_› hwritten
    exact h1
  · exact h

theorem State.seqFail_ok {f : SeqFault} (h : s.MemoriesOk) : (s.seqFail fn team t n sm f).MemoriesOk := raiseUpper_ok (endSample_ok (ite_ok h h))

theorem State.formInput_ok {img : List Byte} (h : s.MemoriesOk) : ExceptOk (s.formInput fn die sm img) := by
  fun_cases State.formInput
  · exact seqWrite_ok h
  · trivial
  · trivial

theorem State.sampleLost_ok (h : s.MemoriesOk) : OptionOk (s.sampleLost team n) := by
  fun_cases State.sampleLost
  · trivial
  · trivial
  · exact seqFail_ok h
  · trivial

theorem withSample_ok {a : Act} {ok : SampleState → Bool} {k : SeqWork → Result} (h : s.MemoriesOk) (hk : ∀ y, ResultOk (k y)) :
    ResultOk (withSample team n a ok s k) := by
  fun_cases withSample
  · exact h
  · exact h
  · exact push_ok h
  · exact some_ok ‹_› (sampleLost_ok h)
  · exact hk _

theorem execSeqStageInput_ok {sample : Nat} (h : s.MemoriesOk) : ResultOk (execSeqStageInput team sample s) := by
  unfold execSeqStageInput
  refine withSample_ok h fun _ => ?_
  refine iteResult_ok h ?_
  split
  · exact seqFail_ok h
  · exact setSample_ok (Except.of_ok ‹_› (formInput_ok h))

theorem State.nextSeqStep_ok {sample : Nat} {stage : Nat} (h : s.MemoriesOk) : (s.nextSeqStep team sample sm stage).MemoriesOk := push_ok h

theorem State.acceptStep_ok {sample : Nat} {k : SeqWork} {ynew : List Nat} {hn : Nat} (h : s.MemoriesOk) :
    (s.acceptStep fn team sample k ynew hn).MemoriesOk := by
  unfold State.acceptStep
  extract_lets sm tn sm1
  split
  · exact endSample_ok h
  · split
    · exact seqFail_ok h
    · have h1 := Except.of_ok ‹_› (seqWrite_ok h)
      extract_lets copied
      have hcopied : ExceptOk copied := by
        unfold copied
        split
        · exact h1
        · split
          · exact seqWrite_ok h1
          · trivial
      clear_value copied
      split
      · exact seqFail_ok h1
      · exact ite_ok (endSample_ok hcopied) (nextSeqStep_ok hcopied)

theorem execSeqStepEnd_ok {sample : Nat} (h : s.MemoriesOk) : ResultOk (execSeqStepEnd team sample s) := by
  unfold execSeqStepEnd
  refine withSample_ok h fun _ => ?_
  extract_lets
  split
  · exact seqFail_ok h
  · split
    · exact seqFail_ok h
    · exact iteResult_ok (acceptStep_ok (Except.of_ok ‹_› (seqWrite_ok h)))
        (iteResult_ok (endSample_ok (Except.of_ok ‹_› (seqWrite_ok h))) (nextSeqStep_ok (Except.of_ok ‹_› (seqWrite_ok h))))

theorem execSqstart_ok {a : BitVec 7} {b : BitVec 2} {tab : BitVec 3} (h : s.MemoriesOk) : ResultOk (execSqstart d a b tab gd s) := by
  unfold execSqstart
  refine uniOp_ok h fun _ => ?_
  extract_lets
  split
  · trivial
  · refine iteResult_ok h ?_
    extract_lets
    split
    · exact Issue.trap_ok h
    · exact iteResult_ok (Issue.done_ok h) (iteResult_ok (Issue.done_ok (endSample_ok h)) (Issue.done_ok (push_ok h)))

theorem State.deliver_ok {d b : Nat} (h : s.MemoriesOk) : (s.deliver gid team t d b n sm g).1.MemoriesOk := h

theorem execSqstage_ok {b : BitVec 2} {wait : Bool} (h : s.MemoriesOk) : ResultOk (execSqstage d b wait gd s) := by
  unfold execSqstage
  refine uniOp_ok h fun _ => ?_
  split
  · trivial
  · refine iteResult_ok h ?_
    split
    · split
      · exact hold_ok (some_ok ‹_› (sampleLost_ok h))
      · split
        · exact hold_ok (fst_ok ‹_› (acquire_ok h))
        · split
          · exact fst_ok ‹_› (acquire_ok h)
          · split
            exact Issue.done_ok (fst_ok ‹_› (deliver_ok (fst_ok ‹_› (acquire_ok h))))
    · exact iteResult_ok (Issue.done_ok h) (Issue.waitIn_ok h)

theorem execSqstageWake_ok (h : s.MemoriesOk) : ResultOk (execSqstageWake gid s) := by
  unfold execSqstageWake
  refine wake_ok h fun _ => ?_
  split
  · split
    · split
      · exact push_ok (some_ok ‹_› (sampleLost_ok h))
      · split
        · exact push_ok (fst_ok ‹_› (acquire_ok h))
        · split
          · exact fst_ok ‹_› (acquire_ok h)
          · split
            exact setGroup_ok (fst_ok ‹_› (deliver_ok (fst_ok ‹_› (acquire_ok h))))
    · exact iteResult_ok h (push_ok h)
  · exact h

theorem execSqret_ok {a : BitVec 7} (h : s.MemoriesOk) : ResultOk (execSqret a gd s) := by
  unfold execSqret
  refine uniOp_ok h fun _ => ?_
  refine iteResult_ok h ?_
  split
  · exact hold_ok (some_ok ‹_› (sampleLost_ok h))
  · exact Issue.trap_ok h
  · refine iteResult_ok (Issue.trap_ok h) ?_
    split
    · exact hold_ok (fst_ok ‹_› (release_ok h))
    · have h1 := fst_ok ‹_› (release_ok h)
      split
      · exact h1
      · exact iteResult_ok (Issue.done_ok (push_ok (setSample_ok h1))) (Issue.done_ok (push_ok (setSample_ok h1)))

theorem execSqstat_ok {a : BitVec 7} (h : s.MemoriesOk) : ResultOk (execSqstat d a gd s) := by
  unfold execSqstat
  refine uniOp_ok h fun _ => ?_
  extract_lets
  split
  · trivial
  · refine iteResult_ok h (iteResult_ok (Issue.trap_ok h) ?_)
    split
    · exact hold_ok (some_ok ‹_› (sampleLost_ok h))
    · exact Issue.done_ok h
    · exact Issue.done_ok h

theorem execSqdrain_ok (h : s.MemoriesOk) : ResultOk (execSqdrain d gd s) := uniOp_ok h (fun _ => Issue.waitIn_ok h)

theorem execSqdrainWake_ok (h : s.MemoriesOk) : ResultOk (execSqdrainWake gid s) := by
  unfold execSqdrainWake
  refine wake_ok h fun _ => ?_
  split
  · refine iteResult_ok (push_ok h) ?_
    split
    · exact push_ok (fst_ok ‹_› (acquire_ok h))
    · split
      · exact fst_ok ‹_› (acquire_ok h)
      · refine setGroup_ok ?_
        have h1 := fst_ok ‹_› (acquire_ok h)
        exact h1
  · exact h

end

end Sys2Proof.Machine
end

section
/-! PROOFS. Placement, the reads of the front, the host queues and the end of a team keep the form (R438 to R447, R475, R513). -/

namespace Sys2Proof.Machine

section
open State

variable {s : State} {gid n k a fn ctx die core tid tag m pasid addr : Nat} {g : Group} {e : Entry} {t : Team} {o : Owner} {x : MatItem} {f : LM}
  {b : List Byte} {l : Loc} {rd : Reader}

theorem State.readPieces_ok {r : List (Nat × Nat)} (h : s.MemoriesOk) : (s.readPieces o die core fn pasid r).Ok := by
  induction r generalizing s with
  | nil => exact h
  | cons p r ih =>
    rw [State.readPieces]
    split
    · exact h
    · split
      · exact h
      · exact h
      · split
        · exact countBad_ok h
        · split
          · exact Fetched.of_ok ‹_› (ih (obtainAt_ok h))
          · exact Fetched.of_wait ‹_› (ih (obtainAt_ok h))
          · exact Fetched.of_fail ‹_› (ih (obtainAt_ok h))

/-- A reader keeps the memories in form. -/
def Reader.Ok (rd : Reader) : Prop := ∀ {s va n}, s.MemoriesOk → (rd s va n).Ok

theorem frontRead_ok : Reader.Ok (frontRead o fn pasid) := by
  intro s va n h
  have h1 {pages : List Nat} : (s.needPages o 0 48 fn pasid .read pages).MemoriesOk := needPages_ok h
  fun_cases frontRead
  · exact h
  · exact h
  · exact h1
  · exact h1
  · exact readPieces_ok h1

theorem groupRead_ok : Reader.Ok (groupRead o gid) := by
  intro s va n h
  unfold groupRead
  extract_lets qs
  split
  · exact h
  · split
    · exact h
    · split
      · exact h
      · extract_lets s1
        have h1 : s1.MemoriesOk := ask_ok h
        clear_value s1
        split
        · exact h1
        · exact h1
        · exact h1
        · split
          · exact h1
          · split
            · exact fst_ok ‹_› (fillAll_ok h1)
            · exact fst_ok ‹_› (fillAll_ok h1)
            · have h2 := fst_ok ‹_› (fillAll_ok h1)
              split
              · exact h2
              · extract_lets got
                split
                · exact foldl_ok h2 fun _ _ h => obtainRead_ok h
                · exact h2
                · exact countFails_ok h2

theorem Parsed.andThen_ok {α β : Type} {m : Parsed α} {k : State → α → Parsed β} (h : m.Ok) (hk : ∀ s y, s.MemoriesOk → (k s y).Ok) :
    (m.andThen k).Ok := by
  cases m with
  | ok s y => exact hk s y h
  | wait s => exact h
  | no s r => exact h

theorem readAs_ok {code va : Nat} (hrd : rd.Ok) (h : s.MemoriesOk) : (readAs rd code s va n).Ok := by
  fun_cases readAs
  · exact Fetched.of_ok ‹_› (hrd h)
  · exact Fetched.of_wait ‹_› (hrd h)
  · exact Fetched.of_fail ‹_› (hrd h)

theorem require_ok {α : Type} {p : Bool} {r : Refuse} {k : Parsed α} (h : s.MemoriesOk) (hk : k.Ok) : (require p r s k).Ok := by
  unfold require
  split
  · exact hk
  · exact h

theorem parseEach_ok {α β : Type} {f : State → α → Parsed β} {r : List α} (hf : ∀ s y, s.MemoriesOk → (f s y).Ok) (h : s.MemoriesOk) :
    (parseEach f r s).Ok := by
  induction r generalizing s with
  | nil => exact h
  | cons y r ih => exact Parsed.andThen_ok (hf s y h) fun _ _ h1 => Parsed.andThen_ok (ih h1) fun _ _ h2 => h2

theorem orRefuse_ok {α : Type} {y : Option α} (h : s.MemoriesOk) : (orRefuse s y).Ok := by
  cases y <;> exact h

/-- The records of one table of an image. -/
theorem parseRecords_ok {α : Type} {r : List Nat} {at_ : Nat → Nat} {code : Nat} {parse : List Byte → Option α} (hrd : rd.Ok)
    (h : s.MemoriesOk) : (parseEach (fun s k => (readAs rd code s (at_ k) n).andThen fun s b => orRefuse s (parse b)) r s).Ok :=
  parseEach_ok (fun _ _ h => Parsed.andThen_ok (readAs_ok hrd h) fun _ _ h => orRefuse_ok h) h

theorem loadImageAt_ok {keyAddr : Nat} (hrd : rd.Ok) (h : s.MemoriesOk) : (loadImageAt rd keyAddr s addr).Ok := by
  unfold loadImageAt
  refine Parsed.andThen_ok (readAs_ok hrd h) fun _ _ h => require_ok h ?_
  refine Parsed.andThen_ok (parseRecords_ok hrd h) fun _ _ h => ?_
  refine Parsed.andThen_ok (parseRecords_ok hrd h) fun _ _ h => ?_
  refine Parsed.andThen_ok (parseRecords_ok hrd h) fun _ _ h => require_ok h ?_
  refine Parsed.andThen_ok (readAs_ok hrd h) fun _ _ h => ?_
  exact Parsed.andThen_ok (readAs_ok hrd h) fun _ _ h => require_ok h h

theorem readLaunch_ok {keyAddr : Nat} {kind : LaunchFor} (hrd : rd.Ok) (h : s.MemoriesOk) : (readLaunch rd keyAddr kind s addr).Ok := by
  unfold readLaunch
  refine require_ok h ?_
  refine Parsed.andThen_ok (readAs_ok hrd h) fun _ _ h => require_ok h ?_
  refine Parsed.andThen_ok (loadImageAt_ok hrd h) fun _ _ h => require_ok h ?_
  refine Parsed.andThen_ok (readAs_ok hrd h) fun _ _ h => require_ok h (require_ok h ?_)
  refine Parsed.andThen_ok (readAs_ok hrd h) fun _ _ h => require_ok h ?_
  refine Parsed.andThen_ok (readAs_ok hrd h) fun _ _ h => ?_
  split
  · exact h
  · exact require_ok h h

theorem State.setQueue_ok {q : HostQueue} (h : s.MemoriesOk) : (s.setQueue fn q).MemoriesOk := h

theorem State.postEvent_ok {stop : Option Nat} (h : s.MemoriesOk) : (s.postEvent fn b stop).MemoriesOk := push_ok h

theorem runEventArrive_ok {stop : Nat} (h : s.MemoriesOk) : ResultOk (runEventArrive fn stop b s) := arrive_ok h (fun _ h => postEvent_ok h)

theorem State.complete_ok {status : Nat} {r0 : Nat} (h : s.MemoriesOk) : (s.complete fn tag status ctx r0).MemoriesOk := postEvent_ok h

theorem State.ioWrite_ok (h : s.MemoriesOk) : OptionOk (s.ioWrite fn a b) := by
  fun_cases State.ioWrite
  · trivial
  · refine foldl_ok h fun _ _ h => ?_
    split
    · exact writeAt_ok h
    · exact h

theorem State.ioReadPieces_ok {r : List (Nat × Nat)} (h : s.MemoriesOk) : (s.ioReadPieces fn r).Ok := by
  induction r generalizing s with
  | nil => exact h
  | cons p r ih =>
    rw [State.ioReadPieces]
    split
    · exact h
    · exact h
    · trivial
    · split
      · exact countBad_ok h
      · split
        · exact IoRead.of_ok ‹_› (ih (obtainAt_ok h))
        · exact IoRead.of_fail ‹_› (ih (obtainAt_ok h))
        · trivial

theorem State.ioRead_ok (h : s.MemoriesOk) : (s.ioRead fn a n).Ok := ioReadPieces_ok h

theorem State.signal_ok {v : Nat} (h : s.MemoriesOk) : (s.signal fn v).MemoriesOk := by
  fun_cases State.signal <;> exact h

theorem execEventRecordWrite_ok (h : s.MemoriesOk) : ResultOk (execEventRecordWrite fn s) := by
  unfold execEventRecordWrite
  extract_lets q
  split
  · exact h
  · split
    · exact push_ok h
    · split
      · exact push_ok h
      · extract_lets s2 s3 s4
        have h3 : s3.MemoriesOk := signal_ok (setQueue_ok (some_ok ‹_› (ioWrite_ok h)))
        have h4 : s4.MemoriesOk := by
          unfold s4
          split
          · exact h3
          · split
            · exact h3
            · exact signal_ok h3
        exact ite_ok h4 (push_ok h4)

theorem State.cueRun_ok (h : s.MemoriesOk) : (s.cueRun t).MemoriesOk := by
  fun_cases State.cueRun <;> exact h

theorem State.seat_ok (h : s.MemoriesOk) : (s.seat gid g).MemoriesOk := h

theorem State.reseat_ok {x : Seat} {sub : Nat} (h : s.MemoriesOk) : (s.reseat gid die core x sub).MemoriesOk := by
  fun_cases State.reseat
  · exact h
  · exact seat_ok h

theorem State.addGroup_ok {lr : LaunchRec} {x : Seat} {sub : Nat} (h : s.MemoriesOk) : (s.addGroup tid t lr x core sub).MemoriesOk := by
  fun_cases State.addGroup
  · exact h
  · exact seat_ok h

theorem State.startTeam_ok {lr : LaunchRec} {cores : List Nat} {l : List (Seat × Nat)} (h : s.MemoriesOk) :
    (s.startTeam tid t lr cores l).MemoriesOk := by
  fun_cases State.startTeam
  · refine foldl_ok h fun _ _ h => ?_
    split
    · exact reseat_ok h
    · exact h
  · exact foldl_ok (cueRun_ok h) fun _ _ h => addGroup_ok h

theorem State.placeNow_ok (h : s.MemoriesOk) : OptionOk (s.placeNow tid) := by
  fun_cases State.placeNow
  · trivial
  · trivial
  · trivial
  · trivial
  · exact startTeam_ok h

theorem State.setQueueAt_ok {l : List Nat} (h : s.MemoriesOk) : (s.setQueueAt die l).MemoriesOk := h

theorem State.enqueueTeam_ok (h : s.MemoriesOk) : (s.enqueueTeam die tid).MemoriesOk := push_ok h

theorem State.requeueTeam_ok (h : s.MemoriesOk) : (s.requeueTeam die tid).MemoriesOk := push_ok h

theorem State.takeTeam_ok {st : TeamState} (h : s.MemoriesOk) : (s.takeTeam tid st).MemoriesOk := h

theorem State.writeSave_ok (h : s.MemoriesOk) : (s.writeSave ctx tid).MemoriesOk := by
  fun_cases State.writeSave
  · exact foldl_ok h fun _ _ h => ite_ok (dram_ok h (Memory.wf_write _ _ _ h.dram)) h
  · exact h

theorem State.countSaved_ok {from_ : Nat} {f : Nat → Bool} (h : s.MemoriesOk) : (s.countSaved from_ ctx f).MemoriesOk := by
  fun_cases State.countSaved
  · exact countBad_ok h
  · exact h

theorem State.refuseRestore_ok {cause : Nat} (h : s.MemoriesOk) : (s.refuseRestore ctx cause).MemoriesOk := by
  fun_cases State.refuseRestore
  · exact h
  · exact push_ok (raiseUpper_ok h)

theorem State.landRead_ok (h : s.MemoriesOk) : (s.landRead gid g e).MemoriesOk := by
  fun_cases State.landRead
  · exact performTex_ok h
  · exact performTable_ok h
  · exact performTable_ok h
  · exact performMrd_ok h
  · exact performWalk_ok h
  · exact performWalk_ok h
  · exact performWalk_ok h
  · exact performWalk_ok h
  · exact performCamray_ok h
  · exact performEntry_ok h

theorem State.landGroup_ok (h : s.MemoriesOk) : (s.landGroup gid).MemoriesOk := by
  fun_cases State.landGroup
  · exact h
  · refine foldl_ok h fun _ _ h => ?_
    split
    · exact h
    · exact ite_ok (landRead_ok h) h

theorem State.saveTeam_ok {st : TeamState} (h : s.MemoriesOk) : (s.saveTeam tid st).MemoriesOk := by
  fun_cases State.saveTeam
  · exact h
  · exact takeTeam_ok (writeSave_ok (foldl_ok h fun _ _ h => landGroup_ok h))

theorem State.saveTeams_ok {f : Team → Bool} (h : s.MemoriesOk) : (s.saveTeams f).MemoriesOk := by
  unfold State.saveTeams
  exact foldl_ok (foldl_ok h fun _ _ h => saveTeam_ok h) fun _ _ h => requeueTeam_ok h

theorem State.askRoom_ok {fits : State → Bool} (h : s.MemoriesOk) : (s.askRoom die fits).MemoriesOk := by
  unfold State.askRoom
  exact foldl_ok h fun _ _ h => push_ok h

theorem State.startAcquire_ok (h : s.MemoriesOk) : (s.startAcquire t).1.MemoriesOk := by
  fun_cases State.startAcquire
  · exact h
  · exact publishAll_ok h
  · exact h

theorem State.startHead_ok (h : s.MemoriesOk) : (s.startHead die tid t).MemoriesOk := by
  fun_cases State.startHead
  · exact push_ok (askRoom_ok h)
  · exact push_ok (fst_ok ‹_› (startAcquire_ok h))
  · exact push_ok (fst_ok ‹_› (startAcquire_ok h))
  · exact setQueueAt_ok (some_ok ‹_› (placeNow_ok (fst_ok ‹_› (startAcquire_ok h))))
  · exact push_ok (setQueueAt_ok (some_ok ‹_› (placeNow_ok (fst_ok ‹_› (startAcquire_ok h)))))

theorem execGangStart_ok (h : s.MemoriesOk) : ResultOk (execGangStart die s) := by
  fun_cases execGangStart
  · exact ite_ok h (push_ok h)
  · exact h
  · exact push_ok h
  · exact push_ok (refuseRestore_ok (countSaved_ok h))
  · exact startHead_ok h

theorem execStageLeave_ok (h : s.MemoriesOk) : ResultOk (execStageLeave gid s) := by
  fun_cases execStageLeave
  · exact h
  · exact h
  · exact h
  · exact swapStage_ok h
  · exact h

theorem execStageIdleTimeout_ok (h : s.MemoriesOk) : ResultOk (execStageIdleTimeout gid s) := by
  fun_cases execStageIdleTimeout
  · exact h
  · exact h
  · exact swapStage_ok h

theorem execStageTimeslice_ok (h : s.MemoriesOk) : ResultOk (execStageTimeslice gid s) := by
  fun_cases execStageTimeslice
  · exact h
  · exact h
  · exact swapStage_ok h

theorem execStageEnter_ok (h : s.MemoriesOk) : ResultOk (execStageEnter gid s) := by
  fun_cases execStageEnter
  · exact h
  · exact h
  · exact enterStage_ok h

theorem State.leaveGrid_ok {count : Bool} (h : s.MemoriesOk) : (s.leaveGrid tid t count).MemoriesOk := by
  fun_cases State.leaveGrid
  · exact h
  · exact push_ok h

theorem State.endTeam_ok (h : s.MemoriesOk) : (s.endTeam tid).MemoriesOk := by
  fun_cases State.endTeam
  · exact h
  · exact leaveGrid_ok h
  · exact leaveGrid_ok h
  · exact push_ok h
  · exact push_ok h

theorem execGroupExitComplete_ok (h : s.MemoriesOk) : ResultOk (execGroupExitComplete gid s) := by
  unfold execGroupExitComplete
  refine wake_ok h fun _ => ?_
  refine iteResult_ok h (iteResult_ok (push_ok h) ?_)
  split
  · exact push_ok (fst_ok ‹_› (release_ok h))
  · have h1 := fst_ok ‹_› (release_ok h)
    split
    · exact h1
    · refine ite_ok ?_ (endTeam_ok ?_) <;> exact repackTry_ok h1

end

end Sys2Proof.Machine
end

section
/-! PROOFS. Playbills, the cue board and tasks keep the form (R405 to R437). -/

namespace Sys2Proof.Machine

section
open State

variable {s : State} {gid id n k a fn ctx die core team tid grid task book pasid : Nat} {g : Group} {e : Entry} {t : Team} {o : Owner} {u : UCtx}
  {gd : Guard} {c : Issue} {x : MatItem} {f : LM} {d : BitVec 7} {b : List Byte} {op : MemOp} {rd : Reader}

theorem refusing_ok {α : Type} {r : Option Refuse} {k : Parsed α} (h : s.MemoriesOk) (hk : k.Ok) : (refusing r s k).Ok := by
  cases r
  · exact hk
  · exact h

theorem loadPass_ok {keyAddr seed : Nat} {p : PassRec × Nat} (hrd : rd.Ok) (h : s.MemoriesOk) : (loadPass rd keyAddr seed s p).Ok := by
  fun_cases loadPass
  · exact Parsed.of_wait ‹_› (readLaunch_ok hrd h)
  · exact Parsed.of_no ‹_› (readLaunch_ok hrd h)
  · exact Parsed.of_ok ‹_› (readLaunch_ok hrd h)
  · exact Parsed.of_ok ‹_› (readLaunch_ok hrd h)

theorem readBill_ok {keyAddr : Nat} {dies : List Nat} {header : List Byte} (hrd : rd.Ok) (h : s.MemoriesOk) :
    (readBill rd keyAddr fn dies header s).Ok := by
  unfold readBill
  refine require_ok h ?_
  refine Parsed.andThen_ok (parseEach_ok (fun _ _ h => Parsed.andThen_ok (readAs_ok hrd h) fun _ _ h => ?_) h) fun _ _ h => ?_
  · split <;> exact h
  refine Parsed.andThen_ok (parseEach_ok (fun _ _ h => Parsed.andThen_ok (readAs_ok hrd h) fun _ _ h => ?_) h) fun _ _ h => ?_
  · split <;> exact h
  refine Parsed.andThen_ok (parseEach_ok (fun _ _ h => loadPass_ok hrd h) h) fun _ _ h => ?_
  exact refusing_ok h (refusing_ok h (refusing_ok h (refusing_ok h h)))

theorem State.groupWrite_ok {op seq : Nat} {pc : W64} (h : s.MemoriesOk) : (s.groupWrite gid o op seq pc a b).Ok := by
  unfold State.groupWrite
  extract_lets ps ws qs
  split
  · exact h
  · split
    · exact h
    · extract_lets s1
      have h1 : s1.MemoriesOk := ask_ok h
      clear_value s1
      split
      · exact h1
      · exact dropWaits_ok h1
      · exact h1
      · split
        · exact fst_ok ‹_› (fillAll_ok h1)
        · exact dropWaits_ok (fst_ok ‹_› (fillAll_ok h1))
        · have h2 := fst_ok ‹_› (fillAll_ok h1)
          split
          · split
            · exact dropWaits_ok h2
            · split
              · exact dropWaits_ok h2
              · split
                · exact h2
                · exact ite_ok (dropWaits_ok (storeBytes_ok h2)) (groups_ok (dropWaits_ok (storeBytes_ok h2)))
          · exact h2

theorem State.endBlocking_ok {d x : Nat} (h : s.MemoriesOk) : (s.endBlocking gid e d x).MemoriesOk := h

theorem execPbind_ok {a : BitVec 7} (h : s.MemoriesOk) : ResultOk (execPbind d a gd s) :=
  uniOp_ok h (fun _ => iteResult_ok (Issue.trap_ok h) (iteResult_ok (Issue.trap_ok h) (iteResult_ok h (push_ok h))))

theorem State.refloor_ok (h : s.MemoriesOk) : (s.refloor die).MemoriesOk := by
  unfold State.refloor
  exact foldl_ok h fun _ _ h => ite_ok h h

theorem State.refloorAll_ok (h : s.MemoriesOk) : (s.refloorAll).MemoriesOk := by
  unfold State.refloorAll
  exact foldl_ok h fun _ _ h => refloor_ok h

theorem State.bind_ok {dies : List Nat} {seed : Nat} {ps : List Pass} {rs : List Resource} (h : s.MemoriesOk) :
    (s.bind fn ctx dies seed ps rs).1.MemoriesOk := by
  fun_cases State.bind
  · exact h
  · dsimp only
    exact refloorAll_ok (setBook_ok h)
  · exact h

theorem State.performBind_ok (h : s.MemoriesOk) : (s.performBind gid g e).MemoriesOk := by
  unfold State.performBind
  extract_lets o fn key again fails dies
  have hfails {s c x a} (h : s.MemoriesOk) : (fails s c x a).MemoriesOk := failEntryAt_ok (dropWaits_ok (dropWaits_ok h))
  split
  · exact h
  · exact waitEntry_ok (Parsed.of_wait ‹_› (readAs_ok groupRead_ok h))
  · exact hfails (Parsed.of_no ‹_› (readAs_ok groupRead_ok h))
  · exact Parsed.of_no ‹_› (readAs_ok groupRead_ok h)
  · have h1 := Parsed.of_ok ‹_› (readAs_ok groupRead_ok h)
    split
    · exact waitEntry_ok (Parsed.of_wait ‹_› (readBill_ok groupRead_ok h1))
    · exact hfails (Parsed.of_no ‹_› (readBill_ok groupRead_ok h1))
    · have h2 := Parsed.of_no ‹_› (readBill_ok groupRead_ok h1)
      split
      · exact waitEntry_ok (UnitEnd.of_wait ‹_› (groupWrite_ok h2))
      · exact hfails (UnitEnd.of_fail ‹_› (groupWrite_ok h2))
      · exact endBlocking_ok (UnitEnd.of_moved ‹_› (groupWrite_ok h2))
    · exact endBlocking_ok (bind_ok (Parsed.of_ok ‹_› (readBill_ok groupRead_ok h1)))

theorem State.offerReady_ok {b : Nat} (h : s.MemoriesOk) : (s.offerReady b die).MemoriesOk := by
  fun_cases State.offerReady
  · exact h
  · refine foldl_ok h fun _ _ h => ?_
    split
    · exact ite_ok (push_ok h) h
    · exact h
    · exact h

theorem State.sendCues_ok {b : Nat} {pb : Playbill} {p : Nat} {tiles : List Nat} (h : s.MemoriesOk) : (s.sendCues b pb p die tiles).MemoriesOk := by
  unfold State.sendCues
  exact foldl_ok h fun _ _ h => sendMsg_ok h

theorem State.cueFault_ok {b : Nat} (h : s.MemoriesOk) : OptionOk (s.cueFault b die) := by
  fun_cases State.cueFault
  · trivial
  · exact ite_ok (raiseUpper_ok h) h
  · trivial

theorem State.retireTile_ok (h : s.MemoriesOk) : (s.retireTile tid t).MemoriesOk := by
  fun_cases State.retireTile
  · exact leaveGrid_ok (offerReady_ok (ite_ok h (sendCues_ok h)))
  · exact push_ok (setTeam_ok (offerReady_ok (ite_ok h (sendCues_ok h))))
  · exact h

theorem State.releaseTeam_ok (h : s.MemoriesOk) : (s.releaseTeam tid).1.MemoriesOk := by
  unfold State.releaseTeam
  refine foldlFst_ok h fun _ _ h => ?_
  split
  exact fst_ok ‹_› (releaseNow_ok h)

theorem execTileRetire_ok (h : s.MemoriesOk) : ResultOk (execTileRetire team s) := by
  fun_cases execTileRetire
  · exact h
  · exact h
  · exact push_ok h
  · exact push_ok (some_ok ‹_› (optionBind_ok (fun _ => cueFault_ok h)))
  · exact push_ok (fst_ok ‹_› (releaseTeam_ok h))
  · exact fst_ok ‹_› (releaseTeam_ok h)
  · exact retireTile_ok (fst_ok ‹_› (releaseTeam_ok h))

theorem execCueMessageReceive_ok {res tile : Nat} (h : s.MemoriesOk) : ResultOk (execCueMessageReceive die book res tile s) := by
  fun_cases execCueMessageReceive
  · exact ite_ok (push_ok h) h
  · exact push_ok (some_ok ‹_› (cueFault_ok h))
  · exact h
  · exact offerReady_ok h

theorem execRingSlotGrant_ok (h : s.MemoriesOk) : ResultOk (execRingSlotGrant team s) := by
  fun_cases execRingSlotGrant
  · exact h
  · exact h
  · exact push_ok (optionGetD_ok h (cueFault_ok h))
  · exact push_ok h
  · exact push_ok h
  · exact enqueueTeam_ok h
  · exact push_ok (foldl_ok h fun _ _ h => ite_ok (push_ok h) h)
  · exact h

theorem State.putPieces_ok {r : List (Nat × List Byte)} (h : s.MemoriesOk) : (s.putPieces o die fn pasid r).Ok := by
  induction r generalizing s with
  | nil => exact h
  | cons p r ih =>
    rw [State.putPieces]
    split
    · exact h
    · split
      · exact h
      · exact h
      · exact h
      · exact ih (writeAt_ok h)

theorem State.frontWrite_ok (h : s.MemoriesOk) : (s.frontWrite o die fn pasid a b).Ok := by
  fun_cases State.frontWrite
  · exact h
  · exact dropWaits_ok (needPages_ok h)
  · exact needPages_ok h
  · exact dropWaits_ok (Fetched.of_ok ‹_› (putPieces_ok (needPages_ok h)))
  · exact needPages_ok h
  · exact dropWaits_ok (needPages_ok h)

theorem execOverflowCopy_ok {res : Nat} {tile : Nat} (h : s.MemoriesOk) : ResultOk (execOverflowCopy book res die tile s) := by
  fun_cases execOverflowCopy
  · exact h
  · exact h
  · exact push_ok h
  · exact push_ok (raiseUpper_ok (countBad_ok h))
  · exact push_ok (Fetched.of_wait ‹_› (frontWrite_ok h))
  · exact push_ok (raiseUpper_ok (Fetched.of_fail ‹_› (frontWrite_ok h)))
  · exact setBook_ok (Fetched.of_ok ‹_› (frontWrite_ok h))
  · exact h

theorem State.closeRun_ok {b : Nat} (h : s.MemoriesOk) : (s.closeRun b).MemoriesOk := by
  fun_cases State.closeRun <;> exact h

theorem State.startRun_ok {b : Nat} {pb : Playbill} {arg : W64} (h : s.MemoriesOk) : (s.startRun b pb arg).MemoriesOk := by
  unfold State.startRun
  exact foldl_ok h fun _ _ h => offerReady_ok h

theorem execPrun_ok {a b : BitVec 7} (h : s.MemoriesOk) : ResultOk (execPrun d a b gd s) := by
  unfold execPrun
  refine uniOp_ok h fun _ => ?_
  split
  · exact Issue.trap_ok h
  · extract_lets
    split
    · exact closeRun_ok h
    · exact iteResult_ok (Issue.waitIn_ok (closeRun_ok h)) (Issue.done_ok (startRun_ok (closeRun_ok h)))

theorem execPrunStart_ok (h : s.MemoriesOk) : ResultOk (execPrunStart gid s) := by
  unfold execPrunStart
  refine wake_ok h fun _ => ?_
  split
  · extract_lets
    split
    · exact setGroup_ok (closeRun_ok h)
    · exact iteResult_ok (push_ok (closeRun_ok h)) (setGroup_ok (startRun_ok (closeRun_ok h)))
  · exact h

theorem execPwait_ok {a : BitVec 7} (h : s.MemoriesOk) : ResultOk (execPwait d a gd s) := by
  unfold execPwait
  refine uniOp_ok h fun _ => ?_
  split
  · exact Issue.trap_ok h
  · extract_lets
    split
    · exact closeRun_ok h
    · refine iteResult_ok (Issue.waitIn_ok (closeRun_ok h)) ?_
      split
      · exact hold_ok (fst_ok ‹_› (acquire_ok (closeRun_ok h)))
      · exact Issue.finish_ok (fst_ok ‹_› (acquire_ok (closeRun_ok h)))

theorem execPwaitWake_ok (h : s.MemoriesOk) : ResultOk (execPwaitWake gid s) := by
  unfold execPwaitWake
  refine wake_ok h fun _ => ?_
  split
  · exact push_ok (closeRun_ok h)
  · exact endWait_ok h
  · exact h

theorem State.dropRing_ok {rs : List Resource} {r : Ring} (h : s.MemoriesOk) : (s.dropRing rs r).MemoriesOk :=
  layer_ok h (Memory.wf_clear _ _ _ h.layer)

theorem State.unbind_ok (h : s.MemoriesOk) : (s.unbind k).MemoriesOk := by
  fun_cases State.unbind
  · exact h
  · exact refloorAll_ok (foldl_ok h fun _ _ h => dropRing_ok h)

theorem execPdrop_ok {a : BitVec 7} (h : s.MemoriesOk) : ResultOk (execPdrop a gd s) := by
  unfold execPdrop
  refine uniOp_ok h fun _ => ?_
  split
  · exact Issue.skip_ok h
  · extract_lets
    split
    · exact closeRun_ok h
    · exact iteResult_ok (Issue.waitIn_ok (closeRun_ok h)) (Issue.skip_ok (unbind_ok (closeRun_ok h)))

theorem execPdropUnbind_ok (h : s.MemoriesOk) : ResultOk (execPdropUnbind gid s) := by
  unfold execPdropUnbind
  refine wake_ok h fun _ => ?_
  split
  · extract_lets
    split
    · exact setGroup_ok (closeRun_ok h)
    · exact iteResult_ok (push_ok (closeRun_ok h)) (setGroup_ok (unbind_ok (closeRun_ok h)))
  · exact h

theorem execGquery_ok {a : BitVec 7} {kind : BitVec 4} (h : s.MemoriesOk) : ResultOk (execGquery d a kind gd s) :=
  uniOp_ok h (fun _ => Issue.done_ok h)

theorem opTilecur_ok (h : s.MemoriesOk) : ResultOk (opTilecur u d s) := by
  unfold opTilecur
  refine uniOp_ok h fun _ => ?_
  split
  · trivial
  · exact Issue.done_ok h

theorem opTinfo_ok (h : s.MemoriesOk) : ResultOk (opTinfo u d s) := by
  unfold opTinfo
  refine uniOp_ok h fun _ => ?_
  split
  · trivial
  · exact Issue.done_ok h

theorem opTileret_ok (h : s.MemoriesOk) : ResultOk (opTileret u s) := by
  unfold opTileret
  refine uniOp_ok h fun _ => ?_
  split
  · trivial
  · split
    · exact Issue.skip_ok h
    · exact iteResult_ok (Issue.skip_ok h) (iteResult_ok h (Issue.done_ok (push_ok h)))

theorem execTaddr_ok {a : BitVec 7} {mode : Bool} {entry : BitVec 4} (h : s.MemoriesOk) : ResultOk (execTaddr d a mode entry gd s) := by
  unfold execTaddr
  refine uniOp_ok h fun _ => ?_
  split
  · trivial
  · split
    · exact Issue.trap_ok h
    · exact Issue.done_ok h

theorem execGridEnd_ok (h : s.MemoriesOk) : ResultOk (execGridEnd grid s) := by
  fun_cases execGridEnd
  · exact h
  · exact closeRun_ok h
  · exact h
  · exact h
  · exact complete_ok h

theorem State.modTask_ok {f : Task → Task} (h : s.MemoriesOk) : (s.modTask grid task f).MemoriesOk := h

theorem State.setPlace_ok {p : TaskPlace} (h : s.MemoriesOk) : (s.setPlace grid task p).MemoriesOk := h

theorem State.ringPut_ok {written : Bool} (h : s.MemoriesOk) : (s.ringPut ctx grid task written).MemoriesOk := by
  fun_cases State.ringPut
  · exact h
  · exact modTask_ok (setPlace_ok h)

theorem State.moveToRing_ok (h : s.MemoriesOk) : (s.moveToRing grid task).MemoriesOk := by
  fun_cases State.moveToRing
  · exact h
  · exact ringPut_ok h
  · exact ringPut_ok (Fetched.of_ok ‹_› (frontWrite_ok h))
  · exact ringPut_ok h
  · exact ringPut_ok h
  · exact h

theorem State.spillDeques_ok {cores : List Nat} {which : Nat → Bool} (h : s.MemoriesOk) : (s.spillDeques cores which).MemoriesOk := by
  unfold State.spillDeques
  exact foldl_ok h fun _ _ h => foldl_ok h fun _ _ h => moveToRing_ok h

theorem State.offerTasks_ok (h : s.MemoriesOk) : (s.offerTasks).MemoriesOk := by
  unfold State.offerTasks
  exact foldl_ok (foldl_ok h fun _ _ h => ite_ok h (push_ok h)) fun _ _ h => ite_ok h (foldl_ok h fun _ _ h => ite_ok (push_ok h) h)

theorem opSpawn_ok {a : BitVec 7} {team : Bool} (h : s.MemoriesOk) : ResultOk (opSpawn u d a team s) := by
  unfold opSpawn
  refine uniOp_ok h fun _ => ?_
  split
  · trivial
  · refine iteResult_ok (Issue.trap_ok h) ?_
    split
    · exact Issue.trap_ok h
    · exact iteResult_ok (Issue.trap_ok h) (iteResult_ok h (push_ok h))

theorem State.serveSteal_ok (h : s.MemoriesOk) : (s.serveSteal n).MemoriesOk := by
  fun_cases State.serveSteal
  · exact h
  · exact setPlace_ok h
  · exact moveToRing_ok h
  · exact h

theorem State.finishSpawn_ok {n : Nat} {gr : Grid} {r : TaskRec} {deque : Bool} (h : s.MemoriesOk) :
    (s.finishSpawn gid g e n gr r deque).MemoriesOk := by
  unfold State.finishSpawn
  extract_lets core
  split
  extract_lets s1 s2 s3
  have h1 : s1.MemoriesOk := endBlocking_ok (setGrid_ok h)
  have h2 : s2.MemoriesOk := h1
  have h3 : s3.MemoriesOk := ite_ok (deques_ok h2) (ringPut_ok h2)
  exact offerTasks_ok (serveSteal_ok h3)

theorem State.performSpawn_ok (h : s.MemoriesOk) : (s.performSpawn gid g e).MemoriesOk := by
  fun_cases State.performSpawn
  · exact h
  · exact waitEntry_ok (Reads.of_wait ‹_› (readAll_ok h))
  · exact failEntryAt_ok (dropWaits_ok (dropWaits_ok (Reads.of_fail ‹_› (readAll_ok h))))
  · exact failEntryAt_ok (dropWaits_ok (dropWaits_ok (Reads.of_ok ‹_› (readAll_ok h))))
  · exact failEntryAt_ok (dropWaits_ok (dropWaits_ok (Reads.of_ok ‹_› (readAll_ok h))))
  · exact waitEntry_ok (fst_ok ‹_› (releaseNow_ok (Reads.of_ok ‹_› (readAll_ok h))))
  · exact finishSpawn_ok (fst_ok ‹_› (releaseNow_ok (Reads.of_ok ‹_› (readAll_ok h))))
  · exact failEntryAt_ok (dropWaits_ok (dropWaits_ok (fst_ok ‹_› (releaseNow_ok (Reads.of_ok ‹_› (readAll_ok h))))))
  · exact waitEntry_ok (Fetched.of_wait ‹_› (frontWrite_ok (fst_ok ‹_› (releaseNow_ok (Reads.of_ok ‹_› (readAll_ok h))))))
  · exact failEntryAt_ok (dropWaits_ok (dropWaits_ok (Fetched.of_fail ‹_› (frontWrite_ok (fst_ok ‹_› (releaseNow_ok (Reads.of_ok ‹_›
      (readAll_ok h))))))))
  · exact finishSpawn_ok (Fetched.of_ok ‹_› (frontWrite_ok (fst_ok ‹_› (releaseNow_ok (Reads.of_ok ‹_› (readAll_ok h))))))
  · exact Reads.of_ok ‹_› (readAll_ok h)

theorem Issue.parkIn_ok {w : Wait} {a : Act} (h : s.MemoriesOk) : ResultOk (c.parkIn s w a) := by
  have hwait := Issue.waitIn_ok (c := c) (w := w) (a := a) h
  fun_cases Issue.parkIn
  · have h1 := next_ok ‹_› hwait
    exact h1
  · exact hwait

theorem opTwait_ok {a : BitVec 7} (h : s.MemoriesOk) : ResultOk (opTwait u a s) := by
  unfold opTwait
  refine uniOp_ok h fun _ => ?_
  extract_lets
  split
  · refine iteResult_ok (Issue.trap_ok h) (iteResult_ok (Issue.parkIn_ok h) ?_)
    split
    · exact hold_ok (fst_ok ‹_› (acquire_ok h))
    · exact Issue.finish_ok (fst_ok ‹_› (acquire_ok h))
  · trivial

theorem execTwaitWake_ok (h : s.MemoriesOk) : ResultOk (execTwaitWake gid s) := by
  unfold execTwaitWake
  refine wake_ok h fun _ => ?_
  split
  · exact iteResult_ok (endWait_ok h) (push_ok h)
  · exact h

theorem opSteal_ok {a : BitVec 7} (h : s.MemoriesOk) : ResultOk (opSteal u d a s) :=
  uniOp_ok h (fun _ => iteResult_ok (Issue.trap_ok h) (iteResult_ok (Issue.trap_ok h) (iteResult_ok h
    (iteResult_ok (Issue.done_ok h) (Issue.done_ok h)))))

theorem State.takeRecord_ok (h : s.MemoriesOk) : (s.takeRecord ctx grid task).MemoriesOk := setPlace_ok h

theorem State.recordBytes_ok {c : Ctx} {tk : Task} (hrd : rd.Ok) (h : s.MemoriesOk) : (s.recordBytes rd c grid task tk).Ok := by
  fun_cases State.recordBytes
  · exact readAs_ok hrd h
  · exact h

theorem State.recordTeam_ok {c : Ctx} {g : Grid} {tk : Task} (hrd : rd.Ok) (h : s.MemoriesOk) : (s.recordTeam rd c g grid task tk).Ok := by
  refine Parsed.andThen_ok (recordBytes_ok hrd h) fun _ _ h => ?_
  exact Parsed.andThen_ok (readLaunch_ok hrd h) fun _ _ h => h

theorem execTaskLaunch_ok (h : s.MemoriesOk) : ResultOk (execTaskLaunch die core s) := by
  fun_cases execTaskLaunch
  · exact h
  · exact h
  · exact push_ok h
  · exact push_ok (Parsed.of_wait ‹_› (recordTeam_ok frontRead_ok h))
  · exact raiseUpper_ok (takeRecord_ok (dropWaits_ok (Parsed.of_no ‹_› (recordTeam_ok frontRead_ok h))))
  · exact push_ok (moveToRing_ok (deques_ok (dropWaits_ok (Parsed.of_ok ‹_› (recordTeam_ok frontRead_ok h)))))
  · exact push_ok (askRoom_ok (dropWaits_ok (Parsed.of_ok ‹_› (recordTeam_ok frontRead_ok h))))
  · exact push_ok (startTeam_ok (grids_ok (modTask_ok (takeRecord_ok (nextId_ok (dropWaits_ok (Parsed.of_ok ‹_›
      (recordTeam_ok frontRead_ok h))))))))
  · exact h

theorem State.unparkAll_ok (h : s.MemoriesOk) : (s.unparkAll).MemoriesOk := by
  unfold State.unparkAll
  exact foldl_ok h fun _ _ h => requeueTeam_ok h

theorem State.retireTask_ok (h : s.MemoriesOk) : (s.retireTask tid t id).MemoriesOk :=
  offerTasks_ok (unparkAll_ok (ite_ok (leaveGrid_ok h) (push_ok h)))

theorem execTaskRetire_ok (h : s.MemoriesOk) : ResultOk (execTaskRetire team s) := by
  fun_cases execTaskRetire
  · exact h
  · exact h
  · exact h
  · exact ite_ok (leaveGrid_ok h) h
  · exact push_ok h
  · exact push_ok (fst_ok ‹_› (releaseTeam_ok h))
  · exact fst_ok ‹_› (releaseTeam_ok h)
  · exact retireTask_ok (fst_ok ‹_› (releaseTeam_ok h))

theorem execTeamParkOut_ok (h : s.MemoriesOk) : ResultOk (execTeamParkOut team s) := by
  fun_cases execTeamParkOut
  · exact h
  · exact h
  · exact push_ok h
  · exact offerTasks_ok (push_ok (saveTeam_ok h))

end

end Sys2Proof.Machine
end

section
/-! PROOFS. The return from a handler, the uniform twins, traps and stops keep the form (R400, R463, R470, R474). -/

namespace Sys2Proof.Machine

section
open State

variable {s : State} {gid id a fn ctx die core tid pasid page addr : Nat} {g : Group} {e : Entry} {t : Team} {o : Owner} {u : UCtx} {f : LM}
  {d : BitVec 7} {b : List Byte} {l : Loc} {op : MemOp} {rd : Reader}

theorem State.landEntry_ok (h : s.MemoriesOk) : (s.landEntry gid g e).MemoriesOk := by
  fun_cases State.landEntry
  · exact performBind_ok h
  · exact performSpawn_ok h
  · exact performSpawn_ok h
  · exact landRead_ok h

theorem execLoadLanding_ok (h : s.MemoriesOk) : ResultOk (execLoadLanding gid id s) := withEntry_ok h (fun _ _ => landEntry_ok h)

theorem State.pushWork_ok (h : s.MemoriesOk) : (s.pushWork gid e).MemoriesOk := by
  fun_cases State.pushWork
  · exact pushEntry_ok h
  all_goals exact push_ok h

theorem State.forget_ok (h : s.MemoriesOk) : (s.forget gid g id).MemoriesOk := h

theorem State.reenter_ok (h : s.MemoriesOk) : (s.reenter gid e).MemoriesOk := by
  fun_cases State.reenter
  · exact h
  · exact pushMatrix_ok (groups_ok (modTeam_ok (forget_ok h)))
  · exact setEntry_ok (forget_ok h)
  · exact pushWork_ok (setEntry_ok (forget_ok h))

theorem State.startMatrix_ok (h : s.MemoriesOk) : (s.startMatrix gid g t e).MemoriesOk := by
  fun_cases State.startMatrix
  · exact failEntry_ok h
  · exact failEntry_ok h
  · exact failEntry_ok h
  · exact enqueue_ok h

theorem State.startPlan_ok (h : s.MemoriesOk) : (s.startPlan gid g t e).MemoriesOk := by
  fun_cases State.startPlan
  · exact failEntry_ok h
  · exact h
  · exact push_ok h

theorem State.recheck_ok (h : s.MemoriesOk) : (s.recheck gid id).MemoriesOk := by
  fun_cases State.recheck
  · exact h
  · exact h
  · exact startMatrix_ok h
  · exact startPlan_ok h
  · exact h
  · exact failEntry_ok h
  · exact h
  · exact failEntry_ok h
  · exact h
  · exact failEntry_ok h
  · exact h

theorem State.reenterAll_ok {l : List Entry} (h : s.MemoriesOk) : (s.reenterAll gid l).MemoriesOk := by
  unfold State.reenterAll
  exact foldl_ok (foldl_ok h fun _ _ h => reenter_ok h) fun _ _ h => recheck_ok h

theorem State.removeEntry_ok (h : s.MemoriesOk) : (s.removeEntry gid e).MemoriesOk := by
  fun_cases State.removeEntry
  · exact h
  · exact pushMatrix_ok (modTeam_ok (setGroup_ok (forget_ok h)))

theorem readBook_ok (hrd : rd.Ok) (h : s.MemoriesOk) : (readBook rd addr s).Ok := by
  refine Parsed.andThen_ok (readAs_ok hrd h) fun _ _ h => ?_
  refine Parsed.andThen_ok (parseEach_ok (fun _ _ h => Parsed.andThen_ok (readAs_ok hrd h) fun _ _ h => ?_) h) fun _ _ h => h
  split
  · exact h
  · exact Parsed.andThen_ok (readAs_ok hrd h) fun _ _ h => h

theorem State.injectEntry_ok (h : s.MemoriesOk) : (s.injectEntry gid e).MemoriesOk := by
  fun_cases State.injectEntry
  · exact h
  · exact h
  · exact pushWork_ok h

theorem State.planReleases_ok {r : List Plan} (h : s.MemoriesOk) : (s.planReleases gid g r).1.MemoriesOk := by
  induction r generalizing s with
  | nil => exact h
  | cons p r ih =>
    cases p with
    | keep e => exact ih h
    | remove e => exact ih h
    | inject e =>
      rw [State.planReleases]
      split
      · exact ih h
      · exact ih (releaseAll_ok h)

theorem State.runPlan_ok {l : List Plan} (h : s.MemoriesOk) : (s.runPlan gid l).MemoriesOk := by
  unfold State.runPlan
  refine foldl_ok (foldl_ok h fun _ p h => ?_) fun _ p h => ?_
  · cases p with
    | keep e => exact reenter_ok h
    | remove e => exact removeEntry_ok h
    | inject e => exact injectEntry_ok h
  · cases p with
    | keep e => exact recheck_ok h
    | remove e => exact h
    | inject e => exact recheck_ok h

theorem opTret_ok (h : s.MemoriesOk) : ResultOk (opTret u s) := by
  unfold opTret
  refine uniOp_ok h fun _ => ?_
  refine iteResult_ok (Issue.trap_ok h) (iteResult_ok h ?_)
  split
  · extract_lets o
    split
    · exact hold_ok (Parsed.of_wait ‹_› (readBook_ok groupRead_ok h))
    · have h1 := dropWaits_ok (o := o) (Parsed.of_no ‹_› (readBook_ok groupRead_ok h))
      exact iteResult_ok (hold_ok (raiseUpper_ok h1)) (Issue.trap_ok h1)
    · exact hold_ok (Parsed.of_no ‹_› (readBook_ok groupRead_ok h))
    · extract_lets s1
      have h1 : s1.MemoriesOk := dropWaits_ok (Parsed.of_ok ‹_› (readBook_ok groupRead_ok h))
      clear_value s1
      split
      · exact h1
      · refine iteResult_ok (Issue.trap_ok h1) (iteResult_ok (hold_ok h1) ?_)
        split
        · exact hold_ok (fst_ok ‹_› (planReleases_ok h1))
        · have h2 := fst_ok ‹_› (planReleases_ok h1)
          split
          · exact h2
          · exact runPlan_ok (ctxs_ok (setGroup_ok (nextId_ok h2)))
  · exact h

theorem twinControl_ok {op : UniOp} {d a b : BitVec 8} (h : s.MemoriesOk) : ResultOk (twinControl u op d a b s) := by
  fun_cases twinControl
  · exact opBra_ok h
  · exact opCall_ok h
  · exact opRet_ok h
  · exact opExit_ok h
  · exact opYield_ok h
  · exact opBrx_ok h
  · exact opWait_ok h
  · exact opTrap_ok h
  · exact opTret_ok h
  · exact opMparr_ok h
  · exact opMpwait_ok h
  · exact opMpinit_ok h
  · exact opFence_ok h
  · exact opAcq_ok h
  · exact opRel_ok h
  · exact opNop_ok h

theorem twinGenkey_ok {d a b : BitVec 8} (h : s.MemoriesOk) : ResultOk (twinGenkey u d a b s) := by
  fun_cases twinGenkey
  · exact opGenkeyKey_ok h
  · exact opGenkeyCtr_ok h
  · exact opGenkeyStrm_ok h
  · exact opGenkeyRdkey_ok h
  · exact opGenkeyRd_ok h

theorem twinSystem_ok {op : UniOp} {d a b : BitVec 8} {bv : USrc} (h : s.MemoriesOk) : ResultOk (twinSystem u op d a b bv s) := by
  fun_cases twinSystem
  · exact opSysrd_ok h
  · exact opSyswr_ok h
  · exact opRepack_ok h
  · exact opIlock_ok h
  · exact opIunlock_ok h
  · exact twinGenkey_ok h
  · exact opPwrhint_ok h
  · exact opSpawn_ok h
  · exact opTwait_ok h
  · exact opSteal_ok h
  · exact opTileret_ok h
  · exact opTilecur_ok h
  · exact opTinfo_ok h
  · exact opMfree_ok h
  · exact opMzero_ok h
  · exact twinControl_ok h

theorem execUniformXf_ok {op : UniOp} {d a b : BitVec 8} {g : Guard} {mod : BitVec 4} {imm : Option (BitVec 15)} (h : s.MemoriesOk) :
    ResultOk (execUniformXf op d a b g mod imm s) := by
  fun_cases execUniformXf
  · exact uniArith_ok h
  · exact twinSystem_ok h

theorem execTrapEntry_ok (h : s.MemoriesOk) : ResultOk (execTrapEntry gid s) := by
  unfold execTrapEntry
  refine wake_ok h fun _ => ?_
  split
  · exact fst_ok ‹_› (takeTrap_ok h)
  · exact push_ok (fst_ok ‹_› (takeTrap_ok h))

theorem execGroupRungTimeout_ok (h : s.MemoriesOk) : ResultOk (execGroupRungTimeout gid s) := by
  fun_cases execGroupRungTimeout
  · exact h
  · exact h
  · exact raiseUpper_ok h
  · exact h

theorem State.abortTeam_ok (h : s.MemoriesOk) : (s.abortTeam tid).MemoriesOk := by
  fun_cases State.abortTeam
  · exact h
  · exact leaveGrid_ok h
  · exact leaveGrid_ok h
  · exact retireTile_ok h
  · exact leaveGrid_ok h
  · exact retireTask_ok h

theorem State.endCommand_ok {g : Grid} (h : s.MemoriesOk) : (s.endCommand ctx g).MemoriesOk := by
  fun_cases State.endCommand
  · exact h
  · exact complete_ok h

theorem State.loseCtx_ok (h : s.MemoriesOk) : (s.loseCtx ctx).MemoriesOk := by
  unfold State.loseCtx
  split
  · exact h
  · extract_lets gids tids grids gridIds books owed s1 s2
    have h1 : s1.MemoriesOk := h
    have h2 : s2.MemoriesOk := foldl_ok (foldl_ok h1 fun _ _ h => unbind_ok h) fun _ _ h => endCommand_ok h
    refine foldl_ok h2 fun _ _ h => ?_
    split
    · exact complete_ok h
    · exact h

theorem runLose_ok (h : s.MemoriesOk) : ResultOk (runLose ctx s) := loseCtx_ok h

theorem State.loseAll_ok {f : Ctx → Bool} (h : s.MemoriesOk) : (s.loseAll f).MemoriesOk := by
  unfold State.loseAll
  exact foldl_ok h fun _ _ h => loseCtx_ok h

theorem execUpperRungTimeout_ok {stop : Nat} (h : s.MemoriesOk) : ResultOk (execUpperRungTimeout stop s) := by
  fun_cases execUpperRungTimeout
  · exact h
  · exact h
  · exact raiseUpper_ok h
  · exact loseAll_ok h

theorem State.switchOutAll_ok {l : List Nat} (h : s.MemoriesOk) : (s.switchOutAll l).MemoriesOk := spillDeques_ok (saveTeams_ok h)

theorem State.saveParties_ok {st : Stop} (h : s.MemoriesOk) : (s.saveParties st).MemoriesOk := by
  fun_cases State.saveParties
  · exact requeueTeam_ok (saveTeam_ok h)
  · exact h
  · exact h
  · exact switchOutAll_ok h

theorem execUpperRungStop_ok {stop : Nat} (h : s.MemoriesOk) : ResultOk (execUpperRungStop stop s) := by
  fun_cases execUpperRungStop
  · exact h
  · exact h
  · exact push_ok h
  · exact sendMsg_ok (saveParties_ok h)

theorem runResume_ok (h : s.MemoriesOk) : ResultOk (runResume gid s) := wake_ok h (fun _ => reenterAll_ok h)

theorem State.resumeParties_ok {st : Stop} (h : s.MemoriesOk) : (s.resumeParties st).MemoriesOk := by
  unfold State.resumeParties
  exact offerTasks_ok (foldl_ok h fun _ _ h => push_ok h)

theorem State.readPage_ok (h : s.MemoriesOk) : (s.readPage o die core fn pasid page).Ok := by
  fun_cases State.readPage
  · exact dropWaits_ok (needPages_ok h)
  · exact needPages_ok h
  · exact needPages_ok h
  · exact needPages_ok h
  · exact dropWaits_ok (needPages_ok h)
  · exact dropWaits_ok (countBad_ok (needPages_ok h))
  · exact dropWaits_ok (obtainAt_ok (needPages_ok h))

theorem State.takePage_ok {direct : Bool} {waiting : List Nat} {a : Act} (h : s.MemoriesOk) :
    (s.takePage g page b direct waiting a).MemoriesOk := by
  fun_cases State.takePage
  · exact h
  · exact push_ok (raiseUpper_ok h)
  · exact h

theorem execCodePageFill_ok (h : s.MemoriesOk) : ResultOk (execCodePageFill die core fn pasid page s) := by
  fun_cases execCodePageFill
  · exact h
  · exact push_ok h
  · exact push_ok (Fetched.of_wait ‹_› (readPage_ok h))
  · exact Fetched.of_fail ‹_› (readPage_ok h)
  · exact push_ok (raiseUpper_ok (Fetched.of_fail ‹_› (readPage_ok h)))
  · exact push_ok (raise_ok (Fetched.of_fail ‹_› (readPage_ok h)))
  · exact takePage_ok (Fetched.of_ok ‹_› (readPage_ok h))

end

end Sys2Proof.Machine
end

section
/-! PROOFS. Contexts, links, boot, attestation and the commands keep the form (R434 to R447, R506, R509, R522, R541, R545). -/

namespace Sys2Proof.Machine

section
open State

variable {s : State} {n k a fn ctx die tag link side m off addr unit slice vf quad job : Nat} {e : Entry} {t : Team} {u : UCtx} {cmd : Command}
  {c : Issue} {x : MatItem} {f : LM} {b : List Byte} {l : Loc} {op : MemOp}

theorem State.rsvWrite_ok (h : s.MemoriesOk) : (s.rsvWrite fn).MemoriesOk := h

theorem pfCommand_ok {r : Result} (h : s.MemoriesOk) (hr : ResultOk r) : ResultOk (pfCommand fn cmd s r) := by
  fun_cases pfCommand
  · exact h
  · exact complete_ok h
  · exact hr

theorem ctxCommand_ok {ended : Bool} {k : Ctx → Result} (h : s.MemoriesOk) (hk : ∀ y, ResultOk (k y)) :
    ResultOk (ctxCommand fn cmd ended s k) := by
  fun_cases ctxCommand
  · exact h
  · exact complete_ok h
  · exact complete_ok h
  · exact complete_ok h
  · exact hk _

theorem State.addJob_ok {j : Job} (h : s.MemoriesOk) : (s.addJob j).MemoriesOk := push_ok h

theorem State.sendControl_ok {dies : List Nat} (h : s.MemoriesOk) : (s.sendControl k dies).MemoriesOk := by
  unfold State.sendControl
  exact foldl_ok h fun _ _ h => sendMsg_ok h

theorem runControl_ok (h : s.MemoriesOk) : ResultOk (runControl k die s) := arrive_ok h (fun _ h => h)

theorem State.endJob_ok {status : Nat} {r0 : Nat} (h : s.MemoriesOk) : (s.endJob k fn tag status ctx r0).MemoriesOk := complete_ok h

theorem State.dramRead_ok {dpa : Nat} (h : s.MemoriesOk) : (s.dramRead dpa n).Ok := by
  fun_cases State.dramRead
  · exact h
  · exact h
  · exact h
  · exact countBad_ok h
  · exact h

theorem State.readTables_ok {c : Ctx} (h : s.MemoriesOk) : (s.readTables k c).Ok := by
  have hread {n : Nat} : (s.dramRead c.bindTab n).Ok := dramRead_ok h
  fun_cases State.readTables
  · exact h
  · exact Fetched.of_wait ‹_› hread
  · exact Fetched.of_fail ‹_› hread
  · exact dropWaits_ok (Fetched.of_ok ‹_› hread)
  · exact Fetched.of_wait ‹_› (frontRead_ok (Fetched.of_ok ‹_› hread))
  · exact dropWaits_ok (Fetched.of_fail ‹_› (frontRead_ok (Fetched.of_ok ‹_› hread)))
  · exact dropWaits_ok (Fetched.of_ok ‹_› (frontRead_ok (Fetched.of_ok ‹_› hread)))
  · exact dropWaits_ok (Fetched.of_ok ‹_› (frontRead_ok (Fetched.of_ok ‹_› hread)))

theorem State.rouse_ok (h : s.MemoriesOk) : (s.rouse).MemoriesOk := by
  unfold State.rouse
  exact offerTasks_ok (foldl_ok h fun _ _ h => push_ok h)

theorem State.switchIn_ok {c : Ctx} {t : List Binding × TrapTable} (h : s.MemoriesOk) : (s.switchIn ctx c t).MemoriesOk := rouse_ok h

theorem execCtxnew_ok (h : s.MemoriesOk) : ResultOk (execCtxnew fn cmd s) := by
  have hread : (s.ioRead fn cmd.arg0.toNat 64).Ok := ioRead_ok h
  unfold execCtxnew
  refine iteResult_ok h ?_
  split
  · exact h
  · exact complete_ok (IoRead.of_fail ‹_› hread)
  · have h1 := IoRead.of_ok ‹_› hread
    split
    · exact complete_ok h1
    · split
      · exact complete_ok h1
      · exact iteResult_ok (complete_ok h1) (complete_ok (setCtx_ok h1))

theorem State.freeCtx_ok (h : s.MemoriesOk) : (s.freeCtx ctx).MemoriesOk := loseCtx_ok h

theorem execCtxend_ok (h : s.MemoriesOk) : ResultOk (execCtxend fn cmd s) :=
  ctxCommand_ok h (fun _ => iteResult_ok (sendControl_ok (addJob_ok h)) (complete_ok (freeCtx_ok h)))

theorem execSwout_ok (h : s.MemoriesOk) : ResultOk (execSwout fn cmd s) :=
  ctxCommand_ok h (fun _ => iteResult_ok (sendControl_ok (addJob_ok h)) (complete_ok h))

theorem runSwout_ok {dies : List Nat} (h : s.MemoriesOk) : ResultOk (runSwout k fn tag ctx dies s) := by
  fun_cases runSwout
  · exact endJob_ok h
  · exact endJob_ok h
  · exact endJob_ok (switchOutAll_ok h)
  · exact push_ok h

theorem runCtxend_ok {dies : List Nat} (h : s.MemoriesOk) : ResultOk (runCtxend k fn tag ctx dies s) := by
  fun_cases runCtxend
  · exact endJob_ok h
  · exact endJob_ok (freeCtx_ok h)
  · exact endJob_ok (freeCtx_ok (switchOutAll_ok h))
  · exact push_ok h

theorem execSwin_ok (h : s.MemoriesOk) : ResultOk (execSwin fn cmd s) := ctxCommand_ok h (fun _ => iteResult_ok (complete_ok h) (addJob_ok h))

theorem runSwin_ok (h : s.MemoriesOk) : ResultOk (runSwin k fn tag ctx s) := by
  fun_cases runSwin
  · exact endJob_ok h
  · exact ite_ok (push_ok h) (endJob_ok h)
  · exact push_ok (Fetched.of_wait ‹_› (readTables_ok h))
  · exact endJob_ok (Fetched.of_fail ‹_› (readTables_ok h))
  · exact push_ok (Fetched.of_ok ‹_› (readTables_ok h))
  · exact refuseRestore_ok (countSaved_ok (Fetched.of_ok ‹_› (readTables_ok h)))
  · exact push_ok (switchIn_ok (Fetched.of_ok ‹_› (readTables_ok h)))

theorem execLaunch_ok (h : s.MemoriesOk) : ResultOk (execLaunch fn cmd s) := ctxCommand_ok h (fun _ => addJob_ok h)

theorem State.startGrid_ok {lr : LaunchRec} {dies : List Nat} (h : s.MemoriesOk) : (s.startGrid fn tag ctx lr dies).MemoriesOk := by
  unfold State.startGrid
  exact foldl_ok h fun _ _ h => enqueueTeam_ok h

theorem runLaunch_ok (h : s.MemoriesOk) : ResultOk (runLaunch k fn tag ctx addr s) := by
  unfold runLaunch
  split
  · exact endJob_ok h
  · refine iteResult_ok (push_ok h) (iteResult_ok ?_ ?_)
    · split
      · exact push_ok (Fetched.of_wait ‹_› (readTables_ok h))
      · exact endJob_ok (Fetched.of_fail ‹_› (readTables_ok h))
      · exact push_ok (switchIn_ok (Fetched.of_ok ‹_› (readTables_ok h)))
    · split
      · exact push_ok (Parsed.of_wait ‹_› (readLaunch_ok frontRead_ok h))
      · exact endJob_ok (dropWaits_ok (Parsed.of_no ‹_› (readLaunch_ok frontRead_ok h)))
      · exact endJob_ok (dropWaits_ok (Parsed.of_no ‹_› (readLaunch_ok frontRead_ok h)))
      · extract_lets s2
        have h2 : s2.MemoriesOk := dropWaits_ok (Parsed.of_ok ‹_› (readLaunch_ok frontRead_ok h))
        split
        · exact endJob_ok h2
        · exact startGrid_ok h2

theorem State.abortStop_ok {st : Stop} (h : s.MemoriesOk) : (s.abortStop st).MemoriesOk := by
  fun_cases State.abortStop
  · exact abortTeam_ok h
  · exact loseCtx_ok h
  · exact loseAll_ok h
  · exact loseAll_ok h

theorem State.answerStop_ok (h : s.MemoriesOk) : (s.answerStop fn cmd).MemoriesOk := by
  fun_cases State.answerStop
  · exact complete_ok h
  · exact addJob_ok (rouse_ok (resumeParties_ok h))
  · exact complete_ok (abortStop_ok h)

theorem runAnswer_ok {restore : List Nat} (h : s.MemoriesOk) : ResultOk (runAnswer k fn tag ctx restore s) := by
  fun_cases runAnswer
  · exact endJob_ok h
  · exact push_ok h
  · exact push_ok h
  · exact push_ok (Fetched.of_wait ‹_› (readTables_ok h))
  · exact endJob_ok (Fetched.of_fail ‹_› (readTables_ok h))
  · exact push_ok (Fetched.of_ok ‹_› (readTables_ok h))
  · exact push_ok (refuseRestore_ok (countSaved_ok (Fetched.of_ok ‹_› (readTables_ok h))))
  · exact push_ok (switchIn_ok (Fetched.of_ok ‹_› (readTables_ok h)))

theorem execAnswer_ok (h : s.MemoriesOk) : ResultOk (execAnswer fn cmd s) := by
  fun_cases execAnswer
  · exact h
  · exact complete_ok h
  · exact pfCommand_ok h (answerStop_ok h)
  · exact ctxCommand_ok h (fun _ => answerStop_ok h)

theorem State.putEnd_ok {e : LinkEnd} (h : s.MemoriesOk) : (s.putEnd link side m e).MemoriesOk := h

theorem execLinkFlitReceive_ok {dir : Nat} {crcOk : Bool} (h : s.MemoriesOk) : ResultOk (execLinkFlitReceive link dir crcOk s) := by
  fun_cases execLinkFlitReceive
  · exact h
  · exact h
  · exact h
  · exact sendFrom_ok h
  · exact h

theorem runLinkFlit_ok {dir : Nat} (h : s.MemoriesOk) : ResultOk (runLinkFlit link dir s) := by
  fun_cases runLinkFlit
  · exact h
  · exact push_ok h
  · exact execLinkFlitReceive_ok (push_ok h)

theorem State.controlEnd_ok {pause off : Option Bool} (h : s.MemoriesOk) : (s.controlEnd link side m pause off).MemoriesOk := h

theorem State.retrain_ok (h : s.MemoriesOk) : (s.retrain link side m).MemoriesOk := by
  fun_cases State.retrain <;> exact h

theorem State.writeLinkCtl_ok {x : Nat} (h : s.MemoriesOk) : (s.writeLinkCtl link side m x).MemoriesOk := by
  fun_cases State.writeLinkCtl
  · exact retrain_ok h
  · exact h

theorem State.writeLinkReg_ok {x : Nat} (h : s.MemoriesOk) : (s.writeLinkReg link side m k x).MemoriesOk := by
  fun_cases State.writeLinkReg
  · exact writeLinkCtl_ok h
  all_goals exact h

theorem State.controlBoth_ok {pause off test : Bool} {width : Nat} (h : s.MemoriesOk) : (s.controlBoth link m pause off test width).MemoriesOk := h

theorem State.serviceOff_ok {v : Service} (h : s.MemoriesOk) : (s.serviceOff v).Ok := controlBoth_ok h

theorem State.serviceMove_ok {v : Service} (h : s.MemoriesOk) : (s.serviceMove v).Ok := by
  fun_cases State.serviceMove
  · exact controlBoth_ok h
  · exact retrain_ok h
  · trivial
  · trivial
  · exact serviceOff_ok h
  · exact serviceOff_ok h
  · exact retrain_ok h
  · trivial
  · exact serviceOff_ok h
  · exact h
  · exact h
  · trivial

theorem State.endService_ok {v : Service} {w remap : Nat} (h : s.MemoriesOk) : (s.endService v w remap).MemoriesOk := by
  fun_cases State.endService
  · exact postEvent_ok h
  · exact endJob_ok (postEvent_ok h)
  · exact postEvent_ok h

theorem State.serve_ok (h : s.MemoriesOk) : (State.serve link n s).MemoriesOk := by
  induction n generalizing s with
  | zero => exact h
  | succ n ih =>
    rw [State.serve]
    split
    · exact h
    · split
      · exact h
      · exact ih (services_ok (ServiceMove.of_go ‹_› (serviceMove_ok h)))
      · exact ih (endService_ok (ServiceMove.of_ends ‹_› (serviceMove_ok h)))

theorem State.serveLink_ok (h : s.MemoriesOk) : (s.serveLink link).MemoriesOk := serve_ok h

theorem State.askService_ok {job : Option Nat} (h : s.MemoriesOk) : (s.askService link m job).MemoriesOk := serveLink_ok h

theorem execLinkServiceWindow_ok (h : s.MemoriesOk) : ResultOk (execLinkServiceWindow s) := by
  unfold execLinkServiceWindow
  exact foldl_ok h fun _ _ h => askService_ok h

theorem execLinkServiceWaitTimeout_ok (h : s.MemoriesOk) : ResultOk (execLinkServiceWaitTimeout link m s) := by
  fun_cases execLinkServiceWaitTimeout
  · exact h
  · exact h
  · exact serveLink_ok (endService_ok (ServiceMove.of_ends ‹_› (serviceOff_ok h)))
  · exact ServiceMove.of_go ‹_› (serviceOff_ok h)
  · exact h

theorem execLnksvc_ok (h : s.MemoriesOk) : ResultOk (execLnksvc fn cmd s) := by
  unfold execLnksvc
  refine pfCommand_ok h ?_
  split
  · exact complete_ok h
  · exact askService_ok h

theorem linkEvent_ok {k : State} (hs : s.MemoriesOk) (hk : k.MemoriesOk) : ResultOk (linkEvent link side m s k) := by
  fun_cases linkEvent
  · exact serveLink_ok hk
  · exact hs

theorem execLnkPause_ok (h : s.MemoriesOk) : ResultOk (execLnkPause link side m s) := linkEvent_ok h (controlEnd_ok h)

theorem execLnkUnpause_ok (h : s.MemoriesOk) : ResultOk (execLnkUnpause link side m s) := linkEvent_ok h (controlEnd_ok h)

theorem execLnkRetrain_ok (h : s.MemoriesOk) : ResultOk (execLnkRetrain link side m s) := linkEvent_ok h (retrain_ok h)

theorem execLnkRetrainComplete_ok {ok : Bool} {errE errF : W64} (h : s.MemoriesOk) : ResultOk (execLnkRetrainComplete link m ok errE errF s) := by
  unfold execLnkRetrainComplete
  extract_lets e f good after s1 s2
  have h1 : s1.MemoriesOk := putEnd_ok (putEnd_ok h)
  have h2 : s2.MemoriesOk := ite_ok h1 h1
  exact iteResult_ok h (serveLink_ok h2)

theorem execLnkOff_ok (h : s.MemoriesOk) : ResultOk (execLnkOff link side m s) := linkEvent_ok h (controlEnd_ok h)

theorem execLnkOn_ok (h : s.MemoriesOk) : ResultOk (execLnkOn link side m s) := linkEvent_ok h (controlEnd_ok h)

theorem execLnkRetrycntClr_ok (h : s.MemoriesOk) : ResultOk (execLnkRetrycntClr link side m s) := linkEvent_ok h h

theorem execLinkLost_ok (h : s.MemoriesOk) : ResultOk (execLinkLost link s) := by
  fun_cases execLinkLost
  · exact h
  · exact foldl_ok h fun _ _ h => raiseUpper_ok h
  · exact raiseUpper_ok h

theorem execBootStart_ok (h : s.MemoriesOk) : ResultOk (execBootStart s) := by
  fun_cases execBootStart <;> exact h

theorem State.bootImage_ok (h : s.MemoriesOk) : (s.bootImage).Ok := by
  fun_cases State.bootImage
  · exact ioRead_ok (IoRead.of_ok ‹_› (ioRead_ok h))
  · exact IoRead.of_fail ‹_› (ioRead_ok h)
  · trivial
  · exact h

theorem execBootVerifyComplete_ok {ok : Bool} {err : Nat} (h : s.MemoriesOk) : ResultOk (execBootVerifyComplete ok err s) := by
  fun_cases execBootVerifyComplete
  · exact h
  · exact h
  · have h1 := IoRead.of_fail ‹_› (bootImage_ok h)
    exact h1
  · have h1 := IoRead.of_ok ‹_› (bootImage_ok h)
    exact h1
  · exact h

theorem execBootImgGo_ok (h : s.MemoriesOk) : ResultOk (execBootImgGo s) := by
  fun_cases execBootImgGo <;> exact h

theorem State.unitReady_ok {unit : BringUp} (h : s.MemoriesOk) : (s.unitReady unit).MemoriesOk := by
  cases unit with
  | dram die dev => exact dram_ok h (Memory.wf_filter _ _ h.dram)
  | slice die k => exact dropMib_ok h
  | quad die q => exact h
  | linkModule die link m =>
    unfold State.unitReady
    exact ite_ok (putEnd_ok (putEnd_ok h)) (putEnd_ok h)
  | flash => exact h
  | mgmt => exact h

theorem State.unitFailed_ok {u : BringUp} (h : s.MemoriesOk) : (s.unitFailed u).MemoriesOk := by
  fun_cases State.unitFailed
  · exact controlEnd_ok h
  all_goals exact h

theorem execFunctionReady_ok {unit : BringUp} {ok : Bool} (h : s.MemoriesOk) : ResultOk (execFunctionReady unit ok s) := by
  fun_cases execFunctionReady
  · exact h
  · exact unitReady_ok h
  · exact unitFailed_ok h

theorem execVfFlr_ok (h : s.MemoriesOk) : ResultOk (execVfFlr vf s) := by
  fun_cases execVfFlr
  · exact h
  · exact loseAll_ok (switchOutAll_ok h)

/-- The reset uncommits the HDM decoder and keeps every memory. -/
theorem execPfFlr_ok (h : s.MemoriesOk) : ResultOk (execPfFlr s) := ⟨h.host, h.dram, h.flash, h.layer, nofun⟩

theorem State.answerSpdm_ok (h : s.MemoriesOk) : (s.answerSpdm b).MemoriesOk := by
  fun_cases State.answerSpdm <;> exact h

theorem execVacate_ok (h : s.MemoriesOk) : ResultOk (execVacate fn cmd s) := by
  fun_cases execVacate
  · exact h
  · exact complete_ok h
  · exact complete_ok h
  · exact sendControl_ok (push_ok h)

theorem execVacateComplete_ok (h : s.MemoriesOk) : ResultOk (execVacateComplete job s) := by
  fun_cases execVacateComplete
  · exact push_ok h
  · exact endJob_ok (spillDeques_ok (saveTeams_ok h))
  · exact h

theorem execHostReturn_ok (h : s.MemoriesOk) : ResultOk (execHostReturn fn cmd s) := by
  fun_cases execHostReturn
  · exact h
  · exact complete_ok h
  · exact complete_ok h
  · exact complete_ok (rouse_ok h)

theorem execPartset_ok (h : s.MemoriesOk) : ResultOk (execPartset fn cmd s) :=
  pfCommand_ok h (iteResult_ok (complete_ok h) (iteResult_ok (complete_ok h) (iteResult_ok (complete_ok h) (push_ok h))))

theorem execPartsetZeroFillComplete_ok (h : s.MemoriesOk) : ResultOk (execPartsetZeroFillComplete job s) := by
  fun_cases execPartsetZeroFillComplete
  · exact endJob_ok (rouse_ok (foldl_ok h fun _ _ h => dropMib_ok (dropMib_ok h)))
  · exact h

theorem execVecset_ok (h : s.MemoriesOk) : ResultOk (execVecset fn cmd s) := pfCommand_ok h (complete_ok h)

theorem execPartmem_ok (h : s.MemoriesOk) : ResultOk (execPartmem fn cmd s) := pfCommand_ok h (iteResult_ok (complete_ok h) (addJob_ok h))

theorem runPartmem_ok {flips : List (Nat × Nat)} (h : s.MemoriesOk) : ResultOk (runPartmem k tag flips s) := by
  fun_cases runPartmem
  · exact endJob_ok h
  · exact push_ok h

theorem State.stageUnits_ok {l : List (Nat × List Byte)} (h : s.MemoriesOk) : (s.stageUnits tag l).MemoriesOk := by
  unfold State.stageUnits
  exact foldl_ok h fun _ _ h => push_ok h

/-- The state after the reading of a buffer, if it did not wait. -/
theorem State.readUnits_ok (h : s.MemoriesOk) : OptionOk ((s.readUnits fn unit a n).map Prod.fst) := by
  induction n generalizing s unit a with
  | zero => exact h
  | succ n ih =>
    rw [State.readUnits]
    split
    · trivial
    · exact IoRead.of_fail ‹_› (ioRead_ok h)
    · have hrest := ih (unit := unit + 1) (a := a + 4096) (IoRead.of_ok ‹_› (ioRead_ok h))
      rw [Option.map_map]
      exact hrest

theorem execWswrite_ok (h : s.MemoriesOk) : ResultOk (execWswrite fn cmd s) := by
  refine pfCommand_ok h (iteResult_ok (complete_ok h) (iteResult_ok (complete_ok h) ?_))
  have hread := readUnits_ok (fn := fn) (unit := cmd.arg0.toNat / 4096) (a := cmd.arg1.toNat) (n := cmd.arg2.toNat / 4096) h
  split
  · exact h
  case h_2 e =>
    rw [e] at hread
    exact complete_ok hread
  case h_3 e =>
    rw [e] at hread
    exact stageUnits_ok hread

theorem execWstrim_ok (h : s.MemoriesOk) : ResultOk (execWstrim fn cmd s) :=
  pfCommand_ok h (iteResult_ok (complete_ok h) (iteResult_ok (complete_ok h) (stageUnits_ok h)))

theorem State.unitWritten_ok (h : s.MemoriesOk) : (s.unitWritten unit).MemoriesOk := by
  unfold State.unitWritten
  refine foldl_ok h fun _ _ h => ?_
  split
  · exact ite_ok h (ite_ok (endJob_ok h) h)
  · exact h

theorem execStagedUnitCommit_ok (h : s.MemoriesOk) : ResultOk (execStagedUnitCommit unit s) := by
  fun_cases execStagedUnitCommit
  · exact h
  · exact push_ok h
  · exact unitWritten_ok (flash_ok h (Memory.wf_write _ _ _ (Memory.wf_clear _ _ _ h.flash)))

theorem execHqCmdtailDoorbell_ok {index : Nat} (h : s.MemoriesOk) : ResultOk (execHqCmdtailDoorbell fn index s) := by
  fun_cases execHqCmdtailDoorbell
  · exact h
  · exact h
  · exact push_ok h

theorem execHqEvtheadWrite_ok {index : Nat} (h : s.MemoriesOk) : ResultOk (execHqEvtheadWrite fn index s) := by
  fun_cases execHqEvtheadWrite
  · exact h
  · exact h
  · exact push_ok h

theorem runCommand_ok {op : Nat} (h : s.MemoriesOk) : ResultOk (runCommand fn op cmd s) := by
  fun_cases runCommand
  · exact execCtxnew_ok h
  · exact execCtxend_ok h
  · exact execLaunch_ok h
  · exact execAnswer_ok h
  · exact execSwout_ok h
  · exact execSwin_ok h
  · exact execVacate_ok h
  · exact execHostReturn_ok h
  · exact execPartset_ok h
  · exact execWswrite_ok h
  · exact execWstrim_ok h
  · exact execVecset_ok h
  · exact execLnksvc_ok h
  · exact execPartmem_ok h
  · exact complete_ok h

theorem startCommand_ok (h : s.MemoriesOk) : ResultOk (startCommand fn b s) := by
  fun_cases startCommand
  · exact push_ok h
  · exact complete_ok (push_ok h)
  · exact runCommand_ok (push_ok h)

theorem runIntake_ok (h : s.MemoriesOk) : ResultOk (runIntake fn s) := by
  fun_cases runIntake
  · exact h
  · exact push_ok h
  · exact startCommand_ok (IoRead.of_fail ‹_› (ioRead_ok h))
  · exact startCommand_ok (IoRead.of_ok ‹_› (ioRead_ok h))

theorem runJob_ok (h : s.MemoriesOk) : ResultOk (runJob k s) := by
  fun_cases runJob
  · exact runLaunch_ok h
  · exact runSwin_ok h
  · exact runPartmem_ok h
  · exact runAnswer_ok h
  · exact runSwout_ok h
  · exact runCtxend_ok h
  · exact h

end

end Sys2Proof.Machine
end

section
/-! PROOFS. Invalidations, the accesses of the host and the power of a quad keep the form (R37, R39, R71, R93, R533). -/

namespace Sys2Proof.Machine

section
open State

variable {s : State} {n a fn die core tag pasid page off unit slice line quad : Nat} {e : Entry} {b : List Byte} {l : Loc}

theorem execAtsTranslationCompletion_ok {nw : Bool} {r : AtsReply} (h : s.MemoriesOk) :
    ResultOk (execAtsTranslationCompletion die fn pasid page nw r s) :=
  ite_ok (atsComplete_ok h) h

theorem execPageRequestResponse_ok {group : Nat} {r : PriReply} (h : s.MemoriesOk) : ResultOk (execPageRequestResponse fn pasid group r s) := by
  fun_cases execPageRequestResponse
  · exact h
  · exact ite_ok (pageResponse_ok h) h

theorem execPriEnableSet_ok {alloc : Nat} (h : s.MemoriesOk) : ResultOk (execPriEnableSet fn alloc s) := by
  fun_cases execPriEnableSet
  · exact h
  · exact pump_ok h

theorem State.drainStranded_ok {v : Invalidation} (h : s.MemoriesOk) : (s.drainStranded v).MemoriesOk := by
  unfold State.drainStranded
  exact foldl_ok h fun _ _ h => Drained.settle_ok (drainList_ok h)

theorem State.beginInvalidation_ok {glob : Bool} {base len : Nat} (h : s.MemoriesOk) :
    (s.beginInvalidation fn tag pasid glob base len).MemoriesOk := by
  unfold State.beginInvalidation
  extract_lets went v s1
  have h1 : s1.MemoriesOk := drainStranded_ok h
  have h2 : (s1.invalidate fn pasid glob base len).MemoriesOk := invalidate_ok h1
  refine pump_ok (push_ok ?_)
  exact h2

theorem execAtsInvalidateRequest_ok {glob : Bool} {base len : Nat} (h : s.MemoriesOk) :
    ResultOk (execAtsInvalidateRequest fn pasid glob base len tag s) := by
  fun_cases execAtsInvalidateRequest
  · exact h
  · exact beginInvalidation_ok h

theorem execInvalidateCompletion_ok (h : s.MemoriesOk) : ResultOk (execInvalidateCompletion fn tag s) := by
  fun_cases execInvalidateCompletion
  · exact h
  · exact push_ok (drainStranded_ok h)
  · exact drainStranded_ok h

theorem State.flushTranslations_ok (h : s.MemoriesOk) : (s.flushTranslations fn).MemoriesOk := by
  fun_cases State.flushTranslations
  · exact h
  · exact beginInvalidation_ok h

theorem execTrnFlush_ok (h : s.MemoriesOk) : ResultOk (execTrnFlush fn s) := by
  fun_cases execTrnFlush
  · exact h
  · exact flushTranslations_ok h

/-- A base is committed only if it is aligned. -/
theorem execHdmDecoderCommit_ok {base : Nat} (h : s.MemoriesOk) : ResultOk (execHdmDecoderCommit base s) := by
  unfold execHdmDecoderCommit
  split
  case isTrue hbase =>
    refine ⟨h.host, h.dram, h.flash, h.layer, fun b hb => ?_⟩
    obtain rfl : base = b := Option.some.inj hb
    exact hbase.1
  case isFalse => exact h

theorem State.answerHost_ok {b : Option (List Byte)} (h : s.MemoriesOk) : (s.answerHost b).MemoriesOk := h

theorem State.hostRead_ok (h : s.MemoriesOk) : OptionOk (s.hostRead l n) := by
  fun_cases State.hostRead
  · trivial
  · exact h
  · exact ite_ok (answerHost_ok (countBad_ok h)) h

theorem execHostCxlMemRead_ok {hpa : Nat} (h : s.MemoriesOk) : ResultOk (execHostCxlMemRead hpa n s) := by
  fun_cases execHostCxlMemRead
  · exact h
  · exact h
  · exact optionGetD_ok h (hostRead_ok h)

theorem State.dropCxl_ok (h : s.MemoriesOk) : (s.dropCxl line).MemoriesOk := h

theorem State.hostWrite_ok {dpa : Nat} {data : List Byte} (h : s.MemoriesOk) : (s.hostWrite dpa data).MemoriesOk := by
  unfold State.hostWrite
  extract_lets line s1
  have h1 : s1.MemoriesOk := dropCxl_ok (writeBack_ok h)
  exact dram_ok h1 (Memory.wf_write _ _ _ h1.dram)

theorem execHostCxlMemWrite_ok {hpa : Nat} {data : List Byte} (h : s.MemoriesOk) : ResultOk (execHostCxlMemWrite hpa data s) := by
  fun_cases execHostCxlMemWrite
  · exact h
  · exact h
  · exact h
  · exact h
  · exact hostWrite_ok h

theorem execHostSnoop_ok {hpa : Nat} (h : s.MemoriesOk) : ResultOk (execHostSnoop hpa s) := by
  fun_cases execHostSnoop
  · exact ite_ok h h
  · exact h

theorem execWeightWindowHostRead_ok {hpa : Nat} (h : s.MemoriesOk) : ResultOk (execWeightWindowHostRead hpa n s) := by
  fun_cases execWeightWindowHostRead
  · exact h
  · exact optionGetD_ok h (hostRead_ok h)
  · exact h
  · exact h

theorem State.setBias_ok {b : BiasRegs} (h : s.MemoriesOk) : (s.setBias fn b).MemoriesOk := h

theorem State.biasGo_ok {device : Bool} (h : s.MemoriesOk) : (s.biasGo fn device).MemoriesOk := by
  fun_cases State.biasGo
  · exact h
  · exact h
  · exact h
  · exact h
  · exact push_ok h

theorem execBiasFlipToDevice_ok (h : s.MemoriesOk) : ResultOk (execBiasFlipToDevice fn s) := by
  fun_cases execBiasFlipToDevice
  · exact biasGo_ok h
  · exact h

theorem execBiasFlipToHost_ok (h : s.MemoriesOk) : ResultOk (execBiasFlipToHost fn s) := by
  fun_cases execBiasFlipToHost
  · exact biasGo_ok h
  · exact h

theorem State.giveUp_ok {dirty : Option (List Byte)} (h : s.MemoriesOk) : (s.giveUp line dirty).MemoriesOk := by
  unfold State.giveUp
  extract_lets s1
  have h1 : s1.MemoriesOk := by
    unfold s1
    split
    · exact ite_ok (hostWrite_ok h) (writeBack_ok h)
    · exact writeBack_ok h
  exact ite_ok h1 h1

theorem State.toDevice_ok (h : s.MemoriesOk) : (s.toDevice page).MemoriesOk := h

theorem execBiasOwnershipResponse_ok {dirty : Option (List Byte)} (h : s.MemoriesOk) : ResultOk (execBiasOwnershipResponse fn line dirty s) := by
  fun_cases execBiasOwnershipResponse
  · exact h
  · exact h
  · exact setBias_ok (toDevice_ok (giveUp_ok h))
  · exact setBias_ok (giveUp_ok h)

theorem execBiasHostFlipComplete_ok (h : s.MemoriesOk) : ResultOk (execBiasHostFlipComplete fn s) := by
  fun_cases execBiasHostFlipComplete <;> exact h

theorem execBiasFlipTimeout_ok (h : s.MemoriesOk) : ResultOk (execBiasFlipTimeout fn s) := by
  fun_cases execBiasFlipTimeout <;> exact h

/-- The state that a register write would give. -/
theorem State.hostField_ok {val : Nat} (h : s.MemoriesOk) : OptionOk ((s.hostField fn off val).map Prod.snd) := by
  fun_cases State.hostField
  · exact ite_ok h (setQueue_ok h)
  · exact ite_ok h (setQueue_ok h)
  · exact push_ok (push_ok (setQueue_ok h))
  · exact h
  · exact h
  · exact ite_ok (flushTranslations_ok h) h
  · exact setBias_ok h
  · exact ite_ok (biasGo_ok h) (setBias_ok h)
  · exact setBias_ok h
  · exact h
  · trivial

theorem State.bootField_ok {val : Nat} (h : s.MemoriesOk) : OptionOk ((s.bootField fn off val).map Prod.snd) := by
  fun_cases State.bootField
  · exact h
  · exact h
  · trivial

theorem execHostRegisterWrite_ok {val : W64} (h : s.MemoriesOk) : ResultOk (execHostRegisterWrite fn off val s) := by
  unfold execHostRegisterWrite
  extract_lets field
  have hfield : OptionOk (field.map Prod.snd) := by
    unfold field
    split
    · trivial
    · split
      case h_1 e => exact e ▸ bootField_ok h
      case h_2 =>
        split
        · exact hostField_ok h
        · trivial
  clear_value field
  split
  · exact h
  · exact iteResult_ok (rsvWrite_ok h) hfield

theorem execPatrolScrub_ok {corrected : Nat} (h : s.MemoriesOk) : ResultOk (execPatrolScrub die line corrected s) := by
  fun_cases execPatrolScrub <;> exact h

theorem execFlashUnitRead_ok {retries : Nat} {corrected : Bool} (h : s.MemoriesOk) : ResultOk (execFlashUnitRead unit retries corrected s) := by
  fun_cases execFlashUnitRead <;> exact h

theorem execFtlRelocation_ok {oldBad newReady : Bool} (h : s.MemoriesOk) : ResultOk (execFtlRelocation unit oldBad newReady s) := by
  fun_cases execFtlRelocation <;> exact h

theorem execLyrWaypartGrow_ok {ways : Nat} (h : s.MemoriesOk) : ResultOk (execLyrWaypartGrow die slice ways s) := by
  fun_cases execLyrWaypartGrow
  · exact waypartWrite_ok h
  · exact h

theorem execLyrWaypartShrink_ok {ways : Nat} (h : s.MemoriesOk) : ResultOk (execLyrWaypartShrink die slice ways s) := by
  fun_cases execLyrWaypartShrink
  · exact waypartWrite_ok h
  · exact h

theorem execLayerGrowComplete_ok (h : s.MemoriesOk) : ResultOk (execLayerGrowComplete die slice s) := by
  fun_cases execLayerGrowComplete
  · exact dropMib_ok h
  · exact h

theorem execLayerShrinkBusyEnd_ok (h : s.MemoriesOk) : ResultOk (execLayerShrinkBusyEnd die slice s) := by
  fun_cases execLayerShrinkBusyEnd <;> exact h

theorem State.beginStep_ok (h : s.MemoriesOk) : (s.beginStep quad).MemoriesOk := by
  fun_cases State.beginStep <;> exact h

theorem State.passPermit_ok (h : s.MemoriesOk) : (s.passPermit die).MemoriesOk := by
  fun_cases State.passPermit
  · exact h
  · exact h
  · exact h
  · exact beginStep_ok h

theorem execPwrQctlWrite_ok {val : W64} (h : s.MemoriesOk) : ResultOk (execPwrQctlWrite quad val s) := by
  fun_cases execPwrQctlWrite
  · exact h
  · exact h
  · exact h
  · exact push_ok (passPermit_ok (beginStep_ok h))

theorem execPwrTransitionStep_ok (h : s.MemoriesOk) : ResultOk (execPwrTransitionStep quad s) := by
  fun_cases execPwrTransitionStep
  · exact h
  · exact ite_ok (push_ok (passPermit_ok (beginStep_ok (passPermit_ok (ite_ok h h))))) (passPermit_ok (beginStep_ok (passPermit_ok (ite_ok h h))))

theorem execBankDrowsyEntry_ok {sub bank : Nat} (h : s.MemoriesOk) : ResultOk (execBankDrowsyEntry die core sub bank s) := by
  fun_cases execBankDrowsyEntry <;> exact h

end

end Sys2Proof.Machine
end

section
/-! PROOFS. Every instruction, every piece of pending work and every step keeps the form. -/

namespace Sys2Proof.Machine

section
open State

variable {s : State} {gid id a fn off line : Nat} {g : Group} {e : Entry} {u : UCtx} {i : Instr} {c : Issue} {f : LM} {l : Loc}

theorem exec_ok (h : s.MemoriesOk) : ResultOk (exec i s) := by
  cases i with
  | faddF32 | fsubF32 | fmulF32 | fminF32 | fmaxF32 | fdivF32 | fsqrtF32 | daddF64 | dsubF64 | dmulF64 | dminF64 | dmaxF64 | ddivF64 | dsqrtF64 |
    hadd2F16 | hmul2F16 | hmin2F16 | hmax2F16 | hadd2Bf16 | hmul2Bf16 | hmin2Bf16 | hmax2Bf16 | iaddS32 | isubS32 | imulS32 | imulhiS32 |
    imulhiN32 | iminS32 | iminN32 | imaxS32 | imaxN32 | iaddS64 | isubS64 | qaddS32 | qsubS32 | iabsS32 | inegS32 | andB32 | orB32 | xorB32 |
    notB32 | shlB32 | shrN32 | shrS32 | rotB32 | popcB32 | clzB32 | brevB32 | movB32 | movB64 | lidB32 | xset | xget | frcpF32 | frsqF32 |
    fex2F32 | flg2F32 | fsinF32 | fcosF32 | lnrdB32 | lnrdxB32 =>
    dsimp only [exec]
    exact shortLane_ok h
  | fmaF32 | fmaF64 | hfma2F16 | hfma2Bf16 | imadS32 | imadS64 | bool3B32 | fclassF32 | cvt | cvtpk | frndF32 | bselB32 | bfeB32 | bfiB32 |
    dot4S8 | movi | drawB32 => exact laneOp_ok h
  | selB32 => exact execSelB32_ok h
  | fcmpF32 | dcmpF64 | icmpS32 | icmpN32 | icmpS64 | icmpN64 => exact compareOp_ok h
  | mrd => exact execMrd_ok h
  | agree => exact execAgree_ok h
  | lmask => exact execLmask_ok h
  | rsumF32 | rminF32 | rmaxF32 | rsumS32 | rminS32 | rmaxS32 => exact reduceOp_ok h
  | ldB8 | ldS8 | ldB16 | ldS16 | ldB32 | ldB64 | ldB128 | stB8 | stB16 | stB32 | stB64 | stB128 | atom | cas | xadd | xrd | resld | resst |
    sldB32 | sldB64 | sstB32 | sstB64 => exact memIssue_ok h
  | tex => exact execTex_ok h
  | trace => exact execTrace_ok h
  | trnext | traccept | trhit => exact travOp_ok h
  | camray => exact execCamray_ok h
  | resup => exact execResup_ok h
  | resmg => exact execResmg_ok h
  | resfin => exact execResfin_ok h
  | resget => exact execResget_ok h
  | resset => exact execResset_ok h
  | resclr => exact execResclr_ok h
  | laneXf => exact laneShort_ok h
  | nop => exact opNop_ok h
  | saddB64 | ssubB64 | smulB64 | smulhiS64 | smulhiN64 | sminS64 | sminN64 | smaxS64 | smaxN64 | sandB64 | sorB64 | sxorB64 | sshlB64 | sshrN64
    | sshrS64 => exact uni2_ok h
  | snotB64 | smovB64 | spopcB64 | sclzB64 => exact uni1_ok h
  | bra => exact opBra_ok h
  | call => exact opCall_ok h
  | ret => exact opRet_ok h
  | exit => exact opExit_ok h
  | exitHelp => exact opExitHelp_ok h
  | yield => exact opYield_ok h
  | brx => exact opBrx_ok h
  | wait => exact opWait_ok h
  | mparr => exact opMparr_ok h
  | mpwait => exact opMpwait_ok h
  | mpinit => exact opMpinit_ok h
  | trap => exact opTrap_ok h
  | tret => exact opTret_ok h
  | sysrd => exact opSysrd_ok h
  | syswr => exact opSyswr_ok h
  | repack => exact execRepack_ok h
  | repackKey => exact execRepackKey_ok h
  | ilock => exact opIlock_ok h
  | iunlock => exact opIunlock_ok h
  | genkeyKey => exact opGenkeyKey_ok h
  | genkeyCtr => exact opGenkeyCtr_ok h
  | genkeyStrm => exact opGenkeyStrm_ok h
  | genkeyRdkey => exact opGenkeyRdkey_ok h
  | genkeyRd => exact opGenkeyRd_ok h
  | pwrhint => exact opPwrhint_ok h
  | fence => exact opFence_ok h
  | acq => exact opAcq_ok h
  | rel => exact opRel_ok h
  | spawn => exact opSpawn_ok h
  | twait => exact opTwait_ok h
  | steal => exact opSteal_ok h
  | tileret => exact opTileret_ok h
  | tilecur => exact opTilecur_ok h
  | tinfo => exact opTinfo_ok h
  | mfree => exact opMfree_ok h
  | mzero => exact opMzero_ok h
  | smovi => exact execSmovi_ok h
  | scmpS64 | scmpN64 => exact uniCompare_ok h
  | ssel => exact execSsel_ok h
  | sbfe => exact execSbfe_ok h
  | stmap => exact execStmap_ok h
  | stunmap => exact execStunmap_ok h
  | copy | lload | lstore => exact engineIssue_ok h
  | mclaim => exact execMclaim_ok h
  | mld => exact execMld_ok h
  | mma => exact execMma_ok h
  | mloop => exact execMloop_ok h
  | mst => exact execMst_ok h
  | mdesc => exact execMdesc_ok h
  | mscale => exact execMscale_ok h
  | mlease => exact execMlease_ok h
  | sqtab | sqfact => exact tabLoad_ok h
  | sqstart => exact execSqstart_ok h
  | sqstage => exact execSqstage_ok h
  | sqret => exact execSqret_ok h
  | sqstat => exact execSqstat_ok h
  | sqdrain => exact execSqdrain_ok h
  | pbind => exact execPbind_ok h
  | prun => exact execPrun_ok h
  | pwait => exact execPwait_ok h
  | pdrop => exact execPdrop_ok h
  | taddr => exact execTaddr_ok h
  | gquery => exact execGquery_ok h
  | uniformXf => exact execUniformXf_ok h
  | loadLanding => exact execLoadLanding_ok h
  | storeBufferDrain => exact execStoreBufferDrain_ok h
  | atomicPerform => exact execAtomicPerform_ok h
  | xaccCellAdd => exact execXaccCellAdd_ok h
  | engineUnitLand => exact execEngineUnitLand_ok h
  | matrixTransferLand => exact execMatrixTransferLand_ok h
  | matrixStep => exact execMatrixStep_ok h
  | traversalComplete => exact execTraversalComplete_ok h
  | camrayDescriptorArrival => exact execCamrayDescriptorArrival_ok h
  | atsTranslationCompletion => exact execAtsTranslationCompletion_ok h
  | pageRequestResponse => exact execPageRequestResponse_ok h
  | atsInvalidateRequest => exact execAtsInvalidateRequest_ok h
  | invalidateCompletion => exact execInvalidateCompletion_ok h
  | priEnableSet => exact execPriEnableSet_ok h
  | hdmDecoderCommit => exact execHdmDecoderCommit_ok h
  | hostCxlMemRead => exact execHostCxlMemRead_ok h
  | hostCxlMemWrite => exact execHostCxlMemWrite_ok h
  | hostSnoop => exact execHostSnoop_ok h
  | weightWindowHostWrite => exact h
  | weightWindowHostRead => exact execWeightWindowHostRead_ok h
  | biasFlipToDevice => exact execBiasFlipToDevice_ok h
  | biasFlipToHost => exact execBiasFlipToHost_ok h
  | biasOwnershipResponse => exact execBiasOwnershipResponse_ok h
  | biasHostFlipComplete => exact execBiasHostFlipComplete_ok h
  | biasFlipTimeout => exact execBiasFlipTimeout_ok h
  | trnFlush => exact execTrnFlush_ok h
  | hostRegisterWrite => exact execHostRegisterWrite_ok h
  | lyrWaypartGrow => exact execLyrWaypartGrow_ok h
  | lyrWaypartShrink => exact execLyrWaypartShrink_ok h
  | layerGrowComplete => exact execLayerGrowComplete_ok h
  | layerShrinkBusyEnd => exact execLayerShrinkBusyEnd_ok h
  | patrolScrub => exact execPatrolScrub_ok h
  | flashUnitRead => exact execFlashUnitRead_ok h
  | ftlRelocation => exact execFtlRelocation_ok h
  | gangStart => exact execGangStart_ok h
  | teamParkOut => exact execTeamParkOut_ok h
  | stageLeave => exact execStageLeave_ok h
  | stageIdleTimeout => exact execStageIdleTimeout_ok h
  | stageTimeslice => exact execStageTimeslice_ok h
  | stageEnter => exact execStageEnter_ok h
  | bankDrowsyEntry => exact execBankDrowsyEntry_ok h
  | groupExitComplete => exact execGroupExitComplete_ok h
  | repackArrive => exact execRepackArrive_ok h
  | mpwaitWake => exact execMpwaitWake_ok h
  | twaitWake => exact execTwaitWake_ok h
  | sqstageWake => exact execSqstageWake_ok h
  | sqdrainWake => exact execSqdrainWake_ok h
  | prunStart => exact execPrunStart_ok h
  | pwaitWake => exact execPwaitWake_ok h
  | pdropUnbind => exact execPdropUnbind_ok h
  | waitRelease => exact execWaitRelease_ok h
  | channelOperationResume => exact execChannelOperationResume_ok h
  | trapEntry => exact execTrapEntry_ok h
  | groupRungTimeout => exact execGroupRungTimeout_ok h
  | upperRungTimeout => exact execUpperRungTimeout_ok h
  | upperRungStop => exact execUpperRungStop_ok h
  | eventRecordWrite => exact execEventRecordWrite_ok h
  | codePageFill => exact execCodePageFill_ok h
  | tileRetire => exact execTileRetire_ok h
  | ringSlotGrant => exact execRingSlotGrant_ok h
  | overflowCopy => exact execOverflowCopy_ok h
  | cueMessageReceive => exact execCueMessageReceive_ok h
  | taskLaunch => exact execTaskLaunch_ok h
  | taskRetire => exact execTaskRetire_ok h
  | seqStageInput => exact execSeqStageInput_ok h
  | seqStepEnd => exact execSeqStepEnd_ok h
  | ctxnew => exact execCtxnew_ok h
  | ctxend => exact execCtxend_ok h
  | launch => exact execLaunch_ok h
  | gridEnd => exact execGridEnd_ok h
  | answer => exact execAnswer_ok h
  | swout => exact execSwout_ok h
  | swin => exact execSwin_ok h
  | vacate => exact execVacate_ok h
  | vacateComplete => exact execVacateComplete_ok h
  | hostReturn => exact execHostReturn_ok h
  | partset => exact execPartset_ok h
  | wswrite => exact execWswrite_ok h
  | wstrim => exact execWstrim_ok h
  | vecset => exact execVecset_ok h
  | lnksvc => exact execLnksvc_ok h
  | partmem => exact execPartmem_ok h
  | hqCmdtailDoorbell => exact execHqCmdtailDoorbell_ok h
  | hqEvtheadWrite => exact execHqEvtheadWrite_ok h
  | linkFlitReceive => exact execLinkFlitReceive_ok h
  | linkLost => exact execLinkLost_ok h
  | linkServiceWindow => exact execLinkServiceWindow_ok h
  | linkServiceWaitTimeout => exact execLinkServiceWaitTimeout_ok h
  | lnkPause => exact execLnkPause_ok h
  | lnkUnpause => exact execLnkUnpause_ok h
  | lnkRetrain => exact execLnkRetrain_ok h
  | lnkRetrainComplete => exact execLnkRetrainComplete_ok h
  | lnkOff => exact execLnkOff_ok h
  | lnkOn => exact execLnkOn_ok h
  | lnkRetrycntClr => exact execLnkRetrycntClr_ok h
  | pwrQctlWrite => exact execPwrQctlWrite_ok h
  | pwrTransitionStep => exact execPwrTransitionStep_ok h
  | bootStart => exact execBootStart_ok h
  | bootVerifyComplete => exact execBootVerifyComplete_ok h
  | bootImgGo => exact execBootImgGo_ok h
  | functionReady => exact execFunctionReady_ok h
  | vfFlr => exact execVfFlr_ok h
  | pfFlr => exact execPfFlr_ok h
  | spdmGetVersion | spdmGetCapabilities | spdmNegotiateAlgorithms | spdmGetDigests | spdmGetCertificate | spdmChallenge | spdmGetMeasurements =>
    exact answerSpdm_ok h
  | illegalInstruction => exact execIllegalInstruction_ok h
  | partsetZeroFillComplete => exact execPartsetZeroFillComplete_ok h
  | stagedUnitCommit => exact execStagedUnitCommit_ok h

theorem State.seatEntry_ok {c : Ctx} (h : s.MemoriesOk) : (s.seatEntry gid g e c).MemoriesOk := h

theorem State.performInjected_ok {twin : Instr} {f : LaneForm} (h : s.MemoriesOk) : (s.performInjected gid g e twin f).MemoriesOk := by
  unfold State.performInjected
  split
  · exact h
  · split
    · have h1 := next_ok ‹_› (exec_ok (seatEntry_ok h))
      split
      · exact h
      · split
        · exact failEntry_ok h
        · exact ite_ok (push_ok h) (setGroup_ok h1)
    · exact h
    · exact h

theorem runInjected_ok (h : s.MemoriesOk) : ResultOk (runInjected gid id s) := by
  unfold runInjected
  refine withEntry_ok h fun _ _ => ?_
  split
  · exact runReplay_ok h
  · exact performInjected_ok h

theorem runAct_ok {a : Act} (h : s.MemoriesOk) : ResultOk (runAct a s) := by
  fun_cases runAct
  · exact execLoadLanding_ok h
  · exact runInjected_ok h
  · exact execStoreBufferDrain_ok h
  · exact execAtomicPerform_ok h
  · exact execXaccCellAdd_ok h
  · exact execEngineUnitLand_ok h
  · exact execMatrixTransferLand_ok h
  · exact execMatrixStep_ok h
  · exact execTraversalComplete_ok h
  · exact execCamrayDescriptorArrival_ok h
  · exact execGroupExitComplete_ok h
  · exact execRepackArrive_ok h
  · exact execMpwaitWake_ok h
  · exact execTwaitWake_ok h
  · exact execSqstageWake_ok h
  · exact execSqdrainWake_ok h
  · exact execPrunStart_ok h
  · exact execPwaitWake_ok h
  · exact execPdropUnbind_ok h
  · exact execWaitRelease_ok h
  · exact execChannelOperationResume_ok h
  · exact execTrapEntry_ok h
  · exact execUpperRungStop_ok h
  · exact execEventRecordWrite_ok h
  · exact execCodePageFill_ok h
  · exact execTileRetire_ok h
  · exact execRingSlotGrant_ok h
  · exact execOverflowCopy_ok h
  · exact execCueMessageReceive_ok h
  · exact runLinkFlit_ok h
  · exact execTaskLaunch_ok h
  · exact execTaskRetire_ok h
  · exact execSeqStageInput_ok h
  · exact execSeqStepEnd_ok h
  · exact runIntake_ok h
  · exact execGridEnd_ok h
  · exact execVacateComplete_ok h
  · exact execPartsetZeroFillComplete_ok h
  · exact execStagedUnitCommit_ok h
  · exact execBiasHostFlipComplete_ok h
  · exact execLayerGrowComplete_ok h
  · exact execLayerShrinkBusyEnd_ok h
  · exact execGangStart_ok h
  · exact execTeamParkOut_ok h
  · exact execStageEnter_ok h
  · exact execPwrTransitionStep_ok h
  · exact execInvalidateCompletion_ok h
  · exact runJob_ok h
  · exact runResume_ok h
  · exact runLose_ok h
  · exact runEventArrive_ok h
  · exact runControl_ok h
  · exact runForcePublish_ok h
  · exact runPublishing_ok h
  · exact runPublished_ok h

theorem State.mgmtRead_ok {reg : Nat} (h : s.MemoriesOk) : (s.mgmtRead reg).MemoriesOk := by
  fun_cases State.mgmtRead <;> exact h

theorem State.mgmtWrite_ok {reg : Nat} {val : W64} (h : s.MemoriesOk) : ResultOk (s.mgmtWrite reg val) := by
  fun_cases State.mgmtWrite
  · exact h
  · exact serveLink_ok (writeLinkReg_ok h)
  · exact execPwrQctlWrite_ok h
  · exact h

theorem State.hostRegRead_ok (h : s.MemoriesOk) : (s.hostRegRead fn off).MemoriesOk := by
  fun_cases State.hostRegRead <;> exact h

theorem State.markPlace_ok (h : s.MemoriesOk) : (s.markPlace l).MemoriesOk := by
  fun_cases State.markPlace <;> exact h

theorem State.upset_ok {u : Upset} (h : s.MemoriesOk) : (s.upset u).MemoriesOk := by
  fun_cases State.upset
  · exact markPlace_ok h
  all_goals exact h

theorem State.corrected_ok {onDie : Bool} {part : Nat} (h : s.MemoriesOk) : (s.corrected onDie part).MemoriesOk := by
  fun_cases State.corrected <;> exact h

theorem State.crcFailure_ok {codeword times : Nat} (h : s.MemoriesOk) : (s.crcFailure codeword times).MemoriesOk := by
  fun_cases State.crcFailure <;> exact h

theorem State.hostLine_ok {data : List Byte} {poison : Bool} (h : s.MemoriesOk) : (s.hostLine line data poison).MemoriesOk := by
  fun_cases State.hostLine <;> exact h

theorem State.runWords_ok {pc : W64} {run : BitVec 64} {w1 w2 : W32} (h : s.MemoriesOk) : ResultOk (s.runWords gid pc run w1 w2) := by
  fun_cases State.runWords
  · exact exec_ok h
  · exact raise_ok h
  · exact exec_ok h

theorem State.issue_ok (h : s.MemoriesOk) : ResultOk (s.issue gid) := by
  fun_cases State.issue
  · exact h
  · exact h
  · exact h
  · exact raise_ok h
  · exact fetchMiss_ok h
  · exact fetched_ok (runWords_ok h)

theorem State.tryHeld_ok (h : s.MemoriesOk) : (s.tryHeld gid).MemoriesOk := by
  have hrun {pc run w1 w2} : ResultOk (s.runWords gid pc run w1 w2) := runWords_ok h
  fun_cases State.tryHeld
  case case3 => 
    have h1 := next_ok ‹_› hrun
    exact h1
  all_goals exact h

theorem State.stageWork_ok (h : s.MemoriesOk) : (s.stageWork).MemoriesOk := by
  fun_cases State.stageWork
  · exact h
  · exact stagePass_ok (look_ok (foldl_ok h fun _ _ h => tryHeld_ok h))

theorem State.doMove_ok {mv : Move} (h : s.MemoriesOk) : ResultOk (s.doMove mv) := by
  fun_cases State.doMove
  · exact issue_ok h
  · exact exec_ok h
  · exact runAct_ok h
  · exact hostRegRead_ok h
  · exact mgmtRead_ok h
  · exact mgmtWrite_ok h
  · exact corrected_ok h
  · exact upset_ok h
  · exact crcFailure_ok h
  · exact hostLine_ok h
  · exact h

theorem State.doWork_ok (h : s.MemoriesOk) : ResultOk (s.doWork) := by
  fun_cases State.doWork
  · exact stageWork_ok h
  · exact runAct_ok (stageWork_ok h)

theorem step_ok (h : s.MemoriesOk) : ResultOk (step s) := by
  fun_cases step
  · exact doMove_ok h
  · exact issue_ok h
  · exact doWork_ok h

end

/-- Settles O60: every move of the agenda, issue and piece of pending work keeps the form. -/
theorem memoriesKeepForm : Obligations.MemoriesKeepForm := fun _ _ h hstep => next_ok hstep (step_ok h)

end Sys2Proof.Machine
end

section
/-! PROOFS. What the waiting accesses send (R68 to R70), and what completions, page request responses, invalidations and flushes change (R66 to
R74). -/

namespace Sys2Proof.Machine

/-! ## The requests that a pump sends -/

/-- ATS requests of a die that the host has not answered (R68). -/
abbrev State.atsCount (s : State) (die : Nat) : Nat := (s.ats.filter (fun a => a.die == die)).length

/-- A page request sent, with the group index that the model gives it (R69). -/
def State.grant (s : State) (p : PriReq) : State :=
  { s with pri := s.pri.map (fun x => if x = p then { p with sent := true, group := s.priGroup p.fn } else x) }

theorem State.sendPris_cons (s : State) (p : PriReq) (r : List PriReq) :
    s.sendPris (p :: r) = if !p.sent && decide (s.priCount p.fn < s.priLimit p.fn) then (s.grant p).sendPris r else s.sendPris r := rfl

/-- What a pump may do, one request after another: an ATS request where its die has room (R68), a new page request that waits to be sent, one
that its function's limit lets go (R69), and any progress of the waiting accesses. -/
inductive State.Sends (s : State) : State → Prop
  | refl : State.Sends s s
  | waits {t : State} (h : State.Sends s t) (l : List PageWait) : State.Sends s { t with waits := l }
  | ats {t : State} (h : State.Sends s t) (a : AtsReq) (room : t.atsCount a.die < 512) : State.Sends s { t with ats := t.ats ++ [a] }
  | pri {t : State} (h : State.Sends s t) (p : PriReq) (new : p ∉ t.pri) (unsent : p.sent = false) :
      State.Sends s { t with pri := t.pri ++ [p] }
  | grant {t : State} (h : State.Sends s t) (p : PriReq) (unsent : p.sent = false) (room : t.priCount p.fn < t.priLimit p.fn) :
      State.Sends s (t.grant p)

/-- A waiting access has asked as far as it may: it wants no page request, and an ATS request only where its die has no room (R68, R69). -/
def State.HasAsked (s : State) (v : PageWait) : Prop := (v.phase = .wantAts → 512 ≤ s.atsCount v.die) ∧ v.phase ≠ .wantPri

/-- What a waiting access is for: all of its record but how far it is. -/
def PageWait.access (v : PageWait) : Owner × Nat × Nat × Nat × Nat × Nat × Need := (v.owner, v.die, v.core, v.fn, v.pasid, v.page, v.need)

theorem State.Sends.sendWait {u s : State} (h : u.Sends s) (w : PageWait) : u.Sends (s.sendWait w).1 := by
  fun_cases State.sendWait
  case case2 hroom => exact h.ats _ hroom
  case case6 hnew => exact h.pri _ (fun hp => hnew (List.any_eq_true.2 ⟨_, hp, by simp⟩)) rfl
  all_goals exact h

theorem State.sendWait_hasAsked (s : State) (w : PageWait) : (s.sendWait w).1.HasAsked (s.sendWait w).2 := by
  fun_cases State.sendWait
  case case3 hroom => exact ⟨fun _ => Nat.le_of_not_lt hroom, by simp [*]⟩
  all_goals simp [State.HasAsked, *]

@[simp] theorem State.sendWait_access (s : State) (w : PageWait) : (s.sendWait w).2.access = w.access := by
  fun_cases State.sendWait <;> rfl

theorem State.Sends.pumpList {u : State} (r : List PageWait) {s : State} (h : u.Sends s) (acc : List PageWait) :
    u.Sends (pumpList r s acc) := by
  induction r generalizing s acc with
  | nil => exact h.waits acc
  | cons w r ih => exact ih (h.sendWait w) _

theorem State.Sends.sendPris {u : State} (r : List PriReq) {s : State} (h : u.Sends s) : u.Sends (s.sendPris r) := by
  induction r generalizing s with
  | nil => exact h
  | cons p r ih =>
    rw [State.sendPris_cons]
    split
    case isTrue hp =>
      simp only [Bool.and_eq_true, Bool.not_eq_true', decide_eq_true_eq] at hp
      exact ih (h.grant p hp.1 hp.2)
    case isFalse => exact ih h

theorem State.sends_pump (s : State) : s.Sends s.pump := State.Sends.sendPris _ (State.Sends.pumpList _ .refl _)

/-! ## What every such sequence of requests keeps -/

theorem State.Sends.frame {s t : State} (h : s.Sends t) : { t with waits := s.waits, ats := s.ats, pri := s.pri } = s := by
  induction h with
  | refl => rfl
  | waits _ _ ih | ats _ _ _ ih | pri _ _ _ _ ih | grant _ _ _ _ ih => exact ih

theorem State.Sends.priLimit {s t : State} (h : s.Sends t) (fn : Nat) : t.priLimit fn = s.priLimit fn :=
  (congrArg (fun u : State => u.priLimit fn) h.frame :)

theorem State.Sends.ats_isPrefix {s t : State} (h : s.Sends t) : s.ats <+: t.ats := by
  induction h with
  | refl => exact List.prefix_rfl
  | ats _ a _ ih => exact ih.trans (List.prefix_append _ _)
  | waits _ _ ih | pri _ _ _ _ ih | grant _ _ _ _ ih => exact ih

theorem State.Sends.atsCount_le {s t : State} (h : s.Sends t) (die : Nat) : s.atsCount die ≤ t.atsCount die :=
  (h.ats_isPrefix.sublist.filter _).length_le

/-- A die's ATS requests stay within its 512 (R68): one is sent only where there is room. -/
theorem State.Sends.atsCount_le_limit {s t : State} (h : s.Sends t) {die : Nat} (hs : s.atsCount die ≤ 512) : t.atsCount die ≤ 512 := by
  induction h with
  | refl => exact hs
  | @ats t _ a room ih =>
    by_cases hd : a.die = die
    · subst hd
      simpa [State.atsCount, List.filter_append] using room
    · simpa [State.atsCount, List.filter_append, hd] using ih
  | waits _ _ ih | pri _ _ _ _ ih | grant _ _ _ _ ih => exact ih

/-- A page request outlasts the pump; only its index and its being sent may change, and not once it is sent. -/
theorem State.Sends.mem_pri {s t : State} (h : s.Sends t) {p : PriReq} (hp : p ∈ s.pri) :
    ∃ q ∈ t.pri, { p with group := q.group, sent := q.sent } = q ∧ (p.sent = true → q = p) := by
  induction h with
  | refl => exact ⟨p, hp, rfl, fun _ => rfl⟩
  | waits _ _ ih | ats _ _ _ ih => exact ih
  | pri _ x _ _ ih =>
    obtain ⟨q, hq, hrest⟩ := ih
    exact ⟨q, List.mem_append_left _ hq, hrest⟩
  | grant _ x unsent _ ih =>
    obtain ⟨q, hq, heq, hsent⟩ := ih
    refine ⟨_, List.mem_map_of_mem hq, ?_⟩
    split
    case isTrue hx =>
      subst hx
      refine ⟨by rw [← heq], fun hp => ?_⟩
      rw [hsent hp, hp] at unsent
      contradiction
    case isFalse => exact ⟨heq, hsent⟩

/-- A grant adds each copy of the request that waited to its function's count. -/
theorem State.priCount_grant (s : State) {p : PriReq} (unsent : p.sent = false) (fn : Nat) :
    (s.grant p).priCount fn = s.priCount fn + if p.fn = fn then s.pri.count p else 0 := by
  simp only [State.priCount, State.grant, ← List.countP_eq_length_filter]
  induction s.pri with
  | nil => simp
  | cons x r ih =>
    rw [List.map_cons, List.countP_cons, List.countP_cons, List.count_cons, ih]
    by_cases hx : x = p
    · subst hx
      by_cases hf : x.fn = fn
      · simp [hf, unsent]
        omega
      · simp [hf]
    · simp only [hx, if_false, beq_iff_eq, Nat.add_zero]
      omega

theorem State.priCount_le_grant (s : State) {p : PriReq} (unsent : p.sent = false) (fn : Nat) : s.priCount fn ≤ (s.grant p).priCount fn := by
  rw [State.priCount_grant s unsent]
  omega

/-- The page requests that wait to be sent. -/
abbrev State.unsent (s : State) : List PriReq := s.pri.filter (fun p => !p.sent)

theorem State.unsent_grant_sublist (s : State) (p : PriReq) : (s.grant p).unsent.Sublist s.unsent := by
  simp only [State.unsent, State.grant]
  induction s.pri with
  | nil => simp
  | cons x r ih =>
    by_cases hx : x = p
    · simpa [hx] using ih.trans (List.Sublist.filter _ (List.sublist_cons_self p r))
    · cases hs : x.sent <;> simpa [hx, hs] using ih

theorem State.Sends.unsent_nodup {s t : State} (h : s.Sends t) (hs : s.pri.Nodup) : t.unsent.Nodup := by
  induction h with
  | refl => exact hs.filter _
  | waits _ _ ih | ats _ _ _ ih => exact ih
  | pri _ p new unsent ih =>
    simp only [State.unsent, List.filter_append] at ih ⊢
    simpa [List.nodup_append, unsent, ih] using fun q hq _ => (fun e => new (e ▸ hq) : q ≠ p)
  | @grant t _ p _ _ ih => exact ih.sublist (t.unsent_grant_sublist p)

/-- A function's page requests stay within its limit (R69): no request waits twice, so that a grant, which needs room for one, adds one. -/
theorem State.Sends.priCount_le_limit {s t : State} (h : s.Sends t) (hs : s.pri.Nodup) {fn : Nat} (hfn : s.priCount fn ≤ s.priLimit fn) :
    t.priCount fn ≤ t.priLimit fn := by
  induction h with
  | refl => exact hfn
  | waits _ _ ih | ats _ _ _ ih => exact ih
  | pri _ p _ unsent ih => simpa [State.priCount, State.priLimit, List.filter_append, unsent] using ih
  | @grant t h p unsent room ih =>
    have hone : t.pri.count p ≤ 1 := by
      have := List.nodup_iff_count_le_one.1 (h.unsent_nodup hs) p
      rwa [List.count_filter (by simp [unsent])] at this
    have hlimit : (t.grant p).priLimit fn = t.priLimit fn := rfl
    rw [State.priCount_grant t unsent, hlimit]
    split
    case isTrue hp =>
      subst hp
      omega
    case isFalse => exact ih

/-! ## What a pump leaves waiting -/

theorem pumpList_access (r : List PageWait) (s : State) (acc : List PageWait) :
    (pumpList r s acc).waits.map PageWait.access = (acc ++ r).map PageWait.access := by
  induction r generalizing s acc with
  | nil => simp [pumpList]
  | cons w r ih => simp [pumpList, ih]

theorem pumpList_hasAsked (r : List PageWait) (s : State) (acc : List PageWait) (h : ∀ v ∈ acc, s.HasAsked v) :
    ∀ v ∈ (pumpList r s acc).waits, (pumpList r s acc).HasAsked v := by
  induction r generalizing s acc with
  | nil => exact h
  | cons w r ih =>
    refine ih _ _ fun v hv => ?_
    rcases List.mem_append.1 hv with hv | hv
    · have hmono := (State.Sends.refl.sendWait (s := s) w).atsCount_le v.die
      exact ⟨fun hp => ((h v hv).1 hp).trans hmono, (h v hv).2⟩
    · rw [List.mem_singleton.1 hv]
      exact s.sendWait_hasAsked w

theorem State.sendPris_waits (r : List PriReq) (s : State) : (s.sendPris r).waits = s.waits := by
  induction r generalizing s with
  | nil => rfl
  | cons p r ih =>
    rw [State.sendPris_cons]
    split
    · exact ih (s.grant p)
    · exact ih s

theorem State.pump_access (s : State) : s.pump.waits.map PageWait.access = s.waits.map PageWait.access := by
  simp only [State.pump, State.sendPris_waits, pumpList_access, List.nil_append]

theorem State.pump_hasAsked (s : State) : ∀ v ∈ s.pump.waits, s.pump.HasAsked v := by
  intro v hv
  simp only [State.pump, State.sendPris_waits] at hv
  obtain ⟨hats, hpri⟩ := pumpList_hasAsked s.waits s [] (by simp) v hv
  exact ⟨fun hp => (hats hp).trans ((State.Sends.refl.sendPris _).atsCount_le _), hpri⟩

/-- Each of the requests in the list is sent unless its function has no room, which stays so. -/
theorem State.sendPris_unsent (r : List PriReq) (s : State)
    (h : ∀ p ∈ s.pri, p.sent = false → p ∈ r ∨ s.priLimit p.fn ≤ s.priCount p.fn) :
    ∀ p ∈ (s.sendPris r).pri, p.sent = false → (s.sendPris r).priLimit p.fn ≤ (s.sendPris r).priCount p.fn := by
  induction r generalizing s with
  | nil => exact fun p hp hsent => (h p hp hsent).resolve_left (List.not_mem_nil)
  | cons x r ih =>
    rw [State.sendPris_cons]
    split
    case isTrue hx =>
      simp only [Bool.and_eq_true, Bool.not_eq_true'] at hx
      refine ih _ fun p hp hsent => ?_
      obtain ⟨q, hq, rfl⟩ := List.mem_map.1 hp
      split at hsent
      · simp at hsent
      case isFalse hne =>
        rw [if_neg hne]
        rcases h q hq hsent with hr | hlimit
        · exact .inl ((List.mem_cons.1 hr).resolve_left hne)
        · exact .inr (hlimit.trans (s.priCount_le_grant hx.1 q.fn))
    case isFalse hx =>
      refine ih s fun p hp hsent => ?_
      rcases h p hp hsent with hr | hlimit
      · rcases List.mem_cons.1 hr with rfl | hr
        · exact .inr (by simpa [hsent] using hx)
        · exact .inl hr
      · exact .inr hlimit

theorem State.pump_unsent (s : State) : ∀ p ∈ s.pump.pri, p.sent = false → s.pump.priLimit p.fn ≤ s.pump.priCount p.fn :=
  State.sendPris_unsent _ _ fun _ hp _ => .inl hp

/-! ## An entry installed -/

theorem DieSet.mem_install (d : DieSet) (e : TlbEntry) : ∃ k, (k, e) ∈ (d.install e).ways :=
  ⟨_, Map.mem_of_get? (Map.get?_set_self _ _ _)⟩

theorem State.mem_dieWays_install (s : State) (die : Nat) (cores : List Nat) (e : TlbEntry) :
    ∃ k, (k, e) ∈ ((s.install die cores e).dieWays die (dieSet e.size e.va e.pasid)).ways := by
  have hset : (s.install die cores e).dieWays die (dieSet e.size e.va e.pasid) = (s.dieWays die (dieSet e.size e.va e.pasid)).install e := by
    simp [State.dieWays, State.install, Map.getD_set]
  rw [hset]
  exact DieSet.mem_install _ e

theorem mem_installTlb (l : List TlbEntry) (e : TlbEntry) : e ∈ installTlb l e := by simp [installTlb]

/-- Sets of an L1 filled one after another hold the entry at the end, though one may be filled twice. -/
theorem mem_foldl_installTlb (key : Nat → Nat) (e : TlbEntry) (cores : List Nat) (m : Map (List TlbEntry)) {c : Nat}
    (h : c ∈ cores ∨ e ∈ m.getD (key c) []) :
    e ∈ (cores.foldl (fun m c => m.set (key c) (installTlb (m.getD (key c) []) e)) m).getD (key c) [] := by
  induction cores generalizing m with
  | nil => simpa using h
  | cons d r ih =>
    refine ih _ ?_
    rw [Map.getD_set]
    by_cases hk : key d = key c
    · exact .inr (by simp [hk, mem_installTlb])
    · rw [if_neg hk]
      exact h.imp_left fun hc => (List.mem_cons.1 hc).resolve_left (fun e => hk (e ▸ rfl))

theorem State.mem_l1_install (s : State) (die : Nat) {cores : List Nat} (e : TlbEntry) {c : Nat} (h : c ∈ cores) :
    e ∈ (s.install die cores e).l1.getD (l1Key die c (l1Set e.size e.va)) [] :=
  mem_foldl_installTlb (fun c => l1Key die c (l1Set e.size e.va)) e cores s.l1 (.inl h)

/-! ## ATS completions -/

/-- The state without an ATS request that has been answered. -/
def State.answered (s : State) (a : AtsReq) : State := { s with ats := s.ats.filter (fun b => !(b == a)) }

/-- The waiting accesses that a request serves moved on. -/
def State.advance (s : State) (a : AtsReq) (f : PageWait → PageWait) : State :=
  { s with waits := s.waits.map (fun v => if a.serves v then f v else v) }

/-- A waiting access whose page does not allow it (R56, R69, R70). -/
def State.denied (s : State) (e : TlbEntry) (page : Nat) (v : PageWait) : PageWait :=
  match s.storeRefusal e v.need (page * 4096) with
  | some c => { v with phase := .refused c false }
  | none => refuseOrAsk v 0x07

/-- A waiting access once the entry of its page is there (R69). -/
def State.landed (s : State) (e : TlbEntry) (page : Nat) (v : PageWait) : PageWait :=
  if e.allows v.need then { v with phase := .have e } else s.denied e page v

theorem AtsReq.staleFor_of_asked {s : State} {a : AtsReq} (h : s.Asked a) (reply : AtsReply) : a.staleFor reply = false := by
  simp [AtsReq.staleFor, h.1]

theorem State.atsComplete_refused {s : State} {a : AtsReq} (h : s.Asked a) :
    s.atsComplete a.die a.fn a.pasid a.page a.nw .refused = ((s.answered a).advance a fun v => { v with phase := .refused 0x06 true }).pump := by
  simp only [State.atsComplete, h.2, AtsReq.staleFor_of_asked h]
  rfl

theorem State.atsComplete_untranslated {s : State} {a : AtsReq} (h : s.Asked a) :
    s.atsComplete a.die a.fn a.pasid a.page a.nw .untranslated = ((s.answered a).advance a fun v => { v with phase := .untranslated }).pump := by
  simp only [State.atsComplete, h.2, AtsReq.staleFor_of_asked h]
  rfl

theorem State.atsComplete_denied {s : State} {a : AtsReq} (h : s.Asked a) (size hpa : Nat) (x : Bool) :
    s.atsComplete a.die a.fn a.pasid a.page a.nw (.page size hpa false false x) = ((s.answered a).advance a fun v => refuseOrAsk v 0x06).pump := by
  simp only [State.atsComplete, h.2, AtsReq.staleFor_of_asked h]
  rfl

theorem State.atsComplete_page {s : State} {a : AtsReq} (h : s.Asked a) (size hpa : Nat) {r w : Bool} (x : Bool) (hrw : r = true ∨ w = true) :
    let e := atsEntry a.fn a.pasid a.page size hpa r w x a.nw
    s.atsComplete a.die a.fn a.pasid a.page a.nw (.page size hpa r w x) =
      (((s.answered a).install a.die ((s.waits.filter a.serves).map (fun v => v.core)) e).advance a (s.landed e a.page)).pump := by
  have hpass : (!r && !w) = false := by rcases hrw with rfl | rfl <;> simp
  simp only [State.atsComplete, h.2, AtsReq.staleFor_of_asked h, hpass]
  rfl

theorem State.advance_of_serves {s : State} {a : AtsReq} {v : PageWait} (hv : v ∈ s.waits) (ha : a.serves v = true) (f : PageWait → PageWait) :
    f v ∈ (s.advance a f).waits :=
  List.mem_map.2 ⟨v, hv, if_pos ha⟩

theorem State.advance_of_not_serves {s : State} {a : AtsReq} {v : PageWait} (hv : v ∈ s.waits) (ha : a.serves v = false)
    (f : PageWait → PageWait) : v ∈ (s.advance a f).waits :=
  List.mem_map.2 ⟨v, hv, if_neg (by simp [ha])⟩

theorem State.landed_of_allows (s : State) {e : TlbEntry} {v : PageWait} (h : e.allows v.need = true) (page : Nat) :
    s.landed e page v = { v with phase := .have e } := if_pos h

theorem State.landed_of_not_allows (s : State) {e : TlbEntry} {v : PageWait} (h : e.allows v.need = false) (page : Nat) :
    s.landed e page v = s.denied e page v := if_neg (by simp [h])

theorem execAtsTranslationCompletion_of_reach {s : State} {die : Nat} (h : s.reach die protrum = true) (fn pasid page : Nat) (nw : Bool)
    (r : AtsReply) : exec (.atsTranslationCompletion die fn pasid page nw r) s = .next (s.atsComplete die fn pasid page nw r) := by
  simp [exec, execAtsTranslationCompletion, h]

/-! ## Page requests -/

theorem find?_eq_some_of_unique {α : Type} {l : List α} {q : α → Bool} {x : α} (hx : x ∈ l) (hq : q x = true)
    (hu : ∀ y ∈ l, q y = true → y = x) : l.find? q = some x := by
  cases hf : l.find? q with
  | none => exact absurd hq (List.find?_eq_none.1 hf x hx)
  | some y => rw [hu y (List.mem_of_find?_eq_some hf) (List.find?_some hf)]

/-- A response reaches the one request of its function and index that has been sent (R69, R70). -/
theorem execPageRequestResponse_of_sent {s : State} {p : PriReq} (hp : p ∈ s.pri) (hsent : p.sent = true) (hr : s.reach p.die protrum = true)
    (hu : ∀ q ∈ s.pri, q.sent = true → q.fn = p.fn → q.group = p.group → q = p) (r : PriReply) :
    exec (.pageRequestResponse p.fn p.pasid p.group r) s = .next (s.pageResponse p.fn p.group r) := by
  have hfind : s.pri.find? (fun q => q.fn == p.fn && q.pasid == p.pasid && q.group == p.group && q.sent) = some p :=
    find?_eq_some_of_unique hp (by simp [hsent]) fun q hq h => by
      simp only [Bool.and_eq_true, beq_iff_eq] at h
      obtain ⟨⟨⟨hfn, -⟩, hgroup⟩, hs⟩ := h
      exact hu q hq hs hfn hgroup
  simp [exec, execPageRequestResponse, hfind, hr]

theorem State.find?_pri_of_sent {s : State} {p : PriReq} (hp : p ∈ s.pri) (hsent : p.sent = true)
    (hu : ∀ q ∈ s.pri, q.sent = true → q.fn = p.fn → q.group = p.group → q = p) :
    s.pri.find? (fun q => q.fn == p.fn && q.group == p.group && q.sent) = some p :=
  find?_eq_some_of_unique hp (by simp [hsent]) fun q hq h => by
    simp only [Bool.and_eq_true, beq_iff_eq] at h
    exact hu q hq h.2 h.1.1 h.1.2

/-! ## Invalidations -/

theorem State.drainStranded_of_nil {s : State} {v : Invalidation} (h : s.strandedBy v = []) : s.drainStranded v = s := by
  simp [State.drainStranded, h]

/-- Queueing work and asking change the pending work and the requests alone. -/
theorem State.pump_push_frame (s : State) (a : Act) :
    { (s.push a).pump with work := s.work, waits := s.waits, ats := s.ats, pri := s.pri } = s := by
  unfold State.push
  split
  · exact (congrArg (fun u : State => { u with work := s.work }) (State.sends_pump _).frame :)
  · exact (congrArg (fun u : State => { u with work := s.work }) (State.sends_pump _).frame :)

theorem State.mem_ats_pump_push {s : State} {r : AtsReq} (h : r ∈ s.ats) (a : Act) : r ∈ (s.push a).pump.ats := by
  refine (State.sends_pump _).ats_isPrefix.subset ?_
  unfold State.push
  split
  · exact h
  · exact h

/-- The mark that an invalidation leaves on an ATS request that it overtakes (R73). -/
def AtsReq.mark (a : AtsReq) (fn pasid : Nat) (glob : Bool) (base len : Nat) : AtsReq :=
  { a with overtaken := a.overtaken ++ (if a.fn = fn ∧ (glob = true ∨ a.pasid = pasid) then [(base, len)] else []) }

theorem State.mark_mem_invalidate {s : State} {a : AtsReq} (h : a ∈ s.ats) (fn pasid : Nat) (glob : Bool) (base len : Nat) :
    a.mark fn pasid glob base len ∈ (s.invalidate fn pasid glob base len).ats := by
  refine List.mem_map.2 ⟨a, h, ?_⟩
  simp only [AtsReq.mark, Bool.or_eq_true, beq_iff_eq]
  split
  · rfl
  · rw [List.append_nil]

theorem TlbEntry.goes_iff (e : TlbEntry) (fn pasid : Nat) (glob : Bool) (base len : Nat) :
    e.goes fn pasid glob base len = true ↔ e.within fn pasid glob base len := by
  simp [TlbEntry.goes, TlbEntry.overlaps, and_assoc]

/-- An invalidation leaves nothing of its range in a cache or among the checked code pages (R71, R481). -/
theorem State.flushed_invalidate (s : State) (fn pasid : Nat) (glob : Bool) (base len : Nat) :
    (s.invalidate fn pasid glob base len).Flushed fn pasid glob base len := by
  refine ⟨fun c hc e he => ?l1, fun c hc w hw => ?die, fun c hc => ?code⟩
  case l1 =>
    obtain ⟨c, -, rfl⟩ := List.mem_map.1 hc
    rw [← TlbEntry.goes_iff]
    simpa using (List.mem_filter.1 he).2
  case die =>
    obtain ⟨c, -, rfl⟩ := List.mem_map.1 hc
    rw [← TlbEntry.goes_iff]
    simpa using (List.mem_filter.1 hw).2
  case code =>
    have hkept := (List.mem_filter.1 hc).2
    simp only [pageInRange, Bool.not_eq_true', Bool.and_eq_false_iff, Bool.or_eq_false_iff] at hkept
    rintro ⟨hfn, hpasid, hlo, hhi⟩
    rcases hpasid with hglob | hpasid
    · simp [hfn, hlo, hhi, hglob] at hkept
    · simp [hfn, hlo, hhi, hpasid] at hkept

/-- The caches decide it. -/
theorem State.Flushed.congr {s t : State} {fn pasid : Nat} {glob : Bool} {base len : Nat} (h : s.Flushed fn pasid glob base len)
    (hl1 : t.l1 = s.l1) (hdie : t.dieTlb = s.dieTlb) (hcode : t.codePages = s.codePages) : t.Flushed fn pasid glob base len := by
  unfold State.Flushed
  rw [hl1, hdie, hcode]
  exact h

/-- The state of an invalidation begun, before the accesses that it sends back ask again. -/
def State.invalidated (s : State) (fn tag pasid : Nat) (glob : Bool) (base len : Nat) : State :=
  let s1 := s.drainStranded (s.invalidation fn tag pasid glob base len)
  { (s1.invalidate fn pasid glob base len) with invs := s1.invs ++ [s.invalidation fn tag pasid glob base len] }

theorem State.beginInvalidation_eq (s : State) (fn tag pasid : Nat) (glob : Bool) (base len : Nat) :
    s.beginInvalidation fn tag pasid glob base len =
      ((s.invalidated fn tag pasid glob base len).push (.invalidateCompletion fn tag)).pump := rfl

theorem State.flushed_beginInvalidation (s : State) (fn tag pasid : Nat) (glob : Bool) (base len : Nat) :
    (s.beginInvalidation fn tag pasid glob base len).Flushed fn pasid glob base len := by
  have hframe := (s.invalidated fn tag pasid glob base len).pump_push_frame (.invalidateCompletion fn tag)
  have hflushed : (s.invalidated fn tag pasid glob base len).Flushed fn pasid glob base len := State.flushed_invalidate _ fn pasid glob base len
  exact hflushed.congr (congrArg State.l1 hframe :) (congrArg State.dieTlb hframe :) (congrArg State.codePages hframe :)

theorem State.mem_work_beginInvalidation (s : State) (fn tag pasid : Nat) (glob : Bool) (base len : Nat) :
    .invalidateCompletion fn tag ∈ (s.beginInvalidation fn tag pasid glob base len).work := by
  rw [State.beginInvalidation_eq]
  set u := (s.invalidated fn tag pasid glob base len).push (.invalidateCompletion fn tag) with hu
  have hwork : u.pump.work = u.work := (congrArg State.work u.sends_pump.frame :)
  rw [hwork, hu]
  exact State.mem_work_push _ _

/-- With nothing to drain, an invalidation is listed as it began, and marks the requests that it overtakes (R73). -/
theorem State.beginInvalidation_of_nil {s : State} {fn tag pasid : Nat} {glob : Bool} {base len : Nat}
    (h : s.strandedBy (s.invalidation fn tag pasid glob base len) = []) :
    (s.beginInvalidation fn tag pasid glob base len).invs = s.invs ++ [s.invalidation fn tag pasid glob base len] ∧
    (s.beginInvalidation fn tag pasid glob base len).flushing = s.flushing ∧
    ∀ a ∈ s.ats, a.mark fn pasid glob base len ∈ (s.beginInvalidation fn tag pasid glob base len).ats := by
  rw [State.beginInvalidation_eq]
  have hframe := (s.invalidated fn tag pasid glob base len).pump_push_frame (.invalidateCompletion fn tag)
  have hu : s.invalidated fn tag pasid glob base len =
      { (s.invalidate fn pasid glob base len) with invs := s.invs ++ [s.invalidation fn tag pasid glob base len] } := by
    simp only [State.invalidated, State.drainStranded_of_nil h]
  refine ⟨(congrArg State.invs hframe :).trans (congrArg State.invs hu :), (congrArg State.flushing hframe :).trans (congrArg State.flushing hu :),
    fun a ha => State.mem_ats_pump_push ?_ _⟩
  rw [hu]
  exact State.mark_mem_invalidate ha fn pasid glob base len

/-- An invalidation is taken while the links carry it, its tag is free and fewer than 32 are in progress (R71). -/
theorem execAtsInvalidateRequest_of_room {s : State} {fn tag : Nat} (htag : tag < 32)
    (hroom : (s.invs.filter (fun v => v.fn == fn && decide (v.tag < 32))).length < 32) (hfree : ∀ v ∈ s.invs, ¬(v.fn = fn ∧ v.tag = tag))
    (hdead : s.dead = false) (hreach : s.invalidationReaches fn = true) (pasid : Nat) (glob : Bool) (base len : Nat) :
    exec (.atsInvalidateRequest fn pasid glob base len tag) s = .next (s.beginInvalidation fn tag pasid glob base len) := by
  have htaken : (s.invs.any fun v => v.fn == fn && v.tag == tag) = false := by simpa using hfree
  have hfull : ¬capabilities.invalidateQueueDepth ≤
      (s.invs.filter (fun v => v.fn == fn && decide (v.tag < capabilities.invalidateQueueDepth))).length := Nat.not_le.2 hroom
  refine (if_neg ?_).trans (by rw [Nat.mod_eq_of_lt htag])
  simp only [hdead, hreach, htaken, decide_eq_false hfull]
  decide

theorem execInvalidateCompletion_of_held {s : State} {fn tag : Nat} {v : Invalidation}
    (hfind : s.invs.find? (fun v => v.fn == fn && v.tag == tag) = some v) (hnil : s.strandedBy v = [])
    (h : s.heldMidway v.fn v.pasid v.glob v.base v.len = true ∨ s.invalidationReaches fn = false) :
    exec (.invalidateCompletion fn tag) s = .next (s.push (.invalidateCompletion fn tag)) := by
  obtain ⟨rfl, -⟩ : v.fn = fn ∧ v.tag = tag := by simpa using List.find?_some hfind
  rcases h with h | h <;> simp [exec, execInvalidateCompletion, hfind, State.drainStranded_of_nil hnil, h]

theorem execInvalidateCompletion_of_done {s : State} {fn tag : Nat} {v : Invalidation}
    (hfind : s.invs.find? (fun v => v.fn == fn && v.tag == tag) = some v) (hnil : s.strandedBy v = [])
    (hheld : s.heldMidway v.fn v.pasid v.glob v.base v.len = false) (hreach : s.invalidationReaches fn = true) :
    exec (.invalidateCompletion fn tag) s = .next { s with
      invs := s.invs.filter (fun x => !(x == v))
      flushing := if tag = 32 then s.flushing.filter (fun k => !(k == fn)) else s.flushing } := by
  obtain ⟨rfl, -⟩ : v.fn = fn ∧ v.tag = tag := by simpa using List.find?_some hfind
  simp [exec, execInvalidateCompletion, hfind, State.drainStranded_of_nil hnil, hnil, hheld, hreach]

/-! ## Flushes -/

theorem execTrnFlush_of_busy {s : State} {fn : Nat} (h : fn ∈ s.flushing ∨ s.dead = true ∨ s.invalidationReaches fn = false) :
    exec (.trnFlush fn) s = .next s := by
  simp only [exec, execTrnFlush, State.flushTranslations, List.contains_iff_mem]
  rcases h with h | h | h <;> simp [h]

theorem execTrnFlush_of_idle {s : State} {fn : Nat} (hidle : fn ∉ s.flushing) (hdead : s.dead = false) (hreach : s.invalidationReaches fn = true) :
    exec (.trnFlush fn) s = .next (({ s with flushing := fn :: s.flushing } : State).beginInvalidation fn 32 0 true 0 (2 ^ 57)) := by
  simp [exec, execTrnFlush, State.flushTranslations, hidle, hdead, hreach]

/-! ## The statement's parts -/

/-- R67, R69: a completion with a page. -/
theorem atsTranslationCompletion_page {s : State} {a : AtsReq} (ha : s.Asked a) (hreach : s.reach a.die protrum = true) (size hpa : Nat)
    {r w : Bool} (x : Bool) (hrw : r = true ∨ w = true) : let e := atsEntry a.fn a.pasid a.page size hpa r w x a.nw
    ∃ s1 : State, exec (.atsTranslationCompletion a.die a.fn a.pasid a.page a.nw (.page size hpa r w x)) s = .next s1.pump ∧
      s1.ats = s.ats.filter (fun b => !(b == a)) ∧ (∃ k, (k, e) ∈ (s1.dieWays a.die (dieSet e.size e.va e.pasid)).ways) ∧
      (∀ v ∈ s.waits, a.serves v = true → e ∈ s1.l1.getD (l1Key a.die v.core (l1Set e.size e.va)) [] ∧ s.landed e a.page v ∈ s1.waits) ∧
      ∀ v ∈ s.waits, a.serves v = false → v ∈ s1.waits := by
  intro e
  set t := (s.answered a).install a.die ((s.waits.filter a.serves).map (fun v => v.core)) e
  refine ⟨t.advance a (s.landed e a.page), ?exec, rfl, ?die, fun v hv hs => ⟨?l1, ?landed⟩, fun v hv hs => ?kept⟩
  case exec => rw [execAtsTranslationCompletion_of_reach hreach, State.atsComplete_page ha size hpa x hrw]
  case die => exact (s.answered a).mem_dieWays_install a.die ((s.waits.filter a.serves).map (fun v => v.core)) e
  case l1 => exact State.mem_l1_install _ a.die e (List.mem_map_of_mem (List.mem_filter.2 ⟨hv, hs⟩))
  case landed => exact State.advance_of_serves (s := t) hv hs _
  case kept => exact State.advance_of_not_serves (s := t) hv hs _

/-- R69, R70: the host's allocation for page requests. -/
theorem priEnableSet_of_alive {s : State} (h : s.dead = false) (fn alloc : Nat) :
    ∃ s1 : State, exec (.priEnableSet fn alloc) s = .next s1.pump ∧ fn ∉ s1.priOff ∧ s1.priLimit fn = min 512 alloc ∧
      { s1 with priOff := s.priOff, priAlloc := s.priAlloc } = s := by
  refine ⟨{ s with priOff := s.priOff.filter (fun k => !(k == fn)), priAlloc := s.priAlloc.set fn alloc }, ?_, ?_, ?_, rfl⟩
  · simp [exec, execPriEnableSet, h]
  · simp
  · simp [State.priLimit, Map.getD_set, capabilities]

/-- Settles O53: a completion finds the one request that asked, and installs before it moves its accesses on; a response finds its request by
function and index; what a pump sends is a sequence of requests each within its limit; an invalidation empties its range before anything asks
again. -/
theorem translationEvents : Obligations.TranslationEvents := by
  refine ⟨fun s a size hpa r w x ha hreach hrw => ?page, fun s e need va => ?refusal, fun s a size hpa x ha hreach => ?refusals,
    fun s p hp hsent hreach hu => ?response, fun s fn alloc => ⟨fun h => ?lost, fun h => priEnableSet_of_alive h fn alloc⟩,
    fun s => ?pump, fun s fn pasid base len tag glob htag hroom hfree hdead hreach => ?invalidate,
    fun s fn tag v hfind hnil => ⟨execInvalidateCompletion_of_held hfind hnil, execInvalidateCompletion_of_done hfind hnil⟩,
    fun s fn => ⟨execTrnFlush_of_busy, fun hidle hdead hreach => ?flush⟩⟩
  case page =>
    intro e
    obtain ⟨s1, hexec, hats, hdie, hserved, hkept⟩ := atsTranslationCompletion_page ha hreach size hpa x hrw
    refine ⟨s1, hexec, hats, hdie, fun v hv hs => ⟨(hserved v hv hs).1, fun hallow => ?_⟩, hkept, fun v hv hs hdeny => ?_⟩
    · exact s.landed_of_allows hallow a.page ▸ (hserved v hv hs).2
    · have hdenied : s.denied e a.page v ∈ s1.waits := s.landed_of_not_allows hdeny a.page ▸ (hserved v hv hs).2
      exact hdenied
  case refusal => cases need <;> rfl
  case refusals =>
    rintro reply f (⟨rfl, rfl⟩ | ⟨rfl, rfl⟩ | ⟨rfl, rfl⟩)
    · exact (execAtsTranslationCompletion_of_reach hreach ..).trans (congrArg _ (State.atsComplete_refused ha))
    · exact (execAtsTranslationCompletion_of_reach hreach ..).trans (congrArg _ (State.atsComplete_untranslated ha))
    · exact (execAtsTranslationCompletion_of_reach hreach ..).trans (congrArg _ (State.atsComplete_denied ha size hpa x))
  case response =>
    have hexec := execPageRequestResponse_of_sent hp hsent hreach hu
    have hfind := State.find?_pri_of_sent hp hsent hu
    refine ⟨(hexec _).trans ?_, (hexec _).trans ?_, (hexec _).trans ?_⟩
    · rw [State.pageResponse, hfind]
      rfl
    · rw [State.pageResponse, hfind]
      rfl
    · rw [State.pageResponse, hfind]
  case lost => exact if_pos h
  case pump =>
    have h := s.sends_pump
    exact ⟨h.frame, s.pump_access, fun a ha => h.ats_isPrefix.subset ha, fun p hp => h.mem_pri hp, fun die hdie => h.atsCount_le_limit hdie,
      fun hnodup fn hfn => h.priCount_le_limit hnodup hfn, fun v hv => (s.pump_hasAsked v hv).1,
      fun v hv => (s.pump_hasAsked v hv).2, s.pump_unsent⟩
  case invalidate =>
    refine ⟨_, execAtsInvalidateRequest_of_room htag hroom hfree hdead hreach pasid glob base len, s.flushed_beginInvalidation ..,
      s.mem_work_beginInvalidation .., fun hnil => ?_⟩
    obtain ⟨hinvs, -, hats⟩ := State.beginInvalidation_of_nil hnil
    exact ⟨hinvs, hats⟩
  case flush =>
    refine ⟨_, execTrnFlush_of_idle hidle hdead hreach, State.flushed_beginInvalidation .., fun hnil => ?_⟩
    obtain ⟨-, hflushing, -⟩ := State.beginInvalidation_of_nil (s := { s with flushing := fn :: s.flushing }) hnil
    rw [hflushing]
    exact List.mem_cons_self

end Sys2Proof.Machine
end

section
/-! PROOFS. What a step runs (R172, R372, R466, log 1), and the words that a fetch answers (R67, R69, R79, R181). -/

namespace Sys2Proof.Machine

/-! ## Whose turn it is -/

theorem State.issuesNow_iff (s : State) : s.issuesNow = true ↔ s.tick % 2 = 1 ∧ s.stalled = false ∧ s.mayIssue s.focus = true := by
  simp [State.issuesNow, and_assoc]

theorem step_of_no_move {s : State} (h : s.agenda = []) :
    step s = if State.issuesNow { s with tick := s.tick + 1 } then State.issue { s with tick := s.tick + 1 } s.focus
      else State.doWork { s with tick := s.tick + 1 } := by
  unfold step
  dsimp only
  split
  · simp_all
  · rfl

/-- A turn of the focus group: it may issue, and the step before was not its turn. -/
theorem step_of_issue {s : State} (hagenda : s.agenda = []) (htick : s.tick % 2 = 0) (hgo : s.stalled = false) (hmay : s.mayIssue s.focus = true) :
    step s = State.issue { s with tick := s.tick + 1 } s.focus := by
  rw [step_of_no_move hagenda]
  exact if_pos ((State.issuesNow_iff { s with tick := s.tick + 1 }).2 ⟨Nat.succ_mod_two_eq_one_iff.2 htick, hgo, hmay⟩)

/-- A step that is not the focus group's turn performs pending work. -/
theorem step_of_work {s : State} (hagenda : s.agenda = []) (htick : s.tick % 2 = 1) : step s = State.doWork { s with tick := s.tick + 1 } := by
  rw [step_of_no_move hagenda]
  refine if_neg fun hissues => ?_
  have hodd : (s.tick + 1) % 2 = 1 := ((State.issuesNow_iff _).1 hissues).1
  omega

theorem step_of_event {s : State} {i : Instr} {r : List Move} (h : s.agenda = .event i :: r) :
    step s = exec i { s with tick := s.tick + 1, agenda := r } := by
  simp only [step, h]
  rfl

/-- The oldest pending work, once the stage has been seen to. -/
theorem State.doWork_of_work {s : State} {a : Act} {r : List Act} (h : (State.stageWork { s with stalled := false }).work = a :: r) :
    s.doWork = runAct a { State.stageWork { s with stalled := false } with
      stalled := false, focus := (State.stageWork { s with stalled := false }).nextFocus, work := r } := by
  simp only [State.doWork, h]

/-! ## The instruction of a turn -/

theorem State.issue_of_words {s : State} {gid : Nat} {g : Group} {pc : W64} {run : BitVec 64} {w1 w2 : W32} (hmay : s.mayIssue gid = true)
    (hg : s.groups.get? gid = some g) (hrun : g.run = some (pc, run)) (hfetch : s.fetch gid g pc = .words w1 w2) :
    s.issue gid = fetched gid (s.runWords gid pc run w1 w2) := by
  simp [State.issue, hmay, hg, hrun, hfetch]

theorem step_of_fetches {s : State} {g : Group} {pc : W64} {run : BitVec 64} {w1 w2 : W32} (h : s.Fetches g pc run w1 w2) :
    step s = fetched s.focus (State.runWords { s with tick := s.tick + 1 } s.focus pc run w1 w2) := by
  obtain ⟨hagenda, htick, hgo, hg, hmay, hrun, hfetch⟩ := h
  rw [step_of_issue hagenda htick hgo hmay]
  exact State.issue_of_words hmay hg hrun hfetch

/-! ## The one fetch from an untranslated page (R67) -/

theorem State.useFetch_frame (s : State) (gid : Nat) : { s.useFetch gid with codePages := s.codePages } = s := by
  unfold State.useFetch
  split <;> rfl

theorem State.useFetch_of_no_grant {s : State} {gid : Nat} (h : ∀ c ∈ s.codePages, gid ∉ c.grants) : s.useFetch gid = s :=
  if_neg (by simpa using h)

theorem State.not_mem_grants_useFetch (s : State) (gid : Nat) : ∀ c ∈ (s.useFetch gid).codePages, gid ∉ c.grants := by
  by_cases h : ∀ c ∈ s.codePages, gid ∉ c.grants
  case pos =>
    rw [State.useFetch_of_no_grant h]
    exact h
  case neg =>
    have hany : (s.codePages.any fun c => c.grants.contains gid) = true := by simpa using h
    rw [State.useFetch, if_pos hany]
    intro c hc
    obtain ⟨c, -, rfl⟩ := List.mem_map.1 hc
    simp

/-! ## The words of a fetch -/

/-- A page that the core has checked, from which the group may fetch, and whose word memory still agrees with. -/
theorem State.fetchWord_of_checked {s : State} {gid die core fn pasid va : Nat} {c : CodePage}
    (hpage : s.codePage? die core fn pasid (pageOf va) = some c)
    (hword : ∀ x, s.currentWord die core fn pasid va = some x → x = Memory.word c.data (va % 4096))
    (hmay : (c.direct = true ∧ gid ∈ c.grants) ∨ ∃ e, s.lookup die core fn pasid va = some e ∧ e.allows .fetch = true) (k : Nat) :
    s.fetchWord gid die core fn pasid va k = some (Memory.word c.data (va % 4096)) := by
  have hkey : c.die = die ∧ c.core = core ∧ c.fn = fn ∧ c.pasid = pasid ∧ c.page = pageOf va := by
    simpa [and_assoc] using List.find?_some hpage
  obtain ⟨rfl, rfl, rfl, rfl, -⟩ := hkey
  have hmay' : s.mayFetch gid c va = true := by
    rcases hmay with ⟨hdirect, hgrant⟩ | ⟨e, hlookup, hallows⟩
    · simp [State.mayFetch, hdirect, hgrant]
    · simp [State.mayFetch, State.fetchEntry, hlookup, hallows]
  cases hcurrent : s.currentWord c.die c.core c.fn c.pasid va with
  | none => simp [State.fetchWord, hpage, hmay', hcurrent]
  | some x => simp [State.fetchWord, hpage, hmay', hcurrent, hword x hcurrent]

theorem extended_fOp (w : W32) : extended (fOp w) = w.getLsbD 30 := by simp [extended, fOp]

theorem State.fetch_of_words {s : State} {gid : Nat} {g : Group} {pc : W64} {w1 w2 : W32} (hpc : canonical pc.toNat = true)
    (hnext : canonical (pc.toNat + 4) = true) (h1 : s.fetchWord gid g.die g.core (s.fnOf g) (s.pasidOf g) pc.toNat 0 = some w1)
    (h2 : s.fetchWord gid g.die g.core (s.fnOf g) (s.pasidOf g) (pc.toNat + 4) 1 = some w2) :
    s.fetch gid g pc = .words w1 (if w1.getLsbD 30 then w2 else 0) := by
  rw [← extended_fOp]
  cases hx : extended (fOp w1) <;> simp [State.fetch, hpc, hnext, h1, h2, hx]

/-- Settles O58: the turn leads to the words of the focus group's fetch, whose decoding says what runs; a fetch reads the page that the core has
checked, since memory agrees with it wherever the core can tell. -/
theorem stepRunsDecoded : Obligations.StepRunsDecoded := by
  refine ⟨fun s g pc run w1 w2 h => ?decoded, fun t gid f => ?fetched, fun s gid g pc c d hpc hnext => ?words, fun s i r => step_of_event,
    fun s a r => ?work⟩
  case decoded =>
    rw [step_of_fetches h]
    refine ⟨fun i long hi => ⟨?_, ?_⟩, fun hi => ?_, fun hi => ?_⟩
    · obtain ⟨-, -, -, hwf, -⟩ := decode_eq_instr_iff.1 hi
      exact hwf
    all_goals rw [State.runWords, hi]
  case fetched =>
    exact ⟨rfl, fun hs => by simp [fetched, hs], fun hs => by simp [fetched, hs], t.useFetch_frame gid, t.not_mem_grants_useFetch gid,
      State.useFetch_of_no_grant⟩
  case words =>
    intro word hc hd hcword hdword hcmay hdmay
    exact State.fetch_of_words hpc hnext (State.fetchWord_of_checked hc hcword hcmay 0) (State.fetchWord_of_checked hd hdword hdmay 1)
  case work =>
    intro u hagenda htick hwork
    rw [step_of_work hagenda htick]
    exact State.doWork_of_work hwork

end Sys2Proof.Machine
end

section
/-! PROOFS. The lines of a store (R105, R194). -/

namespace Sys2Proof.Machine

/-- The line that a store names: its space and its address. -/
def Line.key (l : Line) : Space × Nat := (l.sp, l.line)

/-- Lines as a store has them: aligned, no mask beyond 256 bytes, no line twice. -/
structure LinesOk (ls : List Line) : Prop where
  nodup : (ls.map Line.key).Nodup
  aligned : ∀ l ∈ ls, l.line % 256 = 0
  mask : ∀ l ∈ ls, l.mask < 2 ^ 256

/-- A line's mask names a byte. -/
def Line.names (l : Line) (sp : Space) (a : Nat) : Prop := l.sp = sp ∧ l.line ≤ a ∧ a < l.line + 256 ∧ bit l.mask (a - l.line) = true

/-- The mask of one of the lines names a byte. -/
def Names (ls : List Line) (sp : Space) (a : Nat) : Prop := ∃ l ∈ ls, l.names sp a

/-- The byte's line holds this value at its place. -/
def Holds (ls : List Line) (sp : Space) (a : Nat) (b : Byte) : Prop :=
  ∃ l ∈ ls, l.sp = sp ∧ l.line = a / 256 * 256 ∧ Map.getD l.data (a % 256) 0 = b

theorem names_cons {l : Line} {ls : List Line} {sp : Space} {a : Nat} : Names (l :: ls) sp a ↔ l.names sp a ∨ Names ls sp a := by
  simp [Names]

theorem holds_cons {l : Line} {ls : List Line} {sp : Space} {a : Nat} {b : Byte} : Holds (l :: ls) sp a b ↔
    (l.sp = sp ∧ l.line = a / 256 * 256 ∧ Map.getD l.data (a % 256) 0 = b) ∨ Holds ls sp a b := by
  simp [Holds]

/-! ## One byte -/

theorem map_key_addByte (sp : Space) (a : Nat) (b : Byte) (ls : List Line) : (addByte sp a b ls).map Line.key =
    if (sp, a / 256 * 256) ∈ ls.map Line.key then ls.map Line.key else ls.map Line.key ++ [(sp, a / 256 * 256)] := by
  induction ls with
  | nil => simp [addByte, Line.key]
  | cons l r ih =>
    by_cases hl : l.sp = sp ∧ l.line = a / 256 * 256
    · simp [addByte, hl, Line.key]
    · have hne : ¬(sp, a / 256 * 256) = l.key := fun h => hl (by simpa [Line.key, eq_comm] using h)
      simp only [addByte, if_neg hl, List.map_cons, ih, List.mem_cons, or_iff_right hne]
      split <;> rfl

/-- What holds of every line, of a fresh line of the byte, and of the byte's line with the byte in it, holds after the byte is added. -/
theorem forall_mem_addByte {p : Line → Prop} {sp : Space} {a : Nat} {b : Byte} {ls : List Line} (h : ∀ l ∈ ls, p l)
    (hnew : p ⟨sp, a / 256 * 256, 2 ^ (a % 256), [(a % 256, b)]⟩)
    (hset : ∀ l, p l → p { l with mask := l.mask ||| 2 ^ (a % 256), data := Map.set l.data (a % 256) b }) : ∀ l ∈ addByte sp a b ls, p l := by
  induction ls with
  | nil => simpa [addByte] using hnew
  | cons l r ih =>
    obtain ⟨hl, hr⟩ := List.forall_mem_cons.1 h
    rw [addByte]
    split
    · exact List.forall_mem_cons.2 ⟨hset l hl, hr⟩
    · exact List.forall_mem_cons.2 ⟨hl, ih hr⟩

theorem LinesOk.addByte {ls : List Line} (h : LinesOk ls) (sp : Space) (a : Nat) (b : Byte) : LinesOk (addByte sp a b ls) where
  nodup := by
    rw [map_key_addByte]
    split
    · exact h.nodup
    · next hnew => exact List.nodup_append.2 ⟨h.nodup, List.nodup_singleton _, fun x hx y hy he => hnew (by simp_all)⟩
  aligned := forall_mem_addByte h.aligned (Nat.mul_mod_left _ _) fun _ hl => hl
  mask := by
    have hbit : 2 ^ (a % 256) < 2 ^ 256 := Nat.pow_lt_pow_right (by decide) (Nat.mod_lt _ (by decide))
    exact forall_mem_addByte h.mask hbit fun l hl => Nat.or_lt_two_pow hl hbit

theorem bit_two_pow (k n : Nat) : bit (2 ^ k) n = true ↔ n = k := by
  rw [bit_eq_testBit, Nat.testBit_two_pow, decide_eq_true_eq, eq_comm]

theorem bit_or_two_pow (m k n : Nat) : bit (m ||| 2 ^ k) n = true ↔ n = k ∨ bit m n = true := by
  rw [← bit_two_pow, bit_eq_testBit, bit_eq_testBit, bit_eq_testBit, Nat.testBit_or, Bool.or_eq_true, or_comm]

/-- A fresh line of a byte names that byte alone. -/
theorem Line.names_single (sp sp' : Space) (a x : Nat) (d : Map Byte) :
    Line.names ⟨sp, a / 256 * 256, 2 ^ (a % 256), d⟩ sp' x ↔ sp' = sp ∧ x = a := by
  rw [Line.names, bit_two_pow, eq_comm]
  refine and_congr Iff.rfl ?_
  dsimp only
  omega

/-- A byte added to its line is named, beside those that were. -/
theorem Line.names_set {l : Line} {sp : Space} {a : Nat} (hsp : l.sp = sp) (hline : l.line = a / 256 * 256) (sp' : Space) (x : Nat) (d : Map Byte) :
    Line.names { l with mask := l.mask ||| 2 ^ (a % 256), data := d } sp' x ↔ (sp' = sp ∧ x = a) ∨ l.names sp' x := by
  rw [← Line.names_single sp sp' a x d]
  simp only [Line.names, bit_or_two_pow, bit_two_pow, hsp, hline]
  tauto

theorem names_addByte (sp sp' : Space) (a x : Nat) (b : Byte) (ls : List Line) :
    Names (addByte sp a b ls) sp' x ↔ (sp' = sp ∧ x = a) ∨ Names ls sp' x := by
  induction ls with
  | nil => rw [addByte, names_cons, Line.names_single]
  | cons l r ih =>
    rw [addByte, names_cons]
    split
    · next hkey => rw [names_cons, Line.names_set hkey.1 hkey.2, or_assoc]
    · rw [names_cons, ih, or_left_comm]

theorem holds_addByte_same (ls : List Line) (sp : Space) (a : Nat) (b : Byte) : Holds (addByte sp a b ls) sp a b := by
  induction ls with
  | nil => exact holds_cons.2 (Or.inl ⟨rfl, rfl, by simp [Map.getD, Map.get?]⟩)
  | cons l r ih =>
    rw [addByte]
    split
    · next hkey => exact holds_cons.2 (Or.inl ⟨hkey.1, hkey.2, by simp [Map.getD_set]⟩)
    · exact holds_cons.2 (Or.inr ih)

theorem Holds.addByte_ne {ls : List Line} {sp sp' : Space} {a x : Nat} {c : Byte} (h : Holds ls sp' x c) (hne : ¬(sp' = sp ∧ x = a)) (b : Byte) :
    Holds (addByte sp a b ls) sp' x c := by
  induction ls with
  | nil => simp [Holds] at h
  | cons l r ih =>
    rw [addByte]
    split
    · next hkey =>
      rcases holds_cons.1 h with ⟨hsp, hline, hval⟩ | h
      · refine holds_cons.2 (Or.inl ⟨hsp, hline, ?_⟩)
        have hoff : a % 256 ≠ x % 256 := fun hoff => hne ⟨hsp.symm.trans hkey.1, by omega⟩
        rw [Map.getD_set, if_neg hoff, hval]
      · exact holds_cons.2 (Or.inr h)
    · rcases holds_cons.1 h with h | h
      · exact holds_cons.2 (Or.inl h)
      · exact holds_cons.2 (Or.inr (ih h))

/-! ## The bytes of one lane -/

theorem LinesOk.addBytes {ls : List Line} (h : LinesOk ls) (sp : Space) (a : Nat) (d : List Byte) : LinesOk (addBytes sp a d ls) := by
  induction d generalizing a ls with
  | nil => exact h
  | cons b r ih => exact ih (h.addByte sp a b) (a + 1)

theorem names_addBytes (sp sp' : Space) (a x : Nat) (d : List Byte) (ls : List Line) :
    Names (addBytes sp a d ls) sp' x ↔ (sp = sp' ∧ a ≤ x ∧ x < a + d.length) ∨ Names ls sp' x := by
  induction d generalizing a ls with
  | nil =>
    rw [addBytes, or_iff_right]
    rintro ⟨-, hlo, hhi⟩
    exact absurd hhi (Nat.not_lt.2 hlo)
  | cons b r ih =>
    rw [addBytes, ih, names_addByte, ← or_assoc, List.length_cons]
    refine or_congr ?_ Iff.rfl
    rw [eq_comm (a := sp'), ← and_or_left]
    refine and_congr Iff.rfl ?_
    omega

theorem Holds.addBytes_of_outside {ls : List Line} {sp sp' : Space} {a x : Nat} {c : Byte} (h : Holds ls sp' x c) (d : List Byte)
    (hout : ¬(sp = sp' ∧ a ≤ x ∧ x < a + d.length)) : Holds (addBytes sp a d ls) sp' x c := by
  induction d generalizing a ls with
  | nil => exact h
  | cons b r ih =>
    rw [List.length_cons] at hout
    exact ih (h.addByte_ne (fun ⟨hs, hx⟩ => hout ⟨hs.symm, by omega, by omega⟩) b) fun ⟨hs, hlo, hhi⟩ => hout ⟨hs, by omega, by omega⟩

theorem holds_addBytes (ls : List Line) (sp : Space) {a x : Nat} {d : List Byte} (hlo : a ≤ x) (hhi : x < a + d.length) :
    Holds (addBytes sp a d ls) sp x (d.getD (x - a) 0) := by
  induction d generalizing a ls with
  | nil => exact absurd hhi (Nat.not_lt.2 hlo)
  | cons b r ih =>
    rw [List.length_cons] at hhi
    rw [addBytes]
    obtain rfl | hlt := Nat.eq_or_lt_of_le hlo
    · rw [Nat.sub_self, List.getD_cons_zero]
      exact (holds_addByte_same ls sp a b).addBytes_of_outside r (by omega)
    · obtain ⟨k, rfl⟩ := Nat.exists_eq_add_of_lt hlt
      rw [show a + k + 1 - a = k + 1 by omega, List.getD_cons_succ]
      have hrest := ih (addByte sp a b ls) (a := a + 1) (by omega) (by omega)
      rwa [show a + k + 1 - (a + 1) = k by omega] at hrest

/-! ## The lanes of a store -/

theorem linesOf_concat (ws : List (Req × List Byte)) (w : Req × List Byte) : linesOf (ws ++ [w]) = addBytes w.1.sp w.1.a w.2 (linesOf ws) := by
  rw [linesOf, List.foldl_concat]
  rfl

theorem linesOk_linesOf (ws : List (Req × List Byte)) : LinesOk (linesOf ws) := by
  induction ws using List.reverseRecOn with
  | nil => exact ⟨List.nodup_nil, nofun, nofun⟩
  | append_singleton ws w ih =>
    rw [linesOf_concat]
    exact ih.addBytes ..

theorem names_linesOf (ws : List (Req × List Byte)) (sp : Space) (a : Nat) : Names (linesOf ws) sp a ↔ ∃ w ∈ ws, coversByte w sp a := by
  induction ws using List.reverseRecOn with
  | nil => simp [Names, linesOf]
  | append_singleton ws w ih =>
    rw [linesOf_concat, names_addBytes, ih]
    simp [or_and_right, exists_or, or_comm]

theorem holds_linesOf_last (before after : List (Req × List Byte)) {w : Req × List Byte} {sp : Space} {a : Nat} (hw : coversByte w sp a)
    (hlast : ∀ x ∈ after, ¬coversByte x sp a) : Holds (linesOf (before ++ w :: after)) sp a (w.2.getD (a - w.1.a) 0) := by
  induction after using List.reverseRecOn with
  | nil =>
    obtain ⟨rfl, hlo, hhi⟩ := hw
    rw [linesOf_concat]
    exact holds_addBytes _ _ hlo hhi
  | append_singleton after x ih =>
    rw [← List.cons_append, ← List.append_assoc, linesOf_concat]
    exact (ih fun y hy => hlast y (List.mem_append_left _ hy)).addBytes_of_outside _ (hlast x (by simp))

/-- Settles O29: adding a byte keeps the lines in order, names that byte beside those named before, and puts it in its line; the rest is induction
over the bytes of a lane and over the lanes. -/
theorem storeLines : Obligations.StoreLines := by
  intro ws
  have hok := linesOk_linesOf ws
  refine ⟨?distinct, fun l hl => ⟨hok.aligned l hl, hok.mask l hl⟩, names_linesOf ws, ?last⟩
  case distinct =>
    refine (List.pairwise_map.1 hok.nodup).imp fun hne hsame => hne ?_
    exact Prod.ext hsame.1 hsame.2
  case last =>
    rintro before w after sp a rfl hw hlast
    exact holds_linesOf_last before after hw hlast

end Sys2Proof.Machine
end

section
/-! PROOFS. The scratchpad's ways (R92 to R95), a quad's power transitions and the rise permit (R527 to R537), drowsy banks (R130, R536). -/

namespace Sys2Proof.Machine

/-! ## The ways of a slice -/

/-- The layer bytes of mebibytes lo to hi - 1 of a slice read 0, every other byte as it was (R95). -/
theorem State.dropMib_layer (s : State) (die slice : Nat) {lo hi : Nat} (h : lo ≤ hi) (a : Nat) : (s.dropMib die slice lo hi).layer.get a =
    if layerKey die (slice * 2 ^ 24 + lo * 2 ^ 20) ≤ a ∧ a < layerKey die (slice * 2 ^ 24 + hi * 2 ^ 20) then 0 else s.layer.get a := by
  have hend : layerKey die (slice * 2 ^ 24 + lo * 2 ^ 20) + (hi - lo) * 2 ^ 20 = layerKey die (slice * 2 ^ 24 + hi * 2 ^ 20) := by
    simp only [layerKey]
    omega
  rw [State.dropMib, Memory.get_clear, hend]

section
variable {s : State} {die slice ways : Nat} (hdie : die < 4) (hslice : slice < 24)
include hdie hslice

theorem execLyrWaypartGrow_of_more (hmore : (s.wayp die slice).scrWays < ways) (hways : ways ≤ 16) :
    execLyrWaypartGrow die slice ways s = .next (s.waypartWrite die slice ways) := by
  simp [execLyrWaypartGrow, sliceExists, hdie, hslice, hmore, hways]

theorem execLyrWaypartShrink_of_fewer (hfewer : ways < (s.wayp die slice).scrWays) :
    execLyrWaypartShrink die slice ways s = .next (s.waypartWrite die slice ways) := by
  simp [execLyrWaypartShrink, sliceExists, hdie, hslice, hfewer]

end

/-- The state with the register of a slice's ways changed (R92). -/
def State.putWays (s : State) (die slice : Nat) (w : Waypart) : State := { s with waypart := s.waypart.set (die * 24 + slice) w }

theorem State.waypartWrite_of_busy {s : State} {die slice : Nat} (h : (s.wayp die slice).busy = true) (m : Nat) :
    s.waypartWrite die slice m = s.putWays die slice { s.wayp die slice with err := 1 } := if_pos h

section
variable {s : State} {die slice m : Nat} (hidle : (s.wayp die slice).busy = false)
include hidle

theorem State.waypartWrite_of_low (hlow : m < (s.wayp die slice).ringFloor) :
    s.waypartWrite die slice m = s.putWays die slice { s.wayp die slice with err := 2 } := by
  simp only [State.waypartWrite, hidle, if_pos hlow]
  rfl

variable (hfloor : (s.wayp die slice).ringFloor ≤ m)
include hfloor

theorem State.waypartWrite_of_more (hmore : (s.wayp die slice).scrWays < m) : s.waypartWrite die slice m =
    (s.putWays die slice { s.wayp die slice with err := 0, busy := true, scrWays := m }).push (.layerGrow die slice) := by
  simp only [State.waypartWrite, hidle, if_neg (Nat.not_lt.2 hfloor), if_neg hmore.ne', if_pos hmore]
  rfl

theorem State.waypartWrite_of_fewer (hfewer : m < (s.wayp die slice).scrWays) : s.waypartWrite die slice m =
    ((s.dropMib die slice m (s.wayp die slice).scrWays).putWays die slice
      { s.wayp die slice with err := 0, busy := true, scrWays := m, mapped := m }).push (.layerShrink die slice) := by
  simp only [State.waypartWrite, hidle, if_neg (Nat.not_lt.2 hfloor), if_neg hfewer.ne, if_neg hfewer.not_gt]
  rfl

end

theorem execLayerGrowComplete_of_busy {s : State} {die slice : Nat} (hbusy : (s.wayp die slice).busy = true)
    (hmapped : (s.wayp die slice).mapped < (s.wayp die slice).scrWays) : execLayerGrowComplete die slice s =
      .next ((s.dropMib die slice (s.wayp die slice).mapped (s.wayp die slice).scrWays).putWays die slice
        { s.wayp die slice with busy := false, mapped := (s.wayp die slice).scrWays }) := by
  simp [execLayerGrowComplete, hbusy, hmapped, State.putWays, State.dropMib]

theorem execLayerShrinkBusyEnd_of_busy {s : State} {die slice : Nat} (hbusy : (s.wayp die slice).busy = true)
    (hmapped : (s.wayp die slice).mapped = (s.wayp die slice).scrWays) :
    execLayerShrinkBusyEnd die slice s = .next (s.putWays die slice { s.wayp die slice with busy := false }) := by
  simp [execLayerShrinkBusyEnd, hbusy, hmapped, State.putWays]

/-! ## The steps of a transition -/

/-- A step that is done no longer runs; the transition goes on. -/
theorem Power.stepDone_keeps (p : Power) : p.stepDone.step = 0 ∧ p.stepDone.busy = p.busy := by
  unfold Power.stepDone
  split
  case h_4 => split <;> exact ⟨rfl, rfl⟩
  all_goals exact ⟨rfl, rfl⟩

theorem Power.nextStep_eq_zero_iff (p : Power) : p.nextStep = 0 ↔
    p.supply = p.targetOpp ∧ p.opp = p.targetOpp ∧ p.pass = p.targetPass ∧ p.wakeNeeded = false ∧ p.gateNeeded = false := by
  unfold Power.nextStep
  split_ifs <;> simp_all <;> omega

theorem Power.nextStep_eq_two {p : Power} (h : p.nextStep = 2) : p.supply ≤ p.targetOpp ∧ p.opp ≠ p.targetOpp := by
  unfold Power.nextStep at h
  split_ifs at h <;> simp_all

theorem Power.nextStep_eq_six {p : Power} (h : p.nextStep = 6) : p.pass = p.targetPass := by
  unfold Power.nextStep at h
  split_ifs at h <;> simp_all

/-- The quad's registers as they were, but for the step that it runs: the same, or the next one that has something to do (R534). -/
def Power.Steps (p p' : Power) : Prop := ∃ n aim, p' = { p with step := n, aim := aim } ∧ (n = p.step ∨ p.step = 0 ∧ n = p.nextStep)

theorem Power.Steps.refl (p : Power) : p.Steps p := ⟨p.step, p.aim, rfl, Or.inl rfl⟩

theorem Power.Steps.trans {p q r : Power} (h1 : p.Steps q) (h2 : q.Steps r) : p.Steps r := by
  obtain ⟨n, aim, rfl, hn⟩ := h1
  obtain ⟨m, aim', rfl, hm⟩ := h2
  refine ⟨m, aim', rfl, ?_⟩
  rcases hm with rfl | ⟨h0, hm⟩
  · exact hn
  · rcases hn with rfl | ⟨hp, -⟩
    · exact Or.inr ⟨h0, hm⟩
    · exact Or.inr ⟨hp, hm⟩

/-! ## The rise permit -/

@[simp] theorem State.setPower_powerOf_same (s : State) (quad : Nat) (p : Power) : (s.setPower quad p).powerOf quad = p := by
  simp [State.setPower, State.powerOf, Map.getD_set]

theorem State.setPower_powerOf_ne (s : State) {quad k : Nat} (p : Power) (h : k ≠ quad) : (s.setPower k p).powerOf quad = s.powerOf quad := by
  simp [State.setPower, State.powerOf, Map.getD_set, h]

@[simp] theorem State.setPower_permitOf (s : State) (quad die : Nat) (p : Power) : (s.setPower quad p).permitOf die = s.permitOf die := rfl

@[simp] theorem State.setPermit_powerOf (s : State) (die quad : Nat) (r : RisePermit) : (s.setPermit die r).powerOf quad = s.powerOf quad := rfl

theorem State.setPermit_permitOf (s : State) (die d : Nat) (r : RisePermit) : (s.setPermit die r).permitOf d = if die = d then r else s.permitOf d := by
  simp [State.setPermit, State.permitOf, Map.getD_set]

/-- A quad that runs a step which needs the rise permit holds it (R535). -/
def State.PermitHeld (s : State) (quad : Nat) : Prop :=
  (s.powerOf quad).step = 1 ∨ (s.powerOf quad).step = 4 → (s.permitOf (quad / 12)).holder = some quad

/-- Only power registers and permits changed: a quad's registers but for the step that it begins, and what it holds of the rise permit. -/
structure State.Progress (s s' : State) (quad : Nat) : Prop where
  frame : ∃ w r, s' = { s with power := w, rise := r }
  steps : (s.powerOf quad).Steps (s'.powerOf quad)
  held : s.PermitHeld quad → s'.PermitHeld quad

theorem State.Progress.refl (s : State) (quad : Nat) : s.Progress s quad := ⟨⟨s.power, s.rise, rfl⟩, .refl _, id⟩

theorem State.Progress.trans {s t u : State} {quad : Nat} (h1 : s.Progress t quad) (h2 : t.Progress u quad) : s.Progress u quad where
  frame := by
    obtain ⟨w, r, rfl⟩ := h1.frame
    obtain ⟨w', r', rfl⟩ := h2.frame
    exact ⟨w', r', rfl⟩
  steps := h1.steps.trans h2.steps
  held h := h2.held (h1.held h)

theorem State.setPower_progress (s : State) {k quad : Nat} (p : Power) (h : k ≠ quad) : s.Progress (s.setPower k p) quad where
  frame := ⟨_, s.rise, rfl⟩
  steps := by
    rw [s.setPower_powerOf_ne p h]
    exact .refl _
  held hheld := by
    rw [State.PermitHeld, s.setPower_powerOf_ne p h]
    exact hheld

theorem State.setPermit_progress (s : State) {die quad : Nat} {r : RisePermit}
    (h : (s.powerOf quad).step = 1 ∨ (s.powerOf quad).step = 4 → (s.permitOf die).holder = some quad → r.holder = some quad) :
    s.Progress (s.setPermit die r) quad where
  frame := ⟨s.power, _, rfl⟩
  steps := .refl _
  held hheld hstep := by
    rw [State.setPermit_permitOf]
    split
    · next hdie => exact h hstep (hdie ▸ hheld hstep)
    · exact hheld hstep

/-- The quad's own next step, with the permit where it needs it. -/
theorem State.next_progress (s : State) {quad : Nat} (h0 : (s.powerOf quad).step = 0) {aim : Nat} {s' : State}
    (frame : ∃ w r, s' = { s with power := w, rise := r })
    (hpower : s'.powerOf quad = { s.powerOf quad with step := (s.powerOf quad).nextStep, aim := aim })
    (hheld : (s.powerOf quad).nextStep = 1 ∨ (s.powerOf quad).nextStep = 4 → (s'.permitOf (quad / 12)).holder = some quad) :
    s.Progress s' quad where
  frame := frame
  steps := ⟨_, aim, hpower, Or.inr ⟨h0, rfl⟩⟩
  held _ := by
    rw [State.PermitHeld, hpower]
    exact hheld

/-- A quad begins its next step, or waits for the permit: that quad and every other one go on as R534 and R535 say. -/
theorem State.beginStep_progress (s : State) {k quad : Nat} (h : k = quad → ¬((s.powerOf quad).step = 0 ∧ (s.powerOf quad).nextStep = 0)) :
    s.Progress (s.beginStep k) quad := by
  fun_cases State.beginStep
  case case1 => exact .refl s quad
  case case2 p die r n hstep hn =>
    have hne : k ≠ quad := fun he => h he (he ▸ ⟨by simpa using hstep, hn⟩)
    exact (s.setPower_progress _ hne).trans (State.setPermit_progress _ fun _ hr => hr)
  case case3 p die r n hstep hn hrise hfree =>
    by_cases he : k = quad
    · subst he
      refine s.next_progress (by simpa using hstep) ⟨_, _, rfl⟩ (State.setPower_powerOf_same ..) fun _ => ?_
      rw [State.setPermit_permitOf, if_pos rfl]
    · refine (s.setPower_progress _ he).trans (State.setPermit_progress _ fun _ hr => absurd ?_ he)
      have hr : r.holder = some quad := hr
      rw [hr] at hfree
      exact (by simpa using hfree : quad = k).symm
  case case4 => exact .refl s quad
  case case5 p n hstep hn hrise =>
    by_cases he : k = quad
    · subst he
      exact s.next_progress (by simpa using hstep) ⟨_, s.rise, rfl⟩ (State.setPower_powerOf_same ..) fun hr => absurd hr hrise
    · exact s.setPower_progress _ he

/-- With no step left BUSY clears (R534). -/
theorem State.beginStep_powerOf_of_end {s : State} {quad : Nat} (h0 : (s.powerOf quad).step = 0) (hn : (s.powerOf quad).nextStep = 0) :
    (s.beginStep quad).powerOf quad = { s.powerOf quad with busy := false } := by
  simp [State.beginStep, h0, hn]

theorem State.beginStep_frame (s : State) (quad : Nat) : ∃ w r, s.beginStep quad = { s with power := w, rise := r } := by
  fun_cases State.beginStep <;> exact ⟨_, _, rfl⟩

theorem State.PermitHeld.beginStep_of_end {s : State} {quad : Nat} (h0 : (s.powerOf quad).step = 0) (hn : (s.powerOf quad).nextStep = 0) :
    (s.beginStep quad).PermitHeld quad := by
  rw [State.PermitHeld, State.beginStep_powerOf_of_end h0 hn]
  simp [h0]

/-- A permit released by a holder whose running step does not need it: no quad that needs it loses it. -/
theorem State.release_progress {s : State} {die q : Nat} (hq : (s.permitOf die).holder = some q)
    (hdone : ¬((s.powerOf q).step = 1 ∨ (s.powerOf q).step = 4)) (waiters : List Nat) (quad : Nat) : s.Progress (s.setPermit die ⟨none, waiters⟩) quad :=
  s.setPermit_progress fun hstep hr => by
    obtain rfl : q = quad := Option.some.inj (hq.symm.trans hr)
    exact absurd hstep hdone

/-- The permit goes on to the next quad in order of writes (R535). -/
theorem State.passPermit_progress (s : State) (die quad : Nat) : s.Progress (s.passPermit die) quad := by
  fun_cases State.passPermit
  case case1 => exact .refl s quad
  case case2 => exact .refl s quad
  case case3 r q hq p hdone s1 _ => exact State.release_progress hq (fun h => hdone (or_assoc.1 (Or.inl h))) r.waiters quad
  case case4 r q hq p hdone s1 k hk =>
    have hfree : s.Progress s1 quad := State.release_progress hq (fun h => hdone (or_assoc.1 (Or.inl h))) r.waiters quad
    refine hfree.trans (s1.beginStep_progress ?_)
    rintro rfl ⟨-, h0⟩
    have h0 : (s.powerOf k).nextStep = 0 := h0
    simpa [h0] using List.find?_some hk

/-! ## PWR_QCTL_WRITE -/

theorem not_qctlOk_iff (val : W64) : ¬QctlOk val ↔
    (!(bits val.toNat 63 32 == 0) || !(bits val.toNat 23 17 == 0) || !(bits val.toNat 15 12 == 0) || !(bits val.toNat 7 3 == 0) ||
      decide (4 < bits val.toNat 11 8) || !([1, 2, 4].contains (bits val.toNat 2 0))) = true := by
  rw [← not_iff_not, not_not]
  simp [QctlOk, Clean, and_assoc]
  tauto

theorem execPwrQctlWrite_of_bad {s : State} {quad : Nat} (hquad : quad < 48) {val : W64} (h : ¬QctlOk val) :
    execPwrQctlWrite quad val s = .next (s.setPower quad { s.powerOf quad with err := 1 }) := by
  unfold execPwrQctlWrite
  extract_lets x p rsv pass
  rw [if_neg (Nat.not_le.2 hquad), if_pos ((not_qctlOk_iff val).1 h)]

/-- The registers as a value that PWR_QCTL takes sets them (R531). -/
def Power.written (p : Power) (val : W64) : Power :=
  { p with
    drWait := bits val.toNat 31 24, bankOff := bit val.toNat 16, targetOpp := bits val.toNat 11 8, targetPass := bits val.toNat 2 0, err := 0 }

/-- A transition asked for: the quad is busy and waits in order of writes (R533, R535). -/
def State.askTransition (s : State) (quad : Nat) (p : Power) : State :=
  ((s.setPower quad p).setPower quad { p with busy := true }).setPermit (quad / 12)
    { s.permitOf (quad / 12) with waiters := (s.permitOf (quad / 12)).waiters.filter (fun k => !(k == quad)) ++ [quad] }

theorem execPwrQctlWrite_of_ok {s : State} {quad : Nat} (hquad : quad < 48) {val : W64} (h : QctlOk val) :
    let p := (s.powerOf quad).written val
    execPwrQctlWrite quad val s =
      if p.step = 0 ∧ p.nextStep = 0 then .next ((s.setPower quad p).setPower quad { p with busy := false })
      else .next ((((s.askTransition quad p).beginStep quad).passPermit (quad / 12)).push (.pwrStep quad)) := by
  unfold execPwrQctlWrite
  extract_lets x p rsv pass
  rw [if_neg (Nat.not_le.2 hquad), if_neg (mt (not_qctlOk_iff val).2 (not_not.2 h))]
  rfl

/-- Power registers, permits and pending work alone have changed. -/
def State.PowerOnly (s s' : State) : Prop := ∃ w r a, s' = { s with power := w, rise := r, work := a }

theorem State.PowerOnly.frame {s s' : State} (h : s.PowerOnly s') : { s' with power := s.power, rise := s.rise, work := s.work } = s := by
  obtain ⟨w, r, a, rfl⟩ := h
  rfl

theorem State.powerOnly_push (s : State) (a : Act) : s.PowerOnly (s.push a) := by
  obtain ⟨w, hw, -⟩ := s.wakes_push a
  exact ⟨s.power, s.rise, w, hw⟩

theorem State.PowerOnly.trans {s t u : State} (h1 : s.PowerOnly t) (h2 : t.PowerOnly u) : s.PowerOnly u := by
  obtain ⟨w, r, a, rfl⟩ := h1
  obtain ⟨w', r', a', rfl⟩ := h2
  exact ⟨w', r', a', rfl⟩

theorem State.Progress.powerOnly {s s' : State} {quad : Nat} (h : s.Progress s' quad) : s.PowerOnly s' := by
  obtain ⟨w, r, hs⟩ := h.frame
  exact ⟨w, r, s.work, hs⟩

@[simp] theorem State.push_powerOf (s : State) (a : Act) (quad : Nat) : (s.push a).powerOf quad = s.powerOf quad := by
  obtain ⟨w, hw, -⟩ := s.wakes_push a
  rw [hw]
  rfl

@[simp] theorem State.push_permitOf (s : State) (a : Act) (die : Nat) : (s.push a).permitOf die = s.permitOf die := by
  obtain ⟨w, hw, -⟩ := s.wakes_push a
  rw [hw]
  rfl

/-- A legal write of PWR_QCTL (R531, R533): the targets are set, the quad is busy unless it meets them already, and nothing else of it changes. -/
theorem execPwrQctlWrite_spec {s : State} {quad : Nat} (hquad : quad < 48) {val : W64} (h : QctlOk val) :
    ∃ s' n aim, execPwrQctlWrite quad val s = .next s' ∧ s.PowerOnly s' ∧
      s'.powerOf quad = { (s.powerOf quad).written val with
        busy := !decide ((s.powerOf quad).step = 0 ∧ ((s.powerOf quad).written val).nextStep = 0), step := n, aim := aim } := by
  rw [execPwrQctlWrite_of_ok hquad h]
  set p := (s.powerOf quad).written val
  have hstep : p.step = (s.powerOf quad).step := rfl
  by_cases hend : p.step = 0 ∧ p.nextStep = 0
  · rw [if_pos hend]
    refine ⟨_, p.step, p.aim, rfl, ⟨_, s.rise, s.work, rfl⟩, ?_⟩
    rw [State.setPower_powerOf_same, ← hstep, decide_eq_true hend]
    rfl
  · rw [if_neg hend]
    have hask : (s.askTransition quad p).powerOf quad = { p with busy := true } := State.setPower_powerOf_same ..
    have hbegin : (s.askTransition quad p).Progress ((s.askTransition quad p).beginStep quad) quad :=
      State.beginStep_progress _ fun _ hn => hend (by rw [hask] at hn; exact hn)
    have hall := hbegin.trans (State.passPermit_progress _ (quad / 12) quad)
    obtain ⟨n, aim, hpower, -⟩ := hall.steps
    have hset : s.PowerOnly (s.askTransition quad p) := ⟨_, _, s.work, rfl⟩
    refine ⟨_, n, aim, rfl, (hset.trans hall.powerOnly).trans (State.powerOnly_push ..), ?_⟩
    rw [State.push_powerOf, hpower, hask, ← hstep, decide_eq_false hend]
    rfl

/-! ## PWR_TRANSITION_STEP -/

/-- The quad's registers once the running step, if any, is done (R534). -/
def Power.settled (p : Power) : Power := if p.step = 0 then p else p.stepDone

theorem Power.settled_keeps (p : Power) : p.settled.step = 0 ∧ p.settled.busy = p.busy := by
  unfold Power.settled
  split
  · next h => exact ⟨h, rfl⟩
  · exact p.stepDone_keeps

/-- The next step of a quad that runs none: the permit may pass, the quad begins, the permit may pass again (R534, R535). -/
def State.goOn (s : State) (quad : Nat) : State := ((s.passPermit (quad / 12)).beginStep quad).passPermit (quad / 12)

/-- A quad that runs no step goes on: BUSY clears with no step left, or the next step may begin, with the permit where it needs it. -/
theorem State.goOn_spec {s : State} {quad : Nat} (h0 : (s.powerOf quad).step = 0) : s.PowerOnly (s.goOn quad) ∧ (s.goOn quad).PermitHeld quad ∧
    ∃ n aim, (n = 0 ∨ n = (s.powerOf quad).nextStep) ∧ (s.goOn quad).powerOf quad = { s.powerOf quad with
      busy := (s.powerOf quad).busy && !decide ((s.powerOf quad).nextStep = 0), step := n, aim := aim } := by
  have hheld : s.PermitHeld quad := fun h => by omega
  have hpass := s.passPermit_progress (quad / 12) quad
  obtain ⟨n, aim, hpower, hn⟩ := hpass.steps
  set t := s.passPermit (quad / 12)
  have hnext : (t.powerOf quad).nextStep = (s.powerOf quad).nextStep := by rw [hpower]; rfl
  by_cases hend : (s.powerOf quad).nextStep = 0
  · have ht0 : (t.powerOf quad).step = 0 := by
      rw [hpower]
      show n = 0
      omega
    have hbegin := State.beginStep_powerOf_of_end ht0 (hnext.trans hend)
    have hlast := (t.beginStep quad).passPermit_progress (quad / 12) quad
    obtain ⟨m, aim', hlastPower, hm⟩ := hlast.steps
    refine ⟨?_, ?_, ?_⟩
    · obtain ⟨w, r, hb⟩ := t.beginStep_frame quad
      exact (hpass.powerOnly.trans ⟨w, r, t.work, hb⟩).trans hlast.powerOnly
    · exact hlast.held (State.PermitHeld.beginStep_of_end ht0 (hnext.trans hend))
    · refine ⟨m, aim', ?_, ?_⟩
      · rw [hbegin] at hm
        have hm : m = (t.powerOf quad).step ∨ _ ∧ m = (t.powerOf quad).nextStep := hm
        omega
      · refine hlastPower.trans ?_
        rw [hbegin, hpower]
        simp [hend]
  · have hbegin : t.Progress (t.beginStep quad) quad := t.beginStep_progress fun _ h => hend (hnext.symm.trans h.2)
    have hall := (hpass.trans hbegin).trans ((t.beginStep quad).passPermit_progress (quad / 12) quad)
    obtain ⟨m, aim', hallPower, hm⟩ := hall.steps
    refine ⟨hall.powerOnly, hall.held hheld, m, aim', by omega, hallPower.trans ?_⟩
    simp [hend]

theorem execPwrTransitionStep_of_idle {s : State} {quad : Nat} (h : (s.powerOf quad).busy = false) : execPwrTransitionStep quad s = .next s := by
  simp [execPwrTransitionStep, h]

/-- The state once the running step of a quad, if any, is done. -/
def State.settle (s : State) (quad : Nat) : State := if (s.powerOf quad).step = 0 then s else s.setPower quad (s.powerOf quad).stepDone

theorem State.settle_powerOf (s : State) (quad : Nat) : (s.settle quad).powerOf quad = (s.powerOf quad).settled := by
  unfold State.settle Power.settled
  split
  · rfl
  · exact State.setPower_powerOf_same ..

theorem State.powerOnly_settle (s : State) (quad : Nat) : s.PowerOnly (s.settle quad) := by
  unfold State.settle
  split
  · exact ⟨s.power, s.rise, s.work, rfl⟩
  · exact ⟨_, s.rise, s.work, rfl⟩

theorem execPwrTransitionStep_of_busy {s : State} {quad : Nat} (h : (s.powerOf quad).busy = true) : execPwrTransitionStep quad s =
    .next (if (((s.settle quad).goOn quad).powerOf quad).busy then ((s.settle quad).goOn quad).push (.pwrStep quad) else (s.settle quad).goOn quad) := by
  simp only [execPwrTransitionStep, h]
  rfl

/-- A step of a transition (R534, R535): the running step is done, and the next one may begin. -/
theorem execPwrTransitionStep_spec {s : State} {quad : Nat} (h : (s.powerOf quad).busy = true) :
    ∃ s' n aim, execPwrTransitionStep quad s = .next s' ∧ s.PowerOnly s' ∧ s'.PermitHeld quad ∧ (n = 0 ∨ n = (s.powerOf quad).settled.nextStep) ∧
      s'.powerOf quad = { (s.powerOf quad).settled with
        busy := !decide ((s.powerOf quad).settled.nextStep = 0), step := n, aim := aim } := by
  have h0 : ((s.settle quad).powerOf quad).step = 0 := by rw [State.settle_powerOf, (Power.settled_keeps _).1]
  obtain ⟨honly, hheld, n, aim, hn, hpower⟩ := State.goOn_spec h0
  rw [State.settle_powerOf] at hn hpower
  rw [(Power.settled_keeps _).2, h, Bool.true_and] at hpower
  rw [execPwrTransitionStep_of_busy h]
  split
  · refine ⟨_, n, aim, rfl, ((s.powerOnly_settle quad).trans honly).trans (State.powerOnly_push ..), ?_, hn, ?_⟩
    · rw [State.PermitHeld, State.push_powerOf, State.push_permitOf]
      exact hheld
    · rw [State.push_powerOf, hpower]
  · exact ⟨_, n, aim, rfl, (s.powerOnly_settle quad).trans honly, hheld, hn, hpower⟩

/-! ## Drowsy banks -/

theorem execBankDrowsyEntry_eq {die core sub bank : Nat} (hdie : die < 4) (hcore : core < 48) (hsub : sub < 8) (hbank : bank < 48) {s : State}
    (hwait : (s.powerOf (12 * die + core / 4)).drWait ≠ 0) (hfresh : bankKey die core sub bank ∉ s.drowsy) : execBankDrowsyEntry die core sub bank s =
      if s.groups.any (fun e => e.2.placed && e.2.stage.isSome && e.2.banks.contains (bankKey die core sub bank)) ||
          s.bankIsOff (12 * die + core / 4) (bankKey die core sub bank) then .next s
      else .next { s with drowsy := bankKey die core sub bank :: s.drowsy } := by
  refine if_congr ?_ rfl rfl
  simp [hwait, hfresh, hdie, hcore, hsub, hbank]

theorem State.bankIsOff_iff (s : State) (quad bank : Nat) : s.bankIsOff quad bank = true ↔
    (s.powerOf quad).bankOff = true ∧ ∀ e ∈ s.groups, ¬(e.2.placed = true ∧ bank ∈ e.2.banks) := by
  simp [State.bankIsOff, imp_iff_not_or]

theorem State.bankInUse_iff (s : State) (bank : Nat) : s.groups.any (fun e => e.2.placed && e.2.stage.isSome && e.2.banks.contains bank) = true ↔
    ∃ e ∈ s.groups, e.2.placed = true ∧ e.2.stage.isSome = true ∧ bank ∈ e.2.banks := by
  simp [and_assoc]

end Sys2Proof.Machine
end

section
/-! PROOFS. The boot ROM and the bring-up of functions (R538 to R544), and the answers to SPDM requests (R545). -/

namespace Sys2Proof.Machine

/-! ## The boot -/

theorem State.obtainLine_boot (s : State) (line : Nat) : (s.obtainLine line).boot = s.boot := by
  unfold State.obtainLine State.writeBack
  split
  · rfl
  · split <;> rfl

theorem State.obtainAt_boot (s : State) (l : Loc) (n : Nat) : (s.obtainAt l n).boot = s.boot := by
  unfold State.obtainAt State.obtain
  split
  · split
    · rfl
    · exact List.foldlRecOn _ _ (motive := fun t : State => t.boot = s.boot) rfl fun t ht k _ => (t.obtainLine_boot _).trans ht
  · rfl

theorem State.countBad_boot (s : State) (l : Loc) (n : Nat) : (s.countBad l n).boot = s.boot := by
  fun_cases State.countBad <;> rfl

/-- A read at IO virtual addresses leaves the boot ROM's state, whether it ends or fails. -/
def IoRead.KeepsBoot (b : Boot) : IoRead → Prop
  | .ok s _ => s.boot = b
  | .fail s => s.boot = b
  | .wait => True

theorem State.ioReadPieces_keepsBoot (s : State) (fn : Nat) (l : List (Nat × Nat)) : (s.ioReadPieces fn l).KeepsBoot s.boot := by
  induction l generalizing s with
  | nil => rfl
  | cons p r ih =>
    rw [State.ioReadPieces]
    split
    · rfl
    · rfl
    · trivial
    · next l _ =>
      split
      · exact s.countBad_boot _ _
      · have h := ih (s.obtainAt l p.2)
        rw [s.obtainAt_boot] at h
        split
        · next e => rw [e] at h; exact h
        · next e => rw [e] at h; exact h
        · trivial

theorem State.ioRead_keepsBoot (s : State) (fn a n : Nat) : (s.ioRead fn a n).KeepsBoot s.boot := s.ioReadPieces_keepsBoot fn _

theorem State.bootImage_keepsBoot (s : State) : s.bootImage.KeepsBoot s.boot := by
  have h := s.ioRead_keepsBoot 0 s.boot.base 4096
  unfold State.bootImage
  split
  · split
    · next s1 b e =>
      rw [e] at h
      have h1 : s1.boot = s.boot := h
      rw [← h1]
      exact s1.ioRead_keepsBoot ..
    · next e => rw [e] at h; exact h
    · trivial
  · rfl

section
variable {s : State}

theorem State.bootImage_stored (h : s.boot.state = 0) : s.bootImage = .ok s s.boot.image := by
  simp [State.bootImage, h]

theorem State.bootImage_host (h : s.boot.state = 3) {s1 : State} {b : List Byte} (hread : s.ioRead 0 s.boot.base 4096 = .ok s1 b) :
    s.bootImage = s1.ioRead 0 s.boot.base (Config.imageLength b).val := by
  simp [State.bootImage, h, hread]

theorem State.bootImage_refused (h : s.boot.state = 3) {s1 : State} (hread : s.ioRead 0 s.boot.base 4096 = .fail s1) : s.bootImage = .fail s1 := by
  simp [State.bootImage, h, hread]

theorem execBootImgGo_of_waiting (hstarted : s.boot.started = true) (hstate : s.boot.state = 2) (hdead : s.dead = false) :
    execBootImgGo s = .next { s with boot := { s.boot with state := 3 } } := by
  simp [execBootImgGo, hstarted, hstate, hdead]

theorem execBootImgGo_of_not_waiting (hstate : s.boot.state ≠ 2) : execBootImgGo s = .next s := by
  simp [execBootImgGo, hstate]

variable (hstarted : s.boot.started = true)
include hstarted

theorem execBootVerifyComplete_of_fail {s1 : State} (himage : s.bootImage = .fail s1) (hstate : s.boot.state = 3) (ok : Bool) (err : Nat) :
    execBootVerifyComplete ok err s = .next { s1 with boot := { s.boot with state := 2, err := 4 } } := by
  have hboot : s1.boot = s.boot := by
    have h := s.bootImage_keepsBoot
    rwa [himage] at h
  simp [execBootVerifyComplete, hstarted, hstate, himage, hboot]

variable (hstate : s.boot.state = 0 ∨ s.boot.state = 3) {s1 : State} {img : List Byte} (himage : s.bootImage = .ok s1 img)
include hstate himage

theorem execBootVerifyComplete_of_image (ok : Bool) (err : Nat) : execBootVerifyComplete ok err s =
    if ok = decide ((Config.firmwareCheck img).val = 0) ∧ ((Config.firmwareCheck img).val = 0 ∨ err = (Config.firmwareCheck img).val) then
      .next { s1 with boot := s.boot.verified img }
    else .next s := by
  have hboot : s1.boot = s.boot := by
    have h := s.bootImage_keepsBoot
    rwa [himage] at h
  have hruns : (!s.boot.started || !(s.boot.state == 0 || s.boot.state == 3)) = false := by
    rcases hstate with h | h <;> simp [hstarted, h]
  simp only [execBootVerifyComplete, hruns, himage, hboot]
  rfl

theorem execBootVerifyComplete_of_good (hcode : (Config.firmwareCheck img).val = 0) (err : Nat) : execBootVerifyComplete true err s =
    .next { s1 with boot := { s.boot with state := 1, err := 0, hostImage := decide (s.boot.state = 3), image := img } } := by
  rw [execBootVerifyComplete_of_image hstarted hstate himage, if_pos ⟨(decide_eq_true hcode).symm, Or.inl hcode⟩, Boot.verified, if_pos hcode]

theorem execBootVerifyComplete_of_bad (hcode : (Config.firmwareCheck img).val ≠ 0) : execBootVerifyComplete false (Config.firmwareCheck img).val s =
    .next { s1 with boot := { s.boot with state := 2, err := (Config.firmwareCheck img).val } } := by
  rw [execBootVerifyComplete_of_image hstarted hstate himage, if_pos ⟨(decide_eq_false hcode).symm, Or.inr rfl⟩, Boot.verified, if_neg hcode]

theorem execBootVerifyComplete_of_other {ok : Bool} {err : Nat}
    (h : ok = false ∧ ((Config.firmwareCheck img).val = 0 ∨ err ≠ (Config.firmwareCheck img).val) ∨ ok = true ∧ (Config.firmwareCheck img).val ≠ 0) :
    execBootVerifyComplete ok err s = .next s := by
  rw [execBootVerifyComplete_of_image hstarted hstate himage, if_neg]
  rintro ⟨hok, herr⟩
  rcases h with ⟨rfl, h⟩ | ⟨rfl, h⟩
  · have hcode := of_decide_eq_false hok.symm
    exact h.elim hcode (absurd (herr.resolve_left hcode))
  · exact h (of_decide_eq_true hok.symm)

end

/-! ## Functions -/

section
variable {s : State} {u : BringUp} (hserving : s.serving = true) (hexists : unitExists u = true) (hready : u ∉ s.ready) (hfailed : u ∉ s.failed)
  (hmay : s.unitMayStart u = true)
include hserving hexists hready hfailed hmay

theorem execFunctionReady_of_good (hfails : s.unitFails u = false) :
    execFunctionReady u true s = .next { s.unitReady u with ready := s.ready ++ [u] } := by
  simp [execFunctionReady, hserving, hexists, hready, hfailed, hmay, hfails]

theorem execFunctionReady_of_failed : execFunctionReady u false s = .next { s.unitFailed u with failed := s.failed ++ [u] } := by
  simp [execFunctionReady, hserving, hexists, hready, hfailed, hmay]

end

theorem State.unitReady_linkModule (s : State) (die link m : Nat) : s.unitReady (.linkModule die link m) =
    if link = 2 then (s.putEnd (endOfUnit die link).1 (endOfUnit die link).2 m LinkEnd.reset).putEnd (endOfUnit die link).1 1 m LinkEnd.reset
    else s.putEnd (endOfUnit die link).1 (endOfUnit die link).2 m LinkEnd.reset := rfl

/-- What every function leaves alone as it becomes ready. -/
theorem State.unitReady_keeps (s : State) (u : BringUp) : (s.unitReady u).failed = s.failed ∧ (s.unitReady u).host = s.host ∧
    (s.unitReady u).flash = s.flash := by
  cases u with
  | linkModule die link m =>
    rw [State.unitReady_linkModule]
    split <;> exact ⟨rfl, rfl, rfl⟩
  | _ => exact ⟨rfl, rfl, rfl⟩

/-- A device's memory is zeroed as it becomes ready (R542), and no other byte of graphics DRAM changes. -/
theorem State.unitReady_dram (s : State) (u : BringUp) (a : Nat) : (s.unitReady u).dram.get a = if deviceOfDpa a = u then 0 else s.dram.get a := by
  cases u with
  | dram die dev =>
    show Map.getD (s.dram.filter fun c => !(deviceOfDpa c.1 == .dram die dev)) a 0 = if deviceOfDpa a = .dram die dev then 0 else Map.getD s.dram a 0
    rw [Map.getD_eq, Map.getD_eq, Map.get?_filter_key s.dram fun k => !(deviceOfDpa k == .dram die dev)]
    by_cases h : deviceOfDpa a = .dram die dev <;> simp [h]
  | linkModule die link m =>
    rw [if_neg nofun, State.unitReady_linkModule]
    split <;> rfl
  | _ => exact (if_neg nofun).symm

/-- A slice's layer memory is zeroed as it becomes ready (R542). -/
theorem State.unitReady_layer (s : State) (die k : Nat) {a : Nat} (h : a < 2 ^ 24) :
    (s.unitReady (.slice die k)).layer.get (layerKey die (k * 2 ^ 24 + a)) = 0 := by
  show (s.dropMib die k 0 16).layer.get _ = 0
  rw [s.dropMib_layer die k (Nat.zero_le 16), if_pos]
  simp only [layerKey]
  omega

/-- The cycle counters of a quad's cores start at 0 (R542). -/
theorem State.unitReady_cycles (s : State) (die q : Nat) {k : Nat} (h : k < 4) :
    (s.unitReady (.quad die q)).cycles.getD (coreKey die (4 * q + k)) 0 = 0 := by
  show Map.getD (s.cycles.filter fun e => !([0, 1, 2, 3].any fun k => e.1 == coreKey die (4 * q + k))) _ 0 = 0
  rw [Map.getD_eq, Map.get?_filter_key s.cycles fun n => !([0, 1, 2, 3].any fun k => n == coreKey die (4 * q + k)), if_neg]
  · rfl
  · simp only [coreKey, List.any_cons, List.any_nil, Bool.not_eq_true', Bool.not_eq_false, Bool.or_eq_true, beq_iff_eq]
    omega

theorem State.unitReady_linkEnd (s : State) (die link m : Nat) :
    (s.unitReady (.linkModule die link m)).linkEnd (endOfUnit die link).1 (endOfUnit die link).2 m = LinkEnd.reset := by
  rw [State.unitReady_linkModule]
  split
  · next hlink =>
    subst hlink
    exact (State.putEnd_one_linkEnd_zero ..).trans (State.putEnd_linkEnd_same ..)
  · exact State.putEnd_linkEnd_same ..

theorem State.unitFailed_keeps (s : State) (u : BringUp) : (s.unitFailed u).ready = s.ready ∧ s.sameMemory (s.unitFailed u) := by
  cases u <;> exact ⟨rfl, rfl, rfl, rfl, rfl⟩

theorem State.unitFailed_linkEnd (s : State) (die link m : Nat) :
    ((s.unitFailed (.linkModule die link m)).linkEnd (endOfUnit die link).1 (endOfUnit die link).2 m).state = 4 := by
  have h : (s.unitFailed (.linkModule die link m)).linkEnd (endOfUnit die link).1 (endOfUnit die link).2 m = _ := State.putEnd_linkEnd_same ..
  rw [h]
  simp [LinkEnd.control]

/-! ## Attestation -/

theorem State.answerSpdm_of_serving {s : State} (h : s.serving = true) (b : List Byte) : s.answerSpdm b = { s with spdm := b } := if_pos h

theorem State.answerSpdm_of_not_serving {s : State} (h : s.serving = false) (b : List Byte) : s.answerSpdm b = s := by
  rw [State.answerSpdm, h]
  rfl

/-- A request and the answer that it gets (R545). -/
inductive SpdmAnswer (s : State) (req : List Byte) : Instr → List Byte → Prop
  | version : SpdmAnswer s req (.spdmGetVersion req) versionAnswer
  | capabilities : SpdmAnswer s req (.spdmGetCapabilities req) capabilitiesAnswer
  | algorithms : SpdmAnswer s req (.spdmNegotiateAlgorithms req) (algorithmsAnswer req)
  | digests : SpdmAnswer s req (.spdmGetDigests req) s.digestsAnswer
  | certificate : SpdmAnswer s req (.spdmGetCertificate req) (s.certificateAnswer req)
  | challenge : SpdmAnswer s req (.spdmChallenge req) (s.challengeAnswer req)
  | measurements : SpdmAnswer s req (.spdmGetMeasurements req) (s.measurementsAnswer req)

theorem SpdmAnswer.exec_eq {s : State} {req : List Byte} {i : Instr} {b : List Byte} (h : SpdmAnswer s req i b) : exec i s = .next (s.answerSpdm b) := by
  cases h <;> rfl

theorem State.measurementsAnswer_cons (s : State) (req : List Byte) : ∃ body, s.measurementsAnswer req = 0x12 :: 0x60 :: body := by
  unfold State.measurementsAnswer
  extract_lets op l body
  split
  · exact ⟨_, rfl⟩
  · exact ⟨_, rfl⟩

/-- A request for measurement 4, the origin of the image, without a signature (R545). -/
theorem State.measurementsAnswer_image (s : State) {req : List Byte} (hindex : req.getD 3 0 = 4) (hplain : (req.getD 2 0).getLsbD 0 = false) :
    s.measurementsAnswer req = [0x12, 0x60, 0, 0, 1, 8, 0, 0, 4, 1, 4, 0, 0x83, 1, 0, if s.boot.hostImage then 1 else 0] ++
      padTo 32 (Config.spdmNonce s.tick) ++ [0, 0] := by
  have hl : s.measurements.filter (fun m => m.1 == 4) = [(4, 0x83, [if s.boot.hostImage then 1 else 0])] := rfl
  have hop : (reqByte req 3).toNat = 4 := by rw [reqByte, hindex]; rfl
  have hflag : (reqByte req 2).getLsbD 0 = false := hplain
  have hblock (image : Byte) : [(4, 0x83, [image])].flatMap measureBlock = [4, 1, 4, 0, 0x83, 1, 0, image] := by
    simp [measureBlock, toBytes]
  simp only [State.measurementsAnswer, hop, hflag, hl, Nat.reduceEqDiff, if_false, hblock, Bool.false_eq_true]
  simp [toBytes]

end Sys2Proof.Machine
end

section
/-! PROOFS. Maps whose values change and whose keys stay. -/

namespace Sys2Proof

variable {α : Type}

theorem Map.sorted_map_keys (m : Map α) (f : Nat × α → Nat × α) (hf : ∀ e, (f e).1 = e.1) (h : Map.sorted m = true) :
    Map.sorted (m.map f) = true := by
  induction m with
  | nil => rfl
  | cons e r ih =>
    obtain ⟨k, v⟩ := e
    obtain ⟨habove, hr⟩ := (Map.sorted_cons k v r).1 h
    refine (Map.sorted_cons (f (k, v)).1 (f (k, v)).2 _).2 ⟨fun x hx => ?_, ih hr⟩
    obtain ⟨y, hy, rfl⟩ := List.mem_map.1 hx
    rw [hf, hf]
    exact habove y hy

theorem Map.get?_map_of_fixed (m : Map α) (f : Nat × α → Nat × α) (hf : ∀ e, (f e).1 = e.1) {n : Nat} (hn : ∀ v, f (n, v) = (n, v)) :
    Map.get? (m.map f) n = m.get? n := by
  induction m with
  | nil => rfl
  | cons e r ih =>
    obtain ⟨k, v⟩ := e
    rw [List.map_cons, Map.get?_cons, Map.get?_cons, hf, ih]
    split
    · next hk => rw [show k = n from hk, hn]
    · rfl

end Sys2Proof
end

section
/-! PROOFS. Function-level resets (R506): what the save of contexts that are switched out keeps (R475), and what is left of a lost context (R474). -/

namespace Sys2Proof.Machine

/-! ## Contexts switched out -/

/-- What a save of teams of some contexts keeps beside the memories: the partition, the queues and the bias registers, the other contexts as they
are, and of every context its function. -/
structure State.SavesOf (s : State) (l : List Nat) (s' : State) : Prop where
  quadOwner : s'.quadOwner = s.quadOwner
  hq : s'.hq = s.hq
  bias : s'.bias = s.bias
  sorted : Map.sorted s.ctxs = true → Map.sorted s'.ctxs = true
  others : ∀ n, n ∉ l → s'.ctxs.get? n = s.ctxs.get? n
  fn : ∀ n, (s'.ctxs.get? n).map Ctx.fn = (s.ctxs.get? n).map Ctx.fn

section
variable {s t u : State} {l : List Nat}

theorem State.SavesOf.of_eq (hquads : t.quadOwner = s.quadOwner) (hhq : t.hq = s.hq) (hbias : t.bias = s.bias) (hctxs : t.ctxs = s.ctxs) :
    s.SavesOf l t := ⟨hquads, hhq, hbias, by rw [hctxs]; exact id, fun n _ => by rw [hctxs], fun n => by rw [hctxs]⟩

theorem State.SavesOf.refl (s : State) (l : List Nat) : s.SavesOf l s := .of_eq rfl rfl rfl rfl

theorem State.SavesOf.trans (h1 : s.SavesOf l t) (h2 : t.SavesOf l u) : s.SavesOf l u where
  quadOwner := h2.quadOwner.trans h1.quadOwner
  hq := h2.hq.trans h1.hq
  bias := h2.bias.trans h1.bias
  sorted h := h2.sorted (h1.sorted h)
  others n hn := (h2.others n hn).trans (h1.others n hn)
  fn n := (h2.fn n).trans (h1.fn n)

theorem State.setCtx_savesOf {n : Nat} (hn : n ∈ l) {c c' : Ctx} (hc : s.ctxs.get? n = some c) (hfn : c'.fn = c.fn) : s.SavesOf l (s.setCtx n c') where
  quadOwner := rfl
  hq := rfl
  bias := rfl
  sorted h := Map.sorted_set _ _ _ h
  others k hk := Map.get?_set_ne _ _ fun he => hk (he ▸ hn)
  fn k := by
    rw [State.setCtx_ctxs, Map.get?_set]
    split
    · next he => rw [← he, hc]; exact congrArg some hfn
    · rfl

theorem State.writeBlock_savesOf (s : State) (l : List Nat) (c : Ctx) (die tid seq k : Nat) : s.SavesOf l (s.writeBlock c die tid seq k) := by
  unfold State.writeBlock
  split
  · exact .of_eq rfl rfl rfl rfl
  · exact .refl s l

theorem State.writeSave_savesOf {ctx : Nat} (hctx : ctx ∈ l) (tid : Nat) : s.SavesOf l (s.writeSave ctx tid) := by
  unfold State.writeSave
  split
  · next c t hc _ =>
    exact List.foldlRecOn _ (State.writeBlock c t.die tid (c.seq + 1)) (motive := fun v => s.SavesOf l v)
      (State.setCtx_savesOf hctx hc rfl) fun v hv k _ => hv.trans (v.writeBlock_savesOf l c t.die tid (c.seq + 1) k)
  · exact .refl s l

theorem State.saveTeam_savesOf {tid : Nat} (hstill : s.Still tid) (hctx : ∀ t, s.teams.get? tid = some t → t.ctx ∈ l) :
    s.SavesOf l (s.saveTeam tid .queued) := by
  unfold State.saveTeam
  split
  · exact .refl s l
  · next t ht =>
    have hland : (s.groupsOf tid).foldl State.landGroup (s.halt tid) = s.halt tid :=
      List.foldlRecOn _ _ (motive := fun u => u = s.halt tid) rfl fun u hu n hn => by
        rw [hu]
        exact State.landGroup_of_still (hstill.of_saves (s.halt_saves tid) n ((s.halt_saves tid).groupsOf tid ▸ hn))
    rw [hland]
    have hhalt : s.SavesOf l (s.halt tid) := .of_eq rfl rfl rfl rfl
    exact (hhalt.trans (State.writeSave_savesOf (hctx t ht) tid)).trans (.of_eq rfl rfl rfl rfl)

theorem State.saveTeam_fold_savesOf (r : List (Nat × Team)) (hr : ∀ e ∈ r, s.Still e.1 ∧ ∀ t, s.teams.get? e.1 = some t → t.ctx ∈ l) :
    s.SavesOf l (r.foldl (fun s e => s.saveTeam e.1 .queued) s) := by
  induction r generalizing s with
  | nil => exact .refl s l
  | cons e r ih =>
    obtain ⟨hstill, hctx⟩ := hr e List.mem_cons_self
    obtain ⟨hsaves, hteams⟩ := State.saveTeam_of_still hstill
    refine (State.saveTeam_savesOf hstill hctx).trans (ih fun x hx => ?_)
    obtain ⟨hxstill, hxctx⟩ := hr x (List.mem_cons_of_mem _ hx)
    refine ⟨hxstill.of_saves hsaves, fun t ht => ?_⟩
    rw [hteams] at ht
    split at ht
    · obtain ⟨t0, ht0, rfl⟩ := Option.map_eq_some_iff.1 ht
      exact hxctx t0 ht0
    · exact hxctx t ht

theorem State.requeueTeam_savesOf (s : State) (l : List Nat) (die tid : Nat) : s.SavesOf l (s.requeueTeam die tid) := by
  obtain ⟨w, hw, -⟩ := State.wakes_push (s.setQueueAt die (tid :: s.queueAt die)) (.gangStart die)
  rw [State.requeueTeam, hw]
  exact .of_eq rfl rfl rfl rfl

theorem State.saveTeams_savesOf (h : s.SavesCleanly fun t => l.contains t.ctx = true) : s.SavesOf l (s.saveTeams fun t => l.contains t.ctx) := by
  obtain ⟨hsorted, -, hstill⟩ := h
  rw [State.saveTeams_eq]
  refine (State.saveTeam_fold_savesOf _ fun e he => ?_).trans (List.foldlRecOn _ _ (motive := fun v => State.SavesOf _ l v) (.refl _ l)
    fun v hv e _ => hv.trans (v.requeueTeam_savesOf l e.2.die e.1))
  obtain ⟨ht, hrun, hl⟩ := (State.mem_toSave hsorted _ e.1 e.2).1 he
  refine ⟨hstill e.1 e.2 ht hrun hl, fun t ht' => ?_⟩
  obtain rfl : t = e.2 := Option.some.inj (ht'.symm.trans ht)
  exact List.contains_iff_mem.1 hl

theorem State.spillDeques_savesOf (h : ∀ n, s.dequeAt n = []) (l cores : List Nat) (which : Nat → Bool) : s.SavesOf l (s.spillDeques cores which) := by
  refine (List.foldlRecOn cores _ (motive := fun v => (∀ n, v.dequeAt n = []) ∧ s.SavesOf l v) ⟨h, .refl s l⟩ fun v ⟨hv, hs⟩ n _ => ?_).2
  simp only [hv n, List.filter_nil, List.foldl_nil]
  refine ⟨fun k => ?_, hs.trans (.of_eq rfl rfl rfl rfl)⟩
  have hk : v.dequeAt k = [] := hv k
  simp only [State.dequeAt] at hk
  simp [State.dequeAt, Map.getD_set, hk]

/-- The state of the switched-out contexts set (R475). -/
def State.markOut (s : State) (l : List Nat) : State :=
  { s with ctxs := s.ctxs.map fun e => if l.contains e.1 then (e.1, { e.2 with state := .switchedOut }) else e }

theorem State.markOut_savesOf (s : State) (l : List Nat) : s.SavesOf l (s.markOut l) where
  quadOwner := rfl
  hq := rfl
  bias := rfl
  sorted := Map.sorted_map_keys _ _ fun e => by dsimp only; split <;> rfl
  others n hn := Map.get?_map_of_fixed _ _ (fun e => by dsimp only; split <;> rfl) fun v => if_neg (by simpa using hn)
  fn := Map.get?_map _ _ Ctx.fn fun e => by dsimp only; split <;> exact ⟨rfl, rfl⟩

theorem State.switchOutAll_eq (s : State) (l : List Nat) : s.switchOutAll l =
    ((s.saveTeams fun t => l.contains t.ctx).spillDeques (s.coresLeft l) fun c => l.contains c).markOut l := rfl

/-- Contexts whose teams have nothing in flight are switched out: their save areas are written, and no other context changes (R475, R477). -/
theorem State.switchOutAll_of_clean (h : s.SavesCleanly fun t => l.contains t.ctx = true) :
    s.SavesOf l (s.switchOutAll l) ∧ (s.dram.wf = true → s.savedOnly (s.switchOutAll l)) := by
  obtain ⟨hsaves, -⟩ := State.saveTeams_of_clean h
  have hempty : ∀ n, (s.saveTeams fun t => l.contains t.ctx).dequeAt n = [] := fun n => (hsaves.deques n).trans (h.2.1 n)
  obtain ⟨hspill, -⟩ := State.spillDeques_saves hempty (s.coresLeft l) fun c => l.contains c
  have hall := hsaves.trans hspill
  rw [State.switchOutAll_eq]
  exact ⟨((State.saveTeams_savesOf h).trans (State.spillDeques_savesOf hempty l _ _)).trans (State.markOut_savesOf _ l),
    fun hw => ⟨hall.host, hall.flash, hall.dram hw⟩⟩

/-- With no context to switch out nothing happens. -/
theorem State.switchOutAll_nil (s : State) : s.switchOutAll [] = s := by
  have hsave : (s.saveTeams fun t => [].contains t.ctx) = s := by
    have hnone : s.toSave (fun t => [].contains t.ctx) = [] := by simp [State.toSave, sortBy]
    rw [State.saveTeams_eq, hnone]
    rfl
  have hcores : s.coresLeft [] = [] := by simp [State.coresLeft]
  rw [State.switchOutAll_eq, hsave, hcores]
  simp [State.spillDeques, State.markOut]

end

/-! ## A lost context -/

/-- What the end of a context's playbills and commands may change: the playbills, their rings in the layer and RINGFLOOR, and the event queues. -/
def State.Unbinds (s s' : State) : Prop := ∃ books layer bad ways hq work,
  s' = { s with books := books, layer := layer, layerBad := bad, waypart := ways, hq := hq, work := work } ∧ (Map.sorted s.hq = true → Map.sorted hq = true)

section
variable {s t u : State}

theorem State.Unbinds.refl (s : State) : s.Unbinds s := ⟨s.books, s.layer, s.layerBad, s.waypart, s.hq, s.work, rfl, id⟩

theorem State.Unbinds.trans (h1 : s.Unbinds t) (h2 : t.Unbinds u) : s.Unbinds u := by
  obtain ⟨b, y, x, w, q, a, rfl, hq⟩ := h1
  obtain ⟨b', y', x', w', q', a', rfl, hq'⟩ := h2
  exact ⟨b', y', x', w', q', a', rfl, fun h => hq' (hq h)⟩

theorem State.unbinds_foldl {β : Type} (l : List β) (f : State → β → State) (hf : ∀ v x, State.Unbinds v (f v x)) (s : State) : s.Unbinds (l.foldl f s) :=
  List.foldlRecOn l f (motive := fun v => s.Unbinds v) (.refl s) fun v hv x _ => hv.trans (hf v x)

theorem State.unbinds_refloor (s : State) (die : Nat) : s.Unbinds (s.refloor die) := by
  refine State.unbinds_foldl _ _ (fun v k => ?_) s
  dsimp only
  split
  · exact .refl v
  · exact ⟨v.books, v.layer, v.layerBad, _, v.hq, v.work, rfl, id⟩

theorem State.unbinds_unbind (s : State) (k : Nat) : s.Unbinds (s.unbind k) := by
  unfold State.unbind
  split
  · exact .refl s
  · next pb _ =>
    have herase : s.Unbinds { s with books := s.books.erase k } := ⟨_, s.layer, s.layerBad, s.waypart, s.hq, s.work, rfl, id⟩
    refine (herase.trans (State.unbinds_foldl pb.rings _ (fun v r => ?_) _)).trans (State.unbinds_foldl _ _ State.unbinds_refloor _)
    exact ⟨v.books, _, _, v.waypart, v.hq, v.work, rfl, id⟩

theorem State.unbinds_complete (s : State) (fn tag status ctx r0 : Nat) : s.Unbinds (s.complete fn tag status ctx r0) := by
  unfold State.complete State.postEvent
  obtain ⟨w, hw, -⟩ := State.wakes_push (s.setQueue fn _) (.eventRecordWrite fn)
  rw [hw]
  exact ⟨s.books, s.layer, s.layerBad, s.waypart, _, w, rfl, Map.sorted_set _ _ _⟩

theorem State.unbinds_endCommand (s : State) (ctx : Nat) (g : Grid) : s.Unbinds (s.endCommand ctx g) := by
  unfold State.endCommand
  split
  · exact .refl s
  · exact s.unbinds_complete ..

end

/-- A context as its loss leaves it (R474). -/
def Ctx.lose (c : Ctx) : Ctx := { c with state := .lost, books := [], ring := [], locked := [], saves := [] }

/-- What is left once some contexts are lost: memory but for rings, the partition, the bias registers; each of the contexts is lost, and no group of
one is left. -/
structure State.Loses (s : State) (l : List Nat) (s' : State) : Prop where
  host : s'.host = s.host
  dram : s'.dram = s.dram
  flash : s'.flash = s.flash
  quadOwner : s'.quadOwner = s.quadOwner
  bias : s'.bias = s.bias
  hq : Map.sorted s.hq = true → Map.sorted s'.hq = true
  ctxs : ∀ n, s'.ctxs.get? n = if n ∈ l then (s.ctxs.get? n).map Ctx.lose else s.ctxs.get? n
  groups : s'.groups ⊆ s.groups
  gone : ∀ n ∈ l, (s.ctxs.get? n).isSome = true → ∀ e ∈ s'.groups, e.2.ctx ≠ n

theorem State.Loses.unbinds {s t u : State} {l : List Nat} (h : s.Loses l t) (hu : t.Unbinds u) : s.Loses l u := by
  obtain ⟨b, y, x, w, q, a, rfl, hq⟩ := hu
  exact { h with hq := fun hs => hq (h.hq hs) }

theorem State.loseCtx_loses (s : State) (ctx : Nat) : s.Loses [ctx] (s.loseCtx ctx) := by
  unfold State.loseCtx
  split
  · next hc =>
    refine ⟨rfl, rfl, rfl, rfl, rfl, id, fun n => ?_, fun _ h => h, fun n hn h => ?_⟩
    · split
      · next hn => rw [List.mem_singleton.1 hn, hc]; rfl
      · rfl
    · rw [List.mem_singleton.1 hn, hc] at h
      exact absurd h (by simp)
  · next c hc =>
    extract_lets gids tids grids gridIds books owed s1 s2
    have hlost : s.Loses [ctx] s1 := by
      refine ⟨rfl, rfl, rfl, rfl, rfl, id, fun n => ?_, List.filter_subset_self _, fun n hn _ e he => ?_⟩
      · refine (Map.get?_set s.ctxs ctx n c.lose).trans ?_
        simp only [List.mem_singleton, eq_comm (a := n)]
        split
        · next hn => rw [← hn, hc]; rfl
        · rfl
      · obtain rfl := List.mem_singleton.1 hn
        simpa using (List.mem_filter.1 he).2
    have hend : s1.Unbinds s2 := (State.unbinds_foldl _ _ State.unbinds_unbind s1).trans
      (State.unbinds_foldl _ _ (fun v (e : Nat × Grid) => v.unbinds_endCommand ctx e.2) _)
    refine (hlost.unbinds hend).unbinds (State.unbinds_foldl _ _ (fun v j => ?_) s2)
    split
    · exact v.unbinds_complete ..
    · exact .refl v

theorem State.Loses.trans {s t u : State} {l r : List Nat} (h1 : s.Loses l t) (h2 : t.Loses r u) : s.Loses (l ++ r) u where
  host := h2.host.trans h1.host
  dram := h2.dram.trans h1.dram
  flash := h2.flash.trans h1.flash
  quadOwner := h2.quadOwner.trans h1.quadOwner
  bias := h2.bias.trans h1.bias
  hq h := h2.hq (h1.hq h)
  ctxs n := by
    have hlose : ∀ c : Ctx, c.lose.lose = c.lose := fun _ => rfl
    rw [h2.ctxs, h1.ctxs]
    by_cases hl : n ∈ l <;> by_cases hr : n ∈ r <;> simp [hl, hr, Function.comp_def, hlose]
  groups _ he := h1.groups (h2.groups he)
  gone n hn hsome e he := by
    rcases List.mem_append.1 hn with hn | hn
    · exact h1.gone n hn hsome e (h2.groups he)
    · refine h2.gone n hn ?_ e he
      rw [h1.ctxs]
      split
      · rwa [Option.isSome_map]
      · exact hsome

theorem State.loseCtx_fold (l : List (Nat × Ctx)) (s : State) : s.Loses (l.map fun e => e.1) (l.foldl (fun s e => s.loseCtx e.1) s) := by
  induction l generalizing s with
  | nil => exact ⟨rfl, rfl, rfl, rfl, rfl, id, fun _ => rfl, fun _ h => h, nofun⟩
  | cons e r ih => exact (s.loseCtx_loses e.1).trans (ih (s.loseCtx e.1))

/-- Every context that a predicate selects is lost. -/
theorem State.loseAll_loses (s : State) (f : Ctx → Bool) : s.Loses ((s.ctxs.filter fun e => f e.2).map fun e => e.1) (s.loseAll f) :=
  State.loseCtx_fold _ s

/-! ## VF_FLR -/

/-- The running contexts of a function. -/
def State.runningOf (s : State) (vf : Nat) : List Nat := (s.ctxs.filter fun e => e.2.fn == vf && e.2.state == .running).map fun e => e.1

theorem State.mem_runningOf {s : State} (h : Map.sorted s.ctxs = true) {vf k : Nat} : k ∈ s.runningOf vf ↔
    ∃ c, s.ctxs.get? k = some c ∧ c.fn = vf ∧ c.state = .running := by
  simp [State.runningOf, Map.get?_eq_some_iff h]

/-- The running contexts of a function switched out: none, or contexts whose teams have nothing in flight. -/
theorem State.switchOut_runningOf {s : State} {vf : Nat} (hsorted : Map.sorted s.ctxs = true)
    (h : (∀ e ∈ s.ctxs, e.2.fn = vf → e.2.state ≠ .running) ∨ s.SavesCleanly fun t => ∃ c, s.ctxs.get? t.ctx = some c ∧ c.fn = vf) :
    s.SavesOf (s.runningOf vf) (s.switchOutAll (s.runningOf vf)) ∧ (s.dram.wf = true → s.savedOnly (s.switchOutAll (s.runningOf vf))) := by
  rcases h with hnone | ⟨hteams, hdeques, hstill⟩
  · have hnil : s.runningOf vf = [] := by
      simp only [State.runningOf, List.map_eq_nil_iff, List.filter_eq_nil_iff, Bool.and_eq_true, beq_iff_eq, not_and]
      exact hnone
    rw [hnil, State.switchOutAll_nil]
    exact ⟨.refl s [], fun _ => ⟨rfl, rfl, fun _ _ => rfl⟩⟩
  · refine State.switchOutAll_of_clean ⟨hteams, hdeques, fun k t ht hrun hmem => hstill k t ht hrun ?_⟩
    obtain ⟨c, hc, hfn, -⟩ := (State.mem_runningOf hsorted).1 (List.contains_iff_mem.1 hmem)
    exact ⟨c, hc, hfn⟩

/-- The state after a virtual function's reset (R506): its running contexts switched out, all of its contexts lost, its registers reset. -/
def State.resetVf (s : State) (vf : Nat) : State :=
  let t := (s.switchOutAll (s.runningOf vf)).loseAll fun c => c.fn == vf
  { t with hq := t.hq.erase vf, bias := t.bias.erase vf }

theorem execVfFlr_of_alive {s : State} {vf : Nat} (h1 : 1 ≤ vf) (h16 : vf ≤ 16) (hdead : s.dead = false) : execVfFlr vf s = .next (s.resetVf vf) := by
  rw [execVfFlr, if_neg]
  · rfl
  · rintro (h | h | h)
    · omega
    · omega
    · simp [hdead] at h

/-- What a virtual function's reset leaves (R506). -/
theorem State.resetVf_spec {s : State} {vf : Nat} (hctxs : Map.sorted s.ctxs = true) (hhq : Map.sorted s.hq = true) (hbias : Map.sorted s.bias = true)
    (h : (∀ e ∈ s.ctxs, e.2.fn = vf → e.2.state ≠ .running) ∨ s.SavesCleanly fun t => ∃ c, s.ctxs.get? t.ctx = some c ∧ c.fn = vf) :
    (s.resetVf vf).quadOwner = s.quadOwner ∧ (s.dram.wf = true → s.savedOnly (s.resetVf vf)) ∧ (s.resetVf vf).queueOf vf = HostQueue.reset ∧
      (s.resetVf vf).biasOf vf = BiasRegs.reset ∧
      ∀ k c, s.ctxs.get? k = some c → (c.fn ≠ vf → (s.resetVf vf).ctxs.get? k = some c) ∧
        (c.fn = vf → ∃ c', (s.resetVf vf).ctxs.get? k = some c' ∧ c'.state = .lost ∧ ∀ e ∈ (s.resetVf vf).groups, e.2.ctx ≠ k) := by
  obtain ⟨hout, hmem⟩ := State.switchOut_runningOf hctxs h
  set t := s.switchOutAll (s.runningOf vf)
  have hlost := t.loseAll_loses fun c => c.fn == vf
  set l := (t.ctxs.filter fun e => e.2.fn == vf).map fun e => e.1 with hl
  have hmem_l {k : Nat} {c : Ctx} (hc : s.ctxs.get? k = some c) : k ∈ l ↔ c.fn = vf := by
    have hfn : (t.ctxs.get? k).map Ctx.fn = some c.fn := by rw [hout.fn, hc]; rfl
    obtain ⟨d, hd, hdfn⟩ := Option.map_eq_some_iff.1 hfn
    have hkeys : k ∈ l ↔ ∃ d, t.ctxs.get? k = some d ∧ d.fn = vf := by
      simp [hl, Map.get?_eq_some_iff (hout.sorted hctxs)]
    rw [hkeys, hd, ← hdfn]
    simp
  refine ⟨hlost.quadOwner.trans hout.quadOwner, fun hw => ?_, ?_, ?_, fun k c hc => ⟨fun hfn => ?_, fun hfn => ?_⟩⟩
  · obtain ⟨hhost, hflash, hdram⟩ := hmem hw
    exact ⟨hlost.host.trans hhost, hlost.flash.trans hflash, fun a ha => (congrArg (fun m : Memory => m.get a) hlost.dram).trans (hdram a ha)⟩
  · have hs : Map.sorted (t.loseAll fun c => c.fn == vf).hq = true := hlost.hq (hout.hq ▸ hhq)
    exact (Map.getD_eq ..).trans (congrArg (Option.getD · HostQueue.reset) (Map.get?_erase_self _ vf hs))
  · have hs : Map.sorted (t.loseAll fun c => c.fn == vf).bias = true := by rw [hlost.bias, hout.bias]; exact hbias
    exact (Map.getD_eq ..).trans (congrArg (Option.getD · BiasRegs.reset) (Map.get?_erase_self _ vf hs))
  · have hkept := hlost.ctxs k
    rw [if_neg (mt (hmem_l hc).1 hfn), hout.others k, hc] at hkept
    · exact hkept
    · rw [State.mem_runningOf hctxs]
      rintro ⟨d, hd, hdfn, -⟩
      exact hfn (Option.some.inj (hc.symm.trans hd) ▸ hdfn)
  · have hkey := (hmem_l hc).2 hfn
    have hsome : (t.ctxs.get? k).isSome = true := by
      have hmap : ((t.ctxs.get? k).map Ctx.fn).isSome = true := by rw [hout.fn, hc]; rfl
      rwa [Option.isSome_map] at hmap
    obtain ⟨d, hd⟩ := Option.isSome_iff_exists.1 hsome
    have hval := hlost.ctxs k
    rw [if_pos hkey, hd] at hval
    exact ⟨d.lose, hval, rfl, hlost.gone k hkey hsome⟩

/-! ## PF_FLR -/

theorem execPfFlr_spec (s : State) : ∃ s', execPfFlr s = .next s' ∧ s.sameMemory s' ∧ s'.groups = [] ∧ s'.teams = [] ∧ s'.grids = [] ∧
    s'.ctxs = [] ∧ s'.books = [] ∧ s'.hq = [] ∧ s'.stops = [] ∧ s'.quadOwner = [] ∧ s'.power = [] ∧ s'.linkEnds = [] ∧ s'.ready = [] ∧
    s'.failed = [] ∧ s'.hdm = none ∧ s'.wsEn = false ∧ s'.dead = false ∧ s'.serving = false ∧
    s'.boot = ⟨true, 0, 0, 0, false, s.boot.count + 1, Config.prof700 (s.boot.count + 1), s.boot.image⟩ :=
  ⟨_, rfl, ⟨rfl, rfl, rfl, rfl⟩, rfl, rfl, rfl, rfl, rfl, rfl, rfl, rfl, rfl, rfl, rfl, rfl, rfl, rfl, rfl, rfl, rfl⟩

end Sys2Proof.Machine
end

section
/-! PROOFS. Power, boot and resets (R92 to R95, R130, R506, R527 to R545): the statement. -/

namespace Sys2Proof.Machine

/-- Settles O55: each clause is what the lemmas about its event say. Two carry the weight: what the step of a transition and the passing of the permit
leave of a quad (Progress), and what is left of a function's contexts once they are switched out and lost (SavesOf, Loses). -/
theorem powerAndBoot : Obligations.PowerAndBoot := by
  unfold Obligations.PowerAndBoot
  refine ⟨?ways, ?qctl, ?transition, ?steps, ?drowsy, ?boot, ?functions, ?vfFlr, ?pfFlr, ?spdm, ?measurements⟩
  case ways =>
    intro s die slice ways hdie hslice w put
    refine ⟨fun hmore hways => ?grow, fun hfewer => ?shrink, fun hbusy hmapped => ?growEnds, fun hbusy hmapped => ?shrinkEnds⟩
    case grow =>
      have hexec : exec (.lyrWaypartGrow die slice ways) s = .next (s.waypartWrite die slice ways) :=
        execLyrWaypartGrow_of_more hdie hslice hmore hways
      rw [hexec]
      refine ⟨fun hbusy => ?_, fun hidle hfloor => ?_⟩
      · rw [State.waypartWrite_of_busy hbusy]
        rfl
      · rw [State.waypartWrite_of_more hidle hfloor hmore]
        rfl
    case shrink =>
      have hexec : exec (.lyrWaypartShrink die slice ways) s = .next (s.waypartWrite die slice ways) :=
        execLyrWaypartShrink_of_fewer hdie hslice hfewer
      rw [hexec]
      refine ⟨fun hbusy => ?_, fun hidle hlow => ?_, fun hidle hfloor => ?_⟩
      · rw [State.waypartWrite_of_busy hbusy]
        rfl
      · rw [State.waypartWrite_of_low hidle hlow]
        rfl
      · refine ⟨_, rfl, ?_⟩
        rw [State.waypartWrite_of_fewer hidle hfloor hfewer]
        obtain ⟨a, ha, -⟩ := State.wakes_push _ (.layerShrink die slice)
        rw [ha]
        exact ⟨rfl, rfl, s.dropMib_layer die slice hfewer.le⟩
    case growEnds => exact ⟨_, execLayerGrowComplete_of_busy hbusy hmapped, rfl, rfl, s.dropMib_layer die slice hmapped.le⟩
    case shrinkEnds => exact execLayerShrinkBusyEnd_of_busy hbusy hmapped
  case qctl =>
    intro s quad val hquad p
    refine ⟨fun hbad => execPwrQctlWrite_of_bad hquad hbad, fun hok => ?_⟩
    obtain ⟨s', n, aim, hexec, honly, hpower⟩ := execPwrQctlWrite_spec (s := s) hquad hok
    refine ⟨s', hexec, ?_⟩
    simp only [hpower]
    refine ⟨rfl, rfl, rfl, rfl, rfl, rfl, rfl, rfl, rfl, rfl, ?_, honly.frame⟩
    rw [Bool.not_eq_true', decide_eq_false_iff_not]
    exact Iff.rfl
  case transition =>
    intro s quad p d
    refine ⟨execPwrTransitionStep_of_idle, fun hbusy => ?_⟩
    obtain ⟨s', n, aim, hexec, honly, hheld, hn, hpower⟩ := execPwrTransitionStep_spec hbusy
    refine ⟨s', hexec, ?_⟩
    rw [State.PermitHeld] at hheld
    simp only [hpower] at hheld ⊢
    refine ⟨rfl, rfl, rfl, rfl, rfl, ?_, hn, hheld, honly.frame⟩
    rw [Bool.not_eq_true', decide_eq_false_iff_not]
    exact Iff.rfl
  case steps =>
    intro p
    refine ⟨p.stepDone_keeps.1, fun h => ?_, fun h => ?_, fun h => ?_, p.nextStep_eq_zero_iff, Power.nextStep_eq_two, Power.nextStep_eq_six⟩
    · rcases h with h | h <;> simp [Power.stepDone, h]
    · simp [Power.stepDone, h]
    · simp [Power.stepDone, h]
  case drowsy =>
    intro s die core sub bank hdie hcore hsub hbank hwait hfresh key isOff
    have hexec : exec (.bankDrowsyEntry die core sub bank) s = _ := execBankDrowsyEntry_eq hdie hcore hsub hbank hwait hfresh
    rw [hexec]
    have hbusy : (s.groups.any (fun e => e.2.placed && e.2.stage.isSome && e.2.banks.contains key) || s.bankIsOff (12 * die + core / 4) key) = true ↔
        (∃ e ∈ s.groups, e.2.placed = true ∧ e.2.stage.isSome = true ∧ key ∈ e.2.banks) ∨ isOff := by
      rw [Bool.or_eq_true, State.bankInUse_iff, State.bankIsOff_iff]
    refine ⟨fun hnone hon => if_neg (mt hbusy.1 ?_), fun h => if_pos (hbusy.2 h)⟩
    rintro (⟨e, he, huse⟩ | hoff)
    · exact hnone e he huse
    · exact hon hoff
  case boot =>
    intro s
    refine ⟨fun hstopped => ?_, fun hstarted => ⟨?_, State.bootImage_stored, fun hhost s1 b => State.bootImage_host hhost,
      fun hhost s1 => State.bootImage_refused hhost, fun s1 => execBootVerifyComplete_of_fail hstarted, fun hstate s1 img himage => ?_,
      execBootImgGo_of_waiting hstarted, execBootImgGo_of_not_waiting⟩⟩
    · exact if_neg (by simp [hstopped])
    · exact if_pos hstarted
    · exact ⟨execBootVerifyComplete_of_good hstarted hstate himage, execBootVerifyComplete_of_bad hstarted hstate himage,
        fun ok err => execBootVerifyComplete_of_other hstarted hstate himage⟩
  case functions =>
    intro s u hserving hexists hready hfailed hmay
    refine ⟨fun hfails => ⟨_, execFunctionReady_of_good hserving hexists hready hfailed hmay hfails, rfl, ?_⟩,
      _, execFunctionReady_of_failed hserving hexists hready hfailed hmay, rfl, ?_⟩
    · obtain ⟨hkeepFailed, hhost, hflash⟩ := s.unitReady_keeps u
      refine ⟨hkeepFailed, hhost, hflash, s.unitReady_dram u, ?_, ?_, ?_⟩
      · rintro die k rfl a ha
        exact s.unitReady_layer die k ha
      · rintro die q rfl k hk
        exact s.unitReady_cycles die q hk
      · rintro die k m rfl
        exact s.unitReady_linkEnd die k m
    · obtain ⟨hkeepReady, hmemory⟩ := s.unitFailed_keeps u
      refine ⟨hkeepReady, hmemory, ?_⟩
      rintro die k m rfl
      exact s.unitFailed_linkEnd die k m
  case vfFlr =>
    intro s vf h1 h16 hdead hctxs hhq hbias h
    exact ⟨_, execVfFlr_of_alive h1 h16 hdead, State.resetVf_spec hctxs hhq hbias h⟩
  case pfFlr => exact execPfFlr_spec
  case spdm =>
    intro s req i version code h
    obtain ⟨b, hanswer, body, hb⟩ : ∃ b, SpdmAnswer s req i b ∧ ∃ body, b = version :: code :: body := by
      rcases h with ⟨rfl, rfl, rfl⟩ | ⟨rfl, rfl, rfl⟩ | ⟨rfl, rfl, rfl⟩ | ⟨rfl, rfl, rfl⟩ | ⟨rfl, rfl, rfl⟩ | ⟨rfl, rfl, rfl⟩ | ⟨rfl, rfl, rfl⟩
      · exact ⟨_, .version, _, rfl⟩
      · exact ⟨_, .capabilities, _, rfl⟩
      · exact ⟨_, .algorithms, _, rfl⟩
      · exact ⟨_, .digests, _, rfl⟩
      · exact ⟨_, .certificate, _, rfl⟩
      · exact ⟨_, .challenge, _, rfl⟩
      · exact ⟨_, .measurements, s.measurementsAnswer_cons req⟩
    rw [hanswer.exec_eq]
    refine ⟨fun hdown => ?_, fun hserving => ⟨body, ?_⟩⟩
    · rw [State.answerSpdm_of_not_serving hdown]
    · rw [State.answerSpdm_of_serving hserving, hb]
  case measurements =>
    intro s req hserving
    refine ⟨rfl, rfl, rfl, rfl, fun hindex hplain => ?_⟩
    have hexec : exec (.spdmGetMeasurements req) s = .next (s.answerSpdm (s.measurementsAnswer req)) := rfl
    rw [hexec, State.answerSpdm_of_serving hserving, s.measurementsAnswer_image hindex hplain]

end Sys2Proof.Machine
end

section
/-! PROOFS. What is read back from the words of each class of encodings (R161 to R178). -/

namespace Sys2Proof

/-! ## The fields of the two words (R161) -/

theorem getLsbD_append_high {v w i : Nat} {x : BitVec v} {y : BitVec w} (h : w ≤ i) : (x ++ y).getLsbD i = x.getLsbD (i - w) := by
  rw [BitVec.getLsbD_append, if_neg (by omega)]

theorem getLsbD_append_low {v w i : Nat} {x : BitVec v} {y : BitVec w} (h : i < w) : (x ++ y).getLsbD i = y.getLsbD i := by
  rw [BitVec.getLsbD_append, if_pos h]

@[simp] theorem getLsbD_ofBool_zero (b : Bool) : (BitVec.ofBool b).getLsbD 0 = b := by simp

section
variable (op d a b c : BitVec 8) (g : Guard) (mod : BitVec 4) (spec : BitVec 16)

@[simp] theorem fOp_word1 : fOp (word1 op d a b) = op := by
  simp (disch := decide) only [fOp, word1, BitVec.extractLsb'_append_eq_of_le, Nat.reduceSub, BitVec.extractLsb'_eq_self]

@[simp] theorem fD_word1 : fD (word1 op d a b) = d := by
  simp (disch := decide) only [fD, word1, BitVec.extractLsb'_append_eq_of_le, Nat.reduceSub, BitVec.extractLsb'_append_eq_right]

@[simp] theorem fA_word1 : fA (word1 op d a b) = a := by
  simp (disch := decide) only [fA, word1, BitVec.extractLsb'_append_eq_of_le, Nat.reduceSub, BitVec.extractLsb'_append_eq_right]

@[simp] theorem fB_word1 : fB (word1 op d a b) = b := BitVec.extractLsb'_append_eq_right

@[simp] theorem fC_word2 : fC (word2 c g mod spec) = c := by
  simp (disch := decide) only [fC, word2, BitVec.extractLsb'_append_eq_of_le, Nat.reduceSub, BitVec.extractLsb'_eq_self]

@[simp] theorem fGuard_word2 : fGuard (word2 c g mod spec) = g := by
  simp (disch := decide) only [fGuard, word2, BitVec.extractLsb'_append_eq_of_le, Nat.reduceSub, BitVec.extractLsb'_append_eq_right,
    getLsbD_append_high, getLsbD_append_low, getLsbD_ofBool_zero]

@[simp] theorem fMod_word2 : fMod (word2 c g mod spec) = mod := by
  simp (disch := decide) only [fMod, word2, BitVec.extractLsb'_append_eq_of_le, Nat.reduceSub, BitVec.extractLsb'_append_eq_right]

@[simp] theorem fSpec_word2 : fSpec (word2 c g mod spec) = spec := BitVec.extractLsb'_append_eq_right

end

/-! ## Operand fields (R164 to R166, R177) -/

@[simp] theorem lo7_reg8 (n : BitVec 7) : lo7 (reg8 n) = n := BitVec.extractLsb'_append_eq_right

@[simp] theorem lo3_low3 (n : BitVec 3) : lo3 (low3 n) = n := BitVec.extractLsb'_append_eq_right

@[simp] theorem lo2_low2 (n : BitVec 2) : lo2 (low2 n) = n := BitVec.extractLsb'_append_eq_right

theorem reg8_class (n : BitVec 7) : (reg8 n).getLsbD 7 = false := getLsbD_append_high (Nat.le_refl 7)

/-- The field of a channel: CLASS, bit 6 and the channel's number (R164). -/
theorem chanField (n6 : Bool) (n : BitVec 6) :
    let x : BitVec 8 := (1 : BitVec 1) ++ BitVec.ofBool n6 ++ n
    x.getLsbD 7 = true ∧ x.getLsbD 6 = n6 ∧ x.extractLsb' 0 6 = n := by
  refine ⟨?_, ?_, BitVec.extractLsb'_append_eq_right⟩
  · simp (disch := decide) only [getLsbD_append_high, Nat.reduceSub]
    rfl
  · simp (disch := decide) only [getLsbD_append_high, getLsbD_append_low, Nat.reduceSub, getLsbD_ofBool_zero]

/-- The field of an indexed register: the index register and the offset (R166). -/
theorem idxField (x : BitVec 2) (off : BitVec 6) :
    let y : BitVec 8 := x ++ off
    y.extractLsb' 6 2 = x ∧ y.extractLsb' 0 6 = off :=
  ⟨BitVec.extractLsb'_append_eq_left, BitVec.extractLsb'_append_eq_right⟩

/-- An immediate and BIMM of SPEC (R171, R367). -/
theorem immSpec (v : BitVec 15) :
    let x : BitVec 16 := (1 : BitVec 1) ++ v
    x.getLsbD 15 = true ∧ x.extractLsb' 0 15 = v :=
  ⟨getLsbD_append_high (Nat.le_refl 15), BitVec.extractLsb'_append_eq_right⟩

@[simp] theorem Operand.ofBits_bits (o : Operand) : Operand.ofBits o.bits = o := by
  cases o with
  | reg n => simp only [Operand.ofBits, Operand.bits, reg8_class, lo7_reg8, Bool.false_eq_true, if_false]
  | chan n6 n =>
    obtain ⟨h7, h6, h0⟩ := chanField n6 n
    simp only [Operand.ofBits, Operand.bits, h7, h6, h0, if_true]

theorem LDst.ofBits_bits (o : LDst) : LDst.ofBits o.bits o.isIdx = o := by
  cases o with
  | reg n => simp only [LDst.ofBits, LDst.bits, LDst.isIdx, reg8_class, lo7_reg8, Bool.false_eq_true, if_false]
  | chan n6 n =>
    obtain ⟨h7, h6, h0⟩ := chanField n6 n
    simp only [LDst.ofBits, LDst.bits, LDst.isIdx, h7, h6, h0, if_true, Bool.false_eq_true, if_false]
  | idx x off =>
    obtain ⟨h6, h0⟩ := idxField x off
    simp only [LDst.ofBits, LDst.bits, LDst.isIdx, h6, h0, if_true]

theorem LSrc.ofBits_bits (o : LSrc) (h : o.isImm = false) : LSrc.ofBits o.bits o.isIdx o.isUni = o := by
  cases o with
  | reg n => simp only [LSrc.ofBits, LSrc.bits, LSrc.isIdx, LSrc.isUni, reg8_class, lo7_reg8, Bool.false_eq_true, if_false]
  | chan n6 n =>
    obtain ⟨h7, h6, h0⟩ := chanField n6 n
    simp only [LSrc.ofBits, LSrc.bits, LSrc.isIdx, LSrc.isUni, h7, h6, h0, if_true, Bool.false_eq_true, if_false]
  | idx x off =>
    obtain ⟨h6, h0⟩ := idxField x off
    simp only [LSrc.ofBits, LSrc.bits, LSrc.isIdx, h6, h0, if_true]
  | uni n => simp only [LSrc.ofBits, LSrc.bits, LSrc.isIdx, LSrc.isUni, lo7_reg8, if_true, Bool.false_eq_true, if_false]
  | imm v => cases h

theorem VReg.ofBits_bits (o : VReg) : VReg.ofBits o.bits o.isIdx = o := by
  cases o with
  | reg n => simp only [VReg.ofBits, VReg.bits, VReg.isIdx, lo7_reg8, Bool.false_eq_true, if_false]
  | idx x off =>
    obtain ⟨h6, h0⟩ := idxField x off
    simp only [VReg.ofBits, VReg.bits, VReg.isIdx, h6, h0, if_true]

@[simp] theorem USrc.ofBits_bits (o : USrc) : USrc.ofBits o.bits o.spec = o := by
  have hreg : (0 : BitVec 16).getLsbD 15 = false := rfl
  cases o with
  | reg n => simp only [USrc.ofBits, USrc.bits, USrc.spec, hreg, reg8_class, lo7_reg8, Bool.false_eq_true, if_false]
  | chan n6 n =>
    obtain ⟨h7, h6, h0⟩ := chanField n6 n
    simp only [USrc.ofBits, USrc.bits, USrc.spec, hreg, h7, h6, h0, if_true, Bool.false_eq_true, if_false]
  | imm v =>
    obtain ⟨h15, h0⟩ := immSpec v
    simp only [USrc.ofBits, USrc.spec, h15, h0, if_true]

@[simp] theorem imm15Of_imm15Spec (imm : Option (BitVec 15)) : imm15Of (imm15Spec imm) = imm := by
  cases imm with
  | none => rfl
  | some v =>
    obtain ⟨h15, h0⟩ := immSpec v
    simp only [imm15Of, imm15Spec, h15, h0, if_true]

@[simp] theorem Space.ofBits_bits (sp : Space) : Space.ofBits sp.bits = some sp := by
  cases sp <;> rfl

/-! ## Class LX and the lane XF twin (R166, R171) -/

/-- The operands of class LX that words can hold: XSEL names one field at most, A is no broadcast and no immediate, C is no indexed register
and no immediate, and the table of bool3 stands where IMMLO would (R166, R229). -/
structure LX.Encodable (f : LX) : Prop where
  oneIdx : f.oneIdx = true
  aUni : f.a.isUni = false
  aImm : f.a.isImm = false
  cIdx : f.c.isIdx = false
  cImm : f.c.isImm = false
  tab : f.b.isImm = true → f.tab = 0

/-- What XSEL says, where it names one field at most (R166). -/
theorem LX.xsel_names {f : LX} (h : f.oneIdx = true) :
    (f.xsel == 1) = f.d.isIdx ∧ (f.xsel == 2) = f.a.isIdx ∧ (f.xsel == 3) = f.b.isIdx := by
  simp only [LX.oneIdx, decide_eq_true_eq] at h
  unfold LX.xsel
  cases hd : f.d.isIdx <;> cases ha : f.a.isIdx <;> cases hb : f.b.isIdx <;> simp_all

/-- The fields of SPEC of class LX (R166). -/
theorem LX.spec_fields (f : LX) :
    f.spec.getLsbD 15 = f.b.isUni ∧ f.spec.getLsbD 14 = f.c.isUni ∧ f.spec.getLsbD 13 = f.b.isImm ∧ f.spec.extractLsb' 11 2 = f.xsel ∧
      f.spec.extractLsb' 8 3 = f.reuse ∧ f.spec.extractLsb' 0 8 = f.immlo := by
  refine ⟨?_, ?_, ?_, ?_, ?_, ?_⟩ <;>
    simp (disch := decide) only [LX.spec, BitVec.extractLsb'_append_eq_of_le, BitVec.extractLsb'_append_eq_right, getLsbD_append_high,
      getLsbD_append_low, getLsbD_ofBool_zero, Nat.reduceSub]

/-- B with its immediate, of which SPEC holds the low half (R166). -/
theorem LX.b_of_bits (f : LX) :
    (if f.b.isImm then .imm (f.b.bits ++ f.immlo) else LSrc.ofBits f.b.bits f.b.isIdx f.b.isUni) = f.b := by
  cases hb : f.b.isImm with
  | false => rw [if_neg Bool.false_ne_true]; exact LSrc.ofBits_bits f.b hb
  | true =>
    rw [if_pos rfl]
    unfold LX.immlo
    cases hfb : f.b with
    | imm v => exact congrArg LSrc.imm ((BitVec.extractLsb'_append_extractLsb'_eq_extractLsb' rfl).trans BitVec.extractLsb'_eq_self)
    | reg _ | chan _ _ | idx _ _ | uni _ => rw [hfb] at hb; cases hb

theorem LX.tab_of_immlo {f : LX} (h : f.b.isImm = true → f.tab = 0) : (if f.b.isImm then 0 else f.immlo) = f.tab := by
  unfold LX.immlo
  cases hb : f.b with
  | imm v => rw [hb] at h; exact (h rfl).symm
  | reg _ | chan _ _ | idx _ _ | uni _ => rfl

theorem LX.ofWords_words {f : LX} (h : f.Encodable) (op cw : BitVec 8) (c : LSrc) :
    LX.ofWords (word1 op f.d.bits f.a.bits f.b.bits) (word2 cw f.guard f.mod f.spec) c = { f with c := c } := by
  obtain ⟨hbu, hcu, himm, hxs, hreuse, hlo⟩ := f.spec_fields
  obtain ⟨hd, ha, hb⟩ := LX.xsel_names h.oneIdx
  have hA := LSrc.ofBits_bits f.a h.aImm
  rw [h.aUni] at hA
  simp only [LX.ofWords, fD_word1, fA_word1, fB_word1, fGuard_word2, fMod_word2, fSpec_word2, hbu, himm, hxs, hreuse, hlo, hd, ha, hb,
    LDst.ofBits_bits, hA, LX.b_of_bits, LX.tab_of_immlo h.tab]

theorem LX.read_words {f : LX} (h : f.Encodable) (op : BitVec 8) :
    LX.read (word1 op f.d.bits f.a.bits f.b.bits) (word2 f.c.bits f.guard f.mod f.spec) = f := by
  obtain ⟨-, hcu, -⟩ := f.spec_fields
  have hC := LSrc.ofBits_bits f.c h.cImm
  rw [h.cIdx] at hC
  rw [LX.read, LX.ofWords_words h, fC_word2, fSpec_word2, hcu, hC]

theorem LX.readXf_words {f : LX} (h : f.Encodable) (hc : f.c = .reg 0) (op cw : BitVec 8) :
    LX.readXf (word1 op f.d.bits f.a.bits f.b.bits) (word2 cw f.guard f.mod f.spec) = f := by
  rw [LX.readXf, LX.ofWords_words h, ← hc]

/-! ## Classes LC, LM and UM and the atomic layout (R174, R177, R178, R206) -/

/-- What XSEL says of two fields of which one at most is indexed (R174, R177). -/
theorem xsel_names_two {d c : VReg} (h : d.isIdx.toNat + c.isIdx.toNat ≤ 1) :
    let xs : BitVec 2 := if d.isIdx then 1 else if c.isIdx then 2 else 0
    (xs == 1) = d.isIdx ∧ (xs == 2) = c.isIdx := by
  cases hd : d.isIdx <;> cases hc : c.isIdx <;> simp_all

/-- XSEL and REUSE of class LC (R174). -/
theorem LC.spec_fields (xs : BitVec 2) (reuse : Bool) :
    let sp : BitVec 16 := (0 : BitVec 3) ++ xs ++ BitVec.ofBool reuse ++ (0 : BitVec 10)
    sp.extractLsb' 11 2 = xs ∧ sp.getLsbD 10 = reuse := by
  refine ⟨?_, ?_⟩ <;>
    simp (disch := decide) only [BitVec.extractLsb'_append_eq_of_le, BitVec.extractLsb'_append_eq_right, getLsbD_append_high, getLsbD_append_low,
      getLsbD_ofBool_zero, Nat.reduceSub]

theorem LC.read_words {f : LC} (h : f.d.isIdx.toNat + f.a.isIdx.toNat ≤ 1) (op : BitVec 8) :
    LC.read (f.words op).1 ((f.words op).2.getD 0) = f := by
  obtain ⟨hd, ha⟩ := xsel_names_two h
  obtain ⟨hxs, hreuse⟩ := LC.spec_fields (if f.d.isIdx then 1 else if f.a.isIdx then 2 else 0) f.reuse
  simp only [LC.read, LC.words, Option.getD_some, fD_word1, fA_word1, fB_word1, fC_word2, fGuard_word2, fMod_word2, fSpec_word2, hxs, hreuse, hd, ha,
    VReg.ofBits_bits]

/-- HINT and the field beside it in MOD (R177, R178, R206). -/
theorem hintField (hint x : BitVec 2) :
    let m : BitVec 4 := hint ++ x
    m.extractLsb' 2 2 = hint ∧ m.extractLsb' 0 2 = x :=
  ⟨BitVec.extractLsb'_append_eq_left, BitVec.extractLsb'_append_eq_right⟩

/-- The fields of SPEC of class LM (R177). -/
theorem LM.spec_fields (sp xs : BitVec 2) (au idx : Bool) (off : BitVec 10) :
    let x : BitVec 16 := sp ++ BitVec.ofBool au ++ BitVec.ofBool idx ++ xs ++ off
    x.extractLsb' 14 2 = sp ∧ x.getLsbD 13 = au ∧ x.getLsbD 12 = idx ∧ x.extractLsb' 10 2 = xs ∧ x.extractLsb' 0 10 = off := by
  refine ⟨?_, ?_, ?_, ?_, ?_⟩ <;>
    simp (disch := decide) only [BitVec.extractLsb'_append_eq_of_le, BitVec.extractLsb'_append_eq_right, BitVec.extractLsb'_eq_self,
      getLsbD_append_high, getLsbD_append_low, getLsbD_ofBool_zero, Nat.reduceSub]

/-- The words of class LM read with its own fields D and C, whatever the words hold in their places. -/
theorem LM.readWith_wordsWith {f : LM} (h : f.d.isIdx.toNat + f.c.isIdx.toNat ≤ 1) (op dw cw : BitVec 8) :
    LM.readWith (f.wordsWith op dw cw).1 ((f.wordsWith op dw cw).2.getD 0) f.d.bits f.c.bits = some f := by
  obtain ⟨hd, hc⟩ := xsel_names_two h
  obtain ⟨hhint, horder⟩ := hintField f.hint f.order
  obtain ⟨hsp, hau, hidx, hxs, hoff⟩ := LM.spec_fields f.space.bits (if f.d.isIdx then 1 else if f.c.isIdx then 2 else 0) f.au f.idx f.off
  simp only [LM.readWith, LM.wordsWith, Option.getD_some, fA_word1, fB_word1, fGuard_word2, fMod_word2, fSpec_word2, hsp, hau, hidx, hxs, hoff, hd, hc,
    hhint, horder, lo7_reg8, VReg.ofBits_bits, Space.ofBits_bits, Option.bind_eq_bind, Option.bind_some]

theorem LM.read_words {f : LM} (h : f.d.isIdx.toNat + f.c.isIdx.toNat ≤ 1) (op : BitVec 8) :
    LM.read (f.words op).1 ((f.words op).2.getD 0) = some f := by
  have hread := LM.readWith_wordsWith h op f.d.bits f.c.bits
  rwa [LM.read, show fD (f.words op).1 = f.d.bits from fD_word1 _ _ _ _, show fC ((f.words op).2.getD 0) = f.c.bits from fC_word2 _ _ _ _]

/-- The fields of SPEC of the atomic layout (R206). -/
theorem LA.spec_fields (sp width : BitVec 2) (au : Bool) (scope : BitVec 3) (off : BitVec 8) :
    let x : BitVec 16 := sp ++ BitVec.ofBool au ++ width ++ scope ++ off
    x.extractLsb' 14 2 = sp ∧ x.getLsbD 13 = au ∧ x.extractLsb' 11 2 = width ∧ x.extractLsb' 8 3 = scope ∧ x.extractLsb' 0 8 = off := by
  refine ⟨?_, ?_, ?_, ?_, ?_⟩ <;>
    simp (disch := decide) only [BitVec.extractLsb'_append_eq_of_le, BitVec.extractLsb'_append_eq_right, BitVec.extractLsb'_eq_self,
      getLsbD_append_high, getLsbD_append_low, getLsbD_ofBool_zero, Nat.reduceSub]

theorem LA.read_words (f : LA) (op c : BitVec 8) : LA.read (f.words op c).1 ((f.words op c).2.getD 0) = some f := by
  obtain ⟨hhint, horder⟩ := hintField f.hint f.order
  obtain ⟨hsp, hau, hwidth, hscope, hoff⟩ := LA.spec_fields f.space.bits f.width f.au f.scope f.off
  simp only [LA.read, LA.words, Option.getD_some, fD_word1, fA_word1, fB_word1, fGuard_word2, fMod_word2, fSpec_word2, hsp, hau, hwidth, hscope, hoff,
    hhint, horder, lo7_reg8, Space.ofBits_bits, Option.bind_eq_bind, Option.bind_some]

theorem UM.read_words (f : UM) (op : BitVec 8) (store : Bool) : UM.read (f.words op store).1 ((f.words op store).2.getD 0) store = some f := by
  obtain ⟨hhint, hsp⟩ := hintField f.hint f.space.bits
  cases store <;>
    simp only [UM.read, UM.words, Option.getD_some, fD_word1, fA_word1, fC_word2, fGuard_word2, fMod_word2, fSpec_word2, hsp, hhint, lo7_reg8,
      Space.ofBits_bits, Option.bind_eq_bind, Option.bind_some, if_true, if_false, Bool.false_eq_true]

end Sys2Proof
end

section
/-! PROOFS. Every well-formed instruction that has words decodes back from them, class by class (R161 to R181). -/

namespace Sys2Proof

/-- The words read back as the instruction: their opcode is defined, the candidate of their fields is the instruction, and they have an extension
word exactly where the opcode calls for one (R161, R172). -/
def Instr.ReadBack (i : Instr) (p : W32 × Option W32) : Prop :=
  opcodeOk p.1 (p.2.getD 0) = true ∧ parse p.1 (p.2.getD 0) = some i ∧ extended (fOp p.1) = p.2.isSome

/-- The instruction has no words, or reads back from them. -/
def Instr.RoundTrip (i : Instr) : Prop := encode i = none ∨ ∃ p, encode i = some p ∧ i.ReadBack p

/-! ## Opcodes (R175, R176) -/

@[simp] theorem LaneOp.ofCode_code (op : LaneOp) : LaneOp.ofCode op.code = some op := by cases op <;> rfl

@[simp] theorem UniOp.ofCode_code (op : UniOp) : UniOp.ofCode op.code = some op := by cases op <;> rfl

/-- Neither XF opcode is one of a short form. -/
theorem ne_xf_of_not_extended {c : BitVec 8} (h : extended c = false) : c ≠ 0x7F ∧ c ≠ 0xFF := by
  constructor <;> rintro rfl <;> cases h

/-- A short lane form: class LS (R174, R175). -/
theorem readBack_laneShort {op : LaneOp} {c d a b : BitVec 8} {i : Instr} (hx : extended c = false) (hset : c.getLsbD 7 = false)
    (hc : LaneOp.ofCode c = some op) (hi : op.instr d a b = i) : i.ReadBack (word1 c d a b, none) := by
  obtain ⟨h7F, hFF⟩ := ne_xf_of_not_extended hx
  refine ⟨?_, ?_, ?_⟩
  · simp only [opcodeOk, opDefined, fOp_word1, h7F, hFF, hx, hset, hc, if_false, Bool.false_eq_true, Option.isSome_some]
  · simp only [parse, fOp_word1, fD_word1, fA_word1, fB_word1, h7F, hFF, hx, hset, hc, if_false, Bool.false_eq_true, Option.map_some, hi]
  · simp only [fOp_word1, hx, Option.isSome_none]

/-- A short uniform form: classes US, UJ and UW (R174, R176). -/
theorem readBack_uniShort {op : UniOp} {c d a b : BitVec 8} {i : Instr} (hx : extended c = false) (hset : c.getLsbD 7 = true)
    (hc : UniOp.ofCode (c &&& 0x7F) = some op) (hi : op.instr d a b = some i) : i.ReadBack (word1 c d a b, none) := by
  obtain ⟨h7F, hFF⟩ := ne_xf_of_not_extended hx
  refine ⟨?_, ?_, ?_⟩
  · simp only [opcodeOk, opDefined, fOp_word1, h7F, hFF, hx, hset, hc, if_false, if_true, Bool.false_eq_true, Option.isSome_some]
  · simp only [parse, fOp_word1, fD_word1, fA_word1, fB_word1, h7F, hFF, hx, hset, hc, if_false, if_true, Bool.false_eq_true, Option.bind_some, hi]
  · simp only [fOp_word1, hx, Option.isSome_none]

/-- An opcode of an extended lane form below XF (R175). -/
def laneExtCode (c : BitVec 8) : Bool := extended c && extDefined c && !c.getLsbD 7 && !(c == 0x7F)

/-- An opcode of an extended uniform form below XF (R176). -/
def uniExtCode (c : BitVec 8) : Bool := extended c && extDefined c && c.getLsbD 7 && !(c == 0xFF)

theorem readBack_laneExt {c d a b : BitVec 8} {w2 : W32} {i : Instr} (hc : laneExtCode c = true)
    (hi : parseLaneExt (word1 c d a b) w2 = some i) : i.ReadBack (word1 c d a b, some w2) := by
  simp only [laneExtCode, Bool.and_eq_true, Bool.not_eq_true', beq_eq_false_iff_ne] at hc
  obtain ⟨⟨⟨hx, hdef⟩, hset⟩, h7F⟩ := hc
  have hFF : c ≠ 0xFF := by rintro rfl; cases hset
  refine ⟨?_, ?_, ?_⟩
  · simp only [opcodeOk, opDefined, fOp_word1, h7F, hFF, hx, hdef, if_false, if_true]
  · simp only [parse, Option.getD_some, fOp_word1, h7F, hFF, hx, hset, if_false, if_true, Bool.false_eq_true, hi]
  · simp only [fOp_word1, hx, Option.isSome_some]

theorem readBack_uniExt {c d a b : BitVec 8} {w2 : W32} {i : Instr} (hc : uniExtCode c = true)
    (hi : parseUniExt (word1 c d a b) w2 = some i) : i.ReadBack (word1 c d a b, some w2) := by
  simp only [uniExtCode, Bool.and_eq_true, Bool.not_eq_true', beq_eq_false_iff_ne] at hc
  obtain ⟨⟨⟨hx, hdef⟩, hset⟩, hFF⟩ := hc
  have h7F : c ≠ 0x7F := by rintro rfl; cases hset
  refine ⟨?_, ?_, ?_⟩
  · simp only [opcodeOk, opDefined, fOp_word1, h7F, hFF, hx, hdef, if_false, if_true]
  · simp only [parse, Option.getD_some, fOp_word1, h7F, hFF, hx, hset, if_false, if_true, hi]
  · simp only [fOp_word1, hx, Option.isSome_some]

/-! ## Class LX and the lane XF twin (R166, R171) -/

theorem LSrc.isReg_of_small {o : LSrc} {n : Nat} (h : o.small n = true) : o.isIdx = false ∧ o.isUni = false ∧ o.isImm = false := by
  cases o with
  | reg v => exact ⟨rfl, rfl, rfl⟩
  | chan _ _ | idx _ _ | uni _ | imm _ => cases h

theorem LDst.isIdx_of_small {o : LDst} {n : Nat} (h : o.small n = true) : o.isIdx = false := by
  cases o with
  | reg v => rfl
  | chan _ _ | idx _ _ => cases h

theorem LSrc.isReg_of_okA {o : LSrc} {w : Nat} (h : o.okA w = true) : o.isUni = false ∧ o.isImm = false := by
  unfold LSrc.okA at h
  cases o with
  | reg _ | chan _ _ | idx _ _ => exact ⟨rfl, rfl⟩
  | uni _ | imm _ => split at h <;> cases h

theorem LSrc.isReg_of_okC {o : LSrc} {w : Nat} (h : o.okC w = true) : o.isIdx = false ∧ o.isImm = false := by
  unfold LSrc.okC at h
  cases o with
  | reg _ | chan _ _ | uni _ => exact ⟨rfl, rfl⟩
  | idx _ _ | imm _ => split at h <;> cases h

theorem LX.encodable_of_okA {f : LX} {w : Nat} (hone : f.oneIdx = true) (ha : f.a.okA w = true) (hc : f.c.isIdx = false ∧ f.c.isImm = false)
    (htab : f.b.isImm = true → f.tab = 0) : f.Encodable :=
  ⟨hone, (LSrc.isReg_of_okA ha).1, (LSrc.isReg_of_okA ha).2, hc.1, hc.2, htab⟩

theorem LX.encodable_of_ok {f : LX} {sh : OpShape} (h : f.ok sh = true) : f.Encodable := by
  simp only [LX.ok, Bool.and_eq_true, beq_iff_eq] at h
  obtain ⟨⟨⟨⟨⟨⟨⟨-, ha⟩, -⟩, hc⟩, hone⟩, -⟩, -⟩, htab⟩ := h
  exact LX.encodable_of_okA hone ha (LSrc.isReg_of_okC hc) fun _ => htab

theorem LX.encodable_of_okCmp {f : LX} {w conds : Nat} (h : f.okCmp w conds = true) : f.Encodable := by
  simp only [LX.okCmp, Bool.and_eq_true, beq_iff_eq] at h
  obtain ⟨⟨⟨⟨⟨⟨⟨-, ha⟩, -⟩, hc⟩, hone⟩, -⟩, -⟩, htab⟩ := h
  obtain ⟨hidx, -, himm⟩ := LSrc.isReg_of_small hc
  exact LX.encodable_of_okA hone ha ⟨hidx, himm⟩ fun _ => htab

theorem LX.encodable_of_okRed {f : LX} {modes : Nat} (h : f.okRed modes = true) : f.Encodable := by
  simp only [LX.okRed, Bool.and_eq_true, beq_iff_eq] at h
  obtain ⟨⟨⟨⟨⟨⟨⟨-, ha⟩, -⟩, hc⟩, hone⟩, -⟩, -⟩, htab⟩ := h
  exact LX.encodable_of_okA hone ha (hc ▸ ⟨rfl, rfl⟩) fun _ => htab

theorem LX.encodable_of_sel {f : LX} (h : (Instr.selB32 f).wf = true) : f.Encodable := by
  simp only [Instr.wf, Bool.and_eq_true, beq_iff_eq] at h
  obtain ⟨⟨⟨⟨⟨⟨⟨-, ha⟩, -⟩, hc⟩, hone⟩, -⟩, -⟩, htab⟩ := h
  obtain ⟨hidx, -, himm⟩ := LSrc.isReg_of_small hc
  exact LX.encodable_of_okA hone ha ⟨hidx, himm⟩ fun _ => htab

/-- The table of bool3 stands in IMMLO, which its B therefore leaves alone (R229). -/
theorem LX.encodable_of_bool3 {f : LX} (h : (Instr.bool3B32 f).wf = true) : f.Encodable := by
  simp only [Instr.wf, Bool.and_eq_true] at h
  obtain ⟨hok, hb⟩ := h
  have hf := LX.encodable_of_ok hok
  refine ⟨hf.oneIdx, hf.aUni, hf.aImm, hf.cIdx, hf.cImm, fun himm => ?_⟩
  cases hfb : f.b with
  | imm v => rw [hfb] at hb; cases hb
  | reg _ | chan _ _ | idx _ _ | uni _ => rw [hfb] at himm; cases himm

theorem readBack_lx {c : BitVec 8} {f : LX} {mk : LX → Instr} (hc : laneExtCode c = true)
    (hmk : ∀ w1 w2, fOp w1 = c → parseLaneExt w1 w2 = some (mk (LX.read w1 w2))) (hf : f.Encodable) : (mk f).ReadBack (f.words c) :=
  readBack_laneExt hc (by rw [hmk _ _ (fOp_word1 _ _ _ _), LX.read_words hf])

/-- A lane XF twin names at most one indexed field, and C holds its opcode (R171). -/
theorem LX.encodable_of_okXf {f : LX} {op : LaneOp} (h : f.okXf op = true) : f.Encodable ∧ f.c = .reg 0 := by
  have hshape : f.ok op.shape = true → f.Encodable ∧ f.c = .reg 0 := fun hok => by
    refine ⟨LX.encodable_of_ok hok, ?_⟩
    have hcw : op.shape.cw = 0 := by cases op <;> rfl
    simp only [LX.ok, Bool.and_eq_true, hcw] at hok
    obtain ⟨⟨⟨⟨⟨-, hc⟩, -⟩, -⟩, -⟩, -⟩ := hok
    simpa [LSrc.okC] using hc
  cases op with
  | xset =>
    simp only [LX.okXf, Bool.and_eq_true, beq_iff_eq] at h
    obtain ⟨⟨⟨⟨⟨⟨hd, ha⟩, -⟩, hc⟩, -⟩, -⟩, htab⟩ := h
    have hone : f.oneIdx = true := by
      rw [LX.oneIdx, LDst.isIdx_of_small hd, ha]
      cases f.b.isIdx <;> rfl
    exact ⟨LX.encodable_of_okA (w := 1) hone (ha ▸ rfl) (hc ▸ ⟨rfl, rfl⟩) fun _ => htab, hc⟩
  | xget =>
    simp only [LX.okXf, Bool.and_eq_true, beq_iff_eq] at h
    obtain ⟨⟨⟨⟨⟨⟨-, ha⟩, hb⟩, hc⟩, -⟩, -⟩, htab⟩ := h
    have hone : f.oneIdx = true := by
      rw [LX.oneIdx, (LSrc.isReg_of_small hb).1, ha]
      cases f.d.isIdx <;> rfl
    exact ⟨LX.encodable_of_okA (w := 1) hone (ha ▸ rfl) (hc ▸ ⟨rfl, rfl⟩) fun _ => htab, hc⟩
  | _ => exact hshape h

theorem readBack_laneXf {op : LaneOp} {f : LX} (h : f.okXf op = true) : (Instr.laneXf op f).ReadBack (f.wordsXf op.code) := by
  obtain ⟨hf, hc⟩ := LX.encodable_of_okXf h
  refine ⟨?_, ?_, ?_⟩
  · simp only [opcodeOk, LX.wordsXf, Option.getD_some, fOp_word1, fC_word2, LaneOp.ofCode_code, if_true, Option.isSome_some]
  · simp only [parse, LX.wordsXf, Option.getD_some, fOp_word1, fC_word2, LaneOp.ofCode_code, if_true, Option.map_some, LX.readXf_words hf hc]
  · simp only [LX.wordsXf, fOp_word1]; rfl

/-! ## Classes LC, LM and UM and the atomic layout (R174, R177, R178, R206) -/

theorem readBack_lc {c : BitVec 8} {f : LC} {mk : LC → Instr} (hc : laneExtCode c = true)
    (hmk : ∀ w1 w2, fOp w1 = c → parseLaneExt w1 w2 = some (mk (LC.read w1 w2))) (hf : f.okBase = true) : (mk f).ReadBack (f.words c) := by
  simp only [LC.okBase, Bool.and_eq_true, decide_eq_true_eq] at hf
  obtain ⟨⟨⟨-, hone⟩, -⟩, -⟩ := hf
  exact readBack_laneExt hc ((hmk _ _ (fOp_word1 _ _ _ _)).trans (congrArg (fun x => some (mk x)) (LC.read_words hone c)))

theorem LC.okBase_of_okCvt {f : LC} (h : f.okCvt = true) : f.okBase = true := by
  simp only [LC.okCvt, Bool.and_eq_true] at h
  exact h.1.1

theorem LC.okBase_of_okCvtpk {f : LC} (h : f.okCvtpk = true) : f.okBase = true := by
  simp only [LC.okCvtpk, Bool.and_eq_true] at h
  exact h.1.1.1.1.1

theorem LM.oneIdx_of_okBase {f : LM} (h : f.okBase = true) : f.d.isIdx.toNat + f.c.isIdx.toNat ≤ 1 := by
  simp only [LM.okBase, Bool.and_eq_true, decide_eq_true_eq] at h
  exact h.2

theorem readBack_lm {c : BitVec 8} {f : LM} {mk : LM → Instr} (hc : laneExtCode c = true)
    (hmk : ∀ w1 w2, fOp w1 = c → parseLaneExt w1 w2 = (LM.read w1 w2).map mk) (hf : f.okBase = true) : (mk f).ReadBack (f.words c) :=
  readBack_laneExt hc ((hmk _ _ (fOp_word1 _ _ _ _)).trans (congrArg (Option.map mk) (LM.read_words (LM.oneIdx_of_okBase hf) c)))

/-- A load and a store leave C and D apart (R193). -/
theorem LM.okBase_of_okLoad {f : LM} {w : Nat} (h : f.okLoad w = true) : f.okBase = true := by
  simp only [LM.okLoad, Bool.and_eq_true] at h
  exact h.1.1.1

theorem LM.okBase_of_okStore {f : LM} {w : Nat} (h : f.okStore w = true) : f.okBase = true := by
  simp only [LM.okStore, Bool.and_eq_true] at h
  exact h.1.1.1

theorem LM.okBase_of_okXadd {f : LM} (h : f.okXadd = true) : f.okBase = true := by
  simp only [LM.okXadd, Bool.and_eq_true] at h
  exact h.1.1.1

end Sys2Proof
end

section
/-! PROOFS. The other forms, and every instruction together: decoding and encoding agree (R161 to R181). -/

namespace Sys2Proof

/-! ## Memory forms with a field of their own in D or C (R178, R212, R306) -/

theorem readBack_um {c : BitVec 8} {store : Bool} {f : UM} {mk : UM → Instr} (hc : uniExtCode c = true)
    (hmk : ∀ w1 w2, fOp w1 = c → parseUniExt w1 w2 = (UM.read w1 w2 store).map mk) : (mk f).ReadBack (f.words c store) :=
  readBack_uniExt hc ((hmk _ _ (fOp_word1 _ _ _ _)).trans (congrArg (Option.map mk) (UM.read_words f c store)))

/-- F64 and RM of xrd (R212). -/
theorem xrdField (f64 : Bool) (rm : BitVec 3) :
    let x : BitVec 8 := BitVec.ofBool f64 ++ (0 : BitVec 4) ++ rm
    x.getLsbD 7 = f64 ∧ lo3 x = rm := by
  refine ⟨?_, BitVec.extractLsb'_append_eq_right⟩
  simp (disch := decide) only [getLsbD_append_high, Nat.reduceSub, getLsbD_ofBool_zero]

theorem readBack_xrd {f : LM} {f64 : Bool} {rm : BitVec 3} (h : f.okXrd f64 rm = true) :
    (Instr.xrd f f64 rm).ReadBack (f.wordsWith 0x6F f.d.bits (BitVec.ofBool f64 ++ (0 : BitVec 4) ++ rm)) := by
  simp only [LM.okXrd, Bool.and_eq_true, beq_iff_eq] at h
  obtain ⟨⟨⟨⟨⟨hbase, hc⟩, -⟩, -⟩, -⟩, -⟩ := h
  obtain ⟨h64, hrm⟩ := xrdField f64 rm
  have hread := LM.readWith_wordsWith (LM.oneIdx_of_okBase hbase) 0x6F f.d.bits (BitVec.ofBool f64 ++ (0 : BitVec 4) ++ rm)
  rw [hc] at hread
  refine readBack_laneExt rfl ?_
  rw [parseLaneExt, fOp_word1]
  refine Option.map_eq_some_iff.2 ⟨f, ?_, ?_⟩
  · rw [fD_word1]; exact hread
  · rw [fC_word2, h64, hrm]

theorem readBack_resld {f : LM} {w : BitVec 3} (h : f.okRes = true) :
    (Instr.resld w f).ReadBack (f.wordsWith 0x79 (low3 w) f.c.bits) := by
  simp only [LM.okRes, Bool.and_eq_true, beq_iff_eq] at h
  obtain ⟨⟨⟨hbase, hd⟩, -⟩, -⟩ := h
  have hread := LM.readWith_wordsWith (LM.oneIdx_of_okBase hbase) 0x79 (low3 w) f.c.bits
  rw [hd] at hread
  refine readBack_laneExt rfl ?_
  rw [parseLaneExt, fOp_word1]
  refine Option.map_eq_some_iff.2 ⟨f, ?_, ?_⟩
  · rw [fC_word2]; exact hread
  · rw [fD_word1, lo3_low3]

theorem readBack_resst {f : LM} {w : BitVec 3} (h : f.okRes = true) :
    (Instr.resst w f).ReadBack (f.wordsWith 0x7A f.d.bits (low3 w)) := by
  simp only [LM.okRes, Bool.and_eq_true, beq_iff_eq] at h
  obtain ⟨⟨⟨hbase, -⟩, hc⟩, -⟩ := h
  have hread := LM.readWith_wordsWith (LM.oneIdx_of_okBase hbase) 0x7A f.d.bits (low3 w)
  rw [hc] at hread
  refine readBack_laneExt rfl ?_
  rw [parseLaneExt, fOp_word1]
  refine Option.map_eq_some_iff.2 ⟨f, ?_, ?_⟩
  · rw [fD_word1]; exact hread
  · rw [fC_word2, lo3_low3]

theorem readBack_atom (op : BitVec 4) (f : LA) : (Instr.atom op f).ReadBack (f.words 0x6C ((0 : BitVec 4) ++ op)) := by
  refine readBack_laneExt rfl ?_
  rw [parseLaneExt, fOp_word1]
  refine Option.map_eq_some_iff.2 ⟨f, LA.read_words f 0x6C _, ?_⟩
  rw [fC_word2]
  exact congrArg (Instr.atom · f) BitVec.extractLsb'_append_eq_right

theorem readBack_cas (c : BitVec 7) (f : LA) : (Instr.cas c f).ReadBack (f.words 0x6D (reg8 c)) := by
  refine readBack_laneExt rfl ?_
  rw [parseLaneExt, fOp_word1]
  refine Option.map_eq_some_iff.2 ⟨f, LA.read_words f 0x6D _, ?_⟩
  rw [fC_word2, lo7_reg8]

/-! ## Numbers cut over several fields (R179, R197, R233, R391) -/

/-- OFF24 of a branch or call (R179). -/
theorem off24_of_fields (off : BitVec 24) :
    (off.extractLsb' 16 8 ++ off.extractLsb' 8 8 ++ off.extractLsb' 0 8 : BitVec 24) = off := by
  simp (disch := decide) only [BitVec.extractLsb'_append_extractLsb'_eq_extractLsb', BitVec.extractLsb'_eq_self]

/-- IMM32 of movi and smovi (R233, R366). -/
theorem imm32_of_fields (imm : W32) : (imm.extractLsb' 24 8 ++ imm.extractLsb' 16 8 ++ imm.extractLsb' 0 16 : W32) = imm := by
  simp (disch := decide) only [BitVec.extractLsb'_append_extractLsb'_eq_extractLsb', BitVec.extractLsb'_eq_self]

/-- REG of sysrd and syswr (R391). -/
theorem reg15_of_fields (reg : BitVec 15) : (reg.extractLsb' 8 7 ++ reg.extractLsb' 0 8 : BitVec 15) = reg := by
  simp (disch := decide) only [BitVec.extractLsb'_append_extractLsb'_eq_extractLsb', BitVec.extractLsb'_eq_self]

/-- The limits of wait (R197). -/
theorem wait_limits (l s c t : BitVec 6) :
    let x : BitVec 24 := (l ++ s.extractLsb' 4 2 : BitVec 8) ++ (s.extractLsb' 0 4 ++ c.extractLsb' 2 4 : BitVec 8) ++ (c.extractLsb' 0 2 ++ t : BitVec 8)
    x.extractLsb' 18 6 = l ∧ x.extractLsb' 12 6 = s ∧ x.extractLsb' 6 6 = c ∧ x.extractLsb' 0 6 = t := by
  refine ⟨?_, ?_, ?_, ?_⟩
  · simp (disch := decide) only [BitVec.extractLsb'_append_eq_of_le]
    exact BitVec.extractLsb'_eq_self
  · refine BitVec.eq_of_getLsbD_eq fun i hi => ?_
    simp only [BitVec.getLsbD_extractLsb', BitVec.getLsbD_append, hi, decide_true, Bool.true_and]
    interval_cases i <;> simp
  · refine BitVec.eq_of_getLsbD_eq fun i hi => ?_
    simp only [BitVec.getLsbD_extractLsb', BitVec.getLsbD_append, hi, decide_true, Bool.true_and]
    interval_cases i <;> simp
  · simp (disch := decide) only [BitVec.extractLsb'_append_eq_of_add_le]
    exact BitVec.extractLsb'_eq_self

/-- The lane key of repack (R383). -/
theorem keyField (v : BitVec 7) :
    let x : BitVec 8 := (1 : BitVec 1) ++ v
    x.getLsbD 7 = true ∧ lo7 x = v :=
  ⟨getLsbD_append_high (Nat.le_refl 7), BitVec.extractLsb'_append_eq_right⟩

/-- The scope and the space of acq and rel (R355). -/
theorem scopeField (scope : BitVec 3) (layer : Bool) :
    let x : BitVec 8 := (0 : BitVec 4) ++ BitVec.ofBool layer ++ scope
    lo3 x = scope ∧ x.getLsbD 3 = layer := by
  refine ⟨BitVec.extractLsb'_append_eq_right, ?_⟩
  simp (disch := decide) only [getLsbD_append_high, getLsbD_append_low, getLsbD_ofBool_zero, Nat.reduceSub]

/-! ## The uniform XF twin (R171, R179, R379) -/

/-- Bit 1 of MOD is HELP of exit alone, which the twin of exit leaves 0 (R379). -/
theorem exit_mod_help {m : BitVec 4} (h : UniOp.exit.modOk m = true) : m.getLsbD 1 = false := by
  have hm : m.toNat ≤ 1 := of_decide_eq_true h
  rw [BitVec.getLsbD, Nat.testBit_lt_two_pow (by omega)]

theorem readBack_uniXf {op : UniOp} {d a b : BitVec 8} {w2 : W32} {i : Instr} (hop : UniOp.ofCode (fC w2) = some op)
    (hi : parseUniXf (word1 0xFF d a b) w2 op = i) : i.ReadBack (word1 0xFF d a b, some w2) := by
  refine ⟨?_, ?_, ?_⟩
  · rw [opcodeOk, fOp_word1, Option.getD_some, hop]; rfl
  · rw [parse, fOp_word1, Option.getD_some, hop, ← hi]; rfl
  · rw [fOp_word1]; rfl

theorem readBack_uniformXf {op : UniOp} {d a b : BitVec 8} {g : Guard} {m : BitVec 4} {imm : Option (BitVec 15)}
    (h : uniformXfOk op d a b g m imm = true) :
    (Instr.uniformXf op d a b g m imm).ReadBack (word1 0xFF d a b, some (word2 op.code g m (imm15Spec imm))) := by
  simp only [uniformXfOk, Bool.and_eq_true] at h
  obtain ⟨⟨⟨-, hmod⟩, -⟩, -⟩ := h
  have hhelp : (decide (op = .exit) && m.getLsbD 1) = false := by
    by_cases hop : op = .exit
    · rw [exit_mod_help (hop ▸ hmod), Bool.and_false]
    · rw [decide_eq_false hop, Bool.false_and]
  refine readBack_uniXf (by rw [fC_word2, UniOp.ofCode_code]) ?_
  simp only [parseUniXf, fD_word1, fA_word1, fB_word1, fGuard_word2, fMod_word2, fSpec_word2, imm15Of_imm15Spec, hhelp, Bool.false_and,
    Bool.false_eq_true, if_false]

/-- The form of exit that turns lanes into helpers (R379). -/
theorem readBack_exitHelp (g : Guard) (pkind : Bool) :
    (Instr.exitHelp g pkind).ReadBack (word1 0xFF 0 0 0, some (word2 0x17 g ((0 : BitVec 2) ++ (1 : BitVec 1) ++ BitVec.ofBool pkind) 0)) := by
  have hmod : let m : BitVec 4 := (0 : BitVec 2) ++ (1 : BitVec 1) ++ BitVec.ofBool pkind
      m.getLsbD 1 = true ∧ m.getLsbD 0 = pkind := by
    refine ⟨?_, ?_⟩ <;> simp (disch := decide) only [getLsbD_append_high, getLsbD_append_low, getLsbD_ofBool_zero, Nat.reduceSub]
    rfl
  obtain ⟨hhelp, hkind⟩ := hmod
  refine readBack_uniXf (op := .exit) (by rw [fC_word2]; rfl) ?_
  simp only [parseUniXf, fGuard_word2, fMod_word2, fSpec_word2, hhelp, hkind, decide_true, Bool.and_self, if_true]

/-! ## Every instruction -/

/-- Every well-formed instruction reads back from its words: the fields of each class, one class after another (R174). -/
theorem Instr.roundTrip {i : Instr} (h : i.wf = true) : i.RoundTrip := by
  cases i with
  | faddF32 | fsubF32 | fmulF32 | fminF32 | fmaxF32 | fdivF32 | fsqrtF32 | daddF64 | dsubF64 | dmulF64 | dminF64 | dmaxF64 | ddivF64
  | dsqrtF64 | hadd2F16 | hmul2F16 | hmin2F16 | hmax2F16 | hadd2Bf16 | hmul2Bf16 | hmin2Bf16 | hmax2Bf16 | iaddS32 | isubS32 | imulS32
  | imulhiS32 | imulhiN32 | iminS32 | iminN32 | imaxS32 | imaxN32 | iaddS64 | isubS64 | qaddS32 | qsubS32 | iabsS32 | inegS32 | andB32
  | orB32 | xorB32 | notB32 | shlB32 | shrN32 | shrS32 | rotB32 | popcB32 | clzB32 | brevB32 | movB32 | movB64 | lidB32 | xset | xget
  | frcpF32 | frsqF32 | fex2F32 | flg2F32 | fsinF32 | fcosF32 | lnrdB32 | lnrdxB32 =>
    exact .inr ⟨_, rfl, readBack_laneShort rfl rfl rfl (by simp only [LaneOp.instr, Operand.ofBits_bits, lo2_low2])⟩
  | fmaF32 | fmaF64 | hfma2F16 | hfma2Bf16 | imadS32 | imadS64 | fclassF32 | frndF32 | bselB32 | bfeB32 | bfiB32 | dot4S8 =>
    exact .inr ⟨_, rfl, readBack_lx rfl (fun w1 w2 hop => by rw [parseLaneExt, hop]; rfl) (LX.encodable_of_ok h)⟩
  | fcmpF32 | dcmpF64 | icmpS32 | icmpN32 | icmpS64 | icmpN64 =>
    exact .inr ⟨_, rfl, readBack_lx rfl (fun w1 w2 hop => by rw [parseLaneExt, hop]; rfl) (LX.encodable_of_okCmp h)⟩
  | rsumF32 | rminF32 | rmaxF32 | rsumS32 | rminS32 | rmaxS32 =>
    exact .inr ⟨_, rfl, readBack_lx rfl (fun w1 w2 hop => by rw [parseLaneExt, hop]; rfl) (LX.encodable_of_okRed h)⟩
  | selB32 => exact .inr ⟨_, rfl, readBack_lx rfl (fun w1 w2 hop => by rw [parseLaneExt, hop]; rfl) (LX.encodable_of_sel h)⟩
  | bool3B32 => exact .inr ⟨_, rfl, readBack_lx rfl (fun w1 w2 hop => by rw [parseLaneExt, hop]; rfl) (LX.encodable_of_bool3 h)⟩
  | laneXf => exact .inr ⟨_, rfl, readBack_laneXf h⟩
  | cvt => exact .inr ⟨_, rfl, readBack_lc rfl (fun w1 w2 hop => by rw [parseLaneExt, hop]; rfl) (LC.okBase_of_okCvt h)⟩
  | cvtpk => exact .inr ⟨_, rfl, readBack_lc rfl (fun w1 w2 hop => by rw [parseLaneExt, hop]; rfl) (LC.okBase_of_okCvtpk h)⟩
  | ldB8 | ldS8 | ldB16 | ldS16 | ldB32 | ldB64 | ldB128 =>
    exact .inr ⟨_, rfl, readBack_lm rfl (fun w1 w2 hop => by rw [parseLaneExt, hop]; rfl) (LM.okBase_of_okLoad h)⟩
  | stB8 | stB16 | stB32 | stB64 | stB128 =>
    exact .inr ⟨_, rfl, readBack_lm rfl (fun w1 w2 hop => by rw [parseLaneExt, hop]; rfl) (LM.okBase_of_okStore h)⟩
  | xadd => exact .inr ⟨_, rfl, readBack_lm rfl (fun w1 w2 hop => by rw [parseLaneExt, hop]; rfl) (LM.okBase_of_okXadd h)⟩
  | xrd => exact .inr ⟨_, rfl, readBack_xrd h⟩
  | resld => exact .inr ⟨_, rfl, readBack_resld h⟩
  | resst => exact .inr ⟨_, rfl, readBack_resst h⟩
  | atom => exact .inr ⟨_, rfl, readBack_atom _ _⟩
  | cas => exact .inr ⟨_, rfl, readBack_cas _ _⟩
  | mrd | movi | agree | lmask | tex | trace | trnext | traccept | trhit | camray | resup | resmg | resfin | resget | resset | resclr
  | drawB32 =>
    refine .inr ⟨_, rfl, readBack_laneExt rfl ?_⟩
    rw [parseLaneExt, fOp_word1]
    refine congrArg some ?_
    simp (disch := decide) only [lo7, lo3, reg8, low3, fD_word1, fA_word1, fB_word1, fC_word2, fGuard_word2, fMod_word2, fSpec_word2,
      imm32_of_fields, BitVec.extractLsb'_append_eq_of_le, BitVec.extractLsb'_append_eq_right, BitVec.extractLsb'_eq_self, getLsbD_append_high,
      getLsbD_append_low, getLsbD_ofBool_zero, Nat.reduceSub]
  | nop | saddB64 | ssubB64 | smulB64 | smulhiS64 | smulhiN64 | sminS64 | sminN64 | smaxS64 | smaxN64 | sandB64 | sorB64 | sxorB64
  | snotB64 | sshlB64 | sshrN64 | sshrS64 | smovB64 | spopcB64 | sclzB64 | ret | exit | yield | brx | mparr | mpwait | mpinit | trap | tret
  | ilock | iunlock | pwrhint | fence | twait | steal | tileret | tilecur | tinfo | mfree | mzero =>
    exact .inr ⟨_, rfl, readBack_uniShort rfl rfl rfl (by simp only [UniOp.instr, Operand.ofBits_bits, lo7_reg8, lo3_low3])⟩
  | bra | call => exact .inr ⟨_, rfl, readBack_uniShort rfl rfl rfl (by rw [UniOp.instr, off24_of_fields])⟩
  | wait l s c t =>
    obtain ⟨hl, hs, hc, ht⟩ := wait_limits l s c t
    exact .inr ⟨_, rfl, readBack_uniShort rfl rfl rfl (by simp only [UniOp.instr, hl, hs, hc, ht])⟩
  | sysrd | syswr => exact .inr ⟨_, rfl, readBack_uniShort rfl rfl rfl (by simp only [UniOp.instr, lo7_reg8, reg15_of_fields])⟩
  | genkeyKey | genkeyCtr | genkeyStrm | genkeyRdkey | genkeyRd | repack =>
    exact .inr ⟨_, rfl, readBack_uniShort rfl rfl rfl (congrArg some (by simp only [lo7_reg8]))⟩
  | repackKey d v =>
    obtain ⟨hkey, hv⟩ := keyField v
    exact .inr ⟨_, rfl, readBack_uniShort rfl rfl rfl (by simp only [UniOp.instr, hkey, hv, lo7_reg8, if_true])⟩
  | acq scope layer a | rel scope layer a =>
    obtain ⟨hscope, hlayer⟩ := scopeField scope layer
    exact .inr ⟨_, rfl, readBack_uniShort rfl rfl rfl (by simp only [UniOp.instr, hscope, hlayer, lo7_reg8])⟩
  | spawn d a team =>
    refine .inr ⟨_, rfl, readBack_uniShort rfl rfl rfl ?_⟩
    cases team <;> simp only [UniOp.instr, lo7_reg8] <;> rfl
  | sldB32 | sldB64 | sstB32 | sstB64 => exact .inr ⟨_, rfl, readBack_um rfl fun w1 w2 hop => by rw [parseUniExt, hop]; rfl⟩
  | smovi | scmpS64 | scmpN64 | ssel | sbfe | stmap | stunmap | lload | lstore | mclaim | mma | mdesc | mlease | sqstart | sqstage | sqret
  | sqstat | sqdrain | pbind | prun | pwait | pdrop | taddr | gquery =>
    refine .inr ⟨_, rfl, readBack_uniExt rfl ?_⟩
    rw [parseUniExt, fOp_word1]
    refine congrArg some ?_
    simp (disch := decide) only [lo7, lo2, reg8, low2, fD_word1, fA_word1, fB_word1, fC_word2, fGuard_word2, fMod_word2, fSpec_word2,
      imm32_of_fields, Operand.ofBits_bits, USrc.ofBits_bits, BitVec.extractLsb'_append_eq_right, getLsbD_append_high, getLsbD_append_low,
      getLsbD_ofBool_zero, Nat.reduceSub]
  | mld _ _ _ _ _ sp _ _ | mst _ _ _ _ _ sp _ _ | mscale _ _ _ _ sp _ | sqtab _ _ _ sp _ | sqfact _ _ _ sp _ =>
    refine .inr ⟨_, rfl, readBack_uniExt rfl ?_⟩
    rw [parseUniExt, fOp_word1]
    refine Option.map_eq_some_iff.2 ⟨sp, ?_, ?_⟩ <;>
      simp (disch := decide) only [lo7, lo3, reg8, low3, fD_word1, fA_word1, fB_word1, fC_word2, fGuard_word2, fMod_word2, fSpec_word2,
        Space.ofBits_bits, BitVec.extractLsb'_append_eq_of_le, BitVec.extractLsb'_append_eq_right, BitVec.extractLsb'_eq_self,
        getLsbD_append_low, getLsbD_ofBool_zero, Nat.reduceSub]
  | copy _ _ _ _ sp1 sp2 _ | mloop _ _ _ _ _ _ _ sp1 sp2 _ =>
    refine .inr ⟨_, rfl, readBack_uniExt rfl ?_⟩
    rw [parseUniExt, fOp_word1]
    refine Option.bind_eq_some_iff.2 ⟨sp1, ?_, Option.map_eq_some_iff.2 ⟨sp2, ?_, ?_⟩⟩ <;>
      simp (disch := decide) only [lo7, reg8, fD_word1, fA_word1, fB_word1, fC_word2, fGuard_word2, fMod_word2, fSpec_word2, Space.ofBits_bits,
        BitVec.extractLsb'_append_eq_of_le, BitVec.extractLsb'_append_eq_right, BitVec.extractLsb'_eq_self, getLsbD_append_high,
        getLsbD_append_low, getLsbD_ofBool_zero, Nat.reduceSub]
  | uniformXf => exact .inr ⟨_, rfl, readBack_uniformXf h⟩
  | exitHelp => exact .inr ⟨_, rfl, readBack_exitHelp _ _⟩
  | _ => exact .inl rfl

/-- Settles O57: what an instruction's words read back as is the instruction, class by class, and decoding checks the words of its candidate. -/
theorem decodeEncode : Obligations.DecodeEncode := by
  unfold Obligations.DecodeEncode
  refine ⟨fun i w1 w2 hwf henc => ?_, fun i w1 w2 long hdec => ?_⟩
  · obtain hnone | ⟨p, hp, hop, hparse, hlong⟩ := Instr.roundTrip hwf
    · rw [hnone] at henc; cases henc
    · obtain rfl : p = (w1, w2) := Option.some.inj (hp.symm.trans henc)
      refine decode_eq_instr_iff.2 ⟨hop, hparse, hlong, hwf, henc.trans ?_⟩
      cases w2 <;> rfl
  · obtain ⟨-, -, -, hwf, henc⟩ := decode_eq_instr_iff.1 hdec
    exact ⟨hwf, henc⟩

end Sys2Proof
end

section
/-! PROOFS. Branches, calls and returns, short and guarded (R374 to R377, R179). -/

namespace Sys2Proof.Machine

/-- A control instruction acts by one function of how it was written, whose guard selects the taking lanes (R171, R179, R374). -/
theorem ControlForm.exec_eq {g : Group} {run : BitVec 64} {short : Instr} {op : UniOp} {d a b : BitVec 8} {i : Instr} {len : Nat} {take : BitVec 64}
    (h : ControlForm g run short op d a b i len take) {k : UCtx → State → Result} (hshort : ∀ s, exec short s = k (.short short) s)
    (htwin : ∀ gd mod s, exec (.uniformXf op d a b gd mod none) s = k ⟨.uniformXf op d a b gd mod none, 8, gd, mod⟩ s) :
    ∃ u : UCtx, u.i = i ∧ u.len = len ∧ (∀ gid pc, u.takers ⟨i, gid, g, pc, run, len⟩ = take) ∧ ∀ s, exec i s = k u s := by
  obtain ⟨rfl, rfl, rfl⟩ | ⟨gd, mod, rfl, rfl, rfl⟩ := h
  · exact ⟨.short i, rfl, rfl, fun _ _ => by simp [UCtx.takers, UCtx.pkind, UCtx.short, Group.guardTrue, Guard.none], hshort⟩
  · exact ⟨⟨.uniformXf op d a b gd mod none, 8, gd, mod⟩, rfl, rfl, fun _ _ => rfl, htwin gd mod⟩

/-- No control instruction uses b0 (R326). -/
theorem ControlForm.usesB0_eq {g : Group} {run : BitVec 64} {short : Instr} {op : UniOp} {d a b : BitVec 8} {i : Instr} {len : Nat}
    {take : BitVec 64} (h : ControlForm g run short op d a b i len take) (hshort : usesB0 short = false) (hop : op ≠ .ilock) : usesB0 i = false := by
  obtain ⟨rfl, -⟩ | ⟨gd, mod, rfl, -⟩ := h
  · exact hshort
  · exact decide_eq_false hop

theorem Issue.target_eq (c : Issue) (off : BitVec 24) : c.target off = branchTarget c.pc off := by
  rw [Issue.target, branchTarget, BitVec.shiftLeft_eq_mul_twoPow, BitVec.mul_comm]
  rfl

/-! ## bra and brx -/

theorem opBra_issues {s : State} {g : Group} {t : Team} {pc : W64} {run : BitVec 64} (h : s.Issues g t pc run) (u : UCtx) (off : BitVec 24)
    (hb : usesB0 u.i = false) {take : BitVec 64} (ht : u.takers ⟨u.i, s.focus, g, pc, run, u.len⟩ = take) :
    opBra u off s = .next (s.setGroup s.focus (g.place run [(branchTarget pc off, take), (pc + BitVec.ofNat 64 u.len, run &&& ~~~take)])) := by
  rw [opBra, withIssue_issues h _ _ _ hb, ht, Issue.target_eq]
  rfl

theorem badUni_single {g : Group} {n : Nat} (h : ∀ k ∈ g.badS, k / 2 ≠ n) : g.badUni [n] = false := by
  rw [Group.badUni, List.any_eq_false]
  simpa using h

/-- brx with its register in the budget, good and not awaited: the target is checked where a lane takes it (R375). -/
theorem opBrx_issues {s : State} {g : Group} {t : Team} {pc : W64} {run : BitVec 64} (h : s.Issues g t pc run) (u : UCtx) (a : BitVec 7)
    (hb : usesB0 u.i = false) {take : BitVec 64} (ht : u.takers ⟨u.i, s.focus, g, pc, run, u.len⟩ = take) (hbud : a.toNat < g.ubud)
    (hbad : ∀ k ∈ g.badS, k / 2 ≠ a.toNat) (hblk : g.blocked [sKey a.toNat] = false) :
    opBrx u a s = if take ≠ 0 ∧ (g.readS a.toNat).toNat % 4 ≠ 0 then s.traps u.i u.len g pc run 0x03 []
      else .next (s.setGroup s.focus (g.place run [(g.readS a.toNat, take), (pc + BitVec.ofNat 64 u.len, run &&& ~~~take)])) := by
  rw [opBrx, withIssue_issues h _ _ _ hb]
  simp only [ht, hbud, hblk, badUni_single hbad, decide_true, Bool.not_true, Bool.false_eq_true, if_false, Bool.and_eq_true, Bool.not_eq_true',
    beq_eq_false_iff_ne]
  rfl

/-! ## call and ret -/

/-- The link pairs that call writes, and all that it leaves alone (R376). -/
theorem Group.writeLinks_spec (g : Group) (ret : W64) (r : List Nat) (h2 : 2 ≤ g.lbud) (h256 : g.lbud ≤ 256) :
    (∀ l ∈ r, (g.writeLinks ret r).readWide l (g.lbud - 2) 2 = ret.toNat) ∧
    (∀ l n, n < 256 → ¬(l ∈ r ∧ g.lbud - 2 ≤ n ∧ n < g.lbud) → (g.writeLinks ret r).readV l n = g.readV l n ∧
      (l * 256 + n ∈ (g.writeLinks ret r).badV ↔ l * 256 + n ∈ g.badV)) ∧
    { g.writeLinks ret r with v := g.v, badV := g.badV } = g := by
  induction r generalizing g with
  | nil => exact ⟨fun l hl => absurd hl List.not_mem_nil, fun l n _ _ => ⟨rfl, Iff.rfl⟩, rfl⟩
  | cons k r ih =>
    have hframe := Group.writeWide_frame g k (g.lbud - 2) 2 ret.toNat
    have hlbud : (g.writeWide k (g.lbud - 2) 2 ret.toNat).lbud = g.lbud := by rw [Group.eq_of_frame hframe]
    obtain ⟨hlink, hkeep, hrest⟩ := ih (g.writeWide k (g.lbud - 2) 2 ret.toNat) (hlbud ▸ h2) (hlbud ▸ h256)
    rw [hlbud] at hlink hkeep
    rw [Group.writeLinks]
    refine ⟨fun l hl => ?_, fun l n hn hout => ?_, ?_⟩
    · by_cases hr : l ∈ r
      · exact hlink l hr
      · obtain rfl : l = k := (List.mem_cons.1 hl).resolve_right hr
        rw [Group.readWide_congr fun n _ hn => (hkeep l n (by omega) fun hc => hr hc.1).1, Group.readWide_writeWide _ _ _ _ _ (by omega)]
        exact Nat.mod_eq_of_lt ret.isLt
    · have hk : ¬(k = l ∧ g.lbud - 2 ≤ n ∧ n < g.lbud - 2 + 2) := fun hc => hout ⟨by simp [hc.1], hc.2.1, by omega⟩
      obtain ⟨hv, hbad⟩ := hkeep l n hn fun hc => hout ⟨List.mem_cons_of_mem _ hc.1, hc.2⟩
      refine ⟨hv.trans (Group.readV_writeWide_out _ _ _ _ _ _ _ (by omega) hn hk), hbad.trans ?_⟩
      rw [Group.mem_badV_writeWide]
      exact ⟨And.left, fun hm => ⟨hm, by omega⟩⟩
    · exact (congrArg (fun x : Group => { x with v := g.v, badV := g.badV }) hrest).trans hframe

theorem opCall_issues {s : State} {g : Group} {t : Team} {pc : W64} {run : BitVec 64} (h : s.Issues g t pc run) (u : UCtx) (off : BitVec 24)
    (hb : usesB0 u.i = false) {take : BitVec 64} (ht : u.takers ⟨u.i, s.focus, g, pc, run, u.len⟩ = take)
    (hblk : g.blocked (vKeys (g.lbud - 2) 2) = false) :
    opCall u off s = .next (s.setGroup s.focus ((g.writeLinks (pc + BitVec.ofNat 64 u.len) (lanesOf take)).place run
      [(branchTarget pc off, take), (pc + BitVec.ofNat 64 u.len, run &&& ~~~take)])) := by
  rw [opCall, withIssue_issues h _ _ _ hb]
  simp only [hblk, ht, Issue.target_eq, Bool.false_eq_true, if_false]
  rfl

/-- ret with good link pairs that nothing is to write: lanes whose pair is no instruction's address raise a cause and no lane moves (R377). -/
theorem opRet_issues {s : State} {g : Group} {t : Team} {pc : W64} {run : BitVec 64} (h : s.Issues g t pc run) (u : UCtx)
    (hb : usesB0 u.i = false) {take : BitVec 64} (ht : u.takers ⟨u.i, s.focus, g, pc, run, u.len⟩ = take)
    (hbad : g.badWords take (vKeys (g.lbud - 2) 2) = false) (hblk : g.blocked (vKeys (g.lbud - 2) 2) = false) :
    let bad := (lanesOf take).filter fun l => decide ((g.linkOf l).toNat % 4 ≠ 0)
    opRet u s = if bad = [] then .next (s.setGroup s.focus
        (g.place run ((lanesOf take).map (fun l => (g.linkOf l, laneBit l)) ++ [(pc + BitVec.ofNat 64 u.len, run &&& ~~~take)])))
      else s.traps u.i u.len g pc run 0x03 (bad.map fun l => (l, laneRec 0x03 (g.linkOf l).toNat)) := by
  have hfilter : (fun l => !((g.linkOf l).toNat % 4 == 0)) = fun l => decide ((g.linkOf l).toNat % 4 ≠ 0) := by
    funext l; rw [decide_not]; rfl
  rw [opRet, withIssue_issues h _ _ _ hb]
  simp only [hblk, hbad, ht, hfilter, Bool.false_eq_true, if_false, Bool.not_eq_true', beq_eq_false_iff_ne, ne_eq, ite_not]
  rfl

/-- Settles O14: each instruction's short form and twin act by one function, whose cases the lemmas above give. -/
theorem branchesAndCalls : Obligations.BranchesAndCalls := by
  unfold Obligations.BranchesAndCalls
  refine ⟨?bra, ?brx, ?call, ?ret⟩
  case bra =>
    intro s g t pc run off i len take h hform
    have hb := hform.usesB0_eq rfl (by decide)
    obtain ⟨u, rfl, rfl, htake, hexec⟩ := hform.exec_eq (k := fun u => opBra u off) (fun _ => rfl)
      fun gd mod s => congrArg (fun x => opBra _ x s) (off24_of_fields off)
    rw [hexec, opBra_issues h u off hb (htake _ _)]
  case brx =>
    intro s g t pc run a i len take h hform hbud hbad hblk
    have hb := hform.usesB0_eq rfl (by decide)
    obtain ⟨u, rfl, rfl, htake, hexec⟩ := hform.exec_eq (k := fun u => opBrx u a) (fun _ => rfl)
      fun gd mod s => congrArg (fun x => opBrx _ x s) (lo7_reg8 a)
    rw [hexec, opBrx_issues h u a hb (htake _ _) hbud hbad hblk]
    exact ⟨fun hgood => if_neg (by tauto), fun htaken hodd => if_pos ⟨htaken, hodd⟩⟩
  case call =>
    intro s g t pc run off i len take h hform h2 h256 hblk
    have hb := hform.usesB0_eq rfl (by decide)
    obtain ⟨u, rfl, rfl, htake, hexec⟩ := hform.exec_eq (k := fun u => opCall u off) (fun _ => rfl)
      fun gd mod s => congrArg (fun x => opCall _ x s) (off24_of_fields off)
    obtain ⟨hlink, hkeep, hframe⟩ := g.writeLinks_spec (pc + BitVec.ofNat 64 u.len) (lanesOf take) h2 h256
    refine ⟨_, (hexec s).trans (opCall_issues h u off hb (htake _ _) hblk), fun l hl => ?_, hkeep, hframe⟩
    have hlbud := congrArg Group.lbud (Group.eq_of_frame hframe)
    rw [Group.linkOf, hlbud, hlink l hl, BitVec.ofNat_toNat, BitVec.setWidth_eq]
  case ret =>
    intro s g t pc run i len take h hform hbad hblk
    have hb := hform.usesB0_eq rfl (by decide)
    obtain ⟨u, rfl, rfl, htake, hexec⟩ := hform.exec_eq (k := opRet) (fun _ => rfl) fun gd mod s => rfl
    rw [hexec, opRet_issues h u hb (htake _ _) hbad hblk]
    refine ⟨fun hgood => if_pos ?_, fun hodd => if_neg ?_⟩
    · rw [List.filter_eq_nil_iff]
      exact fun l hl => by simpa using hgood l hl
    · obtain ⟨l, hl, hne⟩ := hodd
      exact List.ne_nil_of_mem (List.mem_filter.2 ⟨hl, decide_eq_true hne⟩)

end Sys2Proof.Machine
end

section
/-! PROOFS. The checks of a lane instruction at issue, in order, with the cause that each raises (R172, R115, R117, R123, R131). -/

namespace Sys2Proof.Machine

/-- What the checks of the operands find: the budgets first, then the kinds, then the bounds of the indexed names (R172, R115, R117, R123). -/
theorem Issue.laneChecks_eq (c : Issue) (t : Team) (f : LaneForm) (on : BitVec 64) :
    c.laneChecks t f on =
      if (c.g.srcBudget f.a && c.g.srcBudget f.b && c.g.srcBudget f.c && c.g.dstBudget f.d f.dw) = false then some (0x05, [])
      else if (t.srcKind .lane f.a.src && t.srcKind .lane f.b.src && t.srcKind .lane f.c.src && t.dstKind .lane f.d) = false then some (0x04, [])
      else if c.g.dstBad on f.d f.dw ++ (c.g.srcBad on f.a ++ (c.g.srcBad on f.b ++ c.g.srcBad on f.c)) = [] then none
      else some (0x05, boundRecs (c.g.dstBad on f.d f.dw ++ (c.g.srcBad on f.a ++ (c.g.srcBad on f.b ++ c.g.srcBad on f.c)))) := by
  simp only [Issue.laneChecks, List.all_cons, List.all_nil, List.flatMap_cons, List.flatMap_nil, List.append_nil, Bool.and_true, Bool.and_assoc,
    Bool.not_eq_true', beq_eq_false_iff_ne, ne_eq, ite_not]

section
variable {s : State} {g : Group} {t : Team} {pc : W64} {run : BitVec 64} {i : Instr} {len : Nat} {f : LaneForm}
  {chk : List LaneIn → Option (Nat × Map W64)} {act : Issue → BitVec 64 → List LaneIn → Group → Group × List (Nat × Nat)}

/-- What the operand checks find is raised, and the instruction does nothing else. -/
theorem laneFrame_traps (h : s.Issues g t pc run) (hb : usesB0 i = false) {cause : Nat} {recs : Map W64}
    (hchecks : (Issue.mk i s.focus g pc run len).laneChecks t f (g.active run f.guard) = some (cause, recs)) :
    laneFrame i len f s chk act = s.traps i len g pc run cause recs := by
  have hon : run &&& g.guardMask f.guard = g.active run f.guard := rfl
  rw [laneFrame, withIssue_issues h i len _ hb]
  simp only [h.2.2, hon, hchecks]
  rfl

/-- An outstanding write of a register that it names makes the instruction wait (R129). -/
theorem laneFrame_holds (h : s.Issues g t pc run) (hb : usesB0 i = false)
    (hchecks : (Issue.mk i s.focus g pc run len).laneChecks t f (g.active run f.guard) = none)
    (hblk : g.blocked ((Issue.mk i s.focus g pc run len).laneKeys f (g.active run f.guard) ++ (if f.draws = 0 then [] else [drawKey])) = true) :
    laneFrame i len f s chk act = .next { s with stalled := true } := by
  have hon : run &&& g.guardMask f.guard = g.active run f.guard := rfl
  rw [laneFrame, withIssue_issues h i len _ hb]
  simp only [h.2.2, hon, hchecks, hblk, if_true]
  rfl

/-- An uncorrectable word among those that the instruction reads raises 0x0B and is counted at the group's die (R131, R483). -/
theorem laneFrame_badWord (h : s.Issues g t pc run) (hb : usesB0 i = false)
    (hchecks : (Issue.mk i s.focus g pc run len).laneChecks t f (g.active run f.guard) = none)
    (hblk : g.blocked ((Issue.mk i s.focus g pc run len).laneKeys f (g.active run f.guard) ++ (if f.draws = 0 then [] else [drawKey])) = false)
    (hbad : g.badWords (g.active run f.guard) ((Issue.mk i s.focus g pc run len).laneReads f (g.active run f.guard)) = true) :
    laneFrame i len f s chk act = (s.countUncorr g.die).traps i len g pc run 0x0B [] := by
  have hon : run &&& g.guardMask f.guard = g.active run f.guard := rfl
  rw [laneFrame, withIssue_issues h i len _ hb]
  simp only [h.2.2, hon, hchecks, hblk, hbad, if_true, Bool.false_eq_true, if_false]
  rfl

end

/-- Settles O8: the checks one after another, each reached once those before it have passed. -/
theorem laneIssueChecks : Obligations.LaneIssueChecks := by
  unfold Obligations.LaneIssueChecks
  intro i len f chk act s g t pc run hlane h
  obtain ⟨hb, hexec⟩ := hlane
  simp only [hexec]
  have hchecks := (Issue.mk i s.focus g pc run len).laneChecks_eq t f (g.active run f.guard)
  have hkeys : (Issue.mk i s.focus g pc run len).laneKeys f (g.active run f.guard) = g.srcKeys (g.active run f.guard) f.a ++
      (g.srcKeys (g.active run f.guard) f.b ++ g.srcKeys (g.active run f.guard) f.c) ++ g.dstKeys (g.active run f.guard) f.d f.dw := by
    simp [Issue.laneKeys]
  have hreads : (Issue.mk i s.focus g pc run len).laneReads f (g.active run f.guard) = g.srcKeys (g.active run f.guard) f.a ++
      (g.srcKeys (g.active run f.guard) f.b ++ g.srcKeys (g.active run f.guard) f.c) ++ dstIndex f.d f.dw ++
      (if f.draws = 0 then [] else [drawKey]) ++ f.extra := by
    simp [Issue.laneReads]
  refine ⟨fun hbudget => ?_, fun hbudget hkinds => ?_, fun hbudget hkinds hout => ?_, fun hbudget hkinds hout hblk => ?_,
    fun hbudget hkinds hout hblk hbad => ?_⟩
  · exact laneFrame_traps h hb (hchecks.trans (if_pos hbudget))
  · exact laneFrame_traps h hb (hchecks.trans (by simp [hbudget, hkinds]))
  · exact laneFrame_traps h hb (hchecks.trans (by simp only [hbudget, hkinds, hout, Bool.true_eq_false, if_false]))
  · exact laneFrame_holds h hb (hchecks.trans (by simp only [hbudget, hkinds, hout, Bool.true_eq_false, if_false, if_true])) (hkeys ▸ hblk)
  · exact laneFrame_badWord h hb (hchecks.trans (by simp only [hbudget, hkinds, hout, Bool.true_eq_false, if_false, if_true])) (hkeys ▸ hblk)
      (hreads ▸ hbad)

end Sys2Proof.Machine
end

section
/-! PROOFS. The guarded uniform forms: twins, smovi, compares, ssel and sbfe (R171, R364 to R369). -/

namespace Sys2Proof.Machine

/-- What an instruction over uniform operands that are no channels does, from its action: the frame reads, acts and writes (R364). -/
theorem uniDoes_of_frame {i : Instr} {len : Nat} {d : Option (BitVec 7)} {a b : Option USrc} {gd : Guard} {reads writes : List Nat}
    {act : W64 → W64 → Group → Group × W64} {out : Group → Group}
    (hexec : ∀ s, exec i s = uniFrame i len (d.map Operand.reg) a b gd s act) (ha : a.bind uChan = none) (hb : b.bind uChan = none)
    (hreads : (a.toList ++ b.toList).flatMap srcRegs = reads) (hwrites : (d.map BitVec.toNat).toList = writes)
    (hout : ∀ g : Group, let r := act (a.elim 0 (g.uValue · 0)) (b.elim 0 (g.uValue · 0)) g
      d.elim r.1 (fun n => r.1.writeS n.toNat r.2) = out g) : UniDoes i len reads writes gd out := by
  subst hreads hwrites
  intro s g t pc run h hr
  rw [hexec, uniFrame_ready h i len d a b gd act ha hb hr, ← hout g, apply_ite (s.moves · pc len run)]
  cases d <;> cases a <;> cases b <;> rfl

/-- The same for an instruction that writes one value in s[D] from the register A and the source B. -/
theorem uniDoes_write {i : Instr} {len : Nat} {d a : BitVec 7} {b : USrc} {gd : Guard} {fn : Group → W64 → W64 → W64} (hb : uChan b = none)
    (hexec : ∀ s, exec i s = uniFrame i len (some (.reg d)) (some (.reg a)) (some b) gd s fun x y g => (g, fn g x y)) :
    UniDoes i len (a.toNat :: srcRegs b) [d.toNat] gd fun g => g.writeS d.toNat (fn g (g.readS a.toNat) (g.uValue b 0)) :=
  uniDoes_of_frame (d := some d) hexec rfl hb (by simp [srcRegs]) rfl fun _ => rfl

/-- A compare writes b[D] alone (R367). -/
theorem uniDoes_compare {i : Instr} {bd bc : BitVec 2} {a : BitVec 7} {b : USrc} {use neg signed : Bool} {cond : BitVec 4} {gd : Guard}
    (hb : uChan b = none) (hexec : ∀ s, exec i s = uniCompare i bd (.reg a) b use neg bc cond signed gd s) :
    UniDoes i 8 (a.toNat :: srcRegs b) [] gd fun g => g.writeB bd.toNat
      ((if signed then condInt cond.toNat (g.readS a.toNat).toInt (g.uValue b 0).toInt
        else condInt cond.toNat (g.readS a.toNat).toNat (g.uValue b 0).toNat) && (!use || (g.readB bc.toNat != neg))) :=
  uniDoes_of_frame (d := none) hexec rfl hb (by simp [srcRegs, asUSrc]) rfl fun _ => rfl

/-! ## Twins -/

/-- A field of R164 whose bit 7 is 0 names a register. -/
theorem Operand.ofBits_reg (n : BitVec 7) : Operand.ofBits (0#1 ++ n) = .reg n := Operand.ofBits_bits (.reg n)

/-- The twin of a uniform arithmetic form acts as the short form does (R171). -/
theorem exec_uniformXf_arith {op : UniOp} (harith : arithOp op = true) (d a b : BitVec 8) (gd : Guard) (mod : BitVec 4) (imm : Option (BitVec 15))
    (s : State) : exec (.uniformXf op d a b gd mod imm) s = uniFrame (.uniformXf op d a b gd mod imm) 8 (some (.ofBits d))
      ((if oneSource op then none else some (.ofBits a)).map asUSrc) (some (xfB b imm)) gd s fun x y g => (g, uniValue op x y) :=
  if_pos harith

theorem arithOp_of_oneSource {op : UniOp} (h : oneSource op = true) : arithOp op = true := by
  unfold arithOp
  split <;> simp [h]

/-- The twin of a form of two sources, its source B a register or an immediate. -/
theorem uniDoes_twin2 {op : UniOp} (harith : arithOp op = true) (htwo : oneSource op = false) (d a : BitVec 7) (b : BitVec 8) (gd : Guard)
    (mod : BitVec 4) (imm : Option (BitVec 15)) (hb : uChan (xfB b imm) = none) :
    UniDoes (.uniformXf op (0#1 ++ d) (0#1 ++ a) b gd mod imm) 8 (a.toNat :: srcRegs (xfB b imm)) [d.toNat] gd fun g =>
      g.writeS d.toNat (uniValue op (g.readS a.toNat) (g.uValue (xfB b imm) 0)) :=
  uniDoes_write hb (fn := fun _ => uniValue op) fun s => by
    rw [exec_uniformXf_arith harith, Operand.ofBits_reg, Operand.ofBits_reg, htwo]
    rfl

/-- The twin of a form of one source. -/
theorem uniDoes_twin1 {op : UniOp} (hone : oneSource op = true) (d b : BitVec 7) (a : BitVec 8) (gd : Guard) (mod : BitVec 4) :
    UniDoes (.uniformXf op (0#1 ++ d) a (0#1 ++ b) gd mod none) 8 [b.toNat] [d.toNat] gd fun g =>
      g.writeS d.toNat (uniValue op 0 (g.readS b.toNat)) :=
  uniDoes_of_frame (d := some d) (a := none) (b := some (.reg b)) (act := fun x y g => (g, uniValue op x y)) (fun s => by
    rw [exec_uniformXf_arith (arithOp_of_oneSource hone), Operand.ofBits_reg, hone, xfB, Operand.ofBits_reg]
    rfl) rfl rfl rfl rfl fun _ => rfl

/-! ## smovi and sbfe -/

/-- smovi in each of its kinds (R366). -/
theorem uniDoes_smovi (d : BitVec 7) (imm : W32) (kind : BitVec 2) (gd : Guard) :
    UniDoes (.smovi d imm kind gd) 8 (if kind = 2 then [d.toNat] else []) [d.toNat] gd fun g => g.writeS d.toNat
      (if kind = 0 then imm.signExtend 64 else if kind = 1 then imm.setWidth 64 else imm ++ (g.readS d.toNat).extractLsb' 0 32) := by
  intro s g t pc run h hr
  have hexec : exec (.smovi d imm kind gd) s = execSmovi d imm kind gd s := rfl
  rw [hexec, execSmovi, uniOp_ready h _ _ _ _ hr]
  exact (apply_ite (fun g' => s.moves g' pc 8 run) _ _ _).symm

theorem toSigned_toNat {n : Nat} (x : BitVec n) : toSigned x.toNat n = x.toInt := by
  rw [toSigned, Nat.mod_eq_of_lt x.isLt, BitVec.toInt_eq_toNat_cond]

/-- sbfe's value is the field of R369. -/
theorem sbfeValue_eq (signed : Bool) (a b : W64) : sbfeValue signed a b = uniField signed a b := by
  simp only [sbfeValue, uniField, bits_toNat b 0 8 (by decide), bits_toNat b 8 8 (by decide), ← BitVec.extractLsb'_toNat, toSigned_toNat,
    BitVec.ofNat_toNat]
  rfl

/-- Settles O11: the twins, smovi, the compares, ssel and sbfe are each a use of the lemmas above. -/
theorem uniformExtended : Obligations.UniformExtended := by
  unfold Obligations.UniformExtended
  refine ⟨?twinReg, ?twinImm, ?twinOne, ?smovi, ?scmpS, ?scmpN, ?ssel, ?sbfe⟩
  case twinReg =>
    intro op d a b gd mod harith htwo
    have h := uniDoes_twin2 harith htwo d a (0#1 ++ b) gd mod none (by rw [xfB, Operand.ofBits_reg]; rfl)
    rwa [xfB, Operand.ofBits_reg] at h
  case twinImm => exact fun op d a b v gd mod harith htwo => uniDoes_twin2 harith htwo d a b gd mod (some v) rfl
  case twinOne => exact fun op d b a gd mod hone => uniDoes_twin1 hone d b a gd mod
  case smovi => exact uniDoes_smovi
  case scmpS => exact fun bd a b use neg bc cond gd hb => uniDoes_compare (signed := true) hb fun _ => rfl
  case scmpN => exact fun bd a b use neg bc cond gd hb => uniDoes_compare (signed := false) hb fun _ => rfl
  case ssel => exact fun d a b bc neg gd hb => uniDoes_write hb (fn := fun g x y => if g.readB bc.toNat != neg then x else y) fun _ => rfl
  case sbfe =>
    intro d a b signed gd hb
    simp only [← sbfeValue_eq]
    exact uniDoes_write hb (fn := fun _ => sbfeValue signed) fun _ => rfl

end Sys2Proof.Machine
end

section
/-! PROOFS. The twins of the short lane forms (R171) and xset (R116, R235). -/

namespace Sys2Proof.Machine

/-- A lane instruction with no channel and nothing that stops it, whose data check finds a cause: it raises the cause and does nothing else. -/
theorem laneFrame_raises {s : State} {g : Group} {t : Team} {pc : W64} {run : BitVec 64} {i : Instr} {len : Nat} {f : LaneForm}
    {chk : List LaneIn → Option (Nat × Map W64)} {act : Issue → BitVec 64 → List LaneIn → Group → Group × List (Nat × Nat)} {cause : Nat}
    {recs : Map W64} (h : s.Issues g t pc run) (hb : usesB0 i = false) (hn : f.noChan = true) (hr : g.LaneReady f (g.active run f.guard))
    (hc : chk ((lanesOf (g.active run f.guard)).map (g.laneIn f)) = some (cause, recs)) :
    laneFrame i len f s chk act = s.traps i len g pc run cause recs := by
  have hon : run &&& g.guardMask f.guard = g.active run f.guard := rfl
  have hchecks := Issue.laneChecks_ready (c := ⟨i, s.focus, g, pc, run, len⟩) (t := t) hn hr
  have hinputs := g.inputs_noChan s.tick f (g.active run f.guard) hn
  obtain ⟨-, -, -, -, -, -, -, -, hwords, hblk⟩ := hr
  have hkeys : g.blocked ((Issue.mk i s.focus g pc run len).laneKeys f (g.active run f.guard) ++ (if f.draws = 0 then [] else [drawKey])) = false := hblk
  have hreads : g.badWords (g.active run f.guard) ((Issue.mk i s.focus g pc run len).laneReads f (g.active run f.guard)) = false := hwords
  simp only [LaneForm.noChan, Bool.and_eq_true, Bool.not_eq_true', Option.isNone_iff_eq_none] at hn
  obtain ⟨⟨⟨hd, ha⟩, hb'⟩, hc'⟩ := hn
  rw [laneFrame, withIssue_issues h i len _ hb]
  simp only [h.2.2, hon, hchecks, hkeys, hreads, ha, hb', hc', hd, hinputs, hc, List.any_cons, List.any_nil, Option.isSome_none, Bool.or_false,
    Bool.not_false, Bool.and_self, if_true, Bool.false_eq_true, if_false]
  rfl

/-! ## Twins -/

theorem exec_laneXf (op : LaneOp) (x : LX) (s : State) : exec (.laneXf op x) s = laneShort (.laneXf op x) 8 op x s := rfl

/-- A short form that computes each lane for itself does so over the extended form's fields, under the mode of MOD (R171). -/
theorem laneShort_eq (i : Instr) (len : Nat) {op : LaneOp} (x : LX) (s : State) (hlid : op ≠ .lidB32) (hlnrd : op ≠ .lnrdB32) (hlnrdx : op ≠ .lnrdxB32)
    (hxget : op ≠ .xget) (hxset : op ≠ .xset) :
    laneShort i len op x s = laneOp i len (twinForm op x) (laneValue op (modeOf x.mod.toNat)) s := by
  unfold laneShort
  split
  · exact absurd rfl hlid
  · exact absurd rfl hlnrd
  · exact absurd rfl hlnrdx
  · exact absurd rfl hxget
  · exact absurd rfl hxset
  · rfl

theorem twinForm_dw (op : LaneOp) (x : LX) : (twinForm op x).dw = 0 ∨ (twinForm op x).dw = 1 ∨ (twinForm op x).dw = 2 ∨ (twinForm op x).dw = 4 := by
  cases op <;> simp [twinForm, LaneOp.shape]

/-- lid's twin (R234). -/
theorem writesLanes_lidXf (x : LX) : WritesLanes (.laneXf .lidB32 x) 8 (twinForm .lidB32 x) fun g _ l => value (if g.gang then l % 16 else l) :=
  writesLanes_of (act := lidAct (twinForm .lidB32 x)) rfl (.inr (.inl rfl)) (fun _ => rfl) fun _ on g =>
    writeVals_map g _ _ on (fun l => value (g.laneNumber l)) (fun _ => rfl) (List.map_map ..)

/-- xget's twin (R235). -/
theorem writesLanes_xgetXf (x : LX) : WritesLanes (.laneXf .xget x) 8 { twinForm .xget x with b := noSrc, extra := [xKey (smallSrc x.b)] }
    fun g _ l => value ((g.readX l (smallSrc x.b)).toNat &&& 0x01FF00FF) :=
  writesLanes_of (act := xgetAct (twinForm .xget x) (smallSrc x.b)) rfl (.inr (.inl rfl)) (fun _ => rfl) fun _ on g =>
    writeVals_map g (twinForm .xget x) _ on (fun l => value ((g.readX l (smallSrc x.b)).toNat &&& 0x01FF00FF)) (fun _ => rfl) (List.map_map ..)

/-- The value that lnrd or lnrdx puts in a lane: that of the lane it names, if active, else the lane's own (R241, R242). -/
theorem exchangeAct_eq (f : LaneForm) (xor : Bool) (c : Issue) (on : BitVec 64) (g : Group) :
    let out := fun l => g.exchanged f on l
      (if xor then (l - (g.exchange l).2) ^^^ ((g.laneIn f l).b % (g.exchange l).1) else (g.laneIn f l).b % (g.exchange l).1)
    (exchangeAct f xor c on ((lanesOf on).map (g.laneIn f)) g).1 =
      (g.putLanes f.d f.dw ((lanesOf on).map fun l => (l, (out l).val))).raiseFlags ((lanesOf on).map fun l => (out l).flags) := by
  refine writeVals_map g f _ on _ (fun _ => rfl) ?_
  rw [List.map_map]
  exact List.map_congr_left fun l _ => congrArg (Prod.mk l) (pick_eq g f (lanesOf on) l _)

/-! ## xset -/

theorem Group.afterDraws_zero (g : Group) (r : List Nat) : g.afterDraws 0 r = g := by
  induction r with
  | nil => rfl
  | cons _ _ ih => exact ih

theorem Group.active_unguarded (g : Group) (run : BitVec 64) : g.active run Guard.none = run := BitVec.and_allOnes

/-- Operand B of xset in a lane, read from a register. -/
theorem laneIn_formB (g : Group) (n : BitVec 7) (l : Nat) : (g.laneIn (formB (.reg n)) l).b = (g.readV l n.toNat).toNat :=
  Nat.add_zero _

/-- xset's data check names the lanes whose value has a reserved bit of R116. -/
theorem xsetCheck_eq (g : Group) (n : BitVec 7) (r : List Nat) :
    let bad := r.filter fun l => g.readV l n.toNat &&& 0xFE00FF00#32 != 0
    xsetCheck (r.map (g.laneIn (formB (.reg n)))) = if bad = [] then none else some (0x02, bad.map fun l => (l, laneRec 0x02 0)) := by
  have hbit : ((fun x : LaneIn => !(x.b &&& 0xFE00FF00 == 0)) ∘ g.laneIn (formB (.reg n))) =
      fun l => g.readV l n.toNat &&& 0xFE00FF00#32 != 0 := by
    funext l
    rw [Function.comp_apply, laneIn_formB, bne, Bool.not_inj_iff, Bool.eq_iff_iff, beq_iff_eq, beq_iff_eq, ← BitVec.toNat_inj, BitVec.toNat_and]
    rfl
  rw [xsetCheck, List.filter_map, hbit]
  cases r.filter fun l => g.readV l n.toNat &&& 0xFE00FF00#32 != 0 with
  | nil => rfl
  | cons l bad => simp only [List.map_cons, List.map_map]; rfl

theorem Group.readX_writeX (g : Group) (a l k m : Nat) (x : W32) (hk : k < 4) (hm : m < 4) :
    (g.writeX a k x).readX l m = if a = l ∧ k = m then x else g.readX l m := by
  have hkey : a * 4 + k = l * 4 + m ↔ a = l ∧ k = m := by omega
  rw [Group.readX, Group.writeX, Map.getD_set, Group.readX]
  simp only [hkey]

theorem Group.mem_badX_writeX (g : Group) (a l k m : Nat) (x : W32) (hk : k < 4) (hm : m < 4) :
    l * 4 + m ∈ (g.writeX a k x).badX ↔ l * 4 + m ∈ g.badX ∧ ¬(l = a ∧ m = k) := by
  have hkey : l * 4 + m = a * 4 + k ↔ l = a ∧ m = k := by omega
  rw [Group.writeX_badX, unmark, List.mem_filter, Bool.not_eq_true', beq_eq_false_iff_ne, ne_eq, hkey]

/-- Index registers written in one lane after another. -/
theorem Group.writeXs_spec (k : Nat) (val : Nat → W32) (r : List Nat) (g : Group) (hk : k < 4) :
    let g' := r.foldl (fun g l => g.writeX l k (val l)) g
    (∀ l m, m < 4 → g'.readX l m = if l ∈ r ∧ m = k then val l else g.readX l m) ∧
    (∀ l m, m < 4 → ¬(l ∈ r ∧ m = k) → (l * 4 + m ∈ g'.badX ↔ l * 4 + m ∈ g.badX)) ∧ { g' with x := g.x, badX := g.badX } = g := by
  induction r generalizing g with
  | nil => exact ⟨fun l m _ => (if_neg fun hc => List.not_mem_nil hc.1).symm, fun l m _ _ => Iff.rfl, rfl⟩
  | cons a r ih =>
    obtain ⟨hread, hbad, hrest⟩ := ih (g.writeX a k (val a))
    refine ⟨fun l m hm => ?_, fun l m hm hout => ?_, ?_⟩
    · rw [List.foldl_cons, hread l m hm, Group.readX_writeX _ _ _ _ _ _ hk hm]
      grind
    · have hr : ¬(l ∈ r ∧ m = k) := fun hc => hout ⟨List.mem_cons_of_mem a hc.1, hc.2⟩
      have ha : ¬(l = a ∧ m = k) := fun hc => hout ⟨List.mem_cons.2 (.inl hc.1), hc.2⟩
      rw [List.foldl_cons, hbad l m hm hr, Group.mem_badX_writeX _ _ _ _ _ _ hk hm, and_iff_left ha]
    · exact congrArg (fun y : Group => { y with x := g.x, badX := g.badX }) hrest

/-- What xset does in the active lanes (R235). -/
theorem xsetAct_eq (g : Group) (n : BitVec 7) (k : Nat) (c : Issue) (on : BitVec 64) (r : List Nat) :
    (xsetAct k c on (r.map (g.laneIn (formB (.reg n)))) g).1 = r.foldl (fun g' l => g'.writeX l k (g.readV l n.toNat)) g := by
  have hval : ∀ l, BitVec.ofNat 32 (g.laneIn (formB (.reg n)) l).b = g.readV l n.toNat := fun l => by
    rw [laneIn_formB, BitVec.ofNat_toNat, BitVec.setWidth_eq]
  simp only [xsetAct, List.foldl_map, hval]
  rfl

/-- The index register that xset names (R235). -/
theorem exec_xset (x : BitVec 2) (n : BitVec 7) (s : State) :
    exec (.xset x (.reg n)) s = laneFrame (.xset x (.reg n)) 4 (formB (.reg n)) s xsetCheck (xsetAct x.toNat) := by
  have hx : (x.setWidth 7).toNat = x.toNat := by rw [BitVec.toNat_setWidth]; omega
  rw [← hx]
  rfl

/-- Settles O7: the twins through the frame of lane instructions, and xset by its data check and its writes. -/
theorem laneTwinsAndXset : Obligations.LaneTwinsAndXset := by
  unfold Obligations.LaneTwinsAndXset
  refine ⟨?arith, writesLanes_lidXf, writesLanes_xgetXf, ?lnrd, ?lnrdx, ?xset⟩
  case arith => exact fun op x hlid hlnrd hlnrdx hxget hxset =>
    writesLanes_laneOp rfl (twinForm_dw op x) fun s => (exec_laneXf op x s).trans (laneShort_eq _ 8 x s hlid hlnrd hlnrdx hxget hxset)
  case lnrd => exact fun x =>
    writesLanes_of (act := exchangeAct (twinForm .lnrdB32 x) false) rfl (twinForm_dw ..) (fun _ => rfl) (exchangeAct_eq (twinForm .lnrdB32 x) false)
  case lnrdx => exact fun x =>
    writesLanes_of (act := exchangeAct (twinForm .lnrdxB32 x) true) rfl (twinForm_dw ..) (fun _ => rfl) (exchangeAct_eq (twinForm .lnrdxB32 x) true)
  case xset =>
    intro s g t pc run x n h hr
    have hguard : (formB (.reg n)).guard = Guard.none := rfl
    have hcheck := xsetCheck_eq g n (lanesOf run)
    rw [exec_xset]
    constructor
    · rintro ⟨l, hl, hbit⟩
      refine laneFrame_raises h rfl rfl hr ?_
      rw [hguard, Group.active_unguarded, hcheck]
      exact if_neg (List.ne_nil_of_mem (List.mem_filter.2 ⟨hl, by simpa using hbit⟩))
    · intro hbits
      have hnone : xsetCheck ((lanesOf (g.active run (formB (.reg n)).guard)).map (g.laneIn (formB (.reg n)))) = none := by
        rw [hguard, Group.active_unguarded, hcheck]
        exact if_pos (List.filter_eq_nil_iff.2 fun l hl => by simpa using hbits l hl)
      refine ⟨_, laneFrame_ready h _ 4 _ _ _ rfl rfl hr hnone, ?_⟩
      rw [hguard, Group.active_unguarded, xsetAct_eq]
      exact (Group.afterDraws_zero _ _).symm ▸ Group.writeXs_spec x.toNat (fun l => g.readV l n.toNat) (lanesOf run) g x.isLt

end Sys2Proof.Machine
end

section
/-! PROOFS. The checks of a memory instruction at issue, in their order, with the cause and the lanes that each records (R189 to R191, R131, R129). -/

namespace Sys2Proof.Machine

/-- The forms of memory instructions issue by the frame that they share. -/
theorem exec_of_memOp {i : Instr} {op : MemOp} (h : memOp i = some op) (s : State) : exec i s = memIssue i op s := by
  unfold memOp at h
  split at h <;> cases h <;> rfl

theorem usesB0_of_memOp {i : Instr} {op : MemOp} (h : memOp i = some op) : usesB0 i = false := by
  unfold memOp at h
  split at h <;> cases h <;> rfl

/-! ## The frame in the words of the statements -/

/-- The lanes that a form performs and the helper lanes that it suppresses, as the frame picks them (R191). -/
theorem MemOp.performs_eq (op : MemOp) (g : Group) (act : BitVec 64) :
    (if op.kind.skipsHelpers then act &&& ~~~g.help else act) = op.performs g act := by
  cases hk : op.kind.isLoad <;> simp [MemKind.skipsHelpers, MemOp.performs, hk]

theorem MemOp.performs_ite (op : MemOp) (g : Group) (act : BitVec 64) :
    (if op.kind.skipsHelpers then op.performs g act else act) = op.performs g act := by
  cases hk : op.kind.isLoad <;> simp [MemKind.skipsHelpers, MemOp.performs, hk]

theorem MemOp.suppresses_eq (op : MemOp) (g : Group) (act : BitVec 64) :
    (if op.kind.skipsHelpers then act &&& g.help else 0) = op.suppresses g act := by
  cases hk : op.kind.isLoad <;> simp [MemKind.skipsHelpers, MemOp.suppresses, hk]

/-- The failing lanes of checks 2 to 5 (R189), as the frame lists them. -/
def State.memFails (s : State) (op : MemOp) (g : Group) (t : Team) (run : BitVec 64) (e : Entry) : List LaneFail :=
  (if op.uni then [] else (op.bounds g run).map fun b => (⟨b.1, 2, 0x05, b.2⟩ : LaneFail)) ++ s.reqFails g t op (op.reqs e)

/-- The release that a form makes before its lanes are performed, or the wait for the group's earlier reads where it acquires (R209, R211). -/
def State.memRelease (s : State) (op : MemOp) (g : Group) (e : Entry) : State × Bool :=
  match op.kind.releases with
  | none => (s, !(op.kind.acquires && g.unsettled))
  | some scope => if g.unsettled then (s, false) else s.releaseAll s.focus scope (s.objectsOf g (op.reqs e))

/-- The instruction enters its group's memory pipeline (R76, R196): its operands are captured, its counter rises, and it starts. -/
def State.memEnter (s s1 : State) (op : MemOp) (g g1 : Group) (t : Team) (pc : W64) (run : BitVec 64) (e : Entry) : State :=
  let e1 := { e with id := s1.nextId, seq := s1.nextId, ranges := (op.reqs e).map t.rangeOf }
  let h := g1.afterDraws (if e1.draws = [] then 0 else 1) (lanesOf (op.performs g (g.active run op.guard)))
  let g2 : Group := { (h.place run [(pc + 8, run)]) with entries := h.entries ++ [e1] }
  (({ s1 with nextId := s1.nextId + 1 } : State).setGroup s.focus (g2.countUp op.kind.counter)).startEntry s.focus e1 op

/-- What a memory instruction does once its checks have passed (R191, R196, R76, R209): helper lanes alone get 0 at once; it waits for room in its
counter, for the accesses and the acquire before it, and for room in the store buffer; after its release it enters the pipeline. -/
def State.memPassed (s : State) (i : Instr) (op : MemOp) (g : Group) (t : Team) (pc : W64) (run : BitVec 64) (e : Entry) : Result :=
  let helped := if op.dw = 0 then g else
    (lanesOf (op.suppresses g (g.active run op.guard))).foldl (fun g l => g.writeWide l (g.vregOf l op.dst) op.dw 0) g
  if op.reqs e = [] then s.moves helped pc 8 run
  else if 255 ≤ g.count op.kind.counter then s.hold
  else if g.acquiring || g.overlaps ((op.reqs e).map t.rangeOf) then s.hold
  else if op.kind.writes && !op.kind.isAtomic && decide (64 < g.sbuf.length + t.linesNeeded (op.writesOf e)) then s.hold
  else
    match s.memRelease op g e with
    | (s1, false) => s1.hold
    | (s1, true) =>
      match (Issue.mk i s.focus g pc run 8).still s1 with
      | none => .next s1
      | some g1 => .next (s.memEnter s1 op g g1 t pc run e)

section
variable {s : State} {g : Group} {t : Team} {pc : W64} {run : BitVec 64} {i : Instr} {op : MemOp}

/-- The checks of a memory instruction one after another (R189, R131, R129, R364), and what it does once they have passed. -/
theorem memIssue_eq (h : s.Issues g t pc run) (hb : usesB0 i = false) {e : Entry} (he : e = s.memEntry i op g pc run) :
    memIssue i op s =
      if op.budgetOk i g = false then s.traps i 8 g pc run 0x05 []
      else if g.blocked (op.reads g run ++ e.written) = true then .next { s with stalled := true }
      else if g.badWords (if op.uni then run else g.active run op.guard) (op.reads g run ++ (if e.draws = [] then [] else [drawKey])) = true then
        (s.countUncorr g.die).traps i 8 g pc run 0x0B []
      else if (op.uni && !g.guardTrue op.guard) = true then s.moves g pc 8 run
      else
        match worst (s.memFails op g t run e) with
        | some (cause, recs) => s.traps i 8 g pc run cause recs
        | none => s.memPassed i op g t pc run e := by
  subst he
  have hon : run &&& g.guardMask op.guard = g.active run op.guard := rfl
  have hentry : (Issue.mk i s.focus g pc run 8).memEntry op (op.performs g (g.active run op.guard)) (op.suppresses g (g.active run op.guard)) s.nextId =
      s.memEntry i op g pc run := rfl
  have hbounds : op.boundFails g (op.performs g (g.active run op.guard)) = op.bounds g run := rfl
  have hreads : op.readKeys g (g.active run op.guard &&& ~~~maskOf ((op.bounds g run).map fun b => b.1)) = op.reads g run := rfl
  unfold memIssue
  rw [withIssue_issues h i 8 _ hb]
  simp only [h.2.2, hon, MemOp.performs_eq, MemOp.performs_ite, MemOp.suppresses_eq, hentry, hbounds, hreads, Bool.not_eq_true', Entry.written,
    List.append_assoc]
  cases hskip : op.uni && !g.guardTrue op.guard <;> rfl

end

/-! ## The lowest failing check, and each lane's own (R190) -/

/-- A failing lane noted: its record stands unless one of a lower or the same check does. -/
def noteFail (m : Map LaneFail) (f : LaneFail) : Map LaneFail :=
  match m.get? f.lane with
  | some g => if f.check < g.check then m.set f.lane f else m
  | none => m.set f.lane f

theorem get?_noteFail_of_lower {m : Map LaneFail} {f : LaneFail} (h : ∀ g, m.get? f.lane = some g → f.check < g.check) :
    (noteFail m f).get? f.lane = some f := by
  unfold noteFail
  cases hm : m.get? f.lane with
  | none => exact Map.get?_set_self m f.lane f
  | some g => exact (congrArg (Map.get? · f.lane) (if_pos (h g hm))).trans (Map.get?_set_self m f.lane f)

theorem get?_noteFail_of_ne (m : Map LaneFail) (f : LaneFail) {k : Nat} (h : f.lane ≠ k) : (noteFail m f).get? k = m.get? k := by
  unfold noteFail
  split
  · split
    · exact Map.get?_set_ne m f h
    · rfl
  · exact Map.get?_set_ne m f h

theorem noteFail_of_not_lower {m : Map LaneFail} {f g : LaneFail} (h : m.get? f.lane = some g) (hle : g.check ≤ f.check) : noteFail m f = m := by
  unfold noteFail
  rw [h]
  exact if_neg (Nat.not_lt.2 hle)

/-- A lane's record stands through failures of no lower check. -/
theorem get?_notes_of_lowest {f : LaneFail} (r : List LaneFail) (m : Map LaneFail) (hm : m.get? f.lane = some f)
    (hr : ∀ x ∈ r, x.lane = f.lane → f.check ≤ x.check) : (r.foldl noteFail m).get? f.lane = some f := by
  induction r generalizing m with
  | nil => exact hm
  | cons x r ih =>
    refine ih _ ?_ fun y hy => hr y (List.mem_cons_of_mem x hy)
    by_cases hx : x.lane = f.lane
    · rwa [noteFail_of_not_lower (hx ▸ hm) (hr x List.mem_cons_self hx)]
    · rwa [get?_noteFail_of_ne m x hx]

/-- Where every noted failure of a lane is of a higher check than c, so is its record. -/
theorem check_lt_notes (c k : Nat) (r : List LaneFail) (m : Map LaneFail) (hm : ∀ g, m.get? k = some g → c < g.check)
    (hr : ∀ x ∈ r, x.lane = k → c < x.check) : ∀ g, (r.foldl noteFail m).get? k = some g → c < g.check := by
  induction r generalizing m with
  | nil => exact hm
  | cons x r ih =>
    refine ih _ (fun g hg => ?_) fun y hy => hr y (List.mem_cons_of_mem x hy)
    by_cases hx : x.lane = k
    · subst hx
      have hcx := hr x List.mem_cons_self rfl
      unfold noteFail at hg
      split at hg
      · split at hg
        · rw [Map.get?_set_self, Option.some.injEq] at hg
          exact hg ▸ hcx
        · exact hm g hg
      · rw [Map.get?_set_self, Option.some.injEq] at hg
        exact hg ▸ hcx
    · exact hm g (by rwa [get?_noteFail_of_ne m x hx] at hg)

theorem failRecs_eq (l : List LaneFail) : failRecs l = (l.foldl noteFail []).map fun f => (f.1, laneRec f.2.cause f.2.addr) := rfl

theorem get?_map_val {α β : Type} (m : Map α) (f : α → β) (k : Nat) : Map.get? (m.map fun e => (e.1, f e.2)) k = (m.get? k).map f := by
  induction m with
  | nil => rfl
  | cons e r ih =>
    rw [List.map_cons, Map.get?_cons, Map.get?_cons, ih]
    split <;> rfl

/-- A lane's record names the first of its lowest failing checks (R190). -/
theorem get?_failRecs {before after : List LaneFail} {f : LaneFail} (hbefore : ∀ x ∈ before, x.lane = f.lane → f.check < x.check)
    (hafter : ∀ x ∈ after, x.lane = f.lane → f.check ≤ x.check) :
    (failRecs (before ++ f :: after)).get? f.lane = some (laneRec f.cause f.addr) := by
  have hnoted : ((before ++ f :: after).foldl noteFail []).get? f.lane = some f := by
    rw [List.foldl_append, List.foldl_cons]
    exact get?_notes_of_lowest after _ (get?_noteFail_of_lower (check_lt_notes _ _ before [] nofun hbefore)) hafter
  rw [failRecs_eq, get?_map_val _ fun f : LaneFail => laneRec f.cause f.addr, hnoted]
  rfl

/-- The failure of the lowest check. -/
theorem lowest_spec (r : List LaneFail) (f : LaneFail) :
    let m := r.foldl (fun m e => if e.check < m.check then e else m) f
    m ∈ f :: r ∧ ∀ x ∈ f :: r, m.check ≤ x.check := by
  induction r generalizing f with
  | nil => simp
  | cons e r ih =>
    obtain ⟨hmem, hle⟩ := ih (if e.check < f.check then e else f)
    rw [List.foldl_cons]
    generalize r.foldl (fun m e => if e.check < m.check then e else m) (if e.check < f.check then e else f) = m at hmem hle
    have hfirst := hle _ List.mem_cons_self
    refine ⟨?_, fun x hx => ?_⟩
    · split at hmem <;> grind
    · split at hfirst <;> grind

/-- What failing lanes raise: the cause of the lowest failing check, and each lane's record (R190). -/
theorem worst_of_ne_nil {l : List LaneFail} (h : l ≠ []) : ∃ cause, worst l = some (cause, failRecs l) ∧
    ∃ f ∈ l, f.cause = cause ∧ ∀ x ∈ l, f.check ≤ x.check := by
  cases l with
  | nil => exact absurd rfl h
  | cons f r => exact ⟨_, rfl, _, (lowest_spec r f).1, rfl, (lowest_spec r f).2⟩

/-! ## Checks 3 to 5 of one request (R189) -/

theorem State.reqCheck_of_aligned {s : State} {g : Group} {t : Team} {op : MemOp} {q : Req} (h : q.a % op.align = 0) {c : Nat}
    (hc : s.rangeCheck g t q = some c) : s.reqCheck g t op q = some (4, c) := by
  simp [State.reqCheck, h, hc]

/-- Settles O25: the frame's checks in their order; the lowest failing check is the least element of the failing lanes, and a lane's record is
the first of its lowest. -/
theorem memoryIssueChecks : Obligations.MemoryIssueChecks := by
  unfold Obligations.MemoryIssueChecks
  refine ⟨fun s i op g t pc run e h hop he => ?issue, fun s g t op q => ?request⟩
  case issue =>
    rw [exec_of_memOp hop, memIssue_eq h (usesB0_of_memOp hop) he]
    refine ⟨fun hbudget => if_pos hbudget, fun hbudget hwaits => ?_, fun hbudget hwaits hwords => ?_, fun hbudget hwords hwaits huni hguard => ?_,
      fun hbudget hwords hwaits hguard hfails => ?_⟩
    · rw [if_neg (by simp [hbudget]), if_pos hwaits]
    · rw [if_neg (by simp [hbudget]), if_neg (by simp [hwaits]), if_pos hwords]
    · rw [if_neg (by simp [hbudget]), if_neg (by simp [hwaits]), if_neg (by simp [hwords]), if_pos (by simp [huni, hguard])]
    · obtain ⟨cause, hworst, hlowest⟩ := worst_of_ne_nil hfails
      refine ⟨cause, _, ?_, hlowest, fun before f after hsplit hbefore hafter => hsplit ▸ get?_failRecs hbefore hafter⟩
      rw [if_neg (by simp [hbudget]), if_neg (by simp [hwaits]), if_neg (by simp [hwords]), if_neg (by simpa using hguard), State.memFails, hworst]
  case request =>
    refine ⟨fun halign => ?_, fun halign hsp hout => ?_, fun halign hsp hout => ?_, fun c halign hsp hc => ?_, fun halign hsp hin hchan => ?_⟩
    · simp [State.reqCheck, halign]
    · refine State.reqCheck_of_aligned halign ?_
      have hnot : (canonical q.a && canonical ((q.a + (q.n - 1)) % 2 ^ 64)) = false := Bool.and_eq_false_iff.2 hout
      rw [State.rangeCheck, hsp]
      exact if_neg (by rw [hnot]; decide)
    · exact State.reqCheck_of_aligned halign (by simp [State.rangeCheck, hsp, hout])
    · exact State.reqCheck_of_aligned halign (by simp [State.rangeCheck, hsp, hc])
    · simp [State.reqCheck, halign, State.rangeCheck, hsp, Nat.not_lt.2 hin, Team.placeCheck, hchan]

end Sys2Proof.Machine
end

section
/-! PROOFS. What asking for pages changes (R64, R68, R69), and what it does not look at: the groups and the record numbers. -/

namespace Sys2Proof

variable {α : Type}

theorem Map.set_set (m : Map α) (n : Nat) (v w : α) : (m.set n v).set n w = m.set n w := by
  induction m with
  | nil => simp [Map.set]
  | cons e r ih =>
    obtain ⟨k, x⟩ := e
    simp only [Map.set]
    split
    · simp [Map.set]
    · split
      · simp [Map.set]
      · simp [Map.set, *]

theorem Map.modify_of_get? {m : Map α} {n : Nat} {v : α} (h : m.get? n = some v) (f : α → α) : m.modify n f = m.set n (f v) := by
  rw [Map.modify, h]

theorem Map.set_of_get? {m : Map α} {n : Nat} {v : α} (hs : m.get? n = some v) (hm : Map.sorted m = true) : m.set n v = m := by
  induction m with
  | nil => simp at hs
  | cons e r ih =>
    obtain ⟨k, x⟩ := e
    obtain ⟨ha, hr⟩ := (Map.sorted_cons k x r).1 hm
    rw [Map.get?_cons] at hs
    split at hs
    · next hk => simp_all [Map.set]
    · next hk =>
      have hlt : k < n := ha _ (Map.mem_of_get? hs)
      rw [Map.set, if_neg (by omega), if_neg hk, ih hs hr]

namespace Machine

/-! ## States that differ in what has been asked for -/

namespace State

variable {s t u : State}

theorem sameBut.refl (s : State) : s.sameBut s := rfl

theorem sameBut.trans (h : s.sameBut t) (h' : t.sameBut u) : s.sameBut u :=
  (congrArg (fun x : State => { x with waits := s.waits, ats := s.ats, pri := s.pri, l1 := s.l1, dieTlb := s.dieTlb }) h').trans h

/-- The later state is the earlier one with other waiting accesses, requests and caches. -/
theorem sameBut.exists (h : s.sameBut t) : ∃ w a p l d, t = { s with waits := w, ats := a, pri := p, l1 := l, dieTlb := d } :=
  ⟨t.waits, t.ats, t.pri, t.l1, t.dieTlb, by rw [← h]⟩

theorem sameBut_pump (s : State) : s.sameBut s.pump :=
  congrArg (fun x : State => { x with l1 := s.l1, dieTlb := s.dieTlb }) s.sends_pump.frame

theorem teams_pump (s : State) : s.pump.teams = s.teams := (congrArg State.teams s.sameBut_pump :)

theorem groups_pump (s : State) : s.pump.groups = s.groups := (congrArg State.groups s.sameBut_pump :)

theorem sameBut_dropWaits (s : State) (o : Owner) : s.sameBut (s.dropWaits o) := rfl

theorem sameBut_useTlb (s : State) (die core fn pasid va : Nat) : s.sameBut (s.useTlb die core fn pasid va) := by
  fun_cases State.useTlb <;> rfl

theorem sameBut_needPage (s : State) (o : Owner) (die core fn pasid : Nat) (need : Need) (page : Nat) :
    s.sameBut (s.needPage o die core fn pasid need page) := by
  unfold State.needPage
  split
  · rfl
  · simp only []
    cases hl : s.lookup die core fn pasid (page * 4096) with
    | none => rfl
    | some e =>
      cases ha : e.allows need with
      | true => simpa [ha] using s.sameBut_useTlb ..
      | false => simp [ha, State.sameBut]

theorem sameBut_foldl {β : Type} (l : List β) (f : State → β → State) (hf : ∀ (s : State) (x : β), s.sameBut (f s x)) (s : State) :
    s.sameBut (l.foldl f s) :=
  List.foldlRecOn l f (motive := fun t => s.sameBut t) (.refl s) fun t ht x _ => sameBut.trans ht (hf t x)

theorem sameBut_ask (s : State) (o : Owner) (g : Group) (need : Need) (qs : List Req) : s.sameBut (s.ask o g need qs) := by
  unfold State.ask
  split
  · rfl
  · exact sameBut.trans (sameBut_foldl _ _ (fun s _ => s.sameBut_needPage ..) s) (sameBut_pump _)

theorem sameBut.setGroup (h : s.sameBut t) (gid : Nat) (g : Group) : (s.setGroup gid g).sameBut (t.setGroup gid g) := by
  obtain ⟨w, a, p, l, d, rfl⟩ := h.exists
  rfl

theorem sameBut.push (h : s.sameBut t) (a : Act) : (s.push a).sameBut (t.push a) := by
  obtain ⟨w, b, p, l, d, rfl⟩ := h.exists
  unfold State.push
  split <;> rfl

theorem sameBut.foldl_push {β : Type} (h : s.sameBut t) (l : List β) (f : β → Act) :
    (l.foldl (fun s x => s.push (f x)) s).sameBut (l.foldl (fun s x => s.push (f x)) t) := by
  induction l generalizing s t with
  | nil => exact h
  | cons x r ih => exact ih (h.push (f x))

/-! ## New pending work -/

theorem push_of_not_mem {a : Act} (h : a ∉ s.work) : s.push a = { s with work := s.work ++ [a] } := by
  simp [State.push, h]

/-- Pieces of work that are not pending yet and differ from one another join the pending work in order. -/
theorem foldl_push_of_not_mem {β : Type} (l : List β) (f : β → Act) (hl : (l.map f).Nodup) (h : ∀ x ∈ l, f x ∉ s.work) :
    l.foldl (fun s x => s.push (f x)) s = { s with work := s.work ++ l.map f } := by
  induction l generalizing s with
  | nil => simp
  | cons x r ih =>
    obtain ⟨hx, hr⟩ := List.nodup_cons.1 hl
    rw [List.foldl_cons, push_of_not_mem (h x List.mem_cons_self), ih hr]
    · simp
    · intro y hy
      have hne : f y ≠ f x := fun he => hx (he ▸ List.mem_map_of_mem hy)
      simpa [hne] using h y (List.mem_cons_of_mem x hy)

theorem sameBut.push_of_not_mem {a : Act} (h : s.sameBut t) (ha : a ∉ s.work) : ({ s with work := s.work ++ [a] } : State).sameBut (t.push a) :=
  State.push_of_not_mem ha ▸ h.push a

theorem sameBut.foldl_push_of_not_mem {β : Type} (h : s.sameBut t) (l : List β) (f : β → Act) (hl : (l.map f).Nodup) (hf : ∀ x ∈ l, f x ∉ s.work) :
    ({ s with work := s.work ++ l.map f } : State).sameBut (l.foldl (fun s x => s.push (f x)) t) :=
  State.foldl_push_of_not_mem l f hl hf ▸ h.foldl_push l f

/-! ## Groups and record numbers play no part in asking -/

/-- A state with other groups and another next record number. -/
def regroup (s : State) (n : Nat) (m : Map Group) : State := { s with nextId := n, groups := m }

theorem regroup_useTlb (s : State) (n : Nat) (m : Map Group) (die core fn pasid va : Nat) :
    (s.regroup n m).useTlb die core fn pasid va = (s.useTlb die core fn pasid va).regroup n m := by
  have h1 : (s.regroup n m).l1Hit die core fn pasid va = s.l1Hit die core fn pasid va := rfl
  have h2 : (s.regroup n m).dieHit die fn pasid va = s.dieHit die fn pasid va := rfl
  unfold State.useTlb
  rw [h1, h2]
  cases s.l1Hit die core fn pasid va with
  | some e => rfl
  | none => cases s.dieHit die fn pasid va <;> rfl

theorem regroup_needPage (s : State) (n : Nat) (m : Map Group) (o : Owner) (die core fn pasid : Nat) (need : Need) (page : Nat) :
    (s.regroup n m).needPage o die core fn pasid need page = (s.needPage o die core fn pasid need page).regroup n m := by
  have h1 : (s.regroup n m).waitFor o page = s.waitFor o page := rfl
  have h2 : (s.regroup n m).lookup die core fn pasid (page * 4096) = s.lookup die core fn pasid (page * 4096) := rfl
  have h3 : (fun e => (s.regroup n m).storeRefusal e need (page * 4096)) = fun e => s.storeRefusal e need (page * 4096) := rfl
  unfold State.needPage
  rw [h1]
  cases s.waitFor o page with
  | some w => rfl
  | none =>
    simp only [h2, h3, regroup_useTlb]
    cases s.lookup die core fn pasid (page * 4096) with
    | none => rfl
    | some e =>
      simp only [apply_ite fun u : State => u.regroup n m]
      rfl

theorem regroup_sendWait (s : State) (n : Nat) (m : Map Group) (w : PageWait) :
    (s.regroup n m).sendWait w = ((s.sendWait w).1.regroup n m, (s.sendWait w).2) := by
  have h1 : (s.regroup n m).ats = s.ats := rfl
  have h2 : (s.regroup n m).pri = s.pri := rfl
  have h3 : (s.regroup n m).priOff = s.priOff := rfl
  unfold State.sendWait
  simp only [h1, h2, h3]
  split
  · split
    · rfl
    · split <;> rfl
  · split
    · rfl
    · split <;> rfl
  all_goals rfl

theorem regroup_pumpList (r : List PageWait) (s : State) (n : Nat) (m : Map Group) (acc : List PageWait) :
    pumpList r (s.regroup n m) acc = (pumpList r s acc).regroup n m := by
  induction r generalizing s acc with
  | nil => rfl
  | cons w r ih => simp only [pumpList, regroup_sendWait, ih]

theorem regroup_sendPris (r : List PriReq) (s : State) (n : Nat) (m : Map Group) : (s.regroup n m).sendPris r = (s.sendPris r).regroup n m := by
  induction r generalizing s with
  | nil => rfl
  | cons p r ih =>
    have h1 : (s.regroup n m).priCount p.fn = s.priCount p.fn := rfl
    have h2 : (s.regroup n m).priLimit p.fn = s.priLimit p.fn := rfl
    rw [State.sendPris_cons, State.sendPris_cons, h1, h2, ih]
    split
    · exact ih (s.grant p)
    · rfl

theorem regroup_pump (s : State) (n : Nat) (m : Map Group) : (s.regroup n m).pump = s.pump.regroup n m := by
  have h1 : (s.regroup n m).waits = s.waits := rfl
  unfold State.pump
  rw [h1, regroup_pumpList, regroup_sendPris]
  rfl

theorem regroup_foldl {β : Type} (l : List β) (f : State → β → State) (n : Nat) (m : Map Group)
    (hf : ∀ (s : State) (x : β), f (s.regroup n m) x = (f s x).regroup n m) (s : State) : l.foldl f (s.regroup n m) = (l.foldl f s).regroup n m := by
  induction l generalizing s with
  | nil => rfl
  | cons x r ih => rw [List.foldl_cons, hf, ih, List.foldl_cons]

/-- The pages of an access are asked for alike, whatever the groups (R68, R69). -/
theorem regroup_ask (s : State) (n : Nat) (m : Map Group) (o : Owner) (g : Group) (need : Need) (qs : List Req) :
    (s.regroup n m).ask o g need qs = (s.ask o g need qs).regroup n m := by
  have h1 : (s.regroup n m).teams.get? g.team = s.teams.get? g.team := rfl
  unfold State.ask
  rw [h1]
  cases s.teams.get? g.team with
  | none => rfl
  | some t =>
    simp only []
    rw [regroup_foldl _ _ n m (fun _ _ => regroup_needPage ..), regroup_pump]

end State

end Machine

end Sys2Proof
end

section
/-! PROOFS. The issue of a memory instruction whose checks pass: it enters its group's memory pipeline (R76, R189, R196). -/

namespace Sys2Proof.Machine

/-! ## What moving a run and drawing leave unchanged -/

namespace Group

/-- Moving a run changes the lane-PC tables and nothing else (R372). -/
theorem place_exists (g : Group) (run : BitVec 64) (targets : List (W64 × BitVec 64)) :
    ∃ p q, g.place run targets = { g with table := p, table1 := q } := by
  unfold Group.place
  split
  · exact ⟨_, _, rfl⟩
  · exact ⟨_, g.table1, rfl⟩

/-- Drawing changes the counters of the draws and nothing else (R133). -/
theorem afterDraws_exists (g : Group) (n : Nat) (r : List Nat) : ∃ c, g.afterDraws n r = { g with counter := c } :=
  ⟨(g.afterDraws n r).counter, (congrArg (fun h : Group => { h with counter := (g.afterDraws n r).counter }) (g.afterDraws_frame n r) :)⟩

theorem countUp_entries (g : Group) (c : Counter) : (g.countUp c).entries = g.entries := by
  cases c <;> rfl

/-- An entry changed, where it is the last and no other has its number. -/
theorem setEntry_last {g : Group} {es : List Entry} {e e1 : Entry} (hes : g.entries = es ++ [e]) (hid : e1.id = e.id)
    (h : ∀ x ∈ es, x.id ≠ e.id) : g.setEntry e1 = { g with entries := es ++ [e1] } := by
  have hkept : es.map (fun x => if x.id = e1.id then e1 else x) = es :=
    (List.map_congr_left fun x hx => if_neg (hid ▸ h x hx)).trans (List.map_id es)
  rw [Group.setEntry, hes, List.map_append, hkept, List.map_cons, if_pos hid.symm, List.map_nil]

end Group

/-! ## The forms -/

namespace MemKind

variable {k : MemKind}

theorem isAtomic_of_isLoad (h : k.isLoad = true) : k.isAtomic = false := by
  cases k <;> simp_all [isLoad, isAtomic]

theorem isLoad_of_isAtomic (h : k.isAtomic = true) : k.isLoad = false := by
  cases k <;> simp_all [isLoad, isAtomic]

theorem counter_of_isLoad (h : k.isLoad = true) : k.counter = .lds := by
  cases k <;> simp_all [isLoad, counter]

/-- A form that only stores counts in STS (R196). -/
theorem counter_of_store (hload : k.isLoad = false) (hatomic : k.isAtomic = false) : k.counter = .sts := by
  cases k <;> simp_all [isLoad, isAtomic, counter]

theorem releases_of_not_atomic (h : k.isAtomic = false) : k.releases = none := by
  cases k <;> simp_all [isAtomic, releases]

theorem acquires_of_not_atomic (h : k.isAtomic = false) : k.acquires = false := by
  cases k <;> simp_all [isAtomic, acquires]

end MemKind

/-- Only an atomic releases or acquires (R209, R211). -/
theorem State.memRelease_of_not_atomic {op : MemOp} (h : op.kind.isAtomic = false) (s : State) (g : Group) (e : Entry) :
    s.memRelease op g e = (s, true) := by
  simp [State.memRelease, MemKind.releases_of_not_atomic h, MemKind.acquires_of_not_atomic h]

theorem four_mul_two_pow_ne (k : Nat) : 4 * 2 ^ k ≠ 24 := by
  rcases k with _ | _ | _ | k <;> simp [Nat.pow_succ]
  omega

/-- A form accesses a byte at least; uniform forms load or store, and 24 bytes are a reservoir's (R195, R306). -/
theorem memOp_shape {i : Instr} {op : MemOp} (h : memOp i = some op) :
    0 < op.size ∧ (op.uni = true → op.kind = .load false ∨ op.kind = .store) ∧
      (op.size = 24 → ∃ w, op.kind = .resld w ∨ op.kind = .resst w) := by
  unfold memOp at h
  split at h <;> cases h <;> simp [lmOp, laOp, umOp, four_mul_two_pow_ne]

/-- A form draws only as an XACC read with stochastic rounding (R212), which is not uniform. -/
theorem draws_memEntry {i : Instr} {op : MemOp} (h : memOp i = some op) (s : State) (g : Group) (pc : W64) (run : BitVec 64)
    (hu : op.uni = true ∨ op.kind.isLoad = false) : (s.memEntry i op g pc run).draws = [] := by
  have hx : ∀ f m, op.kind ≠ .xrd f m := by
    rintro f m hk
    rcases hu with hu | hl
    · rcases (memOp_shape h).2.1 hu with h1 | h1 <;> simp [h1] at hk
    · simp [hk, MemKind.isLoad] at hl
  unfold State.memEntry Issue.memEntry
  cases hk : op.kind with
  | xrd f m => exact absurd hk (hx f m)
  | _ => rfl

theorem mask_memEntry (s : State) (i : Instr) (op : MemOp) (g : Group) (pc : W64) (run : BitVec 64) :
    (s.memEntry i op g pc run).mask = if op.uni then run else op.performs g (g.active run op.guard) := rfl

section
variable {s s1 : State} {g : Group} {t : Team} {pc : W64} {run : BitVec 64} {i : Instr} {op : MemOp} {e : Entry}

theorem State.memFails_of_issues (h : s.MemIssues i op g t pc run e) : s.memFails op g t run e = [] := by
  obtain ⟨-, -, -, ⟨-, hbounds, -⟩, hfails, -⟩ := h
  rw [State.memFails, hfails, List.append_nil]
  rcases hbounds with hu | hb
  · exact if_pos hu
  · simp [hb]

/-- Once its checks, its waits and its release have passed, a memory instruction enters the pipeline. -/
theorem exec_of_memIssues (h : s.MemIssues i op g t pc run e) (hreleased : s.memRelease op g e = (s1, true))
    (hgroup : s1.groups.get? s.focus = some g)
    (hroom : op.kind.writes = true → op.kind.isAtomic = false → g.sbuf.length + t.linesNeeded (op.writesOf e) ≤ 64) :
    exec i s = .next (s.memEnter s1 op g g t pc run e) := by
  have hchecked := State.memFails_of_issues h
  obtain ⟨hissue, hop, he, ⟨hbudget, -, hwords, hblocked, hguard⟩, -, hreqs, hcount, hacq, hover, hpend, -⟩ := h
  have hstill : (Issue.mk i s.focus g pc run 8).still s1 = some g := by simp [Issue.still, hgroup, hpend, hissue.2.1]
  have hskip : (op.uni && !g.guardTrue op.guard) = false := by cases hu : op.uni <;> simp [hguard, hu]
  have hsbuf : (op.kind.writes && !op.kind.isAtomic && decide (64 < g.sbuf.length + t.linesNeeded (op.writesOf e))) = false := by
    cases hw : op.kind.writes <;> cases ha : op.kind.isAtomic <;> simp
    exact hroom hw ha
  rw [exec_of_memOp hop, memIssue_eq hissue (usesB0_of_memOp hop) he, if_neg (by simp [hbudget]), if_neg (by simp [hblocked]), if_neg (by simp [hwords]),
    if_neg (by simp [hskip]), hchecked]
  change s.memPassed i op g t pc run e = _
  unfold State.memPassed
  rw [if_neg hreqs, if_neg (by omega), if_neg (by simp [hacq, hover]), if_neg (by simp [hsbuf]), hreleased]
  simp only [hstill]

end

namespace State

theorem setGroup_setGroup (s : State) (gid : Nat) (g h : Group) : (s.setGroup gid g).setGroup gid h = s.setGroup gid h :=
  congrArg (fun m : Map Group => { s with groups := m }) (Map.set_set s.groups gid g h)

theorem setEntry_setGroup (s : State) (gid : Nat) (g : Group) (e : Entry) : (s.setGroup gid g).setEntry gid e = s.setGroup gid (g.setEntry e) := by
  unfold State.setEntry
  rw [Map.modify_of_get? (m := (s.setGroup gid g).groups) (Map.get?_set_self ..)]
  exact s.setGroup_setGroup gid g _

theorem sameBut.setEntry {s t : State} (h : s.sameBut t) (gid : Nat) (e : Entry) : (s.setEntry gid e).sameBut (t.setEntry gid e) := by
  obtain ⟨w, a, p, l, d, rfl⟩ := h.exists
  rfl

/-- A form that is performed later starts: its pages are asked for, its entry is in flight or waits for them, and its work is queued (R75, R76). -/
theorem startEntry_queued {s : State} {gid : Nat} {g : Group} {es : List Entry} {e : Entry} {op : MemOp}
    (hlater : (op.kind.writes && !op.kind.isAtomic) = false) (hes : g.entries = es ++ [e]) (hid : ∀ x ∈ es, x.id ≠ e.id) (hstate : e.state = .inFlight) :
    ∃ (u : State) (st : EntryState), (st = .inFlight ∨ st = .waiting) ∧ (s.setGroup gid g).startEntry gid e op = u.pushEntry gid e op ∧
      (s.setGroup gid { g with entries := es ++ [{ e with state := st }] }).sameBut u := by
  have hget : (s.setGroup gid g).groups.get? gid = some g := Map.get?_set_self ..
  have hasked := (s.setGroup gid g).sameBut_ask (e.owner gid) g op.kind.need (op.reqs e)
  unfold State.startEntry
  rw [hget]
  simp only [hlater, Bool.false_eq_true, if_false]
  generalize (s.setGroup gid g).ask (e.owner gid) g op.kind.need (op.reqs e) = u at hasked ⊢
  split
  · refine ⟨u, .inFlight, .inl rfl, rfl, ?_⟩
    rwa [← hstate, show ({ g with entries := es ++ [e] } : Group) = g by rw [← hes]]
  · have hset := hasked.setEntry gid { e with state := .waiting }
    rw [setEntry_setGroup, Group.setEntry_last (e1 := { e with state := .waiting }) hes rfl hid] at hset
    exact ⟨_, .waiting, .inr rfl, rfl, hset⟩

/-- A form that is performed later enters the pipeline: its entry joins the group's, its counter rises, and the run moves on (R76, R196). -/
theorem memEnter_queued (s : State) {s1 : State} {op : MemOp} {g : Group} (t : Team) (pc : W64) (run : BitVec 64) {e : Entry}
    (hlater : (op.kind.writes && !op.kind.isAtomic) = false) (hid : ∀ x ∈ g.entries, x.id ≠ s1.nextId) (hstate : e.state = .inFlight) :
    ∃ (u : State) (st : EntryState), (st = .inFlight ∨ st = .waiting) ∧
      s.memEnter s1 op g g t pc run e = u.pushEntry s.focus { e with id := s1.nextId } op ∧
      (({ s1 with nextId := s1.nextId + 1 } : State).setGroup s.focus (({ ((g.afterDraws (if e.draws = [] then 0 else 1)
          (lanesOf (op.performs g (g.active run op.guard)))).place run [(pc + 8, run)]) with
        entries := g.entries ++ [{ e with id := s1.nextId, seq := s1.nextId, state := st, ranges := (op.reqs e).map t.rangeOf }] } : Group).countUp
          op.kind.counter)).sameBut u := by
  obtain ⟨c, hc⟩ := g.afterDraws_exists (if e.draws = [] then 0 else 1) (lanesOf (op.performs g (g.active run op.guard)))
  obtain ⟨p, q, hp⟩ := ({ g with counter := c } : Group).place_exists run [(pc + 8, run)]
  let e1 : Entry := { e with id := s1.nextId, seq := s1.nextId, ranges := (op.reqs e).map t.rangeOf }
  let g1 : Group := ({ g with counter := c, table := p, table1 := q, entries := g.entries ++ [e1] } : Group).countUp op.kind.counter
  obtain ⟨u, st, hst, hstart, hsame⟩ := startEntry_queued (s := { s1 with nextId := s1.nextId + 1 }) (gid := s.focus) (e := e1)
    (g := g1) hlater (Group.countUp_entries ..) hid hstate
  refine ⟨u, st, hst, ?_, ?_⟩
  · unfold State.memEnter
    simp only [hc, hp]
    exact hstart
  · simp only [hc, hp]
    have : ({ g1 with entries := g.entries ++ [{ e1 with state := st }] } : Group) =
        ({ g with counter := c, table := p, table1 := q, entries := g.entries ++ [{ e1 with state := st }] } : Group).countUp op.kind.counter := by
      cases h : op.kind.counter <;> simp [g1, h, Group.countUp]
    rwa [this] at hsame

end State

/-- Settles O26: the instruction enters the pipeline, and a load's entry is queued. -/
theorem loadIssue : Obligations.LoadIssue := by
  unfold Obligations.LoadIssue
  intro s i op g t pc run e h hload hfresh
  have hatomic := MemKind.isAtomic_of_isLoad hload
  have hcounter := MemKind.counter_of_isLoad hload
  have hexec := exec_of_memIssues h (s.memRelease_of_not_atomic hatomic g e) h.1.1 fun hw => by simp [MemKind.writes, hload] at hw
  obtain ⟨-, hop, he, -, -, -, -, -, -, -, hids⟩ := h
  have hdraws : g.afterDraws (if e.draws = [] then 0 else 1) (lanesOf (op.performs g (g.active run op.guard))) =
      g.afterDraws (if e.draws = [] then 0 else 1) (lanesOf e.mask) := by
    cases hu : op.uni with
    | true => rw [he, draws_memEntry hop s g pc run (.inl hu), if_pos rfl, Group.afterDraws_zero, Group.afterDraws_zero]
    | false => rw [he, mask_memEntry, hu, if_neg Bool.false_ne_true]
  obtain ⟨u, st, hst, hentered, hsame⟩ := s.memEnter_queued (op := op) t pc run (e := e) (by simp [MemKind.writes, hload]) hids (he ▸ rfl)
  rw [hdraws, hcounter] at hsame
  refine ⟨u.push (.loadLanding s.focus s.nextId), st, ?_, hst, ?_⟩
  · rw [hexec, hentered, State.pushEntry, hatomic, hload]
    rfl
  · obtain ⟨c, hc⟩ := g.afterDraws_exists (if e.draws = [] then 0 else 1) (lanesOf e.mask)
    obtain ⟨p, q, hp⟩ := ({ g with counter := c } : Group).place_exists run [(pc + 8, run)]
    simp only [hc, hp] at hsame ⊢
    subst he
    exact hsame.push_of_not_mem hfresh

/-- Settles O27: after its release the instruction enters the pipeline, and a step of each lane is queued. -/
theorem atomicIssue : Obligations.AtomicIssue := by
  unfold Obligations.AtomicIssue
  intro s s1 i op g t pc run e h hatomic hrelease hgroup hids hfresh
  have hload := MemKind.isLoad_of_isAtomic hatomic
  have hreleased : s.memRelease op g e = (s1, true) := by
    unfold State.memRelease
    cases hr : op.kind.releases with
    | none =>
      rw [hr] at hrelease
      obtain ⟨rfl, hacquires⟩ := hrelease
      cases ha : op.kind.acquires <;> simp [hacquires, ha]
    | some scope =>
      rw [hr] at hrelease
      obtain ⟨hsettled, hreleased⟩ := hrelease
      simp [hsettled, hreleased]
  have hexec := exec_of_memIssues h hreleased hgroup fun _ ha => by simp [hatomic] at ha
  obtain ⟨-, hop, he, -⟩ := h
  have hdraws : e.draws = [] := he ▸ draws_memEntry hop s g pc run (.inr hload)
  obtain ⟨u, st, hst, hentered, hsame⟩ := s.memEnter_queued (op := op) t pc run (e := e) (by simp [hatomic]) hids (he ▸ rfl)
  rw [if_pos hdraws, Group.afterDraws_zero] at hsame
  let step := fun l => if op.kind.counter = .sts then Act.xaccCellAdd s.focus s1.nextId l else .atomicPerform s.focus s1.nextId l
  have hsteps : ((lanesOf e.mask).map step).Nodup := by
    refine (lanesOf_nodup e.mask).map fun a b hab => ?_
    simp only [step] at hab
    split at hab <;> simpa using hab
  have hnew : ∀ l ∈ lanesOf e.mask, step l ∉ s1.work := by
    intro l _
    simp only [step]
    split
    · exact (hfresh l).2
    · exact (hfresh l).1
  refine ⟨(lanesOf e.mask).foldl (fun s l => s.push (step l)) u, st, ?_, hst, ?_⟩
  · rw [hexec, hentered, State.pushEntry, if_pos hatomic]
  · exact hsame.foldl_push_of_not_mem (lanesOf e.mask) step hsteps hnew

end Sys2Proof.Machine
end

section
/-! PROOFS. The issue of a store whose pages are there: it is performed whole (R194, R195, R347, R349). -/

namespace Sys2Proof.Machine

/-! ## Teams without stash windows -/

namespace Team

variable {t : Team}

theorem windowAt_of_no_windows (h : t.wins = []) (sp : Space) (a : Nat) : t.windowAt sp a = none := by
  rw [Team.windowAt, h]
  rfl

theorem fillOf_of_no_windows (h : t.wins = []) (q : Req) : t.fillOf q = none := by
  rw [Team.fillOf, windowAt_of_no_windows h]

theorem filterMap_fillOf_of_no_windows (h : t.wins = []) (qs : List Req) : qs.filterMap t.fillOf = [] :=
  List.filterMap_eq_nil_iff.2 fun q _ => fillOf_of_no_windows h q

end Team

/-! ## The bytes of a store -/

theorem MemOp.space_of_mem_writesOf {op : MemOp} {e : Entry} {w : Req × List Byte} (h : w ∈ op.writesOf e) : w.1.sp = op.space := by
  simp only [MemOp.writesOf, List.mem_flatMap, List.mem_map] at h
  obtain ⟨l, -, p, -, rfl⟩ := h
  rfl

/-- A store that accesses something touches a line. -/
theorem MemOp.linesOf_writesOf_ne_nil {i : Instr} {op : MemOp} {e : Entry} (h : memOp i = some op) (hreqs : op.reqs e ≠ []) :
    linesOf (op.writesOf e) ≠ [] := by
  obtain ⟨q, hq⟩ := List.exists_mem_of_ne_nil _ hreqs
  simp only [MemOp.reqs, List.mem_flatMap, List.mem_map] at hq
  obtain ⟨l, hl, p, hp, rfl⟩ := hq
  have hdata : 0 < (((op.data e l).drop p.1).take p.2).length := by
    have hsize := (memOp_shape h).1
    rw [List.length_take, List.length_drop, MemOp.data, toBytes_length]
    unfold MemOp.parts at hp
    split at hp <;> simp at hp <;> grind
  have hmem : (op.part e l p, ((op.data e l).drop p.1).take p.2) ∈ op.writesOf e := by
    simp only [MemOp.writesOf, List.mem_flatMap, List.mem_map]
    exact ⟨l, hl, p, hp, rfl⟩
  intro hnil
  have hnames := (names_linesOf (op.writesOf e) _ (op.part e l p).a).2 ⟨_, hmem, rfl, Nat.le_refl _, Nat.lt_add_of_pos_right hdata⟩
  rw [hnil] at hnames
  simp [Names] at hnames

/-- Team bytes written change the teams alone, and as the teams alone say. -/
theorem State.foldl_writeAt_team (ws : List (Req × List Byte)) (n : Nat) :
    ∃ f : Map Team → Map Team, ∀ s : State, ws.foldl (fun s x => s.writeAt (.team n x.1.a) x.2) s = { s with teams := f s.teams } := by
  induction ws with
  | nil => exact ⟨id, fun s => rfl⟩
  | cons w r ih =>
    obtain ⟨f, hf⟩ := ih
    refine ⟨fun m => f (m.modify n fun tm => { tm with mem := tm.mem.write w.1.a w.2, bad := clearBad tm.bad 4 w.1.a w.2.length }), fun s => ?_⟩
    rw [List.foldl_cons, hf]
    rfl

section
variable {s : State} {gid : Nat} {g : Group} {t : Team} {o : Owner} {ws : List (Req × List Byte)}

/-- A store into team memory without windows writes its bytes and makes no entry (R194). -/
theorem State.storeBytes_team (hgroup : s.groups.get? gid = some g) (hwins : t.wins = []) (hteam : ∀ w ∈ ws, w.1.sp = .team)
    (op seq : Nat) (pc : W64) :
    s.storeBytes gid g t o op seq pc ws =
      ((ws.foldl (fun s x => s.writeAt (.team g.team x.1.a) x.2) s).setGroup gid g, 0) := by
  have hin : ws.filter (fun e => e.1.sp == .team && !((t.windowAt e.1.sp e.1.a).isSome)) = ws :=
    List.filter_eq_self.2 fun w hw => by simp [hteam w hw, Team.windowAt_of_no_windows hwins]
  have hwin : ws.filter (fun e => (t.windowAt e.1.sp e.1.a).isSome) = [] :=
    List.filter_eq_nil_iff.2 fun w _ => by simp [Team.windowAt_of_no_windows hwins]
  have hout : ws.filter (fun e => !(e.1.sp == .team && !((t.windowAt e.1.sp e.1.a).isSome)) && !((t.windowAt e.1.sp e.1.a).isSome)) = [] :=
    List.filter_eq_nil_iff.2 fun w hw => by simp [hteam w hw, Team.windowAt_of_no_windows hwins]
  obtain ⟨f, hf⟩ := State.foldl_writeAt_team ws g.team
  unfold State.storeBytes
  simp only [hin, hwin, hout, hf]
  simp [linesOf, Map.modify_of_get? hgroup, State.setGroup]

/-- A store outside team memory and windows enters the store buffer, one entry for each line that it touches, each with its drain pending (R347). -/
theorem State.storeBytes_buffered (hgroup : s.groups.get? gid = some g) (hwins : t.wins = []) (hout : ∀ w ∈ ws, w.1.sp ≠ .team)
    (hnew : ∀ k, .storeBufferDrain gid k ∉ s.work) (op seq : Nat) (pc : W64) :
    ∃ es : List SbEntry, es.map (fun x => Line.mk x.space x.line x.mask x.data) = linesOf ws ∧
      es.map (fun x => x.id) = (List.range es.length).map (fun k => s.nextId + k) ∧
      (∀ x ∈ es, x.op = op ∧ x.seq = seq ∧ x.pc = pc ∧ x.bad = false) ∧
      s.storeBytes gid g t o op seq pc ws = (({ s with
        nextId := s.nextId + es.length, work := s.work ++ es.map fun x => .storeBufferDrain gid x.id } : State).setGroup gid
          { g with sbuf := g.sbuf ++ es }, es.length) := by
  have hin : ws.filter (fun e => e.1.sp == .team && !((t.windowAt e.1.sp e.1.a).isSome)) = [] :=
    List.filter_eq_nil_iff.2 fun w hw => by simp [hout w hw]
  have hwin : ws.filter (fun e => (t.windowAt e.1.sp e.1.a).isSome) = [] :=
    List.filter_eq_nil_iff.2 fun w _ => by simp [Team.windowAt_of_no_windows hwins]
  have hrest : ws.filter (fun e => !(e.1.sp == .team && !((t.windowAt e.1.sp e.1.a).isSome)) && !((t.windowAt e.1.sp e.1.a).isSome)) = ws :=
    List.filter_eq_self.2 fun w hw => by simp [hout w hw, Team.windowAt_of_no_windows hwins]
  unfold State.storeBytes
  simp only [hin, hwin, hrest, List.foldl_nil]
  generalize hes : (linesOf ws).zipIdx.map _ = es
  have hlen : es.length = (linesOf ws).length := by simp [← hes]
  have hids : es.map (fun x => x.id) = (List.range es.length).map (fun k => s.nextId + k) := by
    rw [hlen, List.range_eq_range', ← List.zipIdx_map_snd, ← hes, List.map_map, List.map_map]
    rfl
  have hdrains : (es.map fun x => Act.storeBufferDrain gid x.id).Nodup := by
    rw [show (fun x : SbEntry => Act.storeBufferDrain gid x.id) = (Act.storeBufferDrain gid) ∘ fun x => x.id from rfl, ← List.map_map, hids, List.map_map]
    exact List.nodup_range.map fun a b hab => by simpa using hab
  refine ⟨es, ?_, hids, ?_, ?_⟩
  · rw [← hes, List.map_map]
    exact List.zipIdx_map_fst 0 (linesOf ws)
  · rw [← hes]
    intro x hx
    obtain ⟨y, -, rfl⟩ := List.mem_map.1 hx
    exact ⟨rfl, rfl, rfl, rfl⟩
  · rw [State.foldl_push_of_not_mem es _ hdrains, Map.modify_of_get? hgroup, hlen]
    · rfl
    · exact fun x _ => hnew x.id

/-- A store's pages, asked for in state s, are there in state u; no window holds its bytes, the store buffer has room, and its entry is the last of its
group's. -/
structure StoreReady (s u : State) (gid : Nat) (g : Group) (t : Team) (rest : List Entry) (e : Entry) (op : MemOp) : Prop where
  asked : s.ask (e.owner gid) g .write (op.reqs e) = u
  team : u.teams.get? g.team = some t
  wins : t.wins = []
  group : u.groups.get? gid = some g
  ready : u.standing (e.owner gid) = .ready
  allowed : u.writeRefused g t (e.owner gid) .write (op.reqs e) = []
  room : g.sbuf.length + t.linesNeeded (op.writesOf e) ≤ 64
  entries : g.entries = rest ++ [e]
  ids : ∀ x ∈ rest, x.id ≠ e.id

namespace StoreReady

variable {u : State} {rest : List Entry} {e : Entry} {op : MemOp}

theorem filter_entries (h : StoreReady s u gid g t rest e op) : g.entries.filter (fun x => !(x.id == e.id)) = rest := by
  rw [h.entries, List.filter_append, List.filter_eq_self.2 fun x hx => by simpa using h.ids x hx]
  simp

theorem performStore_eq (h : StoreReady s u gid g t rest e op) {u1 : State} {g1 : Group} {n : Nat}
    (hstored : u.storeBytes gid g t (e.owner gid) e.id e.seq e.pc (op.writesOf e) = (u1, n)) (hgroup1 : u1.groups.get? gid = some g1) :
    s.performStore gid g e op =
      let g2 : Group := { g1 with entries := g1.entries.filter (fun x => !(x.id == e.id)) }
      (u1.dropWaits (e.owner gid)).setGroup gid (if n = 0 then g2.countDown .sts else g2) := by
  have hroom : ¬64 < g.sbuf.length + t.linesNeeded (op.writesOf e) := Nat.not_lt.2 h.room
  have hgroup2 : (u1.dropWaits (e.owner gid)).groups.get? gid = some g1 := hgroup1
  unfold State.performStore
  simp only [h.asked, h.team, h.ready, h.allowed, Team.filterMap_fillOf_of_no_windows h.wins, State.fillAll, h.group, if_neg hroom, hstored, hgroup2]

/-- A store into team memory writes its bytes and is done (R194). -/
theorem performStore_team (h : StoreReady s u gid g t rest e op) (hsp : op.space = .team) :
    s.performStore gid g e op =
      (((op.writesOf e).foldl (fun s x => s.writeAt (.team g.team x.1.a) x.2) u).dropWaits (e.owner gid)).setGroup gid
        { g with entries := rest, sts := g.sts - 1 } := by
  have hstored := State.storeBytes_team (o := e.owner gid) (ws := op.writesOf e) h.group h.wins (fun x hx => (MemOp.space_of_mem_writesOf hx).trans hsp) e.id e.seq e.pc
  rw [h.performStore_eq hstored (Map.get?_set_self ..), h.filter_entries]
  obtain ⟨f, hf⟩ := State.foldl_writeAt_team (op.writesOf e) g.team
  rw [hf]
  exact State.setGroup_setGroup (State.dropWaits { u with teams := f u.teams } (e.owner gid)) gid g _

/-- A store elsewhere puts its lines into the store buffer; the last of their drains ends it (R347). -/
theorem performStore_buffered (h : StoreReady s u gid g t rest e op) (hsp : op.space ≠ .team) (hlines : linesOf (op.writesOf e) ≠ [])
    (hnew : ∀ k, .storeBufferDrain gid k ∉ u.work) :
    ∃ es : List SbEntry, es.map (fun x => Line.mk x.space x.line x.mask x.data) = linesOf (op.writesOf e) ∧
      es.map (fun x => x.id) = (List.range es.length).map (fun k => u.nextId + k) ∧
      (∀ x ∈ es, x.op = e.id ∧ x.seq = e.seq ∧ x.pc = e.pc ∧ x.bad = false) ∧
      s.performStore gid g e op = (({ u with
          nextId := u.nextId + es.length, work := u.work ++ es.map fun x => .storeBufferDrain gid x.id } : State).dropWaits (e.owner gid)).setGroup gid
        { g with entries := rest, sbuf := g.sbuf ++ es } := by
  obtain ⟨es, hes, hids, hfields, hstored⟩ := State.storeBytes_buffered (o := e.owner gid) h.group h.wins
    (fun x hx => (MemOp.space_of_mem_writesOf hx).trans_ne hsp) hnew e.id e.seq e.pc
  have hcount : es.length ≠ 0 := by
    rw [← List.length_map (as := es) fun x => Line.mk x.space x.line x.mask x.data, hes]
    simpa using hlines
  refine ⟨es, hes, hids, hfields, ?_⟩
  rw [h.performStore_eq hstored (Map.get?_set_self ..)]
  simp only [h.filter_entries, if_neg hcount]
  exact State.setGroup_setGroup (State.dropWaits { u with
    nextId := u.nextId + es.length, work := u.work ++ es.map fun x => .storeBufferDrain gid x.id } (e.owner gid)) gid _ _

end StoreReady

end

/-- Settles O28: the store enters the pipeline and is performed at once. -/
theorem storeIssue : Obligations.StoreIssue := by
  unfold Obligations.StoreIssue
  intro s i op g t pc run e h hwrites hatomic hwins hroom o hready hallowed
  have hload : op.kind.isLoad = false := by simpa [MemKind.writes] using hwrites
  have hcounter := MemKind.counter_of_store hload hatomic
  have hexec := exec_of_memIssues h (s.memRelease_of_not_atomic hatomic g e) h.1.1 fun _ _ => hroom
  obtain ⟨⟨hgroup, -, hteam⟩, hop, he, -, -, hreqs, -, -, -, -, hids⟩ := h
  have hdraws : e.draws = [] := he ▸ draws_memEntry hop s g pc run (.inr hload)
  obtain ⟨p, q, hp⟩ := g.place_exists run [(pc + 8, run)]
  let e1 : Entry := { e with id := s.nextId, seq := s.nextId, ranges := (op.reqs e).map t.rangeOf }
  let g1 : Group := { g with table := p, table1 := q, entries := g.entries ++ [e1], sts := g.sts + 1 }
  let s0 : State := ({ s with nextId := s.nextId + 1 } : State).setGroup s.focus g1
  have hget : s0.groups.get? s.focus = some g1 := Map.get?_set_self ..
  have hentered : s.memEnter s op g g t pc run e = s0.performStore s.focus g1 e1 op := by
    have hstart : s0.startEntry s.focus e1 op = s0.performStore s.focus g1 e1 op := by simp [State.startEntry, hget, hwrites, hatomic]
    unfold State.memEnter
    simp only [if_pos hdraws, Group.afterDraws_zero, hp, hcounter]
    exact hstart
  obtain ⟨w, a, r, l, d, hu⟩ := (s.sameBut_ask o g .write (op.reqs e)).exists
  have hasked : s0.ask o g1 .write (op.reqs e1) = (s.ask o g .write (op.reqs e)).regroup (s.nextId + 1) (s.groups.set s.focus g1) :=
    s.regroup_ask _ _ o g .write (op.reqs e)
  rw [hu] at hready hallowed hasked
  have hstore : StoreReady s0 _ s.focus g1 t g.entries e1 op := {
    asked := hasked
    team := hteam
    wins := hwins
    group := hget
    ready := hready
    allowed := hallowed
    room := hroom
    entries := rfl
    ids := hids }
  rw [hexec, hentered, hp]
  refine ⟨fun hsp => ?team, fun hsp hnew => ?buffer⟩
  case team =>
    obtain ⟨f, hf⟩ := State.foldl_writeAt_team (op.writesOf e) g.team
    refine ⟨_, congrArg _ ((hstore.performStore_team hsp).trans (congrArg (fun u : State => (u.dropWaits _).setGroup _ _) (hf _))), ?_⟩
    rw [hf]
    simp [State.sameBut, State.setGroup, State.dropWaits, State.regroup, Map.set_set, g1]
  case buffer =>
    obtain ⟨es, hlines, hnums, hfields, hperform⟩ := hstore.performStore_buffered hsp (MemOp.linesOf_writesOf_ne_nil hop hreqs) hnew
    refine ⟨_, es, congrArg _ hperform, hlines, hnums, fun x hx => ?_, ?_⟩
    · obtain ⟨hxop, hxseq, hxpc, hxbad⟩ := hfields x hx
      exact ⟨hxop, hxseq, hxpc.trans (congrArg Entry.pc he), hxbad⟩
    · simp [State.sameBut, State.setGroup, State.dropWaits, State.regroup, Map.set_set, g1]

end Sys2Proof.Machine
end

section
/-! PROOFS. Texture sampling: the issue of tex, reserved headers, the layout of levels, and the wrap modes (R213 to R216). -/

namespace Sys2Proof.Machine

/-! ## Captured operands -/

theorem getD_map_of_mem {α : Type} {l : Nat} {ls : List Nat} (h : l ∈ ls) (f : Nat → α) (d : α) : Map.getD (ls.map fun l => (l, f l)) l d = f l := by
  induction ls with
  | nil => simp at h
  | cons x r ih =>
    rw [List.map_cons, Map.getD, Map.get?_cons]
    by_cases hx : x = l
    · simp [hx]
    · have hr := ih (by simpa [Ne.symm hx] using h)
      rw [Map.getD] at hr
      rw [if_neg hx, hr]

/-- A lane's captured registers. -/
theorem Group.getD_captureV (g : Group) {l : Nat} {ls : List Nat} (h : l ∈ ls) (n w : Nat) (d : Val) :
    Map.getD (g.captureV ls n w) l d = BitVec.ofNat 128 (g.readWide l n w) := getD_map_of_mem h _ d

/-! ## The issue of tex (R215) -/

/-- The entry of a tex, with the operands that it captures. -/
def State.texEntry (s : State) (g : Group) (pc : W64) (act : BitVec 64) (d a b : BitVec 7) (bu : Bool) (c : BitVec 7) (hint : BitVec 2) (gd : Guard) :
    Entry :=
  { Entry.blank (.tex d a b bu c hint gd) (Issue.mk (.tex d a b bu c hint gd) s.focus g pc 0 8).words pc act s.nextId with
    counter := .lds
    uops := [0, 0, 0, g.readS c.toNat]
    opa := g.captureV (lanesOf act) a.toNat 2
    opb := if bu then (lanesOf act).map (fun l => (l, ((g.readS b.toNat).setWidth 32).setWidth 128)) else g.captureV (lanesOf act) b.toNat 1
    dreg := (lanesOf act).map (fun l => (l, d.toNat))
    dsts := vKeys d.toNat 4
    width := 4
    ranges := [anyGlobal] }

section
variable {s : State} {g : Group} {t : Team} {pc : W64} {run act : BitVec 64} {d a b c : BitVec 7} {bu : Bool} {hint : BitVec 2} {gd : Guard}

theorem State.texOperands_texEntry {l : Nat} (hl : l ∈ lanesOf act) :
    (s.texEntry g pc act d a b bu c hint gd).texOperands l = (f32.decode (g.readV l a.toNat).toNat, f32.decode (g.readV l (a.toNat + 1)).toNat,
      f32.decode (if bu then (g.readS b.toNat).toNat % 2 ^ 32 else (g.readV l b.toNat).toNat)) := by
  have ha := (g.readV l a.toNat).isLt
  have ha1 := (g.readV l (a.toNat + 1)).isLt
  have hb := (g.readV l b.toNat).isLt
  have huv : (BitVec.ofNat 128 (g.readWide l a.toNat 2)).toNat = (g.readV l a.toNat).toNat + 2 ^ 32 * (g.readV l (a.toNat + 1)).toNat := by
    simp only [Group.readWide, BitVec.toNat_ofNat]
    omega
  have hlod : (Map.getD (s.texEntry g pc act d a b bu c hint gd).opb l 0).toNat % 2 ^ 32 =
      if bu then (g.readS b.toNat).toNat % 2 ^ 32 else (g.readV l b.toNat).toNat := by
    cases bu with
    | true =>
      rw [State.texEntry, if_pos rfl, getD_map_of_mem hl]
      simp
    | false =>
      rw [State.texEntry, if_neg Bool.false_ne_true, Group.getD_captureV g hl]
      simp [Group.readWide]
      omega
  rw [Entry.texOperands, hlod, show (s.texEntry g pc act d a b bu c hint gd).opa = g.captureV (lanesOf act) a.toNat 2 from rfl,
    Group.getD_captureV g hl, huv]
  congr 2
  · omega
  · congr 2
    omega

/-- tex at issue, once its registers are in the budget, free and correct (R215). -/
theorem exec_tex (h : s.Issues g t pc run) (hd : d.toNat + 4 ≤ g.lbud) (ha : a.toNat + 2 ≤ g.lbud)
    (hb : if bu then b.toNat < g.ubud else b.toNat < g.lbud) (hc : c.toNat < g.ubud)
    (hwords : g.badWords (g.active run gd) (vKeys a.toNat 2 ++ (if bu then [sLow b.toNat] else [b.toNat]) ++ [sKey c.toNat]) = false)
    (hblocked : g.blocked (vKeys a.toNat 2 ++ (if bu then [sLow b.toNat] else [b.toNat]) ++ [sKey c.toNat] ++ vKeys d.toNat 4) = false) :
    exec (.tex d a b bu c hint gd) s =
      let i := Instr.tex d a b bu c hint gd
      let hdr := (g.readS c.toNat).toNat
      let e := s.texEntry g pc (g.active run gd) d a b bu c hint gd
      if g.active run gd = 0 then s.moves g pc 8 run
      else if !(hdr % 32 == 0) then s.traps i 8 g pc run 0x03 []
      else if !canonical hdr then s.traps i 8 g pc run 0x04 []
      else if 255 ≤ g.lds || g.acquiring || g.overlaps [(.glob, hdr, 32)] then s.hold
      else
        match s.readHead s.focus g e with
        | .ok s1 l =>
          (match texHeader (headOf l) with
           | none => .next (s1.raise s.focus ((Issue.mk i s.focus g pc run 8).pend 0x02 []))
           | some h =>
             match e.texOutside h with
             | q :: r => .next (s1.raise s.focus ((Issue.mk i s.focus g pc run 8).pend 0x04 (recsOf ((q :: r).map (fun q => (q, 0x04))))))
             | [] => if g.overlaps (e.captureHead (headOf l)).ranges then s.hold else (Issue.mk i s.focus g pc run 8).enterTex s1 (e.captureHead (headOf l)))
        | .wait _ => (Issue.mk i s.focus g pc run 8).enterTex s e
        | .fail _ _ _ _ => (Issue.mk i s.focus g pc run 8).enterTex s e := by
  have hok : (if bu then decide (b.toNat < g.ubud) else decide (b.toNat < g.lbud)) = true := by cases bu <;> simpa using hb
  change execTex d a b bu c hint gd s = _
  unfold execTex
  rw [withIssue_issues h _ _ _ rfl]
  simp only [hd, ha, hok, hc, decide_true, Bool.and_self, Bool.not_true, Bool.false_eq_true, if_false, hblocked]
  rw [if_neg (by simpa [Group.active] using hwords)]
  rfl

/-- A tex that enters its group's memory pipeline (R215, R196). -/
theorem enterTex_eq (u : State) (i : Instr) (e : Entry) :
    (Issue.mk i s.focus g pc run 8).enterTex u e = .next ((({ u with nextId := u.nextId + 1 } : State).setGroup s.focus
      { (g.place run [(pc + 8, run)]) with entries := g.entries ++ [e], lds := g.lds + 1 }).push (.loadLanding s.focus e.id)) := by
  obtain ⟨p, q, hp⟩ := g.place_exists run [(pc + 8, run)]
  have hadv : (Issue.mk i s.focus g pc run 8).advance g = g.place run [(pc + 8, run)] := rfl
  simp only [Issue.enterTex, hadv, hp]
  rfl

end

/-! ## Headers, levels and wraps (R213, R214, R216) -/

/-- A reserved FMT, a BASE that is not aligned, or a reserved bit (R213). -/
theorem texHeader_of_reserved {x : Nat} (h : 4 < bits x 103 96 ∨ bits x 63 0 % 256 ≠ 0 ∨ bits x 255 114 ≠ 0) : texHeader x = none := by
  rcases h with h | h | h <;> simp [texHeader, h]

/-- A row holds its texels and is the least multiple of 256 bytes that does (R214). -/
theorem TexHdr.row_spec (t : TexHdr) (l : Nat) :
    t.row l % 256 = 0 ∧ t.wAt l * t.texel ≤ t.row l ∧ t.row l < t.wAt l * t.texel + 256 := by
  unfold TexHdr.row
  omega

theorem texWrap_clamp (i : Int) {n : Nat} (hn : 0 < n) :
    texWrap 1 i n = some (if i < 0 then 0 else if (n : Int) ≤ i then n - 1 else i.toNat) := by
  refine congrArg some ?_
  split_ifs <;> omega

/-- Mirrored, the coordinate i goes to the k with i = k or i = -1 - k modulo twice the size. -/
theorem texWrap_mirror (i : Int) {n : Nat} (hn : 0 < n) :
    ∃ k, texWrap 2 i n = some k ∧ k < n ∧ ((i - k) % (2 * n) = 0 ∨ (i + k + 1) % (2 * n) = 0) := by
  have hlo := Int.emod_nonneg i (show (2 * n : Int) ≠ 0 by omega)
  have hhi := Int.emod_lt_of_pos i (show (0 : Int) < 2 * n by omega)
  have hdiv := Int.mul_ediv_add_emod i (2 * n)
  by_cases hm : (i % (2 * n : Nat)).toNat < n
  · refine ⟨_, congrArg some (if_pos hm), hm, .inl ?_⟩
    push_cast
    rw [Int.toNat_of_nonneg hlo]
    exact Int.emod_eq_zero_of_dvd ⟨i / (2 * n), by linarith⟩
  · refine ⟨_, congrArg some (if_neg hm), by omega, .inr ?_⟩
    push_cast at hm ⊢
    refine Int.emod_eq_zero_of_dvd ⟨i / (2 * n) + 1, ?_⟩
    have : ((2 * n - 1 - (i % (2 * n)).toNat : Nat) : Int) = 2 * n - 1 - i % (2 * n) := by omega
    rw [this]
    linarith

/-- Settles O31: the issue by its checks in turn; a header, a row and a wrap by their definitions. -/
theorem texture : Obligations.Texture := by
  unfold Obligations.Texture
  refine ⟨?issue, fun _ => texHeader_of_reserved, fun t l => ⟨(t.row_spec l).1, (t.row_spec l).2.1, (t.row_spec l).2.2, rfl⟩,
    fun i n hn => ⟨rfl, texWrap_clamp i hn, texWrap_mirror i hn, rfl⟩⟩
  intro s g t pc run d a b bu c hint gd h
  dsimp only
  intro hd ha hb hc hwords hblocked
  rw [exec_tex h hd ha hb hc hwords hblocked]
  refine ⟨fun hact => if_pos hact, fun hact halign => ?_, fun hact halign hcanon => ?_, fun hact halign hcanon hlds hacq hover => ?_⟩
  · rw [if_neg hact, if_pos (by simpa using halign)]
  · rw [if_neg hact, if_neg (by simpa using halign), if_pos (by simpa using hcanon)]
  · have hroom : ¬(255 ≤ g.lds || g.acquiring || g.overlaps [(.glob, (g.readS c.toNat).toNat, 32)]) = true := by simp [hlds, hacq, hover]
    refine ⟨s.texEntry g pc (g.active run gd) d a b bu c hint gd, rfl, rfl, rfl, rfl, rfl, rfl, rfl, rfl, rfl,
      fun l hl => State.texOperands_texEntry hl, ?_⟩
    rw [if_neg hact, if_neg (by simpa using halign), if_neg (by simpa using hcanon), if_neg hroom]
    cases hread : s.readHead s.focus g (s.texEntry g pc (g.active run gd) d a b bu c hint gd) with
    | ok s1 l =>
      refine ⟨fun hnone => ?_, fun x hx hout => ?_, fun x hx hout hfree => ?_⟩
      · simp only [hnone]
      · simp only [hx]
        generalize (s.texEntry g pc (g.active run gd) d a b bu c hint gd).texOutside x = outside at hout ⊢
        cases outside with
        | nil => exact absurd rfl hout
        | cons q r => rfl
      · simp only [hx, hout, hfree]
        exact enterTex_eq s1 _ _
    | wait s1 => exact enterTex_eq s _ _
    | fail s1 cause context recs => exact enterTex_eq s _ _

end Sys2Proof.Machine
end

section
/-! PROOFS. Stash windows mapped and unmapped (R204, R205). -/

namespace Sys2Proof.Machine

/-! ## stmap (R204) -/

theorem stmapCheck_of_misaligned {t : Team} {win tb gb n : Nat} (h : ¬(tb % 256 = 0 ∧ gb % 256 = 0 ∧ n % 256 = 0)) :
    stmapCheck t win tb gb n = some 0x03 := by
  refine if_pos ?_
  simp only [Bool.not_eq_true', Bool.and_eq_false_iff, beq_eq_false_iff_ne]
  tauto

/-- Once its addresses and its length are aligned, a stmap is refused with cause 0x04 alone. -/
theorem stmapCheck_of_aligned {t : Team} {win tb gb n : Nat} (htb : tb % 256 = 0) (hgb : gb % 256 = 0) (hn : n % 256 = 0) :
    stmapCheck t win tb gb n = none ∨ stmapCheck t win tb gb n = some 0x04 := by
  unfold stmapCheck
  rw [if_neg (by simp [htb, hgb, hn])]
  split_ifs <;> simp

theorem stmapCheck_of_refused {t : Team} {win tb gb n : Nat} (htb : tb % 256 = 0) (hgb : gb % 256 = 0) (hn : n % 256 = 0)
    (h : n = 0 ∨ 2 ^ 18 < n ∨ canonical gb = false ∨ t.size < tb + n ∨ (t.wins.get? win).isSome = true) : stmapCheck t win tb gb n = some 0x04 := by
  refine (stmapCheck_of_aligned htb hgb hn).resolve_left fun hnone => ?_
  unfold stmapCheck at hnone
  rw [if_neg (by simp [htb, hgb, hn])] at hnone
  split_ifs at hnone with hlen hcanon hsize hover hmapped
  simp only [Bool.not_eq_true', Bool.and_eq_false_iff, not_or, Bool.not_eq_false, Bool.or_eq_true, decide_eq_true_eq] at hcanon hsize
  rcases h with h | h | h | h | h
  · exact hlen (.inl h)
  · exact hlen (.inr h)
  · exact absurd (hcanon.1.symm.trans h) (by decide)
  · exact hsize.1 h
  · exact hmapped h

/-- No buffered store of the group touches the bytes: nothing has to be performed first (R192). -/
theorem State.clearOwn_of_no_stores {s : State} {gid : Nat} {g : Group} {order : Option Nat} {sp : Space} {a n : Nat} {hpa : Option Nat}
    (hgroup : s.groups.get? gid = some g) (halias : g.mayAlias order sp a = false) (hstores : g.ownStores order sp a n hpa = []) :
    s.clearOwn gid order sp a n hpa = (s, true) := by
  simp [State.clearOwn, hgroup, halias, hstores, State.drainList, Drained.settle]

/-- An instruction whose group stands as it issued completes. -/
theorem Issue.finish_of_still {u : State} {i : Instr} {gid : Nat} {g : Group} {pc : W64} {run : BitVec 64} {len : Nat}
    (hgroup : u.groups.get? gid = some g) (hrun : g.run = some (pc, run)) (hpend : g.pend = none) (f : Group → Group) :
    (Issue.mk i gid g pc run len).finish u f = .next (u.setGroup gid ((f g).place run [(pc + BitVec.ofNat 64 len, run)])) := by
  have hstill : (Issue.mk i gid g pc run len).still u = some g := by simp [Issue.still, hgroup, hpend, hrun]
  rw [Issue.finish, hstill]
  rfl

/-! ## stunmap (R205) -/

theorem mem_clearBad {l : List Nat} {u a n k : Nat} : k ∈ clearBad l u a n ↔ k ∈ l ∧ ¬(a ≤ k * u ∧ (k + 1) * u ≤ a + n) := by
  simp [clearBad, imp_iff_not_or]

/-- The words of a window's valid sectors are written whole (R483). -/
theorem mem_foldl_clearBad (base : Nat) (secs : List Nat) (l : List Nat) (k : Nat) :
    k ∈ secs.foldl (fun l sec => clearBad l 4 (base + 64 * sec) 64) l ↔
      k ∈ l ∧ ¬∃ sec ∈ secs, base + 64 * sec ≤ 4 * k ∧ 4 * k + 4 ≤ base + 64 * sec + 64 := by
  induction secs generalizing l with
  | nil => simp
  | cons sec r ih =>
    rw [List.foldl_cons, ih, mem_clearBad, Nat.mul_comm k 4, show (k + 1) * 4 = 4 * k + 4 by omega]
    simp [and_assoc]

theorem Memory.length_bytes (m : Memory) (a n : Nat) : (m.bytes a n).length = n := by
  induction n generalizing a with
  | zero => rfl
  | succ n ih => rw [Memory.bytes, List.length_cons, ih]

theorem Memory.getElem_bytes (m : Memory) (a n i : Nat) (h : i < (m.bytes a n).length) : (m.bytes a n)[i] = m.get (a + i) := by
  induction n generalizing a i with
  | zero => simp [Memory.bytes] at h
  | succ n ih =>
    cases i with
    | zero => rfl
    | succ i => simpa [Memory.bytes, Nat.add_assoc, Nat.add_comm 1] using ih (a + 1) i (by simpa [Memory.bytes] using h)

/-- The window's contents in its valid sectors, and the bytes beneath elsewhere (R204). -/
theorem get_foldl_write_sectors (data : Memory) (base : Nat) (secs : List Nat) (m : Memory) (h : m.wf = true) (x : Nat) :
    (secs.foldl (fun m sec => m.write (base + 64 * sec) (data.bytes (64 * sec) 64)) m).get x =
      if base ≤ x ∧ (x - base) / 64 ∈ secs then data.get (x - base) else m.get x := by
  induction secs generalizing m with
  | nil => simp
  | cons sec r ih =>
    rw [List.foldl_cons, ih _ (Memory.wf_write m _ _ h)]
    by_cases hr : base ≤ x ∧ (x - base) / 64 ∈ r
    · rw [if_pos hr, if_pos ⟨hr.1, List.mem_cons_of_mem sec hr.2⟩]
    · rw [if_neg hr]
      by_cases hsec : base ≤ x ∧ (x - base) / 64 = sec
      · have hx : x = base + 64 * sec + (x - base) % 64 := by omega
        have hlt : (x - base) % 64 < (data.bytes (64 * sec) 64).length := by
          rw [Memory.length_bytes]
          exact Nat.mod_lt _ (by decide)
        have hwritten := Memory.get_write_in m (base + 64 * sec) (data.bytes (64 * sec) 64) _ h hlt
        rw [← hx, Memory.getElem_bytes] at hwritten
        rw [if_pos ⟨hsec.1, hsec.2 ▸ List.mem_cons_self⟩, hwritten]
        congr 1
        omega
      · rw [if_neg (by simp only [List.mem_cons]; tauto)]
        refine Memory.get_write_out _ _ _ _ h ?_
        rw [Memory.length_bytes]
        omega

/-- A window without dirty bytes has nothing to write back (R109). -/
theorem State.flushWindow_clean {s : State} {n win : Nat} {t : Team} {w : Window} (hteam : s.teams.get? n = some t) (hwin : t.wins.get? win = some w)
    (hsorted : Map.sorted t.wins = true) (hdirty : w.dirty = []) :
    s.flushWindow n win (fun _ => true) false = ((s.pump.dropWaits (.stash n win)).setTeam n t, true) := by
  have hsame : (t.wins.modify win fun w => { w with dirty := w.dirty.filter fun _ => false, valid := w.valid }) = t.wins := by
    rw [Map.modify_of_get? hwin]
    refine Eq.trans (congrArg (t.wins.set win ·) ?_) (Map.set_of_get? hwin hsorted)
    rw [hdirty]
    exact congrArg (fun l => ({ w with dirty := l } : Window)) hdirty.symm
  unfold State.flushWindow
  rw [hteam]
  simp only [hwin, Window.dirtyWhere, hdirty]
  have hpump : s.pump.teams.get? n = some t := s.teams_pump.symm ▸ hteam
  have hset : (s.pump.teams.modify n fun tm => { tm with wins := tm.wins.modify win fun w =>
      { w with dirty := w.dirty.filter fun _ => false, valid := w.valid } }) = s.pump.teams.set n t := by
    rw [Map.modify_of_get? hpump, hsame]
  exact congrArg (fun m => (({ s.pump.dropWaits (.stash n win) with teams := m } : State), true)) hset

section
variable {s : State} {g : Group} {t : Team} {pc : W64} {run : BitVec 64}

/-- stmap at issue, under a true guard (R204). -/
theorem exec_stmap {a gl len : BitVec 7} (h : s.UniIssues g t pc run [a.toNat, gl.toNat, len.toNat] []) (rw : Bool) (win : BitVec 3) {gd : Guard}
    (hguard : g.guardTrue gd = true) :
    exec (.stmap a gl len rw win gd) s =
      let tb := (g.readS a.toNat).toNat
      let gb := (g.readS gl.toNat).toNat
      let n := (g.readS len.toNat).toNat
      match stmapCheck t win.toNat tb gb n with
      | some cause => s.traps (.stmap a gl len rw win gd) 8 g pc run cause []
      | none =>
        if g.acquiring || g.overlaps [(.glob, gb, n), (.team, tb, n)] || g.entries.any (fun e => e.ranges.contains anyGlobal) then s.hold
        else
          match s.clearOwn s.focus none .glob gb n none with
          | (s1, false) => s1.hold
          | (s1, true) =>
            (Issue.mk (.stmap a gl len rw win gd) s.focus g pc run 8).finish { s1 with teams := s1.teams.modify g.team (fun tm =>
              { tm with wins := tm.wins.set win.toNat ⟨tb, gb, n, rw, [], [], [], []⟩ }) } id := by
  have hext : g.guardTrue (UCtx.ext (.stmap a gl len rw win gd) gd).guard = true := hguard
  change execStmap a gl len rw win gd s = _
  unfold execStmap
  rw [uniOp_ready h.1 _ _ _ _ h.2, if_pos hext]
  simp only [h.1.2.2]
  rfl

/-- A stmap that is accepted adds its window, empty, to its team (R204). -/
theorem exec_stmap_accepted {a gl len : BitVec 7} (h : s.UniIssues g t pc run [a.toNat, gl.toNat, len.toNat] []) (rw : Bool) (win : BitVec 3) {gd : Guard}
    (hguard : g.guardTrue gd = true)
    (hcheck : stmapCheck t win.toNat (g.readS a.toNat).toNat (g.readS gl.toNat).toNat (g.readS len.toNat).toNat = none) (hacq : g.acquiring = false)
    (hover : g.overlaps [(.glob, (g.readS gl.toNat).toNat, (g.readS len.toNat).toNat), (.team, (g.readS a.toNat).toNat, (g.readS len.toNat).toNat)] = false)
    (halias : g.mayAlias none .glob (g.readS gl.toNat).toNat = false)
    (hstores : g.ownStores none .glob (g.readS gl.toNat).toNat (g.readS len.toNat).toNat none = []) (hpend : g.pend = none)
    (hany : ∀ e ∈ g.entries, anyGlobal ∉ e.ranges) :
    exec (.stmap a gl len rw win gd) s = (s.setTeam g.team { t with wins := (t.wins.set win.toNat
      ⟨(g.readS a.toNat).toNat, (g.readS gl.toNat).toNat, (g.readS len.toNat).toNat, rw, [], [], [], []⟩) }).moves g pc 8 run := by
  have hent : (g.entries.any fun e => e.ranges.contains anyGlobal) = false := List.any_eq_false.2 fun e he => by simpa using hany e he
  rw [exec_stmap h rw win hguard]
  simp only [hcheck, hacq, hover, hent, State.clearOwn_of_no_stores h.1.1 halias hstores, Map.modify_of_get? h.1.2.2, Bool.or_self,
    Bool.false_eq_true, if_false]
  exact Issue.finish_of_still (u := s.setTeam g.team _) h.1.1 h.1.2.1 hpend id

/-- A stunmap whose window has nothing to write back unmaps it (R205). -/
theorem exec_stunmap {win : BitVec 3} {gd : Guard} {w : Window} (h : s.UniIssues g t pc run [] []) (hguard : g.guardTrue gd = true)
    (hsettled : g.unsettled = false) (hwin : t.wins.get? win.toNat = some w) (hdirty : w.dirty = []) (hsorted : Map.sorted t.wins = true)
    (hpend : g.pend = none) :
    exec (.stunmap win gd) s = .next (((s.pump.dropWaits (.stash g.team win.toNat)).setTeam g.team (t.unmap win.toNat)).setGroup s.focus
      (g.place run [(pc + 8, run)])) := by
  obtain ⟨hissue, hready⟩ := h
  have hext : g.guardTrue (UCtx.ext (.stunmap win gd) gd).guard = true := hguard
  have hgroup : s.pump.groups.get? s.focus = some g := s.groups_pump.symm ▸ hissue.1
  have hunmap : (((s.pump.dropWaits (.stash g.team win.toNat)).setTeam g.team t).teams.modify g.team fun t => t.unmap win.toNat) =
      s.pump.teams.set g.team (t.unmap win.toNat) := by
    rw [Map.modify_of_get? (m := ((s.pump.dropWaits (.stash g.team win.toNat)).setTeam g.team t).teams) (Map.get?_set_self ..)]
    exact Map.set_set ..
  change execStunmap win gd s = _
  unfold execStunmap
  rw [uniOp_ready hissue _ _ _ _ hready, if_pos hext]
  simp only [hsettled, State.flushWindow_clean hissue.2.2 hwin hsorted hdirty, Bool.false_eq_true, if_false, hunmap]
  exact Issue.finish_of_still (u := (s.pump.dropWaits (.stash g.team win.toNat)).setTeam g.team _) hgroup hissue.2.1 hpend id

/-- What an unmapped window leaves in its team (R204, R483). -/
theorem Team.unmap_of_window {t : Team} {win : Nat} {w : Window} (h : t.wins.get? win = some w) :
    t.unmap win = { t with
      mem := w.valid.foldl (fun m k => m.write (w.tbase + 64 * k) (w.data.bytes (64 * k) 64)) t.mem
      bad := w.valid.foldl (fun l k => clearBad l 4 (w.tbase + 64 * k) 64) t.bad, wins := t.wins.erase win } := by
  rw [Team.unmap, h]

end

/-- Settles O33: the checks of stmap by their order; stunmap by what its window's sectors hold. -/
theorem stashWindows : Obligations.StashWindows := by
  unfold Obligations.StashWindows
  refine ⟨fun s g t pc run a gl len rw win gd h => ?map, ?unmap⟩
  case map =>
    dsimp only
    refine ⟨fun hguard => ?_, fun hguard halign => ?_, fun hguard htb hgb hn hrefused => ?_,
      fun hguard hcheck hacq hover halias hstores hpend hany => exec_stmap_accepted h rw win hguard hcheck hacq hover halias hstores hpend hany⟩
    · change execStmap a gl len rw win gd s = _
      unfold execStmap
      rw [uniOp_ready h.1 _ _ _ _ h.2]
      exact if_neg (by rw [show g.guardTrue (UCtx.ext (.stmap a gl len rw win gd) gd).guard = false from hguard]; decide)
    · rw [exec_stmap h rw win hguard]
      simp only [stmapCheck_of_misaligned halign]
    · rw [exec_stmap h rw win hguard]
      simp only [stmapCheck_of_refused htb hgb hn hrefused]
  case unmap =>
    intro s g t pc run win gd w h hguard hsettled hwin hdirty hsorted hwf _ hpend
    refine ⟨_, t.unmap win.toNat, exec_stunmap h hguard hsettled hwin hdirty hsorted hpend, ?_, ?_⟩
    · obtain ⟨w, a, p, l, d, hp⟩ := s.sameBut_pump.exists
      rw [hp]
      rfl
    · rw [Team.unmap_of_window hwin]
      refine ⟨fun k => ?_, rfl, mem_foldl_clearBad _ _ _, get_foldl_write_sectors _ _ _ _ hwf⟩
      by_cases hk : k = win.toNat
      · rw [if_pos hk, hk, Map.get?_erase_self _ _ hsorted]
      · rw [if_neg hk, Map.get?_erase_ne _ (Ne.symm hk)]

end Sys2Proof.Machine
end

section
/-! PROOFS. What an instruction that reads team or layer memory finds, where nothing stands in between (R75, R192, R193). -/

namespace Sys2Proof.Machine

/-! ## An owner without waiting pages -/

namespace State

theorem pump_no_waits {s : State} {o : Owner} (h : ∀ w ∈ s.waits, w.owner ≠ o) : ∀ w ∈ s.pump.waits, w.owner ≠ o := by
  intro w hw
  have hmem : w.access ∈ s.waits.map PageWait.access := s.pump_access ▸ List.mem_map_of_mem hw
  obtain ⟨v, hv, he⟩ := List.mem_map.1 hmem
  have howner : v.owner = w.owner := congrArg Prod.fst he
  exact howner ▸ h v hv

theorem standing_of_no_waits {s : State} {o : Owner} (h : ∀ w ∈ s.waits, w.owner ≠ o) : s.standing o = .ready := by
  have hnone : s.waits.filter (fun w => w.owner == o) = [] := List.filter_eq_nil_iff.2 fun w hw => by simpa using h w hw
  rw [State.standing, hnone]
  rfl

end State

/-! ## Requests to team and layer memory -/

section
variable {s : State} {g : Group} {t : Team} {o : Owner} {need : Need} {q : Req} {qs : List Req}

theorem Team.pagesOf_of_local (hwins : t.wins = []) (hsp : q.sp ≠ .glob) : t.pagesOf need q = [] := by
  rw [Team.pagesOf, Team.windowAt_of_no_windows hwins]
  cases hq : q.sp with
  | glob => exact absurd hq hsp
  | layer => rfl
  | team => rfl

theorem Team.globalOf_of_local (hwins : t.wins = []) (hsp : q.sp ≠ .glob) : t.globalOf q = none := by
  rw [Team.globalOf, Team.rangeOf, Team.windowAt_of_no_windows hwins]
  cases hq : q.sp with
  | glob => exact absurd hq hsp
  | layer => rfl
  | team => rfl

/-- Nothing is asked for: every waiting access just goes on (R68). -/
theorem State.ask_of_local (hteam : s.teams.get? g.team = some t) (hwins : t.wins = []) (hsp : ∀ q ∈ qs, q.sp ≠ .glob) :
    s.ask o g need qs = s.pump := by
  have hnone : qs.flatMap (t.pagesOf need) = [] := List.flatMap_eq_nil_iff.2 fun q hq => Team.pagesOf_of_local hwins (hsp q hq)
  rw [State.ask, hteam]
  simp only [hnone, List.foldl_nil]

theorem State.behindWrite_of_local (gid : Nat) (hwins : t.wins = []) (hsp : q.sp ≠ .glob) : s.behindWrite gid g t o need q = false := by
  rw [State.behindWrite, Team.globalOf_of_local hwins hsp]

theorem State.globalBytes_of_local (hwins : t.wins = []) (hsp : q.sp ≠ .glob) : s.globalBytes g t o need q = none := by
  rw [State.globalBytes, Team.windowAt_of_no_windows hwins]
  cases hq : q.sp with
  | glob => exact absurd hq hsp
  | layer => rfl
  | team => rfl

theorem State.found_of_local (hwins : t.wins = []) (hsp : q.sp ≠ .glob) (b : List Byte) : s.found g t o need q b = b := by
  unfold State.found
  rw [State.globalBytes_of_local hwins hsp]
  split
  · split
    · split <;> rfl
    · rfl
  · rfl

theorem State.keepReq_of_local (gid : Nat) (hwins : t.wins = []) (hsp : q.sp ≠ .glob) (s0 : State) : s.keepReq gid g t o need s0 q = s0 := by
  rw [State.keepReq, State.globalBytes_of_local hwins hsp]

theorem State.placeAt_team (a : Nat) : s.placeAt g o need .team a = .at (.team g.team a) := rfl

theorem State.placeAt_layer {a : Nat} (h : s.layerCheck (s.fnOf g) g.die a 1 = none) : s.placeAt g o need .layer a = .at (.layer g.die a) := by
  rw [State.placeAt, h]

/-- Team and layer bytes are not obtained from the host. -/
theorem State.obtainRead_of_local {sp : Space} (hsp : sp ≠ .glob) (a n : Nat) : s.obtainRead g o need sp a n = s := by
  unfold State.obtainRead State.placeAt
  split
  · rfl
  · cases sp with
    | glob => exact absurd rfl hsp
    | team => rfl
    | layer => cases s.layerCheck (s.fnOf g) g.die a 1 <;> rfl

/-- A buffered store of another space holds no byte of this one. -/
theorem SbEntry.byteOf_of_space_ne {x : SbEntry} {sp : Space} (h : x.space ≠ sp) (a : Nat) (hpa : Option Nat) : x.byteOf sp a hpa = none := by
  simp [SbEntry.byteOf, SbEntry.offsetOf, h]

theorem Group.forward_of_no_stores {sp : Space} (h : ∀ x ∈ g.sbuf, x.space ≠ sp) (order : Option Nat) (a : Nat) (hpa : Option Nat) (b : Byte) :
    g.forward order sp a hpa b = b := by
  unfold Group.forward
  refine congrArg Prod.snd (List.foldlRecOn g.sbuf _ (motive := fun r => r = (0, b)) rfl ?_)
  rintro r rfl x hx
  rw [SbEntry.byteOf_of_space_ne (h x hx)]

theorem Group.forwardAll_of_no_stores {sp : Space} (h : ∀ x ∈ g.sbuf, x.space ≠ sp) (order : Option Nat) (a : Nat) (hpa : Option Nat) (b : List Byte) :
    g.forwardAll order sp a hpa b = b := by
  induction b generalizing a hpa with
  | nil => rfl
  | cons x r ih => rw [Group.forwardAll, Group.forward_of_no_stores h, ih]

/-- A request to team or layer memory reads what its place holds (R193). -/
theorem State.readReq_of_local {l : Loc} (hwins : t.wins = []) (hsp : q.sp ≠ .glob) (hplace : s.placeAt g o need q.sp q.a = .at l)
    (hgood : s.poisoned l q.n = false) (hstores : ∀ x ∈ g.sbuf, x.space ≠ q.sp) : s.readReq g t o need q = .bytes (s.bytesAt l q.n) := by
  have halias : g.mayAlias (g.orderOf o) q.sp q.a = false := by simp [Group.mayAlias, hsp]
  rw [State.readReq, Team.windowAt_of_no_windows hwins]
  simp [State.readRun, State.readPlace, hsp, hplace, hgood, halias, Group.forwardAll_of_no_stores hstores]

/-- A reading of team and layer memory, whole and at one moment (R75, R193). -/
theorem State.readAll_of_local {f : Req → List Byte} (hteam : s.teams.get? g.team = some t) (hwins : t.wins = [])
    (hsp : ∀ q ∈ qs, q.sp ≠ .glob) (hwaits : ∀ w ∈ s.waits, w.owner ≠ o) (hread : ∀ q ∈ qs, s.pump.readReq g t o need q = .bytes (f q)) :
    s.readAll g o need qs = .ok (s.pump.dropWaits o) (qs.map fun q => (q, f q)) := by
  have hpumped : s.pump.teams.get? g.team = some t := s.teams_pump.symm ▸ hteam
  have hbehind : qs.any (s.pump.behindWrite o.gid g t o need) = false :=
    List.any_eq_false.2 fun q hq => by simp [State.behindWrite_of_local o.gid hwins (hsp q hq)]
  have hgot : gather (qs.map fun q => (q, s.pump.readReq g t o need q)) = some (qs.map fun q => (q, f q)) := by
    clear hbehind
    induction qs with
    | nil => rfl
    | cons q r ih =>
      rw [List.map_cons, hread q List.mem_cons_self, gather, ih (fun x hx => hsp x (List.mem_cons_of_mem q hx)) fun x hx => hread x (List.mem_cons_of_mem q hx)]
      rfl
  have hkept : qs.foldl (fun s1 q => s.pump.keepReq o.gid g t o need (s1.obtainRead g o need q.sp q.a q.n) q) s.pump = s.pump := by
    refine List.foldlRecOn qs _ (motive := fun u => u = s.pump) rfl ?_
    rintro u rfl q hq
    rw [State.keepReq_of_local o.gid hwins (hsp q hq), State.obtainRead_of_local (hsp q hq)]
  have hfound : (qs.map fun q => (q, f q)).map (fun x => (x.1, s.pump.found g t o need x.1 x.2)) = qs.map fun q => (q, f q) := by
    rw [List.map_map]
    exact List.map_congr_left fun q hq => by rw [Function.comp_apply, State.found_of_local hwins (hsp q hq)]
  unfold State.readAll
  simp only [State.ask_of_local hteam hwins hsp, hpumped, State.standing_of_no_waits (State.pump_no_waits hwaits), hbehind, Bool.false_eq_true, if_false,
    Team.filterMap_fillOf_of_no_windows hwins, State.fillAll, hgot, hkept, hfound]

end

/-! ## Instructions of the pipeline -/

theorem State.bytesAt_team {s : State} {n : Nat} {t : Team} (h : s.teams.get? n = some t) (a k : Nat) : s.bytesAt (.team n a) k = t.mem.bytes a k := by
  induction k generalizing a with
  | zero => rfl
  | succ k ih =>
    rw [State.bytesAt, Memory.bytes, Loc.add, ih]
    simp [State.byteAt, State.team?, h]

theorem State.bytesAt_layer (s : State) (d a k : Nat) : s.bytesAt (.layer d a) k = s.layer.bytes (layerKey d a) k := by
  induction k generalizing a with
  | zero => rfl
  | succ k ih =>
    rw [State.bytesAt, Memory.bytes, Loc.add, ih, State.byteAt, show layerKey d (a + 1) = layerKey d a + 1 from (Nat.add_assoc ..).symm]

theorem MemOp.space_of_mem_reqs {op : MemOp} {e : Entry} {q : Req} (h : q ∈ op.reqs e) : q.sp = op.space := by
  simp only [MemOp.reqs, List.mem_flatMap, List.mem_map] at h
  obtain ⟨l, -, p, -, rfl⟩ := h
  rfl

section
variable {s : State} {gid id : Nat} {g : Group} {t : Team} {e : Entry} {op : MemOp}

/-- What a reading of team memory finds (R193, R194). -/
theorem readAll_of_inTeam (h : s.Performs gid id g e op) (hin : s.InTeam g t e op) (need : Need) :
    s.readAll g (.entry gid id) need (op.reqs e) = .ok (s.pump.dropWaits (.entry gid id)) ((op.reqs e).map fun q => (q, t.mem.bytes q.a q.n)) := by
  obtain ⟨-, -, -, -, -, -, -, hwaits, -⟩ := h
  obtain ⟨hspace, hteam, hwins, hstores, hgood⟩ := hin
  have hteam' : s.pump.teams.get? g.team = some t := s.teams_pump.symm ▸ hteam
  have hsp : ∀ q ∈ op.reqs e, q.sp = .team := fun q hq => (MemOp.space_of_mem_reqs hq).trans hspace
  refine State.readAll_of_local hteam hwins (fun q hq => by simp [hsp q hq]) hwaits fun q hq => ?_
  rw [← State.bytesAt_team hteam']
  refine State.readReq_of_local hwins (by simp [hsp q hq]) (by rw [hsp q hq, State.placeAt_team]) ?_ (by simpa [hsp q hq] using hstores)
  simp [State.poisoned, State.team?, hteam', hgood q hq]

/-- What a reading of layer memory finds (R86, R193). -/
theorem readAll_of_inLayer (h : s.Performs gid id g e op) (hin : s.InLayer g t e op) (need : Need) :
    s.readAll g (.entry gid id) need (op.reqs e) =
      .ok (s.pump.dropWaits (.entry gid id)) ((op.reqs e).map fun q => (q, s.layer.bytes (layerKey g.die q.a) q.n)) := by
  obtain ⟨-, -, -, -, -, -, -, hwaits, -⟩ := h
  obtain ⟨hspace, hteam, hwins, hstores, hlayer⟩ := hin
  have hsp : ∀ q ∈ op.reqs e, q.sp = .layer := fun q hq => (MemOp.space_of_mem_reqs hq).trans hspace
  refine State.readAll_of_local hteam hwins (fun q hq => by simp [hsp q hq]) hwaits fun q hq => ?_
  obtain ⟨w, a, p, l, d, hp⟩ := s.sameBut_pump.exists
  obtain ⟨hmapped, hgood⟩ := hlayer q hq
  have hplace : s.pump.placeAt g (.entry gid id) need q.sp q.a = .at (.layer g.die q.a) := by
    rw [hsp q hq, State.placeAt_layer]
    rw [hp]
    exact hmapped
  have hclean : s.pump.poisoned (.layer g.die q.a) q.n = false := by
    rw [hp]
    exact hgood
  have hlayer' : s.pump.layer = s.layer := (congrArg State.layer hp :)
  rw [← hlayer', ← State.bytesAt_layer]
  exact State.readReq_of_local hwins (by simp [hsp q hq]) hplace hclean (by simpa [hsp q hq] using hstores)

/-- The event of a load, an xrd or a resld performs it (R75). -/
theorem exec_loadLanding (h : s.Performs gid id g e op) (hload : op.kind.isLoad = true) :
    exec (.loadLanding gid id) s = .next (s.performLoad gid e op) := by
  obtain ⟨hgroup, hawake, hfind, hbook, hstate, hbad, hop, -, hid⟩ := h
  have hgoing : s.going g = true := (Bool.and_eq_true_iff.1 hawake).1
  have hatomic := MemKind.isAtomic_of_isLoad hload
  have hland : s.landEntry gid g e = s.performEntry gid e.id g := by
    have hnone : ∀ i, memOp i = some op → i = e.instr → s.landEntry gid g e = s.performEntry gid e.id g := by
      intro i hi he
      unfold State.landEntry State.landRead
      rw [← he]
      unfold memOp at hi
      split at hi <;> cases hi <;> rfl
    exact hnone _ hop rfl
  change execLoadLanding gid id s = _
  unfold execLoadLanding withEntry wake
  rw [hgroup]
  simp [hgoing, hfind, hbad, Entry.workable, hbook, hstate, hland, State.performEntry, hid, hop, hatomic, hload]

end

end Sys2Proof.Machine
end

section
/-! PROOFS. What a load lands (R193, R194, R195, R306), what an atomic writes (R207), and what helper lanes get (R191). -/

namespace Sys2Proof.Machine

/-! ## A register run written in each of several lanes -/

/-- Each lane's run holds its value, and every other register and mark is as before. -/
theorem Group.foldl_writeWide_spec (f x : Nat → Nat) (w : Nat) (hf : ∀ l, f l + w ≤ 256) (ls : List Nat) (hls : ls.Nodup) (g : Group) :
    let g' := ls.foldl (fun g l => g.writeWide l (f l) w (x l)) g
    (∀ l ∈ ls, g'.readWide l (f l) w = x l % 2 ^ (32 * w)) ∧
    (∀ l n, n < 256 → ¬(l ∈ ls ∧ f l ≤ n ∧ n < f l + w) →
      g'.readV l n = g.readV l n ∧ (l * 256 + n ∈ g'.badV ↔ l * 256 + n ∈ g.badV)) ∧
    { g' with v := g.v, badV := g.badV } = g := by
  induction ls generalizing g with
  | nil => exact ⟨fun l hl => absurd hl List.not_mem_nil, fun l n _ _ => ⟨rfl, Iff.rfl⟩, rfl⟩
  | cons k r ih =>
    obtain ⟨hk, hr⟩ := List.nodup_cons.1 hls
    obtain ⟨hvalue, hkeep, hframe⟩ := ih hr (g.writeWide k (f k) w (x k))
    simp only [List.foldl_cons]
    refine ⟨fun l hl => ?_, fun l n hn hout => ?_, ?_⟩
    · rcases List.mem_cons.1 hl with rfl | hl
      · have hf' := hf l
        rw [Group.readWide_congr fun n _ hn => (hkeep l n (by omega) fun hc => hk hc.1).1, Group.readWide_writeWide _ _ _ _ _ hf']
      · exact hvalue l hl
    · have hout' : ¬(k = l ∧ f k ≤ n ∧ n < f k + w) := by
        rintro ⟨rfl, hc⟩
        exact hout ⟨List.mem_cons_self, hc⟩
      obtain ⟨hv, hbad⟩ := hkeep l n hn fun hc => hout ⟨List.mem_cons_of_mem k hc.1, hc.2⟩
      refine ⟨hv.trans (Group.readV_writeWide_out _ _ _ _ _ _ _ (hf k) hn hout'), hbad.trans ?_⟩
      rw [Group.mem_badV_writeWide]
      have hf' := hf k
      exact ⟨And.left, fun hm => ⟨hm, by omega⟩⟩
    · exact (congrArg (fun h : Group => { h with v := g.v, badV := g.badV }) hframe).trans (Group.writeWide_frame ..)

theorem Group.readV_writeWide_zero (g : Group) (l n w l' n' : Nat) (h : n + w ≤ 256) (h' : n' < 256) :
    (g.writeWide l n w 0).readV l' n' = if l = l' ∧ n ≤ n' ∧ n' < n + w then 0 else g.readV l' n' := by
  induction w generalizing g n with
  | zero => rw [Group.writeWide, if_neg (by omega)]
  | succ w ih =>
    rw [Group.writeWide, Nat.zero_div, ih _ _ (by omega), Group.readV_writeV _ _ _ _ _ _ (by omega) h']
    by_cases hin : l = l' ∧ n ≤ n' ∧ n' < n + (w + 1)
    · rw [if_pos hin]
      split
      · rfl
      · exact if_pos (by omega)
    · rw [if_neg hin, if_neg (by omega), if_neg (by omega)]

theorem Group.readV_foldl_writeWide_zero (f : Nat → Nat) (w : Nat) (hf : ∀ l, f l + w ≤ 256) (ls : List Nat) (g : Group) (l n : Nat) (hn : n < 256) :
    (ls.foldl (fun g l => g.writeWide l (f l) w 0) g).readV l n = if l ∈ ls ∧ f l ≤ n ∧ n < f l + w then 0 else g.readV l n := by
  induction ls generalizing g with
  | nil => simp
  | cons k r ih =>
    rw [List.foldl_cons, ih, Group.readV_writeWide_zero _ _ _ _ _ _ (hf k) hn]
    by_cases hk : k = l
    · subst hk
      by_cases hin : f k ≤ n ∧ n < f k + w <;> simp [hin]
    · simp [hk, Ne.symm hk]

/-- Helper lanes get 0 in their destinations (R191). -/
theorem Group.readV_landHelpers (g : Group) (e : Entry) (op : MemOp) (l n : Nat) (hn : n < 256) (hd : ∀ k, e.dreg.getD k 0 + op.dw ≤ 256) :
    (g.landHelpers e op).readV l n =
      if l ∈ lanesOf (e.helpers &&& g.live) ∧ e.dreg.getD l 0 ≤ n ∧ n < e.dreg.getD l 0 + op.dw then 0 else g.readV l n := by
  unfold Group.landHelpers
  split
  · next hdw => rw [if_neg (by omega)]
  · exact Group.readV_foldl_writeWide_zero _ op.dw hd _ g l n hn

/-! ## What a load makes of its bytes (R193) -/

theorem toSigned_eq_toInt (x n : Nat) : toSigned x n = (BitVec.ofNat n x).toInt := by
  rw [← toSigned_toNat, BitVec.toNat_ofNat]
  simp [toSigned]

theorem w32_wrapInt (z : Int) : w32 (wrapInt z 32) = BitVec.ofInt 32 z := by
  apply BitVec.eq_of_toNat_eq
  rw [BitVec.toNat_ofInt, w32, BitVec.toNat_ofNat, wrapInt]
  omega

theorem loadValue_signed (b : List Byte) : w32 (loadValue true b) = (BitVec.ofNat (8 * b.length) (ofBytes b)).signExtend 32 := by
  rw [loadValue, if_pos rfl, w32_wrapInt, toSigned_eq_toInt]
  rfl

theorem Group.land_uniform (g : Group) (e : Entry) {op : MemOp} {signed : Bool} {d : Nat} (x : Req × List Byte) (r : List (Req × List Byte))
    (hk : op.kind = .load signed) (hu : op.uni = true) (hd : sldDst e.instr = some d) :
    g.land e op (x :: r) = g.writeS d (BitVec.ofNat 64 (ofBytes x.2)) := by
  simp [Group.land, hk, hu, hd]

theorem Group.land_reservoir (g : Group) (e : Entry) {op : MemOp} {w : Nat} (x : Req × List Byte) (hk : op.kind = .resld w) (hu : op.uni = false) :
    g.land e op [x] = if g.live.getLsbD x.1.lane then g.writeW x.1.lane w (BitVec.ofNat 192 (ofBytes x.2)) else g := by
  cases hl : g.live.getLsbD x.1.lane <;> simp [Group.land, hk, hu, hl]

/-- A lane load writes each lane that has not exited (R194, R378). -/
theorem Group.land_lanes (g : Group) (e : Entry) {op : MemOp} {signed : Bool} (hk : op.kind = .load signed) (hu : op.uni = false)
    (ls : List Nat) (q : Nat → Req) (hq : ∀ l, (q l).lane = l) (b : Nat → List Byte) :
    g.land e op (ls.map fun l => (q l, b l)) =
      (ls.filter fun l => g.live.getLsbD l).foldl (fun g l => g.writeWide l (e.dreg.getD l 0) op.dw (loadValue signed (b l))) g := by
  simp only [Group.land, hk, hu, Bool.false_or, Bool.false_eq_true, if_false, List.filter_map, List.foldl_map, hq, Function.comp_def]

theorem joinLanes_of_nodup (l : List (Req × List Byte)) (h : (l.map fun x => x.1.lane).Nodup) : joinLanes l = l := by
  induction l with
  | nil => rfl
  | cons x r ih =>
    obtain ⟨hx, hr⟩ := List.nodup_cons.1 h
    rw [joinLanes, ih hr]
    cases r with
    | nil => rfl
    | cons y r =>
      have hne : x.1.lane ≠ y.1.lane := fun he => hx (List.mem_map.2 ⟨y, List.mem_cons_self, he.symm⟩)
      simp [hne]

/-! ## What an atomic writes (R207) -/

/-- The functions of R207 on words of 32 bits. -/
theorem atomValue_32 (x y : BitVec 32) : let f := fun op => BitVec.ofNat 32 (atomValue op 4 x.toNat y.toNat)
    f 0 = x + y ∧ f 1 = x &&& y ∧ f 2 = x ||| y ∧ f 3 = x ^^^ y ∧ f 4 = (if y.slt x then y else x) ∧ f 5 = (if y < x then y else x) ∧
    f 6 = (if x.slt y then y else x) ∧ f 7 = (if x < y then y else x) ∧ f 8 = y ∧ f 9 = (if y ≤ x then 0 else x + 1) ∧
    f 10 = (if x = 0 ∨ y < x then y else x - 1) := by
  have hofx : BitVec.ofNat 32 x.toNat = x := by simp
  have hofy : BitVec.ofNat 32 y.toNat = y := by simp
  have hsx : toSigned x.toNat (8 * 4) = x.toInt := toSigned_toNat x
  have hsy : toSigned y.toNat (8 * 4) = y.toInt := toSigned_toNat y
  have hx := x.isLt
  have hy := y.isLt
  refine ⟨?add, ?and, ?or, ?xor, ?mins, ?minu, ?maxs, ?maxu, hofy, ?inc, ?dec⟩
  case add => apply BitVec.eq_of_toNat_eq; simp [atomValue]
  case and => apply BitVec.eq_of_toNat_eq; simp [atomValue]
  case or => apply BitVec.eq_of_toNat_eq; simp [atomValue]
  case xor => apply BitVec.eq_of_toNat_eq; simp [atomValue]
  case mins => simp only [atomValue, hsx, hsy, BitVec.slt, decide_eq_true_eq, apply_ite (BitVec.ofNat 32), hofx, hofy]
  case maxs => simp only [atomValue, hsx, hsy, BitVec.slt, decide_eq_true_eq, apply_ite (BitVec.ofNat 32), hofx, hofy]
  case minu =>
    simp only [atomValue, BitVec.lt_def]
    split
    · rw [Nat.min_eq_right (by omega), hofy]
    · rw [Nat.min_eq_left (by omega), hofx]
  case maxu =>
    simp only [atomValue, BitVec.lt_def]
    split
    · rw [Nat.max_eq_right (by omega), hofy]
    · rw [Nat.max_eq_left (by omega), hofx]
  case inc =>
    simp only [atomValue, BitVec.le_def, apply_ite (BitVec.ofNat 32), BitVec.ofNat_add, hofx]
    rfl
  case dec =>
    have hzero : x.toNat = 0 ↔ x = 0 := by rw [← BitVec.toNat_inj]; rfl
    simp only [atomValue, hzero, BitVec.lt_def]
    split
    · exact hofy
    · next h =>
      apply BitVec.eq_of_toNat_eq
      have hpos : x.toNat ≠ 0 := fun hc => h (.inl (hzero.1 hc))
      simp
      omega

/-! ## A load performed (R75, R194) -/

theorem MemOp.size_of_load {i : Instr} {op : MemOp} {signed : Bool} (h : memOp i = some op) (hk : op.kind = .load signed) : op.size ≠ 24 := by
  intro hsize
  obtain ⟨w, hw | hw⟩ := (memOp_shape h).2.2 hsize <;> simp [hk] at hw

theorem wrapInt_lt (z : Int) (n : Nat) : wrapInt z n < 2 ^ n := by
  have hpos : (0 : Int) < ((2 ^ n : Nat) : Int) := by positivity
  have hlo := Int.emod_nonneg z (ne_of_gt hpos)
  have hhi := Int.emod_lt_of_pos z hpos
  unfold wrapInt
  omega

/-- A form of one part accesses its lane's address. -/
theorem MemOp.part_a (op : MemOp) (e : Entry) (l n : Nat) : (op.part e l (0, n)).a = op.addr e l := by
  rw [MemOp.part, MemOp.addr]
  exact (Nat.mod_eq_of_lt (by rw [Nat.add_zero]; exact wrapInt_lt ..)).trans (Nat.add_zero _)

theorem MemOp.reqs_of_one_part {op : MemOp} {e : Entry} (hu : op.uni = false) (hsize : op.size ≠ 24) :
    op.reqs e = (lanesOf e.mask).map fun l => op.part e l (0, op.size) := by
  simp only [MemOp.reqs, MemOp.lanes, hu, Bool.false_eq_true, if_false, MemOp.parts, hsize, List.map_cons, List.map_nil]
  exact List.map_eq_flatMap.symm

section
variable {s : State} {gid id : Nat} {g : Group} {t : Team} {e : Entry} {op : MemOp}

theorem performLoad_of_readAll {s1 : State} {l : List (Req × List Byte)} (h : s.Performs gid id g e op) (hx : op.kind.isXacc = false)
    (hread : s.readAll g (.entry gid id) .read (op.reqs e) = .ok s1 l) (hgroup : s1.groups.get? gid = some g) :
    s.performLoad gid e op = s1.setGroup gid ((g.land e op (joinLanes l)).retire e) := by
  obtain ⟨hgroup0, -, -, -, -, -, -, -, hid⟩ := h
  have howner : e.owner gid = .entry gid id := by rw [Entry.owner, hid]
  unfold State.performLoad
  simp [hgroup0, hx, State.cellsRefused, howner, hread, hgroup]

theorem Group.retire_frame {g g' : Group} (h : { g' with v := g.v, badV := g.badV } = g) (e : Entry) :
    { g'.retire e with v := g.v, badV := g.badV } = g.retire e := by
  rw [Group.eq_of_frame h]
  unfold Group.retire Group.countDown
  cases e.counter <;> rfl

theorem Group.readV_retire (g : Group) (e : Entry) (l n : Nat) : (g.retire e).readV l n = g.readV l n := by
  unfold Group.retire Group.countDown
  cases e.counter <;> rfl

theorem Group.readWide_retire (g : Group) (e : Entry) (l n w : Nat) : (g.retire e).readWide l n w = g.readWide l n w :=
  Group.readWide_congr fun k _ _ => g.readV_retire e l k

theorem Group.badV_retire (g : Group) (e : Entry) : (g.retire e).badV = g.badV := by
  unfold Group.retire Group.countDown
  cases e.counter <;> rfl

/-- The lanes of a load from team memory, each with its bytes. -/
theorem joinLanes_reqs {signed : Bool} (hk : op.kind = .load signed) (hu : op.uni = false) (hop : memOp e.instr = some op) (m : Memory) :
    joinLanes ((op.reqs e).map fun q => (q, m.bytes q.a q.n)) =
      (lanesOf e.mask).map fun l => (op.part e l (0, op.size), m.bytes (op.addr e l) op.size) := by
  have hlist : (op.reqs e).map (fun q => (q, m.bytes q.a q.n)) =
      (lanesOf e.mask).map fun l => (op.part e l (0, op.size), m.bytes (op.addr e l) op.size) := by
    rw [MemOp.reqs_of_one_part hu (MemOp.size_of_load hop hk), List.map_map]
    exact List.map_congr_left fun l _ => by rw [Function.comp_apply, MemOp.part_a]; rfl
  rw [hlist, joinLanes_of_nodup]
  rw [List.map_map]
  exact (List.map_id (lanesOf e.mask)).symm ▸ lanesOf_nodup e.mask

/-- A lane load from team memory lands: what its registers hold, and what stays (R193, R194). -/
theorem exec_loadLanding_team {signed : Bool} (h : s.Performs gid id g e op) (hin : s.InTeam g t e op) (hk : op.kind = .load signed)
    (hu : op.uni = false) (hd : ∀ l, e.dreg.getD l 0 + op.dw ≤ 256) :
    ∃ (s' : State) (g' : Group), exec (.loadLanding gid id) s = .next s' ∧ (s.setGroup gid g').sameBut s' ∧
      (∀ l ∈ lanesOf e.mask, g.live.getLsbD l = true →
        g'.readWide l (e.dreg.getD l 0) op.dw = loadValue signed (t.mem.bytes (op.addr e l) op.size) % 2 ^ (32 * op.dw)) ∧
      (∀ l n, n < 256 → ¬(l ∈ lanesOf e.mask ∧ g.live.getLsbD l = true ∧ e.dreg.getD l 0 ≤ n ∧ n < e.dreg.getD l 0 + op.dw) →
        g'.readV l n = g.readV l n ∧ (l * 256 + n ∈ g'.badV ↔ l * 256 + n ∈ g.badV)) ∧
      { g' with v := g.v, badV := g.badV } = g.retire e := by
  have hsame := State.sameBut.trans s.sameBut_pump (s.pump.sameBut_dropWaits (.entry gid id))
  have hgroup : (s.pump.dropWaits (.entry gid id)).groups.get? gid = some g := s.groups_pump.symm ▸ h.1
  have hperform := performLoad_of_readAll h (by rw [hk]; rfl) (readAll_of_inTeam h hin .read) hgroup
  rw [joinLanes_reqs hk hu h.2.2.2.2.2.2.1, Group.land_lanes g e hk hu (lanesOf e.mask) _ fun _ => rfl] at hperform
  obtain ⟨hvalue, hkeep, hframe⟩ := Group.foldl_writeWide_spec (fun l => e.dreg.getD l 0) (fun l => loadValue signed (t.mem.bytes (op.addr e l) op.size))
    op.dw hd ((lanesOf e.mask).filter fun l => g.live.getLsbD l) ((lanesOf_nodup e.mask).filter _) g
  refine ⟨_, _, (exec_loadLanding h (by rw [hk]; rfl)).trans (congrArg _ hperform), hsame.setGroup gid _, fun l hl hlive => ?_, fun l n hn hout => ?_,
    Group.retire_frame hframe e⟩
  · rw [Group.readWide_retire]
    exact hvalue l (List.mem_filter.2 ⟨hl, hlive⟩)
  · rw [Group.readV_retire, Group.badV_retire]
    refine hkeep l n hn fun hc => hout ?_
    obtain ⟨hl, hlo, hhi⟩ := hc
    exact ⟨(List.mem_filter.1 hl).1, (List.mem_filter.1 hl).2, hlo, hhi⟩

end

end Sys2Proof.Machine
end

section
/-! PROOFS. One lane of an atomic instruction performed (R208, R209, R211). -/

namespace Sys2Proof.Machine

/-! ## An acquire with nothing to wait for (R343) -/

namespace State

theorem flushWindows_of_no_windows {s : State} {n : Nat} {t : Team} (h : s.teams.get? n = some t) (hwins : t.wins = []) (f : Nat → Bool) (drop : Bool)
    (ks : List Nat) : s.flushWindows n f drop ks = (s, true) := by
  induction ks with
  | nil => rfl
  | cons k r ih =>
    have hk : s.flushWindow n k f drop = (s, true) := by
      unfold State.flushWindow
      rw [h]
      simp [hwins]
    rw [State.flushWindows, hk]
    simp [ih]

/-- No release is recorded and the team has no stash window: nothing is published and nothing is written back. -/
theorem acquireAll_of_no_records {s : State} {gid : Nat} {g : Group} {t : Team} (hgroup : s.groups.get? gid = some g)
    (hteam : s.teams.get? g.team = some t) (hwins : t.wins = []) (hrecs : s.syncRecs = []) (objs : List (Option Nat)) :
    s.acquireAll gid objs = (s, true) := by
  induction objs with
  | nil => rfl
  | cons o r ih =>
    have ho : s.acquireNow gid o = (s, true) := by
      unfold State.acquireNow State.flushTeam
      rw [hgroup]
      simp [hrecs, State.publishAll, flushWindows_of_no_windows hteam hwins]
    rw [State.acquireAll, ho]
    simp [ih]

end State

/-! ## A lane at its turn -/

/-- The entry once a lane is performed, with the value that it replaced (R208, R210). -/
def Entry.afterLane (e : Entry) (lane : Nat) (b : List Byte) : Entry :=
  { e with state := .inFlight, done := e.done ||| laneBit lane, res := e.res.set lane (BitVec.ofNat 128 (ofBytes b)) }

theorem Entry.settledMask_of_no_records {e : Entry} (h : e.lrec = []) : e.settledMask = e.done := by
  rw [Entry.settledMask, h]
  exact BitVec.or_zero

section
variable {s : State} {gid id lane : Nat} {g : Group} {t : Team} {e : Entry} {op : MemOp} {a : Act}

/-- A lane that is performed alone: no other lane of its cell is before it, it is translated, and nothing earlier of its group is still to write or be
written there (R75, R192, R208). -/
theorem performLane_of_ready {s1 s2 s3 : State} {g2 : Group} {b : List Byte} (h : s.Performs gid id g e op) (hatomic : op.kind.isAtomic = true)
    (hrecs : e.lrec = []) (hlane : (e.mask &&& ~~~e.done).getLsbD lane = true)
    (hfirst : ∀ l ∈ lanesOf (e.mask &&& ~~~e.done), l < lane → op.addr e l / op.size ≠ op.addr e lane / op.size)
    (hready : s.atomReady gid g e op a = (s1, true))
    (hahead : ¬(op.space = .glob ∧
      s1.writeAhead gid g (some e.seq) (op.addr e lane) op.size (s1.ownHpa g (.entry gid id) .both op.space (op.addr e lane)) = true))
    (hclear : s1.clearOwn gid (some e.seq) op.space (op.addr e lane) op.size (s1.ownHpa g (.entry gid id) .both op.space (op.addr e lane)) = (s2, true))
    (hgroup2 : s2.groups.get? gid = some g2)
    (hstep : s2.atomLane gid g2 (.entry gid id) op e ⟨lane, op.space, op.addr e lane, op.size⟩ = (s3, .bytes b)) :
    s.performLane gid id lane a =
      if e.mask &&& ~~~(e.afterLane lane b).done = 0 then (s3.setEntry gid (e.afterLane lane b)).endAtomic gid g2 (e.afterLane lane b) op a
      else s3.setEntry gid (e.afterLane lane b) := by
  obtain ⟨hgroup, -, hfind, hbook, hstate, hbad, hop, -, hid⟩ := h
  have howner : e.owner gid = .entry gid id := by rw [Entry.owner, hid]
  have hpending : e.mask &&& ~~~e.done ≠ 0 := fun hz => by simp [hz] at hlane
  have hsettled := Entry.settledMask_of_no_records hrecs
  have hsettled1 : (e.afterLane lane b).settledMask = (e.afterLane lane b).done := Entry.settledMask_of_no_records hrecs
  have halone : (lanesOf (e.mask &&& ~~~e.done)).filter (fun l => decide (l < lane) && op.addr e l / op.size == op.addr e lane / op.size) = [] :=
    List.filter_eq_nil_iff.2 fun l hl => by simpa using hfirst l hl
  have hworks : (e.book || e.state == .faulted || !op.kind.isAtomic) = false := by simp [hbook, hstate, hatomic]
  have hgood : ¬e.bad = true := by simp [hbad]
  have hahead' : (op.space == .glob &&
      s1.writeAhead gid g (some e.seq) (op.addr e lane) op.size (s1.ownHpa g (.entry gid id) .both op.space (op.addr e lane))) = false := by
    simpa [Bool.and_eq_false_iff] using hahead
  unfold Entry.afterLane at hsettled1 ⊢
  unfold State.performLane
  simp only [hgroup, hfind, hop, hsettled, hworks, if_neg hgood, if_neg hpending, hlane, halone, hready, howner, hahead', hclear, hgroup2, hstep,
    Bool.not_true, Bool.false_eq_true, if_false, List.isEmpty_nil, Bool.false_and, hsettled1]

/-- The event of an atomic's lane performs it (R208). -/
theorem exec_atomicPerform (h : s.Performs gid id g e op) :
    exec (.atomicPerform gid id lane) s = .next (s.performLane gid id lane (.atomicPerform gid id lane)) ∧
    exec (.xaccCellAdd gid id lane) s = .next (s.performLane gid id lane (.xaccCellAdd gid id lane)) := by
  obtain ⟨hgroup, hawake, -⟩ := h
  have hgoing : s.going g = true := (Bool.and_eq_true_iff.1 hawake).1
  constructor
  · change execAtomicPerform gid id lane s = _
    unfold execAtomicPerform wake
    simp only [hgroup, hgoing, if_true]
  · change execXaccCellAdd gid id lane s = _
    unfold execXaccCellAdd wake
    simp only [hgroup, hgoing, if_true]

/-! ## A lane in team memory -/

theorem MemOp.shape_of_atomic {i : Instr} (h : memOp i = some op) (hatomic : op.kind.isAtomic = true) : op.uni = false ∧ op.size ≠ 24 := by
  obtain ⟨-, huni, hsize⟩ := memOp_shape h
  refine ⟨Bool.eq_false_iff.2 fun hu => ?_, fun h24 => ?_⟩
  · rcases huni hu with hk | hk <;> simp [hk, MemKind.isAtomic] at hatomic
  · obtain ⟨w, hk | hk⟩ := hsize h24 <;> simp [hk, MemKind.isAtomic] at hatomic

/-- The lanes of an atomic in team memory may be performed (R75, R189). -/
theorem atomReady_of_inTeam (h : s.Performs gid id g e op) (hin : s.InTeam g t e op) : s.atomReady gid g e op a = (s.pump, true) := by
  obtain ⟨-, -, -, -, -, -, -, hwaits, hid⟩ := h
  obtain ⟨hspace, hteam, hwins, -, -⟩ := hin
  have howner : e.owner gid = .entry gid id := by rw [Entry.owner, hid]
  have hsp : ∀ q ∈ op.reqs { e with mask := e.mask &&& ~~~e.done }, q.sp = .team := fun q hq => (MemOp.space_of_mem_reqs hq).trans hspace
  have hlocal : ∀ q ∈ op.reqs { e with mask := e.mask &&& ~~~e.done }, q.sp ≠ .glob := fun q hq => by simp [hsp q hq]
  have hteam' : s.pump.teams.get? g.team = some t := s.teams_pump.symm ▸ hteam
  have hallowed : s.pump.writeRefused g t (.entry gid id) .both (op.reqs { e with mask := e.mask &&& ~~~e.done }) = [] := by
    refine List.filterMap_eq_nil_iff.2 fun q hq => ?_
    rw [Team.windowAt_of_no_windows hwins, hsp q hq, State.placeAt_team]
  have hplaced : s.pump.xaccMisplaced g (.entry gid id) .both (op.reqs { e with mask := e.mask &&& ~~~e.done }) = [] := by
    refine List.filterMap_eq_nil_iff.2 fun q hq => ?_
    rw [hsp q hq, State.placeAt_team]
  have hpages : (op.reqs { e with mask := e.mask &&& ~~~e.done }).flatMap (t.pagesOf .both) = [] :=
    List.flatMap_eq_nil_iff.2 fun q hq => Team.pagesOf_of_local hwins (hlocal q hq)
  unfold State.atomReady
  simp only [howner, State.ask_of_local hteam hwins hlocal, hteam', State.standing_of_no_waits (State.pump_no_waits hwaits), hallowed, hplaced, hpages]
  cases op.kind.isXacc <;> rfl

/-- What a lane writes in team memory, if it writes (R208). -/
def State.afterAtomic (s : State) (g : Group) (e : Entry) (op : MemOp) (lane : Nat) (old : List Byte) : State :=
  match op.newValue e lane (ofBytes old) with
  | some x => s.writeAt (.team g.team (op.addr e lane)) (toBytes x op.size)
  | none => s

/-- A lane's step in team memory: the old bytes, and its value written (R208). -/
theorem atomLane_of_inTeam (h : s.Performs gid id g e op) (hin : s.InTeam g t e op) (hatomic : op.kind.isAtomic = true)
    (hlane : (e.mask &&& ~~~e.done).getLsbD lane = true) :
    s.pump.atomLane gid g (.entry gid id) op e ⟨lane, op.space, op.addr e lane, op.size⟩ =
      (s.pump.afterAtomic g e op lane (t.mem.bytes (op.addr e lane) op.size), .bytes (t.mem.bytes (op.addr e lane) op.size)) := by
  obtain ⟨-, -, -, -, -, -, hop, -, -⟩ := h
  obtain ⟨hspace, hteam, -, -, hgood⟩ := hin
  have hteam' : s.pump.teams.get? g.team = some t := s.teams_pump.symm ▸ hteam
  have hmem : lane ∈ lanesOf e.mask := by
    have hlt : lane < 64 := BitVec.lt_of_getLsbD hlane
    rw [BitVec.getLsbD_and, Bool.and_eq_true_iff] at hlane
    exact mem_lanesOf.2 ⟨hlt, hlane.1⟩
  have hclean : badIn t.bad 4 (op.addr e lane) op.size = false := by
    have hreq : op.part e lane (0, op.size) ∈ op.reqs e := by
      rw [MemOp.reqs_of_one_part (MemOp.shape_of_atomic hop hatomic).1 (MemOp.shape_of_atomic hop hatomic).2]
      exact List.mem_map_of_mem hmem
    rw [← MemOp.part_a op e lane op.size]
    exact hgood _ hreq
  have hread : s.pump.readPlace (.team g.team (op.addr e lane)) op.size = .bytes (t.mem.bytes (op.addr e lane) op.size) := by
    simp [State.readPlace, State.poisoned, State.team?, hteam', hclean, State.bytesAt_team hteam']
  unfold State.atomLane State.afterAtomic
  simp only [hspace, State.placeAt_team, hread, State.obtainAt]
  cases op.newValue e lane (ofBytes (t.mem.bytes (op.addr e lane) op.size)) <;> rfl

/-- A lane's write changes the teams alone, and no team's windows. -/
theorem State.afterAtomic_exists (g : Group) (e : Entry) (op : MemOp) (lane : Nat) (old : List Byte) :
    ∃ f : Map Team → Map Team, (∀ m n t, Map.get? m n = some t → ∃ t', Map.get? (f m) n = some t' ∧ t'.wins = t.wins) ∧
      ∀ s : State, s.afterAtomic g e op lane old = { s with teams := f s.teams } := by
  unfold State.afterAtomic
  cases op.newValue e lane (ofBytes old) with
  | none => exact ⟨id, fun m n t h => ⟨t, h, rfl⟩, fun s => rfl⟩
  | some x =>
    refine ⟨fun m => m.modify g.team fun tm => { tm with
      mem := tm.mem.write (op.addr e lane) (toBytes x op.size), bad := clearBad tm.bad 4 (op.addr e lane) (toBytes x op.size).length },
      fun m n t h => ?_, fun s => rfl⟩
    rw [Map.get?_modify, h]
    split
    · exact ⟨_, rfl, rfl⟩
    · exact ⟨_, rfl, rfl⟩

/-- An atomic that is performed in every lane, with nothing left to acquire, lands and leaves the pipeline (R208, R191, R196). -/
theorem endAtomic_of_acquired (hgroup : s.groups.get? gid = some g) (hrecs : e.lrec = [])
    (hacquired : op.kind.acquires = false ∨ ∀ objs, s.acquireAll gid objs = (s, true)) (g0 : Group) :
    s.endAtomic gid g0 e op a = (s.dropWaits (e.owner gid)).setGroup gid (((g.landAtomic e op).landHelpers e op).retire e) := by
  have hdone : (if op.kind.acquires then s.acquireAll gid (s.objectsOf g0 (op.reqs { e with mask := e.mask ||| e.done })) else (s, true)) = (s, true) := by
    rcases hacquired with h | h
    · simp [h]
    · simp [h]
  unfold State.endAtomic
  simp only [hdone]
  simp only [hgroup, hrecs]
  rw [Map.modify_of_get? (m := ((s.setGroup gid (g.landAtomic e op)).dropWaits (e.owner gid)).groups) (Map.get?_set_self ..)]
  exact State.setGroup_setGroup (s.dropWaits (e.owner gid)) gid _ _

theorem State.setEntry_of_get? (hgroup : s.groups.get? gid = some g) (e : Entry) : s.setEntry gid e = s.setGroup gid (g.setEntry e) := by
  rw [State.setEntry, Map.modify_of_get? hgroup]
  rfl

/-- One lane of an atomic in team memory (R208). -/
theorem performLane_of_inTeam (h : s.Performs gid id g e op) (hin : s.InTeam g t e op) (hatomic : op.kind.isAtomic = true) (hrecs : e.lrec = [])
    (hlane : (e.mask &&& ~~~e.done).getLsbD lane = true)
    (hfirst : ∀ l ∈ lanesOf (e.mask &&& ~~~e.done), l < lane → op.addr e l / op.size ≠ op.addr e lane / op.size) :
    let old := t.mem.bytes (op.addr e lane) op.size
    let e1 := e.afterLane lane old
    let u := s.pump.afterAtomic g e op lane old
    s.performLane gid id lane a = if e.mask &&& ~~~e1.done = 0 then (u.setGroup gid (g.setEntry e1)).endAtomic gid g e1 op a
      else u.setGroup gid (g.setEntry e1) := by
  intro old e1 u
  have hspace := hin.1
  have hgroup : s.pump.groups.get? gid = some g := s.groups_pump.symm ▸ h.1
  have hstores : g.ownStores (some e.seq) op.space (op.addr e lane) op.size (s.pump.ownHpa g (.entry gid id) .both op.space (op.addr e lane)) = [] := by
    refine List.filter_eq_nil_iff.2 fun x hx => ?_
    have hne : x.space ≠ op.space := hspace ▸ hin.2.2.2.1 x hx
    simp [SbEntry.byteOf_of_space_ne hne]
  have hclear := State.clearOwn_of_no_stores hgroup (order := some e.seq) (by simp [Group.mayAlias, hspace]) hstores
  have hu : u.groups.get? gid = some g := by
    obtain ⟨f, -, hf⟩ := State.afterAtomic_exists g e op lane old
    simp only [u, hf]
    exact hgroup
  rw [performLane_of_ready h hatomic hrecs hlane hfirst (atomReady_of_inTeam h hin) (by simp [hspace]) hclear hgroup
    (atomLane_of_inTeam h hin hatomic hlane), State.setEntry_of_get? hu]

/-- The last lane of an atomic in team memory, with nothing to acquire (R208, R209). -/
theorem performLane_of_inTeam_last (h : s.Performs gid id g e op) (hin : s.InTeam g t e op) (hatomic : op.kind.isAtomic = true) (hrecs : e.lrec = [])
    (hlane : (e.mask &&& ~~~e.done).getLsbD lane = true)
    (hfirst : ∀ l ∈ lanesOf (e.mask &&& ~~~e.done), l < lane → op.addr e l / op.size ≠ op.addr e lane / op.size) {e1 : Entry}
    (he1 : e1 = e.afterLane lane (t.mem.bytes (op.addr e lane) op.size)) (hlast : e.mask &&& ~~~e1.done = 0)
    (hacquires : op.kind.acquires = false ∨ s.syncRecs = []) :
    s.performLane gid id lane a =
      ((s.pump.afterAtomic g e op lane (t.mem.bytes (op.addr e lane) op.size)).dropWaits (e1.owner gid)).setGroup gid
        ((((g.setEntry e1).landAtomic e1 op).landHelpers e1 op).retire e1) := by
  have hperform := performLane_of_inTeam (a := a) h hin hatomic hrecs hlane hfirst
  have hrecs1 : e1.lrec = [] := he1 ▸ hrecs
  simp only [← he1, if_pos hlast] at hperform
  obtain ⟨f, hwins, hf⟩ := State.afterAtomic_exists g e op lane (t.mem.bytes (op.addr e lane) op.size)
  have hteam : s.pump.teams.get? g.team = some t := s.teams_pump.symm ▸ hin.2.1
  obtain ⟨t', hteam', hwins'⟩ := hwins s.pump.teams g.team t hteam
  have hteams := (congrArg State.teams (hf s.pump) :)
  have hsync := (congrArg State.syncRecs (hf s.pump) :)
  generalize s.pump.afterAtomic g e op lane (t.mem.bytes (op.addr e lane) op.size) = u at hperform hteams hsync ⊢
  have hgroup : (u.setGroup gid (g.setEntry e1)).groups.get? gid = some (g.setEntry e1) := Map.get?_set_self ..
  have hacquired : op.kind.acquires = false ∨
      ∀ objs, (u.setGroup gid (g.setEntry e1)).acquireAll gid objs = (u.setGroup gid (g.setEntry e1), true) := by
    refine hacquires.imp_right fun hnone objs => ?_
    have hnone' : u.syncRecs = [] := (hsync.trans (congrArg State.syncRecs s.sameBut_pump :)).trans hnone
    exact State.acquireAll_of_no_records hgroup (hteams ▸ hteam') (hwins'.trans hin.2.2.1) hnone' objs
  rw [hperform, endAtomic_of_acquired hgroup hrecs1 hacquired g]
  exact State.setGroup_setGroup (u.dropWaits (e1.owner gid)) gid (g.setEntry e1) _

/-- What an atomic's event does in team memory, to its last lane and before (R208, R209). -/
theorem exec_lane_inTeam (h : s.Performs gid id g e op) (hin : s.InTeam g t e op) (hatomic : op.kind.isAtomic = true) (hrecs : e.lrec = [])
    (hlane : (e.mask &&& ~~~e.done).getLsbD lane = true)
    (hfirst : ∀ l ∈ lanesOf (e.mask &&& ~~~e.done), l < lane → op.addr e l / op.size ≠ op.addr e lane / op.size) {i : Instr}
    (hi : exec i s = .next (s.performLane gid id lane a)) {e1 : Entry} (he1 : e1 = e.afterLane lane (t.mem.bytes (op.addr e lane) op.size)) :
    (e.mask &&& ~~~e1.done ≠ 0 → ∃ s', exec i s = .next s' ∧
      ((s.afterAtomic g e op lane (t.mem.bytes (op.addr e lane) op.size)).setGroup gid (g.setEntry e1)).sameBut s') ∧
    (e.mask &&& ~~~e1.done = 0 → op.kind.acquires = false ∨ s.syncRecs = [] → ∃ s', exec i s = .next s' ∧
      ((s.afterAtomic g e op lane (t.mem.bytes (op.addr e lane) op.size)).setGroup gid
        ((((g.setEntry e1).landAtomic e1 op).landHelpers e1 op).retire e1)).sameBut s') := by
  have hsame : (s.afterAtomic g e op lane (t.mem.bytes (op.addr e lane) op.size)).sameBut
      (s.pump.afterAtomic g e op lane (t.mem.bytes (op.addr e lane) op.size)) := by
    obtain ⟨f, -, hf⟩ := State.afterAtomic_exists g e op lane (t.mem.bytes (op.addr e lane) op.size)
    obtain ⟨_, _, _, _, _, hp⟩ := s.sameBut_pump.exists
    simp only [hf, hp]
  refine ⟨fun hmore => ?_, fun hlast hacquires => ?_⟩
  · have hperform := performLane_of_inTeam (a := a) h hin hatomic hrecs hlane hfirst
    simp only [← he1, if_neg hmore] at hperform
    exact ⟨_, hi.trans (congrArg _ hperform), hsame.setGroup gid _⟩
  · exact ⟨_, hi.trans (congrArg _ (performLane_of_inTeam_last h hin hatomic hrecs hlane hfirst he1 hlast hacquires)),
      (hsame.trans (State.sameBut_dropWaits _ _)).setGroup gid _⟩

end

end Sys2Proof.Machine
end

section
/-! PROOFS. One store-buffer entry performed (R347, R78), and what the events of memory instructions do (R191 to R195, R207, R208). -/

namespace Sys2Proof.Machine

/-! ## The bytes of a line entry -/

/-- Listed bytes put at their places from a base. -/
def Memory.putAll (base : Nat) (d : Memory) (m : Memory) : Memory := d.foldl (fun m x => m.put (base + x.1) x.2) m

/-- The runs of a line are its bytes, one after another. -/
theorem foldl_write_runsOf (base : Nat) (d m : Memory) : (runsOf d).foldl (fun m r => m.write (base + r.1) r.2) m = Memory.putAll base d m := by
  induction d generalizing m with
  | nil => rfl
  | cons x r ih =>
    obtain ⟨a, b⟩ := x
    have hr := ih (m.put (base + a) b)
    rw [Memory.putAll, List.foldl_cons]
    rw [Memory.putAll] at hr
    rw [← hr, runsOf]
    cases hruns : runsOf r with
    | nil => rfl
    | cons y t =>
      obtain ⟨a', l⟩ := y
      simp only
      split
      · next hnext => subst hnext; rfl
      · rfl

/-- A run holds a byte, and each of its bytes is listed. -/
def RunOf (d : Memory) (r : Nat × List Byte) : Prop := r.2 ≠ [] ∧ ∀ k < r.2.length, ∃ x ∈ d, x.1 = r.1 + k

theorem RunOf.tail {d : Memory} {r : Nat × List Byte} (h : RunOf d r) (x : Nat × Byte) : RunOf (x :: d) r :=
  ⟨h.1, fun k hk => (h.2 k hk).imp fun _ hy => ⟨List.mem_cons_of_mem x hy.1, hy.2⟩⟩

theorem runOf_single (d : Memory) (a : Nat) (b : Byte) : RunOf ((a, b) :: d) (a, [b]) :=
  ⟨List.cons_ne_nil b [], fun k hk => ⟨(a, b), List.mem_cons_self, by simp at hk; simp [hk]⟩⟩

theorem RunOf.cons {d : Memory} {a : Nat} {l : List Byte} (h : RunOf d (a + 1, l)) (b : Byte) : RunOf ((a, b) :: d) (a, b :: l) := by
  refine ⟨List.cons_ne_nil b l, fun k hk => ?_⟩
  cases k with
  | zero => exact ⟨(a, b), List.mem_cons_self, rfl⟩
  | succ k =>
    obtain ⟨x, hx, he⟩ := h.2 k (Nat.lt_of_succ_lt_succ hk)
    exact ⟨x, List.mem_cons_of_mem _ hx, he.trans (by omega)⟩

theorem runOf_of_mem_runsOf (d : Memory) : ∀ r ∈ runsOf d, RunOf d r := by
  induction d with
  | nil => simp [runsOf]
  | cons x d ih =>
    obtain ⟨a, b⟩ := x
    intro r hr
    rw [runsOf] at hr
    cases hruns : runsOf d with
    | nil =>
      rw [hruns] at hr
      exact List.mem_singleton.1 hr ▸ runOf_single d a b
    | cons y t =>
      obtain ⟨a', l⟩ := y
      rw [hruns] at ih hr
      simp only at hr
      split at hr
      · next hnext =>
        subst hnext
        rcases List.mem_cons.1 hr with rfl | hr
        · exact (ih _ List.mem_cons_self).cons b
        · exact (ih r (List.mem_cons_of_mem _ hr)).tail _
      · rcases List.mem_cons.1 hr with rfl | hr
        · exact runOf_single d a b
        · exact (ih r hr).tail _

theorem Map.get?_of_above {α : Type} {m : Map α} {n : Nat} (h : Map.above n m) : m.get? n = none := by
  cases hg : m.get? n with
  | none => rfl
  | some v => exact absurd (h _ (Map.mem_of_get? hg)) (Nat.lt_irrefl n)

/-- What a memory holds after listed bytes are put. -/
theorem Memory.get_putAll (base : Nat) (d m : Memory) (hd : Map.sorted d = true) (hm : m.wf = true) (a : Nat) :
    (Memory.putAll base d m).get a = match (if base ≤ a then Map.get? d (a - base) else none) with
      | some b => b
      | none => m.get a := by
  induction d generalizing m with
  | nil => simp [Memory.putAll]
  | cons x r ih =>
    obtain ⟨k, b⟩ := x
    obtain ⟨habove, hr⟩ := (Map.sorted_cons k b r).1 hd
    have hput := ih (m.put (base + k) b) hr (Memory.wf_put m _ b hm)
    rw [Memory.putAll] at hput
    rw [Memory.putAll, List.foldl_cons, hput, Memory.get_put _ _ _ _ hm, Map.get?_cons]
    by_cases hk : base + k = a
    · subst hk
      simp [Map.get?_of_above habove]
    · by_cases ha : base ≤ a
      · rw [if_neg hk, if_pos ha, if_pos ha, if_neg (by omega)]
      · rw [if_neg hk, if_neg ha, if_neg ha]

/-! ## Runs of bytes written at a place -/

theorem State.writeRuns_layer (s : State) (d a : Nat) (rs : List (Nat × List Byte)) :
    ∃ bad, s.writeRuns (.layer d a) rs =
      { s with layer := rs.foldl (fun m r => m.write (layerKey d a + r.1) r.2) s.layer, layerBad := bad } := by
  induction rs generalizing s with
  | nil => exact ⟨s.layerBad, rfl⟩
  | cons r rs ih =>
    obtain ⟨bad, hbad⟩ := ih (s.writeAt (.layer d (a + r.1)) r.2)
    have hkey : layerKey d (a + r.1) = layerKey d a + r.1 := (Nat.add_assoc ..).symm
    refine ⟨bad, ?_⟩
    rw [State.writeRuns, Loc.add, hbad, State.writeAt, hkey, List.foldl_cons]

/-- A page in device bias has no line of the host's (R39). -/
theorem State.obtain_of_deviceBias {s : State} {a n : Nat} (hn : 0 < n) (h : ∀ k < n, (a + k) / 65536 ∉ s.hostBias) : s.obtain a n = s := by
  unfold State.obtain
  split
  · rfl
  · refine List.foldlRecOn _ _ (motive := fun u => u = s) rfl ?_
    rintro u rfl k hk
    have hlt := List.mem_range.1 hk
    have hpage : (a / 64 + k) / 1024 ∉ u.hostBias := by
      have hbyte := h (max a (64 * (a / 64 + k)) - a) (by omega)
      rwa [show (a + (max a (64 * (a / 64 + k)) - a)) / 65536 = (a / 64 + k) / 1024 by omega] at hbyte
    simp [State.obtainLine, hpage]

theorem State.writeRuns_dram (s : State) (d : Nat) (rs : List (Nat × List Byte))
    (h : ∀ r ∈ rs, r.2 ≠ [] ∧ ∀ k < r.2.length, (d + (r.1 + k)) / 65536 ∉ s.hostBias) :
    ∃ bad, s.writeRuns (.dram d) rs = { s with dram := rs.foldl (fun m r => m.write (d + r.1) r.2) s.dram, dramBad := bad } := by
  induction rs generalizing s with
  | nil => exact ⟨s.dramBad, rfl⟩
  | cons r rs ih =>
    obtain ⟨hne, hpages⟩ := h r List.mem_cons_self
    have hobtain : s.obtain (d + r.1) r.2.length = s :=
      State.obtain_of_deviceBias (List.length_pos_iff.2 hne) fun k hk => by rw [Nat.add_assoc]; exact hpages k hk
    have hwrite : s.writeAt (.dram (d + r.1)) r.2 =
        { s with dram := s.dram.write (d + r.1) r.2, dramBad := clearBad s.dramBad 32 (d + r.1) r.2.length } := by
      rw [State.writeAt]
      simp only [hobtain]
    obtain ⟨bad, hbad⟩ := ih (s.writeAt (.dram (d + r.1)) r.2) fun x hx => by
      rw [hwrite]
      exact h x (List.mem_cons_of_mem r hx)
    refine ⟨bad, ?_⟩
    rw [State.writeRuns, Loc.add, hbad, hwrite, List.foldl_cons]

/-! ## An entry leaves the store buffer -/

/-- The group once a store-buffer entry has left; STS falls with the last of its instruction (R196). -/
def Group.withoutStore (g : Group) (e : SbEntry) : Group :=
  let left := g.sbuf.filter fun x => !(x.id == e.id)
  if left.any (fun x => x.op == e.op) then { g with sbuf := left } else { g with sbuf := left, sts := g.sts - 1 }

theorem Group.withoutStore_entries (g : Group) (e : SbEntry) (es : List Entry) :
    ({ g with entries := es } : Group).withoutStore e = { g.withoutStore e with entries := es } := by
  unfold Group.withoutStore
  simp only
  split <;> rfl

section
variable {s : State} {gid k : Nat} {g : Group} {e : SbEntry}

theorem State.dropSb_of_get? (hgroup : s.groups.get? gid = some g) (e : SbEntry) :
    ∃ recs, s.dropSb gid e = ({ s with syncRecs := recs } : State).setGroup gid (g.withoutStore e) := by
  unfold State.dropSb
  rw [hgroup]
  exact ⟨_, rfl⟩

/-- The event of a store-buffer entry that nothing holds back performs it (R347). -/
theorem exec_storeBufferDrain (hgroup : s.groups.get? gid = some g) (hawake : s.awake g = true)
    (hfind : g.sbuf.find? (fun e => e.id == k) = some e) (hheld : s.storeHeld gid g e = false) {s1 : State} {l : Loc}
    (hplace : s.drainPlace gid g e = .place s1 l) (hserved : s1.access g.die l = .served) :
    exec (.storeBufferDrain gid k) s = .next ((s1.writeEntry gid e l).dropSb gid e) := by
  have hgoing : s.going g = true := (Bool.and_eq_true_iff.1 hawake).1
  have hdrain : s.drainOne gid e = ⟨(s1.writeEntry gid e l).dropSb gid e, true, none⟩ := by
    unfold State.drainOne
    simp only [hgroup, hheld, hplace, hserved, Bool.false_eq_true, if_false]
  change execStoreBufferDrain gid k s = _
  unfold execStoreBufferDrain wake
  simp only [hgroup, hgoing, if_true, hfind, hdrain, Drained.settle]

/-! ## Into layer memory (R86) -/

theorem drainPlace_layer (hbad : e.bad = false) (hspace : e.space = .layer) (hmapped : s.layerCheck (s.fnOf g) g.die e.line 256 = none) :
    s.drainPlace gid g e = .place s (.layer g.die e.line) := by
  simp [State.drainPlace, hbad, hspace, hmapped]

theorem exec_storeBufferDrain_layer (hgroup : s.groups.get? gid = some g) (hawake : s.awake g = true)
    (hfind : g.sbuf.find? (fun e => e.id == k) = some e) (hheld : s.storeHeld gid g e = false) (hbad : e.bad = false)
    (hsorted : Map.sorted e.data = true) (hwf : s.layer.wf = true) (hspace : e.space = .layer)
    (hmapped : s.layerCheck (s.fnOf g) g.die e.line 256 = none) :
    ∃ s', exec (.storeBufferDrain gid k) s = .next s' ∧ s'.groups = s.groups.set gid (g.withoutStore e) ∧ s'.dram = s.dram ∧ s'.host = s.host ∧
      s'.teams = s.teams ∧
      ∀ a, s'.layer.get a = match (if layerKey g.die e.line ≤ a then Map.get? e.data (a - layerKey g.die e.line) else none) with
        | some b => b
        | none => s.layer.get a := by
  have hexec := exec_storeBufferDrain hgroup hawake hfind hheld (drainPlace_layer hbad hspace hmapped) rfl
  obtain ⟨bad, hwrite⟩ := s.writeRuns_layer g.die e.line (runsOf e.data)
  rw [foldl_write_runsOf] at hwrite
  have hentry : s.writeEntry gid e (.layer g.die e.line) = s.writeRuns (.layer g.die e.line) (runsOf e.data) := by simp [State.writeEntry, hspace]
  have hgroup' : (s.writeEntry gid e (.layer g.die e.line)).groups.get? gid = some g := by
    rw [hentry, hwrite]
    exact hgroup
  obtain ⟨recs, hdrop⟩ := State.dropSb_of_get? hgroup' e
  rw [hdrop, hentry, hwrite] at hexec
  exact ⟨_, hexec, rfl, rfl, rfl, rfl, Memory.get_putAll _ e.data s.layer hsorted hwf⟩

/-! ## Into graphics DRAM in device bias (R32, R39, R78) -/

/-- The groups m are those of state s, but that the group g of number gid has entries which differ from its own in the bytes that they keep. -/
structure KeepsBytes (s : State) (gid : Nat) (g : Group) (m : Map Group) (es : List Entry) : Prop where
  group : m.get? gid = some { g with entries := es }
  entries : es.map (fun x => { x with seen := [] }) = g.entries.map (fun x => { x with seen := [] })
  others : ∀ h, m.set gid h = s.groups.set gid h

/-- The earlier reads of a group keep bytes: nothing else changes (R192). -/
theorem KeepsBytes.keepBytes {m : Map Group} {es : List Entry} (h : KeepsBytes s gid g m es) (order : Option Nat) (l : Loc) (a : Nat) (hpa : Option Nat)
    (b : List Byte) : ∃ m' es', ({ s with groups := m } : State).keepBytes gid order l a hpa b = { s with groups := m' } ∧ KeepsBytes s gid g m' es' := by
  have hget : ({ s with groups := m } : State).groups.get? gid = some { g with entries := es } := h.group
  unfold State.keepBytes
  rw [hget]
  cases order with
  | none => exact ⟨m, es, rfl, h⟩
  | some n =>
    simp only
    split
    · refine ⟨_, _, rfl, Map.get?_set_self .., ?_, fun x => ?_⟩
      · rw [← h.entries, List.map_map]
        refine List.map_congr_left fun x _ => ?_
        rw [Function.comp_apply]
        split <;> rfl
      · exact (Map.set_set ..).trans (h.others x)
    · exact ⟨m, es, rfl, h⟩

theorem exists_keepsBytes_foldl (hgroup : s.groups.get? gid = some g) (rs : List (Nat × List Byte)) (f : State → Nat × List Byte → State)
    (hf : ∀ u r, ∃ order l a hpa b, f u r = u.keepBytes gid order l a hpa b) :
    ∃ m es, rs.foldl f s = { s with groups := m } ∧ KeepsBytes s gid g m es := by
  refine List.foldlRecOn rs f (motive := fun u => ∃ m es, u = { s with groups := m } ∧ KeepsBytes s gid g m es)
    ⟨s.groups, g.entries, rfl, hgroup, rfl, fun _ => rfl⟩ ?_
  rintro _ ⟨m, es, rfl, hkeeps⟩ r -
  obtain ⟨order, l, a, hpa, b, hstep⟩ := hf { s with groups := m } r
  rw [hstep]
  exact hkeeps.keepBytes order l a hpa b

theorem drainPlace_dram {p d : Nat} (hbad : e.bad = false) (hspace : e.space = .glob) (hphys : e.phys = some p) (hroute : s.route p = some (.dram d)) :
    s.drainPlace gid g e = .place (s.dropWaits (.store gid e.id)) (.dram d) := by
  simp [State.drainPlace, hbad, hspace, hphys, hroute]

theorem exec_storeBufferDrain_dram {d p : Nat} (hgroup : s.groups.get? gid = some g) (hawake : s.awake g = true)
    (hfind : g.sbuf.find? (fun e => e.id == k) = some e) (hheld : s.storeHeld gid g e = false) (hbad : e.bad = false)
    (hsorted : Map.sorted e.data = true) (hwf : s.dram.wf = true) (hspace : e.space = .glob) (hphys : e.phys = some p)
    (hroute : s.route p = some (.dram d)) (hserved : s.access g.die (.dram d) = .served) (hbias : ∀ x ∈ e.data, (d + x.1) / 65536 ∉ s.hostBias) :
    ∃ (s' : State) (es : List Entry), exec (.storeBufferDrain gid k) s = .next s' ∧
      s'.groups = s.groups.set gid { g.withoutStore e with entries := es } ∧
      es.map (fun x => { x with seen := [] }) = g.entries.map (fun x => { x with seen := [] }) ∧ s'.layer = s.layer ∧ s'.host = s.host ∧
      s'.teams = s.teams ∧
      ∀ a, s'.dram.get a = match (if d ≤ a then Map.get? e.data (a - d) else none) with
        | some b => b
        | none => s.dram.get a := by
  let u := s.dropWaits (.store gid e.id)
  have hexec := exec_storeBufferDrain hgroup hawake hfind hheld (drainPlace_dram hbad hspace hphys hroute) hserved
  obtain ⟨m, es, hkept, hkeeps⟩ := exists_keepsBytes_foldl (s := u) hgroup (runsOf e.data) (fun s r =>
    s.keepBytes gid (some e.seq) ((Loc.dram d).add r.1) (e.line + r.1) (e.phys.map (· + r.1)) (s.bytesAt ((Loc.dram d).add r.1) r.2.length))
    fun u r => ⟨_, _, _, _, _, rfl⟩
  have hruns : ∀ r ∈ runsOf e.data, r.2 ≠ [] ∧ ∀ k < r.2.length, (d + (r.1 + k)) / 65536 ∉ s.hostBias := by
    intro r hr
    obtain ⟨hne, hlisted⟩ := runOf_of_mem_runsOf e.data r hr
    refine ⟨hne, fun k hk => ?_⟩
    obtain ⟨x, hx, he⟩ := hlisted k hk
    exact he ▸ hbias x hx
  obtain ⟨bad, hwrite⟩ := State.writeRuns_dram { u with groups := m } d (runsOf e.data) hruns
  rw [foldl_write_runsOf] at hwrite
  have hentry : u.writeEntry gid e (.dram d) = ({ u with groups := m } : State).writeRuns (.dram d) (runsOf e.data) := by
    unfold State.writeEntry
    rw [if_pos hspace, hkept]
  have hgroup' : (u.writeEntry gid e (.dram d)).groups.get? gid = some { g with entries := es } := by
    rw [hentry, hwrite]
    exact hkeeps.group
  obtain ⟨recs, hdrop⟩ := State.dropSb_of_get? hgroup' e
  rw [hdrop, hentry, hwrite] at hexec
  refine ⟨_, es, hexec, ?_, hkeeps.entries, rfl, rfl, rfl, Memory.get_putAll d e.data s.dram hsorted hwf⟩
  exact (hkeeps.others _).trans (congrArg _ (Group.withoutStore_entries g e es))

end

/-- Settles O30: each event by what it performs, in team memory, layer memory and graphics DRAM. -/
theorem memoryEvents : Obligations.MemoryEvents := by
  unfold Obligations.MemoryEvents
  refine ⟨?load, ?team, ?layer, ?lanes, fun g e op signed d x r hk hu hd => g.land_uniform e x r hk hu hd,
    fun g e op w x hk hu => g.land_reservoir e x hk hu, fun b _ => loadValue_signed b, fun b => rfl, ?atomic,
    fun g e op l n hn hd => g.readV_landHelpers e op l n hn hd, ?lane, atomValue_32, ?drain⟩
  case load =>
    intro s s1 gid id g e op l h hload hx hread hgroup
    rw [exec_loadLanding h hload, performLoad_of_readAll h hx hread hgroup]
  case team =>
    exact fun s gid id g t e op h hin => ⟨_, readAll_of_inTeam h hin .read, s.sameBut_pump.trans (State.sameBut_dropWaits ..)⟩
  case layer =>
    exact fun s gid id g t e op h hin => ⟨_, readAll_of_inLayer h hin .read, s.sameBut_pump.trans (State.sameBut_dropWaits ..)⟩
  case lanes => exact fun s gid id g t e op signed h hin hk hu hd => exec_loadLanding_team h hin hk hu hd
  case atomic =>
    intro s gid id lane g t e op h hin hatomic hrecs hlane hfirst old s1 e1 i hi
    obtain ⟨hperform, hadd⟩ := exec_atomicPerform (lane := lane) h
    rcases hi with rfl | rfl
    · exact exec_lane_inTeam h hin hatomic hrecs hlane hfirst hperform rfl
    · exact exec_lane_inTeam h hin hatomic hrecs hlane hfirst hadd rfl
  case lane =>
    intro s s1 s2 s3 gid id lane g g2 e op b i a hi h hatomic hrecs hlane hfirst hready hpa hahead hclear hgroup2 hstep e1 hmore
    obtain ⟨hperform, hadd⟩ := exec_atomicPerform (lane := lane) h
    have hdone := (performLane_of_ready h hatomic hrecs hlane hfirst hready hahead hclear hgroup2 hstep).trans (if_neg hmore)
    rcases hi with ⟨rfl, rfl⟩ | ⟨rfl, rfl⟩
    · exact hperform.trans (congrArg _ hdone)
    · exact hadd.trans (congrArg _ hdone)
  case drain =>
    intro s gid k g e hgroup hawake hfind hid hheld
    refine ⟨fun s1 l hplace hserved => exec_storeBufferDrain hgroup hawake hfind hheld hplace hserved, fun hbad hsorted => ⟨fun hwf hspace hmapped => ?_,
      fun d p hwf hspace hphys hroute hserved hbias => ?_⟩⟩
    · exact exec_storeBufferDrain_layer hgroup hawake hfind hheld hbad hsorted hwf hspace hmapped
    · exact exec_storeBufferDrain_dram hgroup hawake hfind hheld hbad hsorted hwf hspace hphys hroute hserved hbias

end Sys2Proof.Machine
end

section
/-! PROOFS. The integer arithmetic of the lane set, as operations on words (R227). -/

namespace Sys2Proof.Machine

/-! ## Forms whose operands are words -/

/-- A short form of two sources of w registers: it writes what its opcode gives of the two words (R170, R219). -/
theorem writesLanes_words2 {i : Instr} {d a b : Operand} {w : Nat} {ty : ImmTy} (op : LaneOp) (fn : BitVec (32 * w) → BitVec (32 * w) → LaneOut)
    (hfn : ∀ (x : LaneIn) (a b : BitVec (32 * w)), laneValue op .rne { x with a := a.toNat, b := b.toNat } = fn a b)
    (hb : usesB0 i = false := by rfl) (he : ∀ s, exec i s = laneOp i 4 (form2 d a b w w ty) (laneValue op .rne) s := by exact fun _ => rfl)
    (hw : w = 1 ∨ w = 2 := by decide) (hty : immRegs ty ≤ w := by decide) :
    WritesLanes i 4 (form2 d a b w w ty) (perLane (form2 d a b w w ty) fun x => fn (.ofNat _ x.a) (.ofNat _ x.b)) := by
  refine writesLanes_short2 hb (.inr (hw.imp_right .inl)) he hty fun x hxb hxa => ?_
  have hxa : x.a < 2 ^ (32 * w) := hxa.resolve_right (by omega)
  have hval := hfn x (.ofNat _ x.a) (.ofNat _ x.b)
  rw [BitVec.toNat_ofNat, BitVec.toNat_ofNat, Nat.mod_eq_of_lt hxa, Nat.mod_eq_of_lt hxb] at hval
  exact ⟨congrArg (·.val % _) hval, congrArg (·.flags) hval⟩

/-- A short form of one source of a word. -/
theorem writesLanes_word1 {i : Instr} {d b : Operand} {ty : ImmTy} (op : LaneOp) (fn : W32 → LaneOut)
    (hfn : ∀ (x : LaneIn) (b : W32), laneValue op .rne { x with b := b.toNat } = fn b)
    (hb : usesB0 i = false := by rfl) (he : ∀ s, exec i s = laneOp i 4 (form1 d b 1 1 ty) (laneValue op .rne) s := by exact fun _ => rfl)
    (hty : immRegs ty ≤ 1 := by decide) :
    WritesLanes i 4 (form1 d b 1 1 ty) (perLane (form1 d b 1 1 ty) fun x => fn (w32 x.b)) := by
  refine writesLanes_short1 hb (.inr (.inl rfl)) he hty fun x hxb => ?_
  have hval := hfn x (.ofNat _ x.b)
  rw [BitVec.toNat_ofNat, Nat.mod_eq_of_lt hxb] at hval
  exact ⟨congrArg (·.val % _) hval, congrArg (·.flags) hval⟩

/-- An extended form that raises no flag: only its value as a word of the destination's width matters. -/
theorem writesLanes_extWord {i : Instr} {x : LX} {sh : OpShape} (val : LaneIn → Nat) {fn : LaneIn → BitVec (32 * sh.dw)}
    (hfn : ∀ y : LaneIn, BitVec.ofNat (32 * sh.dw) (val y) = fn y) (hb : usesB0 i = false := by rfl)
    (he : ∀ s, exec i s = laneOp i 8 (lxForm x sh 0) (fun y => plain (val y)) s := by exact fun _ => rfl) (hw : sh.dw = 1 ∨ sh.dw = 2 := by decide) :
    WritesLanes i 8 (lxForm x sh 0) (perLane (lxForm x sh 0) fun y => result (fn y)) :=
  writesLanes_ext hb (.inr (hw.imp_right .inl)) he fun y =>
    ⟨by rw [result, ← hfn y, BitVec.toNat_ofNat, plain, lxForm, Nat.mod_mod], rfl⟩

theorem plain_eq_result {n v : Nat} {x : BitVec n} (h : v = x.toNat) : plain v = result x := congrArg (LaneOut.mk · 0) h

theorem ofNat_wrapInt (z : Int) (n : Nat) : BitVec.ofNat n (wrapInt z n) = BitVec.ofInt n z := by
  apply BitVec.eq_of_toNat_eq
  rw [BitVec.toNat_ofInt, BitVec.toNat_ofNat, Nat.mod_eq_of_lt (wrapInt_lt z n), wrapInt]

theorem wrapped_eq_result (z : Int) (n : Nat) : wrapped z n = result (BitVec.ofInt n z) := plain_eq_result (BitVec.toNat_ofInt z).symm

/-! ## Integer arithmetic (R227) -/

section
variable {n : Nat} (a b : BitVec n)

theorem plain_add : plain ((a.toNat + b.toNat) % 2 ^ n) = result (a + b) := plain_eq_result (BitVec.toNat_add ..).symm

theorem plain_mul : plain (a.toNat * b.toNat % 2 ^ n) = result (a * b) := plain_eq_result (BitVec.toNat_mul ..).symm

theorem wrapped_sub : wrapped ((a.toNat : Int) - b.toNat) n = result (a - b) := by
  rw [wrapped_eq_result, Int.sub_eq_add_neg, BitVec.ofInt_add, BitVec.ofInt_neg, BitVec.ofInt_natCast, BitVec.ofInt_natCast, BitVec.ofNat_toNat,
    BitVec.ofNat_toNat, BitVec.setWidth_eq, BitVec.setWidth_eq, ← BitVec.sub_eq_add_neg]

theorem wrapped_neg : wrapped (-toSigned a.toNat n) n = result (-a) := by
  rw [toSigned_toNat, wrapped_eq_result, BitVec.ofInt_neg, BitVec.ofInt_toInt]

/-- A choice by the signed order of two words. -/
theorem plain_ite_signed (p q : BitVec n) :
    plain (if toSigned a.toNat n < toSigned b.toNat n then p.toNat else q.toNat) = result (if a.slt b then p else q) := by
  simp only [toSigned_toNat, ← BitVec.slt_iff_toInt_lt]
  exact plain_eq_result (apply_ite BitVec.toNat ..).symm

theorem plain_min : plain (min a.toNat b.toNat) = result (if a < b then a else b) :=
  plain_eq_result (by simp only [apply_ite BitVec.toNat, BitVec.lt_def]; split <;> omega)

theorem plain_max : plain (max a.toNat b.toNat) = result (if a < b then b else a) :=
  plain_eq_result (by simp only [apply_ite BitVec.toNat, BitVec.lt_def]; split <;> omega)

end

theorem wrapped_mulhi (a b : W32) : wrapped (toSigned a.toNat 32 * toSigned b.toNat 32 / 2 ^ 32) 32 =
    result ((a.signExtend 64 * b.signExtend 64).extractLsb' 32 32) := by
  have hprod : a.signExtend 64 * b.signExtend 64 = BitVec.ofInt 64 (a.toInt * b.toInt) := (BitVec.ofInt_mul ..).symm
  rw [toSigned_toNat, toSigned_toNat, hprod]
  refine plain_eq_result ?_
  rw [BitVec.extractLsb'_toNat, BitVec.toNat_ofInt, wrapInt, Nat.shiftRight_eq_div_pow]
  omega

theorem plain_mulhi (a b : W32) : plain (a.toNat * b.toNat / 2 ^ 32) = result ((a.setWidth 64 * b.setWidth 64).extractLsb' 32 32) := by
  have hlt : a.toNat * b.toNat < 2 ^ 32 * 2 ^ 32 := Nat.mul_lt_mul'' a.isLt b.isLt
  refine plain_eq_result ?_
  rw [BitVec.extractLsb'_toNat, BitVec.toNat_mul, BitVec.toNat_setWidth_of_le (by decide), BitVec.toNat_setWidth_of_le (by decide),
    Nat.shiftRight_eq_div_pow]
  omega

/-- The saturation of R150 is that of the model. -/
theorem of_satS32 (z : Int) : LaneOut.of (satS32 z) = saturated32 z := by
  simp only [satS32, saturated32, wrapInt, ← BitVec.toNat_ofInt]
  split
  · rfl
  · split <;> rfl

theorem of_satS32_toNat (op : Int → Int → Int) (a b : W32) :
    LaneOut.of (satS32 (op (toSigned a.toNat 32) (toSigned b.toNat 32))) = saturated32 (op a.toInt b.toInt) := by
  rw [toSigned_toNat, toSigned_toNat, of_satS32]

theorem plain_natAbs (b : W32) : plain ((toSigned b.toNat 32).natAbs % 2 ^ 32) = result (BitVec.ofNat 32 b.toInt.natAbs) := by
  rw [toSigned_toNat, ← BitVec.toNat_ofNat]; rfl

theorem ofNat_mul_add (n a b c : Nat) : BitVec.ofNat n (a * b + c) = BitVec.ofNat n a * BitVec.ofNat n b + BitVec.ofNat n c := by
  rw [BitVec.ofNat_add, BitVec.ofNat_mul]

theorem ofNat_mod_pow (n v : Nat) : BitVec.ofNat n (v % 2 ^ n) = BitVec.ofNat n v := BitVec.eq_of_toNat_eq (by simp)

theorem ofInt_signed_mul_add (a b c : Nat) : BitVec.ofInt 64 (toSigned a 32 * toSigned b 32 + c) =
    (w32 a).signExtend 64 * (w32 b).signExtend 64 + w64 c := by
  rw [BitVec.ofInt_add, BitVec.ofInt_mul, toSigned_eq32, toSigned_eq32, BitVec.ofInt_natCast]
  rfl

/-- A field of a 32-bit word, as its bits are read. -/
theorem bits_eq_extractLsb' (x k n : Nat) (h : k + n < 32) : bits x (k + n) k = ((w32 x).extractLsb' k (n + 1)).toNat := by
  apply Nat.eq_of_testBit_eq
  intro j
  rw [← BitVec.getLsbD, BitVec.getLsbD_extractLsb', w32, BitVec.getLsbD_ofNat, bits, show k + n + 1 - k = n + 1 by omega, Nat.testBit_mod_two_pow,
    Nat.testBit_shiftRight]
  by_cases hj : j < n + 1
  · simp [hj, show k + j < 32 by omega]
  · simp [hj]

theorem ofInt_signedByte (x k : Nat) (h : k + 7 < 32) :
    BitVec.ofInt 32 (toSigned (bits x (k + 7) k) 8) = ((w32 x).extractLsb' k 8).signExtend 32 := by
  rw [toSigned_eq_toInt, bits_eq_extractLsb' x k 7 h, BitVec.ofNat_toNat, BitVec.setWidth_eq]
  rfl

/-- dot4's sum, taken modulo 2^32 term by term. -/
theorem ofInt_dot4 (a b c : Nat) : BitVec.ofInt 32 (dot4 a b c) = w32 c +
      ((w32 a).extractLsb' 0 8).signExtend 32 * ((w32 b).extractLsb' 0 8).signExtend 32 +
      ((w32 a).extractLsb' 8 8).signExtend 32 * ((w32 b).extractLsb' 8 8).signExtend 32 +
      ((w32 a).extractLsb' 16 8).signExtend 32 * ((w32 b).extractLsb' 16 8).signExtend 32 +
      ((w32 a).extractLsb' 24 8).signExtend 32 * ((w32 b).extractLsb' 24 8).signExtend 32 := by
  have hterm : ∀ k, k + 7 < 32 → BitVec.ofInt 32 (toSigned (bits a (k + 7) k) 8 * toSigned (bits b (k + 7) k) 8) =
      ((w32 a).extractLsb' k 8).signExtend 32 * ((w32 b).extractLsb' k 8).signExtend 32 := fun k hk => by
    rw [BitVec.ofInt_mul, ofInt_signedByte a k hk, ofInt_signedByte b k hk]
  rw [← hterm 0 (by decide), ← hterm 8 (by decide), ← hterm 16 (by decide), ← hterm 24 (by decide), w32, ← BitVec.ofInt_natCast]
  simp only [← BitVec.ofInt_add]
  rfl

/-- Settles O1: each clause is the form's lemma with what its opcode gives of the operands' words. -/
theorem integerArithmetic : Obligations.IntegerArithmetic := by
  unfold Obligations.IntegerArithmetic
  refine ⟨?iadd, ?isub, ?imul, ?imulhi, ?imulhiN, ?imin, ?imax, ?iminN, ?imaxN, ?iadd64, ?isub64, ?qadd, ?qsub, ?iabs, ?ineg, ?imad, ?imad64, ?dot4⟩
  case iadd => exact fun d a b => writesLanes_words2 .iaddS32 (fun a b => result (a + b)) fun _ => plain_add
  case isub => exact fun d a b => writesLanes_words2 .isubS32 (fun a b => result (a - b)) fun _ => wrapped_sub
  case imul => exact fun d a b => writesLanes_words2 .imulS32 (fun a b => result (a * b)) fun _ => plain_mul
  case imulhi =>
    exact fun d a b => writesLanes_words2 .imulhiS32 (fun a b => result ((a.signExtend 64 * b.signExtend 64).extractLsb' 32 32)) fun _ => wrapped_mulhi
  case imulhiN =>
    exact fun d a b => writesLanes_words2 .imulhiN32 (fun a b => result ((a.setWidth 64 * b.setWidth 64).extractLsb' 32 32)) fun _ => plain_mulhi
  case imin => exact fun d a b => writesLanes_words2 .iminS32 (fun a b => result (if a.slt b then a else b)) fun _ a b => plain_ite_signed a b a b
  case imax => exact fun d a b => writesLanes_words2 .imaxS32 (fun a b => result (if a.slt b then b else a)) fun _ a b => plain_ite_signed a b b a
  case iminN => exact fun d a b => writesLanes_words2 .iminN32 (fun a b => result (if a < b then a else b)) fun _ => plain_min
  case imaxN => exact fun d a b => writesLanes_words2 .imaxN32 (fun a b => result (if a < b then b else a)) fun _ => plain_max
  case iadd64 => exact fun d a b => writesLanes_words2 .iaddS64 (fun a b => result (a + b)) fun _ => plain_add
  case isub64 => exact fun d a b => writesLanes_words2 .isubS64 (fun a b => result (a - b)) fun _ => wrapped_sub
  case qadd => exact fun d a b => writesLanes_words2 .qaddS32 (fun a b => saturated32 (a.toInt + b.toInt)) fun _ => of_satS32_toNat (· + ·)
  case qsub => exact fun d a b => writesLanes_words2 .qsubS32 (fun a b => saturated32 (a.toInt - b.toInt)) fun _ => of_satS32_toNat (· - ·)
  case iabs => exact fun d b => writesLanes_word1 .iabsS32 _ fun _ => plain_natAbs
  case ineg => exact fun d b => writesLanes_word1 .inegS32 (fun b => result (-b)) fun _ => wrapped_neg
  case imad =>
    exact fun x => writesLanes_extWord (fun y => (y.a * y.b + y.c) % 2 ^ 32) fun y => (ofNat_mod_pow 32 _).trans (ofNat_mul_add 32 y.a y.b y.c)
  case imad64 =>
    exact fun x => writesLanes_extWord (fun y => wrapInt (toSigned y.a 32 * toSigned y.b 32 + y.c) 64) fun y =>
      (ofNat_wrapInt _ 64).trans (ofInt_signed_mul_add y.a y.b y.c)
  case dot4 =>
    exact fun x => writesLanes_extWord (fun y => wrapInt (dot4 y.a y.b y.c) 32) fun y => (ofNat_wrapInt _ 32).trans (ofInt_dot4 y.a y.b y.c)

end Sys2Proof.Machine
end

section
/-! PROOFS. The bit instructions of the lane set (R228, R229, R231). -/

namespace Sys2Proof.Machine

/-! ## Logic and shifts (R228) -/

section
variable (a b : W32)

theorem plain_and : plain (a.toNat &&& b.toNat) = result (a &&& b) := plain_eq_result (BitVec.toNat_and ..).symm

theorem plain_or : plain (a.toNat ||| b.toNat) = result (a ||| b) := plain_eq_result (BitVec.toNat_or ..).symm

theorem plain_xor : plain (a.toNat ^^^ b.toNat) = result (a ^^^ b) := plain_eq_result (BitVec.toNat_xor ..).symm

theorem plain_not : plain (2 ^ 32 - 1 - b.toNat) = result (~~~b) := plain_eq_result BitVec.toNat_not.symm

theorem plain_shl : plain (if b.toNat ≥ 32 then 0 else a.toNat <<< b.toNat % 2 ^ 32) = result (if 32 ≤ b.toNat then 0 else a <<< b.toNat) :=
  plain_eq_result (by rw [apply_ite BitVec.toNat, BitVec.toNat_shiftLeft]; rfl)

theorem plain_shr : plain (if b.toNat ≥ 32 then 0 else a.toNat >>> b.toNat) = result (if 32 ≤ b.toNat then 0 else a >>> b.toNat) :=
  plain_eq_result (by rw [apply_ite BitVec.toNat, BitVec.toNat_ushiftRight]; rfl)

/-- An arithmetic shift by 32 or more leaves copies of the sign. -/
theorem sshiftRight_of_le {n k : Nat} (a : BitVec n) (h : n ≤ k) : a.sshiftRight k = if a.msb then BitVec.allOnes n else 0 := by
  apply BitVec.eq_of_getLsbD_eq
  intro j hj
  rw [BitVec.getLsbD_sshiftRight]
  cases a.msb <;> simp [hj, show ¬k + j < n by omega]

theorem wrapped_sshr : wrapped (toSigned a.toNat 32 >>> min b.toNat 32) 32 =
    result (if 32 ≤ b.toNat then (if a.msb then BitVec.allOnes 32 else 0) else a.sshiftRight b.toNat) := by
  rw [toSigned_toNat, ← BitVec.toInt_sshiftRight, wrapped_eq_result, BitVec.ofInt_toInt]
  split
  · next h => rw [Nat.min_eq_right h, sshiftRight_of_le a le_rfl]
  · next h => rw [Nat.min_eq_left (by omega)]

theorem plain_rot : plain ((a.toNat <<< (b.toNat % 32) ||| a.toNat >>> (32 - b.toNat % 32)) % 2 ^ 32) = result (a.rotateLeft (b.toNat % 32)) := by
  have hlt : a.toNat >>> (32 - b.toNat % 32) < 2 ^ 32 := Nat.lt_of_le_of_lt (Nat.shiftRight_le ..) a.isLt
  refine plain_eq_result ?_
  rw [BitVec.toNat_rotateLeft, Nat.mod_mod, Nat.or_mod_two_pow, Nat.mod_eq_of_lt hlt]

/-! ## Counts and the reversal (R228) -/

theorem popcount_eq_countP (x n : Nat) : popcount x n = (List.range n).countP fun k => x.testBit k := by
  induction n with
  | zero => rfl
  | succ n ih => rw [popcount, ih, List.range_succ, List.countP_append, List.countP_singleton, bit_eq_testBit, Nat.add_comm]

theorem plain_popc : plain (popcount b.toNat 32) = result (BitVec.ofNat 32 ((List.range 32).countP fun k => b.getLsbD k)) := by
  have hle : (List.range 32).countP (fun k => b.getLsbD k) ≤ (List.range 32).length := List.countP_le_length
  refine plain_eq_result ?_
  rw [BitVec.toNat_ofNat, Nat.mod_eq_of_lt (Nat.lt_of_le_of_lt hle (by decide)), popcount_eq_countP]
  rfl

/-- The leading zeros of the bits up to n, counted from bit n down. -/
theorem leadingZeros_eq_clzAuxRec (n : Nat) (h : n < 32) : leadingZeros b.toNat (n + 1) + (31 - n) = (b.clzAuxRec n).toNat := by
  induction n with
  | zero =>
    rw [BitVec.clzAuxRec_zero, leadingZeros, bit_eq_testBit, ← BitVec.getLsbD]
    split <;> rfl
  | succ n ih =>
    rw [BitVec.clzAuxRec_succ, leadingZeros, bit_eq_testBit, ← BitVec.getLsbD, apply_ite BitVec.toNat, ← ih (by omega), BitVec.toNat_ofNat]
    split <;> omega

theorem plain_clz : plain (leadingZeros b.toNat 32) = result b.clz := plain_eq_result (leadingZeros_eq_clzAuxRec b 31 (by decide))

theorem reversed_lt (x n : Nat) : reversed x n < 2 ^ n := by
  induction n generalizing x with
  | zero => exact Nat.one_pos
  | succ n ih =>
    have := ih (x / 2)
    rw [reversed, Nat.pow_succ]
    split <;> omega

theorem testBit_reversed (x n k : Nat) : (reversed x n).testBit k = (decide (k < n) && x.testBit (n - 1 - k)) := by
  induction n generalizing x with
  | zero => simp [reversed]
  | succ n ih =>
    have hlead : reversed x (n + 1) = 2 ^ n * (bit x 0).toNat + reversed (x / 2) n := by
      rw [reversed]
      cases bit x 0 <;> simp
    rw [hlead, Nat.testBit_two_pow_mul_add _ (reversed_lt _ n), bit_eq_testBit, ih, ← Nat.testBit_succ, Nat.testBit_bool_toNat]
    rcases Nat.lt_trichotomy k n with hk | rfl | hk
    · simp [hk, Nat.lt_succ_of_lt hk, show n - 1 - k + 1 = n - k by omega]
    · simp
    · simp [show ¬k < n by omega, show ¬k < n + 1 by omega, show ¬k - n = 0 by omega]

theorem plain_brev : plain (reversed b.toNat 32) = result b.reverse := by
  refine plain_eq_result (Nat.eq_of_testBit_eq fun k => ?_)
  rw [testBit_reversed, ← BitVec.getLsbD, ← BitVec.getLsbD, BitVec.getLsbD_reverse]
  rfl

end

/-! ## bool3 (R229) -/

theorem ofBits_concat (l : List Bool) (b : Bool) : ofBits (l ++ [b]) = ofBits l + 2 ^ l.length * b.toNat := by
  induction l with
  | nil => simp [ofBits]
  | cons c l ih => rw [List.cons_append, ofBits, ih, ofBits, List.length_cons, Nat.pow_succ]; ring

/-- A sum of the powers of two whose bits are set. -/
theorem foldl_bits_eq_ofBits (f : Nat → Bool) (n : Nat) :
    (List.range n).foldl (fun t k => t + if f k then 2 ^ k else 0) 0 = ofBits ((List.range n).map f) := by
  induction n with
  | zero => rfl
  | succ n ih =>
    rw [List.range_succ, List.foldl_concat, ih, List.map_append, List.map_singleton, ofBits_concat, List.length_map, List.length_range]
    cases f n <;> simp

theorem getLsbD_w32 (x k : Nat) : (w32 x).getLsbD k = (decide (k < 32) && x.testBit k) := BitVec.getLsbD_ofNat ..

theorem foldl_bool3Bit (tab : Byte) (a b c : Nat) : (List.range 32).foldl (fun t k => t + bool3Bit tab.toNat a b c k) 0 =
    ofBits ((List.range 32).map fun k =>
      tab.getLsbD (4 * ((w32 c).getLsbD k).toNat + 2 * ((w32 b).getLsbD k).toNat + ((w32 a).getLsbD k).toNat)) := by
  refine (foldl_bits_eq_ofBits _ 32).trans (congrArg ofBits (List.map_congr_left fun k hk => ?_))
  simp only [bit_eq_testBit, getLsbD_w32, List.mem_range.1 hk, decide_true, Bool.true_and]
  rfl

/-! ## Fields (R231) -/

theorem fieldLen_eq (b : Nat) : fieldLen b = fieldBits (w32 b) := by
  rw [fieldLen, fieldBits, bits_eq_extractLsb' b 0 7 (by decide), bits_eq_extractLsb' b 8 7 (by decide)]

/-- A field ends within its word. -/
theorem lt_of_lt_fieldBits {b : W32} {k : Nat} (h : k < fieldBits b) : (b.extractLsb' 0 8).toNat + k < 32 := by
  rw [fieldBits] at h
  split at h <;> omega

theorem getLsbD_lowOnes (n k : Nat) : (lowOnes n).getLsbD k = (decide (k < 32) && decide (k < n)) := by
  rw [lowOnes, BitVec.getLsbD_ofNat, Nat.testBit_two_pow_sub_one]

theorem w32_extract (a b : Nat) : w32 (if fieldLen b = 0 then 0 else (a >>> bits b 7 0) % 2 ^ fieldLen b) =
    (w32 a >>> ((w32 b).extractLsb' 0 8).toNat) &&& lowOnes (fieldBits (w32 b)) := by
  have hzero : (if fieldLen b = 0 then 0 else (a >>> bits b 7 0) % 2 ^ fieldLen b) = (a >>> bits b 7 0) % 2 ^ fieldLen b := by
    split
    · next h => rw [h, Nat.pow_zero, Nat.mod_one]
    · rfl
  rw [hzero, fieldLen_eq, bits_eq_extractLsb' b 0 7 (by decide)]
  apply BitVec.eq_of_getLsbD_eq
  intro k hk
  rw [getLsbD_w32, Nat.testBit_mod_two_pow, Nat.testBit_shiftRight, BitVec.getLsbD_and, BitVec.getLsbD_ushiftRight, getLsbD_w32, getLsbD_lowOnes]
  by_cases hfield : k < fieldBits (w32 b)
  · simp only [hk, hfield, lt_of_lt_fieldBits hfield, decide_true, Bool.true_and, Bool.and_true]
  · simp only [hfield, decide_false, Bool.false_and, Bool.and_false]

/-- A field of n bits from bit p on, replaced. -/
theorem testBit_insert (a c p n k : Nat) : (c - 2 ^ p * ((c >>> p) % 2 ^ n) + 2 ^ p * (a % 2 ^ n)).testBit k =
    if p ≤ k ∧ k < p + n then a.testBit (k - p) else c.testBit k := by
  have hsplit : c - 2 ^ p * ((c >>> p) % 2 ^ n) + 2 ^ p * (a % 2 ^ n) = 2 ^ p * (2 ^ n * (c >>> p / 2 ^ n) + a % 2 ^ n) + c % 2 ^ p := by
    have hc := Nat.div_add_mod c (2 ^ p)
    have hq := Nat.div_add_mod (c >>> p) (2 ^ n)
    rw [← Nat.shiftRight_eq_div_pow] at hc
    have hmul := congrArg (2 ^ p * ·) hq
    simp only [Nat.mul_add] at hmul ⊢
    omega
  rw [hsplit, Nat.testBit_two_pow_mul_add _ (Nat.mod_lt _ (Nat.two_pow_pos p)), Nat.testBit_two_pow_mul_add _ (Nat.mod_lt _ (Nat.two_pow_pos n)),
    Nat.testBit_mod_two_pow, Nat.testBit_mod_two_pow, Nat.testBit_div_two_pow, Nat.testBit_shiftRight]
  by_cases hlow : k < p
  · simp [hlow, show ¬p ≤ k by omega]
  · by_cases hmid : k < p + n
    · simp [hlow, hmid, show p ≤ k by omega, show k - p < n by omega]
    · simp [hlow, hmid, show ¬k - p < n by omega, show p + (k - p - n + n) = k by omega]

theorem w32_bitInsert (a b c : Nat) : w32 (bitInsert a b c) =
    (w32 c &&& ~~~(lowOnes (fieldBits (w32 b)) <<< ((w32 b).extractLsb' 0 8).toNat)) |||
      ((w32 a &&& lowOnes (fieldBits (w32 b))) <<< ((w32 b).extractLsb' 0 8).toNat) := by
  rw [bitInsert, fieldLen_eq, bits_eq_extractLsb' b 0 7 (by decide)]
  generalize fieldBits (w32 b) = n
  generalize ((w32 b).extractLsb' 0 (7 + 1)).toNat = p
  apply BitVec.eq_of_getLsbD_eq
  intro k hk
  have hinsert : (if n = 0 then c else c - 2 ^ p * bits c (p + n - 1) p + 2 ^ p * (a % 2 ^ n)).testBit k =
      if p ≤ k ∧ k < p + n then a.testBit (k - p) else c.testBit k := by
    split
    · next hn => rw [if_neg (by omega)]
    · next hn => rw [bits, show p + n - 1 + 1 - p = n by omega, testBit_insert]
  simp only [getLsbD_w32, hinsert, BitVec.getLsbD_or, BitVec.getLsbD_and, BitVec.getLsbD_not, BitVec.getLsbD_shiftLeft, getLsbD_lowOnes, hk, decide_true,
    Bool.true_and]
  by_cases hin : p ≤ k ∧ k < p + n
  · simp [hin, show ¬k < p by omega, show k - p < 32 by omega, show k - p < n by omega]
  · by_cases hlow : k < p
    · simp [hin, hlow]
    · simp [hin, hlow, show ¬k - p < n by omega]

theorem not_wellFormed_bool3_imm {x : LX} {v : BitVec 16} (h : x.b = .imm v) : ¬(Instr.bool3B32 x).WellFormed := by
  simp [Instr.WellFormed, Instr.wf, h]

theorem not_wellFormed_bfe_c {x : LX} (h : x.c ≠ .reg 0) : ¬(Instr.bfeB32 x).WellFormed := by
  have hc : x.c.okC 0 = false := beq_false_of_ne h
  simp only [Instr.WellFormed, Instr.wf, LX.ok, hc, Bool.and_false, Bool.false_and, Bool.false_eq_true, not_false_eq_true]

/-- Settles O2: each clause is the form's lemma with what its opcode gives of the operands' words; the reserved forms fail their static checks. -/
theorem bitInstructions : Obligations.BitInstructions := by
  unfold Obligations.BitInstructions
  refine ⟨?and, ?or, ?xor, ?not, ?shl, ?shr, ?sshr, ?rot, ?popc, ?clz, ?brev, ?bool3, ?bfe, ?bfi, fun _ _ => not_wellFormed_bool3_imm,
    fun _ => not_wellFormed_bfe_c⟩
  case and => exact fun d a b => writesLanes_words2 .andB32 (fun a b => result (a &&& b)) fun _ => plain_and
  case or => exact fun d a b => writesLanes_words2 .orB32 (fun a b => result (a ||| b)) fun _ => plain_or
  case xor => exact fun d a b => writesLanes_words2 .xorB32 (fun a b => result (a ^^^ b)) fun _ => plain_xor
  case not => exact fun d b => writesLanes_word1 .notB32 (fun b => result (~~~b)) fun _ => plain_not
  case shl =>
    exact fun d a b => writesLanes_words2 .shlB32 (fun a b => result (if 32 ≤ b.toNat then 0 else a <<< b.toNat)) fun _ => plain_shl
  case shr =>
    exact fun d a b => writesLanes_words2 .shrN32 (fun a b => result (if 32 ≤ b.toNat then 0 else a >>> b.toNat)) fun _ => plain_shr
  case sshr =>
    exact fun d a b => writesLanes_words2 (w := 1) .shrS32
      (fun a b => result (if 32 ≤ b.toNat then (if a.msb then BitVec.allOnes 32 else 0) else a.sshiftRight b.toNat)) fun _ => wrapped_sshr
  case rot => exact fun d a b => writesLanes_words2 .rotB32 (fun a b => result (a.rotateLeft (b.toNat % 32))) fun _ => plain_rot
  case popc =>
    exact fun d b => writesLanes_word1 .popcB32 (fun b => result (BitVec.ofNat 32 ((List.range 32).countP fun k => b.getLsbD k))) fun _ => plain_popc
  case clz => exact fun d b => writesLanes_word1 .clzB32 (fun b => result b.clz) fun _ => plain_clz
  case brev => exact fun d b => writesLanes_word1 .brevB32 (fun b => result b.reverse) fun _ => plain_brev
  case bool3 =>
    exact fun x => writesLanes_extWord (fun y => (List.range 32).foldl (fun t k => t + bool3Bit x.tab.toNat y.a y.b y.c k) 0) fun y =>
      congrArg w32 (foldl_bool3Bit x.tab y.a y.b y.c)
  case bfe =>
    exact fun x => writesLanes_extWord (fun y => if fieldLen y.b = 0 then 0 else (y.a >>> bits y.b 7 0) % 2 ^ fieldLen y.b) fun y => w32_extract y.a y.b
  case bfi => exact fun x => writesLanes_extWord (fun y => bitInsert y.a y.b y.c) fun y => w32_bitInsert y.a y.b y.c

end Sys2Proof.Machine
end

section
/-! PROOFS. The short floating-point and move forms (R220 to R226, R232), and the extended lane forms under MOD (R220 to R240, R300). -/

namespace Sys2Proof.Machine

/-- A short form that computes each lane for itself writes what its opcode gives, rounded to nearest even (R170). -/
theorem writesLanes_shortLane {i : Instr} {d b : Operand} (op : LaneOp) (a : Operand) (hb : usesB0 i = false := by rfl)
    (he : ∀ s, exec i s = shortLane i op d a b s := by exact fun _ => rfl)
    (hown : op ∉ [.lidB32, .lnrdB32, .lnrdxB32, .xget, .xset] := by decide) :
    let f := twinForm op ⟨asDst d, asSrc a, asSrc b, .reg 0, Guard.none, 0, 0, 0⟩
    WritesLanes i 4 f (perLane f (laneValue op .rne)) := by
  simp only [List.mem_cons, List.not_mem_nil, or_false, not_or] at hown
  obtain ⟨hlid, hlnrd, hlnrdx, hxget, hxset⟩ := hown
  exact writesLanes_laneOp hb (twinForm_dw ..) fun s => (he s).trans (laneShort_eq i 4 _ s hlid hlnrd hlnrdx hxget hxset)

/-- Settles O3: each clause is the short form's lemma for its opcode; without a draw taken, the opcode's draw is 0. -/
theorem floatShortForms : Obligations.FloatShortForms := by
  unfold Obligations.FloatShortForms
  exact ⟨fun _ a _ => writesLanes_shortLane .faddF32 a,
    fun _ a _ => writesLanes_shortLane .fsubF32 a,
    fun _ a _ => writesLanes_shortLane .fmulF32 a,
    fun _ a _ => writesLanes_shortLane .fdivF32 a,
    fun _ _ => writesLanes_shortLane .fsqrtF32 (.reg 0),
    fun _ a _ => writesLanes_shortLane .fminF32 a,
    fun _ a _ => writesLanes_shortLane .fmaxF32 a,
    fun _ a _ => writesLanes_shortLane .daddF64 a,
    fun _ a _ => writesLanes_shortLane .dsubF64 a,
    fun _ a _ => writesLanes_shortLane .dmulF64 a,
    fun _ a _ => writesLanes_shortLane .ddivF64 a,
    fun _ _ => writesLanes_shortLane .dsqrtF64 (.reg 0),
    fun _ a _ => writesLanes_shortLane .dminF64 a,
    fun _ a _ => writesLanes_shortLane .dmaxF64 a,
    fun _ a _ => writesLanes_shortLane .hadd2F16 a,
    fun _ a _ => writesLanes_shortLane .hmul2F16 a,
    fun _ a _ => writesLanes_shortLane .hmin2F16 a,
    fun _ a _ => writesLanes_shortLane .hmax2F16 a,
    fun _ a _ => writesLanes_shortLane .hadd2Bf16 a,
    fun _ a _ => writesLanes_shortLane .hmul2Bf16 a,
    fun _ a _ => writesLanes_shortLane .hmin2Bf16 a,
    fun _ a _ => writesLanes_shortLane .hmax2Bf16 a,
    fun _ _ => writesLanes_shortLane .frcpF32 (.reg 0),
    fun _ _ => writesLanes_shortLane .frsqF32 (.reg 0),
    fun _ _ => writesLanes_shortLane .fex2F32 (.reg 0),
    fun _ _ => writesLanes_shortLane .flg2F32 (.reg 0),
    fun _ _ => writesLanes_shortLane .fsinF32 (.reg 0),
    fun _ _ => writesLanes_shortLane .fcosF32 (.reg 0),
    fun _ _ => writesLanes_shortLane .movB32 (.reg 0),
    fun _ _ => writesLanes_shortLane .movB64 (.reg 0)⟩

/-! ## Extended forms -/

theorem fmtRegs_cases (c : BitVec 8) : fmtRegs c = 0 ∨ fmtRegs c = 1 ∨ fmtRegs c = 2 ∨ fmtRegs c = 4 := by
  unfold fmtRegs
  split <;> decide

theorem fmtWidth_mem (c : BitVec 8) : fmtWidth c ∈ [4, 8, 16, 32, 64] := by
  simp only [fmtWidth]
  split_ifs <;> decide

/-- The destination of cvtpk takes 1, 2 or 4 registers (R240). -/
theorem cvtpkGroup_cases {f : LC} (h : f.okCvtpk = true) : let dw := (cvtpkGroup f.src f.dst).2.2; dw = 0 ∨ dw = 1 ∨ dw = 2 ∨ dw = 4 := by
  have hwidths : ∀ ws ∈ [4, 8, 16, 32, 64], ∀ wd ∈ [4, 8, 16, 32, 64], 32 / min ws wd * wd / 32 ≤ 4 →
      let dw := 32 / min ws wd * wd / 32; dw = 0 ∨ dw = 1 ∨ dw = 2 ∨ dw = 4 := by decide
  have hle : (cvtpkGroup f.src f.dst).2.2 ≤ 4 := by
    simp only [LC.okCvtpk, Bool.and_eq_true, decide_eq_true_eq] at h
    exact h.1.1.2
  exact hwidths _ (fmtWidth_mem f.src) _ (fmtWidth_mem f.dst) hle

/-- bsel's result, byte by byte (R230). -/
theorem foldl_bselByte (a b c : Nat) : (List.range 4).foldl (fun t k => t + 2 ^ (8 * k) * bselByte a b c k) 0 =
    bselByte a b c 0 + 2 ^ 8 * bselByte a b c 1 + 2 ^ 16 * bselByte a b c 2 + 2 ^ 24 * bselByte a b c 3 := by
  simp [List.range_succ]

/-- Settles O4: each form computes every lane for itself, with destinations of 1, 2 or 4 registers. -/
theorem laneExtendedForms : Obligations.LaneExtendedForms := by
  unfold Obligations.LaneExtendedForms
  refine ⟨?fma, ?fma64, ?hfma, ?hfmaB, ?frnd, ?fclass, ?bsel, ?cvt, ?cvtpk, ?movi, ?draw⟩
  case fma => exact fun x => writesLanes_laneOp rfl (.inr (.inl rfl)) fun _ => rfl
  case fma64 => exact fun x => writesLanes_laneOp rfl (.inr (.inr (.inl rfl))) fun _ => rfl
  case hfma => exact fun x => writesLanes_laneOp rfl (.inr (.inl rfl)) fun _ => rfl
  case hfmaB => exact fun x => writesLanes_laneOp rfl (.inr (.inl rfl)) fun _ => rfl
  case frnd => exact fun x => writesLanes_laneOp rfl (.inr (.inl rfl)) fun _ => rfl
  case fclass => exact fun x => writesLanes_laneOp rfl (.inr (.inl rfl)) fun _ => rfl
  case bsel =>
    simp only [← foldl_bselByte]
    exact fun x => writesLanes_laneOp rfl (.inr (.inl rfl)) fun _ => rfl
  case cvt => exact fun f => writesLanes_laneOp rfl (fmtRegs_cases f.dst) fun _ => rfl
  case cvtpk => exact fun f hok => writesLanes_laneOp rfl (cvtpkGroup_cases hok) fun _ => rfl
  case movi => exact fun d imm gd => writesLanes_laneOp (fn := fun _ => value imm.toNat) rfl (.inr (.inl rfl)) fun _ => rfl
  case draw => exact fun d gd => writesLanes_laneOp (fn := fun y => value (y.drawAt 0)) rfl (.inr (.inl rfl)) fun _ => rfl

end Sys2Proof.Machine
end

section
/-! PROOFS. Lane numbers, index reads, selects, lane reads, reductions and lmask (R234 to R245). -/

namespace Sys2Proof.Machine

/-- A predicate operand in a lane (R236, R243). -/
theorem Group.getLsbD_predOperand (g : Group) (n : Nat) (neg : Bool) {l : Nat} (hl : l < 64) :
    (g.predOperand n neg).getLsbD l = ((g.predMask n).getLsbD l != neg) := by
  cases neg <;> simp [Group.predOperand, hl]

/-! ## Lane numbers and index registers (R234, R235) -/

theorem writesLanes_lid (d : Operand) : WritesLanes (.lidB32 d) 4 (formNone (asDst d) 1 Guard.none 0) fun g _ l => value (if g.gang then l % 16 else l) :=
  writesLanes_of (act := lidAct (formNone (asDst d) 1 Guard.none 0)) rfl (.inr (.inl rfl)) (fun _ => rfl) fun _ on g =>
    writeVals_map g _ _ on (fun l => value (g.laneNumber l)) (fun _ => rfl) (List.map_map ..)

theorem writesLanes_xget (d : Operand) (x : BitVec 2) : WritesLanes (.xget d x) 4 { formNone (asDst d) 1 Guard.none 0 with extra := [xKey x.toNat] }
    fun g _ l => value ((g.readX l x.toNat).toNat &&& 0x01FF00FF) := by
  have hx : (x.setWidth 7).toNat = x.toNat := by rw [BitVec.toNat_setWidth]; omega
  rw [← hx]
  exact writesLanes_of (act := xgetAct (formNone (asDst d) 1 Guard.none 0) (x.setWidth 7).toNat) rfl (.inr (.inl rfl)) (fun _ => rfl) fun _ on g =>
    writeVals_map g _ _ on (fun l => value ((g.readX l (x.setWidth 7).toNat).toNat &&& 0x01FF00FF)) (fun _ => rfl) (List.map_map ..)

/-! ## sel (R238) -/

theorem writesLanes_sel (x : LX) : WritesLanes (.selB32 x) 8 (formSel x) fun g _ l =>
    value (if g.combined x.c l then (g.laneIn (formSel x) l).a else (g.laneIn (formSel x) l).b) := by
  refine writesLanes_of (act := selAct (formSel x) (smallSrc x.c)) rfl (.inr (.inl rfl)) (fun _ => rfl) fun _ on g => ?_
  refine writeVals_map g _ _ on _ (fun _ => rfl) ?_
  rw [List.map_map]
  refine List.map_congr_left fun l hl => ?_
  have hchoice := g.getLsbD_predOperand (smallSrc x.c % 8) (decide (8 ≤ smallSrc x.c)) (lanesOf_lt hl)
  exact congrArg (fun q : Bool => (l, if q then (g.laneIn (formSel x) l).a else (g.laneIn (formSel x) l).b)) hchoice

/-! ## Reductions of integers (R245) -/

theorem sum_words (a b : Nat) : (a + b) % 2 ^ 32 = (w32 a + w32 b).toNat := by
  rw [w32, w32, ← BitVec.ofNat_add, BitVec.toNat_ofNat]

theorem signed_lt_words (a b : Nat) : toSigned a 32 < toSigned b 32 ↔ (w32 a).slt (w32 b) = true := by
  rw [toSigned_eq32, toSigned_eq32, BitVec.slt_iff_toInt_lt]

/-! ## lmask (R244) -/

/-- The registers that lmask writes: a pair in a group of 64 lanes (R244). -/
def Group.maskRegs (g : Group) : Nat := if g.width = 64 then 2 else 1

theorem Group.bits_maskRegs (g : Group) : 32 * g.maskRegs = if g.width = 64 then 64 else 32 := by
  unfold Group.maskRegs
  split <;> rfl

/-- The mask that lmask gives a lane, a half's in its low bits (R244). -/
def Group.laneMask (g : Group) (pa : BitVec 3) (neg : Bool) (on : BitVec 64) (l : Nat) : Nat :=
  let m := (g.peers on l &&& g.predOperand pa.toNat neg).toNat
  if g.gang ∧ 16 ≤ l then m / 2 ^ 16 else m

/-- What lmask writes in every active lane. -/
def lmaskAct (f : LaneForm) (pa : BitVec 3) (neg : Bool) (_ : Issue) (on : BitVec 64) (_ : List LaneIn) (g : Group) : Group × List (Nat × Nat) :=
  writeVals f ((lanesOf on).map fun l => (l, g.laneMask pa neg on l)) g

theorem exec_lmask {s : State} {g : Group} {t : Team} {pc : W64} {run : BitVec 64} (h : s.Issues g t pc run) {d : BitVec 7} (pa : BitVec 3) (neg : Bool)
    (gd : Guard) (hd : ¬(g.width = 64 ∧ d.toNat % 2 = 1)) : exec (.lmask d pa neg gd) s =
      laneFrame (.lmask d pa neg gd) 8 (formNone (.reg d) g.maskRegs gd 0) s (fun _ => none) (lmaskAct (formNone (.reg d) g.maskRegs gd 0) pa neg) := by
  have hexec : exec (.lmask d pa neg gd) s = execLmask d pa neg gd s := rfl
  rw [hexec, execLmask, withIssue_issues h _ 8 _ rfl]
  by_cases hw : g.width = 64
  · simp only [hw, true_and] at hd
    simp only [hw, if_true, true_and, hd, if_false, Group.maskRegs]
    rfl
  · simp only [hw, if_false, OfNat.one_ne_ofNat, false_and, Group.maskRegs]
    rfl

/-- The lanes that exchange with a lane, as a mask of the active lanes (R241). -/
theorem Group.peers_eq (g : Group) (on : BitVec 64) (l : Nat) :
    g.peers on l = on &&& (if g.gang then (if l < 16 then 0xFFFF#64 else 0xFFFF0000#64) else BitVec.allOnes 64) := by
  unfold Group.peers
  split
  · split <;> rfl
  · exact BitVec.and_allOnes.symm

theorem Group.laneMask_eq (g : Group) (pa : BitVec 3) (neg : Bool) (on : BitVec 64) (l : Nat) : g.laneMask pa neg on l =
    ((if neg then ~~~(g.predMask pa.toNat) else g.predMask pa.toNat) &&& on &&&
      (if g.gang then (if l < 16 then 0xFFFF#64 else 0xFFFF0000#64) else BitVec.allOnes 64)).toNat >>> (if g.gang ∧ 16 ≤ l then 16 else 0) := by
  rw [BitVec.and_assoc, ← g.peers_eq, BitVec.and_comm, ← Group.predOperand]
  unfold Group.laneMask
  split
  · exact (Nat.shiftRight_eq_div_pow ..).symm
  · rfl

/-- What lmask does to the group's registers: the active lanes hold their masks, and nothing else changes. -/
theorem lmaskAct_spec (g : Group) (d : BitVec 7) (pa : BitVec 3) (neg : Bool) (gd : Guard) (c : Issue) (on : BitVec 64) (ins : List LaneIn) :
    let g' := (lmaskAct (formNone (.reg d) g.maskRegs gd 0) pa neg c on ins g).1
    (∀ l ∈ lanesOf on, g'.readWide l d.toNat g.maskRegs = g.laneMask pa neg on l % 2 ^ (32 * g.maskRegs)) ∧
    (∀ l n, n < 256 → ¬(l ∈ lanesOf on ∧ d.toNat ≤ n ∧ n < d.toNat + g.maskRegs) →
      g'.readV l n = g.readV l n ∧ (l * 256 + n ∈ g'.badV ↔ l * 256 + n ∈ g.badV)) ∧
    { g' with v := g.v, badV := g.badV } = g := by
  have hregs : d.toNat + g.maskRegs ≤ 256 := by unfold Group.maskRegs; split <;> omega
  have hlanes : ((lanesOf on).map fun l => (l, g.laneMask pa neg on l)).map (fun e => e.1) = lanesOf on := by
    rw [List.map_map]
    exact List.map_id' _
  obtain ⟨hread, hout, hbad⟩ := g.putLanes_spec (.reg d) g.maskRegs ((lanesOf on).map fun l => (l, g.laneMask pa neg on l)) rfl
    (by rw [hlanes]; exact lanesOf_nodup on) (.inr fun _ _ => hregs)
  rw [hlanes] at hout hbad
  exact ⟨fun l hl => hread (l, _) (List.mem_map_of_mem hl), fun l n hn hne => ⟨hout l n hn hne, (hbad l n hn).trans (and_iff_left hne)⟩,
    g.putLanes_frame ..⟩

/-- Settles O5: the exchanges and reductions read the active lanes' operands, and lmask writes one register or a pair. -/
theorem laneExchange : Obligations.LaneExchange := by
  unfold Obligations.LaneExchange
  refine ⟨writesLanes_lid, writesLanes_xget, ?lnrd, ?lnrdx, writesLanes_sel, ?rsumF, ?rminF, ?rmaxF, ?rsum, ?rmin, ?rmax, ?lmask⟩
  case lnrd => exact fun d a b =>
    writesLanes_of (act := exchangeAct (form2 d a b 1 1 .n32) false) rfl (.inr (.inl rfl)) (fun _ => rfl) (exchangeAct_eq (form2 d a b 1 1 .n32) false)
  case lnrdx => exact fun d a b =>
    writesLanes_of (act := exchangeAct (form2 d a b 1 1 .n32) true) rfl (.inr (.inl rfl)) (fun _ => rfl) (exchangeAct_eq (form2 d a b 1 1 .n32) true)
  case rsumF => exact fun x => reduces _ x _ _ rfl (fun _ => rfl) rfl
  case rminF => exact fun x => reduces _ x _ _ rfl (fun _ => rfl) rfl
  case rmaxF => exact fun x => reduces _ x _ _ rfl (fun _ => rfl) rfl
  case rsum => exact fun x => reduces _ x _ _ rfl (fun _ => rfl) (by simp only [sum_words])
  case rmin => exact fun x => reduces _ x _ _ rfl (fun _ => rfl) (by simp only [signed_lt_words])
  case rmax => exact fun x => reduces _ x _ _ rfl (fun _ => rfl) (by simp only [signed_lt_words])
  case lmask =>
    intro d pa neg gd s g t pc run h hd hr
    have hexec := (exec_lmask h pa neg gd hd).trans (laneFrame_ready h _ 8 (formNone (.reg d) g.maskRegs gd 0) _ _ rfl rfl hr rfl)
    refine ⟨_, hexec, ?_⟩
    rw [show (formNone (.reg d) g.maskRegs gd 0).draws = 0 from rfl, Group.afterDraws_zero]
    obtain ⟨hread, hrest⟩ := lmaskAct_spec g d pa neg gd ⟨_, s.focus, g, pc, run, 8⟩ (g.active run gd) _
    exact ⟨fun l hl => (hread l hl).trans (by rw [g.laneMask_eq, g.bits_maskRegs]), hrest⟩

end Sys2Proof.Machine
end

section
/-! PROOFS. agree in a ganged group whose run holds a lane beyond the two halves (R241, R243). -/

namespace Sys2Proof.Machine

/-- A ganged group whose run holds lane 16 and lane 40, which lies in neither half of 16 lanes; p2 is true in lane 16 alone. Gang start makes no such
group: the clause on agree does not ask for one that it makes. -/
def strayGang : Group :=
  { loadGroup 4 3 2 with gang := true, table := [], table1 := [(0x1000, laneBit 16 ||| laneBit 40)], p := [(2, laneBit 16)] }

/-- That group at the focus. -/
def strayState : State := { (State.reset.setTeam 2 (loadTeam 4 3)).setGroup 1 strayGang with focus := 1 }

theorem strayState_issues : strayState.Issues strayGang (loadTeam 4 3) 0x1000 (laneBit 16 ||| laneBit 40) := ⟨rfl, rfl, rfl⟩

/-- agree.every sees p2 true in every active lane of 16 to 31, which is lane 16 alone, and writes p1 true. -/
theorem exec_agree_strayState : exec (.agree 1 2 false 0 Guard.none) strayState = .next (strayState.setGroup strayState.focus
    ((strayGang.writePred 1 (laneBit 16 ||| laneBit 40) (laneBit 16 ||| laneBit 40)).place (laneBit 16 ||| laneBit 40)
      [(0x1000 + 8, laneBit 16 ||| laneBit 40)])) := rfl

theorem Group.place_predMask (g : Group) (run : BitVec 64) (targets : List (W64 × BitVec 64)) (n : Nat) :
    (g.place run targets).predMask n = g.predMask n := by
  unfold Group.place
  split <;> rfl

/-- Groups put at one place of a state are the same if the states are. -/
theorem State.setGroup_inj {s : State} {gid : Nat} {g g' : Group} (h : s.setGroup gid g = s.setGroup gid g') : g = g' := by
  have hget := congrArg (fun s => s.groups.get? gid) h
  simpa [State.setGroup, Map.get?_set] using hget

/-- Refutes O6: in a ganged group the clause on agree counts every active lane from 16 on as one half, while agree takes lanes 16 to 31 (R241). With
lanes 16 and 40 active and the source predicate true in lane 16 alone, `.every` writes true in lane 16, where the clause requires false. -/
theorem not_predicates : ¬ Obligations.Predicates := by
  unfold Obligations.Predicates
  rintro ⟨-, -, -, -, -, -, hagree⟩
  obtain ⟨g', hexec, hlanes, -, -⟩ := hagree 1 2 false 0 Guard.none _ _ _ _ _ strayState_issues rfl (by decide)
  have hplaced := State.setGroup_inj (Host.Outcome.next.inj (exec_agree_strayState.symm.trans hexec))
  have hwritten : (g'.predMask 1).getLsbD 16 = true := by
    rw [← g'.place_predMask, ← hplaced]
    decide
  have hrequired := hlanes 16 (by decide)
  rw [show (1 : BitVec 3).toNat = 1 from rfl, hwritten] at hrequired
  exact absurd hrequired (by decide)

end Sys2Proof.Machine
end

section
/-! PROOFS. The matrix instructions at issue (R249, R255, R264 to R267, R272 to R276, R550). -/

namespace Sys2Proof.Machine

/-! ## Claims, descriptors and the lease (R249, R255, R265, R267, R275) -/

section
variable {s : State} {g : Group} {t : Team} {pc : W64} {run : BitVec 64} {gd : Guard}

theorem State.UniIssues.team {reads writes : List Nat} (h : s.UniIssues g t pc run reads writes) : s.teams.get? g.team = some t := h.1.2.2

/-- A uniform operation whose checks pass and whose guard holds acts. -/
theorem uniOp_of_guardTrue {u : UCtx} {reads writes : List Nat} {k : Issue → Result} (h : s.UniIssues g t pc run reads writes)
    (hguard : g.guardTrue u.guard = true) : uniOp u reads writes s k = k ⟨u.i, s.focus, g, pc, run, u.len⟩ :=
  (uniOp_ready h.1 u reads writes k h.2).trans (if_pos hguard)

/-- A claim of slots and accumulator KiB fits: the team holds none, and each of its cores has as much left (R249, R265). -/
abbrev State.claimFits (s : State) (t : Team) (slots acc : Nat) : Prop :=
  t.mat.claimed = false ∧ ∀ q ∈ t.cores, (s.claimedOn t.die q).1 + slots ≤ 16 ∧ (s.claimedOn t.die q).2 + acc ≤ 192

theorem exec_mclaim (h : s.UniIssues g t pc run [] []) (slots acc : BitVec 8) (hguard : g.guardTrue gd = true) :
    exec (.mclaim slots acc gd) s =
      if s.claimFits t slots.toNat (16 * acc.toNat) then
        (s.setTeam g.team { t with mat := { t.mat with
          claimed := true, slots := slots.toNat, accKib := 16 * acc.toNat, slotMem := [], accMem := [], scaleMem := [], bad := [] } }).moves
          (g.writeB 0 true) pc 8 run
      else s.moves (g.writeB 0 false) pc 8 run := by
  have hfits : (!t.mat.claimed && t.cores.all fun q => decide ((s.claimedOn t.die q).1 + slots.toNat ≤ 16) &&
      decide ((s.claimedOn t.die q).2 + 16 * acc.toNat ≤ 192)) = decide (s.claimFits t slots.toNat (16 * acc.toNat)) := by
    rw [Bool.eq_iff_iff]
    simp
  change execMclaim slots acc gd s = _
  unfold execMclaim
  rw [uniOp_of_guardTrue h hguard]
  simp only [h.team, hfits, decide_eq_true_eq]
  rfl

theorem exec_mfree (h : s.UniIssues g t pc run [] []) :
    exec .mfree s =
      if t.mat.queue ≠ [] ∨ s.mrdPending g.team = true then .next { s with stalled := true }
      else (s.setTeam g.team { t with mat := t.mat.release }).moves g pc 4 run := by
  change opMfree (.short .mfree) s = _
  unfold opMfree
  rw [uniOp_of_guardTrue h rfl]
  simp only [h.team, Bool.or_eq_true, Bool.not_eq_true', beq_eq_false_iff_ne]
  rfl

theorem exec_mdesc {a b : BitVec 7} (h : s.UniIssues g t pc run [a.toNat, b.toNat] []) (n : BitVec 2) (hguard : g.guardTrue gd = true) :
    exec (.mdesc n a b gd) s =
      if descOk (g.readS b.toNat ++ g.readS a.toNat).toNat t.ncores = false then s.traps (.mdesc n a b gd) 8 g pc run 0x02 []
      else (s.setTeam g.team { t with mat := { t.mat with descs := t.mat.descs.set n.toNat (g.readS b.toNat ++ g.readS a.toNat) } }).moves
        g pc 8 run := by
  change execMdesc n a b gd s = _
  unfold execMdesc
  rw [uniOp_of_guardTrue h hguard]
  simp only [h.team, Bool.not_eq_true']
  rfl

theorem exec_mlease (h : s.UniIssues g t pc run [] []) (steps : BitVec 9) (hguard : g.guardTrue gd = true) :
    exec (.mlease steps gd) s =
      (s.setTeam g.team { t with mat := { t.mat with lease := if steps = 0 then 16 else steps.toNat } }).moves g pc 8 run := by
  change execMlease steps gd s = _
  unfold execMlease
  rw [uniOp_of_guardTrue h hguard]
  simp only [State.modTeam, Map.modify_of_get? h.team]
  rfl

/-- A descriptor with a reserved bit set, or with N above 384, is not valid (R254, R255). -/
theorem descOk_of_reserved {x : Nat} (n : Nat) (h : bits x 63 33 ≠ 0 ∨ bits x 79 77 ≠ 0 ∨ bits x 95 93 ≠ 0 ∨ 23 < bits x 24 20) :
    descOk x n = false := by
  rw [← Bool.not_eq_true]
  intro hok
  simp only [descOk, Bool.and_eq_true, beq_iff_eq, decide_eq_true_eq] at hok
  omega

end

/-! ## Instructions that enter the matrix order (R260, R264, R550) -/

/-- The instructions that count in TLS issue by the frame that they share. -/
theorem exec_of_matForm {i : Instr} {gd : Guard} {len : Nat} {reads : List Nat} {uops : Group → List W64}
    (h : matForm i = some (gd, len, reads, uops)) :
    ∃ u : UCtx, u.i = i ∧ u.len = len ∧ u.guard = gd ∧ ∀ s, exec i s = matIssue u i reads uops s := by
  unfold matForm at h
  split at h <;> cases h
  case h_6 acc len => exact ⟨.short (.mzero acc len), rfl, rfl, rfl, fun _ => rfl⟩
  all_goals exact ⟨.ext _ _, rfl, rfl, rfl, fun _ => rfl⟩

section
variable {s : State} {g : Group} {t : Team} {pc : W64} {run : BitVec 64} {i : Instr} {gd : Guard} {len : Nat} {reads : List Nat}
  {uops : Group → List W64}

/-- The item that an instruction puts into the matrix order, with the operands that it captures (R260). -/
def State.matItem (s : State) (g : Group) (pc : W64) (run : BitVec 64) (i : Instr) (len : Nat) (uops : List W64) (o : MatOp) : MatItem :=
  let words := (Issue.mk i s.focus g pc run len).words
  ⟨s.nextId, s.focus, i, o, words.1, words.2, pc, run, uops, 0, false⟩

/-- What a matrix instruction does once its descriptor has passed (R550): the checks of its operation, then its place in the matrix order. -/
def State.matPassed (s : State) (g : Group) (t : Team) (pc : W64) (run : BitVec 64) (i : Instr) (len : Nat) (uops : List W64) (d : Desc) : Result :=
  match s.matCheck g t i uops d, matOp i uops d with
  | some cause, _ => s.traps i len g pc run cause []
  | none, none => s.traps i len g pc run 0x02 []
  | none, some o =>
    if 255 ≤ g.tls || g.acquiring || g.overlaps (o.bytes.flatMap t.spread) then s.hold
    else .next ((({ s with nextId := s.nextId + 1 } : State).setGroup s.focus (g.place run [(pc + BitVec.ofNat 64 len, run)])).enqueue s.focus g.team
      ⟨s.nextId, s.focus, i, o, (Issue.mk i s.focus g pc run len).words.1, (Issue.mk i s.focus g pc run len).words.2, pc, run, uops, 0, false⟩)

theorem exec_matForm_of_guardTrue (hform : matForm i = some (gd, len, reads, uops)) (h : s.UniIssues g t pc run reads [])
    (hguard : g.guardTrue gd = true) :
    exec i s = match matDesc i t.mat with
      | .error c => s.traps i len g pc run c []
      | .ok d => s.matPassed g t pc run i len (uops g) d := by
  obtain ⟨u, rfl, rfl, rfl, hexec⟩ := exec_of_matForm hform
  rw [hexec]
  unfold matIssue
  rw [uniOp_of_guardTrue h hguard]
  simp only [h.team]
  rfl

theorem exec_matForm_of_guardFalse (hform : matForm i = some (gd, len, reads, uops)) (h : s.UniIssues g t pc run reads [])
    (hguard : g.guardTrue gd = false) :
    exec i s = s.moves g pc len run := by
  obtain ⟨u, rfl, rfl, rfl, hexec⟩ := exec_of_matForm hform
  rw [hexec]
  unfold matIssue
  rw [uniOp_ready h.1 _ _ _ _ h.2, hguard]
  exact if_neg Bool.false_ne_true

/-- An instruction whose group has moved on takes its place at the end of the matrix order (R260, R264). -/
theorem State.enqueue_of_setGroup (hteam : s.teams.get? g.team = some t) (gid : Nat) (x : MatItem) :
    (s.setGroup gid (g.place run [(pc, run)])).enqueue gid g.team x =
      ((s.setGroup gid { (g.place run [(pc, run)]) with tls := g.tls + 1 }).setTeam g.team
        { t with mat := { t.mat with queue := t.mat.queue ++ [x] } }).pushMatrix g.team := by
  obtain ⟨p, q, hplace⟩ := g.place_exists run [(pc, run)]
  unfold State.enqueue State.modTeam
  simp only [State.setGroup, State.setTeam, Map.modify_of_get? hteam, Map.modify_of_get? (Map.get?_set_self s.groups gid _), Map.set_set, hplace]
  rfl

theorem State.matPassed_refused {d : Desc} {c : Nat} (hcheck : s.matCheck g t i (uops g) d = some c) :
    s.matPassed g t pc run i len (uops g) d = s.traps i len g pc run c [] := by
  simp only [State.matPassed, hcheck]

theorem State.matPassed_queued {d : Desc} {o : MatOp} (hteam : s.teams.get? g.team = some t) (hcheck : s.matCheck g t i (uops g) d = none)
    (hop : matOp i (uops g) d = some o) (htls : g.tls < 255) (hacq : g.acquiring = false) (hover : g.overlaps (o.bytes.flatMap t.spread) = false) :
    s.matPassed g t pc run i len (uops g) d = .next (((({ s with nextId := s.nextId + 1 } : State).setGroup s.focus
      { (g.place run [(pc + BitVec.ofNat 64 len, run)]) with tls := g.tls + 1 }).setTeam g.team
        { t with mat := { t.mat with queue := t.mat.queue ++ [s.matItem g pc run i len (uops g) o] } }).pushMatrix g.team) := by
  unfold State.matPassed
  simp only [hcheck, hop, hacq, hover, Nat.not_le.2 htls, decide_false, Bool.or_self, Bool.false_eq_true, if_false]
  exact congrArg Host.Outcome.next (State.enqueue_of_setGroup (s := { s with nextId := s.nextId + 1 }) hteam s.focus _)

end

/-! ## mrd (R274) -/

section
variable {s : State} {g : Group} {t : Team} {pc : W64} {run : BitVec 64} {d a : BitVec 7} {acc : BitVec 8} {gd : Guard}

/-- The accumulator byte at which the word that a lane's offset names begins (R274). -/
def Group.accWord (g : Group) (acc : BitVec 8) (a : BitVec 7) (l : Nat) : Nat := 1024 * acc.toNat + 4 * (g.readV l a.toNat).toNat

/-- The entry of an mrd, with the offsets that it captures. -/
def State.mrdEntry (s : State) (g : Group) (pc : W64) (run : BitVec 64) (d a : BitVec 7) (acc : BitVec 8) (gd : Guard) : Entry :=
  { Entry.blank (.mrd d a acc gd) (Issue.mk (.mrd d a acc gd) s.focus g pc run 8).words pc (g.active run gd) s.nextId with
    counter := .lds
    opa := g.captureV (lanesOf (g.active run gd)) a.toNat 1
    dreg := (lanesOf (g.active run gd)).map (fun l => (l, d.toNat))
    dsts := [d.toNat]
    width := 1 }

theorem State.mrdOffs_mrdEntry :
    (s.mrdEntry g pc run d a acc gd).mrdOffs = (lanesOf (g.active run gd)).map fun l => (l, g.accWord acc a l) := by
  have hoff : ∀ l, (BitVec.ofNat 128 (g.readWide l a.toNat 1)).toNat % 2 ^ 32 = (g.readV l a.toNat).toNat := by
    intro l
    have hlt := (g.readV l a.toNat).isLt
    simp only [Group.readWide, BitVec.toNat_ofNat]
    omega
  simp only [Entry.mrdOffs, State.mrdEntry, Group.captureV, List.map_map]
  exact List.map_congr_left fun l _ => by rw [Function.comp_apply, hoff, Group.accWord]

/-- The lanes whose word lies outside the claim, as the instruction records them. -/
def Group.mrdOutside (g : Group) (m : Matrix) (on : BitVec 64) (acc : BitVec 8) (a : BitVec 7) : Map W64 :=
  ((lanesOf on).filter fun l => decide (1024 * m.accKib < g.accWord acc a l + 4)).map fun l => (l, laneRec 0x04 (g.accWord acc a l))

/-- What an mrd does once its registers have passed (R274). -/
theorem exec_mrd (h : s.Issues g t pc run) (hd : d.toNat < g.lbud) (ha : a.toNat < g.lbud)
    (hgood : g.badWords (g.active run gd) [a.toNat] = false) (hfree : g.blocked [a.toNat, d.toNat] = false) :
    let e := s.mrdEntry g pc run d a acc gd
    exec (.mrd d a acc gd) s =
      if g.mrdOutside t.mat (g.active run gd) acc a ≠ [] then s.traps (.mrd d a acc gd) 8 g pc run 0x04 (g.mrdOutside t.mat (g.active run gd) acc a)
      else if g.active run gd = 0 then s.moves g pc 8 run
      else if 255 ≤ g.lds then s.hold
      else if t.mrdWaits e = true then
        .next ((({ s with nextId := s.nextId + 1 } : State).setGroup s.focus
          (({ (g.place run [(pc + 8, run)]) with entries := g.entries ++ [e] } : Group).countUp .lds)).push (.loadLanding s.focus e.id))
      else if e.mrdBad g.pos t.mat = true then (s.countUncorr g.die).traps (.mrd d a acc gd) 8 g pc run 0x0B []
      else s.moves (g.landMrd t.mat e) pc 8 run := by
  intro e
  have hout : (e.mrdOffs.filter fun o => decide (1024 * t.mat.accKib < o.2 + 4)).map (fun o => (o.1, laneRec 0x04 o.2)) =
      g.mrdOutside t.mat (g.active run gd) acc a := by
    rw [State.mrdOffs_mrdEntry, List.filter_map, List.map_map]
    rfl
  have hbad : (!(e.mrdOffs.filter fun o => decide (1024 * t.mat.accKib < o.2 + 4)) == []) = true ↔
      g.mrdOutside t.mat (g.active run gd) acc a ≠ [] := by
    rw [← hout]
    simp
  change execMrd d a acc gd s = _
  unfold execMrd
  rw [withIssue_issues h _ 8 _ rfl]
  simp only [h.2.2]
  refine (if_neg (by simp [hd, ha])).trans ((if_neg (by simp [hfree])).trans ((if_neg ?_).trans (if_congr hbad ?_ rfl)))
  · exact Bool.eq_false_iff.1 hgood
  · exact congrArg (s.traps (.mrd d a acc gd) 8 g pc run 0x04) hout

/-- An instruction issued earlier is still to write a word that the mrd reads (R260, R274). -/
def State.writesAwaited (s : State) (t : Team) (on : BitVec 64) (word : Nat → Nat) : Prop :=
  ∃ x ∈ t.mat.queue, x.id < s.nextId ∧ ∃ l ∈ lanesOf on,
    (x.op.accWrites t.ncores).1 < word l + 4 ∧ word l < (x.op.accWrites t.ncores).1 + (x.op.accWrites t.ncores).2

theorem Team.mrdWaits_mrdEntry : t.mrdWaits (s.mrdEntry g pc run d a acc gd) = true ↔ s.writesAwaited t (g.active run gd) (g.accWord acc a) := by
  simp only [Team.mrdWaits, MatItem.writesFor, State.mrdOffs_mrdEntry, List.any_eq_true, List.any_map, Function.comp_apply, Bool.and_eq_true,
    decide_eq_true_eq]
  exact Iff.rfl

theorem Entry.mrdBad_mrdEntry (pos : Nat) (m : Matrix) :
    (s.mrdEntry g pc run d a acc gd).mrdBad pos m = true ↔
      ∃ l ∈ lanesOf (g.active run gd), m.isBad 1 (accKey pos (g.accWord acc a l)) 4 = true := by
  simp [Entry.mrdBad, State.mrdOffs_mrdEntry]

theorem Group.mrdOutside_eq_nil {m : Matrix} {on : BitVec 64} :
    g.mrdOutside m on acc a = [] ↔ ∀ l ∈ lanesOf on, g.accWord acc a l + 4 ≤ 1024 * m.accKib := by
  simp [Group.mrdOutside, List.filter_eq_nil_iff]

theorem ne_zero_of_mem_lanesOf {on : BitVec 64} {l : Nat} (hl : l ∈ lanesOf on) : on ≠ 0 := by
  rintro rfl
  simp [mem_lanesOf] at hl

section
variable (h : s.Issues g t pc run) (hd : d.toNat < g.lbud) (ha : a.toNat < g.lbud) (hgood : g.badWords (g.active run gd) [a.toNat] = false)
  (hfree : g.blocked [a.toNat, d.toNat] = false)
include h hd ha hgood hfree

theorem exec_mrd_outside {l : Nat} (hl : l ∈ lanesOf (g.active run gd)) (hout : 1024 * t.mat.accKib < g.accWord acc a l + 4) :
    exec (.mrd d a acc gd) s = s.traps (.mrd d a acc gd) 8 g pc run 0x04 (g.mrdOutside t.mat (g.active run gd) acc a) :=
  (exec_mrd h hd ha hgood hfree).trans (if_pos fun hnil => absurd (Group.mrdOutside_eq_nil.1 hnil l hl) (Nat.not_le.2 hout))

/-- An mrd whose words lie in the claim enters its group's pipeline or reads them at once (R274). -/
theorem exec_mrd_inside (hin : ∀ l ∈ lanesOf (g.active run gd), g.accWord acc a l + 4 ≤ 1024 * t.mat.accKib) (hact : g.active run gd ≠ 0)
    (hlds : g.lds < 255) :
    let e := s.mrdEntry g pc run d a acc gd
    exec (.mrd d a acc gd) s =
      if t.mrdWaits e = true then
        .next ((({ s with nextId := s.nextId + 1 } : State).setGroup s.focus
          (({ (g.place run [(pc + 8, run)]) with entries := g.entries ++ [e] } : Group).countUp .lds)).push (.loadLanding s.focus e.id))
      else if e.mrdBad g.pos t.mat = true then (s.countUncorr g.die).traps (.mrd d a acc gd) 8 g pc run 0x0B []
      else s.moves (g.landMrd t.mat e) pc 8 run :=
  (exec_mrd h hd ha hgood hfree).trans ((if_neg (not_not.2 (Group.mrdOutside_eq_nil.2 hin))).trans
    ((if_neg hact).trans (if_neg (Nat.not_le.2 hlds))))

theorem exec_mrd_waits (hin : ∀ l ∈ lanesOf (g.active run gd), g.accWord acc a l + 4 ≤ 1024 * t.mat.accKib) (hlds : g.lds < 255)
    (hearlier : s.writesAwaited t (g.active run gd) (g.accWord acc a)) :
    exec (.mrd d a acc gd) s = .next ((({ s with nextId := s.nextId + 1 } : State).setGroup s.focus { (g.place run [(pc + 8, run)]) with
      entries := g.entries ++ [s.mrdEntry g pc run d a acc gd], lds := g.lds + 1 }).push (.loadLanding s.focus s.nextId)) := by
  have hact : g.active run gd ≠ 0 := by
    obtain ⟨x, -, -, l, hl, -⟩ := hearlier
    exact ne_zero_of_mem_lanesOf hl
  obtain ⟨p, q, hplace⟩ := g.place_exists run [(pc + 8, run)]
  refine (exec_mrd_inside h hd ha hgood hfree hin hact hlds).trans ((if_pos (Team.mrdWaits_mrdEntry.2 hearlier)).trans ?_)
  rw [hplace]
  rfl

theorem exec_mrd_uncorrectable (hin : ∀ l ∈ lanesOf (g.active run gd), g.accWord acc a l + 4 ≤ 1024 * t.mat.accKib) (hlds : g.lds < 255)
    (hearlier : ¬s.writesAwaited t (g.active run gd) (g.accWord acc a)) {l : Nat} (hl : l ∈ lanesOf (g.active run gd))
    (hbad : t.mat.isBad 1 (accKey g.pos (g.accWord acc a l)) 4 = true) :
    exec (.mrd d a acc gd) s = (s.countUncorr g.die).traps (.mrd d a acc gd) 8 g pc run 0x0B [] :=
  (exec_mrd_inside h hd ha hgood hfree hin (ne_zero_of_mem_lanesOf hl) hlds).trans
    ((if_neg fun hwaits => hearlier (Team.mrdWaits_mrdEntry.1 hwaits)).trans (if_pos ((Entry.mrdBad_mrdEntry _ _).2 ⟨l, hl, hbad⟩)))

/-- An mrd whose words no earlier instruction is still to write reads them at once; with no active lane it reads none (R274). -/
theorem exec_mrd_reads (hin : ∀ l ∈ lanesOf (g.active run gd), g.accWord acc a l + 4 ≤ 1024 * t.mat.accKib) (hlds : g.lds < 255)
    (hearlier : ¬s.writesAwaited t (g.active run gd) (g.accWord acc a))
    (hgoodWords : ¬∃ l ∈ lanesOf (g.active run gd), t.mat.isBad 1 (accKey g.pos (g.accWord acc a l)) 4 = true) :
    exec (.mrd d a acc gd) s = s.moves (g.landMrd t.mat (s.mrdEntry g pc run d a acc gd)) pc 8 run := by
  by_cases hact : g.active run gd = 0
  · have hland : g.landMrd t.mat (s.mrdEntry g pc run d a acc gd) = g := by
      rw [Group.landMrd, State.mrdOffs_mrdEntry, hact]
      rfl
    rw [hland]
    exact (exec_mrd h hd ha hgood hfree).trans ((if_neg (not_not.2 (Group.mrdOutside_eq_nil.2 hin))).trans (if_pos hact))
  · exact (exec_mrd_inside h hd ha hgood hfree hin hact hlds).trans ((if_neg fun hwaits => hearlier (Team.mrdWaits_mrdEntry.1 hwaits)).trans
      (if_neg fun hbad => hgoodWords ((Entry.mrdBad_mrdEntry _ _).1 hbad)))

end

/-- Words written one after another into lanes that have not exited: no write changes which lanes those are, or the group's core. -/
theorem Group.foldl_landMrd (m : Matrix) (e : Entry) {n pos : Nat} {live : BitVec 64} (os : List (Nat × Nat))
    (hn : ∀ o ∈ os, e.dreg.getD o.1 0 = n) (g : Group) (hlive : g.live = live) (hpos : g.pos = pos) :
    os.foldl (fun g o =>
      if g.live.getLsbD o.1 then g.writeV o.1 (e.dreg.getD o.1 0) (BitVec.ofNat 32 (m.accMem.read (accKey g.pos o.2) 4)) else g) g =
    os.foldl (fun g o => if live.getLsbD o.1 then g.writeWide o.1 n 1 (m.accMem.read (accKey pos o.2) 4) else g) g := by
  induction os generalizing g with
  | nil => rfl
  | cons o r ih =>
    have hr : ∀ o ∈ r, e.dreg.getD o.1 0 = n := fun x hx => hn x (List.mem_cons_of_mem o hx)
    rw [List.foldl_cons, List.foldl_cons, hlive, hpos, hn o List.mem_cons_self]
    split
    · exact ih hr _ hlive hpos
    · exact ih hr g hlive hpos

/-- The words that an mrd reads go to its destination in the lanes that have not exited (R274, R378). -/
theorem Group.landMrd_mrdEntry (m : Matrix) : g.landMrd m (s.mrdEntry g pc run d a acc gd) =
    ((lanesOf (g.active run gd)).filter g.live.getLsbD).foldl
      (fun g' l => g'.writeWide l d.toNat 1 (m.accMem.read (accKey g.pos (g.accWord acc a l)) 4)) g := by
  have hdreg : ∀ o ∈ (lanesOf (g.active run gd)).map fun l => (l, g.accWord acc a l),
      Map.getD (s.mrdEntry g pc run d a acc gd).dreg o.1 0 = d.toNat := by
    intro o ho
    obtain ⟨l, hl, rfl⟩ := List.mem_map.1 ho
    exact getD_map_of_mem hl _ 0
  rw [Group.landMrd, State.mrdOffs_mrdEntry, Group.foldl_landMrd m _ _ hdreg g rfl rfl, List.foldl_map, List.foldl_filter]

/-- What an mrd that reads at once leaves of its group (R274, R378, R483). -/
theorem Group.landMrd_spec (m : Matrix) :
    let g' := g.landMrd m (s.mrdEntry g pc run d a acc gd)
    (∀ l n, n < 256 → g'.readV l n = if l ∈ lanesOf (g.active run gd) ∧ g.live.getLsbD l = true ∧ n = d.toNat
      then BitVec.ofNat 32 (m.accMem.read (accKey g.pos (g.accWord acc a l)) 4) else g.readV l n) ∧
    (∀ l n, n < 256 → ¬(l ∈ lanesOf (g.active run gd) ∧ n = d.toNat) → (l * 256 + n ∈ g'.badV ↔ l * 256 + n ∈ g.badV)) ∧
    { g' with v := g.v, badV := g.badV } = g := by
  have hd := d.isLt
  have hnodup : ((lanesOf (g.active run gd)).filter g.live.getLsbD).Nodup := (lanesOf_nodup _).filter _
  obtain ⟨hvalue, hkeep, hframe⟩ := Group.foldl_writeWide_spec (fun _ => d.toNat)
    (fun l => m.accMem.read (accKey g.pos (g.accWord acc a l)) 4) 1 (fun _ => by omega) _ hnodup g
  dsimp only
  rw [Group.landMrd_mrdEntry]
  refine ⟨fun l n hn => ?_, fun l n hn hout => (hkeep l n hn ?_).2, hframe⟩
  · split
    · next hin =>
      obtain ⟨hl, hlive, rfl⟩ := hin
      have hword := hvalue l (List.mem_filter.2 ⟨hl, hlive⟩)
      refine BitVec.eq_of_toNat_eq ?_
      simpa [Group.readWide] using hword
    · next hout =>
      refine (hkeep l n hn fun hc => hout ?_).1
      obtain ⟨hl, hlive⟩ := List.mem_filter.1 hc.1
      exact ⟨hl, hlive, by omega⟩
  · exact fun hc => hout ⟨(List.mem_filter.1 hc.1).1, by omega⟩

end

/-- Settles O34: claims, descriptors and the queue by their checks in order; an mrd by what stands in the matrix order before it. -/
theorem matrixInstructions : Obligations.MatrixInstructions := by
  unfold Obligations.MatrixInstructions
  refine ⟨fun s g t pc run slots acc gd h hguard => ?claim, fun s g t pc run h => ?free, fun s g t pc run n a b gd h hguard => ?desc,
    fun s g t pc run steps gd h hguard => exec_mlease h steps hguard, fun s i g t pc run gd len reads uops hform h => ?queue,
    fun x n => descOk_of_reserved n, fun s g t pc run d a acc gd h hd ha hgood hfree => ?mrd⟩
  case claim =>
    rw [exec_mclaim h slots acc hguard]
    exact ⟨fun hfits => if_pos hfits, fun hfits => if_neg hfits⟩
  case free =>
    rw [exec_mfree h]
    exact ⟨fun hqueue hmrd => if_neg (by simp [hqueue, hmrd]), fun hwaits => if_pos hwaits⟩
  case desc =>
    dsimp only
    rw [exec_mdesc h n hguard]
    exact ⟨fun hok => if_neg (by simp [hok]), fun hbad => if_pos hbad⟩
  case queue =>
    refine ⟨exec_matForm_of_guardFalse hform h, fun c hguard hdesc => ?_, fun d c hguard hdesc hcheck => ?_,
      fun d o hguard hdesc hcheck hop htls hacq hover => ?_⟩
    · rw [exec_matForm_of_guardTrue hform h hguard, hdesc]
    · rw [exec_matForm_of_guardTrue hform h hguard, hdesc]
      exact State.matPassed_refused hcheck
    · refine ⟨s.matItem g pc run i len (uops g) o, rfl, rfl, rfl, rfl, rfl, rfl, rfl, rfl, rfl, ?_⟩
      rw [exec_matForm_of_guardTrue hform h hguard, hdesc]
      exact State.matPassed_queued h.team hcheck hop htls hacq hover
  case mrd =>
    dsimp only
    refine ⟨fun ⟨l, hl, hout⟩ => exec_mrd_outside h hd ha hgood hfree hl hout,
      fun hin hlds => ⟨fun hearlier => ?_, ?_, fun hearlier hbroken => ?_⟩⟩
    · exact ⟨s.mrdEntry g pc run d a acc gd, exec_mrd_waits h hd ha hgood hfree hin hlds hearlier, rfl, rfl, rfl, rfl, rfl,
        State.mrdOffs_mrdEntry⟩
    · rintro hearlier ⟨l, hl, hbad⟩
      exact exec_mrd_uncorrectable h hd ha hgood hfree hin hlds hearlier hl hbad
    · exact ⟨_, exec_mrd_reads h hd ha hgood hfree hin hlds hearlier hbroken, Group.landMrd_spec t.mat⟩

end Sys2Proof.Machine
end

section
/-! PROOFS. Bytes and words of the matrix memories: clears, words updated in place, and one step of a tile (R6, R246, R269, R276). -/

namespace Sys2Proof.Machine

/-! ## Words of a memory -/

theorem ofBytes_toBytes (x n : Nat) : ofBytes (toBytes x n) = x % 256 ^ n := by
  induction n generalizing x with
  | zero => rw [pow_zero, Nat.mod_one]; rfl
  | succ n ih =>
    rw [toBytes, ofBytes, ih, BitVec.toNat_ofNat, pow_succ' 256]
    exact Nat.mod_mul.symm

namespace Memory

theorem bytes_congr {m m' : Memory} {a n : Nat} (h : ∀ i < n, m.get (a + i) = m'.get (a + i)) : m.bytes a n = m'.bytes a n := by
  refine List.ext_getElem (by rw [length_bytes, length_bytes]) fun i hi hi' => ?_
  rw [getElem_bytes, getElem_bytes]
  exact h i (by rwa [length_bytes] at hi)

theorem bytes_add (m : Memory) (a n k : Nat) : m.bytes a (n + k) = m.bytes a n ++ m.bytes (a + n) k := by
  induction n generalizing a with
  | zero => rw [Nat.zero_add]; rfl
  | succ n ih => rw [Nat.succ_add_eq_add_succ, Nat.add_succ, bytes, bytes, ih, List.cons_append, Nat.add_assoc, Nat.add_comm 1]

/-- Bytes of another memory written at a place (R268). -/
theorem get_write_bytes (m m' : Memory) (key a n k : Nat) (h : m.wf = true) :
    (m.write key (m'.bytes a n)).get k = if key ≤ k ∧ k < key + n then m'.get (a + (k - key)) else m.get k := by
  split
  · next hin =>
    have hwritten := get_write_in m key (m'.bytes a n) (k - key) h (by rw [length_bytes]; omega)
    rwa [getElem_bytes, Nat.add_sub_cancel' hin.1] at hwritten
  · exact get_write_out m key _ k h (by rw [length_bytes]; omega)

/-- A word of four bytes replaced by a function of what it holds, as a step replaces an accumulator (R269). -/
def updateWord (m : Memory) (key : Nat) (f : Nat → Nat) : Memory := m.write key (toBytes (f (m.read key 4)) 4)

theorem wf_updateWord {m : Memory} (h : m.wf = true) (key : Nat) (f : Nat → Nat) : (m.updateWord key f).wf = true := wf_write m key _ h

theorem read_updateWord_same {m : Memory} (h : m.wf = true) (key : Nat) (f : Nat → Nat) :
    (m.updateWord key f).read key 4 = f (m.read key 4) % 2 ^ 32 := by
  have hbytes := bytes_write m key (toBytes (f (m.read key 4)) 4) h
  rw [toBytes_length] at hbytes
  rw [updateWord, read, hbytes, ofBytes_toBytes]
  rfl

theorem read_updateWord_of_apart {m : Memory} (h : m.wf = true) {key k : Nat} (f : Nat → Nat) (hapart : key + 4 ≤ k ∨ k + 4 ≤ key) :
    (m.updateWord key f).read k 4 = m.read k 4 := by
  refine congrArg ofBytes (bytes_congr fun i hi => get_write_out m key _ _ h ?_)
  rw [toBytes_length]
  omega

section
variable {ι : Type} (key : ι → Nat) (f : ι → Nat → Nat)

theorem read_foldl_updateWord_of_apart {k : Nat} (cs : List ι) (hapart : ∀ c ∈ cs, key c + 4 ≤ k ∨ k + 4 ≤ key c) (m : Memory)
    (h : m.wf = true) : (cs.foldl (fun m c => m.updateWord (key c) (f c)) m).read k 4 = m.read k 4 := by
  induction cs generalizing m with
  | nil => rfl
  | cons c r ih =>
    rw [List.foldl_cons, ih (fun x hx => hapart x (List.mem_cons_of_mem c hx)) _ (wf_updateWord h _ _),
      read_updateWord_of_apart h _ (hapart c List.mem_cons_self)]

/-- Words that lie apart, updated one after another: each is updated once. -/
theorem read_foldl_updateWord (cs : List ι) (hapart : cs.Pairwise fun c c' => key c + 4 ≤ key c' ∨ key c' + 4 ≤ key c) (m : Memory)
    (h : m.wf = true) {c : ι} (hc : c ∈ cs) :
    (cs.foldl (fun m c => m.updateWord (key c) (f c)) m).read (key c) 4 = f c (m.read (key c) 4) % 2 ^ 32 := by
  induction cs generalizing m with
  | nil => exact absurd hc List.not_mem_nil
  | cons c' r ih =>
    obtain ⟨hfirst, hrest⟩ := List.pairwise_cons.1 hapart
    rw [List.foldl_cons]
    rcases List.mem_cons.1 hc with rfl | hr
    · rw [read_foldl_updateWord_of_apart key f r (fun x hx => (hfirst x hx).symm) _ (wf_updateWord h _ _), read_updateWord_same h]
    · rw [ih hrest _ (wf_updateWord h _ _) hr, read_updateWord_of_apart h _ (hfirst c hr)]

end

end Memory

/-! ## Accumulators set to 0 (R270, R276) -/

namespace Matrix

theorem zero_succ (m : Matrix) (cores acc bytes : Nat) : ∃ bad,
    m.zero (cores + 1) acc bytes = { m.zero cores acc bytes with
      accMem := (m.zero cores acc bytes).accMem.clear (accKey cores (1024 * acc)) bytes, bad := bad } := by
  refine ⟨(m.zero (cores + 1) acc bytes).bad, ?_⟩
  rw [zero, List.range_succ, List.foldl_append]
  rfl

/-- Clearing changes accumulator bytes and marks alone. -/
theorem zero_frame (m : Matrix) (cores acc bytes : Nat) : { m.zero cores acc bytes with accMem := m.accMem, bad := m.bad } = m := by
  induction cores with
  | zero => rfl
  | succ n ih =>
    obtain ⟨bad, hbad⟩ := m.zero_succ n acc bytes
    rw [hbad]
    exact ih

/-- The accumulator bytes that a clear leaves on each core (R276). -/
theorem get_zero (m : Matrix) (cores acc bytes q k : Nat) (hrange : 1024 * acc + bytes ≤ 2 ^ 18) (hk : k < 2 ^ 18) :
    (m.zero cores acc bytes).accMem.get (accKey q k) =
      if q < cores ∧ 1024 * acc ≤ k ∧ k < 1024 * acc + bytes then 0 else m.accMem.get (accKey q k) := by
  induction cores with
  | zero => rfl
  | succ n ih =>
    obtain ⟨bad, hbad⟩ := m.zero_succ n acc bytes
    have hkey : accKey n (1024 * acc) ≤ accKey q k ∧ accKey q k < accKey n (1024 * acc) + bytes ↔
        q = n ∧ 1024 * acc ≤ k ∧ k < 1024 * acc + bytes := by
      unfold accKey
      omega
    rw [hbad]
    simp only [Memory.get_clear, hkey, ih]
    by_cases hin : q = n ∧ 1024 * acc ≤ k ∧ k < 1024 * acc + bytes
    · rw [if_pos hin, if_pos ⟨by omega, hin.2⟩]
    · rw [if_neg hin]
      exact if_congr (by omega) rfl rfl

end Matrix

/-! ## One step of a tile (R246, R269) -/

/-- The cells of one core's sub-tile in the order of a step, each with its core, row and column, and those of every core of a team. -/
def Desc.cells (d : Desc) (cores q : Nat) : List (Nat × Nat × Nat) := (List.range (d.mc cores) ×ˢ List.range (d.nc cores)).map (Prod.mk q)
def Desc.allCells (d : Desc) (cores : Nat) : List (Nat × Nat × Nat) := (List.range cores).flatMap (d.cells cores)

/-- The key of a cell's accumulator (R252). -/
def Desc.cellKey (d : Desc) (cores acc : Nat) (c : Nat × Nat × Nat) : Nat := accKey c.1 (1024 * acc + 4 * (c.2.1 * d.nc cores + c.2.2))

theorem Desc.allCells_eq_product (d : Desc) (cores : Nat) :
    d.allCells cores = List.range cores ×ˢ (List.range (d.mc cores) ×ˢ List.range (d.nc cores)) := rfl

theorem Desc.mem_allCells {d : Desc} {cores : Nat} {c : Nat × Nat × Nat} :
    c ∈ d.allCells cores ↔ c.1 < cores ∧ c.2.1 < d.mc cores ∧ c.2.2 < d.nc cores := by
  rw [Desc.allCells_eq_product, List.mem_product, List.mem_product, List.mem_range, List.mem_range, List.mem_range]

theorem Desc.nodup_allCells (d : Desc) (cores : Nat) : (d.allCells cores).Nodup :=
  List.nodup_range.product (List.nodup_range.product List.nodup_range)

/-- A cell is found by its place in its core's tile, which lies below the tile's size. -/
theorem cellIndex_lt {i j m n : Nat} (hi : i < m) (hj : j < n) : i * n + j < m * n := by
  have hrow : (i + 1) * n ≤ m * n := Nat.mul_le_mul_right n hi
  rw [Nat.succ_mul] at hrow
  omega

theorem cellIndex_inj {i j i' j' n : Nat} (hj : j < n) (hj' : j' < n) (h : i * n + j = i' * n + j') : i = i' ∧ j = j' := by
  have hpos : 0 < n := by omega
  obtain ⟨hdiv, hmod⟩ := (Nat.div_mod_unique hpos).2 ⟨(by rw [Nat.mul_comm, Nat.add_comm] : j + n * i = i * n + j), hj⟩
  obtain ⟨hdiv', hmod'⟩ := (Nat.div_mod_unique hpos).2 ⟨(by rw [h, Nat.mul_comm, Nat.add_comm] : j' + n * i' = i * n + j), hj'⟩
  exact ⟨hdiv.symm.trans hdiv', hmod.symm.trans hmod'⟩

/-- Different cells of a tile that lies in the accumulators have words apart. -/
theorem Desc.cellKey_apart {d : Desc} {cores acc : Nat} (hrange : 1024 * acc + 4 * (d.mc cores * d.nc cores) ≤ 2 ^ 18) {c c' : Nat × Nat × Nat}
    (hc : c ∈ d.allCells cores) (hc' : c' ∈ d.allCells cores) (hne : c ≠ c') :
    d.cellKey cores acc c + 4 ≤ d.cellKey cores acc c' ∨ d.cellKey cores acc c' + 4 ≤ d.cellKey cores acc c := by
  obtain ⟨q, i, j⟩ := c
  obtain ⟨q', i', j'⟩ := c'
  obtain ⟨-, hi, hj⟩ := Desc.mem_allCells.1 hc
  obtain ⟨-, hi', hj'⟩ := Desc.mem_allCells.1 hc'
  have hlt := cellIndex_lt hi hj
  have hlt' := cellIndex_lt hi' hj'
  have hdiff : q = q' → i * d.nc cores + j ≠ i' * d.nc cores + j' := by
    rintro rfl heq
    obtain ⟨rfl, rfl⟩ := cellIndex_inj hj hj' heq
    exact hne rfl
  unfold Desc.cellKey accKey
  dsimp only at hlt hlt' ⊢
  omega

namespace Matrix

/-- What a step makes of the accumulator of a cell (R269). -/
def cellValue (m : Matrix) (d : Desc) (cores sa sb t : Nat) (c : Nat × Nat × Nat) (w : Nat) : Nat :=
  (m.element d c.1 sa sb t (d.origin cores c.1).1 (d.origin cores c.1).2 c.2.1 c.2.2 w).1

/-- The accumulators after a step of some cells, one after another. -/
def stepCells (m : Matrix) (d : Desc) (cores acc sa sb t : Nat) (cs : List (Nat × Nat × Nat)) : Memory :=
  cs.foldl (fun mem c => mem.updateWord (d.cellKey cores acc c) (m.cellValue d cores sa sb t c)) m.accMem

/-- A core's step updates the accumulators of its cells one after another. -/
theorem accMem_coreStep (m : Matrix) (d : Desc) (cores q acc sa sb t : Nat) : (m.coreStep d cores q acc sa sb t).1 =
    m.stepCells d cores acc sa sb t (d.cells cores q) := by
  have hcells : m.coreStep d cores q acc sa sb t = (d.cells cores q).foldl (fun x c =>
      (x.1.updateWord (d.cellKey cores acc c) (m.cellValue d cores sa sb t c), x.2 ||| (m.element d c.1 sa sb t (d.origin cores c.1).1
        (d.origin cores c.1).2 c.2.1 c.2.2 (x.1.read (d.cellKey cores acc c) 4)).2)) (m.accMem, 0) := by
    simp only [coreStep, Desc.cells, SProd.sprod, List.product, List.foldl_flatMap, List.foldl_map]
    rfl
  rw [hcells]
  exact Eq.symm (List.foldl_hom Prod.fst (init := (m.accMem, 0)) fun _ _ => rfl)

/-- Steps of cores one after another change accumulators alone: those of their cells, one after another. -/
theorem foldl_coreStep (d : Desc) (cores acc sa sb t : Nat) (qs : List Nat) (m : Matrix) (f : Flags) :
    (qs.foldl (fun x q => (({ x.1 with accMem := (x.1.coreStep d cores q acc sa sb t).1 } : Matrix), x.2 ||| (x.1.coreStep d cores q acc sa sb t).2))
      (m, f)).1 = { m with accMem := m.stepCells d cores acc sa sb t (qs.flatMap (d.cells cores)) } := by
  induction qs generalizing m f with
  | nil => rfl
  | cons q r ih =>
    rw [List.foldl_cons, ih, accMem_coreStep, List.flatMap_cons, stepCells, stepCells, stepCells, List.foldl_append]
    rfl

/-- A step updates the accumulators of every core's cells, and changes nothing else of the matrix state (R246). -/
theorem step_fst (m : Matrix) (d : Desc) (cores acc sa sb t : Nat) : (m.step d cores acc sa sb t).1 =
    { m with accMem := m.stepCells d cores acc sa sb t (d.allCells cores) } :=
  foldl_coreStep d cores acc sa sb t (List.range cores) m 0

/-- The accumulator of a cell after a step (R269). -/
theorem read_step (m : Matrix) (d : Desc) (cores acc sa sb t : Nat) (h : m.accMem.wf = true)
    (hrange : 1024 * acc + 4 * (d.mc cores * d.nc cores) ≤ 2 ^ 18) {c : Nat × Nat × Nat} (hc : c ∈ d.allCells cores) :
    (m.step d cores acc sa sb t).1.accMem.read (d.cellKey cores acc c) 4 =
      m.cellValue d cores sa sb t c (m.accMem.read (d.cellKey cores acc c) 4) % 2 ^ 32 := by
  rw [step_fst]
  refine Memory.read_foldl_updateWord (d.cellKey cores acc) (m.cellValue d cores sa sb t) _ ?_ m.accMem h hc
  exact (d.nodup_allCells cores).pairwise_of_forall_ne fun c hc c' hc' hne => Desc.cellKey_apart hrange hc hc' hne

end Matrix

end Sys2Proof.Machine
end

section
/-! PROOFS. What the steps and transfers of the matrix engine do (R246, R247, R251, R260, R268 to R271, R273, R276). -/

namespace Sys2Proof.Machine

/-! ## Elements of 8-bit integers (R154, R269) -/

theorem Matrix.elem_byte (m : Matrix) (key k : Nat) : toSigned (m.elem key 8 k) 8 = (m.slotMem.get (key + k)).toInt := by
  rw [Matrix.elem, if_neg (by decide), Nat.mul_div_cancel k (by decide), toSigned_eq_toInt]
  simp [Memory.read, Memory.bytes, ofBytes]

theorem Matrix.element_of_bytes {d : Desc} (ha : Fmt.ofCode d.afmt = .int 8 false) (hb : Fmt.ofCode d.bfmt = .int 8 false) (m : Matrix)
    (q sa sb k m0 n0 i j c : Nat) :
    (m.element d q sa sb k m0 n0 i j c).1 = wrapInt (((List.range 64).map fun e =>
      (m.slotMem.get (slotKey q sa (64 * i) + e)).toInt * (m.slotMem.get (slotKey q sb (64 * j) + e)).toInt).foldl
        (fun a b => a + b) (c : Int)) 32 := by
  simp only [Matrix.element, ha, hb, isIntFmt, Fmt.width, if_true, Bool.false_eq_true, if_false, Matrix.elem_byte, List.foldl_map]

/-! ## The head of the matrix order (R260) -/

section
variable {s : State} {team : Nat} {t : Team} {x : MatItem} {g : Group}

theorem State.matHead_of_MatHead (h : s.MatHead team t x g) : s.matHead team x.id = some (t, x) := by
  obtain ⟨hteam, hhead, hstopped, -, -⟩ := h
  obtain ⟨r, hqueue⟩ := List.head?_eq_some_iff.1 hhead
  simp [State.matHead, hteam, hqueue, hstopped]

theorem wake_of_awake {gid : Nat} (hgroup : s.groups.get? gid = some g) (hawake : s.awake g = true) (a : Act) (k : Group → Result) :
    wake gid a s k = k g := by
  have hgoing : s.going g = true := (Bool.and_eq_true_iff.1 hawake).1
  rw [wake, hgroup]
  exact if_pos hgoing

/-- An item that completes where its group and its team stand as given (R260, R264). -/
theorem State.matDone_eq (hteam : s.teams.get? team = some t) (hgroup : s.groups.get? x.gid = some g) : s.matDone team x =
    ((s.setTeam team { t with mat := { t.mat with queue := t.mat.queue.filter fun y => !(y.id == x.id) } }).setGroup x.gid
      { g with tls := g.tls - 1 }).pushMatrix team := by
  unfold State.matDone State.modTeam
  simp only [Map.modify_of_get? hteam, Map.modify_of_get? hgroup]
  rfl

/-- The completion of an item whose step has changed the matrix state and the flags of its group. -/
theorem State.matCompletes_of_step {mat : Matrix} (hqueue : mat.queue = t.mat.queue) (f : Flags) :
    s.MatCompletes team t x { g with flags := f } mat
      (((s.setTeam team { t with mat := mat }).setGroup x.gid { g with flags := f }).matDone team x) := by
  rw [State.matDone_eq (Map.get?_set_self ..) (Map.get?_set_self ..)]
  simp only [State.setTeam, State.setGroup, Map.set_set, hqueue]
  rfl

/-- The completion of an item that has changed the matrix state alone. -/
theorem State.matCompletes_of_setTeam {mat : Matrix} (hqueue : mat.queue = t.mat.queue) (hgroup : s.groups.get? x.gid = some g) :
    s.MatCompletes team t x g mat ((s.setTeam team { t with mat := mat }).matDone team x) := by
  rw [State.matDone_eq (s := s.setTeam team { t with mat := mat }) (Map.get?_set_self ..) hgroup]
  simp only [State.setTeam, State.setGroup, Map.set_set, hqueue]
  rfl

theorem exec_matrixStep_mzero (h : s.MatHead team t x g) (hread : s.readFirst team t.ncores x = false) {acc len : Nat} (hop : x.op = .mzero acc len) :
    exec (.matrixStep team x.id) s = .next ((s.setTeam team { t with mat := t.mat.zero t.ncores acc (1024 * len) }).matDone team x) := by
  have hhead := State.matHead_of_MatHead h
  obtain ⟨-, -, -, hgroup, hawake⟩ := h
  change execMatrixStep team x.id s = _
  simp only [execMatrixStep, hhead, wake_of_awake hgroup hawake, State.matHeld, hread, hop, Bool.false_eq_true, if_false]

theorem exec_matrixStep_mma (h : s.MatHead team t x g) (hread : s.readFirst team t.ncores x = false) {acc sa sb k : Nat} {d : Desc}
    (hop : x.op = .mma acc sa sb false d k) (hgood : t.mat.stepBad d t.ncores acc sa sb k false = false) :
    exec (.matrixStep team x.id) s = .next (((s.setTeam team { t with mat := (t.mat.step d t.ncores acc sa sb k).1 }).setGroup x.gid
      { g with flags := g.flags ||| (t.mat.step d t.ncores acc sa sb k).2 }).matDone team x) := by
  have hhead := State.matHead_of_MatHead h
  obtain ⟨-, -, -, hgroup, hawake⟩ := h
  change execMatrixStep team x.id s = _
  simp only [execMatrixStep, hhead, wake_of_awake hgroup hawake, State.matHeld, hread, hop, State.matStep, hgood, Bool.false_eq_true, if_false,
    State.setTeam, Map.modify_of_get? hgroup]
  rfl

/-! ## Transfers (R262, R268, R270, R271, R273) -/

theorem State.runTransfer_of_moved {s1 : State} {total n : Nat} {f : State → Nat → UnitEnd} {done : State → State}
    (h : runUnits f (total - x.landed) x.landed s = (.moved s1, n)) : s.runTransfer team x total f done = done s1 := by
  rw [State.runTransfer, h]

/-- The units of an item's transfer: their number, and what one of them does (R268, R271, R273). None for an mloop, which transfers
step by step. -/
def MatItem.transferUnits (team : Nat) (t : Team) (x : MatItem) : Option (Nat × (State → Nat → UnitEnd)) :=
  match x.op with
  | .mld slot a st isB sp d =>
    some (t.ncores * (if isB then d.nc t.ncores else d.mc t.ncores), fun s k => s.loadRow team t x slot a st isB sp d k)
  | .mst a st acc fmt mode sp d => some (d.m * (if t.ncores = 4 then 2 else 1), fun s k => s.storeRow t x a st acc fmt mode sp d k)
  | .mscale first a count sp => some (count, fun s k => s.loadScale team t x first a sp k)
  | _ => none

/-- An item whose transfer's units have all landed has completed (R262). -/
theorem exec_matrixTransferLand {s1 : State} {total n : Nat} {f : State → Nat → UnitEnd} (h : s.MatHead team t x g)
    (hunits : x.transferUnits team t = some (total, f)) (hlands : runUnits f (total - x.landed) x.landed s = (.moved s1, n)) :
    exec (.matrixTransferLand team x.id) s = .next (s1.matDone team x) := by
  have hhead := State.matHead_of_MatHead h
  obtain ⟨-, -, -, hgroup, hawake⟩ := h
  change execMatrixTransferLand team x.id s = _
  simp only [execMatrixTransferLand, hhead, wake_of_awake hgroup hawake]
  unfold MatItem.transferUnits at hunits
  split at hunits <;> cases hunits <;> next hop => simp only [hop, State.runTransfer_of_moved hlands]

/-! ## A row of a load (R268) -/

theorem Memory.flatMap_pieces (m : Memory) (sp : Space) (a n : Nat) :
    (pieces sp a (16 * n)).flatMap (fun q => m.bytes q.a q.n) = m.bytes a (16 * n) := by
  rw [pieces, Nat.mul_div_cancel_left n (by decide), List.flatMap_map]
  induction n with
  | zero => rfl
  | succ n ih => rw [List.range_succ, List.flatMap_append, ih, Nat.mul_succ, Memory.bytes_add]; simp

/-- Bytes within a range hold no uncorrectable unit that the range does not hold. -/
theorem badIn_of_within {l : List Nat} {u a n b k : Nat} (h : badIn l u a n = false) (hlo : a ≤ b) (hhi : b + k ≤ a + n) :
    badIn l u b k = false := by
  rw [badIn, List.any_eq_false] at h ⊢
  intro w hw
  have hw' := h w hw
  simp only [Bool.and_eq_true, decide_eq_true_eq] at hw' ⊢
  omega

/-- A run of team memory is read at once (R193, R199). -/
theorem State.getRun_team {o : Owner} {a n : Nat} (hteam : s.teams.get? g.team = some t) (hwins : t.wins = []) (hsbuf : g.sbuf = [])
    (hwaits : ∀ w ∈ s.waits, w.owner ≠ o) (hgood : badIn t.bad 4 a (16 * n) = false) :
    s.getRun g o (pieces .team a (16 * n)) =
      .ok (s.pump.dropWaits o) ((pieces .team a (16 * n)).map fun q => (q, t.mem.bytes q.a q.n)) := by
  have hteam' : s.pump.teams.get? g.team = some t := s.teams_pump.symm ▸ hteam
  have hpiece : ∀ q ∈ pieces .team a (16 * n), q.sp = .team ∧ a ≤ q.a ∧ q.a + q.n ≤ a + 16 * n := by
    intro q hq
    obtain ⟨k, hk, rfl⟩ := List.mem_map.1 hq
    have hlt := List.mem_range.1 hk
    dsimp only
    exact ⟨rfl, by omega, by omega⟩
  have hcanon : (pieces .team a (16 * n)).all (fun q => !(q.sp == .glob) || canonical q.a) = true :=
    List.all_eq_true.2 fun q hq => by simp [(hpiece q hq).1]
  rw [State.getRun, hcanon]
  refine State.readAll_of_local hteam hwins (fun q hq => by simp [(hpiece q hq).1]) hwaits fun q hq => ?_
  obtain ⟨hsp, hlo, hhi⟩ := hpiece q hq
  rw [← State.bytesAt_team hteam']
  refine State.readReq_of_local hwins (by simp [hsp]) (by rw [hsp, State.placeAt_team]) ?_ (by simp [hsbuf])
  simp [State.poisoned, State.team?, hteam', badIn_of_within hgood hlo hhi]

theorem engineAddr_row (base first row stride : Nat) :
    engineAddr .team ((base : Int) + ((first : Int) + (row : Int)) * (stride : Int)) = base + (first + row) * stride := by
  rw [engineAddr, if_neg (by decide)]
  norm_cast

/-- The team address from which a load reads its unit k, and the key of its slot bytes (R251, R268). -/
def Desc.rowAddr (d : Desc) (cores base stride : Nat) (isB : Bool) (k : Nat) : Nat :=
  let per := if isB then d.nc cores else d.mc cores
  base + ((if isB then (d.origin cores (k / per)).2 else (d.origin cores (k / per)).1) + k % per) * stride
def Desc.rowKey (d : Desc) (cores slot : Nat) (isB : Bool) (k : Nat) : Nat :=
  let per := if isB then d.nc cores else d.mc cores
  slotKey (k / per) slot (64 * (k % per))

theorem State.sameBut.setTeam {u : State} (h : s.sameBut u) (k : Nat) (tm : Team) : (s.setTeam k tm).sameBut (u.setTeam k tm) := by
  obtain ⟨w, a, p, l, r, rfl⟩ := h.exists
  rfl

/-- A load's unit in team memory writes its row into its slot (R268). -/
theorem State.loadRow_team {slot base stride k : Nat} {isB : Bool} {d : Desc} (hteam : s.teams.get? team = some t)
    (hgroup : s.groups.get? x.gid = some g) (hg : g.team = team) (hsbuf : g.sbuf = []) (hwins : t.wins = [])
    (hwaits : ∀ w ∈ s.waits, w.owner ≠ .matrix team x.id) (hgood : badIn t.bad 4 (d.rowAddr t.ncores base stride isB k) 64 = false) :
    s.loadRow team t x slot base stride isB .team d k = .moved ((s.pump.dropWaits (.matrix team x.id)).setTeam team
      { t with mat := t.mat.putSlot (d.rowKey t.ncores slot isB k) (t.mem.bytes (d.rowAddr t.ncores base stride isB k) 64) }) := by
  subst hg
  have hteam' : (s.pump.dropWaits (.matrix g.team x.id)).teams.get? g.team = some t := s.teams_pump.symm ▸ hteam
  have hrun := State.getRun_team (n := 4) hteam hwins hsbuf hwaits hgood
  have hbytes := Memory.flatMap_pieces t.mem .team (d.rowAddr t.ncores base stride isB k) 4
  unfold State.loadRow
  simp only [hgroup, engineAddr_row]
  rw [show base + _ = d.rowAddr t.ncores base stride isB k from rfl, hrun]
  simp only [State.modTeam, Map.modify_of_get? hteam', List.flatMap_map, hbytes]
  rfl

end

/-- Settles O35: a clear and a step by what they do to each accumulator, a transfer by its units, and a load's unit by the row that it reads. -/
theorem matrixEvents : Obligations.MatrixEvents := by
  unfold Obligations.MatrixEvents
  refine ⟨fun s team t x g acc len h hop hread _ hrange => ?clear, fun s team t x g acc sa sb k d h hop hread hwf hgood hrange => ?step,
    fun m d q sa sb k m0 n0 i j c ha hb => Matrix.element_of_bytes ha hb m q sa sb k m0 n0 i j c, fun s s1 team total n t x g h => ?transfer,
    fun s team t x g slot base stride k isB d hteam hgroup hg hsbuf hwins hwf hwaits _ _ => ?row⟩
  case clear =>
    have ⟨_, _, _, hgroup, _⟩ := h
    have hframe := t.mat.zero_frame t.ncores acc (1024 * len)
    refine ⟨_, _, exec_matrixStep_mzero h hread hop, State.matCompletes_of_setTeam ?_ hgroup, hframe, fun q k hk => ?_⟩
    · exact (congrArg Matrix.queue hframe :)
    · rw [Matrix.get_zero _ _ _ _ _ _ (by omega) hk, Nat.mul_add]
  case step =>
    refine ⟨_, _, _, exec_matrixStep_mma h hread hop hgood, State.matCompletes_of_step ?_ _, ?_, fun q i j hq hi hj => ?_⟩
    · rw [Matrix.step_fst]
    · rw [Matrix.step_fst]
    · exact t.mat.read_step d t.ncores acc sa sb k hwf hrange (c := (q, i, j)) (Desc.mem_allCells.2 ⟨hq, hi, hj⟩)
  case transfer =>
    dsimp only
    refine ⟨fun slot a st isB sp d hop htotal hlands => ?_, fun a st acc fmt mode sp d hop htotal hlands => ?_, fun first a sp hop hlands => ?_⟩
    · exact exec_matrixTransferLand h (by rw [MatItem.transferUnits, hop, htotal]) hlands
    · exact exec_matrixTransferLand h (by rw [MatItem.transferUnits, hop, htotal]) hlands
    · exact exec_matrixTransferLand h (by rw [MatItem.transferUnits, hop]) hlands
  case row =>
    intro per from_ key hgood
    refine ⟨_, t.mat.putSlot key (t.mem.bytes from_ 64), State.loadRow_team hteam hgroup hg hsbuf hwins hwaits hgood, ?_, rfl, fun a => ?_⟩
    · exact (s.sameBut_pump.trans (s.pump.sameBut_dropWaits _)).setTeam team _
    · exact Memory.get_write_bytes _ _ _ _ _ _ hwf

end Sys2Proof.Machine
end

section
/-! PROOFS. Runs of lane registers written in several lanes, read back register by register (R112, R483), and the entries that an event works on. -/

namespace Sys2Proof.Machine

/-! ## Words of a register run -/

/-- A register of a run that is read as one number. -/
theorem Group.readWide_word (g : Group) (l n : Nat) {w k : Nat} (hk : k < w) :
    g.readWide l n w / 2 ^ (32 * k) % 2 ^ 32 = (g.readV l (n + k)).toNat := by
  induction w generalizing n k with
  | zero => omega
  | succ w ih =>
    have hlt := (g.readV l n).isLt
    rw [Group.readWide]
    cases k with
    | zero =>
      rw [Nat.mul_zero, pow_zero, Nat.div_one, show n + 0 = n from rfl]
      omega
    | succ k =>
      have hdiv : ((g.readV l n).toNat + 2 ^ 32 * g.readWide l (n + 1) w) / 2 ^ 32 = g.readWide l (n + 1) w := by omega
      rw [show 32 * (k + 1) = 32 + 32 * k by omega, pow_add, ← Nat.div_div_eq_div_mul, hdiv, ih (n + 1) (by omega),
        show n + 1 + k = n + (k + 1) by omega]

theorem ofBytes_append (b c : List Byte) : ofBytes (b ++ c) = ofBytes b + 256 ^ b.length * ofBytes c := by
  induction b with
  | nil => simp [ofBytes]
  | cons x r ih =>
    rw [List.cons_append, ofBytes, ofBytes, ih, List.length_cons, pow_succ']
    ring

/-- The words of a block, taken back from its bytes (R6). -/
theorem ofNat_ofBytes_words (ws : List Nat) (k : Nat) :
    BitVec.ofNat 32 (ofBytes (ws.flatMap fun w => toBytes w 4) / 2 ^ (32 * k)) = BitVec.ofNat 32 (ws.getD k 0) := by
  induction ws generalizing k with
  | nil => simp [ofBytes]
  | cons w r ih =>
    have hword : ofBytes ((w :: r).flatMap fun w => toBytes w 4) = w % 2 ^ 32 + 2 ^ 32 * ofBytes (r.flatMap fun w => toBytes w 4) := by
      rw [List.flatMap_cons, ofBytes_append, ofBytes_toBytes, toBytes_length]
      norm_num
    rw [hword]
    cases k with
    | zero =>
      apply BitVec.eq_of_toNat_eq
      simp
    | succ k =>
      have hdiv : (w % 2 ^ 32 + 2 ^ 32 * ofBytes (r.flatMap fun w => toBytes w 4)) / 2 ^ 32 = ofBytes (r.flatMap fun w => toBytes w 4) := by omega
      rw [show 32 * (k + 1) = 32 + 32 * k by omega, pow_add, ← Nat.div_div_eq_div_mul, hdiv, ih, List.getD_cons_succ]

/-! ## Runs written in several lanes -/

/-- A register after a write of w consecutive registers. -/
theorem Group.readV_writeWide (g : Group) (l n w x l' n' : Nat) (h : n + w ≤ 256) (h' : n' < 256) :
    (g.writeWide l n w x).readV l' n' =
      if l = l' ∧ n ≤ n' ∧ n' < n + w then BitVec.ofNat 32 (x / 2 ^ (32 * (n' - n))) else g.readV l' n' := by
  induction w generalizing g n x with
  | zero => rw [Group.writeWide, if_neg (by omega)]
  | succ w ih =>
    rw [Group.writeWide, ih _ _ _ (by omega), Group.readV_writeV _ _ _ _ _ _ (by omega) h']
    by_cases hlater : l = l' ∧ n + 1 ≤ n' ∧ n' < n + 1 + w
    · rw [if_pos hlater, if_pos (by omega), Nat.div_div_eq_div_mul, ← pow_add, show 32 + 32 * (n' - (n + 1)) = 32 * (n' - n) by omega]
    · rw [if_neg hlater]
      by_cases hfirst : l = l' ∧ n = n'
      · obtain ⟨rfl, rfl⟩ := hfirst
        simp
      · rw [if_neg hfirst, if_neg (by omega)]

/-- In each of several lanes w registers written from f on, with the lane's x (R112). -/
def Group.writeRuns (g : Group) (ls : List Nat) (f : Nat → Nat) (w : Nat) (x : Nat → Nat) : Group :=
  ls.foldl (fun g l => g.writeWide l (f l) w (x l)) g

section
variable {f x : Nat → Nat} {w : Nat}

theorem Group.writeRuns_frame (g : Group) (ls : List Nat) : { g.writeRuns ls f w x with v := g.v, badV := g.badV } = g := by
  induction ls generalizing g with
  | nil => rfl
  | cons k r ih =>
    exact (congrArg (fun h : Group => ({ h with v := g.v, badV := g.badV } : Group)) (ih (g.writeWide k (f k) w (x k)))).trans
      (g.writeWide_frame k (f k) w (x k))

/-- Values that a write of v registers does not change may be taken before the first write. -/
theorem Group.foldl_writeWide_eq_writeRuns (g : Group) (y : Group → Nat → Nat) (hy : ∀ v bad l, y { g with v := v, badV := bad } l = y g l)
    (ls : List Nat) :
    ls.foldl (fun h l => h.writeWide l (f l) w (y h l)) g = g.writeRuns ls f w (y g) := by
  have hstep : ∀ (h : Group) (rest : List Nat), ({ h with v := g.v, badV := g.badV } : Group) = g →
      rest.foldl (fun h l => h.writeWide l (f l) w (y h l)) h = h.writeRuns rest f w (y g) := by
    intro h rest
    induction rest generalizing h with
    | nil => exact fun _ => rfl
    | cons l r ih =>
      intro hh
      have hvalue : y h l = y g l := (congrArg (y · l) (Group.eq_of_frame hh)).trans (hy h.v h.badV l)
      rw [List.foldl_cons, hvalue]
      exact ih _ ((congrArg (fun k : Group => ({ k with v := g.v, badV := g.badV } : Group)) (h.writeWide_frame l (f l) w (y g l))).trans hh)
  exact hstep g ls rfl

variable (hf : ∀ l, f l + w ≤ 256)
include hf

theorem Group.readV_writeRuns (g : Group) (ls : List Nat) (l : Nat) {n : Nat} (hn : n < 256) :
    (g.writeRuns ls f w x).readV l n =
      if l ∈ ls ∧ f l ≤ n ∧ n < f l + w then BitVec.ofNat 32 (x l / 2 ^ (32 * (n - f l))) else g.readV l n := by
  induction ls generalizing g with
  | nil => simp [Group.writeRuns]
  | cons k r ih =>
    refine (ih (g.writeWide k (f k) w (x k))).trans ?_
    rw [Group.readV_writeWide _ _ _ _ _ _ _ (hf k) hn]
    by_cases hk : k = l
    · subst hk
      by_cases hin : f k ≤ n ∧ n < f k + w <;> simp [hin]
    · simp [hk, Ne.symm hk]

/-- The run of a lane that is written, register by register. -/
theorem Group.readV_writeRuns_of_mem (g : Group) {ls : List Nat} {l k : Nat} (hl : l ∈ ls) (hk : k < w) :
    (g.writeRuns ls f w x).readV l (f l + k) = BitVec.ofNat 32 (x l / 2 ^ (32 * k)) := by
  have hfl := hf l
  rw [Group.readV_writeRuns hf g ls l (by omega), if_pos ⟨hl, by omega, by omega⟩, Nat.add_sub_cancel_left]

/-- The marks of the registers that are written are cleared, and no others (R483). -/
theorem Group.mem_badV_writeRuns (g : Group) (ls : List Nat) (l : Nat) {n : Nat} (hn : n < 256) :
    l * 256 + n ∈ (g.writeRuns ls f w x).badV ↔ l * 256 + n ∈ g.badV ∧ ¬(l ∈ ls ∧ f l ≤ n ∧ n < f l + w) := by
  induction ls generalizing g with
  | nil => simp [Group.writeRuns]
  | cons k r ih =>
    have hfk := hf k
    refine (ih (g.writeWide k (f k) w (x k))).trans ?_
    rw [Group.mem_badV_writeWide, List.mem_cons]
    by_cases hk : l = k
    · subst hk
      constructor <;> rintro ⟨hmark, hout⟩
      · exact ⟨hmark.1, by omega⟩
      · exact ⟨⟨hmark, fun hin => hout ⟨.inl rfl, by omega⟩⟩, fun hin => hout ⟨.inr hin.1, hin.2⟩⟩
    · have hout : ¬(k * 256 + f k ≤ l * 256 + n ∧ l * 256 + n < k * 256 + f k + w) := by omega
      simp [hk, hout]

end

/-! ## Entries at work -/

/-- An event works on an entry that is neither held nor uncorrectable, of a group that may act. -/
theorem withEntry_of_awake {s : State} {gid id : Nat} {g : Group} {e : Entry} (hgroup : s.groups.get? gid = some g) (hawake : s.awake g = true)
    (hfind : g.entries.find? (fun e => e.id == id) = some e) (hbook : e.book = false) (hstate : e.state ≠ .faulted) (hbad : e.bad = false) (a : Act)
    (k : Group → Entry → Result) : withEntry gid id a s k = k g e := by
  have hgoing : s.going g = true := (Bool.and_eq_true_iff.1 hawake).1
  unfold withEntry wake
  rw [hgroup]
  simp [hgoing, hfind, hbad, Entry.workable, hbook, hstate]

end Sys2Proof.Machine
end

section
/-! PROOFS. The traversal instructions at issue, what each makes of a query, and the completion that writes the blocks (R288, R291, R292, R294). -/

namespace Sys2Proof.Machine

/-! ## Queries (R287, R288, R291, R292) -/

namespace Query

variable (q : Query) (ray : List Nat) (flags mask root : Nat) {h : Hit}

/-- Settling a query leaves its best hit. -/
theorem settle_best : q.settle.best = q.best := by
  unfold settle
  split <;> rfl

/-- Settling ends a walk that has nothing left; the entries on the stack are as before. -/
theorem settle_stack : q.settle.stack = q.stack := by
  unfold settle
  split
  · next hdone => exact hdone.2.symm
  · rfl

theorem block_finish : q.finish.block = match q.best with
    | some b => b.block 1
    | none => emptyBlock 0 := by
  obtain ⟨state, ray, flags, mask, best, cand, stack⟩ := q
  cases best <;> rfl

theorem start_of_void (hvoid : rayVoid ray = true) : (start ray flags mask root false).state = .done 0 := by
  simp [start, hvoid, endWith]

theorem start_of_ray (hvoid : rayVoid ray = false) : (start ray flags mask root false).stack = [.node root 1 none] := by
  simp [start, hvoid]

/-- A query that has ended stays as it is, whatever goes on with it. -/
theorem go_of_done {status : Nat} (k : TravKind) (hstate : q.state = .done status) : q.go k false = q := by
  unfold go
  simp [hstate]

section
variable {q} (hstate : q.state = .cand)
include hstate

theorem block_of_cand (hcand : q.cand = some h) : q.block = h.block 2 := by
  unfold block
  simp [hstate, hcand]

theorem go_accept : q.go .accept false =
    if bit q.flags 4 then { q with best := q.cand, cand := none, state := .done 1, stack := [] }
    else ({ q with best := q.cand, cand := none, state := .active } : Query).settle := by
  unfold go
  simp only [hstate]
  rfl

theorem go_next : q.go .next false = ({ q with cand := none, state := .active } : Query).settle := by
  unfold go
  simp only [hstate]
  rfl

theorem go_hit : q.go .hit false = q.finish := by
  unfold go
  simp only [hstate]
  rfl

/-- An accepted candidate is the best hit, and under FIRST the result (R287, R288). -/
theorem go_accept_spec (hcand : q.cand = some h) :
    (q.go .accept false).best = some h ∧ (bit q.flags 4 = true → (q.go .accept false).block = h.block 1) := by
  rw [go_accept hstate]
  by_cases hfirst : bit q.flags 4 = true
  · rw [if_pos hfirst, hcand]
    exact ⟨rfl, fun _ => rfl⟩
  · rw [if_neg hfirst, settle_best]
    exact ⟨hcand, fun h => absurd h hfirst⟩

end

end Query

/-! ## The queries that an instruction begins or goes on with -/

theorem Group.query_foldl_set (g : Group) (f : Nat → Query) (ls : List Nat) (l : Nat) :
    ({ g with queries := ls.foldl (fun m l => m.set l (f l)) g.queries } : Group).query l = if l ∈ ls then f l else g.query l := by
  unfold Group.query
  rw [Map.getD_eq, Map.get?_foldl_set ls (fun l => l) f g.queries l (f l) (fun u _ hu => by rw [hu]), List.map_id', Map.getD_eq]
  split <;> rfl

theorem Group.query_beginWalk_trace (g : Group) (e : Entry) (l : Nat) :
    (g.beginWalk e .trace).query l = if l ∈ lanesOf e.mask
      then Query.start (e.ray l) (traceParams e.instr).1 (traceParams e.instr).2 (e.uops.getD 2 0).toNat (g.help.getLsbD l) else g.query l :=
  g.query_foldl_set _ (lanesOf e.mask) l

theorem Group.query_beginWalk_go (g : Group) (e : Entry) {k : TravKind} (hk : k ≠ .trace) (l : Nat) :
    (g.beginWalk e k).query l = if l ∈ lanesOf e.mask then (g.query l).go k (g.help.getLsbD l) else g.query l := by
  refine (g.query_foldl_set _ (lanesOf e.mask) l).trans ?_
  cases k <;> first | exact absurd rfl hk | rfl

/-! ## Issue (R288, R294) -/

/-- The entry of a traversal instruction once it has started. -/
def Entry.walking (e : Entry) (d : BitVec 7) (act : BitVec 64) (k : TravKind) : Entry :=
  { e with
    counter := .lds, dreg := (lanesOf act).map (fun l => (l, d.toNat)), dsts := vKeys d.toNat 8, width := 8
    ranges := if k = .hit then [] else [anyGlobal] }

/-- The entry of a trace, with the ray block and the root that it captures. -/
def State.traceEntry (s : State) (i : Instr) (g : Group) (pc : W64) (act : BitVec 64) (a root : BitVec 7) : Entry :=
  { Entry.blank i (Issue.mk i s.focus g pc 0 8).words pc act s.nextId with
    uops := [0, 0, g.readS root.toNat, 0]
    opa := g.captureV (lanesOf act) a.toNat 4
    opb := g.captureV (lanesOf act) (a.toNat + 4) 4 }

/-- A lane's captured run of four registers, word by word. -/
theorem Group.fieldAt_captureV (g : Group) {l k : Nat} {ls : List Nat} (hl : l ∈ ls) (n : Nat) (hk : k < 4) :
    fieldAt (Map.getD (g.captureV ls n 4) l 0).toNat (4 * k) 4 = (g.readV l (n + k)).toNat := by
  have hlt : g.readWide l n 4 < 2 ^ 128 := g.readWide_lt l n 4
  rw [Group.getD_captureV g hl, BitVec.toNat_ofNat, Nat.mod_eq_of_lt hlt, ← g.readWide_word l n hk, fieldAt, pow_mul, pow_mul]
  rfl

theorem State.ray_traceEntry (s : State) (i : Instr) (g : Group) (pc : W64) {act : BitVec 64} (a root : BitVec 7) {l : Nat} (hl : l ∈ lanesOf act) :
    (s.traceEntry i g pc act a root).ray l = (List.range 8).map fun k => (g.readV l (a.toNat + k)).toNat := by
  rw [show List.range 8 = List.range 4 ++ (List.range 4).map (4 + ·) from rfl, List.map_append, List.map_map]
  refine congrArg₂ (· ++ ·) (List.map_congr_left fun k hk => ?_) (List.map_congr_left fun k hk => ?_)
  · exact g.fieldAt_captureV hl a.toNat (List.mem_range.1 hk)
  · rw [Function.comp_apply, ← Nat.add_assoc]
    exact g.fieldAt_captureV hl (a.toNat + 4) (List.mem_range.1 hk)

theorem Group.place_beginWalk (g : Group) (e : Entry) (k : TravKind) (run : BitVec 64) (targets : List (W64 × BitVec 64)) :
    (g.place run targets).beginWalk e k = (g.beginWalk e k).place run targets := by
  unfold Group.place
  cases h : g.gang <;> simp only [Group.beginWalk, h] <;> rfl

section
variable {s : State} {g : Group} {t : Team} {pc : W64} {run : BitVec 64} {i : Instr} {e : Entry} {d a root : BitVec 7} {rmask : BitVec 8}
  {flags : BitVec 5} {hint : BitVec 2} {act : BitVec 64} {k : TravKind} {gd : Guard}

/-- A traversal instruction that nothing holds back starts: its queries are begun or gone on with, and its completion is pending. -/
theorem Issue.startTrav_starts (hlds : g.lds < 255) (hwalks : g.walksIn act = false) (hacq : k = .hit ∨ g.acquiring = false)
    (hfresh : .traversalComplete s.focus e.id ∉ s.work) :
    (Issue.mk i s.focus g pc run 8).startTrav s e d act k =
      .next (({ s with nextId := s.nextId + 1, work := s.work ++ [.traversalComplete s.focus e.id] } : State).setGroup s.focus
        { ((g.beginWalk (e.walking d act k) k).place run [(pc + 8, run)]) with entries := g.entries ++ [e.walking d act k], lds := g.lds + 1 }) := by
  have hroom : ¬((decide (255 ≤ g.lds) || g.walksIn act) = true) := by simp [hlds, hwalks]
  have hfree : ¬((!(k == .hit) && g.acquiring) = true) := by rcases hacq with rfl | hacq <;> simp_all
  obtain ⟨p, q, hp⟩ := (g.beginWalk (e.walking d act k) k).place_exists run [(pc + 8, run)]
  have hbegun : ((Issue.mk i s.focus g pc run 8).advance g).beginWalk (e.walking d act k) k =
      { g.beginWalk (e.walking d act k) k with table := p, table1 := q } := (g.place_beginWalk ..).trans hp
  unfold Issue.startTrav
  refine (if_neg hroom).trans ((if_neg hfree).trans ?_)
  refine congrArg _ ((State.push_of_not_mem (by exact hfresh)).trans ?_)
  rw [hp]
  exact congrArg (fun h : Group => ({ s with nextId := s.nextId + 1, work := s.work ++ [.traversalComplete s.focus e.id] } : State).setGroup s.focus
    { h with entries := h.entries ++ [e.walking d act k], lds := h.lds + 1 }) hbegun

/-- A walk that another traversal instruction is still to go on with makes it wait (R288). -/
theorem Issue.startTrav_waits (hwalks : g.walksIn act = true) :
    (Issue.mk i s.focus g pc run 8).startTrav s e d act k = .next { s with stalled := true } := by
  unfold Issue.startTrav
  exact if_pos (by simp [hwalks])

/-- trace at issue, once its registers are in the budget, free and correct (R294). -/
theorem exec_trace (h : s.Issues g t pc run) (hd : d.toNat + 8 ≤ g.lbud) (ha : a.toNat + 8 ≤ g.lbud) (hroot : root.toNat < g.ubud)
    (hwords : g.badWords (g.active run gd) (vKeys a.toNat 8 ++ [sKey root.toNat]) = false)
    (hblocked : g.blocked (vKeys a.toNat 8 ++ [sKey root.toNat] ++ vKeys d.toNat 8) = false) :
    exec (.trace d a root rmask flags hint gd) s =
      let i := Instr.trace d a root rmask flags hint gd
      let top := (g.readS root.toNat).toNat
      if !(top % 128 == 0) then s.traps i 8 g pc run 0x03 []
      else if !canonical top then s.traps i 8 g pc run 0x04 []
      else if g.active run gd = 0 then s.moves g pc 8 run
      else (Issue.mk i s.focus g pc run 8).startTrav s (s.traceEntry i g pc (g.active run gd) a root) d (g.active run gd) .trace := by
  change execTrace d a root rmask flags hint gd s = _
  unfold execTrace
  rw [withIssue_issues h _ _ _ rfl]
  refine (if_neg (by simp [hd, ha, hroot])).trans ((if_neg (Bool.eq_false_iff.1 hblocked)).trans (if_neg (Bool.eq_false_iff.1 hwords)))

/-- trnext, traccept and trhit at issue, once their registers are in the budget and free (R288). -/
theorem exec_travOp (hi : (i = .trnext d gd ∧ k = .next) ∨ (i = .traccept d gd ∧ k = .accept) ∨ (i = .trhit d gd ∧ k = .hit))
    (h : s.Issues g t pc run) (hd : d.toNat + 8 ≤ g.lbud) (hblocked : g.blocked (vKeys d.toNat 8) = false) :
    exec i s = if g.active run gd = 0 then s.moves g pc 8 run
      else (Issue.mk i s.focus g pc run 8).startTrav s (Entry.blank i (Issue.mk i s.focus g pc run 8).words pc (g.active run gd) s.nextId)
        d (g.active run gd) k := by
  have hexec : exec i s = travOp i k d gd s ∧ usesB0 i = false := by
    rcases hi with ⟨rfl, rfl⟩ | ⟨rfl, rfl⟩ | ⟨rfl, rfl⟩ <;> exact ⟨rfl, rfl⟩
  rw [hexec.1, travOp, withIssue_issues h _ _ _ hexec.2]
  exact (if_neg (by simpa using hd)).trans (if_neg (by simp [hblocked]))

end

/-! ## The completion (R294) -/

section
variable {s : State} {gid id : Nat} {g : Group} {e : Entry}

/-- Where no lane of the entry still walks, the blocks are written and the entry is retired. -/
theorem State.performWalk_of_settled (hsettled : ∀ l ∈ lanesOf e.mask, (g.query l).state ≠ .active) :
    s.performWalk gid g e = s.setGroup gid ((g.writeBlocks e).retire e) := by
  have hnone : g.walking e = [] := by
    refine List.filter_eq_nil_iff.2 fun x hx => ?_
    obtain ⟨l, hl, rfl⟩ := List.mem_map.1 hx
    simpa using hsettled l hl
  unfold State.performWalk
  simp only [hnone, List.foldl_nil]
  exact s.setGroup_setGroup gid g _

/-- The bytes of a query's block, as one number. -/
def Query.blockBits (q : Query) : Nat := ofBytes (q.block.flatMap fun w => toBytes w 4)

theorem Group.writeBlocks_eq (g : Group) (e : Entry) :
    g.writeBlocks e = g.writeRuns (lanesOf (e.mask &&& g.live)) (fun l => e.dreg.getD l 0) 8 fun l => (g.query l).blockBits :=
  g.foldl_writeWide_eq_writeRuns (fun h l => (h.query l).blockBits) (fun _ _ _ => rfl) _

theorem exec_traversalComplete (hgroup : s.groups.get? gid = some g) (hawake : s.awake g = true)
    (hfind : g.entries.find? (fun e => e.id == id) = some e) (hbook : e.book = false) (hstate : e.state ≠ .faulted) (hbad : e.bad = false)
    (hkind : (travKind e.instr).isSome = true) (hsettled : ∀ l ∈ lanesOf e.mask, (g.query l).state ≠ .active) :
    exec (.traversalComplete gid id) s = .next (s.setGroup gid ((g.writeBlocks e).retire e)) := by
  change execTraversalComplete gid id s = _
  unfold execTraversalComplete
  rw [withEntry_of_awake hgroup hawake hfind hbook hstate hbad, if_pos hkind, State.performWalk_of_settled hsettled]

end

/-- Settles O36: the issues by their checks in turn; the completion by the runs that it writes; the rest by the cases of a query's state. -/
theorem traversalQueries : Obligations.TraversalQueries := by
  unfold Obligations.TraversalQueries
  refine ⟨?trace, ?goesOn, ?complete,
    fun ray flags mask root => ⟨rfl, Query.start_of_void ray flags mask root, Query.start_of_ray ray flags mask root⟩,
    fun q k _ => ⟨rfl, rfl, fun st hst => by rw [q.go_of_done k hst], fun h hstate hcand => ⟨Query.block_of_cand hstate hcand, ?_, ?_, ?_⟩⟩⟩
  case trace =>
    intro s g t pc run d a root rmask flags hint gd h hd ha hroot
    dsimp only
    intro hwords hblocked
    rw [exec_trace h hd ha hroot hwords hblocked]
    refine ⟨fun halign => if_pos (by simpa using halign), fun halign hcanon => ?_, fun halign hcanon hact => ?_,
      fun hact halign hcanon hlds hacq hwalks hfresh => ?_⟩
    · rw [if_neg (by simpa using halign), if_pos (by simpa using hcanon)]
    · rw [if_neg (by simpa using halign), if_neg (by simpa using hcanon), if_pos hact]
    · refine ⟨_, _, (if_neg (by simpa using halign)).trans ((if_neg (by simpa using hcanon)).trans ((if_neg hact).trans
        (Issue.startTrav_starts hlds hwalks (.inr hacq) hfresh))), rfl, rfl, rfl, rfl, rfl, fun l => ?_⟩
      rw [Group.query_beginWalk_trace]
      refine if_ctx_congr Iff.rfl (fun hl => ?_) fun _ => rfl
      exact congrArg (Query.start · flags.toNat rmask.toNat (g.readS root.toNat).toNat (g.help.getLsbD l))
        (s.ray_traceEntry (.trace d a root rmask flags hint gd) g pc a root hl)
  case goesOn =>
    intro s i g t pc run d gd k hi h hd hblocked
    dsimp only
    have hk : k ≠ .trace := by rcases hi with ⟨-, rfl⟩ | ⟨-, rfl⟩ | ⟨-, rfl⟩ <;> decide
    rw [exec_travOp hi h hd hblocked]
    refine ⟨fun hact => if_pos hact, fun hact hwalks => (if_neg hact).trans (Issue.startTrav_waits hwalks),
      fun hact hlds hwalks hacq hfresh => ?_⟩
    exact ⟨_, _, (if_neg hact).trans (Issue.startTrav_starts hlds hwalks hacq hfresh), rfl, rfl, rfl, rfl, rfl,
      fun l => g.query_beginWalk_go _ hk l⟩
  case complete =>
    intro s gid id g e hgroup hawake hfind hbook hstate hbad hkind hsettled hdst
    refine ⟨_, exec_traversalComplete hgroup hawake hfind hbook hstate hbad hkind hsettled, fun l k hl hk => ?_,
      fun l n hn hout => ?_, fun l n hn => ?_, ?_⟩
    · rw [Group.readV_retire, Group.writeBlocks_eq, Group.readV_writeRuns_of_mem hdst g hl hk, Query.blockBits, ofNat_ofBytes_words]
    · rw [Group.readV_retire, Group.writeBlocks_eq, Group.readV_writeRuns hdst g _ l hn, if_neg hout]
    · rw [Group.badV_retire, Group.writeBlocks_eq, Group.mem_badV_writeRuns hdst g _ l hn]
    · exact Group.retire_frame (g.writeBlocks_eq e ▸ g.writeRuns_frame _) e
  · rintro rfl
    exact Query.go_accept_spec hstate hcand
  · rintro rfl
    rw [Query.go_next hstate, Query.settle_best, Query.settle_stack]
    exact ⟨rfl, rfl⟩
  · rintro rfl
    rw [Query.go_hit hstate]
    exact q.block_finish

end Sys2Proof.Machine
end

section
/-! PROOFS. Camera rays: camray at issue, and the ray blocks that its descriptor gives (R297, R298). -/

namespace Sys2Proof.Machine

/-! ## Issue (R298) -/

/-- The entry of a camray, with the tile word and the descriptor's address that it captures. -/
def State.camrayEntry (s : State) (i : Instr) (g : Group) (pc : W64) (act : BitVec 64) (d tile desc : BitVec 7) (jit : Bool) : Entry :=
  { Entry.blank i (Issue.mk i s.focus g pc 0 8).words pc act s.nextId with
    counter := .lds
    uops := [0, g.readS tile.toNat, g.readS desc.toNat, 0]
    dreg := (lanesOf act).map (fun l => (l, d.toNat))
    dsts := vKeys d.toNat 8 ++ (if jit then [drawKey] else [])
    width := 8
    ranges := [(.glob, (g.readS desc.toNat).toNat, 64)] }

section
variable {s : State} {g : Group} {t : Team} {pc : W64} {run : BitVec 64} {d tile desc : BitVec 7} {jit : Bool} {hint : BitVec 2} {gd : Guard}

/-- camray at issue, once its registers are in the budget, free and correct. -/
theorem exec_camray (h : s.Issues g t pc run) (hd : d.toNat + 8 ≤ g.lbud) (htile : tile.toNat < g.ubud) (hdesc : desc.toNat < g.ubud)
    (hwords : g.badWords (g.active run gd) ([sKey tile.toNat, sKey desc.toNat] ++ (if jit then [drawKey] else [])) = false)
    (hblocked : g.blocked ([sKey tile.toNat, sKey desc.toNat] ++ vKeys d.toNat 8 ++ (if jit then [drawKey] else [])) = false) :
    exec (.camray d tile desc jit hint gd) s =
      let i := Instr.camray d tile desc jit hint gd
      let a := (g.readS desc.toNat).toNat
      let e := s.camrayEntry i g pc (g.active run gd) d tile desc jit
      if !(a % 64 == 0) then s.traps i 8 g pc run 0x03 []
      else if !canonical a then s.traps i 8 g pc run 0x04 []
      else if g.active run gd = 0 then s.moves g pc 8 run
      else if 255 ≤ g.lds then s.hold
      else if g.acquiring || g.overlaps [(.glob, a, 64)] then s.hold
      else .next ((({ s with nextId := s.nextId + 1 } : State).setGroup s.focus
        { (g.place run [(pc + 8, run)]) with entries := g.entries ++ [e], lds := g.lds + 1 }).push (.camrayArrival s.focus e.id)) := by
  obtain ⟨p, q, hp⟩ := g.place_exists run [(pc + 8, run)]
  have hadvance : (Issue.mk (.camray d tile desc jit hint gd) s.focus g pc run 8).advance g = g.place run [(pc + 8, run)] := rfl
  change execCamray d tile desc jit hint gd s = _
  unfold execCamray
  rw [withIssue_issues h _ _ _ rfl]
  refine (if_neg (by simp [hd, htile, hdesc])).trans ((if_neg (Bool.eq_false_iff.1 hblocked)).trans ((if_neg (Bool.eq_false_iff.1 hwords)).trans ?_))
  simp only [hadvance, hp]
  rfl

/-- Only a jittered camray will still draw (R133). -/
theorem drawKey_mem_camrayEntry (i : Instr) (act : BitVec 64) : drawKey ∈ (s.camrayEntry i g pc act d tile desc jit).dsts ↔ jit = true := by
  have hlow : drawKey ∉ vKeys d.toNat 8 := by
    have hd := d.isLt
    simp only [vKeys, drawKey, List.mem_map, List.mem_range, not_exists, not_and]
    omega
  cases jit <;> simp [State.camrayEntry, hlow]

end

/-! ## Flags beside the lanes' registers -/

theorem Group.raiseFlags_append (g : Group) (a b : List Flags) : (g.raiseFlags a).raiseFlags b = g.raiseFlags (a ++ b) := by
  simp [Group.raiseFlags, List.foldl_append]

theorem Group.writeWide_raiseFlags (g : Group) (fl : List Flags) (l n w x : Nat) :
    (g.raiseFlags fl).writeWide l n w x = (g.writeWide l n w x).raiseFlags fl := by
  induction w generalizing g n x with
  | zero => rfl
  | succ w ih => exact ih (g.writeV l n (BitVec.ofNat 32 x)) (n + 1) (x / 2 ^ 32)

theorem Group.writeRuns_raiseFlags (g : Group) (fl : List Flags) (ls : List Nat) (f : Nat → Nat) (w : Nat) (x : Nat → Nat) :
    (g.raiseFlags fl).writeRuns ls f w x = (g.writeRuns ls f w x).raiseFlags fl := by
  induction ls generalizing g with
  | nil => rfl
  | cons k r ih => exact (congrArg (·.writeRuns r f w x) (g.writeWide_raiseFlags fl k (f k) w (x k))).trans (ih _)

theorem Group.retire_raiseFlags (g : Group) (fl : List Flags) (e : Entry) : (g.raiseFlags fl).retire e = (g.retire e).raiseFlags fl := by
  unfold Group.retire Group.countDown
  cases e.counter <;> rfl

theorem Group.flags_retire (g : Group) (e : Entry) : (g.retire e).flags = g.flags := by
  unfold Group.retire Group.countDown
  cases e.counter <;> rfl

/-! ## The rays (R297, R298) -/

theorem lanesOf_filter (m n : BitVec 64) : (lanesOf m).filter (fun l => n.getLsbD l) = lanesOf (m &&& n) := by
  simp only [lanesOf, List.filter_filter, BitVec.getLsbD_and, Bool.and_comm]

/-- The ray of a lane through the centre of its pixel, and its flags. -/
def Group.camRay (g : Group) (e : Entry) (x l : Nat) : List Nat × Flags :=
  let tile := (e.uops.getD 1 0).toNat
  camBlock x (bits tile 15 0 + g.laneNumber l % 8) (bits tile 31 16 + g.laneNumber l / 8) (2 ^ 31) (2 ^ 31)

/-- The bytes of a lane's ray block, as one number. -/
def Group.camRayBits (g : Group) (e : Entry) (x l : Nat) : Nat := ofBytes ((g.camRay e x l).1.flatMap fun w => toBytes w 4)

theorem Group.camRay_congr {g h : Group} (hgang : h.gang = g.gang) (e : Entry) (x : Nat) : h.camRay e x = g.camRay e x := by
  funext l
  rw [Group.camRay, Group.camRay, Group.laneNumber, Group.laneNumber, hgang]

/-- Without jitter a lane's block is written where the lane has not exited, and its flags are raised. -/
theorem Group.camLane_eq (g : Group) (e : Entry) (x k : Nat) :
    Group.camLane e false x g k =
      (g.writeRuns ([k].filter fun l => g.live.getLsbD l) (fun l => e.dreg.getD l 0) 8 (g.camRayBits e x)).raiseFlags [(g.camRay e x k).2] := by
  unfold Group.camLane
  cases hk : g.live.getLsbD k <;> simp only [List.filter_cons, List.filter_nil, hk] <;> rfl

theorem Group.camLane_live (g : Group) (e : Entry) (x k : Nat) : (Group.camLane e false x g k).live = g.live := by
  rw [Group.camLane_eq, Group.eq_of_frame (g.writeRuns_frame _)]
  rfl

theorem Group.camLane_gang (g : Group) (e : Entry) (x k : Nat) : (Group.camLane e false x g k).gang = g.gang := by
  rw [Group.camLane_eq, Group.eq_of_frame (g.writeRuns_frame _)]
  rfl

theorem Group.writeRuns_append (g : Group) (ls r : List Nat) (f : Nat → Nat) (w : Nat) (x : Nat → Nat) :
    (g.writeRuns ls f w x).writeRuns r f w x = g.writeRuns (ls ++ r) f w x := by
  rw [Group.writeRuns, Group.writeRuns, Group.writeRuns, List.foldl_append]

/-- The lanes of a camray without jitter, one after another. -/
theorem Group.foldl_camLane (g : Group) (e : Entry) (x : Nat) (ls : List Nat) :
    ls.foldl (Group.camLane e false x) g =
      (g.writeRuns (ls.filter fun l => g.live.getLsbD l) (fun l => e.dreg.getD l 0) 8 (g.camRayBits e x)).raiseFlags
        (ls.map fun l => (g.camRay e x l).2) := by
  induction ls generalizing g with
  | nil => rfl
  | cons k r ih =>
    have hray := Group.camRay_congr (g.camLane_gang e x k) e x
    have hbits : (Group.camLane e false x g k).camRayBits e x = g.camRayBits e x := funext fun l => by
      rw [Group.camRayBits, hray, Group.camRayBits]
    rw [List.foldl_cons, ih, g.camLane_live, hbits, hray, g.camLane_eq, Group.writeRuns_raiseFlags, Group.raiseFlags_append, Group.writeRuns_append,
      ← List.filter_append]
    rfl

section
variable {s s1 : State} {gid id : Nat} {g : Group} {e : Entry} {d tile desc : BitVec 7} {hint : BitVec 2} {gd : Guard} {l : List (Req × List Byte)}

/-- A descriptor that has arrived, with its reserved field 0, gives the rays of a camray without jitter. -/
theorem exec_camrayDescriptorArrival (hgroup : s.groups.get? gid = some g) (hawake : s.awake g = true)
    (hfind : g.entries.find? (fun e => e.id == id) = some e) (hbook : e.book = false) (hstate : e.state ≠ .faulted) (hbad : e.bad = false)
    (hinstr : e.instr = .camray d tile desc false hint gd)
    (hread : s.readAll g (.entry gid e.id) .read (piecesOf ((lanesOf e.mask).headD 0) (e.uops.getD 2 0).toNat 64) = .ok s1 l)
    (hgroup1 : s1.groups.get? gid = some g) (hreserved : fieldAt (ofBytes (l.flatMap fun r => r.2)) 0x3C 4 = 0) :
    exec (.camrayDescriptorArrival gid id) s =
      .next (s1.setGroup gid (((lanesOf e.mask).foldl (Group.camLane e false (ofBytes (l.flatMap fun r => r.2))) g).retire e)) := by
  change execCamrayDescriptorArrival gid id s = _
  unfold execCamrayDescriptorArrival
  rw [withEntry_of_awake hgroup hawake hfind hbook hstate hbad, hinstr]
  simp only [camJit, State.performCamray, Entry.owner, hread, hreserved, hgroup1]
  rfl

end

/-- Settles O37: the issue by its checks in turn; the rays by the runs that they are written to, beside the flags that they raise. -/
theorem cameraRays : Obligations.CameraRays := by
  unfold Obligations.CameraRays
  refine ⟨?issue, ?rays⟩
  case issue =>
    intro s g t pc run d tile desc jit hint gd h hd htile hdesc
    dsimp only
    intro hwords hblocked
    rw [exec_camray h hd htile hdesc hwords hblocked]
    refine ⟨fun halign => if_pos (by simpa using halign), fun halign hcanon => ?_, fun halign hcanon hact => ?_,
      fun hact halign hcanon hlds hacq hover hfresh => ?_⟩
    · rw [if_neg (by simpa using halign), if_pos (by simpa using hcanon)]
    · rw [if_neg (by simpa using halign), if_neg (by simpa using hcanon), if_pos hact]
    · refine ⟨s.camrayEntry _ g pc (g.active run gd) d tile desc jit, ?_, rfl, rfl, rfl, rfl, drawKey_mem_camrayEntry _ _⟩
      rw [if_neg (by simpa using halign), if_neg (by simpa using hcanon), if_neg hact, if_neg (by omega), if_neg (by simp [hacq, hover])]
      exact congrArg _ (State.push_of_not_mem hfresh)
  case rays =>
    intro s s1 gid id g e d tile desc hint gd l hgroup hawake hfind hbook hstate hbad hinstr hdst hread hgroup1
    dsimp only
    intro hreserved
    have hexec := exec_camrayDescriptorArrival hgroup hawake hfind hbook hstate hbad hinstr hread hgroup1 hreserved
    generalize ofBytes (l.flatMap fun r => r.2) = x at hexec ⊢
    rw [Group.foldl_camLane, lanesOf_filter, Group.retire_raiseFlags] at hexec
    have hframe := Group.retire_frame (g.writeRuns_frame (f := fun l => e.dreg.getD l 0) (w := 8) (x := g.camRayBits e x)
      (lanesOf (e.mask &&& g.live))) e
    refine ⟨_, hexec, fun l k hl hk => ?_, fun l n hn hout => ?_, fun l n hn => ?_, ?_⟩
    · refine (Group.readV_retire _ e l _).trans ?_
      rw [Group.readV_writeRuns_of_mem hdst g hl hk, Group.camRayBits, ofNat_ofBytes_words]
      rfl
    · refine (Group.readV_retire _ e l n).trans ?_
      rw [Group.readV_writeRuns hdst g _ l hn, if_neg hout]
    · refine (iff_of_eq (congrArg (l * 256 + n ∈ ·) (Group.badV_retire _ e))).trans ?_
      exact Group.mem_badV_writeRuns hdst g _ l hn
    · rw [← Group.flags_retire g e]
      exact congrArg (fun k : Group => ({ k with flags := (g.retire e).flags } : Group)) hframe

end Sys2Proof.Machine
end

section
/-! PROOFS. The reservoir instructions: each lane acts on its own registers (R120, R217, R301 to R305). -/

namespace Sys2Proof.Machine

/-! ## Lanes that act one after another, each on its own state -/

section
variable {σ α β : Type} {view : σ → Nat → α} {step : σ → Nat → σ}

/-- Where a step changes its own lane only, and by what that lane holds, each lane is in the end as one step of its own makes it. -/
theorem foldl_lanes (hother : ∀ s k l, k ≠ l → view (step s k) l = view s l)
    (hown : ∀ s t l, view s l = view t l → view (step s l) l = view (step t l) l)
    {ls : List Nat} (hls : ls.Nodup) (s : σ) (l : Nat) : view (ls.foldl step s) l = if l ∈ ls then view (step s l) l else view s l := by
  induction ls generalizing s with
  | nil => simp
  | cons k r ih =>
    obtain ⟨hk, hr⟩ := List.nodup_cons.1 hls
    rw [List.foldl_cons, ih hr]
    by_cases hkl : k = l
    · subst hkl
      rw [if_neg hk, if_pos List.mem_cons_self]
    · have hmem : l ∈ k :: r ↔ l ∈ r := by simp [Ne.symm hkl]
      exact if_ctx_congr hmem.symm (fun _ => hown _ _ l (hother s k l hkl)) fun _ => hother s k l hkl

/-- What the steps gather beside the lanes, each by what its lane holds. -/
theorem foldl_lanes_gather (hother : ∀ s k l, k ≠ l → view (step s k) l = view s l)
    {acc : σ → β} {add : β → β → β} {part : σ → Nat → β}
    (hacc : ∀ s l, acc (step s l) = add (acc s) (part s l)) (hpart : ∀ s t l, view s l = view t l → part s l = part t l)
    {ls : List Nat} (hls : ls.Nodup) (s : σ) : acc (ls.foldl step s) = (ls.map (part s)).foldl add (acc s) := by
  induction ls generalizing s with
  | nil => rfl
  | cons k r ih =>
    obtain ⟨hk, hr⟩ := List.nodup_cons.1 hls
    have hrest : r.map (part (step s k)) = r.map (part s) :=
      List.map_congr_left fun l hl => hpart _ _ l (hother s k l fun hkl => hk (hkl ▸ hl))
    rw [List.foldl_cons, ih hr, hrest, hacc, List.map_cons, List.foldl_cons]

/-- What every step keeps, all of them keep. -/
theorem foldl_keeps {keep : σ → β} (hstep : ∀ s l, keep (step s l) = keep s) (ls : List Nat) (s : σ) : keep (ls.foldl step s) = keep s := by
  induction ls generalizing s with
  | nil => rfl
  | cons k r ih => rw [List.foldl_cons, ih, hstep]

end

/-! ## What a lane holds (R112, R120, R131, R133) -/

/-- A lane's v and w registers, the marks on their words, and what its draws are made of. -/
@[ext] structure LaneView where
  v : Fin 256 → W32
  badV : Fin 256 → Prop
  w : Fin 8 → BitVec 192
  badW : Fin 48 → Prop
  key : BitVec 128
  stream : W64
  counter : W64

namespace LaneView

/-- The value of the lane's next draw. -/
def draw (a : LaneView) : Nat := (drawValue a.key a.stream a.counter).toNat

/-- The lane after its draw, if the instruction draws. -/
def drawn (draws : Bool) (a : LaneView) : LaneView := { a with counter := a.counter + (if draws then 1 else 0) }

/-- The lane with a w register written, of which some words lose their marks. -/
def putW (a : LaneView) (n : Nat) (x : BitVec 192) (words : List Nat) : LaneView :=
  { a with
    w := fun m => if n = m then x else a.w m
    badW := fun k => a.badW k ∧ ¬((k : Nat) / 6 = n ∧ (k : Nat) % 6 ∈ words) }

/-- The lane with a v register written. -/
def putV (a : LaneView) (n : Nat) (x : W32) : LaneView :=
  { a with
    v := fun m => if n = m then x else a.v m
    badV := fun k => a.badV k ∧ n ≠ k }

theorem badW_putW (a : LaneView) (n : Nat) (x : BitVec 192) (words : List Nat) (k : Nat) :
    (a.putW n x words).badW ⟨k % 48, Nat.mod_lt _ (by decide)⟩ ↔
      a.badW ⟨k % 48, Nat.mod_lt _ (by decide)⟩ ∧ ¬(k / 6 % 8 = n ∧ k % 6 ∈ words) := by
  have hregister : k % 48 / 6 = k / 6 % 8 := by omega
  have hword : k % 48 % 6 = k % 6 := by omega
  rw [← hregister, ← hword]
  rfl

end LaneView

def Group.lane (g : Group) (l : Nat) : LaneView where
  v n := g.readV l n
  badV n := l * 256 + n ∈ g.badV
  w n := g.readW l n
  badW k := l * 48 + k ∈ g.badW
  key := g.key
  stream := g.stream.getD l 0
  counter := g.counter.getD l 0

theorem Group.mem_badW_iff_lane (g : Group) (k : Nat) : k ∈ g.badW ↔ (g.lane (k / 48)).badW ⟨k % 48, Nat.mod_lt _ (by decide)⟩ := by
  change _ ↔ k / 48 * 48 + k % 48 ∈ g.badW
  rw [Nat.div_add_mod']

theorem Group.readW_writeWords (g : Group) (l l' : Nat) {n n' : Nat} (x : BitVec 192) (words : List Nat) (hn : n < 8) (hn' : n' < 8) :
    (g.writeWords l n x words).readW l' n' = if l = l' ∧ n = n' then x else g.readW l' n' := by
  unfold Group.writeWords Group.readW
  simp only [Map.get?_set]
  by_cases hk : l * 8 + n = l' * 8 + n'
  · have : l = l' ∧ n = n' := by omega
    simp [this]
  · have : ¬(l = l' ∧ n = n') := by rintro ⟨rfl, rfl⟩; exact hk rfl
    simp [hk, this]

theorem Group.mem_badW_writeWords (g : Group) (l l' : Nat) {n k : Nat} (x : BitVec 192) {words : List Nat} (hn : n < 8)
    (hwords : ∀ j ∈ words, j < 6) (hk : k < 48) :
    l' * 48 + k ∈ (g.writeWords l n x words).badW ↔ l' * 48 + k ∈ g.badW ∧ ¬(l = l' ∧ k / 6 = n ∧ k % 6 ∈ words) := by
  have hword : (∃ j ∈ words, l' * 48 + k = 6 * (l * 8 + n) + j) ↔ l = l' ∧ k / 6 = n ∧ k % 6 ∈ words := by
    constructor
    · rintro ⟨j, hj, hkey⟩
      have hlt := hwords j hj
      obtain ⟨h1, h2, h3⟩ : l = l' ∧ k / 6 = n ∧ k % 6 = j := by omega
      exact ⟨h1, h2, h3 ▸ hj⟩
    · rintro ⟨rfl, rfl, hj⟩
      exact ⟨k % 6, hj, by omega⟩
  rw [← hword]
  simp [Group.writeWords, List.mem_filter]

section
variable (g : Group) {l l' n : Nat}

theorem Group.lane_writeWords (l : Nat) (x : BitVec 192) {words : List Nat} (hn : n < 8) (hwords : ∀ j ∈ words, j < 6) :
    (g.writeWords l n x words).lane l = (g.lane l).putW n x words :=
  LaneView.ext rfl rfl (funext fun m => (g.readW_writeWords l l x words hn m.isLt).trans (if_congr (and_iff_right rfl) rfl rfl))
    (funext fun k => propext ((g.mem_badW_writeWords l l x hn hwords k.isLt).trans (and_congr_right' (not_congr (and_iff_right rfl))))) rfl rfl rfl

theorem Group.lane_writeWords_of_ne (hl : l ≠ l') (x : BitVec 192) {words : List Nat} (hn : n < 8) (hwords : ∀ j ∈ words, j < 6) :
    (g.writeWords l n x words).lane l' = g.lane l' :=
  LaneView.ext rfl rfl (funext fun m => (g.readW_writeWords l l' x words hn m.isLt).trans (if_neg fun h => hl h.1))
    (funext fun k => propext ((g.mem_badW_writeWords l l' x hn hwords k.isLt).trans (and_iff_left fun h => hl h.1))) rfl rfl rfl

theorem Group.mem_badV_writeV (l l' : Nat) (x : W32) (hn : n < 256) {k : Nat} (hk : k < 256) :
    l' * 256 + k ∈ (g.writeV l n x).badV ↔ l' * 256 + k ∈ g.badV ∧ ¬(l = l' ∧ n = k) := by
  have hkey : l' * 256 + k = l * 256 + n ↔ l = l' ∧ n = k := by omega
  rw [← hkey]
  simp [unmark, List.mem_filter]

theorem Group.lane_writeV (l : Nat) (x : W32) (hn : n < 256) : (g.writeV l n x).lane l = (g.lane l).putV n x :=
  LaneView.ext (funext fun m => (g.readV_writeV l n l m x hn m.isLt).trans (if_congr (and_iff_right rfl) rfl rfl))
    (funext fun k => propext ((g.mem_badV_writeV l l x hn k.isLt).trans (and_congr_right' (not_congr (and_iff_right rfl))))) rfl rfl rfl rfl rfl

theorem Group.lane_writeV_of_ne (hl : l ≠ l') (x : W32) (hn : n < 256) : (g.writeV l n x).lane l' = g.lane l' :=
  LaneView.ext (funext fun m => (g.readV_writeV l n l' m x hn m.isLt).trans (if_neg fun h => hl h.1))
    (funext fun k => propext ((g.mem_badV_writeV l l' x hn k.isLt).trans (and_iff_left fun h => hl h.1))) rfl rfl rfl rfl rfl

end

/-- The whole of w written is its six words written (R483). -/
theorem Group.writeW_eq_writeWords (g : Group) (l n : Nat) (x : BitVec 192) : g.writeW l n x = g.writeWords l n x (List.range 6) := by
  have hmarks : unmarkAll g.badW (6 * (l * 8 + n)) 6 = (g.writeWords l n x (List.range 6)).badW := by
    refine List.filter_congr fun k _ => ?_
    rw [Bool.eq_iff_iff]
    simp only [Bool.not_eq_true', Bool.and_eq_false_iff, decide_eq_false_iff_not, List.any_eq_false, List.mem_range, beq_iff_eq]
    constructor
    · intro h j hj
      omega
    · intro h
      have := h (k - 6 * (l * 8 + n))
      omega
  rw [Group.writeW, hmarks, Group.writeWords]

/-- Two groups whose v and w registers agree in a lane. -/
abbrev Group.SameRegs (g h : Group) (l : Nat) : Prop := (g.lane l).v = (h.lane l).v ∧ (g.lane l).w = (h.lane l).w

section
variable {g h : Group} {l n : Nat}

theorem Group.SameRegs.readV (hs : g.SameRegs h l) (hn : n < 256) : g.readV l n = h.readV l n := congrFun hs.1 ⟨n, hn⟩

theorem Group.SameRegs.readW (hs : g.SameRegs h l) (hn : n < 8) : g.readW l n = h.readW l n := congrFun hs.2 ⟨n, hn⟩

theorem Group.SameRegs.readWide (hs : g.SameRegs h l) {w : Nat} (hn : n + w ≤ 256) : g.readWide l n w = h.readWide l n w :=
  Group.readWide_congr fun _ _ hk => hs.readV (by omega)

theorem Group.sameRegs_of_lane (hl : g.lane l = h.lane l) : g.SameRegs h l := ⟨congrArg LaneView.v hl, congrArg LaneView.w hl⟩

end

/-- A step of a group that changes the lane it acts for only, raises flags, and does both by what that lane holds. -/
structure LaneLocal (step : Group → Nat → Group) (after : Group → Nat → LaneView) (raised : Group → Nat → Flags) : Prop where
  other : ∀ g k l, k ≠ l → (step g k).lane l = g.lane l
  own : ∀ g l, (step g l).lane l = after g l
  flags : ∀ g l, (step g l).flags = g.flags ||| raised g l
  rests : ∀ g h l, g.lane l = h.lane l → after g l = after h l ∧ raised g l = raised h l

namespace LaneLocal

variable {step : Group → Nat → Group} {after : Group → Nat → LaneView} {raised : Group → Nat → Flags}
  (h : LaneLocal step after raised) {ls : List Nat} (hls : ls.Nodup) (g : Group) {l : Nat}
include h hls

theorem lane_foldl : (ls.foldl step g).lane l = if l ∈ ls then after g l else g.lane l := by
  rw [foldl_lanes h.other (fun s t l hl => by rw [h.own, h.own, (h.rests s t l hl).1]) hls, h.own]

theorem lane_foldl_of_mem (hl : l ∈ ls) : (ls.foldl step g).lane l = after g l := (h.lane_foldl hls g).trans (if_pos hl)

theorem lane_foldl_of_not_mem (hl : l ∉ ls) : (ls.foldl step g).lane l = g.lane l := (h.lane_foldl hls g).trans (if_neg hl)

theorem flags_foldl : (ls.foldl step g).flags = (ls.map (raised g)).foldl (fun a b => a ||| b) g.flags :=
  foldl_lanes_gather h.other h.flags (fun s t l hl => (h.rests s t l hl).2) hls g

end LaneLocal

/-! ## The frame (R217, R301) -/

/-- A lane's draw, if the instruction draws. -/
def Group.drawIf (g : Group) (draws : Bool) (l : Nat) : Nat × Group := if draws then ((g.draw l).1.toNat, (g.draw l).2) else (0, g)

/-- One lane's part of a reservoir instruction. -/
def Group.resStep (draws : Bool) (act : Group → Nat → Nat → Group × Flags) (g : Group) (l : Nat) : Group :=
  (act (g.drawIf draws l).2 l (g.drawIf draws l).1).1.raiseFlags [(act (g.drawIf draws l).2 l (g.drawIf draws l).1).2]

theorem Group.drawIf_exists (g : Group) (draws : Bool) (l : Nat) : ∃ c, (g.drawIf draws l).2 = { g with counter := c } := by
  cases draws
  · exact ⟨g.counter, rfl⟩
  · exact ⟨_, rfl⟩

theorem Group.lane_drawIf (g : Group) (draws : Bool) (l : Nat) : (g.drawIf draws l).2.lane l = (g.lane l).drawn draws := by
  cases draws with
  | false => exact LaneView.ext rfl rfl rfl rfl rfl rfl (BitVec.add_zero _).symm
  | true => exact LaneView.ext rfl rfl rfl rfl rfl rfl ((Map.getD_set ..).trans (if_pos rfl))

theorem Group.lane_drawIf_of_ne (g : Group) (draws : Bool) {l l' : Nat} (hl : l ≠ l') : (g.drawIf draws l).2.lane l' = g.lane l' := by
  cases draws with
  | false => rfl
  | true => exact LaneView.ext rfl rfl rfl rfl rfl rfl ((Map.getD_set ..).trans (if_neg hl))

theorem Group.lane_raiseFlags (g : Group) (fl : List Flags) (l : Nat) : (g.raiseFlags fl).lane l = g.lane l := rfl

section
variable {s : State} {g : Group} {t : Team} {pc : W64} {run : BitVec 64} {i : Instr} {gd : Guard} {vr vw : List (Nat × Nat)}
  {wr : List (Nat × List Nat)} {ww : List Nat} {draws : Bool} {act : Group → Nat → Nat → Group × Flags}

/-- A reservoir instruction that nothing stops acts in each active lane and moves its run on. -/
theorem resFrame_ready (h : s.Issues g t pc run) (hb : usesB0 i = false) (hr : g.ResReady (g.active run gd) vr vw wr ww draws) :
    resFrame i gd vr vw wr ww draws s act =
      .next (s.setGroup s.focus (((lanesOf (g.active run gd)).foldl (Group.resStep draws act) g).place run [(pc + 8, run)])) := by
  obtain ⟨hv, hw, hwords, hblocked⟩ := hr
  have hbudget : ((vr ++ vw).all (fun e => decide (e.1 + e.2 ≤ g.lbud)) &&
      (wr.map (fun e => e.1) ++ ww).all (fun n => decide (n < g.wbud))) = true := by
    simp only [Bool.and_eq_true, List.all_eq_true, decide_eq_true_eq]
    exact ⟨hv, hw⟩
  unfold resFrame
  rw [withIssue_issues h i 8 _ hb]
  refine (if_neg (by simp only [hbudget]; decide)).trans ((if_neg (Bool.eq_false_iff.1 hblocked)).trans
    ((if_neg (Bool.eq_false_iff.1 hwords)).trans ?_))
  cases draws <;> rfl

end

end Sys2Proof.Machine
end

section
/-! PROOFS. What the reservoir instructions write, and that they do nothing else (R301 to R305). -/

namespace Sys2Proof.Machine

/-! ## Instructions that write a w register (R301) -/

/-- The group without its w registers and their marks, its flags and its counters of draws. -/
def Group.besideW (g : Group) : Group := { g with w := [], badW := [], flags := 0, counter := [] }

theorem Group.eq_of_besideW {g h : Group} (hkept : h.besideW = g.besideW) :
    { h with w := g.w, badW := g.badW, flags := g.flags, counter := g.counter } = g :=
  (congrArg (fun k : Group => ({ k with w := g.w, badW := g.badW, flags := g.flags, counter := g.counter } : Group)) hkept :)

/-- An instruction's action in a lane writes register w. What it writes, and which words of it, rests on the lane's own registers, and on the
draw only if the instruction draws. -/
structure WritesW (draws : Bool) (w : Nat) (act : Group → Nat → Nat → Group × Flags) (out : Group → Nat → Nat → BitVec 192 × Flags)
    (words : Group → Nat → Nat → List Nat) : Prop where
  act_eq : ∀ g l d, act g l d = (g.writeWords l w (out g l d).1 (words g l d), (out g l d).2)
  words_lt : ∀ g l d, ∀ j ∈ words g l d, j < 6
  own : ∀ (g h : Group) (l d : Nat), g.SameRegs h l → out g l d = out h l d ∧ words g l d = words h l d
  undrawn : draws = false → ∀ (g : Group) (l d e : Nat), out g l d = out g l e ∧ words g l d = words g l e

namespace WritesW

variable {draws : Bool} {w : Nat} {act : Group → Nat → Nat → Group × Flags} {out : Group → Nat → Nat → BitVec 192 × Flags}
  {words : Group → Nat → Nat → List Nat} (h : WritesW draws w act out words)
include h

theorem at_draw (g : Group) (l : Nat) :
    out (g.drawIf draws l).2 l (g.drawIf draws l).1 = out g l (g.lane l).draw ∧
      words (g.drawIf draws l).2 l (g.drawIf draws l).1 = words g l (g.lane l).draw := by
  cases draws with
  | false => exact h.undrawn rfl g l _ _
  | true => exact h.own _ _ l _ ⟨rfl, rfl⟩

theorem resStep_eq (g : Group) (l : Nat) :
    Group.resStep draws act g l =
      ((g.drawIf draws l).2.writeWords l w (out g l (g.lane l).draw).1 (words g l (g.lane l).draw)).raiseFlags [(out g l (g.lane l).draw).2] := by
  rw [Group.resStep, h.act_eq, (h.at_draw g l).1, (h.at_draw g l).2]

/-- Beside w registers and their marks, the flags and the counters a lane's part changes nothing. -/
theorem besideW_resStep (g : Group) (l : Nat) : (Group.resStep draws act g l).besideW = g.besideW := by
  obtain ⟨c, hc⟩ := g.drawIf_exists draws l
  rw [h.resStep_eq, hc]
  rfl

variable (hw : w < 8)
include hw

theorem laneLocal : LaneLocal (Group.resStep draws act)
    (fun g l => ((g.lane l).drawn draws).putW w (out g l (g.lane l).draw).1 (words g l (g.lane l).draw)) fun g l => (out g l (g.lane l).draw).2 where
  other g k l hkl := by
    rw [h.resStep_eq, Group.lane_raiseFlags, Group.lane_writeWords_of_ne _ hkl _ hw (h.words_lt g k _), g.lane_drawIf_of_ne draws hkl]
  own g l := by
    rw [h.resStep_eq, Group.lane_raiseFlags, Group.lane_writeWords _ l _ hw (h.words_lt g l _), g.lane_drawIf]
  flags g l := by
    obtain ⟨c, hc⟩ := g.drawIf_exists draws l
    rw [h.resStep_eq, hc]
    rfl
  rests g g1 l hl := by
    obtain ⟨hout, hwords⟩ := h.own g g1 l (g1.lane l).draw (Group.sameRegs_of_lane hl)
    rw [hl, hout, hwords]
    exact ⟨rfl, rfl⟩

/-- The instruction writes its reservoir in each active lane and does nothing else. -/
theorem writesRes {i : Instr} {gd : Guard} {vr : List (Nat × Nat)} {wr : List (Nat × List Nat)} (hb : usesB0 i = false)
    (hexec : ∀ s, exec i s = resFrame i gd vr [] wr [w] draws s act) : WritesRes i gd vr wr draws w out words := by
  intro s g t pc run hissue hready
  dsimp only
  have hnodup := lanesOf_nodup (g.active run gd)
  have hin := fun l => (h.laneLocal hw).lane_foldl_of_mem hnodup g (l := l)
  have hout := fun l => (h.laneLocal hw).lane_foldl_of_not_mem hnodup g (l := l)
  have hflags := (h.laneLocal hw).flags_foldl hnodup g
  have hkept := foldl_keeps h.besideW_resStep (lanesOf (g.active run gd)) g
  refine ⟨_, (hexec s).trans (resFrame_ready hissue hb hready), fun l n hn => ?_, hflags, fun l => ?_, fun k => ?_, ?_⟩
  · by_cases hl : l ∈ lanesOf (g.active run gd)
    · refine (congrArg (LaneView.w · ⟨n, hn⟩) (hin l hl)).trans (if_congr ?_ rfl rfl)
      simp [hl, eq_comm]
    · exact (congrArg (LaneView.w · ⟨n, hn⟩) (hout l hl)).trans (if_neg fun hc => hl hc.1).symm
  · by_cases hl : l ∈ lanesOf (g.active run gd)
    · refine (congrArg LaneView.counter (hin l hl)).trans (congrArg (g.counter.getD l 0 + ·) (if_congr ?_ rfl rfl))
      simp [hl]
    · refine (congrArg LaneView.counter (hout l hl)).trans ?_
      rw [if_neg fun hc => hl hc.1]
      exact (BitVec.add_zero _).symm
  · rw [Group.mem_badW_iff_lane, g.mem_badW_iff_lane]
    by_cases hl : k / 48 ∈ lanesOf (g.active run gd)
    · rw [hin _ hl, LaneView.badW_putW]
      exact and_congr_right' (not_congr (and_iff_right hl).symm)
    · rw [hout _ hl]
      exact (and_iff_left fun hc => hl hc.1).symm
  · exact Group.eq_of_besideW hkept

end WritesW

/-! ## resup and resmg (R302, R303) -/

theorem Res.writes_lt (r : Res) (draw w : Nat) : ∀ j ∈ r.writes draw w, j < 6 := by
  unfold Res.writes
  split <;> decide

/-- A candidate taken: the count, and what is kept, as the risen sum accepts it or not (R302). -/
theorem Res.take_spec (r : Res) (draw w added sample target : Nat) :
    (r.take draw w added sample target).1.count = min (r.count + added) 0xFFFFFFFF ∧
    (accepts draw (r.take draw w added sample target).1.wsum w = true →
      (r.take draw w added sample target).1.sample = sample ∧ (r.take draw w added sample target).1.target = target) ∧
    (accepts draw (r.take draw w added sample target).1.wsum w = false →
      (r.take draw w added sample target).1.sample = r.sample ∧ (r.take draw w added sample target).1.target = r.target) := by
  have hsum : (r.take draw w added sample target).1.wsum = (saturated (f32.add .rne 0 r.wsum w)).1 := by
    simp only [Res.take]
    split <;> rfl
  rw [hsum]
  cases hacc : accepts draw (saturated (f32.add .rne 0 r.wsum w)).1 w <;> simp [Res.take, Res.accepted, hacc]

theorem Res.update_of_usable (r : Res) {w : Nat} (hw : unusable (f32.decode w) = false) (draw sample target : Nat) :
    r.update draw w sample target = r.take draw w 1 sample target := if_neg (Bool.eq_false_iff.1 hw)

theorem resup_writesW (w : BitVec 3) (a b c : BitVec 7) : WritesW true w.toNat
    (fun g l d =>
      let old := Res.of (g.readW l w.toNat)
      let x := (g.readV l b.toNat).toNat
      let (r, fl) := old.update d x (g.readWide l a.toNat 3) (g.readV l c.toNat).toNat
      (g.writeWords l w.toNat r.word (if unusable (f32.decode x) then [] else old.writes d x), fl))
    (fun g l d =>
      let r := (Res.of (g.readW l w.toNat)).update d (g.readV l b.toNat).toNat (g.readWide l a.toNat 3) (g.readV l c.toNat).toNat
      (r.1.word, r.2))
    fun g l d => if unusable (f32.decode (g.readV l b.toNat).toNat) then [] else (Res.of (g.readW l w.toNat)).writes d (g.readV l b.toNat).toNat where
  act_eq _ _ _ := rfl
  words_lt g l d := by
    split
    · simp
    · exact Res.writes_lt _ _ _
  own g h l d hs := by
    have ha := a.isLt
    have hb := b.isLt
    have hc := c.isLt
    simp only [hs.readW w.isLt, hs.readV (show b.toNat < 256 by omega), hs.readV (show c.toNat < 256 by omega),
      hs.readWide (show a.toNat + 3 ≤ 256 by omega), and_self]
  undrawn h := absurd h (by decide)

theorem resmg_writesW (wd wa : BitVec 3) (c : BitVec 7) : WritesW true wd.toNat
    (fun g l d =>
      let old := Res.of (g.readW l wd.toNat)
      let src := Res.of (g.readW l wa.toNat)
      let p := (g.readV l c.toNat).toNat
      let (r, fl) := old.merge src d p
      (g.writeWords l wd.toNat r.word (if unusable (f32.decode p) then [] else old.writes d (mergeWeight src p).1), fl))
    (fun g l d =>
      let r := (Res.of (g.readW l wd.toNat)).merge (Res.of (g.readW l wa.toNat)) d (g.readV l c.toNat).toNat
      (r.1.word, r.2))
    fun g l d => if unusable (f32.decode (g.readV l c.toNat).toNat) then []
      else (Res.of (g.readW l wd.toNat)).writes d (mergeWeight (Res.of (g.readW l wa.toNat)) (g.readV l c.toNat).toNat).1 where
  act_eq _ _ _ := rfl
  words_lt g l d := by
    split
    · simp
    · exact Res.writes_lt _ _ _
  own g h l d hs := by
    have hc := c.isLt
    simp only [hs.readW wd.isLt, hs.readW wa.isLt, hs.readV (show c.toNat < 256 by omega), and_self]
  undrawn h := absurd h (by decide)

/-! ## resset, resclr and resget (R305) -/

theorem sub_and_eq_and_not {n : Nat} (x m : BitVec n) : x - (x &&& m) = x &&& ~~~m := by
  have hdisjoint : (x &&& ~~~m) &&& (x &&& m) = 0#n := by
    ext i hi
    cases hm : m[i] <;> simp [hm]
  have hsum : (x &&& ~~~m) + (x &&& m) = x := by
    rw [BitVec.add_eq_or_of_and_eq_zero _ _ hdisjoint]
    ext i hi
    cases hm : m[i] <;> simp [hm]
  exact (BitVec.eq_sub_iff_add_eq.2 hsum).symm

theorem ofNat_shiftLeft (n x k : Nat) : BitVec.ofNat n (x <<< k) = BitVec.ofNat n x <<< k := by
  apply BitVec.eq_of_toNat_eq
  simp [Nat.shiftLeft_eq, Nat.mul_mod]

/-- A word in which a field of n registers from bit lo up is replaced. -/
theorem ofNat_replace_field (old : BitVec 192) (x n lo : Nat) :
    BitVec.ofNat 192 ((old.toNat - (old.toNat &&& (2 ^ (32 * n) - 1) <<< lo)) ||| x <<< lo) =
      (old &&& ~~~(BitVec.ofNat 192 (2 ^ (32 * n) - 1) <<< lo)) ||| BitVec.ofNat 192 x <<< lo := by
  generalize 2 ^ (32 * n) - 1 = m
  have hmask : old.toNat &&& m <<< lo = (old &&& BitVec.ofNat 192 (m <<< lo)).toNat := by
    rw [BitVec.toNat_and, BitVec.toNat_ofNat, ← Nat.mod_eq_of_lt (Nat.and_le_left.trans_lt old.isLt), Nat.and_mod_two_pow,
      Nat.mod_eq_of_lt old.isLt]
  have hle : old &&& BitVec.ofNat 192 (m <<< lo) ≤ old := by
    rw [BitVec.le_def, BitVec.toNat_and]
    exact Nat.and_le_left
  rw [BitVec.ofNat_or, hmask, ← BitVec.toNat_sub_of_le hle, BitVec.ofNat_toNat, BitVec.setWidth_eq, sub_and_eq_and_not,
    ofNat_shiftLeft, ofNat_shiftLeft]

/-- The words of a field lie among the six of a reservoir, and its registers among v0 to v255. -/
theorem resField_lt (field : BitVec 3) : (resField field).1 ≤ 6 ∧ ∀ j ∈ fieldWords field, j < 6 := by
  revert field
  decide

theorem resset_writesW (w : BitVec 3) (a : BitVec 7) (field : BitVec 3) : WritesW false w.toNat
    (fun g l _ =>
      let old := (g.readW l w.toNat).toNat
      let mask := (2 ^ (32 * (resField field).1) - 1) <<< (resField field).2
      (g.writeWords l w.toNat (BitVec.ofNat 192 ((old - (old &&& mask)) ||| ((g.readWide l a.toNat (resField field).1) <<< (resField field).2)))
        (fieldWords field), 0))
    (fun g l _ =>
      let m : BitVec 192 := BitVec.ofNat 192 (2 ^ (32 * (resField field).1) - 1) <<< (resField field).2
      ((g.readW l w.toNat &&& ~~~m) ||| (BitVec.ofNat 192 (g.readWide l a.toNat (resField field).1) <<< (resField field).2), 0))
    fun _ _ _ => fieldWords field where
  act_eq g l _ := Prod.ext (congrArg (g.writeWords l w.toNat · (fieldWords field)) (ofNat_replace_field _ _ _ _)) rfl
  words_lt _ _ _ := (resField_lt field).2
  own g h l _ hs := by
    have ha := a.isLt
    have hn := (resField_lt field).1
    simp only [hs.readW w.isLt, hs.readWide (show a.toNat + (resField field).1 ≤ 256 by omega), and_self]
  undrawn _ _ _ _ _ := ⟨rfl, rfl⟩

theorem resclr_writesW (w : BitVec 3) :
    WritesW false w.toNat (fun g l _ => (g.writeW l w.toNat 0, 0)) (fun _ _ _ => (0, 0)) fun _ _ _ => List.range 6 where
  act_eq g l _ := Prod.ext (g.writeW_eq_writeWords l w.toNat 0) rfl
  words_lt _ _ _ _ hj := List.mem_range.1 hj
  own _ _ _ _ _ := ⟨rfl, rfl⟩
  undrawn _ _ _ _ _ := ⟨rfl, rfl⟩

theorem Group.raiseFlags_zero (g : Group) : g.raiseFlags [0] = g := by
  simp [Group.raiseFlags]

section
variable {s : State} {g : Group} {t : Team} {pc : W64} {run : BitVec 64} {d : BitVec 7} {w field : BitVec 3} {cap : BitVec 16} {gd : Guard}

/-- resget writes each active lane's field into its v registers. -/
theorem exec_resget (h : s.Issues g t pc run)
    (hready : g.ResReady (g.active run gd) [] [(d.toNat, (resField field).1)] [(w.toNat, fieldWords field)] [] false) :
    exec (.resget d w field gd) s = .next (s.setGroup s.focus
      ((g.writeRuns (lanesOf (g.active run gd)) (fun _ => d.toNat) (resField field).1
        fun l => (g.readW l w.toNat).toNat >>> (resField field).2).place run [(pc + 8, run)])) := by
  have hexec : exec (.resget d w field gd) s =
      resFrame (.resget d w field gd) gd [] [(d.toNat, (resField field).1)] [(w.toNat, fieldWords field)] [] false s fun g l _ =>
        (g.writeWide l d.toNat (resField field).1 ((g.readW l w.toNat).toNat >>> (resField field).2), 0) := rfl
  have hstep : (Group.resStep false fun g l _ => (g.writeWide l d.toNat (resField field).1 ((g.readW l w.toNat).toNat >>> (resField field).2), 0)) =
      fun g l => g.writeWide l d.toNat (resField field).1 ((g.readW l w.toNat).toNat >>> (resField field).2) :=
    funext fun g => funext fun l => Group.raiseFlags_zero _
  rw [hexec, resFrame_ready h rfl hready, hstep,
    g.foldl_writeWide_eq_writeRuns (fun h l => (h.readW l w.toNat).toNat >>> (resField field).2) fun _ _ _ => rfl]

theorem ofNat_word_of_field (x : BitVec 192) (lo k : Nat) :
    BitVec.ofNat 32 (x.toNat >>> lo / 2 ^ (32 * k)) = x.extractLsb' (lo + 32 * k) 32 := by
  apply BitVec.eq_of_toNat_eq
  rw [BitVec.extractLsb'_toNat, BitVec.toNat_ofNat, Nat.shiftRight_add, Nat.shiftRight_eq_div_pow _ (32 * k)]

/-! ## resfin (R304) -/

/-- The words of a reservoir that capping writes. -/
def Res.cappedWords (r : Res) (cap : Nat) : List Nat := if cap ≠ 0 ∧ cap < r.count then [0, 1] else []

theorem Res.mem_cappedWords (r : Res) (cap j : Nat) : j ∈ r.cappedWords cap ↔ j < 2 ∧ cap ≠ 0 ∧ cap < r.count := by
  unfold Res.cappedWords
  by_cases hcap : cap ≠ 0 ∧ cap < r.count
  · rw [if_pos hcap, and_iff_left hcap]
    simp
    omega
  · rw [if_neg hcap]
    simp [hcap]

/-- The flags of resfin in a lane: those of the cap and those of the weight. -/
def Group.finFlags (w cap : Nat) (g : Group) (l : Nat) : Flags :=
  let r := (Res.of (g.readW l w)).capped cap
  r.2 ||| r.1.final.2

/-- resfin in one lane: its capped reservoir, and the weight in a v register. -/
def Group.finRegs (d w cap : Nat) (g : Group) (l : Nat) : Group :=
  let old := Res.of (g.readW l w)
  (g.writeWords l w (old.capped cap).1.word (old.cappedWords cap)).writeV l d (w32 (old.capped cap).1.final.1)

def Group.finStep (d w cap : Nat) (g : Group) (l : Nat) : Group := (g.finRegs d w cap l).raiseFlags [g.finFlags w cap l]

/-- A lane after resfin. -/
def Group.finLane (d w cap : Nat) (g : Group) (l : Nat) : LaneView :=
  let old := Res.of (g.readW l w)
  ((g.lane l).putW w (old.capped cap).1.word (old.cappedWords cap)).putV d (w32 (old.capped cap).1.final.1)

theorem Group.finStep_local {d w : Nat} (hd : d < 256) (hw : w < 8) (cap : Nat) :
    LaneLocal (Group.finStep d w cap) (Group.finLane d w cap) (Group.finFlags w cap) := by
  have hwords : ∀ r : Res, ∀ j ∈ r.cappedWords cap, j < 6 := fun r j hj => by
    have := ((r.mem_cappedWords cap j).1 hj).1
    omega
  refine ⟨fun g k l hkl => ?_, fun g l => ?_, fun g l => rfl, fun g h l hl => ?_⟩
  · rw [Group.finStep, Group.lane_raiseFlags, Group.finRegs, Group.lane_writeV_of_ne _ hkl _ hd, g.lane_writeWords_of_ne hkl _ hw (hwords _)]
  · rw [Group.finStep, Group.lane_raiseFlags, Group.finRegs, Group.lane_writeV _ _ _ hd, g.lane_writeWords _ _ hw (hwords _), Group.finLane]
  · have hread := (Group.sameRegs_of_lane hl).readW hw
    rw [Group.finLane, Group.finLane, Group.finFlags, Group.finFlags, hl, hread]
    exact ⟨rfl, rfl⟩

/-- The group without its v and w registers, their marks, and its flags. -/
def Group.besideVW (g : Group) : Group := { g with v := [], badV := [], w := [], badW := [], flags := 0 }

theorem Group.besideVW_finStep (d w cap : Nat) (g : Group) (l : Nat) : (Group.finStep d w cap g l).besideVW = g.besideVW := by
  simp only [Group.besideVW, Group.finStep, Group.finRegs, Group.raiseFlags, Group.writeV, Group.writeWords]

theorem Group.eq_of_besideVW {g h : Group} (hkept : h.besideVW = g.besideVW) :
    { h with w := g.w, v := g.v, badW := g.badW, badV := g.badV, flags := g.flags } = g :=
  (congrArg (fun k : Group => ({ k with w := g.w, v := g.v, badW := g.badW, badV := g.badV, flags := g.flags } : Group)) hkept :)

theorem exec_resfin (h : s.Issues g t pc run) (hready : g.ResReady (g.active run gd) [] [(d.toNat, 1)] [(w.toNat, [0, 1, 2])] [w.toNat] false) :
    exec (.resfin d w cap gd) s = .next (s.setGroup s.focus
      (((lanesOf (g.active run gd)).foldl (Group.finStep d.toNat w.toNat cap.toNat) g).place run [(pc + 8, run)])) := by
  have hexec : exec (.resfin d w cap gd) s = resFrame (.resfin d w cap gd) gd [] [(d.toNat, 1)] [(w.toNat, [0, 1, 2])] [w.toNat] false s fun g l _ =>
      (g.finRegs d.toNat w.toNat cap.toNat l, g.finFlags w.toNat cap.toNat l) := rfl
  rw [hexec, resFrame_ready h rfl hready]
  rfl

end

/-- Settles O38: an instruction that writes a reservoir by its action in one lane, resfin and resget by what they write in each. -/
theorem reservoirs : Obligations.Reservoirs := by
  unfold Obligations.Reservoirs
  refine ⟨fun w a b c gd => (resup_writesW w a b c).writesRes w.isLt rfl fun _ => rfl,
    fun wd wa c gd => (resmg_writesW wd wa c).writesRes wd.isLt rfl fun _ => rfl,
    fun w a field gd => (resset_writesW w a field).writesRes w.isLt rfl fun _ => rfl,
    fun w gd => (resclr_writesW w).writesRes w.isLt rfl fun _ => rfl, ?fin, ?get,
    fun r src draw w target sample hw => ⟨if_pos hw, if_pos hw⟩,
    fun r draw w target sample hw => by rw [r.update_of_usable hw]; exact r.take_spec draw w 1 sample target⟩
  case fin =>
    intro s g t pc run d w cap gd h hready
    dsimp only
    have hd : d.toNat < 256 := by have := d.isLt; omega
    have hnodup := lanesOf_nodup (g.active run gd)
    have hlocal := Group.finStep_local hd w.isLt cap.toNat
    have hin := fun l => hlocal.lane_foldl_of_mem hnodup g (l := l)
    have hout := fun l => hlocal.lane_foldl_of_not_mem hnodup g (l := l)
    refine ⟨_, exec_resfin h hready, fun l n hn => ?_, fun l n hn => ?_, hlocal.flags_foldl hnodup g, fun k => ?_, fun l n hn => ?_,
      Group.eq_of_besideVW (foldl_keeps (Group.besideVW_finStep _ _ _) _ g)⟩
    · by_cases hl : l ∈ lanesOf (g.active run gd)
      · refine (congrArg (LaneView.w · ⟨n, hn⟩) (hin l hl)).trans (if_congr ?_ rfl rfl)
        simp [hl, eq_comm]
      · exact (congrArg (LaneView.w · ⟨n, hn⟩) (hout l hl)).trans (if_neg fun hc => hl hc.1).symm
    · by_cases hl : l ∈ lanesOf (g.active run gd)
      · refine (congrArg (LaneView.v · ⟨n, hn⟩) (hin l hl)).trans (if_congr ?_ rfl rfl)
        simp [hl, eq_comm]
      · exact (congrArg (LaneView.v · ⟨n, hn⟩) (hout l hl)).trans (if_neg fun hc => hl hc.1).symm
    · rw [Group.mem_badW_iff_lane, g.mem_badW_iff_lane, ← Res.mem_cappedWords]
      by_cases hl : k / 48 ∈ lanesOf (g.active run gd)
      · rw [hin _ hl]
        exact (LaneView.badW_putW _ w.toNat ((Res.of (g.readW (k / 48) w.toNat)).capped cap.toNat).1.word _ k).trans
          (and_congr_right' (not_congr (and_iff_right hl).symm))
      · rw [hout _ hl]
        exact (and_iff_left fun hc => hl hc.1).symm
    · by_cases hl : l ∈ lanesOf (g.active run gd)
      · refine (iff_of_eq (congrArg (LaneView.badV · ⟨n, hn⟩) (hin l hl))).trans (and_congr_right' (not_congr ?_))
        simp [hl, eq_comm]
      · exact (iff_of_eq (congrArg (LaneView.badV · ⟨n, hn⟩) (hout l hl))).trans (and_iff_left fun hc => hl hc.1).symm
  case get =>
    intro s g t pc run d w field gd h hready hd
    have hrun : ∀ _ : Nat, d.toNat + (resField field).1 ≤ 256 := fun _ => hd
    refine ⟨_, exec_resget h hready, fun l k hl hk => ?_, fun l n hn hout => ?_, fun l n hn => Group.mem_badV_writeRuns hrun g _ l hn,
      g.writeRuns_frame _⟩
    · exact (Group.readV_writeRuns_of_mem hrun g hl hk).trans (ofNat_word_of_field _ _ k)
    · exact (Group.readV_writeRuns hrun g _ l hn).trans (if_neg hout)

end Sys2Proof.Machine
end
